-- ==== Sys2Proof/Word.lean ====
section
/-!
DEFINITION. The word types of the WX-3 (R7, R131, R134): registers hold 64-bit words, vector registers and wide
ports hold 1,024-bit values, latch columns and link-queue rows hold up to 4,096 bits.
-/
namespace Sys2Proof

/-- A 64-bit register, port, latch or spill slot (R31, R134). -/
abbrev Word := BitVec 64

/-- A byte of HBM (R7). -/
abbrev Byte := BitVec 8

/-- A 1,024-bit vector register, wide port or scratchpad row (R134, R190). -/
abbrev Wide := BitVec 1024

/-- A 4,096-bit latch column or link-queue row (R252, R260). -/
abbrev Col := BitVec 4096

/-- A 12-bit instruction-memory index (R129). -/
abbrev Pc := BitVec 12

end Sys2Proof
end

