-- ==== Sys2Proof/Syntax.lean ====
section
/-!
DEFINITION. The steps of the WX-3: one constructor of `Instr` for every row of spec/opcode_table.json, in the
table's order, with the operands each step takes. Events of the device take what they act on (a queue, a core, a
register write) as operands; unit operations take the trigger that starts them.
-/
namespace Sys2Proof

/-- Who makes an access to a device register (R75, R106, R366, R382). -/
inductive Agent
  | root                        -- root firmware
  | mgmt (k : Nat)              -- management core 1 or 2
  | host (port : Nat)           -- a host port, with the rights of the system context (R382)
  | strand (ctx core : Nat)     -- a strand of a context, through GM.drd and GM.dwr
  deriving DecidableEq, Repr

/-- The trigger of a narrow unit operation (R156, R163): the core, the slot of the move, which copy of a unit pair,
whether CU.ckpt is effective in the bundle (R159), and the triggering value y. -/
structure Trig where
  core : Nat
  slot : Nat
  copy : Bool
  ckpt : Bool
  y : Word
  deriving DecidableEq, Repr

/-- The trigger of a vector operation (R159, R277): its value is 1,024 bits wide. -/
structure WTrig where
  core : Nat
  slot : Nat
  y : Wide
  deriving DecidableEq, Repr

/-- A beat of the matrix slot (R150). -/
structure Beat where
  core : Nat
  opnd : Nat
  latch : Nat
  bank : Nat
  row : Nat
  rmode : Nat
  deriving DecidableEq, Repr

/-- A firmware image (R77): kind (true for root), security version, body and signature. -/
structure FwImage where
  root : Bool
  version : Nat
  body : List Byte
  sig : List Byte
  deriving DecidableEq, Repr, Inhabited

/-- A packet of the fabric (R300): the header's fields, `flits` being the payload flits, and the payload; `via` and `gate` are
what the choice of its path has fixed, an intermediate member and a gateway (R296). -/
structure Packet where
  tier : Nat
  resp : Bool
  hop : Nat
  tdom : Nat
  tmem : Nat
  sdom : Nat
  smem : Nat
  op : Nat
  cls : Nat
  tctx : Nat
  score : Nat
  seq : Nat
  qual : Nat
  scope : Nat
  tag : Nat
  len : Nat
  nc : Bool
  addr : Nat
  data : Word
  x4 : Word
  x5 : Word
  x6 : Word
  x7 : Word
  body : BitVec 4096
  flits : Nat
  via : Option Nat
  gate : Option Nat
  deriving DecidableEq, Repr

/-- Where an arriving packet comes from: the k-th packet this package sent to itself, or another package. -/
inductive Arrival
  | loop (k : Nat)
  | ext (p : Packet)
  deriving DecidableEq, Repr

/-- A host access through a BAR or CXL.mem: port, write or read, byte offset, length in bytes, data. -/
structure HostAcc where
  port : Nat
  wr : Bool
  off : Nat
  len : Nat
  data : Nat
  deriving DecidableEq, Repr

/-- Every step of spec/opcode_table.json. -/
inductive Instr
  -- the package, the host link and power
  | coldReset
  | recoveryImage (img : FwImage)
  | linkReset (port : Nat)
  | configRequest (a : HostAcc)
  | bar0Access (a : HostAcc)
  | bar2Access (a : HostAcc)
  | bar4Access (a : HostAcc)
  | cxlMemAccess (a : HostAcc)
  | powerSample (watts t0 t1 t2 t3 : Nat)
  | levelRaiseTick
  | levelLowerTick
  | thermalFloorTick (die : Nat)
  | thermtrip
  | notifyGate
  | notifyUngate
  -- device registers
  | registerWrite (ag : Agent) (addr : Nat) (v : Word)
  | qdStateRunning (ag : Agent) (q : Nat) (v : Word)
  | qdStateHalted (ag : Agent) (q : Nat) (v : Word)
  | qdStateUnmapped (ag : Agent) (q : Nat) (v : Word)
  | qd1Write (ag : Agent) (q : Nat) (v : Word)
  | qd3Write (ag : Agent) (q : Nat) (v : Word)
  | programStoreWrite (ag : Agent) (h j : Nat) (v : Word)
  | fePctlCheck (ag : Agent) (h len : Nat)
  | fePctlRelease (ag : Agent) (h : Nat)
  | clrlost (ag : Agent)
  | xlInvEntry (ag : Agent) (tgt : Bool) (size : Nat)
  | xlInvContext (ag : Agent)
  | xlInvAll (ag : Agent)
  | invalidationComplete
  | mtuResolveRetry (ag : Agent) (m idx : Nat)
  | mtuResolveRefuse (ag : Agent) (m idx : Nat)
  | xrCtlLoad (ag : Agent) (tmo : Nat)
  | notifyWake (ag : Agent) (b j : Nat) (w : BitVec 48)
  | barrierNeedWrite (ag : Agent) (i need : Nat)
  | barrierArrive (ag : Agent) (i u : Nat)
  -- the front end
  | queuePoll (q : Nat)
  | packetRun (k : Nat)
  | rootCounterWaitEnd (k : Nat)
  | lerantHalt
  | ldpk (a : BitVec 3) (k : BitVec 4)
  | ldi (a : BitVec 3) (v : BitVec 20)
  | shin (a : BitVec 3) (v : BitVec 20)
  | lerantMov (a b : BitVec 3)
  | lerantAdd (a b : BitVec 3)
  | lerantSub (a b : BitVec 3)
  | lerantAnd (a b : BitVec 3)
  | lerantOr (a b : BitVec 3)
  | ext (a b : BitVec 3) (h l : BitVec 6)
  | addi (a : BitVec 3) (v : BitVec 20)
  | bz (a : BitVec 3) (d : BitVec 8)
  | bnz (a : BitVec 3) (d : BitVec 8)
  | beq (a b : BitVec 3) (d : BitVec 8)
  | bltu (a b : BitVec 3) (d : BitVec 8)
  | rep (a : BitVec 3) (n : BitVec 6) (k : BitVec 5)
  | ldsc (a : BitVec 3) (k : BitVec 5)
  | stsc (a : BitVec 3) (k : BitVec 5)
  | ldpa (a : BitVec 3) (k : BitVec 6)
  | setf (a : BitVec 3) (f : BitVec 5)
  | emitLaunch
  | emitTransfer
  | emitPinControl
  | emitResynchronise
  | emitAttest
  | emitCommitMinVersion
  | lerantRej (v : BitVec 16)
  | lerantStop (v : BitVec 16)
  | lerantTime (a : BitVec 3)
  | requestEnterScoreboard (tag : Nat)
  | requestRetire (tag : Nat)
  | transferRun (tag : Nat)
  | pinCreate (tag : Nat)
  | pinRelease (tag : Nat)
  | classAging (die tag : Nat)
  | teamPlacement (die : Nat)
  | partitionMoveComplete (pin : Nat)
  | inputStreamFill (team : Nat)
  | fillParkTimeout (team : Nat)
  | teamFirstIssue (team : Nat)
  | gangStart (tag : Nat)
  | segmentCopyComplete (core half : Nat)
  | countdownExpiry (core : Nat)
  | parkSwitch (team : Nat)
  | teamSave (team : Nat)
  | teamReady (team : Nat)
  | teamRestore (team : Nat)
  -- the sequencer
  | bundleIssue (core : Nat)
  | move (core slot : Nat) (src : BitVec 9) (dst : BitVec 10)
  | immediateMove (core slot : Nat) (v : Word) (dst : BitVec 10)
  | conditionTree (core : Nat) (h x : BitVec 24)
  | mxNop (core : Nat)
  | mxPush (b : Beat)
  | mxShift (b : Beat)
  | mxAcc (b : Beat)
  | mxDrain (b : Beat)
  | mxDrainz (b : Beat)
  -- integer, multiply and pointer units
  | iaAdd (t : Trig) | iaSub (t : Trig) | iaAnd (t : Trig) | iaOr (t : Trig) | iaXor (t : Trig)
  | iaAndn (t : Trig) | iaShl (t : Trig) | iaShr (t : Trig) | iaSar (t : Trig) | iaRol (t : Trig)
  | iaMin (t : Trig) | iaMax (t : Trig) | iaMinu (t : Trig) | iaMaxu (t : Trig) | iaNeg (t : Trig)
  | iaAbs (t : Trig) | iaClz (t : Trig) | iaCtz (t : Trig) | iaPopc (t : Trig) | iaSxt (t : Trig)
  | iaSel (t : Trig) | iaCmpeq (t : Trig) | iaCmpne (t : Trig) | iaCmplt (t : Trig) | iaCmple (t : Trig)
  | iaCmpltu (t : Trig) | iaCmpleu (t : Trig) | iaTst (t : Trig)
  | imMul (t : Trig) | imMulh (t : Trig) | imMulhu (t : Trig) | imMulhsu (t : Trig)
  | imDiv (t : Trig) | imDivu (t : Trig) | imRem (t : Trig) | imRemu (t : Trig)
  | divideReply (core : Nat)
  | bpPadd (t : Trig) | bpPsub (t : Trig) | bpPdiff (t : Trig) | bpPwset (t : Trig) | bpPcset (t : Trig)
  | bpPchk (t : Trig) | bpPmal (t : Trig) | bpPbyte (t : Trig) | bpPfrom (t : Trig)
  | bpElget (t : Trig) | bpElsgn (t : Trig) | bpElins (t : Trig)
  -- local memory
  | lsLd (t : Trig) | lsLds (t : Trig) | lsSt (t : Trig) | lsLdv (t : Trig) | lsStv (t : Trig)
  | lsLdpr (t : Trig) | lsLdprs (t : Trig) | lsStm (t : Trig) | lsTlook (t : Trig) | lsTset (t : Trig)
  | lsTclr (t : Trig) | lsTget (t : Trig) | lsTscout (t : Trig) | lsSwap (t : Trig) | lsBor (t : Trig)
  | lsZero (t : Trig)
  | peerAccessPerform (core id : Nat)
  -- global memory
  | gmLd (t : Trig) | gmLds (t : Trig) | gmSt (t : Trig) | gmCas (t : Trig) | gmSwap (t : Trig)
  | gmAdd (t : Trig) | gmFadd (t : Trig) | gmMin (t : Trig) | gmMax (t : Trig) | gmMinu (t : Trig)
  | gmMaxu (t : Trig) | gmAnd (t : Trig) | gmOr (t : Trig) | gmXor (t : Trig) | gmIncb (t : Trig)
  | gmPref (t : Trig) | gmDrd (t : Trig) | gmDwr (t : Trig)
  | longLatencyReply (core id part : Nat)
  | withheldEntrySend (core id : Nat)
  | faultRecordWrite (m : Nat)
  -- the fabric
  | rmRld (t : Trig) | rmRst (t : Trig) | rmRred (t : Trig) | rmMcast (t : Trig) | rmXsig (t : Trig)
  | rmBar (t : Trig) | rmGrpset (t : Trig) | rmGrpclr (t : Trig) | rmGrpretire (t : Trig)
  | rmXperm (t : Trig) | rmLqbind (t : Trig) | rmLqfree (t : Trig)
  | rldDeadline (core : Nat)
  | fabtimeout (core id : Nat)
  | fabricPortDown (port : Nat)
  | packetForward (k : Nat)
  | loadRequest (a : Arrival)
  | storeRequest (a : Arrival)
  | addRequest (a : Arrival)
  | barrierArrival (a : Arrival)
  | linkRow (a : Arrival)
  | connect (a : Arrival)
  | credit (a : Arrival)
  | linkRowSend (core lq : Nat)
  | reply (a : Arrival)
  | acknowledgement (a : Arrival)
  | parkNotice (a : Arrival)
  | errorResponse (a : Arrival)
  | contribution (a : Arrival)
  | withdrawal (a : Arrival)
  | groupSetPacket (a : Arrival)
  | groupClearPacket (a : Arrival)
  | groupRetirePacket (a : Arrival)
  | groupTimeout (grp : Nat)
  | completionNotice (a : Arrival)
  | xpermData (a : Arrival)
  | xpermCopy (k : Nat)
  | xpermTimeout (k : Nat)
  -- streams
  | seSbind (t : Trig) | seSgrp (t : Trig) | seSstart (t : Trig) | seSstop (t : Trig) | seSseek (t : Trig)
  | seSstat (t : Trig) | seSflush (t : Trig) | seSskip (t : Trig) | seSfree (t : Trig) | seSwait (t : Trig)
  | streamReadIssue (core ch : Nat)
  | streamItemArrival (core ch k : Nat)
  | streamOutputWrite (core ch : Nat)
  -- vector and conversion
  | vxFadd (t : WTrig) | vxFsub (t : WTrig) | vxFmul (t : WTrig) | vxFma (t : WTrig) | vxFmin (t : WTrig)
  | vxFmax (t : WTrig) | vxFabs (t : WTrig) | vxFneg (t : WTrig) | vxExp2 (t : WTrig) | vxRcp (t : WTrig)
  | vxRsq (t : WTrig) | vxCmpeq (t : WTrig) | vxCmplt (t : WTrig) | vxCmple (t : WTrig) | vxSel (t : WTrig)
  | vxIadd (t : WTrig) | vxIsub (t : WTrig) | vxImul (t : WTrig) | vxAnd (t : WTrig) | vxOr (t : WTrig)
  | vcCvt (t : WTrig) | vcPack (t : WTrig) | vcPacks (t : WTrig) | vcUnpk (t : WTrig) | vcRsum (t : WTrig)
  | vcRmax (t : WTrig) | vcRmin (t : WTrig) | vcShuf (t : WTrig) | vcBcast (t : WTrig) | vcRot (t : WTrig)
  | vcZip (t : WTrig) | vcUnzip (t : WTrig) | vcLane (t : WTrig) | vcMerge (t : WTrig)
  -- matrix state
  | mxMdset (t : Trig) | mxFmtset (t : Trig) | mxFmtget (t : Trig) | mxFmtlvl (t : Trig) | mxOvpop (t : Trig)
  | mxOvstat (t : Trig) | mxMxsave (t : Trig) | mxMxload (t : Trig) | mxAcczero (t : Trig) | mxWzero (t : Trig)
  -- control
  | cuLoop (t : Trig) | cuJump (t : Trig) | cuCall (t : Trig) | cuRet (t : Trig) | cuCkpt (t : Trig)
  | cuYield (t : Trig) | cuSpawn (t : Trig) | cuExit (t : Trig) | cuSegnext (t : Trig) | cuHalt (t : Trig)
  | cuFence (t : Trig) | cuLpop (t : Trig)
  -- system
  | syNwait (t : Trig) | syNread (t : Trig) | syNclr (t : Trig) | syNsig (t : Trig) | syHbar (t : Trig)
  | syHbwait (t : Trig) | syRte (t : Trig) | syTinfo (t : Trig) | sySrd (t : Trig) | sySwr (t : Trig)
  -- experts
  | xpTopk (t : Trig) | xpWalk (t : Trig) | xpPageFetch (t : Trig) | xpPageLock (t : Trig)
  | xpPageUnlock (t : Trig) | xpPageEvict (t : Trig) | xpResq (t : Trig) | xpResarmRetry (t : Trig)
  | xpResarmDrop (t : Trig) | xpBias (t : Trig)
  | xpCommandAccept (die k : Nat)
  | walkResume (die : Nat)
  | expertFetchComplete (e : Nat)
  | expertFetchFail (e : Nat)
  | expertFetchTimeout (e : Nat)
  | fabricPortTrained (port : Nat)
  | hostPortTrained (port width gen : Nat) (cxl : Bool)
  | programCheckComplete
  deriving DecidableEq, Repr

/-- One turn of the package (log entry 1): a step of the table, the next Lerant bytecode of an interpreter, one
pulse of the arithmetic clock, or one nanosecond of device time. -/
inductive Turn
  | instr (i : Instr)
  | bytecode (k : Nat)
  | pulse
  | nano
  deriving DecidableEq, Repr, Inhabited

end Sys2Proof
end

