-- ==== Sys2Proof/WellFormed.lean ====
section
/-!
DEFINITION. Which operands of a step are within the numbers that the spec gives: cores, slots, queues, handles, ports
and encoded fields. A step whose operands are not is refused by name.
-/
namespace Sys2Proof

/-- A physical core number (R135). -/
def okCore (c : Nat) : Bool := decide (c < 256)

/-- A queue number (R57). -/
def okQueue (q : Nat) : Bool := decide (q < 16384)

/-- A Lerant program handle that can be stored and checked (R66, R73). -/
def okHandle (h : Nat) : Bool := decide (1 ≤ h) && decide (h < 256)

/-- An agent that makes an access: management cores 1 and 2, host ports 0 and 1, contexts of 16 bits. -/
def Agent.wf : Agent → Bool
  | .root => true
  | .mgmt k => k == 1 || k == 2
  | .host p => decide (p < 2)
  | .strand ctx c => decide (ctx < 65536) && okCore c

/-- A narrow trigger stands in slots 1 to 7 (R131). -/
def Trig.wf (t : Trig) : Bool := okCore t.core && decide (1 ≤ t.slot) && decide (t.slot ≤ 7)

/-- A unit without a second copy takes no copy bit. -/
def Trig.wf1 (t : Trig) : Bool := t.wf && !t.copy

/-- A wide trigger stands in slot 1 or 2 (R137, R159). -/
def WTrig.wf (t : WTrig) : Bool := okCore t.core && (t.slot == 1 || t.slot == 2)

/-- The fields of the matrix slot (R150). -/
def Beat.fits (b : Beat) : Bool :=
  okCore b.core && decide (b.opnd < 32) && decide (b.latch < 4) && decide (b.bank < 2) && decide (b.row < 256)
    && decide (b.rmode < 2)

def Beat.noLatch (b : Beat) : Bool := b.latch == 0
def Beat.noRow (b : Beat) : Bool := b.bank == 0 && b.row == 0 && b.rmode == 0

/-- The fields of a packet header (R300). Bit 56 of the address stands for the malformed bit of a pointer that a request brings
(R33; log entry 11). -/
def Packet.wf (p : Packet) : Bool :=
  decide (p.tier < 4) && decide (p.hop < 8) && decide (p.tdom < 1024) && decide (p.tmem < 2048)
    && decide (p.sdom < 1024) && decide (p.smem < 2048) && decide (p.op < 32) && decide (p.cls < 16)
    && decide (p.tctx < 65536) && decide (p.score < 256) && decide (p.addr < 2 ^ 57)

def Arrival.wf : Arrival → Bool
  | .loop _ => true
  | .ext p => p.wf

/-- A host access of 1 to 64 bytes (R382, R383). -/
def HostAcc.wf (a : HostAcc) : Bool := decide (a.port < 2) && decide (1 ≤ a.len) && decide (a.len ≤ 64)

/-- Immediates: any 64-bit word fits a chain (R133). -/
def okSlot (k : Nat) : Bool := decide (1 ≤ k) && decide (k ≤ 7)

/-- Whether a step's operands are within range. -/
def Instr.wf : Instr → Bool
  | .coldReset => true
  | .recoveryImage _ => true
  | .linkReset p => decide (p < 2)
  | .configRequest a | .bar0Access a | .bar2Access a | .bar4Access a | .cxlMemAccess a => a.wf
  | .powerSample _ _ _ _ _ => true
  | .levelRaiseTick | .levelLowerTick => true
  | .thermalFloorTick d => decide (d < 4)
  | .thermtrip | .notifyGate | .notifyUngate => true
  | .registerWrite ag a _ => ag.wf && decide (a < 2 ^ 56)
  | .qdStateRunning ag q _ | .qdStateHalted ag q _ | .qdStateUnmapped ag q _ => ag.wf && okQueue q
  | .qd1Write ag q _ | .qd3Write ag q _ => ag.wf && okQueue q
  | .programStoreWrite ag h j _ => ag.wf && decide (h < 256) && decide (j < 128)
  | .fePctlCheck ag h len => ag.wf && okHandle h && decide (len < 256)
  | .fePctlRelease ag h => ag.wf && okHandle h
  | .clrlost ag => ag.wf
  | .xlInvEntry ag _ size => ag.wf && decide (size < 4)
  | .xlInvContext ag | .xlInvAll ag => ag.wf
  | .invalidationComplete => true
  | .mtuResolveRetry ag m i | .mtuResolveRefuse ag m i => ag.wf && decide (m < 8) && decide (i < 16384)
  | .xrCtlLoad ag _ => ag.wf
  | .notifyWake ag b j _ => ag.wf && decide (b < 256) && decide (j < 256)
  | .barrierNeedWrite ag i _ | .barrierArrive ag i _ => ag.wf && decide (i < 4096)
  | .queuePoll q => okQueue q
  | .packetRun k | .rootCounterWaitEnd k => decide (k < 16)
  | .lerantHalt | .ldpk _ _ | .ldi _ _ | .shin _ _ | .lerantMov _ _ | .lerantAdd _ _ | .lerantSub _ _
  | .lerantAnd _ _ | .lerantOr _ _ => true
  | .ext _ _ h l => decide (l.toNat ≤ h.toNat)
  | .addi _ _ | .bz _ _ | .bnz _ _ | .beq _ _ _ | .bltu _ _ _ | .rep _ _ _ | .ldsc _ _ | .stsc _ _
  | .ldpa _ _ | .setf _ _ => true
  | .emitLaunch | .emitTransfer | .emitPinControl | .emitResynchronise | .emitAttest
  | .emitCommitMinVersion => true
  | .lerantRej _ | .lerantStop _ | .lerantTime _ => true
  | .requestEnterScoreboard tag | .requestRetire tag | .transferRun tag | .pinCreate tag
  | .pinRelease tag => decide (tag < 2 ^ 64)
  | .classAging d tag => decide (d < 4) && decide (tag < 2 ^ 64)
  | .teamPlacement d => decide (d < 4)
  | .partitionMoveComplete _ | .inputStreamFill _ | .fillParkTimeout _ | .teamFirstIssue _ => true
  | .gangStart tag => decide (tag < 2 ^ 64)
  | .segmentCopyComplete c h => okCore c && decide (h < 2)
  | .countdownExpiry c => okCore c
  | .parkSwitch _ | .teamSave _ | .teamReady _ | .teamRestore _ => true
  | .bundleIssue c => okCore c
  | .move c k _ _ | .immediateMove c k _ _ => okCore c && okSlot k
  | .conditionTree c _ _ => okCore c
  | .mxNop c => okCore c
  | .mxPush b => b.fits
  | .mxShift b => b.fits && b.noRow
  | .mxAcc b | .mxDrain b | .mxDrainz b => b.fits && b.noLatch
  | .iaAdd t | .iaSub t | .iaAnd t | .iaOr t | .iaXor t | .iaAndn t | .iaShl t | .iaShr t | .iaSar t | .iaRol t
  | .iaMin t | .iaMax t | .iaMinu t | .iaMaxu t | .iaNeg t | .iaAbs t | .iaClz t | .iaCtz t | .iaPopc t | .iaSxt t
  | .iaSel t | .iaCmpeq t | .iaCmpne t | .iaCmplt t | .iaCmple t | .iaCmpltu t | .iaCmpleu t | .iaTst t => t.wf
  | .imMul t | .imMulh t | .imMulhu t | .imMulhsu t | .imDiv t | .imDivu t | .imRem t | .imRemu t => t.wf1
  | .divideReply c => okCore c
  | .bpPadd t | .bpPsub t | .bpPdiff t | .bpPwset t | .bpPcset t | .bpPchk t | .bpPmal t | .bpPbyte t
  | .bpPfrom t | .bpElget t | .bpElsgn t | .bpElins t => t.wf1
  | .lsLd t | .lsLds t | .lsSt t | .lsLdv t | .lsStv t | .lsLdpr t | .lsLdprs t | .lsStm t | .lsTlook t
  | .lsTset t | .lsTclr t | .lsTget t | .lsTscout t | .lsSwap t | .lsBor t | .lsZero t => t.wf
  | .peerAccessPerform c _ => okCore c
  | .gmLd t | .gmLds t | .gmSt t | .gmCas t | .gmSwap t | .gmAdd t | .gmFadd t | .gmMin t | .gmMax t | .gmMinu t
  | .gmMaxu t | .gmAnd t | .gmOr t | .gmXor t | .gmIncb t | .gmPref t | .gmDrd t | .gmDwr t => t.wf1
  | .longLatencyReply c _ _ | .withheldEntrySend c _ => okCore c
  | .faultRecordWrite m => decide (m < 8)
  | .rmRld t | .rmRst t | .rmRred t | .rmMcast t | .rmXsig t | .rmBar t | .rmGrpset t | .rmGrpclr t
  | .rmGrpretire t | .rmXperm t | .rmLqbind t | .rmLqfree t => t.wf1
  | .rldDeadline c | .fabtimeout c _ => okCore c
  | .fabricPortDown p => decide (p < 48)
  | .packetForward _ => true
  | .loadRequest a | .storeRequest a | .addRequest a | .barrierArrival a | .linkRow a | .connect a
  | .credit a => a.wf
  | .linkRowSend c _ => okCore c
  | .reply a | .acknowledgement a | .parkNotice a | .errorResponse a | .contribution a | .withdrawal a
  | .groupSetPacket a | .groupClearPacket a | .groupRetirePacket a => a.wf
  | .groupTimeout g => decide (g < 4096)
  | .completionNotice a | .xpermData a => a.wf
  | .xpermCopy _ | .xpermTimeout _ => true
  | .seSbind t | .seSgrp t | .seSstart t | .seSstop t | .seSseek t | .seSstat t | .seSflush t | .seSskip t
  | .seSfree t | .seSwait t => t.wf1
  | .streamReadIssue c k | .streamOutputWrite c k => okCore c && decide (k < 8)
  | .streamItemArrival c k _ => okCore c && decide (k < 8)
  | .vxFadd t | .vxFsub t | .vxFmul t | .vxFma t | .vxFmin t | .vxFmax t | .vxFabs t | .vxFneg t | .vxExp2 t
  | .vxRcp t | .vxRsq t | .vxCmpeq t | .vxCmplt t | .vxCmple t | .vxSel t | .vxIadd t | .vxIsub t | .vxImul t
  | .vxAnd t | .vxOr t => t.wf
  | .vcCvt t | .vcPack t | .vcPacks t | .vcUnpk t | .vcRsum t | .vcRmax t | .vcRmin t | .vcShuf t | .vcBcast t
  | .vcRot t | .vcZip t | .vcUnzip t | .vcLane t | .vcMerge t => t.wf
  | .mxMdset t | .mxFmtset t | .mxFmtget t | .mxFmtlvl t | .mxOvpop t | .mxOvstat t | .mxMxsave t | .mxMxload t
  | .mxAcczero t | .mxWzero t => t.wf1
  | .cuLoop t | .cuJump t | .cuCall t | .cuRet t | .cuCkpt t | .cuYield t | .cuSpawn t | .cuExit t
  | .cuSegnext t | .cuHalt t | .cuFence t | .cuLpop t => t.wf1
  | .syNwait t | .syNread t | .syNclr t | .syNsig t | .syHbar t | .syHbwait t | .syRte t | .syTinfo t
  | .sySrd t | .sySwr t => t.wf1
  | .xpTopk t | .xpWalk t | .xpPageFetch t | .xpPageLock t | .xpPageUnlock t | .xpPageEvict t | .xpResq t
  | .xpResarmRetry t | .xpResarmDrop t | .xpBias t => t.wf1
  | .xpCommandAccept d _ => decide (d < 4)
  | .walkResume d => decide (d < 4)
  | .expertFetchComplete _ | .expertFetchFail _ | .expertFetchTimeout _ => true
  | .fabricPortTrained p => decide (p < 48)
  | .hostPortTrained p _ _ _ => decide (p < 2)
  | .programCheckComplete => true

end Sys2Proof
end

