-- ==== Sys2Proof/Decode.lean ====
section
/-!
DEFINITION. Decoding: the 32-bit bytecodes of Lerant (R67), and the 192-bit bundle with its matrix slot, its moves,
immediate chains and condition tree (R131 to R137, R145, R147, R150, R156 to R158). The encoder stands after the
decoder.
-/
namespace Sys2Proof

/-- Bits `hi:lo` of a word. -/
def fieldAt (w hi lo : Nat) : Nat := w / 2 ^ lo % 2 ^ (hi + 1 - lo)

/-! ### Lerant bytecodes (R67) -/

/-- The `emit` kinds (R70). -/
def emitOf (c : Nat) : Option Instr :=
  match c with
  | 0 => some .emitLaunch
  | 1 => some .emitTransfer
  | 2 => some .emitPinControl
  | 3 => some .emitResynchronise
  | 4 => some .emitAttest
  | 5 => some .emitCommitMinVersion
  | _ => none

/-- The bytecode that 32 bits hold: none for an illegal op code, a nonzero unused field, `hi < lo`, or a field that
names nothing (R67, R69). -/
def decodeLerant (w : Nat) : Option Instr :=
  let a := BitVec.ofNat 3 (fieldAt w 25 23)
  let b := BitVec.ofNat 3 (fieldAt w 22 20)
  let v := fieldAt w 19 0
  let a0 := fieldAt w 25 23 == 0
  let b0 := fieldAt w 22 20 == 0
  let only := fun (c : Bool) (i : Instr) => if c then some i else none
  if w ≥ 2 ^ 32 then none
  else match fieldAt w 31 26 with
  | 0x00 => only (a0 && b0 && v == 0) .lerantHalt
  | 0x01 => only (b0 && decide (v < 16)) (.ldpk a (BitVec.ofNat 4 v))
  | 0x02 => only b0 (.ldi a (BitVec.ofNat 20 v))
  | 0x03 => only b0 (.shin a (BitVec.ofNat 20 v))
  | 0x04 => only (v == 0) (.lerantMov a b)
  | 0x05 => only (v == 0) (.lerantAdd a b)
  | 0x06 => only (v == 0) (.lerantSub a b)
  | 0x07 => only (v == 0) (.lerantAnd a b)
  | 0x08 => only (v == 0) (.lerantOr a b)
  | 0x09 => only (decide (v < 2 ^ 12) && decide (fieldAt v 5 0 ≤ fieldAt v 11 6))
      (.ext a b (BitVec.ofNat 6 (fieldAt v 11 6)) (BitVec.ofNat 6 (fieldAt v 5 0)))
  | 0x0A => only b0 (.addi a (BitVec.ofNat 20 v))
  | 0x0B => only (b0 && decide (v < 256)) (.bz a (BitVec.ofNat 8 v))
  | 0x0C => only (b0 && decide (v < 256)) (.bnz a (BitVec.ofNat 8 v))
  | 0x0D => only (decide (v < 256)) (.beq a b (BitVec.ofNat 8 v))
  | 0x0E => only (decide (v < 256)) (.bltu a b (BitVec.ofNat 8 v))
  | 0x0F => only (b0 && decide (v < 2 ^ 14) && fieldAt v 7 5 == 0)
      (.rep a (BitVec.ofNat 6 (fieldAt v 13 8)) (BitVec.ofNat 5 (fieldAt v 4 0)))
  | 0x10 => only (b0 && decide (v < 32)) (.ldsc a (BitVec.ofNat 5 v))
  | 0x11 => only (b0 && decide (v < 32)) (.stsc a (BitVec.ofNat 5 v))
  | 0x12 => only (b0 && decide (v < 64)) (.ldpa a (BitVec.ofNat 6 v))
  | 0x13 => only (b0 && decide (v < 32)) (.setf a (BitVec.ofNat 5 v))
  | 0x14 => if a0 && b0 then emitOf v else none
  | 0x15 => only (a0 && b0 && decide (v < 2 ^ 16)) (.lerantRej (BitVec.ofNat 16 v))
  | 0x16 => only (a0 && b0 && decide (v < 2 ^ 16)) (.lerantStop (BitVec.ofNat 16 v))
  | 0x17 => only (b0 && v == 0) (.lerantTime a)
  | _ => none

/-- Four bytes of a program-store word, lowest first, as the 32 bits of a bytecode (R7, R66). -/
def bytecodeOf (b0 b1 b2 b3 : Nat) : Nat := b0 % 256 + b1 % 256 * 2 ^ 8 + b2 % 256 * 2 ^ 16 + b3 % 256 * 2 ^ 24

/-- The instruction that a table row's word is: only the Lerant bytecodes have bits in the table; a bytecode is 32
bits, stored with its low byte first. -/
def decodeTableWord (nbits w : Nat) : Option Instr :=
  if nbits ≤ 32 ∧ w < 2 ^ nbits then
    decodeLerant (bytecodeOf w (w / 2 ^ 8) (w / 2 ^ 16) (w / 2 ^ 24))
  else none

/-! ### Numbers of sources, destinations and triggers (R134, R136, R156 to R158) -/

/-- How many operations a unit defines (R156). -/
def opCount (u : Nat) : Nat :=
  match u with
  | 0 => 28 | 1 => 28 | 2 => 8 | 3 => 12 | 4 => 16 | 5 => 16 | 6 => 18 | 7 => 12 | 8 => 10 | 9 => 20 | 10 => 14
  | 11 => 10 | 12 => 12 | 13 => 10 | 14 => 6 | _ => 0

/-- Width of a source: `some true` is 1,024 bits, `some false` 64 bits, none an illegal number (R134, R135, R158). -/
def srcWide (n : Nat) : Option Bool :=
  if n < 0x080 then some false
  else if n < 0x095 then some (n == 0x084 || n == 0x086 || n == 0x089 || n == 0x08D || n == 0x08F)
  else if n < 0x0C0 then none
  else if n < 0x0DF then some false
  else if n = 0x0DF then none
  else if n < 0x100 then some true
  else if n < 0x200 then some false
  else none

/-- Width of a destination, as for sources (R136, R156, R157, R159). -/
def dstWide (n : Nat) : Option Bool :=
  if n < 0x040 then some false
  else if n < 0x069 then
    some (n == 0x048 || n == 0x04B || n == 0x04E || n == 0x059 || n == 0x05A || n == 0x05C || n == 0x05D)
  else if n < 0x080 then none
  else if n < 0x280 then
    if (n - 0x080) % 32 < opCount ((n - 0x080) / 32) then
      some ((n - 0x080) / 32 == 9 || (n - 0x080) / 32 == 10) else none
  else if n < 0x2A0 then some true
  else if n < 0x2AF then some false
  else if n < 0x300 then none
  else if n < 0x400 then some false
  else none

/-- The destination number of trigger index `x` of unit `u` (R156). -/
def trigCode (u x : Nat) : Nat := 0x080 + 32 * u + x

/-- The second copy of a unit pair has the next block (R156). -/
def pairUnit (u : Nat) (copy : Bool) : Nat := if copy then u + 1 else u

/-- The trigger code that starts an operation (R156); none for a step that no move starts. XP.page and XP.resarm stand
for several rows of the table (R331, R346). -/
def trigNumber : Instr → Option Nat
  | .iaAdd t => some (trigCode (pairUnit 0 t.copy) 0)
  | .iaSub t => some (trigCode (pairUnit 0 t.copy) 1)
  | .iaAnd t => some (trigCode (pairUnit 0 t.copy) 2)
  | .iaOr t => some (trigCode (pairUnit 0 t.copy) 3)
  | .iaXor t => some (trigCode (pairUnit 0 t.copy) 4)
  | .iaAndn t => some (trigCode (pairUnit 0 t.copy) 5)
  | .iaShl t => some (trigCode (pairUnit 0 t.copy) 6)
  | .iaShr t => some (trigCode (pairUnit 0 t.copy) 7)
  | .iaSar t => some (trigCode (pairUnit 0 t.copy) 8)
  | .iaRol t => some (trigCode (pairUnit 0 t.copy) 9)
  | .iaMin t => some (trigCode (pairUnit 0 t.copy) 10)
  | .iaMax t => some (trigCode (pairUnit 0 t.copy) 11)
  | .iaMinu t => some (trigCode (pairUnit 0 t.copy) 12)
  | .iaMaxu t => some (trigCode (pairUnit 0 t.copy) 13)
  | .iaNeg t => some (trigCode (pairUnit 0 t.copy) 14)
  | .iaAbs t => some (trigCode (pairUnit 0 t.copy) 15)
  | .iaClz t => some (trigCode (pairUnit 0 t.copy) 16)
  | .iaCtz t => some (trigCode (pairUnit 0 t.copy) 17)
  | .iaPopc t => some (trigCode (pairUnit 0 t.copy) 18)
  | .iaSxt t => some (trigCode (pairUnit 0 t.copy) 19)
  | .iaSel t => some (trigCode (pairUnit 0 t.copy) 20)
  | .iaCmpeq t => some (trigCode (pairUnit 0 t.copy) 21)
  | .iaCmpne t => some (trigCode (pairUnit 0 t.copy) 22)
  | .iaCmplt t => some (trigCode (pairUnit 0 t.copy) 23)
  | .iaCmple t => some (trigCode (pairUnit 0 t.copy) 24)
  | .iaCmpltu t => some (trigCode (pairUnit 0 t.copy) 25)
  | .iaCmpleu t => some (trigCode (pairUnit 0 t.copy) 26)
  | .iaTst t => some (trigCode (pairUnit 0 t.copy) 27)
  | .imMul _ => some (trigCode 2 0)
  | .imMulh _ => some (trigCode 2 1)
  | .imMulhu _ => some (trigCode 2 2)
  | .imMulhsu _ => some (trigCode 2 3)
  | .imDiv _ => some (trigCode 2 4)
  | .imDivu _ => some (trigCode 2 5)
  | .imRem _ => some (trigCode 2 6)
  | .imRemu _ => some (trigCode 2 7)
  | .bpPadd _ => some (trigCode 3 0)
  | .bpPsub _ => some (trigCode 3 1)
  | .bpPdiff _ => some (trigCode 3 2)
  | .bpPwset _ => some (trigCode 3 3)
  | .bpPcset _ => some (trigCode 3 4)
  | .bpPchk _ => some (trigCode 3 5)
  | .bpPmal _ => some (trigCode 3 6)
  | .bpPbyte _ => some (trigCode 3 7)
  | .bpPfrom _ => some (trigCode 3 8)
  | .bpElget _ => some (trigCode 3 9)
  | .bpElsgn _ => some (trigCode 3 10)
  | .bpElins _ => some (trigCode 3 11)
  | .lsLd t => some (trigCode (pairUnit 4 t.copy) 0)
  | .lsLds t => some (trigCode (pairUnit 4 t.copy) 1)
  | .lsSt t => some (trigCode (pairUnit 4 t.copy) 2)
  | .lsLdv t => some (trigCode (pairUnit 4 t.copy) 3)
  | .lsStv t => some (trigCode (pairUnit 4 t.copy) 4)
  | .lsLdpr t => some (trigCode (pairUnit 4 t.copy) 5)
  | .lsLdprs t => some (trigCode (pairUnit 4 t.copy) 6)
  | .lsStm t => some (trigCode (pairUnit 4 t.copy) 7)
  | .lsTlook t => some (trigCode (pairUnit 4 t.copy) 8)
  | .lsTset t => some (trigCode (pairUnit 4 t.copy) 9)
  | .lsTclr t => some (trigCode (pairUnit 4 t.copy) 10)
  | .lsTget t => some (trigCode (pairUnit 4 t.copy) 11)
  | .lsTscout t => some (trigCode (pairUnit 4 t.copy) 12)
  | .lsSwap t => some (trigCode (pairUnit 4 t.copy) 13)
  | .lsBor t => some (trigCode (pairUnit 4 t.copy) 14)
  | .lsZero t => some (trigCode (pairUnit 4 t.copy) 15)
  | .gmLd _ => some (trigCode 6 0)
  | .gmLds _ => some (trigCode 6 1)
  | .gmSt _ => some (trigCode 6 2)
  | .gmCas _ => some (trigCode 6 3)
  | .gmSwap _ => some (trigCode 6 4)
  | .gmAdd _ => some (trigCode 6 5)
  | .gmFadd _ => some (trigCode 6 6)
  | .gmMin _ => some (trigCode 6 7)
  | .gmMax _ => some (trigCode 6 8)
  | .gmMinu _ => some (trigCode 6 9)
  | .gmMaxu _ => some (trigCode 6 10)
  | .gmAnd _ => some (trigCode 6 11)
  | .gmOr _ => some (trigCode 6 12)
  | .gmXor _ => some (trigCode 6 13)
  | .gmIncb _ => some (trigCode 6 14)
  | .gmPref _ => some (trigCode 6 15)
  | .gmDrd _ => some (trigCode 6 16)
  | .gmDwr _ => some (trigCode 6 17)
  | .rmRld _ => some (trigCode 7 0)
  | .rmRst _ => some (trigCode 7 1)
  | .rmRred _ => some (trigCode 7 2)
  | .rmMcast _ => some (trigCode 7 3)
  | .rmXsig _ => some (trigCode 7 4)
  | .rmBar _ => some (trigCode 7 5)
  | .rmGrpset _ => some (trigCode 7 6)
  | .rmGrpclr _ => some (trigCode 7 7)
  | .rmGrpretire _ => some (trigCode 7 8)
  | .rmXperm _ => some (trigCode 7 9)
  | .rmLqbind _ => some (trigCode 7 10)
  | .rmLqfree _ => some (trigCode 7 11)
  | .seSbind _ => some (trigCode 8 0)
  | .seSgrp _ => some (trigCode 8 1)
  | .seSstart _ => some (trigCode 8 2)
  | .seSstop _ => some (trigCode 8 3)
  | .seSseek _ => some (trigCode 8 4)
  | .seSstat _ => some (trigCode 8 5)
  | .seSflush _ => some (trigCode 8 6)
  | .seSskip _ => some (trigCode 8 7)
  | .seSfree _ => some (trigCode 8 8)
  | .seSwait _ => some (trigCode 8 9)
  | .vxFadd _ => some (trigCode 9 0)
  | .vxFsub _ => some (trigCode 9 1)
  | .vxFmul _ => some (trigCode 9 2)
  | .vxFma _ => some (trigCode 9 3)
  | .vxFmin _ => some (trigCode 9 4)
  | .vxFmax _ => some (trigCode 9 5)
  | .vxFabs _ => some (trigCode 9 6)
  | .vxFneg _ => some (trigCode 9 7)
  | .vxExp2 _ => some (trigCode 9 8)
  | .vxRcp _ => some (trigCode 9 9)
  | .vxRsq _ => some (trigCode 9 10)
  | .vxCmpeq _ => some (trigCode 9 11)
  | .vxCmplt _ => some (trigCode 9 12)
  | .vxCmple _ => some (trigCode 9 13)
  | .vxSel _ => some (trigCode 9 14)
  | .vxIadd _ => some (trigCode 9 15)
  | .vxIsub _ => some (trigCode 9 16)
  | .vxImul _ => some (trigCode 9 17)
  | .vxAnd _ => some (trigCode 9 18)
  | .vxOr _ => some (trigCode 9 19)
  | .vcCvt _ => some (trigCode 10 0)
  | .vcPack _ => some (trigCode 10 1)
  | .vcPacks _ => some (trigCode 10 2)
  | .vcUnpk _ => some (trigCode 10 3)
  | .vcRsum _ => some (trigCode 10 4)
  | .vcRmax _ => some (trigCode 10 5)
  | .vcRmin _ => some (trigCode 10 6)
  | .vcShuf _ => some (trigCode 10 7)
  | .vcBcast _ => some (trigCode 10 8)
  | .vcRot _ => some (trigCode 10 9)
  | .vcZip _ => some (trigCode 10 10)
  | .vcUnzip _ => some (trigCode 10 11)
  | .vcLane _ => some (trigCode 10 12)
  | .vcMerge _ => some (trigCode 10 13)
  | .mxMdset _ => some (trigCode 11 0)
  | .mxFmtset _ => some (trigCode 11 1)
  | .mxFmtget _ => some (trigCode 11 2)
  | .mxFmtlvl _ => some (trigCode 11 3)
  | .mxOvpop _ => some (trigCode 11 4)
  | .mxOvstat _ => some (trigCode 11 5)
  | .mxMxsave _ => some (trigCode 11 6)
  | .mxMxload _ => some (trigCode 11 7)
  | .mxAcczero _ => some (trigCode 11 8)
  | .mxWzero _ => some (trigCode 11 9)
  | .cuLoop _ => some (trigCode 12 0)
  | .cuJump _ => some (trigCode 12 1)
  | .cuCall _ => some (trigCode 12 2)
  | .cuRet _ => some (trigCode 12 3)
  | .cuCkpt _ => some (trigCode 12 4)
  | .cuYield _ => some (trigCode 12 5)
  | .cuSpawn _ => some (trigCode 12 6)
  | .cuExit _ => some (trigCode 12 7)
  | .cuSegnext _ => some (trigCode 12 8)
  | .cuHalt _ => some (trigCode 12 9)
  | .cuFence _ => some (trigCode 12 10)
  | .cuLpop _ => some (trigCode 12 11)
  | .syNwait _ => some (trigCode 13 0)
  | .syNread _ => some (trigCode 13 1)
  | .syNclr _ => some (trigCode 13 2)
  | .syNsig _ => some (trigCode 13 3)
  | .syHbar _ => some (trigCode 13 4)
  | .syHbwait _ => some (trigCode 13 5)
  | .syRte _ => some (trigCode 13 6)
  | .syTinfo _ => some (trigCode 13 7)
  | .sySrd _ => some (trigCode 13 8)
  | .sySwr _ => some (trigCode 13 9)
  | .xpTopk _ => some (trigCode 14 0)
  | .xpWalk _ => some (trigCode 14 1)
  | .xpPageFetch _ => some (trigCode 14 2)
  | .xpPageLock _ => some (trigCode 14 2)
  | .xpPageUnlock _ => some (trigCode 14 2)
  | .xpPageEvict _ => some (trigCode 14 2)
  | .xpResq _ => some (trigCode 14 3)
  | .xpResarmRetry _ => some (trigCode 14 4)
  | .xpResarmDrop _ => some (trigCode 14 4)
  | .xpBias _ => some (trigCode 14 5)
  | _ => none

/-! ### The matrix slot (R150) -/

/-- The beat that slot 0 holds, with its path tag; none for a reserved beat or row mode or a nonzero unused field. The
tag is judged with the tree. -/
def decodeBeat (core w : Nat) : Option (Nat × Instr) :=
  let b : Beat := ⟨core, fieldAt w 17 13, fieldAt w 12 11, fieldAt w 10 10, fieldAt w 9 2, fieldAt w 1 0⟩
  let tag := fieldAt w 23 21
  let only := fun (c : Bool) (i : Instr) => if c then some (tag, i) else none
  let rm := decide (b.rmode < 2)
  match fieldAt w 20 18 with
  | 0 => only (fieldAt w 17 0 == 0) (.mxNop core)
  | 1 => only rm (.mxPush b)
  | 2 => only b.noRow (.mxShift b)
  | 3 => only (rm && b.noLatch) (.mxAcc b)
  | 4 => only (rm && b.noLatch) (.mxDrain b)
  | 5 => only (rm && b.noLatch) (.mxDrainz b)
  | _ => none

/-! ### Moves, chains and trees (R132, R133, R145, R147) -/

/-- The source of a move: a source number, or an immediate value. -/
inductive MvSrc
  | reg (n : Nat)
  | imm (v : Word)
  deriving DecidableEq, Repr

/-- A move of a bundle: its slot, path tag, source and destination. -/
structure Mv where
  slot : Nat
  tag : Nat
  src : MvSrc
  dst : Nat
  deriving DecidableEq, Repr

/-- A tree header and its offsets (R145). -/
structure Tree where
  h : Nat
  x : Nat
  deriving DecidableEq, Repr

/-- A decoded bundle: the beat and its tag, the moves in slot order, the tree, and the lowest slot that is illegal
whatever leaf is chosen (R151). -/
structure Bundle where
  beat : Nat × Instr
  moves : List Mv
  tree : Option Tree
  bad : Option Nat
  deriving DecidableEq, Repr

/-- Number of tests of a header. -/
def treeTests (h : Nat) : Nat := fieldAt h 18 17 + 1

/-- The header's own fields are well formed: zero tag, zero unused tests, e only below four tests (R145). -/
def treeHeadOk (h : Nat) : Bool :=
  fieldAt h 23 21 == 0 && !(fieldAt h 0 0 == 1 && treeTests h == 4)
    && (fieldAt h 16 13 == 0 || decide (1 ≤ treeTests h)) && (fieldAt h 12 9 == 0 || decide (2 ≤ treeTests h))
    && (fieldAt h 8 5 == 0 || decide (3 ≤ treeTests h)) && (fieldAt h 4 1 == 0 || decide (4 ≤ treeTests h))

/-- Offsets that no leaf uses are zero (R145). -/
def treeOffsOk (h x : Nat) : Bool :=
  (fieldAt x 17 12 == 0 || decide (2 ≤ treeTests h)) && (fieldAt x 11 6 == 0 || decide (3 ≤ treeTests h))
    && (fieldAt x 5 0 == 0 || decide (4 ≤ treeTests h) || fieldAt h 0 0 == 1)

/-- A path tag is legal with this tree (R147). -/
def tagOk (tree : Option Tree) (t : Nat) : Bool :=
  match tree with
  | none => t == 0
  | some r => t == 0 || t == 5 || t == 6 || (decide (1 ≤ t) && decide (t ≤ treeTests r.h) && decide (t ≤ 4))

/-- Two's complement of the low `n` bits. -/
def signOf (x n : Nat) : Int := if 2 * (x % 2 ^ n) < 2 ^ n then (x % 2 ^ n : Nat) else (x % 2 ^ n : Nat) - 2 ^ n

/-- The value of a chain: payloads of the extensions, first most significant, and the nine bits of the immediate
(R133). -/
def chainValue (exts : List Nat) (imm : Nat) : Word :=
  let x := exts.foldl (fun x p => x * 2 ^ 19 + p % 2 ^ 19) 0 * 2 ^ 9 + imm % 2 ^ 9
  BitVec.ofInt 64 (signOf x (19 * exts.length + 9))

/-- Extensions waiting for their immediate: the first slot, the tag, the payloads, and whether a tag differed. -/
structure Chain where
  first : Nat
  tag : Nat
  exts : List Nat
  mixed : Bool
  deriving DecidableEq, Repr

/-- The lower of two illegal slots. -/
def lower (a : Option Nat) (k : Nat) : Option Nat :=
  match a with
  | none => some k
  | some j => some (min j k)

/-- Read the words of slots `k`, …: the moves, and the lowest illegal slot. DEDUCED (log entry 64):
an empty move is legal whatever its tag (R132). -/
def decodeSlots (tree : Option Tree) (k : Nat) (ch : Option Chain) : List Nat → List Mv × Option Nat
  | [] => ([], ch.map (·.first))
  | w :: ws =>
    let tag := fieldAt w 23 21
    let dst := fieldAt w 9 0
    let src := fieldAt w 18 10
    -- a chain that this slot does not continue is broken (R133)
    let broken := match ch with | some c => some c.first | none => none
    let tagBad := fun (b : Option Nat) => if tagOk tree tag then b else lower b k
    let join := fun (mv : List Mv) (bad : Option Nat) (r : List Mv × Option Nat) =>
      (mv ++ r.1, match bad, r.2 with | none, y => y | x, none => x | some a, some b => some (min a b))
    match fieldAt w 20 19 with
    | 0 =>
      if src = 0 && dst = 0 then join [] broken (decodeSlots tree (k + 1) none ws)
      else
        let b := tagBad broken
        let b := match srcWide src, dstWide dst with
          | some x, some y => if x != y || (x && decide (2 < k)) then lower b k else b
          | _, _ => lower b k
        join [⟨k, tag, .reg src, dst⟩] b (decodeSlots tree (k + 1) none ws)
    | 1 =>
      let c := ch.getD ⟨k, tag, [], false⟩
      let b := tagBad none
      let b := if c.mixed || c.tag != tag || decide (3 < c.exts.length) then lower b c.first else b
      let b := if dstWide dst = some false then b else lower b k
      join [⟨k, tag, .imm (chainValue c.exts src), dst⟩] b (decodeSlots tree (k + 1) none ws)
    | 2 =>
      let c := ch.getD ⟨k, tag, [], false⟩
      let c := { c with exts := c.exts ++ [fieldAt w 18 0], mixed := c.mixed || c.tag != tag }
      join [] (tagBad none) (decodeSlots tree (k + 1) (some c) ws)
    | _ => join [] (lower broken k) (decodeSlots tree (k + 1) none ws)

/-- Slot `k` of a bundle (R131). -/
def slotWord (b : BitVec 192) (k : Nat) : Nat := fieldAt b.toNat (24 * k + 23) (24 * k)

/-- Decode a bundle of core `core`: every 192-bit pattern gives a bundle, with its lowest statically illegal slot
(R131, R151). -/
def decodeBundle (core : Nat) (b : BitVec 192) : Bundle :=
  let h := slotWord b 6
  let tree : Option Tree := if fieldAt h 20 19 = 3 then some ⟨h, slotWord b 7⟩ else none
  let treeBad := match tree with
    | none => none
    | some t => if !treeHeadOk t.h || !treeOffsOk t.h t.x then some 6 else none
  let words := match tree with
    | none => [1, 2, 3, 4, 5, 6, 7].map (slotWord b)
    | some _ => [1, 2, 3, 4, 5].map (slotWord b)
  let r := decodeSlots tree 1 none words
  let slots := match r.2, treeBad with | none, y => y | x, none => x | some p, some q => some (min p q)
  match decodeBeat core (slotWord b 0) with
  | none => ⟨(0, .mxNop core), r.1, tree, some 0⟩
  | some (tag, i) => ⟨(tag, i), r.1, tree, if tagOk tree tag then slots else some 0⟩

/-! ### The encoder -/

/-- A Lerant word from its fields (R67). -/
def lerantWord (op a b v : Nat) : Nat := op * 2 ^ 26 + a * 2 ^ 23 + b * 2 ^ 20 + v

/-- The word of a Lerant bytecode. -/
def encodeLerant : Instr → Option Nat
  | .lerantHalt => some (lerantWord 0x00 0 0 0)
  | .ldpk a k => some (lerantWord 0x01 a.toNat 0 k.toNat)
  | .ldi a v => some (lerantWord 0x02 a.toNat 0 v.toNat)
  | .shin a v => some (lerantWord 0x03 a.toNat 0 v.toNat)
  | .lerantMov a b => some (lerantWord 0x04 a.toNat b.toNat 0)
  | .lerantAdd a b => some (lerantWord 0x05 a.toNat b.toNat 0)
  | .lerantSub a b => some (lerantWord 0x06 a.toNat b.toNat 0)
  | .lerantAnd a b => some (lerantWord 0x07 a.toNat b.toNat 0)
  | .lerantOr a b => some (lerantWord 0x08 a.toNat b.toNat 0)
  | .ext a b h l => some (lerantWord 0x09 a.toNat b.toNat (h.toNat * 64 + l.toNat))
  | .addi a v => some (lerantWord 0x0A a.toNat 0 v.toNat)
  | .bz a d => some (lerantWord 0x0B a.toNat 0 d.toNat)
  | .bnz a d => some (lerantWord 0x0C a.toNat 0 d.toNat)
  | .beq a b d => some (lerantWord 0x0D a.toNat b.toNat d.toNat)
  | .bltu a b d => some (lerantWord 0x0E a.toNat b.toNat d.toNat)
  | .rep a n k => some (lerantWord 0x0F a.toNat 0 (n.toNat * 256 + k.toNat))
  | .ldsc a k => some (lerantWord 0x10 a.toNat 0 k.toNat)
  | .stsc a k => some (lerantWord 0x11 a.toNat 0 k.toNat)
  | .ldpa a k => some (lerantWord 0x12 a.toNat 0 k.toNat)
  | .setf a f => some (lerantWord 0x13 a.toNat 0 f.toNat)
  | .emitLaunch => some (lerantWord 0x14 0 0 0)
  | .emitTransfer => some (lerantWord 0x14 0 0 1)
  | .emitPinControl => some (lerantWord 0x14 0 0 2)
  | .emitResynchronise => some (lerantWord 0x14 0 0 3)
  | .emitAttest => some (lerantWord 0x14 0 0 4)
  | .emitCommitMinVersion => some (lerantWord 0x14 0 0 5)
  | .lerantRej v => some (lerantWord 0x15 0 0 v.toNat)
  | .lerantStop v => some (lerantWord 0x16 0 0 v.toNat)
  | .lerantTime a => some (lerantWord 0x17 a.toNat 0 0)
  | _ => none

/-- The matrix slot's word of a beat (R150). -/
def beatWord (tag form : Nat) (b : Beat) : Nat :=
  tag * 2 ^ 21 + form * 2 ^ 18 + b.opnd * 2 ^ 13 + b.latch * 2 ^ 11 + b.bank * 2 ^ 10 + b.row * 4 + b.rmode

/-- The slot word of a beat with its path tag. -/
def encodeBeat (tag : Nat) : Instr → Option Nat
  | .mxNop _ => some (tag * 2 ^ 21)
  | .mxPush b => some (beatWord tag 1 b)
  | .mxShift b => some (beatWord tag 2 b)
  | .mxAcc b => some (beatWord tag 3 b)
  | .mxDrain b => some (beatWord tag 4 b)
  | .mxDrainz b => some (beatWord tag 5 b)
  | _ => none

/-- The slot word of a move (R132). -/
def moveWord (tag kind src dst : Nat) : Nat := tag * 2 ^ 21 + kind * 2 ^ 19 + src * 2 ^ 10 + dst

/-- How many extensions the shortest chain that holds a value takes (R133). -/
def chainLen (v : Word) : Nat :=
  let x := v.toInt
  if -(2 ^ 8) ≤ x ∧ x < 2 ^ 8 then 0
  else if -(2 ^ 27) ≤ x ∧ x < 2 ^ 27 then 1
  else if -(2 ^ 46) ≤ x ∧ x < 2 ^ 46 then 2
  else 3

/-- The words of the shortest immediate chain (R133, R153). -/
def encodeImm (tag : Nat) (v : Word) (dst : Nat) : List Nat :=
  let x := v.signExtend 66
  let part := fun (j : Nat) => x.toNat / 2 ^ (9 + 19 * j) % 2 ^ 19
  let ext := fun (j : Nat) => tag * 2 ^ 21 + 2 * 2 ^ 19 + part j
  let last := moveWord tag 1 (x.toNat % 2 ^ 9) dst
  match chainLen v with
  | 0 => [last]
  | 1 => [ext 0, last]
  | 2 => [ext 1, ext 0, last]
  | _ => [ext 2, ext 1, ext 0, last]

/-- The words of an instruction that has an encoding of its own: a bytecode's 32 bits, or slot words of 24 bits with
path tag 0. -/
def encode (i : Instr) : List Nat :=
  match encodeLerant i with
  | some w => [w]
  | none => match encodeBeat 0 i with
    | some w => [w]
    | none => match i with
      | .move _ _ src dst => [moveWord 0 0 src.toNat dst.toNat]
      | .immediateMove _ _ v dst => encodeImm 0 v dst.toNat
      | .conditionTree _ h x => [h.toNat, x.toNat]
      | _ => []

end Sys2Proof
end

