-- ==== Sys2Proof/Config.lean ====
section
/-!
DEFINITION. What the manual leaves to an implementation or to the outside, as constants without a body: nothing can
be proved of their values. Log entries 1, 2, 6 to 9, 23, 59 and 63 name them.
-/
namespace Sys2Proof.Config

/-- What happens next when the state lists no turn: the agents of the package are not ordered by the manual, so the
next event is free (log entry 1). -/
opaque turn : Nat → Turn

/-- Whether a cached translation still stands in its cache: replacement is not visible to software (R116; log
entry 6). -/
opaque cacheHit : Nat → Bool

/-- The secrets of the identity key: the start of chain `j` of leaf `i`, the seed of its tree and the key of its randomisers (R76,
R80; log entry 7). -/
opaque identityChain : Nat → Nat → BitVec 256
opaque identitySeed : BitVec 256
opaque identityPrf : BitVec 256

/-- Root and seed of the two Esrov public keys, and the digests in fuse (R77; log entry 7). -/
opaque esrovRoot : Nat → BitVec 256
opaque esrovSeed : Nat → BitVec 256
opaque keyDigest : Nat → BitVec 256

/-- The digest, if any, that management firmware supplies at a nanosecond of the n-th boot, and its register, MEAS4 to MEAS7
(R78; log entry 23). -/
opaque mgmtDigest : Nat → Nat → Option (Nat × List (BitVec 8))

/-- Boot ROM revision and fuse digest, by the fused minimum version, burned identity bits and revoked keys; and straps with
the root configuration (R78; log entry 7). -/
opaque bootRom : Nat → Nat → Nat → List (BitVec 8)
opaque straps : List (BitVec 8)

/-- The bytes of a firmware image's header: kind, length, security version (R77; log entry 8). -/
opaque fwHeader : Bool → Nat → Nat → List (BitVec 8)

/-- The firmware images that package flash supplies at the n-th boot (R77, R385; log entry 8). -/
opaque rootImage : Nat → FwImage
opaque mgmtImage : Nat → FwImage

/-- Byte `i` of the data that the cave supplies for the n-th free draw (R343): the cave lies outside the package (log
entry 9). -/
opaque caveByte : Nat → Nat → Byte

/-- The data-block descriptor of the n-th NVMe Read command (R343): it names the frame by a bus address of the memory BAR, which
the host has set (log entry 63). -/
opaque sgl : Nat → BitVec 128

/-- HBM data left by a failed fetch: any mix of old and new (R343; log entry 9). -/
opaque fetchMix : Nat → Bool

/-- The hash of target member and source core by which a packet chooses its gateway (R296, not given by the manual; log entry
59). -/
opaque gateHash : Nat → Nat → Nat

/-- The page, if any, that management firmware brings in through the cave pager at a nanosecond of the n-th boot: a 64 KiB frame of
HBM (R75, R120; log entry 23). -/
opaque mgmtPage : Nat → Nat → Option Nat

/-- The order in which queues wait, and other choices that the manual leaves to the device (log entry 1). -/
opaque pick : Nat → Nat

end Sys2Proof.Config
end

