-- ==== Sys2Proof/Machine/Bits.lean ====
section
/-!
DEFINITION. The helper functions of R12 on unbounded integers, and the fields of words.
-/
namespace Sys2Proof.Machine

/-- `bits(x, hi, lo)` of R12. -/
def bits (x hi lo : Nat) : Nat := (x >>> lo) % 2 ^ (hi + 1 - lo)

/-- Bit `i` of `x`. -/
def bit (x i : Nat) : Bool := (x >>> i) % 2 == 1

/-- `sext(x, n)` of R12: the low `n` bits read as two's complement. -/
def sext (x n : Nat) : Int :=
  if 2 * (x % 2 ^ n) < 2 ^ n then ((x % 2 ^ n : Nat) : Int) else ((x % 2 ^ n : Nat) : Int) - 2 ^ n

/-- `wrapw(x, n)` of R12, on any integer. -/
def wrapw (x : Int) (n : Nat) : Nat := (x % 2 ^ n).toNat

/-- `trunc(a / b)`: the quotient rounded toward zero. -/
def truncDiv (a b : Int) : Int := Int.tdiv a b

/-- A field of a bit vector, as a number. -/
def fld {n : Nat} (x : BitVec n) (hi lo : Nat) : Nat := bits x.toNat hi lo

/-- One bit of a bit vector. -/
def flag {n : Nat} (x : BitVec n) (i : Nat) : Bool := x.getLsbD i

/-- The 64-bit word of an integer. -/
def word (x : Int) : Word := BitVec.ofInt 64 x

/-- The 64-bit word of a natural number. -/
def wordN (x : Nat) : Word := BitVec.ofNat 64 x

/-- `s(x)` of R163: the word read as a signed number. -/
def sgn (x : Word) : Int := x.toInt

/-- A Bool as a number. -/
def b2n (b : Bool) : Nat := if b then 1 else 0

/-- Replace bits `lo + len - 1 : lo` of `x` by the low `len` bits of `v`. -/
def putBits (x lo len v : Nat) : Nat :=
  (x >>> (lo + len)) <<< (lo + len) + ((v % 2 ^ len) <<< lo) + x % 2 ^ lo

/-- Replace a field of a bit vector. -/
def setFld {n : Nat} (x : BitVec n) (hi lo v : Nat) : BitVec n :=
  BitVec.ofNat n (putBits x.toNat lo (hi + 1 - lo) v)

/-- Number of set bits of the low `n` bits. -/
def popCount (x : Nat) : Nat → Nat
  | 0 => 0
  | n + 1 => popCount x n + x / 2 ^ n % 2

/-- Number of zero bits above the highest set bit of the low `n` bits. -/
def leadZeros (x : Nat) : Nat → Nat
  | 0 => 0
  | n + 1 => if x / 2 ^ n % 2 == 1 then 0 else leadZeros x n + 1

/-- Number of zero bits below the lowest set bit, looking at `n` bits. -/
def trailZeros (x : Nat) : Nat → Nat
  | 0 => 0
  | n + 1 => if x % 2 == 1 then 0 else trailZeros (x / 2) n + 1

/-- `ceil(a / b)` on naturals. -/
def ceilDiv (a b : Nat) : Nat := (a + b - 1) / b

/-- The first `n` naturals from `a`, ascending. -/
def span (a : Nat) : Nat → List Nat
  | 0 => []
  | n + 1 => a :: span (a + 1) n

/-- Gather `count` units of `w` bits, unit `i` being `get (first + i)`, low unit first. -/
def gather (get : Nat → Nat) (w first : Nat) : Nat → Nat
  | 0 => 0
  | n + 1 => get first % 2 ^ w + (gather get w (first + 1) n) <<< w

/-- Pack a list of `w`-bit values, first value lowest. -/
def packList (w : Nat) : List Nat → Nat
  | [] => 0
  | x :: xs => x % 2 ^ w + (packList w xs) <<< w

/-- `width(c)` of R32. -/
def widthOf (c : Nat) : Nat :=
  match c % 8 with
  | 0 => 1 | 1 => 3 | 2 => 4 | 3 => 6 | 4 => 8 | 5 => 16 | 6 => 32 | _ => 64

/-- Fields of a pointer (R31). -/
def ptrClass (p : Word) : Nat := fld p 63 60
def ptrWc (p : Word) : Nat := fld p 59 57
def ptrMal (p : Word) : Bool := flag p 56
def ptrAddr (p : Word) : Nat := fld p 55 0
def ptrWidth (p : Word) : Nat := widthOf (ptrWc p)

/-- `mk(cls, wc, x)` of R171: a pointer built from an exact address; malformed when it is out of range (R33). -/
def mkPtr (cls wc : Nat) (x : Int) : Word :=
  wordN ((cls % 16) <<< 60 + (wc % 8) <<< 57
    + (if x < 0 || x ≥ 2 ^ 56 then 1 else 0) <<< 56 + wrapw x 56)

/-- The pointer `p` with its malformed bit set (R33). -/
def malform (p : Word) : Word := p ||| wordN (2 ^ 56)

/-- Element alignment (R35, R36): widths 3 and 6 may start anywhere. -/
def alignedW (a w : Nat) : Bool := if w == 3 || w == 6 then true else a % w == 0

/-- Widths and placement of an arithmetic atomic (R42). -/
def arithLimits (a w : Nat) : Bool := (w == 8 || w == 16 || w == 32 || w == 64) && a % w == 0

end Sys2Proof.Machine
end

