-- ==== Sys2Proof/Machine/Tab.lean ====
section
/-!
DEFINITION. Sparse tables in one canonical form: a list of (index, value) pairs with strictly rising indices and
no entry equal to the default value, so that equal tables are equal lists. Register files, memories and the
numbered records of the package are such tables.
-/
namespace Sys2Proof.Machine

/-- A sparse table of values by index. -/
abbrev Tab (α : Type) := List (Nat × α)

/-- The value at index `k`; `d` where nothing is listed. -/
def Tab.get {α : Type} (d : α) : Tab α → Nat → α
  | [], _ => d
  | (j, v) :: r, k => if j = k then v else Tab.get d r k

/-- Put an entry without regard to the default. -/
def Tab.put {α : Type} (k : Nat) (v : α) : Tab α → Tab α
  | [] => [(k, v)]
  | (j, w) :: r => if k < j then (k, v) :: (j, w) :: r
      else if k = j then (k, v) :: r else (j, w) :: Tab.put k v r

/-- Drop what is listed at `k`. -/
def Tab.drop {α : Type} (k : Nat) : Tab α → Tab α
  | [] => []
  | (j, w) :: r => if j = k then Tab.drop k r else (j, w) :: Tab.drop k r

/-- Write `v` at index `k`, keeping the canonical form for default `d`. -/
def Tab.set {α : Type} [DecidableEq α] (d : α) (k : Nat) (v : α) (t : Tab α) : Tab α :=
  if v = d then Tab.drop k t else Tab.put k v t

/-- Apply `f` at index `k`. -/
def Tab.upd {α : Type} [DecidableEq α] (d : α) (k : Nat) (f : α → α) (t : Tab α) : Tab α :=
  Tab.set d k (f (Tab.get d t k)) t

/-- Every index of the table is at least `n`, and indices rise strictly. -/
def Tab.sortedFrom {α : Type} : Nat → Tab α → Bool
  | _, [] => true
  | n, (j, _) :: r => decide (n ≤ j) && Tab.sortedFrom (j + 1) r

/-- The canonical form for default `d`. -/
def Tab.wf {α : Type} [DecidableEq α] (d : α) (t : Tab α) : Bool :=
  Tab.sortedFrom 0 t && t.all (fun e => e.2 ≠ d)

/-- Write each of a list of values at consecutive indices from `k`. -/
def Tab.setList {α : Type} [DecidableEq α] (d : α) (k : Nat) : List α → Tab α → Tab α
  | [], t => t
  | v :: vs, t => Tab.setList d (k + 1) vs (Tab.set d k v t)

/-- Keep the entries whose index satisfies `p`. -/
def Tab.keep {α : Type} (p : Nat → Bool) (t : Tab α) : Tab α := t.filter (fun e => p e.1)

end Sys2Proof.Machine
end

