-- ==== Sys2Proof/Machine/Numbers.lean ====
section
/-!
DEFINITION. The number formats of the WX-3 and every conversion between them (R44 to R56), the exact arithmetic of
R227, R268 and R280, and the correctly rounded functions of R281. Exact values are integers times powers of two;
the quotient, the reciprocal root and the power are magnitudes of which any scaled floor can be computed.
-/
namespace Sys2Proof.Machine

/-- The number formats of R44. -/
inductive Fmt
  | f32 | bf16 | f16 | f8e4m3 | f8e5m2 | n6 | n4 | n3
  | s8 | s16 | s32 | s64 | w8 | w16 | w32 | w64
  deriving DecidableEq, Repr

/-- The format of a 5-bit code; codes 0x10 to 0x1F are reserved (R44). -/
def Fmt.ofCode (c : Nat) : Option Fmt :=
  match c with
  | 0 => some .f32 | 1 => some .bf16 | 2 => some .f16 | 3 => some .f8e4m3 | 4 => some .f8e5m2
  | 5 => some .n6 | 6 => some .n4 | 7 => some .n3 | 8 => some .s8 | 9 => some .s16
  | 10 => some .s32 | 11 => some .s64 | 12 => some .w8 | 13 => some .w16 | 14 => some .w32
  | 15 => some .w64 | _ => none

/-- Width in bits (R44). -/
def Fmt.width : Fmt → Nat
  | .f32 => 32 | .bf16 => 16 | .f16 => 16 | .f8e4m3 => 8 | .f8e5m2 => 8 | .n6 => 6 | .n4 => 4 | .n3 => 3
  | .s8 => 8 | .s16 => 16 | .s32 => 32 | .s64 => 64 | .w8 => 8 | .w16 => 16 | .w32 => 32 | .w64 => 64

/-- Formats with NaN codes (R50). -/
def Fmt.isFloat : Fmt → Bool
  | .f32 | .bf16 | .f16 | .f8e4m3 | .f8e5m2 => true
  | _ => false

/-- The set F of R279: f32, bf16, f16. -/
def Fmt.isF : Fmt → Bool
  | .f32 | .bf16 | .f16 => true
  | _ => false

/-- The scaled narrow formats (R45). -/
def Fmt.isN : Fmt → Bool
  | .n6 | .n4 | .n3 => true
  | _ => false

/-- Signed integer formats (R51). -/
def Fmt.isS : Fmt → Bool
  | .s8 | .s16 | .s32 | .s64 => true
  | _ => false

/-- Unsigned integer formats (R51). -/
def Fmt.isW : Fmt → Bool
  | .w8 | .w16 | .w32 | .w64 => true
  | _ => false

/-- The integer formats (R51). -/
def Fmt.isInt (f : Fmt) : Bool := f.isS || f.isW

/-! ### Integer roots -/

/-- One digit of the integer square root, from bit `b` down. -/
def isqrtGo (n : Nat) : Nat → Nat → Nat
  | 0, r => r
  | b + 1, r => if (r + 2 ^ b) * (r + 2 ^ b) ≤ n then isqrtGo n b (r + 2 ^ b) else isqrtGo n b r

/-- The integer square root. -/
def isqrt (n : Nat) : Nat := isqrtGo n (Nat.log2 n / 2 + 1) 0

/-! ### Exact magnitudes -/

/-- A positive real. `dy m e` is m·2^e, `quo m e d` is m·2^e / d, `rsq m e` is 1/√(m·2^e), `exp i f b` is
2^(i + f/2^b) with 0 < f < 2^b, `one below` is a real within 2^-40 of 1, above or below it. -/
inductive Mag
  | dy (m : Nat) (e : Int)
  | quo (m : Nat) (e : Int) (d : Nat)
  | rsq (m : Nat) (e : Int)
  | exp (i : Int) (f b : Nat)
  | one (below : Bool)
  deriving DecidableEq, Repr

/-- floor(m·2^j / d) and whether it is exact. -/
def floorShift (m : Nat) (j : Int) (d : Nat) : Nat × Bool :=
  if 0 ≤ j then let x := m <<< j.toNat; (x / d, x % d == 0)
  else let q := d <<< (-j).toNat; (m / q, m % q == 0)

/-- Working precision of the power of two, in bits. -/
def expPrec : Nat := 192

/-- Lower and upper bounds of 2^(f/2^b), scaled by 2^expPrec: the product of the roots of two whose bits are set in
`f`, highest bit first; `lo` and `hi` bound the current root. -/
def expBounds (f : Nat) : Nat → Nat → Nat → Nat → Nat → Nat × Nat
  | 0, _, _, pl, ph => (pl, ph)
  | b + 1, lo, hi, pl, ph =>
    let lo' := isqrt (lo <<< expPrec)
    let hi' := isqrt (hi <<< expPrec) + 1
    if f / 2 ^ b % 2 == 1 then
      expBounds f b lo' hi' ((pl * lo') >>> expPrec) ((ph * hi') >>> expPrec + 1)
    else expBounds f b lo' hi' pl ph

/-- floor(x·2^(-k)) and whether it is exact. -/
def Mag.scaled (x : Mag) (k : Int) : Nat × Bool :=
  match x with
  | .dy m e => floorShift m (e - k) 1
  | .quo m e d => floorShift m (e - k) d
  | .rsq m e =>
    let r := (floorShift 1 (-(2 * k) - e) m).1
    let n := isqrt r
    (n, decide (floorShift (n * n * m) (e + 2 * k) 1 = (1, true)))
  | .exp i f b =>
    let (lo, _) := expBounds f b (2 <<< expPrec) (2 <<< expPrec) (1 <<< expPrec) (1 <<< expPrec)
    ((floorShift lo (i - k - expPrec) 1).1, false)
  | .one below => if 0 < k then (0, false) else (2 ^ (-k).toNat - b2n below, false)

/-- floor(log2 x) of a positive magnitude. -/
def Mag.log (x : Mag) : Int :=
  match x with
  | .dy m e => (Nat.log2 m : Int) + e
  | .quo m e d =>
    let c := (Nat.log2 m : Int) + e - Nat.log2 d
    if (x.scaled c).1 = 0 then c - 1 else c
  | .rsq m e =>
    let c := (-((Nat.log2 m : Int) + e)) / 2
    if (x.scaled (c + 1)).1 ≠ 0 then c + 1 else if (x.scaled c).1 ≠ 0 then c else c - 1
  | .exp i _ _ => i
  | .one below => if below then -1 else 0

/-- A value: NaN, a signed infinity, a signed zero or a signed positive magnitude. -/
inductive Val
  | nan
  | inf (neg : Bool)
  | zero (neg : Bool)
  | num (neg : Bool) (m : Mag)
  deriving DecidableEq, Repr

/-- The value m·2^e of sign `neg`. -/
def Val.ofDy (neg : Bool) (m : Nat) (e : Int) : Val := if m = 0 then .zero neg else .num neg (.dy m e)

/-- The value of an integer; zero is +0. -/
def Val.ofInt (x : Int) : Val := Val.ofDy (decide (x < 0)) x.natAbs 0

def Val.isNan : Val → Bool
  | .nan => true
  | _ => false

def Val.isInf : Val → Bool
  | .inf _ => true
  | _ => false

def Val.neg? : Val → Bool
  | .nan => false
  | .inf n => n
  | .zero n => n
  | .num n _ => n

/-- The negated value. -/
def Val.negate : Val → Val
  | .nan => .nan
  | .inf n => .inf (!n)
  | .zero n => .zero (!n)
  | .num n m => .num (!n) m

/-- A dyadic value as signed integer and exponent; zero for anything else. -/
def Val.dyadic : Val → Int × Int
  | .num n (.dy m e) => (if n then -(m : Int) else m, e)
  | _ => (0, 0)

/-! ### Floating-point formats (R50) -/

/-- Exponent bits, fraction bits and bias. -/
def Fmt.params : Fmt → Nat × Nat × Int
  | .f32 => (8, 23, 127)
  | .bf16 => (8, 7, 127)
  | .f16 => (5, 10, 15)
  | .f8e5m2 => (5, 2, 15)
  | _ => (4, 3, 7)

/-- The code of the largest finite value. -/
def Fmt.maxCode : Fmt → Nat
  | .f32 => 0x7F7FFFFF
  | .bf16 => 0x7F7F
  | .f16 => 0x7BFF
  | .f8e5m2 => 0x7B
  | _ => 0x7E

/-- The canonical NaN. -/
def Fmt.nanCode : Fmt → Nat
  | .f32 => 0x7FC00000
  | .bf16 => 0x7FC0
  | .f16 => 0x7E00
  | .f8e5m2 => 0x7E
  | _ => 0x7F

/-- Formats with infinities. -/
def Fmt.hasInf : Fmt → Bool
  | .f32 | .bf16 | .f16 | .f8e5m2 => true
  | _ => false

/-- The code of +∞. -/
def Fmt.infCode (f : Fmt) : Nat := f.maxCode + 1

/-- The value of a float code. -/
def floatVal (f : Fmt) (code : Nat) : Val :=
  let (ew, fw, bias) := f.params
  let c := code % 2 ^ f.width
  let neg := bit c (ew + fw)
  let ex := bits c (ew + fw - 1) fw
  let fr := c % 2 ^ fw
  if c % 2 ^ (ew + fw) > f.maxCode then
    (if f.hasInf && c % 2 ^ (ew + fw) == f.infCode then .inf neg else .nan)
  else if ex = 0 then Val.ofDy neg fr (1 - bias - fw)
  else Val.ofDy neg (2 ^ fw + fr) (ex - bias - fw)

/-! ### Scaled narrow formats (R45 to R48) -/

/-- Reserved types of a scale byte (R47 to R49). -/
def reservedType (f : Fmt) (ty : Nat) : Bool := (f == .n6 || f == .n3) && ty == 3

/-- Magnitude of code `c` (sign removed) of a signed-magnitude type, in sixteenths. -/
def nMag16 (f : Fmt) (ty c : Nat) : Nat :=
  match f with
  | .n4 => match ty with
    | 1 => if c < 2 then c * 8 else (2 + c % 2) * 8 * 2 ^ (c / 2 - 1)
    | 2 => if c = 0 then 0 else 2 ^ c
    | _ => if c ≤ 3 then c * 16 else (2 + c % 2) * 16 * 2 ^ (c / 2 - 1)
  | .n6 => match ty with
    | 1 => if c / 4 = 0 then c % 4 else (4 + c % 4) * 2 ^ (c / 4 - 1)
    | _ => if c / 8 = 0 then (c % 8) * 2 else (8 + c % 8) * 2 * 2 ^ (c / 8 - 1)
  | _ => match ty with
    | 1 => c * 8
    | _ => if c = 0 then 0 else 8 * 2 ^ (c - 1)

/-- `grid(type, c)` of R46 to R48, as a value; reserved types decode as +0 (R49). -/
def gridVal (f : Fmt) (ty code : Nat) : Val :=
  let c := code % 2 ^ f.width
  if reservedType f ty then .zero false
  else if ty = 0 then Val.ofInt (sext c f.width)
  else Val.ofDy (bit c (f.width - 1)) (nMag16 f ty (c % 2 ^ (f.width - 1))) (-4)

/-- The value of an element times pow2(e − 32) (R45). -/
def scaleVal (v : Val) (e : Nat) : Val :=
  match v with
  | .num n (.dy m x) => .num n (.dy m (x + (e : Int) - 32))
  | _ => v

/-- The value of a code: floats by R50, integers by R51, N formats by their scale byte `sc` (R45). -/
def valueOf (f : Fmt) (code sc : Nat) : Val :=
  if f.isFloat then floatVal f code
  else if f.isN then scaleVal (gridVal f (bits sc 7 6) code) (bits sc 5 0)
  else if f.isS then Val.ofInt (sext code f.width)
  else Val.ofInt ((code % 2 ^ f.width : Nat) : Int)

/-! ### Rounding (R12, R52) -/

/-- Whether mode `m` rounds the magnitude of a value of sign `neg` up, given the half bit, whether anything lies
below it, and whether the lower candidate is even. -/
def roundUp (m : Nat) (neg half sticky even : Bool) : Bool :=
  match m with
  | 0 => half && (sticky || !even)
  | 1 => false
  | 2 => !neg && (half || sticky)
  | _ => neg && (half || sticky)

/-- `x·2^(-q)` rounded to an integer in mode `m`. -/
def roundScaled (x : Mag) (q : Int) (m : Nat) (neg : Bool) : Nat :=
  let (n2, ex) := x.scaled (q - 1)
  let n := n2 / 2
  if roundUp m neg (n2 % 2 == 1) (!ex) (n % 2 == 0) then n + 1 else n

/-- `rnd` into a float format, unbounded at the top: the code without its sign, whose exponent may exceed the
field. -/
def floatRnd (f : Fmt) (x : Mag) (m : Nat) (neg : Bool) : Nat :=
  let (_, fw, bias) := f.params
  let emin : Int := 1 - bias
  let e := max x.log emin
  let q := e - fw
  let n := roundScaled x q m neg
  if n < 2 ^ fw then n
  else ((e - emin + 1).toNat) <<< fw + n - 2 ^ fw

/-- The result of a conversion: the code and whether an overflow event is posted. -/
structure Conv where
  code : Nat
  event : Bool
  deriving DecidableEq, Repr

/-- Sign bit of a signed-magnitude code. -/
def signBit (f : Fmt) (neg : Bool) : Nat := if neg then 2 ^ (f.width - 1) else 0

/-- `convert` into a float format (R50, R53, R54). -/
def convFloat (f : Fmt) (v : Val) (m : Nat) (s : Bool) : Conv :=
  match v with
  | .nan => ⟨f.nanCode, false⟩
  | .inf neg => if f.hasInf && !s then ⟨signBit f neg + f.infCode, false⟩ else ⟨signBit f neg + f.maxCode, true⟩
  | .zero neg => ⟨signBit f neg, false⟩
  | .num neg x =>
    let c := floatRnd f x m neg
    if c > f.maxCode then
      if s || f == .f8e4m3 || f == .f8e5m2 then ⟨signBit f neg + f.maxCode, true⟩
      else if m = 0 || (m = 2 && !neg) || (m = 3 && neg) then ⟨signBit f neg + f.infCode, false⟩
      else ⟨signBit f neg + f.maxCode, false⟩
    else ⟨signBit f neg + c, false⟩

/-- Range of an integer format (R51). -/
def intRange (f : Fmt) : Int × Int :=
  if f.isW then (0, 2 ^ f.width - 1) else (-2 ^ (f.width - 1), 2 ^ (f.width - 1) - 1)

/-- A value clamped to a closed range, and whether it was outside. -/
def clamp (v : Int) (r : Int × Int) : Int × Bool :=
  if v < r.1 then (r.1, true) else if r.2 < v then (r.2, true) else (v, false)

/-- `convert` into an integer format or an N integer type of width `w` and range `r` (R54). -/
def convInt (w : Nat) (r : Int × Int) (v : Val) (m : Nat) : Conv :=
  match v with
  | .nan => ⟨0, true⟩
  | .inf neg => ⟨wrapw (if neg then r.1 else r.2) w, true⟩
  | .zero _ => ⟨0, false⟩
  | .num neg x =>
    -- beyond 2^80 every integer format is exceeded: no need for the digits
    let n : Nat := if x.log > 80 then 2 ^ 80 else roundScaled x 0 m neg
    let (y, ev) := clamp (if neg then -(n : Int) else n) r
    ⟨wrapw y w, ev⟩

/-- The largest index `i ≤ n` of a signed-magnitude grid whose point does not exceed `x`; points in sixteenths of
2^k; `x·2^(-k)` is compared through its scaled floor. -/
def gridBelow (f : Fmt) (ty t16 : Nat) : Nat → Nat
  | 0 => 0
  | n + 1 => if nMag16 f ty (n + 1) ≤ t16 then n + 1 else gridBelow f ty t16 n

/-- `convert(x / pow2(e − 32), grid_of(type), m, 1)` of R56 for a signed-magnitude type. -/
def convGrid (f : Fmt) (ty e : Nat) (v : Val) (m : Nat) : Conv :=
  let top := 2 ^ (f.width - 1) - 1
  match v with
  | .nan => ⟨0, true⟩
  | .inf neg => ⟨signBit f neg + top, true⟩
  | .zero neg => ⟨signBit f neg, false⟩
  | .num neg x =>
    -- beyond 2^80 scaled units the value is over the grid in every mode
    if x.log > (e : Int) - 32 + 80 then ⟨signBit f neg + top, true⟩
    else
      let k : Int := (e : Int) - 32 - 4
      let (t2, ex) := x.scaled (k - 1)
      let t := t2 / 2
      let gtop := nMag16 f ty top
      let step := gtop - nMag16 f ty (top - 1)
      let i := if t < gtop then gridBelow f ty t top else top + (t - gtop) / step
      let pt : Nat → Nat := fun j => if j ≤ top then nMag16 f ty j else gtop + (j - top) * step
      let lo := pt i
      let hi := pt (i + 1)
      let onPoint := decide (t2 = 2 * lo) && ex
      let above := decide (t2 > lo + hi) || (decide (t2 = lo + hi) && !ex)
      let tie := decide (t2 = lo + hi) && ex
      let up := match m with
        | 0 => above || (tie && i % 2 == 1)
        | 1 => false
        | 2 => !neg && !onPoint
        | _ => neg && !onPoint
      let j := if up then i + 1 else i
      if j > top then ⟨signBit f neg + top, true⟩ else ⟨signBit f neg + j, false⟩

/-- The value divided by pow2(e − 32). -/
def unscale (v : Val) (e : Nat) : Val :=
  match v with
  | .num n (.dy m x) => .num n (.dy m (x - e + 32))
  | _ => v

/-- `convert(x, f, m, s)` of R54; `sc` is the scale byte for the N formats (R56). A reserved scale type writes
code 0 and posts an event (R49). -/
def convert (v : Val) (f : Fmt) (m : Nat) (s : Bool) (sc : Nat) : Conv :=
  if f.isFloat then convFloat f v m s
  else if f.isN then
    let ty := bits sc 7 6
    if reservedType f ty then ⟨0, true⟩
    else if ty = 0 then
      convInt f.width (-2 ^ (f.width - 1), 2 ^ (f.width - 1) - 1) (unscale v (bits sc 5 0)) m
    else convGrid f ty (bits sc 5 0) v m
  else convInt f.width (intRange f) v m

/-! ### Exact arithmetic -/

/-- The exact sum of two dyadic integers with exponents. -/
def dyAdd (a b : Int × Int) : Int × Int :=
  let e := min a.2 b.2
  (a.1 * 2 ^ (a.2 - e).toNat + b.1 * 2 ^ (b.2 - e).toNat, e)

/-- The value of a signed dyadic; an exact zero takes the sign `zneg`. -/
def dyVal (d : Int × Int) (zneg : Bool) : Val :=
  if d.1 = 0 then .zero zneg else .num (decide (d.1 < 0)) (.dy d.1.natAbs d.2)

/-- The exact sum; both zeros of one sign keep it, otherwise an exact zero is +0, or −0 in mode 3 (R227, R280). -/
def addVal (x z : Val) (mode : Nat) : Val :=
  match x, z with
  | .nan, _ => .nan
  | _, .nan => .nan
  | .inf a, .inf b => if a = b then .inf a else .nan
  | .inf a, _ => .inf a
  | _, .inf b => .inf b
  | .zero a, .zero b => if a = b then .zero a else .zero (mode == 3)
  | x, z => dyVal (dyAdd x.dyadic z.dyadic) (mode == 3)

/-- The exact product. -/
def mulVal (x u : Val) : Val :=
  match x, u with
  | .nan, _ => .nan
  | _, .nan => .nan
  | .inf a, .zero _ => let _ := a; .nan
  | .zero _, .inf _ => .nan
  | .inf a, u => .inf (a != u.neg?)
  | x, .inf b => .inf (x.neg? != b)
  | .zero a, u => .zero (a != u.neg?)
  | x, .zero b => .zero (x.neg? != b)
  | .num a (.dy m e), .num b (.dy n k) => .num (a != b) (.dy (m * n) (e + k))
  | .num _ _, .num _ _ => .nan

/-- The comparison key of a value: −0 below +0, infinities at the ends. None for NaN. `lt` is strict order with
−0 < +0 (R280). -/
def valLt (x z : Val) : Bool :=
  match x, z with
  | .nan, _ => false
  | _, .nan => false
  | .inf a, .inf b => a && !b
  | .inf a, _ => a
  | _, .inf b => !b
  | .zero a, .zero b => a && !b
  | x, z => decide ((dyAdd x.dyadic (-z.dyadic.1, z.dyadic.2)).1 < 0)

/-- Numeric order, where +0 and −0 are equal (R282). -/
def numLt (x z : Val) : Bool :=
  match x, z with
  | .zero _, .zero _ => false
  | _, _ => valLt x z

/-- Numeric equality: false with NaN; +0 = −0 (R282). -/
def numEq (x z : Val) : Bool := !x.isNan && !z.isNan && !numLt x z && !numLt z x

/-- `fadd` of R227 on codes: exact sum rounded once, IEEE overflow. -/
def faddCode (f : Fmt) (old z : Nat) : Nat :=
  (convert (addVal (floatVal f old) (floatVal f z) 0) f 0 false 0).code

/-- 2^Y (R281). Arguments beyond ±2^20 behave as ±2,000 in every float format; within 2^-40 of zero the result
lies within 2^-40 of 1. -/
def exp2Val (y : Val) : Val :=
  match y with
  | .nan => .nan
  | .inf neg => if neg then .zero false else .inf false
  | .zero _ => .num false (.dy 1 0)
  | .num neg (.dy m e) =>
    let lg := (Mag.dy m e).log
    if lg ≥ 20 then .num false (.dy 1 (if neg then -2000 else 2000))
    else if lg < -40 then .num false (.one neg)
    else if e ≥ 0 then
      let k := (m <<< e.toNat : Nat)
      .num false (.dy 1 (if neg then -(k : Int) else k))
    else
      let b := (-e).toNat
      let sm : Int := if neg then -(m : Int) else m
      let i := sm / 2 ^ b
      let fr := (sm % 2 ^ b).toNat
      if fr = 0 then .num false (.dy 1 i) else .num false (.exp i fr b)
  | .num _ _ => .nan

/-- 1 / Y (R281). -/
def rcpVal (y : Val) : Val :=
  match y with
  | .nan => .nan
  | .inf neg => .zero neg
  | .zero neg => .inf neg
  | .num neg (.dy m e) => .num neg (.quo 1 (-e) m)
  | .num _ _ => .nan

/-- 1 / √Y (R281). -/
def rsqVal (y : Val) : Val :=
  match y with
  | .nan => .nan
  | .inf neg => if neg then .nan else .zero false
  | .zero neg => .inf neg
  | .num neg (.dy m e) => if neg then .nan else .num false (.rsq m e)
  | .num _ _ => .nan

end Sys2Proof.Machine
end

