-- ==== Sys2Proof/Machine/State.lean ====
section
/-!
DEFINITION. The state of one WX-3 package as plain data, its reset value, and the reasons a step can stop. Every
structure names the rules that give its fields; register files, memories and numbered records are sparse tables.
-/
namespace Sys2Proof.Machine

/-! ### Reasons to stop -/

/-- Reasons a step can fault. -/
inductive Fault
  /-- A bytecode turn whose 32-bit word is no Lerant bytecode (R67): the checker accepts no program that holds one (R69),
  and the manual gives such a word no effect. Safe. -/
  | noBytecode (w : Nat)
  deriving DecidableEq, Repr

/-- Reasons a step can be refused. -/
inductive Refusal
  /-- An instruction that has no meaning in this model yet, by its mnemonic. Safe. -/
  | notModelled (mnemonic : String)
  /-- A turn whose instruction is not well formed: an operand outside the range its row gives. Safe. -/
  | illFormed
  deriving DecidableEq, Repr

/-! ### The registers of a core -/

/-- Full/empty state of a G register (R141); a poison with cause 0 is a poison without cause (R361). -/
inductive GSt
  | full
  | empty
  | poison (cause : Nat)
  deriving DecidableEq, Repr

/-- A G register (R141). -/
structure GReg where
  val : Word
  st : GSt
  deriving DecidableEq, Repr

/-- An entry of the loop stack (R148). -/
structure LoopEnt where
  start : Pc
  stop : Pc
  count : Nat
  i : Nat
  deriving DecidableEq, Repr

/-- States of a stream channel (R200). -/
inductive ChState
  | unbound
  | idle
  | running
  | done
  deriving DecidableEq, Repr

/-- An iteration vector (R202). -/
structure Vec where
  i0 : Nat
  i1 : Nat
  i2 : Nat
  i3 : Nat
  i4 : Nat
  deriving DecidableEq, Repr

/-- The part of a stream channel that belongs to the duplicate register set (R214); `cons` counts the items consumed
or pushed since position 0, and `skip` items of a grouped walk that sskip has still to pass (R208, R212). -/
structure ChDup where
  st : ChState
  desc : BitVec 512
  grp : Option Word
  pos : Vec
  cons : Nat
  skip : Nat
  deriving DecidableEq, Repr

/-- An operand descriptor (R258). -/
structure MdReg where
  base : Word
  w1 : Word
  deriving DecidableEq, Repr

/-- The duplicate register set: what a checkpoint records and a rollback restores (R177, R252). -/
structure Dup where
  g : Tab GReg
  c : BitVec 7
  loops : List LoopEnt
  v : Tab Wide
  spill : Tab Word
  ports : Tab Word
  wports : Tab Wide
  lat : Tab Word
  wlat : Tab Wide
  chan : Tab ChDup
  md : Tab MdReg
  fmt : Tab (BitVec 32)
  fbase : Nat
  level : Nat
  fp : Tab Nat
  ovq : List Word
  ovLost : Bool
  arrival : Option (Nat × Nat)
  deriving DecidableEq, Repr

/-- Modes of a strand (R135). -/
inductive Mode
  | user
  | priv
  | handler
  deriving DecidableEq, Repr

/-- The cause of the last trap (R348, R374). -/
structure Cause where
  code : Nat
  slot : Nat
  sub : Nat
  reg : Nat
  pc : Pc
  seg : Nat
  addr : Nat
  deriving DecidableEq, Repr

/-- A checkpoint: the duplicate set, the resume point, the mode, and the first issue cycle after its bundle (R177,
R178). -/
structure Ckpt where
  dup : Dup
  pc : Pc
  mode : Mode
  cyc : Nat
  deriving DecidableEq, Repr

/-- A weight latch (R252): 32 columns, and 32 scale bytes for each column. -/
structure Latch where
  col : Tab Col
  sc : Tab (BitVec 256)
  deriving DecidableEq, Repr

/-- An accumulator row and its saturation flag (R252). -/
structure AccRow where
  v : Wide
  f : Bool
  deriving DecidableEq, Repr

/-- A row of the undo buffer (R271). -/
structure UndoRow where
  bank : Nat
  row : Nat
  old : AccRow
  deriving DecidableEq, Repr

/-- Where a beat's operand or scale bytes come from once issue has resolved it (R257, R259): the value itself, or an
own-scratchpad read of `len` bits at `addr` in the next issue cycle. -/
inductive BeatSrc
  | val (x : Col)
  | spad (addr len : Nat)
  deriving DecidableEq, Repr

/-- Where a drained row goes (R257). -/
inductive DrainDst
  | spad (addr : Nat)
  | lq (n : Nat)
  | stream (ch : Nat)
  | vreg (n : Nat)
  deriving DecidableEq, Repr

/-- A beat in flight (R262 to R266): its active entry and number, latch contents as at issue, scale, bank, row and
counters. -/
structure BeatRec where
  kind : Nat
  entry : BitVec 32
  entryNo : Nat
  cols : Latch
  latch : Nat
  bank : Nat
  row : Nat
  ctrs : Nat
  deriving DecidableEq, Repr

/-- A command of an XP queue (R331): its operation, the issuing context, core, team and team-relative core, request tag,
model-order place on its core, its number in the order in which the package's queues take commands, and its words. -/
structure XpCmd where
  op : Nat
  ctx : Nat
  core : Nat
  team : Nat
  tcore : Nat
  tag : Nat
  place : Nat
  seq : Nat
  words : List Word
  deriving DecidableEq, Repr

/-- Effects of operations that fall due at a stated issue cycle (R160, R191, R266); `landed` stands for a local write that an
access ordered after it has already made to perform. -/
inductive Fx
  | lat (n : Nat) (v : Word)
  | wlat (n : Nat) (v : Wide)
  | creg (i : Nat) (b : Bool)
  | gFull (r : Nat) (v : Word)
  | spWrite (o len : Nat) (v : Wide) (ben : Option Word)
  | spRead (copy : Bool) (o len : Nat) (sx : Bool) (reg : Option Nat)
  | spReadV (copy : Bool) (o : Nat)
  | spSwap (copy : Bool) (o len : Nat) (v : Word)
  | spBor (o len : Nat) (v : Word)
  | tagLook (copy : Bool) (bank first last : Nat) (key : Nat)
  | tagGet (copy : Bool) (bank idx : Nat)
  | tagSet (bank idx : Nat) (v : Word)
  | tagClr (bank first last : Nat)
  | beatIn (b : BeatRec) (src scale : BeatSrc)
  | accAdd (b : BeatRec) (z : Col) (sc : BitVec 256)
  | shiftIn (b : BeatRec) (x : Col) (sc : BitVec 256)
  | accDrain (b : BeatRec) (zero : Bool) (dst : DrainDst)
  | drainOut (b : BeatRec) (x : AccRow) (dst : DrainDst)
  | event (w : Word)
  | events (b : BeatRec) (sc : BitVec 256)
  | seAct (op ch : Nat) (y a : Word) (desc : BitVec 512) (place : Nat)
  | outSpad (ch o len : Nat) (v : Col)
  | md (m : Nat) (r : MdReg)
  | fmtSet (k : Nat) (e : BitVec 32)
  | fmtLvl (level fbase : Nat)
  | ovPop
  | ovStat (clear : Bool)
  | accZero (bank first last : Nat)
  | wZero (l : Nat)
  | mxSave (part o : Nat)
  | mxRow (o : Nat) (v : Wide)
  | mxRead (part j o : Nat)
  | mxPlace (part j : Nat) (v : Wide)
  | mxDone (part : Nat)
  | nclr (blk j : Nat)
  | srWrite (s : Nat) (v : Word)
  | segCopy (k : Nat)
  | lqBind (n : Nat) (dir : Bool) (rlen key omask wn : Nat) (place : Nat)
  | lqFree (n : Nat)
  | rredRead (o len : Nat) (id : Nat)
  | rld (id : Nat)
  | xpDesc (o die : Nat) (cmd : XpCmd)
  | landed
  deriving DecidableEq, Repr

/-- An effect still due: the cycle; the rank within the cycle (R164, R191, R291), four times the major rank plus the
minor rank among effects of one bundle; and the issue cycle that started it (R178). -/
structure Due where
  at_ : Nat
  rank : Nat
  iss : Nat
  fx : Fx
  deriving DecidableEq, Repr

/-! ### Memory accesses of a core -/

/-- A part of a withheld store (R222): `len` bits at address `lo`; `seq` is its place in program order, `rel` and `scope` the
mask and scope of its release qualifier (R232). -/
structure WSub where
  seq : Nat
  lo : Nat
  len : Nat
  v : BitVec 256
  rel : Nat
  scope : Nat
  deriving DecidableEq, Repr

/-- An entry of the withholding buffer (R222): a sector, a class, and the stores it holds, oldest first. Of a released entry
that is sent in several writes, `last` marks the last of them. -/
structure WEnt where
  sector : Nat
  cls : Nat
  subs : List WSub
  last : Bool
  deriving DecidableEq, Repr

/-- What an outstanding access does (R217, R223, R239). `send` is a released entry; `near` a local LS write that lands at its
cycle (R196, R245), `echo` a load that has returned the strand's own stores of the entries `ids`, which have yet to perform
(R242), `pref` a prefetch (R230) and `scout` the speculative reads of a tag scout (R199). -/
inductive AOp
  | ld (sx : Bool)
  | ovl (copy sx : Bool)
  | send (e : WEnt)
  | atomic (idx fmt : Nat)
  | drd
  | dwr
  | pref
  | scout
  | peerLd (sx : Bool)
  | peerSt
  | peerBor
  | fence (mask scope : Nat)
  | rld (d : Nat)
  | rst
  | xsig
  | bar
  | grp (op : Nat) (w4 w5 w6 w7 : Word) (body : Col)
  | connect (h : Nat)
  | resq (e : Nat)
  | nsig
  | hbar
  | consume
  | sout (body : Col) (ch : Nat) (vec : Vec)
  | sin (ch : Nat) (vec : Vec)
  | near (at_ : Nat)
  | echo (ids : List Nat)
  deriving DecidableEq, Repr

/-- An access in model order (R239): `id` its place, `pid` its place in program order, address and length in bits, the
register that receives the reply, the data, the masks and scope of its qualifiers (R232), the parts already performed with
their values, the parts parked, its first error, whether the target answered with a park notice and for how many domain cycles since, and the team. -/
structure Acc where
  id : Nat
  pid : Nat
  cls : Nat
  op : AOp
  addr : Nat
  len : Nat
  reg : Nat
  data : Wide
  cmp : Word
  ben : Option Word
  acq : Nat
  rel : Nat
  scope : Nat
  got : Tab (Option Nat)
  parked : List Nat
  err : Option (Nat × Nat)
  peer : Nat
  sent : Bool
  sentAt : Nat
  held : Bool
  dead : Bool
  iss : Nat
  ctx : Nat
  tag : Nat
  team : Nat
  age : Nat
  deriving DecidableEq, Repr

/-! ### Streams and link queues -/

/-- State of an item read ahead (R204): being read, with the parts that have performed (none for an uncorrectable sector) and
those parked; read and not yet returned (with an uncorrectable sector or word, if one was met); arrived; requested of another
package; dropped; or faulted. -/
inductive ItemSt
  | reading (got : Tab (Option Nat)) (parked : List Nat)
  | read (v : Col) (ecc : Option Nat)
  | here (v : Col)
  | sent
  | dropped
  | fault (code : Nat) (addr : Nat)
  deriving DecidableEq, Repr

/-- An item of a channel's buffer. -/
structure Item where
  vec : Vec
  addr : Nat
  st : ItemSt
  deriving DecidableEq, Repr

/-- The running part of a channel (R200, R213): items read ahead, status, rows reserved by drains, offsets read (R208), those read before the read-ahead was last discarded,
the offset whose read is parked, the place in model order from which it reads (R246), and how many items from the position
are due together (R204). -/
structure ChRun where
  items : List Item
  flt : Bool
  fcode : Nat
  fvec : Vec
  ecc : Bool
  lod : Bool
  drop : Bool
  eccn : Nat
  lodn : Nat
  resv : Nat
  offs : List (Nat × Nat)
  known : List (Nat × Nat)
  offPark : Option Nat
  place : Nat
  need : Nat
  deriving DecidableEq, Repr

/-- A row of a link queue: its value, whether an outbound row is released, and its release place (R260, R311). -/
structure LqRow where
  v : Col
  rel : Bool
  place : Nat
  deriving DecidableEq, Repr

/-- A link queue (R260, R312, R361). -/
structure LinkQ where
  bound : Bool
  out : Bool
  rlen : Nat
  failed : Bool
  key : Nat
  omask : Nat
  credits : Nat
  drain : Bool
  tdom : Nat
  tmem : Nat
  tctx : Nat
  rows : List LqRow
  held : List LqRow
  resv : Nat
  seq : Nat
  deriving DecidableEq, Repr

/-! ### A core -/

/-- State of one half of instruction memory (R104): the segment last named, whether it is installed, copying (with
progress), or empty. `none` as segment means never named. -/
structure Half where
  seg : Option Nat
  installed : Bool
  copying : Bool
  parked : Bool
  deriving DecidableEq, Repr

/-- The reply of the divider (R169): register, value, domain cycles left, and whether a rollback discarded it. -/
structure Divide where
  reg : Nat
  v : Word
  left : Nat
  iss : Nat
  discard : Bool
  deriving DecidableEq, Repr

/-- How a resident strand stands (R356). -/
inductive Run
  | waiting                   -- placed, not yet started (R93)
  | running
  | yielded
  | exited
  deriving DecidableEq, Repr

/-- One compute core. `team` is none when the core is free. The last three fields are the model's own: of local writes that have
performed ahead of their issue cycle, that cycle, the offset, length and old bits (newest first); whether the strand's last attempt
to issue has met a stall (log entry 56); and of an mxsave of part 6, its issue cycle and the event queue as its copy has it (R276). -/
structure Core where
  team : Option Nat
  tcore : Nat
  run : Run
  pc : Pc
  mode : Mode
  tmode : Mode
  cause : Cause
  dup : Dup
  ck : Ckpt
  undo : List UndoRow
  named : List (Nat × Nat)
  cyc : Nat
  due : List Due
  spad : Tab Word
  spadBad : List Nat
  tags : Tab Word
  tagsBad : List Nat
  latch : Tab Latch
  acc : Tab AccRow
  chan : Tab ChRun
  lq : Tab LinkQ
  wb : List WEnt
  accs : List Acc
  nextId : Nat
  imem : Tab (BitVec 192)
  imemBad : List Nat
  half0 : Half
  half1 : Half
  refetch : List (Nat × Nat)
  divide : Option Divide
  mxBusy : Nat
  c7 : Bool
  cdown : Nat
  cdRun : Bool
  cdload : Nat
  park : Nat
  tcount : Nat
  shielded : Bool
  consume : List (Nat × Nat)
  sel : Option Pc
  leaf : Nat × Option Pc
  early : List (Nat × Nat × Nat × Nat)
  stalled : Bool
  evCopy : Option (Nat × List Word × Bool)
  deriving DecidableEq, Repr

/-! ### Work -/

/-- What the front end keeps of a kernel image (R20, R103, R256). -/
structure Img where
  base : Nat
  nseg : Nat
  carve : Nat
  n : Nat
  entries : List Nat
  segs : List (Nat × Nat)
  segtab : Nat
  fmt : Tab (BitVec 32)
  deriving DecidableEq, Repr

/-- An entry of an input-stream table (R90). -/
structure InStream where
  src : Word
  cstride : Int
  cores : Nat
  dst : Nat
  len : Nat
  tstride : Int
  deriving DecidableEq, Repr

/-- A request (R82 to R88): its draft, the create that its pin waits for (R380), the order in which its dependences were
met, its scoreboard entries, its termination weight and counts, a transfer's progress, the read it has
asked of another package and its writes not yet acknowledged,
the aging of its class (R96), and the pulse and die of its last claim of an initial team (R94). -/
structure Req where
  tag : Nat
  kind : Nat
  queue : Nat
  ctx : Nat
  draft : Tab Word
  st : Nat
  img : Img
  ins : List InStream
  pinDep : Option Nat
  met : Option Nat
  entered : Nat
  e : Nat
  d : Nat
  killed : Nat
  spawned : Nat
  claimed : Nat
  counter : Bool
  status : Nat
  copied : Nat
  asked : Option Nat
  out : Nat
  die : Nat
  aged : Tab Nat
  since : Word
  claimAt : Option (Nat × Nat)
  detail : Word
  deriving DecidableEq, Repr

/-- States of a team (R357), with `placed` before its first bundle (R93). -/
inductive TeamSt
  | ready
  | placed
  | running
  | requested
  | forcing
  | saving
  | saved
  | restoring
  | gone
  deriving DecidableEq, Repr

/-- A team (R14, R25, R357). `fresh` is true until its first placement; `fillAt` counts the pieces of
its fill that have landed, `asked` tells that the next one has been asked of another package (R92); `after` names the core, place
and team whose earlier accesses come before those of a spawned team (R250); `outq` lists the link queues whose released rows its
frame holds (R314). -/
structure Team where
  tag : Nat
  st : TeamSt
  weight : Nat
  args : List Word
  entries : List Nat
  n : Nat
  index : Nat
  gang : Bool
  spawned : Bool
  fresh : Bool
  cluster : Nat
  cores : List Nat
  slot : Option Nat
  ext : Option Nat
  reason : Nat
  exited : Nat
  order : Nat
  filled : Bool
  fillAt : Nat
  asked : Bool
  clock : Nat
  after : Option (Nat × Nat × Nat)
  outq : List (Nat × LinkQ)
  deriving DecidableEq, Repr

/-- A pin (R23, R98, R379): context, home cluster, banks; state 0 home, 1 moving, 2 waiting for home; and the tag of its create. -/
structure Pin where
  ctx : Nat
  home : Nat
  first : Nat
  count : Nat
  st : Nat
  moveTo : Nat
  team : Option Nat
  tag : Nat
  deriving DecidableEq, Repr

/-! ### The front end -/

/-- A queue (R57, R60, R63, R65), with the records that wait to be written to its error area (R118). -/
structure Queue where
  st : Nat
  lsize : Nat
  ring : Nat
  ctx : Nat
  prog : Nat
  ridx : Nat
  param : Nat
  plen : Nat
  err : Nat
  errseq : Nat
  pemit : Nat
  ival : Nat
  next : Nat
  seen : Nat
  scratch : Tab Word
  want : Option Nat
  errs : List Nat
  deriving DecidableEq, Repr

/-- A `rep` in progress (R67): its register, first and last body index, and the iterations. -/
structure RepFrame where
  reg : Nat
  first : Nat
  last : Nat
  i : Nat
  n : Nat
  deriving DecidableEq, Repr

/-- A Lerant interpreter (R64, R65): its queue, whether a packet is in progress and by which handle, a launch that waits for
a root counter (R70), the packet's registers, and how many emits of the packet and packets of the binding are done. -/
structure Interp where
  queue : Option Nat
  busy : Bool
  prog : Nat
  pend : Option Req
  a : Tab Word
  pkt : Tab Word
  draft : Tab Word
  pc : Nat
  reps : List RepFrame
  emits : Nat
  done : Nat
  deriving DecidableEq, Repr

/-- A checked handle (R69). -/
structure Checked where
  len : Nat
  pmax : Option Nat
  steps : Nat
  deriving DecidableEq, Repr

/-- A contribution record (R322): team, home package (2048 times its domain plus its member), context at the home, group,
rank; the generation that took the last contribution, 0 while none is acknowledged; how many contributions are unanswered,
the generations whose completion notice has come meanwhile; the strand's own context, and the ret range of the group in it,
once an acknowledgement has given it (R329). -/
structure RedRec where
  team : Nat
  home : Nat
  ctx : Nat
  grp : Nat
  rank : Nat
  gen : Nat
  pend : Nat
  seen : List Nat
  sctx : Nat
  ret : Option (Nat × Nat)
  deriving DecidableEq, Repr

/-- The front end (R57 to R74); `rot` names for each effective class the entry of the launch without a deadline that was
last served (R95), `gang` the gang that holds reservations and `gres` the clusters reserved for its teams (R101); `elogLate` holds
the records that wait to be written to the error log (R118). -/
structure FrontEnd where
  time : Word
  elogBase : Nat
  elogLost : Nat
  elogWp : Nat
  elogRp : Nat
  elogLate : List Nat
  widx : Tab Nat
  q : Tab Queue
  ip : Tab Interp
  store : Tab Word
  checked : Tab Checked
  pstat : Word
  check : Option (Nat × Nat)
  pctl : Nat
  reqs : Tab Req
  retired : List (Nat × Bool)
  lastPoll : Nat
  waitq : List Nat
  order : Nat
  nextTeam : Nat
  teams : Tab Team
  pins : Tab Pin
  unpinned : List (Nat × Nat × Pin)
  creates : List (Nat × Nat × Nat)
  releases : List (Nat × Nat)
  rot : Tab Nat
  gang : Option Nat
  gres : List (Nat × Nat)
  spawnRecs : Nat
  contribs : List RedRec
  deriving DecidableEq, Repr

/-- A dispatcher (R99, R102, R106) with its die's level, the level asked for at the next boundary, thermal floor, the time
of the floor's last change, and temperature (R386). -/
structure Disp where
  age : Word
  cldis : Nat
  resv : Option (Nat × Nat)
  lastPlace : Option Nat
  level : Nat
  want : Nat
  floor : Nat
  floorAt : Word
  temp : Nat
  deriving DecidableEq, Repr

/-! ### Translation -/

/-- A cached translation (R116, R236): kind 0 leaf, 1 descriptor, 2 window, 3 + l pointer entry of level l; context; the MTU
that holds a leaf or pointer; address or number; the bits covered, of a leaf or pointer; the words. -/
structure CacheEnt where
  kind : Nat
  ctx : Nat
  mtu : Nat
  key : Nat
  size : Nat
  words : List Word
  deriving DecidableEq, Repr

/-- Who waits on a parked access (R118). -/
inductive Who
  | acc (core id part : Nat)
  | sread (core ch : Nat) (vec : Vec) (part : Nat)
  | soff (core ch g : Nat)
  | fill (team : Nat)
  | copy (core half : Nat)
  | xfer (tag : Nat)
  | remote (rid part : Nat)
  | engine (id : Nat)
  | fetch (e : Nat)
  | group (g : Nat)
  | xperm (k : Nat)
  | interp (k : Nat)
  | elog
  | qerr (q : Nat)
  | cancelled (team : Nat)
  deriving DecidableEq, Repr

/-- How a part of an engine's access has ended (R39, R118): the bits read (0 for a write), an uncorrectable sector that was read,
or an error code. -/
inductive PartEnd
  | ok (v : Nat)
  | bad
  | err (code : Nat)
  deriving DecidableEq, Repr

/-- A part of an engine's unfinished work that has performed or been refused: whose it is, whether a write, its first bit and length
(0 where system software has refused it), and its end (R118, R120). -/
structure Part where
  who : Who
  wr : Bool
  lo : Nat
  len : Nat
  res : PartEnd
  deriving DecidableEq, Repr

/-- A parked access (R118, R119): its MTU, its record if one names it, and the fields of the record. -/
structure Park where
  mtu : Nat
  slot : Option Nat
  who : Who
  ctx : Nat
  addr : Nat
  g : Nat
  kind : Nat
  lvl : Nat
  time : Word
  clock : Nat
  deriving DecidableEq, Repr

/-- An unresolved fault record (R119, R128): its slot, context, address, engine group and time. -/
structure FaultRec where
  slot : Nat
  ctx : Nat
  addr : Nat
  g : Nat
  time : Word
  deriving DecidableEq, Repr

/-- The registers of an MTU (R119, R128) and its unresolved records, in the order of their writing. -/
structure Mtu where
  fqbase : Nat
  wp : Nat
  rp : Nat
  opened : List FaultRec
  deriving DecidableEq, Repr

/-- An invalidation in progress (R122, R127): op, target, page size, context and address as its write found them. -/
structure Inval where
  op : Nat
  tgt : Bool
  size : Nat
  ctx : Nat
  addr : Nat
  deriving DecidableEq, Repr

/-- The translation registers (R127), caches and parks, the parts of unfinished engine accesses that have performed (R118), and the
(team, context, granule) of cancelled requests that have been refused (R121). -/
structure Xlate where
  ctxbase : Nat
  ctxlen : Nat
  invctx : Nat
  invaddr : Nat
  inv : Option Inval
  drop : Word
  framebase : Nat
  framelen : Nat
  cache : List CacheEnt
  mtu : Tab Mtu
  parks : List Park
  parts : List Part
  refused : List (Nat × Nat × Nat)
  deriving DecidableEq, Repr

/-! ### The fabric -/

/-- A flow key registered at this package (R311, R312): context and key, the core's team and queue; the connected sender, by its
domain, member, strand and queue, with its flow handle; and the waiting connects. -/
structure FlowKey where
  ctx : Nat
  key : Nat
  team : Nat
  tcore : Nat
  lq : Nat
  sender : Option (Nat × Nat × Nat × Nat)
  waiting : List Packet
  deriving DecidableEq, Repr

/-- A request that arrived and has not been answered (R118, R124, R301): its parts that have performed, with their values, and
those parked; the first error; whether a park notice has been sent. -/
structure RemoteReq where
  pkt : Packet
  got : Tab (Option Nat)
  parked : List Nat
  err : Option (Nat × Nat)
  noticed : Bool
  deriving DecidableEq, Repr

/-- What a request of the Fuller itself is for: a piece of a transfer (R89), a piece of an input-stream fill (R92), a send of a
permutation collective (R328), a speculative read (R125), or a write, notice or withdrawal whose failure is logged (R322, R325). -/
inductive FlightFor
  | xfer (tag : Nat) (read : Bool) (off len : Nat)
  | fill (team core off len : Nat)
  | xperm (k q : Nat)
  | spec
  | note
  deriving DecidableEq, Repr

/-- A request of the Fuller that has not been answered (R301): its tag, its purpose, its target package, context and address,
when it was sent, and whether the target has answered with a park notice. -/
structure Flight where
  tag : Nat
  who : FlightFor
  ctx : Nat
  addr : Nat
  win : Option (Nat × Nat)
  t0 : Nat
  held : Bool
  deriving DecidableEq, Repr

/-- The fabric registers (R316), tables (R297), keys, packets queued for a port (none where no route was found) and the counters
c[k] of port q under 4 q + k (R299), packets sent to the own package, packets put on the wire, the sequence numbers of R302, the
Fuller's own requests with their next tag, and the target of each flow handle (handle, domain, member, context). -/
structure Fabric where
  id : Word
  ctl : Word
  portmap : Word
  up : Nat
  drop : Word
  dom : Tab Word
  glob : Tab Word
  keys : List FlowKey
  outq : List (Option Nat × Packet)
  starved : Tab Nat
  loop : List Packet
  wire : List (Nat × Packet)
  seqs : List (List Nat × Nat)
  remote : Tab RemoteReq
  nextRid : Nat
  flights : List Flight
  nextTag : Nat
  flows : List (Nat × Nat × Nat × Nat)
  deriving DecidableEq, Repr

/-- States of a group entry (R317). -/
inductive GrpSt
  | unset
  | idle
  | opened
  | incomplete
  | retiring
  | retired
  deriving DecidableEq, Repr

/-- One contribution of a rank: first element, and the codes (R321). -/
structure Contrib where
  rank : Nat
  first : Nat
  codes : List Nat
  deriving DecidableEq, Repr

/-- What a group's arithmetic has begun and cannot finish before a parked access performs (R318): an ending of R326's kind, or
the contribution whose row goes to staging. -/
inductive GrpWork
  | ending (kind : Nat)
  | row (p : Packet)
  deriving DecidableEq, Repr

/-- A reduction group (R317, R318): descriptor, result buffer, generation; of the generation in progress the contributions
in the order in which they were taken, the withdrawn ranks, the (domain, member, context) its packets came from and the time
of the first; the grpretires that wait (R327), and what a park holds up. -/
structure Group where
  st : GrpSt
  ctx : Nat
  desc : List Word
  rbase : Nat
  gen : Nat
  rows : List Contrib
  wdn : List Nat
  from_ : List (Nat × Nat × Nat)
  t0 : Word
  ret : List Packet
  work : Option GrpWork
  deriving DecidableEq, Repr

/-- A participation in a permutation collective (R328): its strand's context, core and access; the descriptor and length
tables; for each participant sent to, the packets not yet acknowledged; how far it is (0 checking, 1 sending, 2 waiting,
3 copying, 4 writing done); and the first failure. -/
structure Xperm where
  ctx : Nat
  core : Nat
  id : Nat
  desc : List Word
  old : List Nat
  new : List Nat
  sends : List (Nat × Nat)
  phase : Nat
  t0 : Word
  fail : Nat
  deriving DecidableEq, Repr

/-- The Fuller's arithmetic: groups, collectives, and bits arrived per (context, key) (R328). -/
structure Fuller where
  grp : Tab Group
  xp : Tab Xperm
  arrived : List (Nat × Nat × Nat)
  nextX : Nat
  deriving DecidableEq, Repr

/-! ### Experts -/

/-- An emission of an expert's pages into a ring (R339, R340): the next page and its number, the token count, the kind of
item and the weight address. -/
structure Emit where
  e : Nat
  ring : Nat
  lring : Nat
  tag : Nat
  page : Word
  n : Nat
  j : Nat
  kind : Nat
  waddr : Word
  deriving DecidableEq, Repr

/-- A command that an engine has started (R331, R340, R344): its kind (0 topk, 1 walk, 2 bias, 3 emission of a re-armed
wait entry); the words; a walk's next list index, an expert whose pages wait at its table (id, first page, count), the
emission in progress, pages parked and items emitted; a topk's bias snapshot and the logit rows that it has read (R335, R336);
the first failure and whether it ended the command; and the core, team, team-relative core and number of the strand's command
(R332). -/
structure XpJob where
  id : Nat
  kind : Nat
  ctx : Nat
  tag : Nat
  core : Nat
  team : Nat
  tcore : Nat
  seq : Nat
  words : List Word
  x : Nat
  pend : Option (Nat × Word × Nat)
  cur : Option Emit
  pages : Nat
  items : Nat
  snap : Option (List Nat)
  rows : List (List Nat)
  code : Nat
  ended : Bool
  failed : Bool
  deriving DecidableEq, Repr

/-- A wait entry (R340, R344): expert, ring, ring size, tag, first page, tokens, context and request, and whether its items are
being emitted. -/
structure WaitEnt where
  e : Nat
  ring : Nat
  lring : Nat
  tag : Nat
  page : Word
  n : Nat
  ctx : Nat
  req : Nat
  armed : Bool
  deriving DecidableEq, Repr

/-- A residency entry (R342): state, slot, lock, whether the catalogue entry is valid, its owner; of a fetching entry
whether it has claimed its slot, and when; and of an NVMe fetch the Read commands sent and completed, and whether one of them
has failed (R343). -/
structure Resid where
  st : Nat
  slot : Nat
  lock : Nat
  valid : Bool
  ctx : Nat
  claimed : Bool
  t0 : Word
  sent : Nat
  done_ : Nat
  bad : Bool
  deriving DecidableEq, Repr

/-- An NVMe queue pair (R343, R347): the submission tail, the completion head and whether its phase has flipped, the next command
identifier, and the commands not yet completed with their experts, none for a fetch that has ended. -/
structure NvmeQ where
  tail : Nat
  head : Nat
  flipped : Bool
  next : Nat
  out : List (Nat × Option Nat)
  deriving DecidableEq, Repr

/-- The expert engines of the package (R330 to R347): registers, residency entries, fetches that wait for their slot, wait
entries and locks that wait at a home table (expert and request), queues of commands and started commands by die. -/
structure Experts where
  cat : Nat
  catn : Nat
  slot : Nat
  slotn : Nat
  tmo : Nat
  nvq : Tab Word
  nvs : Tab NvmeQ
  res : Tab Resid
  fq : List Nat
  waits : List WaitEnt
  locks : List (Nat × Nat)
  cmds : Tab (List XpCmd)
  jobs : Tab (List XpJob)
  nextJob : Nat
  deriving DecidableEq, Repr

/-! ### Notify registers, barriers, host link, firmware and power -/

/-- A notify register (R364). -/
structure Notify where
  cnt : Nat
  coal : Bool
  word : BitVec 48
  deriving DecidableEq, Repr

/-- A hardware barrier (R367). -/
structure Barrier where
  gen : Nat
  need : Nat
  have_ : Nat
  deriving DecidableEq, Repr

/-- Notify registers, their capture queue and merge bits (R363 to R366), and the barriers (R367). -/
structure Sync where
  reg : Tab Notify
  nb : Tab Word
  gated : Bool
  capq : List (Nat × BitVec 48)
  merge : List Nat
  bar : Tab Barrier
  barCtx : Tab Word
  deriving DecidableEq, Repr

/-- A completion that a host port has made (R381, R382): its status, the data of a read, and the poisoned bit. -/
structure Cpl where
  status : Nat
  data : Nat
  poison : Bool
  deriving DecidableEq, Repr

/-- A host port (R381, R384): trained, CXL, width, generation, outstanding completions. -/
structure HPort where
  up : Bool
  cxl : Bool
  width : Nat
  gen : Nat
  out : List Cpl
  deriving DecidableEq, Repr

/-- What the device has told the host and its drives: MSI-X vectors (R381), back-invalidates (R383), and the cave pager's
reads and doorbell writes (R343). -/
inductive HostMsg
  | msix (vec : Nat)
  | backInval (line : Nat)
  | doorbell (addr : Word) (v : Nat)
  | uio (addr len : Nat)
  deriving DecidableEq, Repr

/-- The host link (R384), the lines that the host may hold (R383), the messages sent, and the sectors of host writes on their way:
physical address, bit address, length and value (R41, R61). -/
structure HostLink where
  ctx : Nat
  ready : Bool
  p2p : Tab Nat
  port : Tab HPort
  lines : List Nat
  msgs : List HostMsg
  late : List (Nat × Nat × Nat × Nat × Nat)
  deriving DecidableEq, Repr

/-- Firmware and fuses (R77 to R80, R385): measurements; the fused minimum version, identity blocks burned and key slots
revoked; whether the root firmware runs (R385, steps 1 and 2 done) or waits in recovery mode; its version; whether the
management cores are held; how many boots there have been; and the next reserved leaf. -/
structure Firm where
  meas : Tab (BitVec 256)
  minVer : Nat
  idBits : Nat
  keyRevoked : Nat
  up : Bool
  recovery : Bool
  rootVer : Nat
  mgmtHeld : Bool
  boots : Nat
  leafNext : Option Nat
  deriving DecidableEq, Repr

/-- Power (R386, R387): the pulse counter, the cap and thresholds, the samples of the last millisecond, newest first, with
the time of the newest, since when a die is above the trip temperature, whether the device has tripped, and when the levels
last rose and fell. -/
structure Power where
  pulse : Nat
  cap : Nat
  therm : Word
  samples : List Nat
  sampled : Word
  hot : Option Word
  tripped : Bool
  lastUp : Word
  lastDown : Word
  todo : Option (List Nat)
  deriving DecidableEq, Repr

/-! ### The machine -/

/-- One WX-3 package. `turns`, `tick`, `cur`, `fresh` are the model's own: the turns to come, the counter that feeds
the free schedule, the interpreter whose bytecode is running, and the counter of free values (log entries 1, 2). -/
structure State where
  turns : List Turn
  tick : Nat
  cur : Nat
  fresh : Nat
  cores : Tab Core
  fe : FrontEnd
  disp : Tab Disp
  xl : Xlate
  hbm : List Host.Cell
  hbmBad : List Nat
  fab : Fabric
  ful : Fuller
  xp : Experts
  sync : Sync
  hl : HostLink
  firm : Firm
  pow : Power
  deriving DecidableEq, Repr

/-! ### Initial values -/

def GReg.init : GReg := ⟨0, .full⟩
def Vec.zero : Vec := ⟨0, 0, 0, 0, 0⟩
def ChDup.init : ChDup := ⟨.unbound, 0, none, Vec.zero, 0, 0⟩
def MdReg.init : MdReg := ⟨0, 0⟩

/-- The default format entry (R256). -/
def fmtDefault : BitVec 32 := 0x08400000#32

/-- The duplicate register set of a strand's first bundle (R18, R256). -/
def Dup.init : Dup :=
  { g := [], c := 0, loops := [], v := [], spill := [], ports := [], wports := [], lat := [], wlat := [],
    chan := [], md := [], fmt := [], fbase := 0, level := 6, fp := [], ovq := [], ovLost := false,
    arrival := none }

def Cause.init : Cause := ⟨0, 0, 0, 0, 0, 0, 0⟩
def Ckpt.init : Ckpt := ⟨Dup.init, 0, .user, 0⟩
def Latch.init : Latch := ⟨[], []⟩
def AccRow.init : AccRow := ⟨0, false⟩
def ChRun.init : ChRun :=
  { items := [], flt := false, fcode := 0, fvec := Vec.zero, ecc := false, lod := false,
    drop := false, eccn := 0, lodn := 0, resv := 0, offs := [], known := [], offPark := none, place := 0, need := 1 }
def LinkQ.init : LinkQ :=
  { bound := false, out := false, rlen := 0, failed := false, key := 0, omask := 0, credits := 0,
    drain := false, tdom := 0, tmem := 0, tctx := 0, rows := [], held := [], resv := 0, seq := 0 }
def Half.init : Half := ⟨none, false, false, false⟩

/-- A core that holds no strand: every register at the value of R18 (log entry 3). -/
def Core.init : Core :=
  { team := none, tcore := 0, run := .waiting, pc := 0, mode := .user, tmode := .user, cause := Cause.init,
    dup := Dup.init, ck := Ckpt.init, undo := [], named := [], cyc := 0, due := [], spad := [], spadBad := [],
    tags := [], tagsBad := [], latch := [], acc := [], chan := [], lq := [], wb := [], accs := [], nextId := 0,
    imem := [], imemBad := [], half0 := Half.init, half1 := Half.init, refetch := [], divide := none,
    mxBusy := 0, c7 := false, cdown := 0, cdRun := false, cdload := 0, park := 0, tcount := 0,
    shielded := false, consume := [], sel := none, leaf := (5, none), early := [], stalled := false, evCopy := none }

def Img.init : Img := ⟨0, 0, 0, 1, [], [], 0, []⟩
def Req.init : Req :=
  { tag := 0, kind := 0, queue := 0, ctx := 0, draft := [], st := 0, img := Img.init, ins := [], pinDep := none, met := none,
    entered := 0, e := 0, d := 0, killed := 0, spawned := 0, claimed := 0, counter := false, status := 0,
    copied := 0, asked := none, out := 0, die := 0, aged := [], since := 0, claimAt := none, detail := 0 }
def Team.init : Team :=
  { tag := 0, st := .gone, weight := 0, args := [], entries := [], n := 1, index := 0, gang := false,
    spawned := false, fresh := true, cluster := 0, cores := [], slot := none, ext := none, reason := 0,
    exited := 0, order := 0, filled := false, fillAt := 0, asked := false, clock := 0, after := none, outq := [] }
def Pin.init : Pin := ⟨0, 0, 0, 0, 0, 0, none, 0⟩
def Queue.init : Queue :=
  { st := 0, lsize := 0, ring := 0, ctx := 0, prog := 0, ridx := 0, param := 0, plen := 0, err := 0,
    errseq := 0, pemit := 0, ival := 0, next := 0, seen := 0, scratch := [], want := none, errs := [] }

/-- The draft's defaults (R70): one team, a countdown of 65,536, zeros. -/
def draftInit : Tab Word := [(1, 1), (7, 65536)]

def Interp.init : Interp :=
  { queue := none, busy := false, prog := 0, pend := none, a := [], pkt := [], draft := draftInit, pc := 0, reps := [],
    emits := 0, done := 0 }
def Checked.init : Checked := ⟨0, none, 0⟩
def FrontEnd.init : FrontEnd :=
  { time := 0, elogBase := 0, elogLost := 0, elogWp := 0, elogRp := 0, elogLate := [], widx := [], q := [], ip := [],
    store := [], checked := [], pstat := 0, check := none, pctl := 0, reqs := [], retired := [], lastPoll := 0, waitq := [], order := 0,
    nextTeam := 0, teams := [], pins := [], unpinned := [], creates := [], releases := [], rot := [], gang := none, gres := [], spawnRecs := 0, contribs := [] }

/-- Dispatcher registers after reset (R106). -/
def Disp.init : Disp :=
  { age := 0x0000C350138801F4#64, cldis := 0, resv := none, lastPlace := none, level := 0, floor := 0,
    want := 0, floorAt := 0, temp := 0 }
def Mtu.init : Mtu := ⟨0, 0, 0, []⟩

/-- Translation registers after reset (R127). -/
def Xlate.init : Xlate :=
  { ctxbase := 0, ctxlen := 1, invctx := 0, invaddr := 0, inv := none, drop := 0, framebase := 0,
    framelen := 0, cache := [], mtu := [], parks := [], parts := [], refused := [] }

/-- Fabric registers after reset (R316): adaptive routing on, starvation 64, time-out 1,000 µs. -/
def Fabric.init : Fabric :=
  { id := 0, ctl := 0x00000003004003E8#64, portmap := 0, up := 0, drop := 0, dom := [], glob := [],
    keys := [], outq := [], starved := [], loop := [], wire := [], seqs := [], remote := [], nextRid := 0, flights := [],
    nextTag := 0, flows := [] }
def Packet.blank : Packet :=
  { tier := 0, resp := false, hop := 0, tdom := 0, tmem := 0, sdom := 0, smem := 0, op := 0, cls := 0, tctx := 0, score := 0,
    seq := 0, qual := 0, scope := 0, tag := 0, len := 1, nc := false, addr := 0, data := 0, x4 := 0, x5 := 0, x6 := 0, x7 := 0,
    body := 0, flits := 0, via := none, gate := none }
def RemoteReq.init : RemoteReq := ⟨Packet.blank, [], [], none, false⟩
def Group.init : Group :=
  { st := .unset, ctx := 0, desc := [], rbase := 0, gen := 0, rows := [], wdn := [], from_ := [], t0 := 0, ret := [], work := none }
def Xperm.init : Xperm := ⟨0, 0, 0, [], [], [], [], 0, 0, 0⟩
def Fuller.init : Fuller := ⟨[], [], [], 0⟩
def Resid.init : Resid := ⟨0, 0, 0, false, 0, false, 0, 0, 0, false⟩
def NvmeQ.init : NvmeQ := ⟨0, 0, false, 0, []⟩

/-- The logical-block-size field of word 1 of an NVMe queue resets to 9 (R347). -/
def nvqDefault (k : Nat) : Word := if k % 4 = 1 then 0x0000240000000000#64 else 0

/-- Expert registers after reset (R347). -/
def Experts.init : Experts :=
  { cat := 0, catn := 0, slot := 0, slotn := 0, tmo := 1000, nvq := [], nvs := [], res := [], fq := [], waits := [], locks := [],
    cmds := [], jobs := [], nextJob := 0 }
def Notify.init : Notify := ⟨0, false, 0⟩

/-- A barrier after reset needs an arrival weight of 1 (R367). -/
def Barrier.init : Barrier := ⟨0, 1, 0⟩
def Sync.init : Sync := ⟨[], [], false, [], [], [], []⟩
def HPort.init : HPort := ⟨false, false, 0, 0, []⟩
def HostLink.init : HostLink := ⟨0, false, [], [], [], [], []⟩

/-- Firmware state after reset (R78, R385): measurements zero; no fuse is blown (log entry 3); the boot steps have not
run, so the management cores are held. -/
def Firm.init : Firm :=
  { meas := [], minVer := 0, idBits := 0, keyRevoked := 0, up := false, recovery := false, rootVer := 0, mgmtHeld := true,
    boots := 0, leafNext := none }

/-- Power registers after reset (R387): cap 2,400 W, trip 115 °C, throttle 100 °C. -/
def Power.init : Power :=
  { pulse := 0, cap := 2400, therm := 0x7364#64, samples := [], sampled := 0, hot := none, tripped := false, lastUp := 0,
    lastDown := 0, todo := none }

/-- The machine right after reset (R385): every register at its stated value, memory with nothing listed. -/
def State.reset : State :=
  { turns := [], tick := 0, cur := 0, fresh := 0, cores := [], fe := FrontEnd.init, disp := [],
    xl := Xlate.init, hbm := [], hbmBad := [], fab := Fabric.init, ful := Fuller.init, xp := Experts.init,
    sync := Sync.init, hl := HostLink.init, firm := Firm.init, pow := Power.init }

end Sys2Proof.Machine
end

