-- ==== Sys2Proof/Machine/Mem.lean ====
section
/-!
DEFINITION. The two bit-addressed stores of the package: the scratchpad of a core, held as 64-bit words (R190,
R192), and HBM, held as bytes (R109). Every read and write of several bits goes through here, so the little-endian
order of R7 is decided once.
-/
namespace Sys2Proof.Machine

/-! ### HBM -/

/-- The canonical form of memory: addresses strictly rising, no entry equal to what an unlisted byte reads as. -/
abbrev Memory.wf (m : List Host.Cell) : Bool := Tab.wf (0 : Byte) m

/-- One byte of HBM; a byte that nothing has written reads 0 (log entry 5). -/
def readByte (m : List Host.Cell) (b : Nat) : Byte := Tab.get 0 m b

/-- Write one byte of HBM. -/
def writeByte (m : List Host.Cell) (b : Nat) (v : Byte) : List Host.Cell := Tab.set 0 b v m

/-- The `n` bits at physical bit address `p` (R7). -/
def hbmBits (m : List Host.Cell) (p n : Nat) : Nat :=
  (gather (fun b => (readByte m b).toNat) 8 (p / 8) ((p % 8 + n + 7) / 8)) >>> (p % 8) % 2 ^ n

/-- Write the bytes of `x`, low byte first, at bytes `b`, …. -/
def writeBytes (b x : Nat) : Nat → List Host.Cell → List Host.Cell
  | 0, m => m
  | n + 1, m => writeBytes (b + 1) (x / 256) n (writeByte m b (BitVec.ofNat 8 x))

/-- Write the low `n` bits of `v` at physical bit address `p`; no other bit changes (R7, R39). -/
def hbmPut (m : List Host.Cell) (p n v : Nat) : List Host.Cell :=
  let k := (p % 8 + n + 7) / 8
  let old := gather (fun b => (readByte m b).toNat) 8 (p / 8) k
  writeBytes (p / 8) (putBits old (p % 8) n v) k m

/-- The sectors that `n` bits at `p` touch (R39). -/
def sectors (p n : Nat) : List Nat := if n = 0 then [] else span (p / 256) ((p + n - 1) / 256 + 1 - p / 256)

/-- The first sector of an access that holds an uncorrectable error. -/
def badSector (s : State) (p n : Nat) : Option Nat := (sectors p n).find? (fun k => s.hbmBad.contains k)

/-- Sector part of an access: the bits of [a, a+n) that lie in sector `k`, as (first bit, length). -/
def sectorPart (a n k : Nat) : Nat × Nat :=
  let lo := max a (256 * k)
  (lo, min (a + n) (256 * (k + 1)) - lo)

/-- Before a device write to a line that the host may hold performs, the device back-invalidates it (R236, R383). -/
def backInvalidate (s : State) (p : Nat) : State :=
  if s.hl.lines.contains (p / 512) then
    { s with hl := { s.hl with lines := s.hl.lines.erase (p / 512), msgs := s.hl.msgs ++ [.backInval (p / 512)] } }
  else s

/-- How a store of `n` bits at `p` performs: a write of whole bytes (1), or an `rmw` (3) (R39, R119). -/
def storeKind (p n : Nat) : Nat := if p % 8 == 0 && n % 8 == 0 then 1 else 3

/-- One sector part of a store at its controller (R39, R40): whole bytes are written without a read, anything else is
an `rmw` that fails on an uncorrectable sector and leaves it unchanged. Answers false on that failure. -/
def storePart (s : State) (p n v : Nat) : State × Bool :=
  let k := p / 256
  let whole := p % 8 == 0 && n % 8 == 0
  if !whole && s.hbmBad.contains k then (s, false)
  else
    let s := backInvalidate s p
    let bad := if n == 256 then s.hbmBad.erase k else s.hbmBad
    ({ s with hbm := hbmPut s.hbm p n v, hbmBad := bad }, true)

/-- A 64-bit word of physical memory, single-copy atomic (R41); none on an uncorrectable sector. -/
def physWord (s : State) (p : Nat) : Option Word :=
  if s.hbmBad.contains (p / 256) then none else some (wordN (hbmBits s.hbm p 64))

/-- Write a 64-bit word of physical memory. -/
def physPut (s : State) (p : Nat) (v : Word) : State := (storePart s p 64 v.toNat).1

/-! ### Scratchpad -/

/-- Size of the scratchpad in bits, and of a bank (R190). -/
def spadBits : Nat := 0x280000
def bankBits : Nat := 0x28000

/-- The `n` bits at scratchpad bit address `o` (R7). -/
def spadGet (m : Tab Word) (o n : Nat) : Nat :=
  (gather (fun k => (Tab.get 0 m k).toNat) 64 (o / 64) ((o % 64 + n + 63) / 64)) >>> (o % 64) % 2 ^ n

/-- Write 64-bit words of `x` from word `k`. -/
def spadWords (k x : Nat) : Nat → Tab Word → Tab Word
  | 0, m => m
  | n + 1, m => spadWords (k + 1) (x / 2 ^ 64) n (Tab.set 0 k (wordN x) m)

/-- The words that `n` bits at `o` touch. -/
def spadTouch (o n : Nat) : List Nat := if n = 0 then [] else span (o / 64) ((o + n - 1) / 64 + 1 - o / 64)

/-- The uncorrectable words of an access. -/
def spadErrs (bad : List Nat) (o n : Nat) : List Nat := (spadTouch o n).filter (fun k => bad.contains k)

/-- The 64-bit words of a list of masks and values, from word `k`: a write of part of an uncorrectable word sets its other
bits to 0, and re-encodes it (R192). Answers the words so cleared. -/
def spadMasked (m : Tab Word) (bad : List Nat) (k : Nat) : List (Nat × Nat) → Tab Word × List Nat × List Nat
  | [] => (m, bad, [])
  | (mask, v) :: r =>
    if mask = 0 then spadMasked m bad (k + 1) r
    else
      let hit := bad.contains k
      let part := hit && mask != 2 ^ 64 - 1
      let old := if hit then 0 else (Tab.get 0 m k).toNat
      let new := (old &&& (2 ^ 64 - 1 - mask)) ||| (v &&& mask)
      let (m, bad, cleared) := spadMasked (Tab.set 0 k (wordN new) m) (bad.filter (· != k)) (k + 1) r
      (m, bad, if part then k :: cleared else cleared)

/-- A write of `n` bits at `o`. A write that covers only part of an uncorrectable word sets the word's other bits to 0,
and re-encodes it (R192). Answers the words so cleared. -/
def spadPut (m : Tab Word) (bad : List Nat) (o n v : Nat) : Tab Word × List Nat × List Nat :=
  let k := (o % 64 + n + 63) / 64
  let hit := (spadTouch o n).filter (fun w => bad.contains w)
  let part := hit.filter (fun w => !(decide (o ≤ 64 * w) && decide (64 * (w + 1) ≤ o + n)))
  let m := part.foldl (fun m w => Tab.drop w m) m
  let old := gather (fun k => (Tab.get 0 m k).toNat) 64 (o / 64) k
  (spadWords (o / 64) (putBits old (o % 64) n v) k m, bad.filter (fun w => !hit.contains w), part)

/-- A read of `n` bits at `o`: 0 for the whole access when it touches uncorrectable words, which are named
(R192). -/
def spadLoad (m : Tab Word) (bad : List Nat) (o n : Nat) : Nat × List Nat :=
  (if spadErrs bad o n = [] then spadGet m o n else 0, spadErrs bad o n)

end Sys2Proof.Machine
end

