-- ==== Sys2Proof/Machine/Xlate.lean ====
section
/-!
DEFINITION. Address translation (R107 to R117, R123): context descriptors, the heap addition, the page-table walk,
the leaf check with its accessed and dirty bits, and the window table.
-/
namespace Sys2Proof.Machine

/-- Error codes of R72, R112, R183, R301, R320, R333, R354, R386. -/
def eMalformed : Nat := 0x01
def eAlignment : Nat := 0x02
def eEcc : Nat := 0x03
def eWidth : Nat := 0x04
def eDevreg : Nat := 0x05
def eResvwrite : Nat := 0x06
def ePerm : Nat := 0x07
def eUnmapped : Nat := 0x08
def ePeerwin : Nat := 0x09
def eFetchrange : Nat := 0x0A
def eOfforder : Nat := 0x0B
def eOffrange : Nat := 0x0C
def eRetired : Nat := 0x0D
def eLivegroup : Nat := 0x0E
def eWindow : Nat := 0x0F
def eImage : Nat := 0x10
def eDraft : Nat := 0x11
def ePinrefused : Nat := 0x12
def eQoverflow : Nat := 0x13
def eLerantload : Nat := 0x14
def eRej : Nat := 0x15
def eStop : Nat := 0x16
def eFramefault : Nat := 0x17
def eSignature : Nat := 0x18
def ePtentry : Nat := 0x20
def eHeaprange : Nat := 0x21
def eHalt : Nat := 0x23
def eFabtimeout : Nat := 0x24
def eNoroute : Nat := 0x25
def eFlow : Nat := 0x26
def eGrpdup : Nat := 0x27
def eGrpstate : Nat := 0x28
def eRedrange : Nat := 0x29
def eXtable : Nat := 0x2A
def eCavefail : Nat := 0x2B
def eXpstate : Nat := 0x2C
def eDblfault : Nat := 0x2D
def eThermtrip : Nat := 0x2E

/-- Engine groups (R114). -/
def gStrand : Nat := 0
def gStream : Nat := 1
def gMatrix : Nat := 2
def gRemote : Nat := 3
def gWalker : Nat := 4
def gHost : Nat := 5
def gPager : Nat := 6
def gMgmt : Nat := 7

/-- Region of a bit address (R107). -/
def region (a : Nat) : Nat := bits a 55 52

/-- The code that an access of `n` bits at `a` receives for its shape alone: device registers accept only 64 bits at a multiple of
64 (R43). -/
def devShape (a n : Nat) : Option Nat := if region a = 14 ∧ (n ≠ 64 ∨ a % 64 ≠ 0) then some eDevreg else none

/-- A context descriptor (R110). -/
structure Desc where
  root : Nat
  hbase : Nat
  hlimit : Nat
  hoff : Int
  hperm : Nat
  park : Nat
  wbase : Nat
  wcount : Nat
  deriving DecidableEq, Repr

/-- Read a descriptor's eight words; none when a sector is uncorrectable. -/
def descWords (s : State) (p : Nat) : Nat → Option (List Word)
  | 0 => some []
  | n + 1 => match physWord s p, descWords s (p + 64) n with
    | some w, some r => some (w :: r)
    | _, _ => none

/-- The descriptor that eight words hold; none when it is invalid (R110). A wbase of 2^42 or more is valid (DESIGN CHOICE, log entry
74). -/
def descOf : List Word → Option Desc
  | [w0, w1, w2, w3, w4, w5, w6, w7] =>
    let hb := w1.toNat
    let hl := w2.toNat
    if flag w0 63 && fld w0 62 42 == 0 && fld w0 17 0 == 0 && fld w1 63 56 == 0 && fld w2 63 56 == 0
        && hb % 2 ^ 19 == 0 && hl % 2 ^ 19 == 0 && decide (hb ≤ hl) && decide (1 ≤ region hb)
        && decide (region hb ≤ 7) && decide (hl ≤ 0x80000000000000) && fld w3 18 0 == 0 && fld w5 63 56 == 0
        && w5.toNat % 128 == 0 && fld w6 63 15 == 0 && decide (w6.toNat ≤ 24576) && w7 == 0 then
      some { root := fld w0 41 18, hbase := hb, hlimit := hl, hoff := w3.toInt, hperm := fld w4 63 48,
             park := fld w4 47 0, wbase := w5.toNat, wcount := w6.toNat }
    else none
  | _ => none

/-- A cached entry, by kind, context, MTU and address. -/
def findCache (s : State) (kind ctx mtu key : Nat) : Option CacheEnt :=
  s.xl.cache.find? (fun e => e.kind == kind && e.ctx == ctx && e.mtu == mtu && e.key == key / 2 ^ e.size * 2 ^ e.size)

/-- Draw a free value. -/
def draw (s : State) : State × Nat := ({ s with fresh := s.fresh + 1 }, s.fresh)

/-- Choose between the words in memory and a cached copy that differs: whether the copy still stands is free
(R116, R236; log entry 6). -/
def viaCache (s : State) (kind ctx key : Nat) (now : List Word) : State × List Word :=
  match findCache s kind ctx 0 key with
  | none => (s, now)
  | some e => if e.words = now then (s, now)
      else let (s, n) := draw s
        if Config.cacheHit n then (s, e.words) else (s, now)

/-- Put an entry into its cache. -/
def cachePut (s : State) (e : CacheEnt) : State :=
  let rest := s.xl.cache.filter (fun x => !(x.kind == e.kind && x.ctx == e.ctx && x.mtu == e.mtu && x.key == e.key))
  { s with xl := { s.xl with cache := e :: rest } }

/-- The descriptor of context `c` (R110); a context at or beyond XL_CTXLEN is invalid (R127), and so is one that lies in an
uncorrectable sector (log entry 55). -/
def descriptor (s : State) (c : Nat) : State × Option Desc :=
  if s.xl.ctxlen ≤ c then (s, none)
  else
    let now := (descWords s (s.xl.ctxbase + 512 * c) 8).getD []
    let (s, ws) := viaCache s 1 c 0 now
    let d := descOf ws
    (if d.isSome then cachePut s ⟨1, c, 0, 0, 0, ws⟩ else s, d)

/-- Engine permission (R114, R115): kind 0 read, 1 write, 2 atomic, 3 `rmw`. -/
def allowed (perm g kind : Nat) : Bool :=
  match kind with
  | 0 => bit perm (2 * g)
  | 2 => bit perm (2 * g) && bit perm (2 * g + 1)
  | _ => bit perm (2 * g + 1)

/-- Outcome of a translation: a physical address, a park at a level (R118), or an error code. -/
inductive XRes
  | ok (p : Nat)
  | park (lvl : Nat)
  | err (code : Nat)
  deriving DecidableEq, Repr

/-- Index of `a` in the table of level `l` (R113). -/
def ptIndex (a l : Nat) : Nat :=
  match l with
  | 0 => bits a 55 44 | 1 => bits a 43 33 | 2 => bits a 32 24 | _ => bits a 23 19

/-- log2 of the bits that a leaf of level `l` maps (R113). -/
def leafSize (l : Nat) : Nat := match l with | 1 => 33 | 2 => 24 | _ => 19

/-- A malformed page-table entry (R114, R115). -/
def ptMalformed (e : Word) (l : Nat) : Bool :=
  match fld e 1 0 with
  | 0 => false
  | 1 => l == 3 || fld e 63 42 != 0 || fld e 10 2 != 0
      || (fld e 41 11 * 2048) % (match l with | 0 => 2 ^ 17 | 1 => 2 ^ 15 | _ => 2 ^ 11) != 0
  | 2 => l == 0 || fld e 47 42 != 0 || fld e 18 8 != 0 || (fld e 41 19 * 2 ^ 19) % 2 ^ leafSize l != 0
  | _ => true

/-- Result of a page-table walk: the leaf, its level and its physical address. -/
inductive Walked
  | leaf (e : Word) (lvl p : Nat)
  | absent (lvl : Nat)
  | bad (code : Nat)
  deriving DecidableEq, Repr

/-- The home MTU of a paged address (R116). -/
def homeMtu (a : Nat) : Nat := bits a 21 19

/-- log2 of the bits that an entry of level `l` covers (R113). -/
def ptCover (l : Nat) : Nat := match l with | 0 => 44 | 1 => 33 | 2 => 24 | _ => 19

/-- Where the home MTU of `a` keeps the pointer entry of level `l` (R116). -/
def pointerEnt (c a l : Nat) (e : Word) : CacheEnt :=
  ⟨3 + l, c, homeMtu a, a / 2 ^ ptCover l * 2 ^ ptCover l, ptCover l, [e]⟩

/-- An entry of level `l` at `p` as a walk reads it: the word in memory, or a pointer that the MTU's walk cache may still hold
(R116, R236; log entry 6). -/
def readPt (s : State) (c a l p : Nat) : State × Option Word :=
  let now := physWord s p
  match findCache s (3 + l) c (homeMtu a) a with
  | none => (s, now)
  | some e => match e.words with
    | [w] => if now = some w then (s, now)
      else let (s, n) := draw s
        if Config.cacheHit n then (s, some w) else (s, now)
    | _ => (s, now)

/-- The walk of R115 for context `c` from table `t` at level `l`, with the pointers that it read. -/
def walkPt (s : State) (c a t l : Nat) : Nat → State × Walked × List CacheEnt
  | 0 => (s, .bad ePtentry, [])
  | n + 1 =>
    let p := t + 64 * ptIndex a l
    match readPt s c a l p with
    | (s, none) => (s, .bad eEcc, [])
    | (s, some e) =>
      if fld e 1 0 == 0 then (s, .absent l, [])
      else if ptMalformed e l then (s, .bad ePtentry, [])
      else if fld e 1 0 == 1 then
        let (s, r, ps) := walkPt s c a (fld e 41 11 * 2048) (l + 1) n
        (s, r, pointerEnt c a l e :: ps)
      else (s, .leaf e l p, [])

/-- Set the accessed bit, and for a write the dirty bit, of a leaf word by an atomic or (R117). -/
def touchLeaf (s : State) (p : Nat) (e : Word) (wr : Bool) : State :=
  let need := (if flag e 6 then 0 else 64) + (if wr && !flag e 5 then 32 else 0)
  if need = 0 then s
  else match physWord s p with
    | some w => physPut s p (w ||| wordN need)
    | none => s

/-- Groups that may use every park slot: host, cave pager, management (R118). -/
def keptGroup (g : Nat) : Bool := g == gHost || g == gPager || g == gMgmt

/-- Requests parked at an MTU. -/
def parkedAt (s : State) (m : Nat) : Nat := (s.xl.parks.filter (fun p => p.mtu == m)).length

/-- MTU `m` has no park slot for group `g` (R118). -/
def slotsFull (s : State) (m g : Nat) : Bool :=
  let others := (s.xl.parks.filter (fun p => p.mtu == m && !keptGroup p.g)).length
  decide (16384 ≤ parkedAt s m) || (!keptGroup g && decide (16128 ≤ others))

/-- The TLB entry of a leaf: its word, where it lies, and its level (R116). -/
def leafEnt (c a : Nat) (e : Word) (l p : Nat) : CacheEnt :=
  ⟨0, c, homeMtu a, a / 2 ^ leafSize l * 2 ^ leafSize l, leafSize l, [e, wordN p, wordN l]⟩

/-- A leaf that a TLB entry holds. -/
def heldLeaf (e : CacheEnt) : Option Walked :=
  match e.words with | [w, p, l] => some (.leaf (w ||| 0x40#64) l.toNat p.toNat) | _ => none

/-- Two leaves that differ at most in their accessed and dirty bits. -/
def sameLeaf (x y : Walked) : Bool :=
  match x, y with
  | .leaf e l p, .leaf e' l' p' => (e ||| 0x60#64) == (e' ||| 0x60#64) && l == l' && p == p'
  | _, _ => false

/-- What the home MTU finds for `a`: the leaf of a walk, or a TLB entry that differs from it and may still stand until it is
invalidated (R116). While the group has no park slot, only a TLB hit goes on, and a miss waits at the MTU's input: none
(R118). -/
def findLeaf (s : State) (d : Desc) (c a g : Nat) (spec : Bool) : State × Option (Walked × List CacheEnt) :=
  let held := (findCache s 0 c (homeMtu a) a).bind heldLeaf
  let may := fun (s : State) (h : Walked) (other : Option (Walked × List CacheEnt)) =>
    let (s, n) := draw s
    (s, if Config.cacheHit n then some (h, []) else other)
  if !spec && slotsFull s (homeMtu a) g then
    match held with | some h => may s h none | none => (s, none)
  else
    let (s, w, ps) := walkPt s c a (d.root * 2 ^ 18) 0 4
    match held with
    | some h => if sameLeaf w h then (s, some (w, ps)) else may s h (some (w, ps))
    | none => (s, some (w, ps))

/-- Translate a paged address in a context (R113 to R117). `spec` marks a speculative access (R125). A TLB entry keeps the
word as the access found it; a copy whose accessed and dirty bits alone are old counts as the entry in memory (log entry
6). -/
def pageXlate (s : State) (d : Desc) (c a g kind : Nat) (spec : Bool) : State × XRes :=
  match findLeaf s d c a g spec with
  | (s, none) => (s, .park 0)
  | (s, some (.absent l, _)) => (s, .park l)
  | (s, some (.bad code, _)) => (s, .err code)
  | (s, some (.leaf e l p, ps)) =>
    if !allowed (fld e 63 48) g kind then (s, .err ePerm)
    else
      let pa := fld e 41 19 * 2 ^ 19 + a % 2 ^ leafSize l
      let keep := fun (s : State) => (leafEnt c a e l p :: ps).foldl cachePut s
      if spec then (if flag e 6 then keep s else s, .ok pa)
      else (keep (touchLeaf s p e (kind != 0)), .ok pa)

/-- Translate a bit address of regions 1 to 7 in context `c` for engine group `g` (R110, R111, R115). -/
def translate (s : State) (c a g kind : Nat) (spec : Bool) : State × XRes :=
  if region a < 1 || region a > 7 || a ≥ 2 ^ 56 then (s, .err eUnmapped)
  else match descriptor s c with
    | (s, none) => (s, .err eUnmapped)
    | (s, some d) =>
      if d.hbase ≤ a && a < d.hlimit then
        if !allowed d.hperm g kind then (s, .err ePerm)
        else
          let p := (a : Int) + d.hoff
          if p < 0 || p ≥ 2 ^ 42 then (s, .err eHeaprange) else (s, .ok p.toNat)
      else pageXlate s d c a g kind spec

/-- A window of R123 after its checks. -/
structure Window where
  kind : Nat
  rd : Bool
  wr : Bool
  at_ : Bool
  red : Bool
  base : Nat
  tctx : Nat
  pin : Nat
  domain : Nat
  member : Nat
  deriving DecidableEq, Repr

/-- The window that two words hold; none for v = 0, a reserved field or value (R123). -/
def windowOf : List Word → Option Window
  | [w0, w1] =>
    let k := fld w0 62 61
    if flag w0 63 && decide (k ≤ 1) && !flag w0 56 && fld w1 31 21 == 0 && decide (fld w1 20 11 ≤ 767)
        && decide (fld w1 10 0 ≤ 1057)
        && (if k == 0 then decide (1 ≤ region (fld w0 55 0)) && decide (region (fld w0 55 0) ≤ 7)
              && fld w0 55 0 % 2 ^ 19 == 0 && fld w1 47 32 == 0
            else fld w0 55 0 == 0) then
      some { kind := k, rd := flag w0 60, wr := flag w0 59, at_ := flag w0 58, red := flag w0 57,
             base := fld w0 55 0, tctx := fld w1 63 48, pin := fld w1 47 32, domain := fld w1 20 11,
             member := fld w1 10 0 }
    else none
  | _ => none

/-- Window `w` of context `c`, read from the window table or its cache (R123), or the code of the source Fuller: `unmapped`
under a descriptor that is invalid (R110), else `window`; an entry in an uncorrectable sector counts as invalid (log entry
55). -/
def window (s : State) (c w : Nat) : State × Except Nat Window :=
  match descriptor s c with
  | (s, none) => (s, .error eUnmapped)
  | (s, some d) =>
    if d.wcount ≤ w then (s, .error eWindow)
    else
      let now := (descWords s (d.wbase + 128 * w) 2).getD []
      let (s, ws) := viaCache s 2 c w now
      match windowOf ws with
      | some r => (cachePut s ⟨2, c, 0, w, 0, ws⟩, .ok r)
      | none => (s, .error eWindow)

/-- The target address of offset `o` in a window; none when a memory window leaves regions 1 to 7 (R123). -/
def windowTarget (w : Window) (o : Nat) : Option Nat :=
  if w.kind == 0 then
    if w.base + o < 0x80000000000000 then some (w.base + o) else none
  else some o

end Sys2Proof.Machine
end

