-- ==== Sys2Proof/Machine/Log.lean ====
section
/-!
DEFINITION. Accessors of the numbered records of the state, the error log and the queue error areas (R72), and
whole reads and writes by the engines of the package, sector by sector (R39, R40).
-/
namespace Sys2Proof.Machine

/-! ### Numbered records -/

def State.core (s : State) (c : Nat) : Core := Tab.get Core.init s.cores c
def State.setCore (s : State) (c : Nat) (x : Core) : State := { s with cores := Tab.set Core.init c x s.cores }
def State.updCore (s : State) (c : Nat) (f : Core → Core) : State := s.setCore c (f (s.core c))
def State.queue (s : State) (q : Nat) : Queue := Tab.get Queue.init s.fe.q q
def State.setQueue (s : State) (q : Nat) (x : Queue) : State :=
  { s with fe := { s.fe with q := Tab.set Queue.init q x s.fe.q } }
def State.interp (s : State) (k : Nat) : Interp := Tab.get Interp.init s.fe.ip k
def State.setInterp (s : State) (k : Nat) (x : Interp) : State :=
  { s with fe := { s.fe with ip := Tab.set Interp.init k x s.fe.ip } }
def State.team (s : State) (t : Nat) : Team := Tab.get Team.init s.fe.teams t
def State.setTeam (s : State) (t : Nat) (x : Team) : State :=
  { s with fe := { s.fe with teams := Tab.set Team.init t x s.fe.teams } }
def State.updTeam (s : State) (t : Nat) (f : Team → Team) : State := s.setTeam t (f (s.team t))
/-- A request by its tag; requests are listed under tag + 1, so that index 0 is unused. -/
def State.req (s : State) (tag : Nat) : Req := Tab.get Req.init s.fe.reqs (tag + 1)
def State.hasReq (s : State) (tag : Nat) : Bool := s.fe.reqs.any (fun e => e.1 == tag + 1)
def State.setReq (s : State) (tag : Nat) (x : Req) : State :=
  { s with fe := { s.fe with reqs := Tab.put (tag + 1) x s.fe.reqs } }
def State.updReq (s : State) (tag : Nat) (f : Req → Req) : State :=
  if s.hasReq tag then s.setReq tag (f (s.req tag)) else s
def State.pin (s : State) (h : Nat) : Pin := Tab.get Pin.init s.fe.pins h
def State.hasPin (s : State) (h : Nat) : Bool := s.fe.pins.any (fun e => e.1 == h)
def State.setPin (s : State) (h : Nat) (x : Pin) : State :=
  { s with fe := { s.fe with pins := Tab.put h x s.fe.pins } }
def State.die (s : State) (d : Nat) : Disp := Tab.get Disp.init s.disp d
def State.setDie (s : State) (d : Nat) (x : Disp) : State := { s with disp := Tab.set Disp.init d x s.disp }
def State.mtu (s : State) (m : Nat) : Mtu := Tab.get Mtu.init s.xl.mtu m
def State.setMtu (s : State) (m : Nat) (x : Mtu) : State :=
  { s with xl := { s.xl with mtu := Tab.set Mtu.init m x s.xl.mtu } }
def State.group (s : State) (g : Nat) : Group := Tab.get Group.init s.ful.grp g
def State.setGroup (s : State) (g : Nat) (x : Group) : State :=
  { s with ful := { s.ful with grp := Tab.set Group.init g x s.ful.grp } }

/-- The context of the strand on core `c`: that of the queue that emitted its launch (R110). -/
def ctxOf (s : State) (c : Nat) : Nat :=
  match (s.core c).team with
  | none => 0
  | some t => (s.req (s.team t).tag).ctx

/-- The queue of the launch of the strand on core `c`. -/
def queueOf (s : State) (c : Nat) : Nat :=
  match (s.core c).team with
  | none => 0
  | some t => (s.req (s.team t).tag).queue

/-- A message to the host (R381). -/
def tellHost (s : State) (m : HostMsg) : State := { s with hl := { s.hl with msgs := s.hl.msgs ++ [m] } }

/-! ### Parks (R118, R119) -/

/-- Park an access at its home MTU. A park on a granule that has an unresolved record attaches to it; otherwise a
record is still to be written. None while the MTU has no slot for the group (R118). -/
def addPark (s : State) (ctx a g kind lvl : Nat) (who : Who) : Option State :=
  let m := homeMtu a
  if slotsFull s m g then none
  else
    let same := (s.mtu m).opened.find? (fun r => r.ctx == ctx && r.addr / 2 ^ 19 == a / 2 ^ 19)
    let slot := same.map (·.slot)
    some { s with xl := { s.xl with
      parks := s.xl.parks ++ [⟨m, slot, who, ctx, a, g, kind, lvl, s.fe.time, 0⟩] } }

/-- Parks of some waiters end, and what their unfinished accesses had done is forgotten. -/
def dropParks (s : State) (f : Who → Bool) : State :=
  { s with xl := { s.xl with parks := s.xl.parks.filter (fun p => !f p.who), parts := s.xl.parts.filter (fun p => !f p.who) } }

/-- What the unfinished work of `w` has done is forgotten: the work is finished. -/
def clearParts (s : State) (w : Who) : State :=
  { s with xl := { s.xl with parts := s.xl.parts.filter (fun p => p.who != w) } }

/-- Some access of `w` is parked. -/
def isParked (s : State) (w : Who) : Bool := s.xl.parks.any (fun p => p.who == w)

/-- System software refuses the part of `w` that begins at `lo` (R120). -/
def refusePart (s : State) (w : Who) (wr : Bool) (lo : Nat) : State :=
  { s with xl := { s.xl with parts := s.xl.parts ++ [⟨w, wr, lo, 0, .err eUnmapped⟩] } }

/-- The answer of a refused page for an access of team `t` that would park there: a request of the team had been cancelled, and
system software refused it while the team was away. Each refusal answers one access (R121). -/
def takeRefusal (s : State) (t ctx a : Nat) : Option State :=
  let e := (t, ctx, a / 2 ^ 19)
  if s.xl.refused.contains e then some { s with xl := { s.xl with refused := s.xl.refused.erase e } } else none

/-- Refusals that team `t` has not met are forgotten: it leaves again, or ends. -/
def dropRefusals (s : State) (t : Nat) : State :=
  { s with xl := { s.xl with refused := s.xl.refused.filter (fun e => e.1 != t) } }

/-! ### Reads and writes by engines -/

/-- What an engine has of an access: the bits read (zeros for an uncorrectable sector), the first failure with its address,
whether a part still waits for its page, and the first bits of the uncorrectable sector parts that were read. -/
structure Got where
  v : Nat
  err : Option (Nat × Nat)
  wait : Bool
  ecc : List Nat
  deriving DecidableEq, Repr

/-- The end of the part of `len` bits at `lo`, among the parts that `mine` lists. -/
def partAt (mine : List Part) (wr : Bool) (lo len : Nat) : Option PartEnd :=
  (mine.find? (fun p => p.wr == wr && p.lo == lo && (p.len == len || p.len == 0))).map (·.res)

/-- Part [lo, lo+len) of an engine's read: as it has ended before, or waiting where it is parked; otherwise it is translated, and
performs, fails or parks (R39, R41, R118). -/
def readPart (s : State) (w : Who) (c g : Nat) (mine : List Part) (lo len : Nat) : State × Option PartEnd :=
  match partAt mine false lo len with
  | some r => (s, some r)
  | none =>
    if s.xl.parks.any (fun p => p.who == w && p.addr == lo && p.kind == 0) then (s, none)
    else match translate s c lo g 0 false with
      | (s, .err code) => (s, some (.err code))
      | (s, .park l) => ((addPark s c lo g 0 l w).getD s, none)
      | (s, .ok p) => (s, some (if s.hbmBad.contains (p / 256) then .bad else .ok (hbmBits s.hbm p len)))

/-- Part [lo, lo+len) of an engine's write of the bits `v`. -/
def writePart (s : State) (w : Who) (c g : Nat) (mine : List Part) (lo len v : Nat) : State × Option PartEnd :=
  match partAt mine true lo len with
  | some r => (s, some r)
  | none =>
    if s.xl.parks.any (fun p => p.who == w && p.addr == lo && p.kind != 0) then (s, none)
    else match translate s c lo g (storeKind lo len) false with
      | (s, .err code) => (s, some (.err code))
      | (s, .park l) => ((addPark s c lo g (storeKind lo len) l w).getD s, none)
      | (s, .ok p) => match storePart s p len v with
        | (s, true) => (s, some (.ok 0))
        | (s, false) => (s, some (.err eEcc))

/-- The parts of a read in ascending sectors, as first bit, length and end; a failed part ends the read. -/
def readGo (s : State) (w : Who) (c g a n : Nat) (mine : List Part) : List Nat → State × List (Nat × Nat × Option PartEnd)
  | [] => (s, [])
  | k :: ks =>
    let (lo, len) := sectorPart a n k
    match readPart s w c g mine lo len with
    | (s, some (.err code)) => (s, [(lo, len, some (.err code))])
    | (s, r) =>
      let (s, rs) := readGo s w c g a n mine ks
      (s, (lo, len, r) :: rs)

/-- The parts of a write in ascending sectors: each performs or fails on its own (R39, R40). -/
def writeGo (s : State) (w : Who) (c g a n v : Nat) (mine : List Part) : List Nat → State × List (Nat × Nat × Option PartEnd)
  | [] => (s, [])
  | k :: ks =>
    let (lo, len) := sectorPart a n k
    let (s, r) := writePart s w c g mine lo len (v >>> (lo - a) % 2 ^ len)
    let (s, rs) := writeGo s w c g a n v mine ks
    (s, (lo, len, r) :: rs)

/-- The whole of an access from its parts. -/
def gotOf (a : Nat) (ps : List (Nat × Nat × Option PartEnd)) : Got :=
  { v := (ps.map (fun p => match p.2.2 with | some (.ok v) => v <<< (p.1 - a) | _ => 0)).sum
    err := ps.findSome? (fun p => match p.2.2 with | some (.err code) => some (code, p.1) | _ => none)
    wait := ps.any (fun p => p.2.2.isNone)
    ecc := ps.filterMap (fun p => match p.2.2 with | some .bad => some p.1 | _ => none) }

/-- Keep the parts that have ended, for the access to go on from later. -/
def keepParts (s : State) (w : Who) (wr : Bool) (ps : List (Nat × Nat × Option PartEnd)) : State :=
  let new := ps.filterMap (fun p => p.2.2.map (fun r => (⟨w, wr, p.1, p.2.1, r⟩ : Part)))
  { s with xl := { s.xl with parts := s.xl.parts.filter (fun p => !(p.who == w && p.wr == wr && ps.any (fun q => q.1 == p.lo))) ++ new } }

/-- What `w` reads at `a` in context `c` as group `g`: its `n` bits, part by part. Parts in different pages park or perform on
their own (R118); what has been read stays read until the engine's work is finished (`clearParts`), also where a later access of
that work waits. -/
def whoRead (s : State) (w : Who) (c g a n : Nat) : State × Got :=
  let mine := s.xl.parts.filter (fun p => p.who == w)
  match devShape a n with
  | some code => (s, ⟨0, some (code, a), false, []⟩)
  | none => match partAt mine false a n with
    | some (.ok v) => (s, ⟨v, none, false, []⟩)
    | _ =>
      let (s, ps) := readGo s w c g a n mine (sectors a n)
      let r := gotOf a ps
      if r.wait then (keepParts s w false ps, r)
      else if r.err.isSome then (s, r)
      else (keepParts s w false [(a, n, some (.ok r.v))], r)

/-- What `w` writes at `a`: the low `n` bits of `v`, part by part. A part that has performed is not written again. -/
def whoWrite (s : State) (w : Who) (c g a n v : Nat) : State × Got :=
  let mine := s.xl.parts.filter (fun p => p.who == w)
  match devShape a n with
  | some code => (s, ⟨0, some (code, a), false, []⟩)
  | none =>
    let (s, ps) := writeGo s w c g a n v mine (sectors a n)
    (keepParts s w true ps, { gotOf a ps with v := 0 })

/-! ### Error records (R72) -/

/-- The 256 bits of an error record. -/
def errRecord (s : State) (code a ctx kind num : Nat) (detail : Word) : Nat :=
  packList 64 [s.fe.time.toNat, code % 256 * 2 ^ 56 + a % 2 ^ 56,
    ctx % 2 ^ 16 * 2 ^ 48 + kind % 256 * 2 ^ 40 + num % 2 ^ 40, detail.toNat]

/-- Write records to the error log, in order, until one waits for its page. The log lies in context 0 and is written as group host
(log entry 10). -/
def writeLog (s : State) : List Nat → State
  | [] => { s with fe := { s.fe with elogLate := [] } }
  | r :: rs =>
    match whoWrite s .elog 0 gHost (s.fe.elogBase + 256 * s.fe.elogWp) 256 r with
    | (s, ⟨_, _, true, _⟩) => { s with fe := { s.fe with elogLate := r :: rs } }
    | (s, _) =>
      let s := clearParts s .elog
      writeLog (tellHost { s with fe := { s.fe with elogWp := (s.fe.elogWp + 1) % 65536 } } (.msix 0)) rs

/-- Unread records of the error log, those that wait to be written among them. -/
def logUnread (s : State) : Nat := (s.fe.elogWp + 65536 - s.fe.elogRp) % 65536 + s.fe.elogLate.length

/-- Write one record to the error log, behind any that wait, or count it as lost when 65,535 records are unread. -/
def logErr (s : State) (code a ctx kind num : Nat) (detail : Word) : State :=
  if 65535 ≤ logUnread s then { s with fe := { s.fe with elogLost := min (s.fe.elogLost + 1) (2 ^ 32 - 1) } }
  else writeLog s (s.fe.elogLate ++ [errRecord s code a ctx kind num detail])

/-- Write records to the error area of a queue, which wraps at 64 records, until one waits for its page; errseq counts the records
written (R60). A fault on the area puts a running queue into error state with a record in the error log only (R62). -/
def writeErrs (s : State) (q : Nat) : List Nat → State
  | [] => s.setQueue q { s.queue q with errs := [] }
  | r :: rs =>
    let x := s.queue q
    let at_ := x.err + 256 * (x.errseq % 64)
    match whoWrite s (.qerr q) x.ctx gHost at_ 256 r with
    | (s, ⟨_, _, true, _⟩) => s.setQueue q { s.queue q with errs := r :: rs }
    | (s, ⟨_, none, _, _⟩) =>
      let s := clearParts s (.qerr q)
      writeErrs (s.setQueue q { s.queue q with errseq := (x.errseq + 1) % 2 ^ 32 }) q rs
    | (s, ⟨_, some (code, lo), _, _⟩) =>
      let s := clearParts s (.qerr q)
      let y := s.queue q
      writeErrs (if y.st = 1 then logErr (s.setQueue q { y with st := 2 }) code lo x.ctx 0 q 0 else s) q rs

/-- Write one record to the error area of a queue, behind any that wait (R60, R62, R118). -/
def queueErr (s : State) (q code a kind num : Nat) (detail : Word) : State :=
  let x := s.queue q
  writeErrs s q (x.errs ++ [errRecord s code a x.ctx kind num detail])

/-- The first bit of the sector of `a`. -/
def sectorBase (a : Nat) : Nat := a / 256 * 256

/-- Uncorrectable sectors that an engine has read: one record each (R72). -/
def logBads (s : State) (ctx kind num : Nat) (as : List Nat) : State := as.foldl (fun s a => logErr s eEcc a ctx kind num 0) s

/-- A queue meets a translation fault on its ring or parameter area (R62). -/
def queueFault (s : State) (q code a : Nat) : State :=
  let x := s.queue q
  if x.st = 1 then
    let s := s.setQueue q { x with st := 2 }
    queueErr (logErr s code a x.ctx 0 q 0) q code a 0 q 0
  else s

/-- An error of the strand on core `c`, logged with source kind 1 (R108). -/
def logCore (s : State) (c code a : Nat) : State := logErr s code a (ctxOf s c) 1 c 0

/-- The same, also recorded in the error area of the launch's queue (R224). -/
def logCoreQ (s : State) (c code a : Nat) : State :=
  queueErr (logCore s c code a) (queueOf s c) code a 1 c 0

end Sys2Proof.Machine
end

