-- ==== Sys2Proof/Machine/Regs.lean ====
section
/-!
DEFINITION. The registers of a core: the duplicate set, operand ports and result latches (R157, R158), effects due at
a stated cycle (R160), and the three ways an operation can end in its bundle: done, stalled (R144) or trapped (R348).
-/
namespace Sys2Proof.Machine

/-! ### Operand ports (R157) and result latches (R158) -/

def pIAa (copy : Bool) : Nat := if copy then 0x042 else 0x040
def pIAk (copy : Bool) : Nat := if copy then 0x043 else 0x041
def pIMa : Nat := 0x044
def pIMd : Nat := 0x045
def pBPa : Nat := 0x046
def pBPk : Nat := 0x047
def pBPv : Nat := 0x048
def pLSa (copy : Bool) : Nat := if copy then 0x04C else 0x049
def pLSd (copy : Bool) : Nat := if copy then 0x04D else 0x04A
def pLSw (copy : Bool) : Nat := if copy then 0x04E else 0x04B
def pGMa : Nat := 0x04F
def pGMb : Nat := 0x050
def pGMd : Nat := 0x051
def pGMq : Nat := 0x052
def pRMa : Nat := 0x053
def pRMb : Nat := 0x054
def pRMd : Nat := 0x055
def pRMq : Nat := 0x056
def pSEa : Nat := 0x057
def pSEk : Nat := 0x058
def pVXa : Nat := 0x059
def pVXb : Nat := 0x05A
def pVXm : Nat := 0x05B
def pVCa : Nat := 0x05C
def pVCb : Nat := 0x05D
def pVCm : Nat := 0x05E
def pMXa : Nat := 0x05F
def pMXk : Nat := 0x060
def pCUa : Nat := 0x061
def pCUk : Nat := 0x062
def pSYa : Nat := 0x063
def pSYk : Nat := 0x064
def pXPa : Nat := 0x065
def pXPb : Nat := 0x066
def pXPd : Nat := 0x067
def pXPq : Nat := 0x068

/-- The wide operand ports. -/
def widePorts : List Nat := [0x048, 0x04B, 0x04E, 0x059, 0x05A, 0x05C, 0x05D]

def lIA (copy : Bool) : Nat := if copy then 0x081 else 0x080
def lIM : Nat := 0x082
def lBP : Nat := 0x083
def lBPw : Nat := 0x084
def lLSr (copy : Bool) : Nat := if copy then 0x088 else 0x085
def lLSv (copy : Bool) : Nat := if copy then 0x089 else 0x086
def lLSt (copy : Bool) : Nat := if copy then 0x08A else 0x087
def lRM : Nat := 0x08B
def lSE : Nat := 0x08C
def lVXr : Nat := 0x08D
def lVXc : Nat := 0x08E
def lVCr : Nat := 0x08F
def lVCs : Nat := 0x090
def lMX : Nat := 0x091
def lCU : Nat := 0x092
def lSY : Nat := 0x093
def lXP : Nat := 0x094

/-- The wide result latches. -/
def wideLatches : List Nat := [0x084, 0x086, 0x089, 0x08D, 0x08F]

def Dup.port (d : Dup) (n : Nat) : Word := Tab.get 0 d.ports n
def Dup.wport (d : Dup) (n : Nat) : Wide := Tab.get 0 d.wports n
def Dup.setPort (d : Dup) (n : Nat) (v : Word) : Dup := { d with ports := Tab.set 0 n v d.ports }
def Dup.setWport (d : Dup) (n : Nat) (v : Wide) : Dup := { d with wports := Tab.set 0 n v d.wports }
def Dup.latch (d : Dup) (n : Nat) : Word := Tab.get 0 d.lat n
def Dup.wlatch (d : Dup) (n : Nat) : Wide := Tab.get 0 d.wlat n
def Dup.setLatch (d : Dup) (n : Nat) (v : Word) : Dup := { d with lat := Tab.set 0 n v d.lat }
def Dup.setWlatch (d : Dup) (n : Nat) (v : Wide) : Dup := { d with wlat := Tab.set 0 n v d.wlat }
def Dup.greg (d : Dup) (r : Nat) : GReg := Tab.get GReg.init d.g r
def Dup.setG (d : Dup) (r : Nat) (x : GReg) : Dup := { d with g := Tab.set GReg.init r x d.g }
/-- A move or a unit writes a G register: it becomes full (R141). -/
def Dup.writeG (d : Dup) (r : Nat) (v : Word) : Dup := d.setG r ⟨v, .full⟩
/-- A long-latency producer issues: the register is empty (R141). -/
def Dup.emptyG (d : Dup) (r : Nat) : Dup := d.setG r ⟨(d.greg r).val, .empty⟩
def Dup.poisonG (d : Dup) (r cause : Nat) : Dup := d.setG r ⟨(d.greg r).val, .poison cause⟩
def Dup.vreg (d : Dup) (r : Nat) : Wide := Tab.get 0 d.v r
def Dup.setV (d : Dup) (r : Nat) (x : Wide) : Dup := { d with v := Tab.set 0 r x d.v }
def Dup.spillReg (d : Dup) (r : Nat) : Word := Tab.get 0 d.spill r
def Dup.setSpill (d : Dup) (r : Nat) (x : Word) : Dup := { d with spill := Tab.set 0 r x d.spill }
def Dup.creg (d : Dup) (i : Nat) : Bool := d.c.getLsbD i
def Dup.setC (d : Dup) (i : Nat) (b : Bool) : Dup :=
  { d with c := BitVec.ofNat 7 (putBits d.c.toNat i 1 (b2n b)) }
def Dup.chanOf (d : Dup) (k : Nat) : ChDup := Tab.get ChDup.init d.chan k
def Dup.setChan (d : Dup) (k : Nat) (x : ChDup) : Dup := { d with chan := Tab.set ChDup.init k x d.chan }
def Dup.mdOf (d : Dup) (k : Nat) : MdReg := Tab.get MdReg.init d.md k
def Dup.setMd (d : Dup) (k : Nat) (x : MdReg) : Dup := { d with md := Tab.set MdReg.init k x d.md }
def Dup.fmtOf (d : Dup) (k : Nat) : BitVec 32 := Tab.get fmtDefault d.fmt k
def Dup.setFmt (d : Dup) (k : Nat) (x : BitVec 32) : Dup := { d with fmt := Tab.set fmtDefault k x d.fmt }
def Dup.fpOf (d : Dup) (l : Nat) : Nat := Tab.get 0 d.fp l
def Dup.setFp (d : Dup) (l x : Nat) : Dup := { d with fp := Tab.set 0 l x d.fp }

/-- The counter of loop level `l`: 0 at or beyond the depth (R148). -/
def Dup.ctr (d : Dup) (l : Nat) : Nat := match d.loops[l]? with | some e => e.i | none => 0

/-- The innermost counter, 0 at depth 0 (R148). -/
def Dup.inner (d : Dup) : Nat := match d.loops.getLast? with | some e => e.i | none => 0

/-- The counters as an event word holds them (R270). -/
def Dup.ctrs (d : Dup) : Nat :=
  (d.ctr 4 % 256) <<< 32 + (d.ctr 3 % 256) <<< 24 + (d.ctr 2 % 256) <<< 16 + (d.ctr 1 % 256) <<< 8 + d.ctr 0 % 256

/-- Post an event: a full queue sets the lost bit (R12, R270). -/
def Dup.post (d : Dup) (w : Word) : Dup :=
  if d.ovq.length ≥ 64 then { d with ovLost := true } else { d with ovq := d.ovq ++ [w] }

/-! ### Effects due at a cycle -/

/-- Order of two effects: cycle, major rank, issue cycle, minor rank. -/
def Due.before (a b : Due) : Bool :=
  decide (a.at_ < b.at_) || (a.at_ == b.at_ && (decide (a.rank / 4 < b.rank / 4) || (a.rank / 4 == b.rank / 4 &&
    (decide (a.iss < b.iss) || (a.iss == b.iss && decide (a.rank % 4 < b.rank % 4))))))

/-- Insert an effect after every effect that does not come after it. -/
def insertDue (x : Due) : List Due → List Due
  | [] => [x]
  | y :: r => if x.before y then x :: y :: r else y :: insertDue x r

/-- Major ranks within one cycle (R164, R191, R245): registers, condition registers, accumulators, MX operations, events,
LS writes, LS reads, drain writes, output streams, reads of the array, of an RM row and of an XP descriptor, SE operations, and
the items that drains push. An LS load that falls due in a cycle was issued before it, so it returns what a drain of that cycle
replaces (R245, and its litmus case), but it sees the output-stream writes of the cycle (R191; `earlyOuts`). An operand read of
the array sees every write of its cycle (R258). -/
def rReg : Nat := 0
def rC (minor : Nat) : Nat := 4 + minor
def rAcc : Nat := 8
def rMx : Nat := 12
def rEvent (minor : Nat) : Nat := 16 + minor
def rLs (copy : Bool) : Nat := if copy then 24 else 20
def rRead : Nat := 28
def rDrain : Nat := 32
def rOut : Nat := 36
def rLate : Nat := 40
def rSe : Nat := 44
def rPush : Nat := 48

/-- Schedule an effect of the bundle that issues at the core's cycle t, at t + `off`. -/
def Core.sched (x : Core) (off rank : Nat) (fx : Fx) : Core :=
  { x with due := insertDue ⟨x.cyc + off, rank, x.cyc, fx⟩ x.due }

/-- Schedule a further effect of an operation issued at `iss`, at iss + `off`. -/
def Core.schedAt (x : Core) (iss off rank : Nat) (fx : Fx) : Core :=
  { x with due := insertDue ⟨iss + off, rank, iss, fx⟩ x.due }

/-- Apply `f` to the registers, and to the checkpoint state when the effect was issued at or before the checkpoint
(R178). -/
def Core.landDup (x : Core) (iss : Nat) (f : Dup → Dup) : Core :=
  let x := { x with dup := f x.dup }
  if iss < x.ck.cyc then { x with ck := { x.ck with dup := f x.ck.dup } } else x

def Core.chanRun (x : Core) (k : Nat) : ChRun := Tab.get ChRun.init x.chan k
def Core.setChanRun (x : Core) (k : Nat) (r : ChRun) : Core := { x with chan := Tab.set ChRun.init k r x.chan }
def Core.lqOf (x : Core) (k : Nat) : LinkQ := Tab.get LinkQ.init x.lq k
def Core.setLq (x : Core) (k : Nat) (r : LinkQ) : Core := { x with lq := Tab.set LinkQ.init k r x.lq }
def Core.latchOf (x : Core) (k : Nat) : Latch := Tab.get Latch.init x.latch k
def Core.setLatchW (x : Core) (k : Nat) (r : Latch) : Core := { x with latch := Tab.set Latch.init k r x.latch }
/-- An accumulator row; bank `b` row `r` is listed under 256 b + r. -/
def Core.accRow (x : Core) (b r : Nat) : AccRow := Tab.get AccRow.init x.acc (256 * b + r)
def Core.setAccRow (x : Core) (b r : Nat) (v : AccRow) : Core :=
  { x with acc := Tab.set AccRow.init (256 * b + r) v x.acc }
def Core.half (x : Core) (h : Nat) : Half := if h = 0 then x.half0 else x.half1
def Core.setHalf (x : Core) (h : Nat) (v : Half) : Core :=
  if h = 0 then { x with half0 := v } else { x with half1 := v }

/-! ### How an operation ends -/

/-- A trap: code and info of R348, and the code of the error-log record that an address or privilege trap writes
(R108). -/
structure Trap where
  code : Nat
  slot : Nat
  sub : Nat
  reg : Nat
  addr : Nat
  log : Option Nat
  deriving DecidableEq, Repr

/-- How an operation ends in its bundle; `fetch` is a stall that first sends an access (R189), `await` a stall that makes
`n` items of channel `k` due (R204, R212). -/
inductive Res
  | done (s : State)
  | stall
  | fetch (a : Acc)
  | await (k n : Nat)
  | trap (x : Trap)
  deriving DecidableEq, Repr

def trapIllegal (slot : Nat) : Trap := ⟨0x01, slot, 0, 0, 0, none⟩
def trapPriv (slot : Nat) : Trap := ⟨0x02, slot, 0, 0, 0, none⟩
def trapPrivAddr (slot a : Nat) : Trap := ⟨0x02, slot, 0, 0, a, some ePerm⟩
def trapAddr (slot a code : Nat) : Trap := ⟨0x03, slot, 0, 0, a, some code⟩
def trapAlign (slot a : Nat) : Trap := ⟨0x04, slot, 0, 0, a, none⟩
def trapMal (slot a : Nat) : Trap := ⟨0x05, slot, 0, 0, a, none⟩
def trapWidth (slot a : Nat) : Trap := ⟨0x06, slot, 0, 0, a, none⟩
def trapEmpty (slot r : Nat) : Trap := ⟨0x07, slot, 0, r, 0, none⟩
/-- A poisoned register traps its first consumer: replay without cause, memory-fault with cause (R142, R220). -/
def trapPoison (slot r cause : Nat) : Trap :=
  if cause = 0 then ⟨0x08, slot, 0, r, 0, none⟩ else ⟨0x09, slot, cause, r, 0, none⟩
def trapStream (slot ch code : Nat) : Trap := ⟨0x0A, slot, code, ch, 0, none⟩
def trapFetch (a : Nat) : Trap := ⟨0x0B, 0xFF, 0, 0, a, some eFetchrange⟩
def trapProg (slot sub : Nat) : Trap := ⟨0x0C, slot, sub, 0, 0, none⟩

/-- Whether the strand on the core is privileged (R400). -/
def Core.privileged (x : Core) : Bool :=
  x.mode == .priv || (x.mode == .handler && x.tmode == .priv)

/-- Team size of the strand on a core. -/
def teamSize (s : State) (c : Nat) : Nat :=
  match (s.core c).team with | none => 1 | some t => (s.team t).n

/-- The physical core of team-relative core `k` of the team on core `c`. -/
def peerCore (s : State) (c k : Nat) : Nat :=
  match (s.core c).team with
  | none => c
  | some t => ((s.team t).cores[k]?).getD c

/-- Replace the bits of [o, o+n) that an old value covers. -/
def overlayOld (o n v : Nat) (e : Nat × Nat × Nat × Nat) : Nat :=
  let p := max o e.2.1
  let q := min (o + n) (e.2.1 + e.2.2.1)
  if p < q then putBits v (p - o) (q - p) (e.2.2.2 >>> (p - e.2.1)) else v

/-- What the strand's own read of `n` bits at `o` in its present cycle finds, where the scratchpad holds `v`: of a local write that
has performed ahead of its cycle, the bits that it replaced (R191, R245). -/
def ownView (x : Core) (o n v : Nat) : Nat :=
  (x.early.filter (fun e => decide (x.cyc < e.1))).foldl (overlayOld o n) v

/-- An event of an operation issued at `iss` enters the queue, and the copy that an mxsave issued no earlier has begun (R276). -/
def Core.postEvent (x : Core) (iss : Nat) (f : Dup → Dup) : Core :=
  let x := x.landDup iss f
  match x.evCopy with
  | some (t, q, l) =>
    if iss ≤ t then
      let d := f { x.dup with ovq := q, ovLost := l }
      { x with evCopy := some (t, d.ovq, d.ovLost) }
    else x
  | none => x

/-- `n` items of channel `k` are due together (R204). -/
def needItems (x : Core) (k n : Nat) : Core := x.setChanRun k { x.chanRun k with need := max (x.chanRun k).need n }

/-- Change one core. -/
def State.onCore (s : State) (c : Nat) (f : Core → Core) : State := s.setCore c (f (s.core c))

end Sys2Proof.Machine
end

