-- ==== Sys2Proof/Machine/Local.lean ====
section
/-!
DEFINITION. The scratchpad and the tag tables as operations reach them (R190 to R198): the target check of R194,
stores, loads and their error records, and what each local effect does at its cycle.
-/
namespace Sys2Proof.Machine

/-- The pin that a team names: its launch's handle; spawned teams inherit none (R23). -/
def teamPin (s : State) (t : Nat) : Nat :=
  if (s.team t).spawned then 0 else (Tab.get 0 (s.req (s.team t).tag).draft 5).toNat

/-- Bank `b` of cluster `cl` belongs to a pin other than `h` (R98). -/
def foreignBank (s : State) (cl h b : Nat) : Bool :=
  s.fe.pins.any (fun e => e.2.home == cl && e.1 != h && decide (e.2.first ≤ b) && decide (b < e.2.first + e.2.count))

/-- Scratchpad bits [o, o+len) of a core touch a pinned bank that the team on it does not name (R98). -/
def pinBlocked (s : State) (c o len : Nat) : Bool :=
  let h := match (s.core c).team with | some t => teamPin s t | none => 0
  (span (o / bankBits) ((o + len - 1) / bankBits + 1 - o / bankBits)).any (foreignBank s (c / 4) h)

/-- `ls_target` of R194: the team-relative core and offset, or the trap. `wc` is the width code of the alignment check
and `own` limits the reach. -/
def lsTarget (s : State) (c slot : Nat) (y : Word) (len w : Nat) (own : Bool) : Except Trap (Nat × Nat) :=
  let a := ptrAddr y
  let tc := (s.core c).tcore
  if ptrMal y then .error (trapMal slot a)
  else if region a ≠ 0 then .error (trapAddr slot a eUnmapped)
  else
    let r : Except Trap (Nat × Nat) :=
      if a < spadBits then .ok (tc, a)
      else
        let k1 := a / 2 ^ 22
        let o := a % 2 ^ 22
        if k1 < 1 || k1 > 4 || o ≥ spadBits then .error (trapAddr slot a eUnmapped)
        else if k1 - 1 ≥ teamSize s c then .error (trapAddr slot a ePeerwin)
        else .ok (k1 - 1, o)
    match r with
    | .error t => .error t
    | .ok (k, o) =>
      if own && k != tc then .error (trapAddr slot a eUnmapped)
      else if o + len > spadBits then .error (trapAddr slot a eUnmapped)
      else if pinBlocked s (peerCore s c k) o len then .error (trapAddr slot a ePerm)
      else if !alignedW o w then .error (trapAlign slot a)
      else .ok (k, o)

/-- Log uncorrectable scratchpad words of core `c` (R192). -/
def logWords (s : State) (c : Nat) (ws : List Nat) : State :=
  ws.foldl (fun s w => logCore s c eEcc (64 * w)) s

/-- Store `n` bits at `o` of core `c`'s scratchpad (R38, R192). -/
def spStore (s : State) (c o n v : Nat) : State :=
  let x := s.core c
  let (m, bad, cleared) := spadPut x.spad x.spadBad o n v
  logWords (s.setCore c { x with spad := m, spadBad := bad }) c cleared

/-- Load `n` bits at `o` of core `c`'s scratchpad: 0, and a record for each uncorrectable word, when there is one (R192). -/
def spLoad (s : State) (c o n : Nat) : State × Nat :=
  let r := spadLoad (s.core c).spad (s.core c).spadBad o n
  (logWords s c r.2, r.1)

/-- A load by the strand itself (R191, R192). -/
def ownLoad (s : State) (c o n : Nat) : State × Nat :=
  let r := spLoad s c o n
  (r.1, ownView (s.core c) o n r.2)

/-- Read, then write, as one step: the old element; a record for each uncorrectable word (R192, R195). -/
def spRmw (s : State) (c o n : Nat) (f : Nat → Nat) : State × Nat :=
  let x := s.core c
  let (old, e) := spadLoad x.spad x.spadBad o n
  let (m, bad, _) := spadPut x.spad x.spadBad o n (f old)
  (logWords (s.setCore c { x with spad := m, spadBad := bad }) c e, old)

/-- The bits that the mask of an stm names, from bit 0 of the store: 16 for each bit of the mask (R195). -/
def stmBits (mask : Word) : Nat := packList 16 ((span 0 64).map (fun k => if flag mask k then 0xFFFF else 0))

/-- A store of the named 16-bit granules, word by word (R192, R195 stm). -/
def stmStore (s : State) (c o : Nat) (v : Wide) (mask : Word) : State :=
  let x := s.core c
  let sh := o % 64
  let words := (span 0 17).map (fun k => ((stmBits mask <<< sh) >>> (64 * k) % 2 ^ 64, (v.toNat <<< sh) >>> (64 * k) % 2 ^ 64))
  let (m, bad, cleared) := spadMasked x.spad x.spadBad (o / 64) words
  logWords (s.setCore c { x with spad := m, spadBad := bad }) c cleared

/-- A store effect, whole or masked. -/
def spWriteFx (s : State) (c o len : Nat) (v : Wide) (ben : Option Word) : State :=
  match ben with
  | none => spStore s c o len v.toNat
  | some m => stmStore s c o v m

/-- Entry `i` of the tag table of bank `b`: an uncorrectable entry reads as invalid and is logged. The record names the first bit of
the bank (DESIGN CHOICE, log entry 67: a tag entry has no bit address) (R192, R197). -/
def tagRead (s : State) (c b i : Nat) : State × Word :=
  let x := s.core c
  if x.tagsBad.contains (1024 * b + i) then (logCore s c eEcc (bankBits * b), 0)
  else (s, Tab.get 0 x.tags (1024 * b + i))

/-- Write a tag entry whole. -/
def tagWrite (s : State) (c b i : Nat) (v : Word) : State :=
  s.onCore c (fun x => { x with tags := Tab.set 0 (1024 * b + i) v x.tags, tagsBad := x.tagsBad.erase (1024 * b + i) })

/-- An entry as a lookup sees it: 0, which is invalid, where it is uncorrectable (R192, R197). -/
def tagSeen (x : Core) (b i : Nat) : Word := if x.tagsBad.contains (1024 * b + i) then 0 else Tab.get 0 x.tags (1024 * b + i)

/-- The lookup of R198 over `n` entries from `i`: a hit, else the first free index seen. -/
def tagScan (x : Core) (b key i : Nat) (free : Nat) : Nat → Word
  | 0 => wordN (0x8000000000000000 + free)
  | n + 1 =>
    let e := tagSeen x b i
    if flag e 63 && fld e 47 0 == key then wordN i
    else tagScan x b key (i + 1) (if !flag e 63 && free == 0x400 then i else free) n

/-- A lookup reads every entry of its range: each uncorrectable one is logged (R192, R198). -/
def tagLookup (s : State) (c b key first n : Nat) : State × Word :=
  ((span first n).foldl (fun s i => (tagRead s c b i).1) s, tagScan (s.core c) b key first 0x400 n)

/-- Clear the valid bits of `n` entries from `i` (R198). -/
def tagClear (s : State) (c b i : Nat) : Nat → State
  | 0 => s
  | n + 1 =>
    let (s, e) := tagRead s c b i
    tagClear (tagWrite s c b i (e &&& 0x7FFFFFFFFFFFFFFF#64)) c b (i + 1) n

/-- Sign-extend or zero-extend a loaded element of width `w` (R195, R218). -/
def extend (sx : Bool) (v w : Nat) : Word := if sx then word (sext v w) else wordN v

/-- Deliver a reply to a G register of the registers and, for a producer issued at or before the checkpoint, of the
checkpoint state (R141, R178). -/
def fillG (x : Core) (iss r : Nat) (v : Word) : Core := x.landDup iss (fun d => d.writeG r v)

/-- A local effect reaches its cycle (R191, R195, R198). -/
def landLocal (s : State) (c iss : Nat) (fx : Fx) : State :=
  match fx with
  | .spWrite o len v ben => spWriteFx s c o len v ben
  | .spRead copy o len sx reg =>
    let (s, v) := ownLoad s c o len
    s.onCore c (fun x => match reg with
      | none => x.schedAt iss 3 rReg (.lat (lLSr copy) (extend sx v len))
      | some r => x.schedAt iss 3 rReg (.gFull r (extend sx v len)))
  | .spReadV copy o =>
    let (s, v) := ownLoad s c o 1024
    s.onCore c (fun x => x.schedAt iss 4 rReg (.wlat (lLSv copy) (BitVec.ofNat 1024 v)))
  | .spSwap copy o len v =>
    let (s, old) := spRmw s c o len (fun _ => v.toNat)
    s.onCore c (fun x => x.schedAt iss 3 rReg (.lat (lLSr copy) (wordN old)))
  | .spBor o len v => (spRmw s c o len (fun old => old ||| v.toNat % 2 ^ len)).1
  | .tagLook copy b first last key =>
    let (s, r) := tagLookup s c b key first (last + 1 - first)
    s.onCore c (fun x => x.schedAt iss 3 rReg (.lat (lLSt copy) r))
  | .tagGet copy b i =>
    let (s, r) := tagRead s c b i
    s.onCore c (fun x => x.schedAt iss 3 rReg (.lat (lLSt copy) r))
  | .tagSet b i v => tagWrite s c b i v
  | .tagClr b first last => tagClear s c b first (last + 1 - first)
  | _ => s

end Sys2Proof.Machine
end

