-- ==== Sys2Proof/Machine/Array.lean ====
section
/-!
DEFINITION. The arithmetic and the state of the matrix array (R252 to R271): the format table, operand descriptors,
groups, accumulation, drains, events and the undo buffer, and what a beat does at each of its cycles.
-/
namespace Sys2Proof.Machine

/-! ### Format entries (R253, R254) -/

def feA (e : BitVec 32) : Nat := fld e 31 27
def feB (e : BitVec 32) : Nat := fld e 26 22
def feAcc (e : BitVec 32) : Nat := fld e 21 17
def feD (e : BitVec 32) : Nat := fld e 16 12
def feSc (e : BitVec 32) : Nat := fld e 11 7
def feMode (e : BitVec 32) : Nat := fld e 6 5
def feSat (e : BitVec 32) : Bool := flag e 4

/-- The number of elements in a row: 256, 512 or 1,024 by class; 0 for a format of no class (R254). -/
def kOf (f : Nat) : Nat :=
  match Fmt.ofCode f with
  | some .bf16 => 256 | some .f16 => 256
  | some .f8e4m3 => 512 | some .f8e5m2 => 512 | some .s8 => 512 | some .w8 => 512 | some .n6 => 512
  | some .n4 => 1024 | some .n3 => 1024
  | _ => 0

/-- Width of a format code. -/
def codeWidth (f : Nat) : Nat := match Fmt.ofCode f with | some x => x.width | none => 1

def codeIsN (f : Nat) : Bool := match Fmt.ofCode f with | some x => x.isN | none => false

/-- Whether a format entry, as a 64-bit word, is legal (R254). -/
def entryLegal (w : Nat) : Bool :=
  let e := BitVec.ofNat 32 w
  let a := feA e
  let b := feB e
  let ints := (a == 8 || a == 12) && (b == 8 || b == 12)
  w < 2 ^ 32 && kOf a != 0 && kOf a == kOf b && feAcc e == (if ints then 10 else 0)
    && [0, 1, 2, 3, 4, 8, 9, 10, 12, 13, 14].contains (feD e)
    && (feSc e == 0 || decide (16 ≤ feSc e)) && ((feSc e != 0) == (codeIsN a || codeIsN b)) && fld e 3 0 == 0

/-- The number of the active entry (R255). -/
def activeNo (d : Dup) : Nat := (d.fbase + (if d.level ≤ 5 then d.ctr d.level else 0)) % 16

/-! ### Operand descriptors (R258) -/

def mdRowlv (m : MdReg) : Nat := fld m.w1 63 61
def mdTilelv (m : MdReg) : Nat := fld m.w1 60 58
def mdRot (m : MdReg) : Nat := fld m.w1 57 56
def mdRowpitch (m : MdReg) : Int := sext (fld m.w1 47 24) 24
def mdTilepitch (m : MdReg) : Int := sext (fld m.w1 23 0) 24

/-- The address of a descriptor operand, or its trap (R258). -/
def mdAddr (s : State) (c : Nat) (m : MdReg) (len : Nat) : Except Trap Nat :=
  let d := (s.core c).dup
  let ctr := fun l => if l ≤ 5 then d.ctr l else 0
  let x : Int := (ptrAddr m.base : Int) + ctr (mdRowlv m) * mdRowpitch m + ctr (mdTilelv m) * mdTilepitch m
  if x < 0 || x + len > spadBits then .error (trapAddr 0 (wrapw x 56) eUnmapped)
  else
    let a := x.toNat
    let b := a / bankBits
    let o := a % bankBits
    if mdRot m != 0 && decide (o + len > bankBits) then .error (trapAddr 0 a eUnmapped)
    else
      let step := match mdRot m with | 1 => 1 | 2 => 2 | _ => 4
      let p := if mdRot m = 0 then a else bankBits * ((b + step * ctr (mdTilelv m)) % 16) + o
      if pinBlocked s c p len then .error (trapAddr 0 p ePerm)
      else if p % 64 != 0 then .error (trapAlign 0 p)
      else .ok p

/-! ### Arithmetic (R262, R268) -/

/-- The exact values of `n` elements of format code `f` from element `i` of a row, with scale bytes `sc`. -/
def rowVals (f : Fmt) (x sc : Nat) (i : Nat) : Nat → List Val
  | 0 => []
  | n + 1 => valueOf f (bits x (i * f.width + f.width - 1) (i * f.width)) (bits sc (8 * (i / 32) + 7) (8 * (i / 32)))
      :: rowVals f x sc (i + 1) n

/-- The exact sum of products; an exact zero is +0. -/
def dot (a b : List Val) : Val :=
  match (List.zipWith mulVal a b).foldl (fun t p => addVal t p 0) (.zero false) with
  | .zero _ => .zero false
  | v => v

/-- One group rounded once (R268): the f32 code, or the exact integer, and whether the flag is set. -/
def groupOf (e : BitVec 32) (v : Val) : Nat × Bool :=
  if feAcc e = 10 then (wrapw (let (m, x) := v.dyadic; m * 2 ^ x.toNat) 32, false)
  else let r := convFloat .f32 v 0 (feSat e); (r.code, r.event)

/-- `accadd` of R268 on 32-bit codes, and whether the flag is set. -/
def accAdd (e : BitVec 32) (x z : Nat) : Nat × Bool :=
  if feAcc e = 10 then
    let v := sext x 32 + sext z 32
    if feSat e then let (y, o) := clamp v (-2147483648, 2147483647); (wrapw y 32, o) else (wrapw v 32, false)
  else
    let n := faddCode .f32 x z
    if feSat e && n % 2 ^ 31 == 0x7F800000 then (n / 2 ^ 31 * 2 ^ 31 + 0x7F7FFFFF, true) else (n, false)

/-- Add a list of group results to one accumulator element, in order. -/
def accAll (e : BitVec 32) (x : Nat) (f : Bool) : List (Nat × Bool) → Nat × Bool
  | [] => (x, f)
  | (z, g) :: r => let (y, h) := accAdd e x z; accAll e y (f || g || h) r

/-- The group results of one column of a push (R262). -/
def pushCol (e : BitVec 32) (a b : List Val) : Nat → List (Nat × Bool)
  | 0 => []
  | n + 1 => groupOf e (dot (a.take 32) (b.take 32)) :: pushCol e (a.drop 32) (b.drop 32) n

/-- The columns of a push from column `c`, on an accumulator row. -/
def pushRow (e : BitVec 32) (k : Nat) (a : List Val) (l : Latch) (r : AccRow) (c : Nat) : Nat → AccRow
  | 0 => r
  | n + 1 =>
    match Fmt.ofCode (feB e) with
    | none => r
    | some fb =>
      let b := rowVals fb (Tab.get 0 l.col c).toNat (Tab.get 0 l.sc c).toNat 0 k
      let (x, f) := accAll e (fld r.v (32 * c + 31) (32 * c)) r.f (pushCol e a b (k / 32))
      pushRow e k a l ⟨setFld r.v (32 * c + 31) (32 * c) x, f⟩ (c + 1) n

/-- Add 32 elements to an accumulator row (R264). -/
def accRowAdd (e : BitVec 32) (z : Nat) (r : AccRow) (c : Nat) : Nat → AccRow
  | 0 => r
  | n + 1 =>
    let (x, f) := accAdd e (fld r.v (32 * c + 31) (32 * c)) (bits z (32 * c + 31) (32 * c))
    accRowAdd e z ⟨setFld r.v (32 * c + 31) (32 * c) x, r.f || f⟩ (c + 1) n

/-- The converted elements of a drained row, and whether any posted an event (R265). -/
def drainRow (e : BitVec 32) (fa fd : Fmt) (v : Wide) (c : Nat) : Nat → Nat × Bool
  | 0 => (0, false)
  | n + 1 =>
    let r := convert (valueOf fa (fld v (32 * c + 31) (32 * c)) 0) fd (feMode e) (feSat e) 0
    let (x, ev) := drainRow e fa fd v (c + 1) n
    (r.code + x <<< fd.width, r.event || ev)

/-! ### Events and undo -/

/-- An event word of the array (R270). -/
def mxEvent (b : BeatRec) (kind blk : Nat) : Word :=
  wordN (kind <<< 60 + b.entryNo <<< 56 + b.bank <<< 55 + b.row <<< 47 + blk <<< 42 + b.ctrs)

/-- Post kind-2 events for the blocks of reserved type among `n` scale bytes (R49, R270). -/
def postReserved (b : BeatRec) (f : Fmt) (sc : Nat) (d : Dup) : Nat → Dup
  | 0 => d
  | n + 1 =>
    let d := postReserved b f sc d n
    if reservedType f (bits sc (8 * n + 7) (8 * n + 6)) then d.post (mxEvent b 2 n) else d

/-- Save an accumulator row before the first modification by a beat issued after the checkpoint (R271). -/
def saveUndo (x : Core) (iss bank row : Nat) : Core :=
  if iss < x.ck.cyc || x.undo.any (fun u => u.bank == bank && u.row == row) then x
  else { x with undo := x.undo ++ [⟨bank, row, x.accRow bank row⟩] }

/-- Modify an accumulator row at its cycle. -/
def modRow (x : Core) (iss bank row : Nat) (f : AccRow → AccRow) : Core :=
  (saveUndo x iss bank row).setAccRow bank row (f (x.accRow bank row))

/-- An acczero that belongs to the checkpoint zeroes the rows that later beats have already saved (R178, R271). -/
def zeroSaved (x : Core) (iss bank row : Nat) : Core :=
  if iss < x.ck.cyc then
    { x with undo := x.undo.map (fun u => if u.bank == bank && u.row == row then { u with old := AccRow.init } else u) }
  else x

/-- Zero accumulator rows `first`, … (R274). -/
def zeroRows (x : Core) (iss bank first : Nat) : Nat → Core
  | 0 => x
  | n + 1 => zeroRows (modRow (zeroSaved x iss bank first) iss bank first (fun _ => AccRow.init)) iss bank (first + 1) n

/-! ### The image of the array (R276) -/

/-- Row `j` of part `p` of the array's image, from the state of a core. -/
def imageRow (x : Core) (p j : Nat) : Nat :=
  if p ≤ 3 then
    let l := x.latchOf p
    if j < 128 then fld (Tab.get 0 l.col (j / 4)) (1024 * (j % 4) + 1023) (1024 * (j % 4))
    else packList 256 ((span (4 * (j - 128)) 4).map (fun c => (Tab.get 0 l.sc c).toNat))
  else if p ≤ 5 then (x.accRow (p - 4) j).v.toNat
  else if j = 0 then
    packList 32 ((span 0 16).map (fun k => (x.dup.fmtOf k).toNat)) + x.dup.fbase <<< 512 + x.dup.level <<< 516
      + (b2n x.dup.ovLost) <<< 519 + x.dup.ovq.length <<< 520
      + (packList 5 ((span 0 4).map (fun l => x.dup.fpOf l))) <<< 528
  else if j ≤ 4 then packList 64 (((x.dup.ovq.drop (16 * (j - 1))).take 16).map BitVec.toNat)
  else packList 1 ((span 0 256).map (fun r => b2n (x.accRow 0 r).f))
    + (packList 1 ((span 0 256).map (fun r => b2n (x.accRow 1 r).f))) <<< 256

/-- The number of image rows of a part. -/
def imageLen (p : Nat) : Nat := if p ≤ 3 then 136 else if p ≤ 5 then 256 else 6

/-- Load the words of events (R276). -/
def eventList (x : Nat) : Nat → List Word
  | 0 => []
  | n + 1 => wordN x :: eventList (x >>> 64) n

/-- The parts of row 0 of part 6 that belong to the duplicate register set. -/
def loadOther0 (d : Dup) (v : Nat) : Dup :=
  let d := (span 0 16).foldl (fun d k => d.setFmt k (BitVec.ofNat 32 (v >>> (32 * k)))) d
  let d := (span 0 4).foldl (fun d l => d.setFp l (bits v (528 + 5 * l + 4) (528 + 5 * l))) d
  { d with fbase := bits v 515 512, level := bits v 518 516, ovLost := bit v 519,
           ovq := List.replicate (min (bits v 526 520) 64) 0 }

/-- Place row `j` of an image part that mxload reads: the state it places also enters the checkpoint state (R276). -/
def placeRow (x : Core) (p j v : Nat) : Core :=
  let both := fun (x : Core) (f : Dup → Dup) => { x with dup := f x.dup, ck := { x.ck with dup := f x.ck.dup } }
  if p ≤ 3 then
    let l := x.latchOf p
    if j < 128 then
      let c := Tab.get 0 l.col (j / 4)
      x.setLatchW p { l with col := Tab.set 0 (j / 4) (setFld c (1024 * (j % 4) + 1023) (1024 * (j % 4)) v) l.col }
    else
      let bytes := (span 0 4).map (fun c => BitVec.ofNat 256 (v >>> (256 * c)))
      x.setLatchW p { l with sc := Tab.setList 0 (4 * (j - 128)) bytes l.sc }
  else if p ≤ 5 then x.setAccRow (p - 4) j { x.accRow (p - 4) j with v := BitVec.ofNat 1024 v }
  else if j = 0 then both x (fun d => loadOther0 d v)
  else if j ≤ 4 then
    both x (fun d =>
      let q := (d.ovq.take (16 * (j - 1)) ++ eventList v 16).take d.ovq.length ++ d.ovq.drop (16 * j)
      { d with ovq := q })
  else
    (span 0 256).foldl (fun x r =>
      let x := x.setAccRow 0 r { x.accRow 0 r with f := bit v r }
      x.setAccRow 1 r { x.accRow 1 r with f := bit v (256 + r) }) x

/-- Drop the undo rows of a part that mxload has replaced: a bank's rows, or for part 6 the saved flags (R276). -/
def dropUndo (x : Core) (p : Nat) : Core :=
  if p == 4 || p == 5 then
    { x with undo := x.undo.filter (fun u => u.bank != p - 4), named := x.named.filter (fun u => u.1 != p - 4) }
  else if p == 6 then
    { x with undo := x.undo.map (fun u => { u with old := { u.old with f := (x.accRow u.bank u.row).f } }) }
  else x

/-! ### Beats at their cycles -/

/-- Read what a beat takes at t+1 (R257, R259). -/
def beatRead (s : State) (c : Nat) (b : BeatSrc) : State × Nat :=
  match b with
  | .val x => (s, x.toNat)
  | .spad a len => ownLoad s c a len

/-- A drained row reaches its destination at t+6 (R265, R260, R206). -/
def drainTo (x : Core) (iss : Nat) (dst : DrainDst) (v : Nat) : Core :=
  match dst with
  | .spad _ => x
  | .vreg n => x.landDup iss (fun d => d.setV n (BitVec.ofNat 1024 v))
  | .lq n =>
    let q := x.lqOf n
    let row : LqRow := ⟨BitVec.ofNat 4096 v, decide (iss < x.ck.cyc), x.ck.cyc - 1⟩
    x.setLq n { q with rows := q.rows ++ [row], resv := q.resv - 1 }
  | .stream _ => x

/-- A drained row: its bits as the destination takes them, and the event that the drain posts, if any (R265, R270). -/
def drained (b : BeatRec) (r : AccRow) : Nat × Option Word :=
  match Fmt.ofCode (feAcc b.entry), Fmt.ofCode (feD b.entry) with
  | some fa, some fd =>
    let (x, ev) := drainRow b.entry fa fd r.v 0 32
    (x, if ev || r.f then some (mxEvent b 1 0) else none)
  | _, _ => (0, none)

/-- A drained row lands among the drain writes of its cycle; one that a drain pushes to a stream is pushed in the bundle of that
cycle (R191, R247, R266). -/
def drainRank (dst : DrainDst) : Nat := match dst with | .stream _ => rPush | _ => rDrain

/-- The core as an mxsave of part `p` copies it: for part 6, with the event queue that stands between its bundle and the next
(R276). -/
def copyView (k : Core) (p : Nat) : Core :=
  match k.evCopy with
  | some (_, q, l) => if p = 6 then { k with dup := { k.dup with ovq := q, ovLost := l } } else k
  | none => k

/-- An effect of the array reaches its cycle (R262 to R266, R274, R276). -/
def landArray (s : State) (c iss : Nat) (fx : Fx) : State :=
  match fx with
  | .beatIn b src scale =>
    let (s, x) := beatRead s c src
    let (s, sc) := beatRead s c scale
    let xv := BitVec.ofNat 4096 x
    let scv := BitVec.ofNat 256 sc
    s.onCore c (fun k =>
      if b.kind = 2 then
        (k.schedAt iss 2 rMx (.shiftIn b xv scv)).schedAt iss 4 (rEvent 0) (.events b scv)
      else if b.kind = 1 then
        (k.schedAt iss 4 rAcc (.accAdd b xv scv)).schedAt iss 4 (rEvent 0) (.events b scv)
      else k.schedAt iss 4 rAcc (.accAdd b xv scv))
  | .accAdd b z sc =>
    s.onCore c (fun k => modRow k iss b.bank b.row (fun r =>
      if b.kind = 1 then
        match Fmt.ofCode (feA b.entry) with
        | some fa => pushRow b.entry (kOf (feA b.entry))
            (rowVals fa z.toNat sc.toNat 0 (kOf (feA b.entry))) b.cols r 0 32
        | none => r
      else accRowAdd b.entry z.toNat r 0 32))
  | .shiftIn b z sc =>
    s.onCore c (fun k =>
      let l := k.latchOf b.latch
      let n := k.dup.fpOf b.latch
      let used := kOf (feB b.entry) * codeWidth (feB b.entry)
      let scv := if codeIsN (feB b.entry) then BitVec.ofNat 256 (sc.toNat % 2 ^ (kOf (feB b.entry) / 4)) else 0
      let k := k.setLatchW b.latch
        { col := Tab.set 0 n (BitVec.ofNat 4096 (z.toNat % 2 ^ used)) l.col, sc := Tab.set 0 n scv l.sc }
      k.landDup iss (fun d => d.setFp b.latch ((d.fpOf b.latch + 1) % 32)))
  | .events b sc =>
    let f := if b.kind = 1 then feA b.entry else feB b.entry
    match Fmt.ofCode f with
    | some g => if g.isN then s.onCore c (fun k => k.postEvent iss (fun d => postReserved b g sc.toNat d (kOf f / 32)))
        else s
    | none => s
  | .accDrain b zero dst =>
    s.onCore c (fun k =>
      let r := k.accRow b.bank b.row
      let k := if zero then modRow k iss b.bank b.row (fun _ => AccRow.init) else k
      let k := k.schedAt iss 6 (drainRank dst) (.drainOut b r dst)
      match (drained b r).2 with
      | some w => k.schedAt iss 6 (rEvent 0) (.event w)
      | none => k)
  | .event w => s.onCore c (fun k => k.postEvent iss (fun d => d.post w))
  | .md m r => s.onCore c (fun k => k.landDup iss (fun d => d.setMd m r))
  | .fmtSet n e => s.onCore c (fun k => k.landDup iss (fun d => d.setFmt n e))
  | .fmtLvl l b => s.onCore c (fun k => k.landDup iss (fun d => { d with level := l, fbase := b }))
  | .accZero bank first last => s.onCore c (fun k => zeroRows k iss bank first (last + 1 - first))
  | .wZero l => s.onCore c (fun k => (k.setLatchW l Latch.init).landDup iss (fun d => d.setFp l 0))
  | .ovPop =>
    s.onCore c (fun k =>
      let w := match k.dup.ovq with | e :: _ => e | [] => 0
      (k.landDup iss (fun d => { d with ovq := d.ovq.drop 1 })).schedAt iss 2 rReg (.lat lMX w))
  | .ovStat clear =>
    s.onCore c (fun k =>
      let w := wordN ((b2n k.dup.ovLost) <<< 63 + k.dup.ovq.length)
      let k := if clear then k.landDup iss (fun d => { d with ovLost := false }) else k
      k.schedAt iss 2 rReg (.lat lMX w))
  | .mxSave p o =>
    s.onCore c (fun k => (span 0 (imageLen p)).foldl (fun x j =>
      x.schedAt iss (6 + j) rDrain (.mxRow (o + 1024 * j) (BitVec.ofNat 1024 (imageRow (copyView k p) p j)))) { k with evCopy := if p = 6 then none else k.evCopy })
  | .mxRow o v => spStore s c o 1024 v.toNat
  | .mxRead p j o =>
    let (s, v) := spLoad s c o 1024
    s.onCore c (fun k => k.schedAt iss (6 + imageLen p) rMx (.mxPlace p j (BitVec.ofNat 1024 v)))
  | .mxPlace p j v => s.onCore c (fun k => placeRow k p j v.toNat)
  | .mxDone p => s.onCore c (fun k => { dropUndo k p with mxBusy := 0 })
  | _ => s

end Sys2Proof.Machine
end

