-- ==== Sys2Proof/Machine/Chan.lean ====
section
/-!
DEFINITION. The stream channels of a core (R200 to R214): descriptors, walks and their vectors, item addresses, what
a stream register delivers and takes, faults, and what an SE operation does when it takes effect.
-/
namespace Sys2Proof.Machine

/-! ### Descriptors (R201) -/

/-- Word `k` of a descriptor. -/
def dWord (d : BitVec 512) (k : Nat) : Word := wordN (d.toNat >>> (64 * k))
def dMem (d : BitVec 512) : Nat := fld (dWord d 1) 63 62
def dOut (d : BitVec 512) : Bool := flag (dWord d 1) 61
def dLev (d : BitVec 512) : Nat := fld (dWord d 1) 60 58 + 1
def dItem (d : BitVec 512) : Nat := fld (dWord d 1) 57 56
def dIx (d : BitVec 512) : Bool := flag (dWord d 1) 55
def dIxch (d : BitVec 512) : Nat := fld (dWord d 1) 54 52
def dLq (d : BitVec 512) : Nat := fld (dWord d 1) 51 49
def dAhead (d : BitVec 512) : Nat := fld (dWord d 1) 47 32
/-- The count of level `l`; levels above the last count 1. -/
def dCount (d : BitVec 512) (l : Nat) : Nat := if l < dLev d then fld (dWord d (2 + l)) 63 40 else 1
def dStride (d : BitVec 512) (l : Nat) : Int := sext (fld (dWord d (2 + l)) 39 0) 40
/-- Item width in bits. -/
def dWidth (d : BitVec 512) : Nat := match dItem d with | 0 => ptrWidth (dWord d 0) | 1 => 1024 | _ => 4096
/-- Items that the buffer holds (R200). -/
def dCap (d : BitVec 512) : Nat := match dItem d with | 0 => 2048 | 1 => 128 | _ => 32
/-- Items that the channel may hold ahead (R212 swait). -/
def dLimit (d : BitVec 512) : Nat := if dAhead d ≠ 0 && decide (dAhead d < dCap d) then dAhead d else dCap d

/-- Whether a descriptor is legal (R201, R212): no reserved value or field, no unused level, counts from 1. -/
def descLegal (d : BitVec 512) : Bool :=
  let w1 := dWord d 1
  (dIx d || dIxch d == 0) && (dMem d == 3 || dLq d == 0) && decide (dLev d ≤ 5) && dItem d != 3 && !flag w1 48 && fld w1 31 0 == 0 && dWord d 7 == 0
    && (span 0 5).all (fun l => if l < dLev d then fld (dWord d (2 + l)) 63 40 != 0 else dWord d (2 + l) == 0)
    && (dMem d != 3 || (dWord d 0 == 0 && (span 0 5).all (fun l => dStride d l == 0)))

/-! ### Walks -/

/-- Offset `g` of a grouped walk, when it has been read (R208). -/
def offAt (r : ChRun) (g : Nat) : Option Nat := (r.offs.find? (fun e => e.1 == g)).map (·.2)

/-- Past the last item. -/
def vecEnd (c : ChDup) (v : Vec) : Bool := decide (dCount c.desc 4 ≤ v.i4)

/-- Both offsets of segment `g` (R208). -/
def segOf (r : ChRun) (g : Nat) : Option (Nat × Nat) :=
  match offAt r g, offAt r (g + 1) with
  | some a, some b => some (a, b)
  | _, _ => none

/-- The length of level 1 at a vector: the count, or the segment's length in a grouped walk. -/
def rowCount (c : ChDup) (r : ChRun) (v : Vec) : Nat :=
  if c.grp.isSome then (match segOf r v.i2 with | some (a, b) => b - a | none => 0) else dCount c.desc 1

/-- The vector of the first row of the segment after that of `v`. -/
def nextSeg (c : ChDup) (v : Vec) : Vec :=
  let d := c.desc
  if v.i2 + 1 < dCount d 2 then ⟨0, 0, v.i2 + 1, v.i3, v.i4⟩
  else if v.i3 + 1 < dCount d 3 then ⟨0, 0, 0, v.i3 + 1, v.i4⟩
  else ⟨0, 0, 0, 0, v.i4 + 1⟩

/-- Skip segments that are known to hold no items (R208). -/
def skipEmpty (c : ChDup) (r : ChRun) (v : Vec) : Nat → Vec
  | 0 => v
  | n + 1 =>
    if c.grp.isSome && v.i0 == 0 && v.i1 == 0 && !vecEnd c v
        && (match segOf r v.i2 with | some (a, b) => a == b && decide (b ≤ dCount c.desc 1) | none => false) then
      skipEmpty c r (nextSeg c v) n
    else v

/-- The vector of the item at or after `v`. -/
def atVec (c : ChDup) (r : ChRun) (v : Vec) : Vec :=
  if c.grp.isSome then skipEmpty c r v ((r.offs.length + 1) * dCount c.desc 3 * dCount c.desc 4) else v

/-- The vector after `v`, levels in order, level 0 fastest (R202, R208); past the last item level 4 holds its count. -/
def nextVec (c : ChDup) (r : ChRun) (v : Vec) : Vec :=
  if v.i0 + 1 < dCount c.desc 0 then { v with i0 := v.i0 + 1 }
  else if v.i1 + 1 < rowCount c r v then { v with i0 := 0, i1 := v.i1 + 1 }
  else atVec c r (nextSeg c v)

/-- Items in the whole walk; a grouped walk counts its rows by count1 (R208). -/
def walkTotal (c : ChDup) : Nat :=
  let d := c.desc
  if c.grp.isSome then dCount d 0 * dCount d 1 * dCount d 3 * dCount d 4
  else dCount d 0 * dCount d 1 * dCount d 2 * dCount d 3 * dCount d 4

/-- Place of a vector in the walk. -/
def vecOrd (c : ChDup) (r : ChRun) (v : Vec) : Nat :=
  let d := c.desc
  if c.grp.isSome then
    v.i0 + dCount d 0 * ((offAt r v.i2).getD 0 - (offAt r 0).getD 0 + v.i1 + dCount d 1 * (v.i3 + dCount d 3 * v.i4))
  else v.i0 + dCount d 0 * (v.i1 + dCount d 1 * (v.i2 + dCount d 2 * (v.i3 + dCount d 3 * v.i4)))

/-- The vector of the n-th item of a plain walk. -/
def ordVec (c : ChDup) (n : Nat) : Vec :=
  let d := c.desc
  let n1 := n / dCount d 0
  let n2 := n1 / dCount d 1
  let n3 := n2 / dCount d 2
  ⟨n % dCount d 0, n1 % dCount d 1, n2 % dCount d 2, n3 % dCount d 3, n3 / dCount d 3⟩

/-- The item address of a vector, with `i0` the level-0 value (an index item when ix = 1) (R202, R207, R208). -/
def itemAddr (c : ChDup) (r : ChRun) (v : Vec) (i0 : Nat) : Int :=
  let d := c.desc
  let row := if c.grp.isSome then (offAt r v.i2).getD 0 + v.i1 else v.i1
  (ptrAddr (dWord d 0) : Int) + i0 * dStride d 0 + row * dStride d 1 + v.i2 * dStride d 2 + v.i3 * dStride d 3
    + v.i4 * dStride d 4

/-- The fault of an item address, if any (R202). -/
def itemFault (d : BitVec 512) (a : Int) : Option Nat :=
  let base := ptrAddr (dWord d 0)
  if a < 0 || a ≥ 2 ^ 56 then some eMalformed
  else
    let r := region a.toNat
    let okRegion := match dMem d with | 0 => 1 ≤ r && r ≤ 7 | 1 => 8 ≤ r && r ≤ 13 | 2 => r == 0 | _ => true
    if !okRegion then some eUnmapped
    else if dItem d = 0 then
      let w := dWidth d
      if w = 3 || w = 6 then
        if base % 64 ≠ 0 || (a - base) % w ≠ 0 then some eAlignment else none
      else if a % w ≠ 0 then some eAlignment else none
    else if a % 64 ≠ 0 then some eAlignment else none

/-- Where a scratchpad address of a stream lies: the core and the offset, or the fault code (R194, R98, R210). -/
def spadTarget (s : State) (c a len : Nat) : Except Nat (Nat × Nat) :=
  let tc := (s.core c).tcore
  let r : Except Nat (Nat × Nat) :=
    if a < spadBits then .ok (tc, a)
    else
      let k1 := a / 2 ^ 22
      let o := a % 2 ^ 22
      if k1 < 1 || k1 > 4 || o ≥ spadBits || k1 - 1 ≥ teamSize s c then .error eUnmapped else .ok (k1 - 1, o)
  match r with
  | .error e => .error e
  | .ok (k, o) =>
    if o + len > spadBits then .error eUnmapped
    else if pinBlocked s (peerCore s c k) o len then .error ePerm
    else .ok (peerCore s c k, o)

/-! ### The next item -/

/-- The check of a segment before its first item (R209): the fault, or none. -/
def segFault (c : ChDup) (v : Vec) (a b : Nat) : Option Nat :=
  let rows := dCount c.desc 1
  if v.i2 = 0 && decide (rows < a) then some eOffrange
  else if b < a then some eOfforder
  else if rows < b then some eOffrange
  else none

/-- What the item at a vector needs: offset `g` first, its index item first, a fault with its address and the vector
reported, or nothing more: its address. -/
inductive Nxt
  | off (g : Nat)
  | idx
  | flt (code a : Nat) (v : Vec)
  | item (a : Nat)
  deriving DecidableEq, Repr

/-- Address of offset `g` of a grouped walk (R208). -/
def offAddr (c : ChDup) (g : Nat) : Nat :=
  match c.grp with | some p => ptrAddr p + g * ptrWidth p | none => 0

/-- The item at vector `v`, which stands `i` items from the position of channel `k` (R202, R207 to R209). -/
def itemAt (x : Core) (k i : Nat) (v : Vec) : Nxt :=
  let c := x.dup.chanOf k
  let r := x.chanRun k
  let plain := fun (i0 : Nat) =>
    let a := itemAddr c r v i0
    match itemFault c.desc a with
    | some e => Nxt.flt e (wrapw a 56) v
    | none => .item a.toNat
  let indexed := fun (_ : Unit) =>
    if dIx c.desc then
      match (x.chanRun (dIxch c.desc)).items[i]? with
      | some it => (match it.st with
        | .here b => plain b.toNat
        | .fault code a => Nxt.flt code a v
        | _ => .idx)
      | none => .idx
    else plain v.i0
  if c.grp.isSome then
    match offAt r v.i2, offAt r (v.i2 + 1) with
    | none, _ => .off v.i2
    | _, none => .off (v.i2 + 1)
    | some a, some b =>
      match segFault c v a b with
      | some e =>
        let g := if v.i2 = 0 && decide (dCount c.desc 1 < a) then 0 else v.i2 + 1
        .flt e (offAddr c g) ⟨0, 0, v.i2, v.i3, v.i4⟩
      | none => if v.i1 ≥ b - a then .flt eOffrange (wrapw (itemAddr c r v v.i0) 56) v else indexed ()
  else indexed ()

/-- The channel's own position, past segments known to be empty. -/
def posVec (x : Core) (k : Nat) : Vec := atVec (x.dup.chanOf k) (x.chanRun k) (x.dup.chanOf k).pos

/-! ### Status -/

/-- The source number of a stream record (R72). -/
def streamNum (c k : Nat) : Nat := 8 * c + k

/-- A channel stops at a faulted item: status, and one record with source kind 4 (R210). -/
def chanFault (s : State) (c k code : Nat) (v : Vec) (a : Nat) : State :=
  let s := logErr s code a (ctxOf s c) 4 (streamNum c k) 0
  s.onCore c (fun x => x.setChanRun k { x.chanRun k with flt := true, fcode := code, fvec := v })

/-- An item with an uncorrectable sector or word: zeros, counted and logged (R211). -/
def chanEcc (s : State) (c k a : Nat) : State :=
  let s := logErr s eEcc a (ctxOf s c) 4 (streamNum c k) 0
  s.onCore c (fun x =>
    let r := x.chanRun k
    x.setChanRun k { r with ecc := true, eccn := min (r.eccn + 1) (2 ^ 32 - 1) })

/-- The same for the uncorrectable scratchpad words of an item: the item counts once, and its first word is logged (R211). -/
def chanEccWords (s : State) (c k : Nat) (ws : List Nat) : State :=
  match ws with | w :: _ => chanEcc s c k (64 * w) | [] => s

/-- A channel with nothing read ahead: its items and offsets are read again (R204, R208, R214). -/
def nothingAhead (r : ChRun) : ChRun :=
  { r with items := [], offs := [], known := r.offs ++ r.known, offPark := none, need := 1 }

/-- Discard everything read ahead (R204, R214). -/
def discardAhead (x : Core) (k : Nat) : Core := x.setChanRun k (nothingAhead (x.chanRun k))

/-- An item pushed to output channel `k` and not yet performed. -/
def isPushed (k : Nat) (a : Acc) : Bool := match a.op with | .sout _ j _ => j == k | _ => false

/-- Items pushed to output channel `k` and not yet performed in memory or at a peer (R206): what a full channel and swait wait for.
An item to the own scratchpad performs two issue cycles after its push, and a stall passes none (R5, R203; log entry 28). -/
def pendingOut (x : Core) (k : Nat) : Nat := (x.accs.filter (fun a => a.team == x.team.getD 0 && isPushed k a)).length

/-- Items pushed to output channel `k` that have yet to land in the own scratchpad (R203). -/
def landingOut (x : Core) (k : Nat) : Nat := (x.due.filter (fun d => match d.fx with | .outSpad j _ _ _ => j == k | _ => false)).length

/-- An offset of a grouped walk that the channel has read, be it before its read-ahead was last discarded. -/
def offKnown (r : ChRun) (g : Nat) : Option Nat := (offAt r g).or ((r.known.find? (fun e => e.1 == g)).map (·.2))

/-- Items left, not yet consumed or pushed. Of a grouped walk, segments that the channel has not yet read count by the rows that
count1 leaves after the last offset read (R208, R213; log entry 58). -/
def itemsLeft (x : Core) (k : Nat) : Nat :=
  let c := x.dup.chanOf k
  let r := x.chanRun k
  if c.grp.isNone then walkTotal c - c.cons
  else
    let d := c.desc
    let g := dCount d 2
    let lo := (offKnown r 0).getD 0
    let rows := (offKnown r g).getD (dCount d 1) - lo
    let v := atVec c r c.pos
    let at_ := (offKnown r v.i2).getD lo - lo + v.i1
    dCount d 0 * (rows * (dCount d 3 * (dCount d 4 - v.i4)) - rows * v.i3 - at_) - v.i0 - c.skip

/-- Items that have arrived, in order from the position. -/
def arrived (x : Core) (k : Nat) : List Item :=
  (x.chanRun k).items.takeWhile (fun i => match i.st with | .here _ => true | _ => false)

/-- The vector words that sstat and the frame give (R213). -/
def vecWord1 (v : Vec) : Word := wordN ((v.i2 % 2 ^ 16) <<< 48 + (v.i1 % 2 ^ 24) <<< 24 + v.i0 % 2 ^ 24)
def vecWord2 (v : Vec) : Word := wordN ((v.i4 % 2 ^ 24) <<< 32 + (v.i3 % 2 ^ 24) <<< 8 + v.i2 / 2 ^ 16 % 256)

/-- The vector of two such words. -/
def vecOf (w1 w2 : Word) : Vec :=
  ⟨fld w1 23 0, fld w1 47 24, fld w1 63 48 + (fld w2 7 0) <<< 16, fld w2 31 8, fld w2 55 32⟩

def chStateCode (st : ChState) : Nat := match st with | .unbound => 0 | .idle => 1 | .running => 2 | .done => 3

/-- sstat word `sel` (R213). -/
def statWord (x : Core) (k sel : Nat) : Word :=
  let c := x.dup.chanOf k
  let r := x.chanRun k
  let v := if r.flt then r.fvec else posVec x k
  match sel with
  | 0 =>
    let buf := if dOut c.desc then (if dMem c.desc = 3 then (x.lqOf (dLq c.desc)).rows.length else pendingOut x k + landingOut x k)
      else if dMem c.desc = 3 then (x.lqOf (dLq c.desc)).rows.length else (arrived x k).length
    wordN ((chStateCode c.st) <<< 62 + (b2n r.flt) <<< 61 + (r.fcode % 32) <<< 56 + (b2n r.ecc) <<< 55
      + (b2n r.lod) <<< 54 + (b2n r.drop) <<< 53 + (min buf 0xFFFF) <<< 32
      + (if c.st == .unbound then 0 else min (itemsLeft x k) (2 ^ 32 - 1)))
  | 1 => vecWord1 v
  | 2 => vecWord2 v
  | _ => wordN (r.eccn <<< 32 + r.lodn)

/-! ### Stream registers (R205) -/

/-- How a use of a stream register finds its channel. -/
inductive SUse
  | ready
  | wait
  | bad (t : Trap)
  deriving DecidableEq, Repr

/-- A channel that serves as an index channel of another bound channel (R207). -/
def isIndex (x : Core) (k : Nat) : Bool :=
  (span 0 8).any (fun j => let c := x.dup.chanOf j
    c.st != .unbound && c.st != .idle && dIx c.desc && dIxch c.desc == k && j != k)

/-- Put an item at the end of a channel's buffer. -/
def addItem (x : Core) (k : Nat) (it : Item) : Core :=
  x.setChanRun k { x.chanRun k with items := (x.chanRun k).items ++ [it] }

/-- A due item has faulted: the channel stops there (R210). A fault that an index item has reported is not logged
again (R397). -/
def itemFaulted (s : State) (c k : Nat) (v : Vec) (code a : Nat) (logIt : Bool) : State :=
  let s := if logIt then chanFault s c k code v a
    else s.onCore c (fun x => x.setChanRun k { x.chanRun k with flt := true, fcode := code, fvec := v })
  s.onCore c (fun x => addItem x k ⟨v, a, .fault code a⟩)

/-- The data item that stands `i` items from the position of `k` waits for an index item that has faulted (R397). -/
def idxFaulted (x : Core) (k i : Nat) : Bool :=
  let d := (x.dup.chanOf k).desc
  dIx d && (match (x.chanRun (dIxch d)).items[i]? with
    | some it => (match it.st with | .fault _ _ => true | _ => false)
    | none => false)

/-- The item at vector `v` of a channel is the one at which it has stopped (R210). -/
def stopsAt (r : ChRun) (v : Vec) : Bool := r.flt && r.fvec == v

/-- A channel that reads again after a fault meets the faulted item again; it has been logged (R210, R214). -/
def faultAgain (r : ChRun) (v : Vec) : Item := ⟨v, 0, .fault r.fcode 0⟩

/-- Read one item of an own-scratchpad input stream at the position (R203); nothing while its offset or index has not
come, or where the item lies with a peer. -/
def readSpadItem (s : State) (c k : Nat) : State :=
  let x := s.core c
  let ch := x.dup.chanOf k
  let r := x.chanRun k
  let v := posVec x k
  if ch.st != .running || dOut ch.desc || dMem ch.desc != 2 || ch.skip != 0 || vecEnd ch v || !r.items.isEmpty then s
  else if stopsAt r v then s.onCore c (fun x => addItem x k (faultAgain r v))
  else
    match itemAt x k 0 v with
    | .off _ => s
    | .idx => s.onCore c (fun x => x.setChanRun k { r with lod := true })
    | .flt e a v => itemFaulted s c k v e a (!idxFaulted x k 0)
    | .item a => match spadTarget s c a (dWidth ch.desc) with
      | .error e => itemFaulted s c k v e a true
      | .ok (pc, o) =>
        if pc = c then
          let r := spadLoad x.spad x.spadBad o (dWidth ch.desc)
          (chanEccWords s c k r.2).onCore c (fun x => addItem x k ⟨v, a, .here (BitVec.ofNat 4096 (ownView x o (dWidth ch.desc) r.1))⟩)
        else s

/-- The position passes the item at `v`. -/
def advance (ch : ChDup) (r : ChRun) (v : Vec) : ChDup :=
  let v' := nextVec ch r v
  { ch with pos := v', cons := ch.cons + 1,
            st := if vecEnd ch v' || (ch.grp.isNone && decide (walkTotal ch ≤ ch.cons + 1)) then .done else ch.st }

/-- The first item of a channel is consumed. -/
def dropItem (x : Core) (k : Nat) : Core :=
  let ch := x.dup.chanOf k
  let r := x.chanRun k
  let v := match r.items with | i :: _ => i.vec | [] => posVec x k
  { (x.setChanRun k { r with items := r.items.drop 1, need := max 1 (r.need - 1) }) with
    dup := x.dup.setChan k (advance ch r v) }

/-- The index item of a consumed data item is consumed with it (R207, R397). -/
def dropIndex (s : State) (c k : Nat) : State :=
  let d := ((s.core c).dup.chanOf k).desc
  if dIx d then readSpadItem (s.onCore c (fun x => dropItem x (dIxch d))) c (dIxch d) else s

/-- The queue of a link-queue channel passes `n` rows that sskip has discarded, as far as they have come: they are held until
the checkpoint like rows consumed (R212, R260). -/
def passRows (x : Core) (k n : Nat) : Core :=
  let h := x.dup.chanOf k
  let q := x.lqOf (dLq h.desc)
  let m := min n q.rows.length
  { x.setLq (dLq h.desc) { q with rows := q.rows.drop m, held := q.held ++ q.rows.take m } with
    dup := x.dup.setChan k { h with skip := n - m } }

/-- Take one item of an input channel (R205): its value, and the position advances. -/
def sTake (s : State) (c k : Nat) : State × Nat :=
  let x := s.core c
  let ch := x.dup.chanOf k
  if dMem ch.desc = 3 then
    let x := passRows x k ch.skip
    let q := x.lqOf (dLq ch.desc)
    match q.rows with
    | [] => (s, 0)
    | row :: rest =>
      (s.setCore c (dropItem (x.setLq (dLq ch.desc) { q with rows := rest, held := q.held ++ [row] }) k),
        row.v.toNat % 2 ^ dWidth ch.desc)
  else
    let v := match (x.chanRun k).items with
      | i :: _ => (match i.st with | .here v => v.toNat | _ => 0)
      | [] => 0
    (readSpadItem (dropIndex (s.onCore c (fun x => dropItem x k)) c k) c k, v)

/-- Whether `n` items of an own-scratchpad channel can be taken together: each is read as the one before it is consumed
(R203). -/
def spadAhead (s : State) (c slot k : Nat) : Nat → SUse
  | 0 => .ready
  | n + 1 => match ((s.core c).chanRun k).items.head? with
    | some i => (match i.st with
      | .here _ => spadAhead (sTake s c k).1 c slot k n
      | .fault code _ => .bad (trapStream slot k code)
      | _ => .wait)
    | none => .wait

/-- Whether the next `n` items of stream register `k` can be read as items of width `w` (R205, R257). -/
def sAvail (s : State) (c slot k w n : Nat) : SUse :=
  let x := s.core c
  let ch := x.dup.chanOf k
  let r := x.chanRun k
  if ch.st == .unbound || ch.st == .idle || isIndex x k then .bad (trapProg slot 8)
  else if dOut ch.desc || (w != 0 && dWidth ch.desc != w) || (w == 0 && dItem ch.desc != 0) then .bad (trapIllegal slot)
  else if ch.st == .done then .bad (trapProg slot 8)
  else if dMem ch.desc = 3 then
    if (x.lqOf (dLq ch.desc)).failed then .bad (trapProg slot 7)
    else if (x.lqOf (dLq ch.desc)).held.length ≥ 16 then .bad (trapProg slot 6)
    else if (x.lqOf (dLq ch.desc)).rows.length < ch.skip + n then .wait else .ready
  else
    match r.items.take n with
    | items =>
      match items.find? (fun i => match i.st with | .here _ => false | _ => true) with
      | some i => (match i.st with | .fault code _ => .bad (trapStream slot k code) | _ => .wait)
      | none => if items.length < n then
          (if itemsLeft x k < n then .bad (trapProg slot 8)
           else if dMem ch.desc = 2 then spadAhead s c slot k n else .wait)
        else .ready

/-- Whether an item of width `w` (0: an element) can be pushed to stream register `k` (R205, R210). -/
def sRoom (s : State) (c slot k w : Nat) : SUse :=
  let x := s.core c
  let ch := x.dup.chanOf k
  let r := x.chanRun k
  if ch.st == .unbound || ch.st == .idle || isIndex x k then .bad (trapProg slot 8)
  else if !dOut ch.desc || (w != 0 && dWidth ch.desc != w) || (w == 0 && dItem ch.desc != 0) then .bad (trapIllegal slot)
  else if r.flt then .bad (trapStream slot k r.fcode)
  else if ch.st == .done || decide (itemsLeft x k ≤ r.resv) then .bad (trapProg slot 8)
  else if dMem ch.desc = 3 then
    let q := x.lqOf (dLq ch.desc)
    if q.failed then .bad (trapProg slot 7)
    else if q.rows.length + q.resv ≥ 16 then
      (if q.rows.any (·.rel) then .wait else .bad (trapProg slot 6))
    else .ready
  else if decide (dCap ch.desc ≤ pendingOut x k + r.resv) || ch.skip != 0 then .wait
  else match itemAt x k r.resv (posVec x k) with
    | .off _ | .idx => .wait
    | .flt e _ _ => if idxFaulted x k r.resv then .bad (trapStream slot k e) else .ready
    | .item _ => .ready

/-- A write of an output channel at the next place in model order (R206, R247). -/
def outAcc (s : State) (c : Nat) (x : Core) (k iss : Nat) : Acc :=
  let t := x.team.getD 0
  { id := x.nextId, pid := x.nextId, cls := ptrClass (dWord (x.dup.chanOf k).desc 0), op := .sout 0 k Vec.zero, addr := 0,
    len := 0, reg := 0, data := 0, cmp := 1, ben := none, acq := 0, rel := 0, scope := 0, got := [], parked := [], err := none,
    peer := 0, sent := false, sentAt := 0, held := false, dead := false, iss := iss, ctx := ctxOf s c, tag := (s.team t).tag,
    team := t, age := 0 }

/-- A drain to an output channel reserves a row, which it pushes six issue cycles later (R266). -/
def reserveOut (s : State) (c k : Nat) : State :=
  s.onCore c (fun x => x.setChanRun k { x.chanRun k with resv := (x.chanRun k).resv + 1 })

/-- An access takes the next place in model order. -/
def placeAcc (x : Core) (a : Acc) : Core := { x with accs := x.accs ++ [a], nextId := x.nextId + 1 }

/-- An item of an output channel becomes a write in model order at its push (R206, R247); `peer` is 0 for memory and
windows, else one more than the peer's core; `code` is the fault of its address. -/
def pushOut (s : State) (c : Nat) (x : Core) (k : Nat) (vec : Vec) (d : BitVec 512) (iss a peer : Nat) (code : Option Nat) (v : Nat) :
    Core :=
  placeAcc x { outAcc s c x k iss with
    op := .sout (BitVec.ofNat 4096 v) k vec, addr := a, len := dWidth d, data := BitVec.ofNat 1024 v,
    err := code.map (fun e => (e, a)), peer := peer }

/-- The position of an output channel passes an item, in the registers and, for a push that belongs to the checkpoint, in
the checkpoint state; so does the position of its index channel (R178, R206, R397). -/
def pushAdvance (x : Core) (k iss : Nat) : Core :=
  let r := x.chanRun k
  let d := (x.dup.chanOf k).desc
  let pass := fun (k : Nat) (r : ChRun) (d : Dup) => d.setChan k (advance (d.chanOf k) r (atVec (d.chanOf k) r (d.chanOf k).pos))
  let x := x.landDup iss (pass k r)
  if dIx d then
    let j := dIxch d
    let rj := x.chanRun j
    (x.setChanRun j { rj with items := rj.items.drop 1 }).landDup iss (pass j rj)
  else x

/-- An item of channel `k` whose address has faulted is still to be reported: the items after it are discarded (R210). -/
def outFaulted (x : Core) (k : Nat) : Bool := x.accs.any (fun a => isPushed k a && a.err.isSome && some a.team == x.team)

/-- Push one item to an output channel. An item of the own scratchpad performs `off` cycles from now, two issue cycles after its
push (R203, R247); a link queue takes it as a withheld row (R260). -/
def sPush (s : State) (c k iss off v : Nat) : State :=
  let x := s.core c
  let ch := x.dup.chanOf k
  let d := ch.desc
  let val := v % 2 ^ dWidth d
  let at_ := itemAt x k 0 (posVec x k)
  let vec := posVec x k
  let s := s.setCore c (pushAdvance x k iss)
  let x := s.core c
  let s := if dIx d then readSpadItem s c (dIxch d) else s
  if dMem d = 3 then
    let q := x.lqOf (dLq d)
    let row : LqRow := ⟨BitVec.ofNat 4096 val, decide (iss < x.ck.cyc), x.ck.cyc - 1⟩
    s.onCore c (fun x => x.setLq (dLq d) { q with rows := q.rows ++ [row] })
  else if outFaulted x k || (x.chanRun k).flt then s
  else
    let put := fun (a peer : Nat) (code : Option Nat) =>
      s.onCore c (fun x => pushOut s c x k vec d iss a peer code val)
    match at_ with
    | .flt e a _ => put a 0 (some e)
    | .item a =>
      if dMem d = 2 then
        match spadTarget s c a (dWidth d) with
        | .error e => put a 0 (some e)
        | .ok (pc, o) =>
          if pc = c then
            s.onCore c (fun x => placeAcc
              { x with due := insertDue ⟨x.cyc + off, rOut, iss, .outSpad k o (dWidth d) (BitVec.ofNat 4096 val)⟩ x.due }
              { outAcc s c x k iss with op := .near (x.cyc + off), addr := a, len := dWidth d })
          else put o (pc + 1) none
      else put a 0 none
    | _ => s

/-! ### SE operations taking effect (R212) -/

/-- Clear the status of a channel. -/
def clearStatus (r : ChRun) : ChRun :=
  { r with flt := false, fcode := 0, fvec := Vec.zero, ecc := false, lod := false, drop := false, eccn := 0, lodn := 0 }

/-- The channel that feeds indices to `k` stands at item `n`, with nothing read ahead (R397). -/
def seekIndex (x : Core) (k iss n place : Nat) : Core :=
  let d := (x.dup.chanOf k).desc
  if dIx d then
    let j := dIxch d
    let x := x.landDup iss (fun d =>
      let h := d.chanOf j
      d.setChan j { h with pos := ordVec h n, cons := n, st := if walkTotal h ≤ n then .done else .running })
    x.setChanRun j { nothingAhead (x.chanRun j) with place := place }
  else x

/-- An own-scratchpad input channel, and its index channel, read the item at their positions. -/
def startRead (s : State) (c k : Nat) : State :=
  let d := ((s.core c).dup.chanOf k).desc
  let s := if dIx d then readSpadItem s c (dIxch d) else s
  readSpadItem s c k

/-- The positions pass `n` items without consuming them; a grouped walk passes the rest as its offsets come (R212). -/
def skipItems (h : ChDup) (n : Nat) : ChDup :=
  if h.grp.isNone then
    let m := h.cons + n
    { h with cons := m, pos := ordVec h m, st := if walkTotal h ≤ m then .done else h.st }
  else { h with cons := h.cons + n, skip := h.skip + n }

/-- SE operation `op` (its trigger index) takes effect on channel `k`, from t+2: 0 sbind, 1 sgrp, 2 sstart, 3 sstop,
4 sseek, 6 sflush, 7 sskip, 8 sfree. `y` and `a` are the operands; for sbind the descriptor was read at issue. -/
def seApply (s : State) (c iss op k : Nat) (y a : Word) (desc : BitVec 512) (place : Nat) : State :=
  let x := s.core c
  let ch := x.dup.chanOf k
  let r := x.chanRun k
  let both := fun (x : Core) (f : ChDup → ChDup) => x.landDup iss (fun d => d.setChan k (f (d.chanOf k)))
  match op with
  | 0 =>
    let x := both x (fun _ => { ChDup.init with st := .idle, desc := desc })
    s.setCore c (x.setChanRun k { nothingAhead (clearStatus r) with place := place, known := [] })
  | 1 => s.setCore c (both x (fun h => { h with grp := some y }))
  | 2 =>
    let st := if walkTotal ch = 0 then ChState.done else .running
    let x := both x (fun h => { h with st := st, pos := Vec.zero, cons := 0, skip := 0 })
    let x := x.setChanRun k { nothingAhead (clearStatus r) with place := place, known := [] }
    startRead (s.setCore c (seekIndex x k iss 0 place)) c k
  | 3 =>
    let x := both x (fun h => { h with st := if h.st == .unbound then .unbound else .idle })
    s.setCore c (discardAhead x k)
  | 4 =>
    let v := vecOf y a
    let n := vecOrd ch r v
    let x := both x (fun h => { h with st := .running, pos := v, cons := n, skip := 0 })
    let x := x.setChanRun k { nothingAhead r with flt := false, fcode := 0, fvec := Vec.zero, place := place }
    startRead (s.setCore c (seekIndex x k iss n place)) c k
  | 6 => if dOut ch.desc then s
    else
      let x := x.setChanRun k { nothingAhead r with place := place }
      startRead (s.setCore c (seekIndex x k iss ch.cons place)) c k
  | 7 =>
    let n := min y.toNat (itemsLeft x k)
    let got := min n r.items.length
    let grouped := ch.grp.isSome && decide (0 < r.items.length)
    -- items of a grouped walk that stand in the buffer are passed one by one
    let x := if grouped then (List.replicate got ()).foldl (fun x _ => dropItem x k) x
      else x.setChanRun k { r with items := r.items.drop n }
    let x := both x (fun h => skipItems (if grouped then { h with pos := (x.dup.chanOf k).pos, cons := (x.dup.chanOf k).cons } else h)
      (if grouped then n - got else n))
    let x := if dMem ch.desc = 3 && !dOut ch.desc then
        let x := both x (fun h => { h with skip := h.skip + n })
        passRows x k (x.dup.chanOf k).skip
      else x
    let x := if dIx ch.desc then
        let j := dIxch ch.desc
        (x.landDup iss (fun d => d.setChan j (skipItems (d.chanOf j) n))).setChanRun j
          { x.chanRun j with items := (x.chanRun j).items.drop n }
      else x
    startRead (s.setCore c x) c k
  | _ =>
    let x := both x (fun h => { h with st := .unbound })
    s.setCore c (discardAhead x k)

/-- An effect of a channel reaches its cycle. -/
def landChan (s : State) (c iss : Nat) (fx : Fx) : State :=
  match fx with
  | .seAct op k y a desc place => seApply s c iss op k y a desc place
  | .outSpad _ o len v => spStore s c o len v.toNat
  | .drainOut b r dst =>
    let x := (drained b r).1
    match dst with
    | .spad a => spStore s c a (32 * codeWidth (feD b.entry)) x
    | .stream k => sPush (s.onCore c (fun z => z.setChanRun k { z.chanRun k with resv := (z.chanRun k).resv - 1 })) c k iss (iss + 8 - (s.core c).cyc) x
    | _ => s.onCore c (fun z => drainTo z iss dst x)
  | _ => s

end Sys2Proof.Machine
end

