-- ==== Sys2Proof/Machine/Net.lean ====
section
/-!
DEFINITION. Packets of the fabric (R294 to R302): addresses, headers, routes, sequence numbers, answers, the Fuller's own
requests, and how an arriving packet reaches the event that handles it.
-/
namespace Sys2Proof.Machine

/-- Packet operations (R300, R319, R328). -/
def kLoad : Nat := 0x01
def kStore : Nat := 0x02
def kAdd : Nat := 0x03
def kBar : Nat := 0x04
def kLink : Nat := 0x05
def kConnect : Nat := 0x06
def kCredit : Nat := 0x07
def kReply : Nat := 0x08
def kAck : Nat := 0x09
def kPark : Nat := 0x0A
def kErr : Nat := 0x0B
def kContrib : Nat := 0x10
def kWithdraw : Nat := 0x11
def kGrpset : Nat := 0x12
def kGrpclr : Nat := 0x13
def kGrpretire : Nat := 0x14
def kResult : Nat := 0x15
def kNotice : Nat := 0x16
def kXperm : Nat := 0x17

/-- FAB_ID: valid bit, domain and member (R316). -/
def fabOn (s : State) : Bool := flag s.fab.id 63
def fabDom (s : State) : Nat := fld s.fab.id 20 11
def fabMem (s : State) : Nat := fld s.fab.id 10 0

/-- FAB_CTL.tmo in µs (R316). -/
def fabTmo (s : State) : Nat := fld s.fab.ctl 15 0

/-- The source and the target of a packet are this package. -/
def fromHere (s : State) (p : Packet) : Bool := p.sdom == fabDom s && p.smem == fabMem s
def toHere (s : State) (p : Packet) : Bool := p.tdom == fabDom s && p.tmem == fabMem s

/-- A blank header from this package. -/
def blankPacket (s : State) : Packet := { Packet.blank with sdom := fabDom s, smem := fabMem s }

/-- A record with source kind 3. The port at which a packet came is not part of it, so the source number is free (R72; log
entry 11). -/
def logFabric (s : State) (code a ctx : Nat) : State :=
  let (s, n) := draw s
  logErr s code a ctx 3 (Config.pick n % 48) 0

/-! ### Routes (R294 to R297) -/

/-- The port that FAB_PORTMAP replaces, which is held down (R295). -/
def replacedPort (s : State) : Option Nat := if flag s.fab.portmap 6 then some (fld s.fab.portmap 5 0) else none

/-- The port that a table names, after the port map; none where it is down (R295, R297). -/
def livePort (s : State) (p : Nat) : Option Nat :=
  let q := if replacedPort s = some p then 47 else p
  if bit s.fab.up q then some q else none

/-- The domain entry of member `m` (R297). -/
def domPort (s : State) (m : Nat) : Option Nat :=
  let e := Tab.get 0 s.fab.dom m
  if flag e 6 && m != fabMem s then livePort s (fld e 5 0) else none

/-- The valid gateways toward domain `g`: member and uplink (R297). -/
def gateways (s : State) (g : Nat) : List (Nat × Nat) :=
  (span 0 16).filterMap (fun i =>
    let w := Tab.get 0 s.fab.glob (4 * g + i / 4)
    let j := 16 * (i % 4)
    if flag w j then some (fld w (j + 15) (j + 5), fld w (j + 4) (j + 1)) else none)

/-- The port toward a gateway: the uplink at the gateway itself, else the way to it (R297). -/
def gatePort (s : State) (g : Nat × Nat) : Option Nat :=
  if g.1 = fabMem s then livePort s (35 + g.2) else domPort s g.1

/-- Whether a packet may take a path of its own choice (R296). -/
def adaptive (s : State) (p : Packet) : Bool :=
  !p.resp && ((p.tier == 1 && flag s.fab.ctl 32) || (p.tier == 2 && flag s.fab.ctl 33))

/-- Choose an element of a list by a free value. -/
def choose {α : Type} (s : State) (l : List α) : State × Option α :=
  match l with
  | [] => (s, none)
  | [x] => (s, some x)
  | _ => ({ s with fresh := s.fresh + 1 }, l[Config.pick s.fresh % l.length]?)

/-- The gateway of a packet: by a hash of the target member and the source core over the valid ones, or any, chosen once per
packet (R296). The hash is not stated (log entry 59). -/
def chooseGate (s : State) (p : Packet) : State × Option (Nat × Nat) :=
  let gs := gateways s p.tdom
  if adaptive s p then
    match gs.find? (fun g => p.gate == some g.1) with
    | some g => (s, some g)
    | none => choose s gs
  else (s, gs[Config.gateHash p.tmem p.score % gs.length]?)

/-- The members of the domain by which a packet may go: none for the minimal path, or an intermediate member, chosen at the
source (R296). -/
def ways (s : State) (p : Packet) : List (Option Nat) :=
  none :: (if adaptive s p && fromHere s p && p.hop == 0 then
    (s.fab.dom.filter (fun e => e.1 != p.tmem && (domPort s e.1).isSome)).map (fun e => some e.1) else [])

/-- The port of a packet's next link, and the packet with what the choice has fixed; none without a valid entry, after six links,
or while the package has no address (R294, R296, R297, R301). -/
def routeOf (s : State) (p : Packet) : State × Option Nat × Packet :=
  let p := if p.via = some (fabMem s) then { p with via := none } else p
  if !fabOn s || decide (6 ≤ p.hop) then (s, none, p)
  else if p.tdom = fabDom s then
    match p.via with
    | some m => (s, domPort s m, p)
    | none =>
      let (s, w) := choose s (ways s p)
      match w.join with
      | some m => (s, domPort s m, { p with via := some m })
      | none => (s, domPort s p.tmem, p)
  else
    let (s, g) := chooseGate s p
    (s, g.bind (gatePort s), { p with gate := g.map (·.1) })

/-- Queue a packet for the port that its route names. -/
def enqueue (s : State) (p : Packet) : State :=
  let (s, q, p) := routeOf s p
  { s with fab := { s.fab with outq := s.fab.outq ++ [(q, p)] } }

/-- Packets queued for a port that is down find another way: any gateway or intermediate member that they had taken is chosen again
(R295). -/
def requeue (s : State) : State :=
  let gone := fun (e : Option Nat × Packet) => match e.1 with | some q => !bit s.fab.up q | none => false
  let (moved, kept) := s.fab.outq.partition gone
  moved.foldl (fun s e => enqueue s { e.2 with via := none, gate := none }) { s with fab := { s.fab with outq := kept } }

/-- The port map and the port states of FAB_PORTSTAT: the replaced port is held down (R295, R316). -/
def setPorts (s : State) (up : Nat) : State :=
  let up := match replacedPort s with | some p => up &&& (2 ^ 48 - 1 - 2 ^ p % 2 ^ 48) | none => up
  requeue { s with fab := { s.fab with up := up } }

/-! ### Sequence numbers (R302) -/

/-- Number `key` in the sequence tables; a table starts at 0. -/
def seqOf (s : State) (key : List Nat) : Nat := ((s.fab.seqs.find? (fun e => e.1 == key)).map (·.2)).getD 0

def setSeq (s : State) (key : List Nat) (n : Nat) : State :=
  { s with fab := { s.fab with seqs := (key, n) :: s.fab.seqs.filter (fun e => e.1 != key) } }

/-- The stream channel whose request a packet is, one more than its number, or 0; for a link row 8 more than the queue that its handle
names; it travels in bits 60:57 of word 6 (log entry 11). -/
def chanField (p : Packet) : Nat := fld p.x6 60 57

/-- The sequence key of a request that this package sends, and of one that it receives. -/
def outKey (p : Packet) : List Nat := [0, p.tdom, p.tmem, p.score, p.cls, b2n p.nc, chanField p]
def inKey (p : Packet) : List Nat := [1, p.sdom, p.smem, p.score, p.cls, b2n p.nc, chanField p]

/-- A request whose turn has not come stays in the fabric: a number earlier than its own is still on its way, or, before a request
that performs on arrival, an earlier one of its sequence has yet to perform (R302, R310, R315). -/
def inTurn (s : State) (p : Packet) : Bool :=
  decide (seqOf s (inKey p) = p.seq)
    && ([kLoad, kStore, kAdd, kXperm].contains p.op || !s.fab.remote.any (fun e => inKey e.2.pkt == inKey p))

/-- The number after an accepted request. -/
def passSeq (s : State) (p : Packet) : State := setSeq s (inKey p) ((p.seq + 1) % 65536)

/-- A request of this package is dropped before it has left: those queued behind it take the number that it leaves free. -/
def closeGap (s : State) (p : Packet) : State :=
  let later := fun (e : Option Nat × Packet) => fromHere s e.2 && !e.2.resp && outKey e.2 == outKey p
    && decide ((e.2.seq + 65536 - p.seq) % 65536 < 32768)
  let n := seqOf s (outKey p)
  setSeq { s with fab := { s.fab with outq := s.fab.outq.map (fun e =>
      if later e then (e.1, { e.2 with seq := (e.2.seq + 65535) % 65536 }) else e) } } (outKey p) ((n + 65535) % 65536)

/-! ### Sending -/

/-- Payload flits of 64 bytes (R298). -/
def flitsOf (p : Packet) : Nat :=
  if p.flits = 0 && decide (64 < p.len) && [kStore, kLink, kContrib, kGrpset, kResult, kXperm].contains p.op
  then (p.len + 511) / 512 else p.flits

/-- Put a packet on its way: to the own package, or to a port (R297). Requests take the next sequence number of their
source, target package and class (R302); a source that is not a core has source core 0 (R300). -/
def sendPacket (s : State) (p : Packet) : State :=
  let p := { p with flits := flitsOf p, score := if p.nc then 0 else p.score }
  let n := seqOf s (outKey p)
  let (s, p) := if p.resp then (s, p) else (setSeq s (outKey p) ((n + 1) % 65536), { p with seq := n })
  if fabOn s && toHere s p then { s with fab := { s.fab with loop := s.fab.loop ++ [p] } } else enqueue s p

/-- The answer to a request travels in its tier, back to its source, with its tag and core (R298, R300). -/
def answerHead (s : State) (p : Packet) (op : Nat) (data : Word) : Packet :=
  { blankPacket s with tier := p.tier, resp := true, op := op, tdom := p.sdom, tmem := p.smem, score := p.score, tag := p.tag,
                       nc := p.nc, data := data }

def answer (s : State) (p : Packet) (op : Nat) (data : Word) : State := sendPacket s (answerHead s p op data)

/-- An error response carries its code and the bit address, which this package logs (R12, R37, R72). The answer to a connect
carries its flow handle (log entry 11). -/
def answerErr (s : State) (p : Packet) (code a : Nat) : State :=
  sendPacket (logFabric s code a p.tctx)
    { answerHead s p kErr (wordN code) with addr := a % 2 ^ 56, x7 := if p.op = kConnect then p.x7 else 0 }

/-- A request with a malformed pointer is refused; another is handled (R33). -/
def unlessMal (s : State) (p : Packet) (k : State → Packet → State) : State :=
  if 2 ^ 56 ≤ p.addr then answerErr s p eMalformed p.addr else k s p

/-- The answer to a load: its value, in payload flits when it is a row (R305). -/
def loadHead (s : State) (p : Packet) (v : Nat) : Packet :=
  { answerHead s p kReply (wordN v) with
    body := if 64 < p.len then BitVec.ofNat 4096 v else 0, flits := if 64 < p.len then (p.len + 511) / 512 else 0 }

def answerLoad (s : State) (p : Packet) (v : Nat) : State := sendPacket s (loadHead s p v)

/-- The answer to a speculative load that was dropped: bit 62 of word 6 (R125, R204; log entry 11). -/
def answerDrop (s : State) (p : Packet) : State := sendPacket s { loadHead s p 0 with x6 := wordN (2 ^ 62) }

/-- The answer to a load that met uncorrectable units of `u` bits at the addresses `bads`: bit 61 of word 6, with bit 60 where the
units are words; it gives the address of the first, and in words 5 and 4 a bit for each unit from there (R211, R305; log entry
11). -/
def answerBads (s : State) (p : Packet) (v u : Nat) (bads : List Nat) : State :=
  let a := bads.headD 0
  let m := (bads.map (fun b => 2 ^ ((b - a) / u))).sum
  sendPacket s { loadHead s p v with addr := a, x6 := wordN (2 ^ 61 + (if u = 64 then 2 ^ 60 else 0)), x5 := wordN m, x4 := wordN (m >>> 64) }

/-- The uncorrectable units that a reply gives. -/
def badUnits (p : Packet) : List Nat :=
  let u := if flag p.x6 60 then 64 else 256
  if flag p.x6 61 then
    (span 0 128).filterMap (fun i => if (if i < 64 then flag p.x5 i else flag p.x4 (i - 64)) then some (p.addr + u * i) else none)
  else []

/-- The data of a reply. -/
def replyBits (p : Packet) : Nat := if p.flits = 0 then p.data.toNat else p.body.toNat

/-- Drop a packet and count it (R294, R298, R301, R316). -/
def dropPacket (s : State) : State := { s with fab := { s.fab with drop := s.fab.drop + 1 } }

/-- A speculative request (R125): marked, like the answer to one that was dropped, in bit 62 of word 6 (log entry 11). -/
def isSpec (p : Packet) : Bool := flag p.x6 62
def specWord : Word := wordN (2 ^ 62)

/-- A stream access whose read was sent before its item was due. -/
def isSpecAcc (a : Acc) : Bool := flag a.cmp 62

/-! ### Requests of the Fuller itself (R301) -/

/-- Send a request of the Fuller under a tag of its own, to window `win` of its context where it goes through one. -/
def sendFuller (s : State) (who : FlightFor) (win : Option (Nat × Nat)) (p : Packet) : State :=
  let t := s.fab.nextTag
  let f : Flight := ⟨t, who, p.tctx, p.addr, win, s.fe.time.toNat, false⟩
  sendPacket { s with fab := { s.fab with flights := s.fab.flights ++ [f], nextTag := (t + 1) % 2 ^ 19 } }
    { p with nc := true, tag := t }

/-- The request of the Fuller that an answer names. -/
def flightOf (s : State) (tag : Nat) : Option Flight := s.fab.flights.find? (fun f => f.tag == tag)

def dropFlight (s : State) (tag : Nat) : State :=
  { s with fab := { s.fab with flights := s.fab.flights.filter (fun f => f.tag != tag) } }

/-- A park notice suspends the time-out. -/
def holdFlight (s : State) (tag : Nat) : State :=
  { s with fab := { s.fab with flights := s.fab.flights.map (fun f => if f.tag = tag then { f with held := true } else f) } }

/-! ### Arrival -/

/-- Remove the k-th element of a list. -/
def takeNth {α : Type} (k : Nat) : List α → Option (α × List α)
  | [] => none
  | x :: r => match k with
    | 0 => some (x, r)
    | n + 1 => match takeNth n r with
      | some (y, r') => some (y, x :: r')
      | none => none

/-- The packet that an arrival event handles: one of the packets this package sent to itself, or a packet from another
package. A packet of a reserved tier is dropped and logged, a packet that reaches a package without an address is
dropped, and a packet for another package waits for a port (R294, R297, R298). -/
def arrive (s : State) (a : Arrival) (op : Nat) : State × Option Packet :=
  match a with
  | .loop k => match takeNth k s.fab.loop with
    | some (p, r) => if p.op = op then ({ s with fab := { s.fab with loop := r } }, some p) else (s, none)
    | none => (s, none)
  | .ext p =>
    if p.op ≠ op then (s, none)
    else if !fabOn s then (dropPacket s, none)
    else if p.tier = 3 then (logFabric (dropPacket s) eNoroute p.addr p.tctx, none)
    else if toHere s p then (s, some p)
    else (enqueue s { p with hop := p.hop + 1 }, none)

/-- A request that the source takes from a package of its own: an arriving request, in turn, or nothing. -/
def arriveReq (s : State) (a : Arrival) (op : Nat) : State × Option Packet :=
  match arrive s a op with
  | (s', some p) => if inTurn s p then (passSeq s' p, some p) else (s, none)
  | r => r

end Sys2Proof.Machine
end

