-- ==== Sys2Proof/Machine/Access.lean ====
section
/-!
DEFINITION. The memory accesses of a core on their way (R215 to R233, R237 to R247): their order, the withholding
buffer, the read of own stores, parks, and how a load, an atomic or a released store performs and replies.
-/
namespace Sys2Proof.Machine

/-! ### The list of accesses -/

/-- A fresh access of core `c`, at the next place in its program. -/
def accBase (s : State) (c : Nat) : Acc :=
  let x := s.core c
  { id := x.nextId, pid := x.nextId, cls := 0, op := .pref, addr := 0, len := 64, reg := 0, data := 0, cmp := 0,
    ben := none, acq := 0, rel := 0, scope := 0, got := [], parked := [], err := none, peer := 0, sent := false, sentAt := 0,
    held := false, dead := false, iss := x.cyc, ctx := ctxOf s c,
    tag := (s.team (x.team.getD 0)).tag, team := x.team.getD 0, age := 0 }

/-- An access takes its place in model order (R239). -/
def pushAcc (s : State) (c : Nat) (a : Acc) : State :=
  s.onCore c (fun x => { x with accs := x.accs ++ [a], nextId := x.nextId + 1 })

def findAcc (x : Core) (id : Nat) : Option Acc := x.accs.find? (fun a => a.id == id)

def putAcc (x : Core) (a : Acc) : Core := { x with accs := x.accs.map (fun b => if b.id = a.id then a else b) }

def isFence (a : Acc) : Bool := match a.op with | .fence _ _ => true | _ => false
def isNear (a : Acc) : Bool := match a.op with | .near _ => true | _ => false
def isEcho (a : Acc) : Bool := match a.op with | .echo _ => true | _ => false
def isSin (a : Acc) : Bool := match a.op with | .sin _ _ => true | _ => false

/-- A pure read whose reply is discarded: nobody can tell when it performs. A discarded atomic or device read still acts. -/
def gone (a : Acc) : Bool :=
  a.dead && (match a.op with | .ld _ | .ovl _ _ | .peerLd _ | .rld _ | .resq _ | .sin _ _ => true | _ => false)

/-- The read of an overflow slot has performed and waits for its bundle to take it (R189). -/
def served (a : Acc) : Bool :=
  match a.op with | .ovl _ _ => decide (a.got.length = (sectors a.addr a.len).length) || a.err.isSome | _ => false

/-- An access that others may have to wait for: it has yet to perform. -/
def stands (a : Acc) : Bool := !gone a && !served a

/-- Fences that head a list of accesses leave it. -/
def headFences : List Acc → List Acc
  | [] => []
  | a :: r => if isFence a then headFences r else a :: r

/-- A read that a channel has begun and not finished. -/
def isReading (i : Item) : Bool := match i.st with | .reading _ _ => true | _ => false

/-- A channel of the core has a read on its way. -/
def readsOpen (x : Core) : Bool :=
  (span 0 8).any (fun k => (x.chanRun k).items.any isReading || (x.chanRun k).offPark.isSome)

/-- Fences that have nothing left to order leave the list: no access stands before them, and no stream read (R242). -/
def pruneFences (x : Core) (as : List Acc) : List Acc := if readsOpen x then as else headFences as

/-- A load that stands for stores of its own strand, once entry `id` has performed; none when it has nothing left to stand
for (R242). -/
def echoLeft (id : Nat) (a : Acc) : Option Acc :=
  match a.op with
  | .echo ids => if ids.filter (· != id) = [] then none else some { a with op := .echo (ids.filter (· != id)) }
  | _ => some a

/-- An access has performed, or received its response. -/
def dropAcc (x : Core) (id : Nat) : Core :=
  { x with accs := pruneFences x ((x.accs.filter (fun a => a.id != id)).filterMap (echoLeft id)) }

/-- Requests that an access counts for: GM operations, peer loads, overflow accesses, replies of resq, and requests to
other packages (R217, R302, R331). A tag scout counts for none (R199). -/
def requests (a : Acc) : Nat :=
  match a.op with
  | .send e => e.subs.length
  | .ld _ | .ovl _ _ | .atomic _ _ | .drd | .dwr | .pref | .peerLd _ | .rld _ | .rst | .xsig | .bar | .grp _ _ _ _ _ _
  | .connect _ | .resq _ => 1
  | .sout _ _ _ | .sin _ _ => b2n (decide (8 ≤ region a.addr))
  | .peerSt | .peerBor | .fence _ _ | .scout | .nsig | .hbar | .consume | .near _ | .echo _ => 0

/-- Requests outstanding (R217). -/
def outstanding (x : Core) : Nat := (x.accs.map requests).sum + (x.wb.map (fun e => e.subs.length)).sum

/-! ### Order (R235, R240 to R243) -/

/-- Mask `m` selects class `c`: its bit, bit 15, or class 15 with a nonzero mask (R242, R243). -/
def selects (m c : Nat) : Bool := m != 0 && (bit m c || bit m 15 || c == 15)

/-- The memory bits of an access that the strand's own order per bit is about (R237). -/
def accRanges (a : Acc) : List (Nat × Nat) :=
  match a.op with
  | .ld _ | .ovl _ _ | .atomic _ _ | .rld _ | .rst | .xsig | .sin _ _ => [(a.addr, a.len)]
  | .sout _ _ _ => if region a.addr = 0 then [] else [(a.addr, a.len)]
  | .send e => e.subs.map (fun u => (u.lo, u.len))
  | _ => []

def meets (p q : Nat × Nat) : Bool := decide (p.1 < q.1 + q.2) && decide (q.1 < p.1 + p.2)

def rangesMeet (p q : List (Nat × Nat)) : Bool := p.any (fun u => q.any (meets u))

/-- Accesses that carry no class of their own: they neither wait by class nor make others wait. -/
def noClass (a : Acc) : Bool :=
  match a.op with
  | .fence _ _ | .connect _ | .pref | .scout | .nsig | .hbar | .consume | .resq _ => true
  | _ => false

def isDev (a : Acc) : Bool := match a.op with | .drd => true | .dwr => true | _ => false
def isSend (a : Acc) : Bool := match a.op with | .send _ => true | _ => false

/-- A load that sees the strand's own stores (R219). -/
def isLd (a : Acc) : Bool := match a.op with | .ld _ => true | .ovl _ _ => true | _ => false

/-- An access to a peer's scratchpad by an LS operation. -/
def isPeer (a : Acc) : Bool := match a.op with | .peerLd _ => true | .peerSt => true | .peerBor => true | _ => false

/-- The peer core that an access reaches, of an LS operation or of a stream channel (R193, R203). -/
def peerOf (a : Acc) : Option Nat :=
  match a.op with
  | .peerLd _ | .peerSt | .peerBor => some a.peer
  | .sout _ _ _ | .sin _ _ => if region a.addr = 0 && a.peer != 0 then some (a.peer - 1) else none
  | _ => none

/-- nsig, hbar and a consumption perform after every earlier access (R371). -/
def waitsAll (a : Acc) : Bool := match a.op with | .nsig => true | .hbar => true | .consume => true | _ => false

/-- `a` stands before `b` in model order: a stream read at the place from which its channel reads (R246), before the access of
that place. -/
def placedBefore (a b : Acc) : Bool :=
  let place := fun (a : Acc) => if isSin a then a.pid else a.id
  decide (place a < place b) || (place a == place b && isSin a && !isSin b)

/-- The channels of a core that reach memory or windows. -/
def ownEngines (x : Core) : Bool :=
  (span 0 8).any (fun k => let h := x.dup.chanOf k
    (h.st == .running || h.st == .done) && decide (dMem h.desc ≤ 1)) || x.accs.any isSin

/-- Whether an order at scope `sc` of the strand on core `c` binds anything: scopes 0 and 1 have observers besides the strand where
its streams or its team-mates reach memory, the wider scopes always have some (R235). -/
def observed (s : State) (c sc : Nat) : Bool :=
  let x := s.core c
  let own := ownEngines x
  match sc with
  | 0 => own
  | 1 => own || (match x.team with | some t => decide (2 ≤ (s.team t).cores.length) | none => true)
  | _ => true

/-- A release qualifier of `b`, or of a store in a released entry, selects class `cls` at a scope that has observers (R232,
R243). -/
def releases (ob : Nat → Bool) (b : Acc) (cls : Nat) : Bool :=
  match b.op with
  | .send e => e.subs.any (fun u => selects u.rel cls && ob u.scope)
  | _ => selects b.rel cls && ob b.scope

/-- `a`, placed earlier, performs before `b`; `ob` tells which scopes have observers. A load that stands for an earlier store
counts only where a release selects it (R242, R243). -/
def accBefore (ob : Nat → Bool) (a b : Acc) : Bool :=
  let released := releases ob b a.cls
  stands a && a.team == b.team && (a.pid != b.pid || isSin a) && !isFence a &&
    (if isEcho a then released
     else waitsAll b || (!noClass a && !noClass b &&
      (a.cls == b.cls || a.cls == 15 || b.cls == 15 || released || (selects a.acq b.cls && ob a.scope)
        || (isDev a && isDev b) || ((peerOf a).isSome && peerOf a == peerOf b)
        || (!(isSend a && isLd b) && rangesMeet (accRanges a) (accRanges b)))))

/-- Reads that channel `k` has begun and not finished, as accesses at the place from which the channel reads: later accesses of its
class, or of the same bits, wait behind them (R118, R246). -/
def openReads (s : State) (c k : Nat) : List Acc :=
  let x := s.core c
  let r := x.chanRun k
  let d := (x.dup.chanOf k).desc
  let base := { accBase s c with id := r.place, pid := r.place, cls := ptrClass (dWord d 0), op := .sin k Vec.zero }
  (r.items.filter isReading).map
      (fun i => { base with addr := i.addr, len := dWidth d })
    ++ (if r.offPark.isSome then [base] else [])

/-- What stands before an access: the outstanding accesses and the stream reads on their way. -/
def standing (s : State) (c : Nat) : List Acc := (s.core c).accs ++ (span 0 8).flatMap (openReads s c)

/-- A fence between two accesses orders them, at a scope that has observers (R242). -/
def fenceBetween (ob : Nat → Bool) (as : List Acc) (near : Bool) (b : Acc) : Bool :=
  as.any (fun f => match f.op with
    | .fence m sc => placedBefore f b && f.team == b.team && !noClass b && selects m b.cls && ob sc
        && as.any (fun a => isNear a == near && placedBefore a f && stands a && !noClass a && a.team == b.team && selects m a.cls)
    | _ => false)

/-- Something earlier must perform first. A local LS write does not hold an access up: it lands with it (`settle`). -/
def blocked (s : State) (c : Nat) (b : Acc) : Bool :=
  let ob := observed s c
  let as := standing s c
  as.any (fun a => !isNear a && placedBefore a b && accBefore ob a b) || fenceBetween ob as false b

/-- A local LS write, or a write of an own-scratchpad output channel. -/
def isNearFx (fx : Fx) : Bool :=
  match fx with | .spWrite _ _ _ _ | .spSwap _ _ _ _ | .spBor _ _ _ | .outSpad _ _ _ _ => true | _ => false

/-- The bits that a local write names: offset and length. -/
def nearRange (fx : Fx) : Nat × Nat :=
  match fx with
  | .spWrite o len _ _ | .spSwap _ o len _ | .spBor o len _ | .outSpad _ o len _ => (o, len)
  | _ => (0, 0)

/-- A write of an output channel that lands again in its place, after a drain write of the same cycle (R191). -/
def landsAgain (x : Core) (d : Due) : Bool :=
  (match d.fx with | .outSpad _ _ _ _ => true | _ => false)
    && x.due.any (fun e => e.at_ == d.at_ && (match e.fx with | .drainOut _ _ _ | .mxRow _ _ => true | _ => false))

/-- A local write performs ahead of its cycle; until that cycle the strand's own reads find the bits that it replaced. -/
def landEarly (s : State) (c : Nat) (d : Due) : State :=
  let (o, len) := nearRange d.fx
  let s := s.onCore c (fun x => { x with early := (d.at_, o, len, spadGet x.spad o len) :: x.early })
  match d.fx with
  | .outSpad _ o len v => spStore s c o len v.toNat
  | fx => landLocal s c d.iss fx

/-- Local writes on their way perform for every observer but the strand itself, for which they perform at their cycles: an access
ordered after them performs now, and while the strand's bundle waits for it no issue cycle passes (R5, R191, R245; log entry
56). -/
def landNear (s : State) (c : Nat) : State :=
  let ds := (s.core c).due.filter (fun d => isNearFx d.fx)
  let s := s.onCore c (fun x => { x with
    due := x.due.map (fun d => if isNearFx d.fx && !landsAgain x d then { d with fx := .landed } else d)
    accs := x.accs.filter (fun a => !isNear a) })
  ds.foldl (fun s d => landEarly s c d) s

/-- Before an access performs, local writes that are ordered before it have performed (R196, R240, R242, R243, R245). -/
def settle (s : State) (c : Nat) (b : Acc) : State :=
  let ob := observed s c
  let as := (s.core c).accs
  if as.any (fun a => isNear a && placedBefore a b && accBefore ob a b) || fenceBetween ob as true b then landNear s c else s

/-- A local LS access of class `cls` that a fence or an acquire holds behind an access that has yet to perform: the LS unit has
no other way to wait than to stall the bundle (R185, R196, R242, R243; log entry 56). -/
def heldLocal (s : State) (c cls : Nat) : Bool :=
  let b := { accBase s c with cls := cls, op := .near 0 }
  let ob := observed s c
  (s.core c).accs.any (fun a => !isNear a && stands a && a.team == b.team && selects a.acq cls && ob a.scope)
    || fenceBetween ob (standing s c) false b

/-! ### Errors of an access -/

/-- The queue that emitted a request tag (R82). -/
def tagQueue (tag : Nat) : Nat := bits tag 47 34

/-- An error of an access, logged with source kind 1 (R220). -/
def logAcc (s : State) (c : Nat) (a : Acc) (code addr : Nat) : State := logErr s code addr a.ctx 1 c 0

/-- The same record also goes to the error area of the launch's queue (R224, R307). -/
def logAccQ (s : State) (c : Nat) (a : Acc) (code addr : Nat) : State :=
  queueErr (logAcc s c a code addr) (tagQueue a.tag) code addr 1 c 0

/-! ### Replies -/

/-- A reply reaches its register; a discarded one fills nothing (R141, R178, R220). -/
def replyTo (x : Core) (a : Acc) (v : Word) : Core :=
  if a.dead then x
  else match a.err with
    | some (code, _) => if code = eEcc then fillG x a.iss a.reg 0 else x.landDup a.iss (fun d => d.poisonG a.reg code)
    | none => fillG x a.iss a.reg v

/-- An access that replies has performed. -/
def deliver (s : State) (c : Nat) (a : Acc) (v : Word) : State := s.onCore c (fun x => replyTo (dropAcc x a.id) a v)

/-- The value that the parts of a load make: each part holds its bits in place. -/
def gathered (a : Acc) : Nat := (a.got.map (fun e => e.2.getD 0)).sum

/-- Released stores of the strand, earlier than `a` and not yet performed, that hold bits of it. -/
def ownSends (x : Core) (a : Acc) : List Nat :=
  (x.accs.filter (fun b => match b.op with
    | .send e => b.team == a.team && e.subs.any (fun u => decide (u.seq < a.pid) && meets (u.lo, u.len) (a.addr, a.len))
    | _ => false)).map (·.id)

/-- A load has replied. While released stores that it may have returned are on their way, it keeps its place, so that they
perform before what a fence or release orders after the load (R242, R243). -/
def loadDone (s : State) (c : Nat) (a : Acc) (v : Word) : State :=
  let ids := ownSends (s.core c) a
  if ids.isEmpty || a.dead then deliver s c a v
  else s.onCore c (fun x => replyTo (putAcc x { a with op := .echo ids, acq := 0 }) a v)

/-- A part of an access has returned; the last one makes the reply (R218). -/
def partDone (s : State) (c : Nat) (a : Acc) (k : Nat) (v : Option Nat) (err : Option (Nat × Nat)) (sx : Bool) : State :=
  let a := { a with got := Tab.put k v a.got, parked := a.parked.filter (· != k), err := a.err.or err }
  if a.got.length < (sectors a.addr a.len).length then s.onCore c (fun x => putAcc x a)
  else loadDone s c a (extend sx (gathered a) a.len)

/-! ### Own stores (R219) -/

def insertSub (u : WSub) : List WSub → List WSub
  | [] => [u]
  | v :: r => if u.seq < v.seq then u :: v :: r else v :: insertSub u r

/-- The strand's stores not yet performed, earlier in program order than `pid`, oldest first. -/
def ownSubs (x : Core) (team pid : Nat) : List WSub :=
  let sent := x.accs.flatMap (fun a => match a.op with | .send e => if a.team == team then e.subs else [] | _ => [])
  let all := x.wb.flatMap (fun e => e.subs) ++ sent
  (all.filter (fun u => decide (u.seq < pid))).foldr insertSub []

/-- Replace the bits of [lo, lo+len) that a store wrote. -/
def overlaySub (lo len v : Nat) (u : WSub) : Nat :=
  let p := max lo u.lo
  let q := min (lo + len) (u.lo + u.len)
  if p < q then putBits v (p - lo) (q - p) (u.v.toNat >>> (p - u.lo)) else v

/-! ### The withholding buffer (R222, R223) -/

def subMeets (u : WSub) (lo len : Nat) : Bool := meets (u.lo, u.len) (lo, len)

/-- Whether a store part merges into entry `e`, given the entries created after it. -/
def merges (e : WEnt) (later : List WEnt) (cls sector lo len : Nat) : Bool :=
  e.cls == cls && e.sector == sector && later.all (fun n => n.cls != cls && n.subs.all (fun u => !subMeets u lo len))

/-- The buffer with a store part merged into the entry that takes it, if there is one. -/
def wbMerge (cls : Nat) (u : WSub) : List WEnt → Option (List WEnt)
  | [] => none
  | e :: r => if merges e r cls (u.lo / 256) u.lo u.len then some ({ e with subs := e.subs ++ [u] } :: r)
    else (wbMerge cls u r).map (e :: ·)

/-- Add the parts of a store: each is judged against the buffer as the store finds it, and those that do not merge make new
entries (R222). -/
def wbAdd (wb : List WEnt) (cls : Nat) (us : List WSub) : List WEnt :=
  (us.filter (fun u => (wbMerge cls u wb).isSome)).foldl (fun w u => (wbMerge cls u w).getD w) wb
    ++ (us.filter (fun u => (wbMerge cls u wb).isNone)).map (fun u => ⟨u.lo / 256, cls, [u], true⟩)

/-- The parts of a store, sector by sector: place, address, width, value, release mask and scope. -/
def storeSubs (seq a w v rel scope : Nat) : List WSub :=
  (sectors a w).map (fun k =>
    let (lo, len) := sectorPart a w k
    ⟨seq, lo, len, BitVec.ofNat 256 (v >>> (lo - a) % 2 ^ len), rel, scope⟩)

/-- Entries that a store of class `cls` needs beyond those it merges into. -/
def wbNeeds (wb : List WEnt) (cls a w : Nat) : Nat :=
  ((storeSubs 0 a w 0 0 0).filter (fun u => (wbMerge cls u wb).isNone)).length

/-- Released entries and device writes that have not been sent. -/
def unsent (x : Core) : Nat :=
  (x.accs.filter (fun a => (match a.op with | .send e => e.last | .dwr => true | _ => false) && !a.sent)).length

/-- Whether `n` more entries fit: none when they do; else the trap when all 256 are withheld, or the stall. -/
def wbRoom (x : Core) (slot n : Nat) : Option Res :=
  if x.wb.length + unsent x + n ≤ 256 then none
  else if unsent x = 0 then some (.trap (trapProg slot 4)) else some .stall

/-- A store enters the buffer, one part for each sector (R222), with its release qualifier (R232). -/
def wbStore (s : State) (c cls rel scope a w v : Nat) : State :=
  s.onCore c (fun x =>
    { x with wb := wbAdd x.wb cls (storeSubs x.nextId a w v rel scope), nextId := x.nextId + 1 })

/-- The place in program order of the first store of an entry. -/
def firstSeq (e : WEnt) : Nat := match e.subs with | u :: _ => u.seq | [] => 0

def insertEnt (e : WEnt) : List WEnt → List WEnt
  | [] => [e]
  | f :: r => if firstSeq e < firstSeq f then e :: f :: r else f :: insertEnt e r

/-- Store `u` of entry `e` performs before store `v` of entry `f`: it is earlier in program order, and they share a class or a bit,
or the release qualifier of `v` selects the class of `u` (R232, R237, R240, R243). -/
def storeBefore (e f : WEnt) (u v : WSub) : Bool :=
  decide (u.seq < v.seq) && (e.cls == f.cls || e.cls == 15 || f.cls == 15 || selects v.rel e.cls || subMeets u v.lo v.len)

/-- No store of the other entries performs before store `v` of entry `f`. -/
def storeFree (others : List WEnt) (f : WEnt) (v : WSub) : Bool :=
  others.all (fun e => e.subs.all (fun u => !storeBefore e f u v))

/-- The first entry, in program order of first stores, that no other has to precede, and the entries that remain. -/
def freeEntry (seen : List WEnt) : List WEnt → Option (WEnt × List WEnt)
  | [] => none
  | e :: r => if e.subs.all (storeFree (seen ++ r) e) then some (e, seen ++ r) else freeEntry (seen ++ [e]) r

/-- The writes that a release sends, in an order that keeps every order of its stores: each entry is one write. Only where two
entries hold stores that must perform before each other's is the first of them cut, and what precedes the cut goes first (R222,
R223, R389). -/
def releaseOrder : Nat → List WEnt → List WEnt
  | 0, es => es
  | n + 1, es =>
    match freeEntry [] es with
    | some (e, rest) => e :: releaseOrder n rest
    | none => match es with
      | [] => []
      | e :: r =>
        let cut := e.subs.takeWhile (storeFree r e)
        { e with subs := cut, last := false } :: releaseOrder n (insertEnt { e with subs := e.subs.drop cut.length } r)

/-- The writes of every withheld entry, in the order in which they are released. -/
def heldWrites (wb : List WEnt) : List WEnt :=
  releaseOrder ((wb.map (fun e => e.subs.length)).sum) (wb.foldl (fun l e => insertEnt e l) [])

/-- The access of a released write (R223). -/
def sendOf (s : State) (c : Nat) (e : WEnt) : Acc :=
  { accBase s c with cls := e.cls, op := .send e, addr := 256 * e.sector, len := 256 }

/-- A checkpoint releases every withheld entry, in the program order of the stores (R223). -/
def releaseStores (s : State) (c : Nat) : State :=
  let es := heldWrites (s.core c).wb
  es.foldl (fun s e => pushAcc s c (sendOf s c e)) (s.onCore c (fun x => { x with wb := [] }))

/-- The bits that an entry writes, as a mask and a value over its sector; later stores win (R222). -/
def entryMask (e : WEnt) : Nat × Nat :=
  (e.subs.foldr insertSub []).foldl (fun mv u =>
    let o := u.lo - 256 * e.sector
    (putBits mv.1 o u.len (2 ^ u.len - 1), putBits mv.2 o u.len u.v.toNat)) (0, 0)

/-- Every byte of the mask is written whole or not at all (R39). -/
def wholeBytes (m : Nat) : Bool := (span 0 32).all (fun b => bits m (8 * b + 7) (8 * b) == 0 || bits m (8 * b + 7) (8 * b) == 255)

/-- Write the masked bits of a sector at physical sector `k` (R39, R40). -/
def storeMasked (s : State) (k mask v : Nat) : State × Bool :=
  if !wholeBytes mask && s.hbmBad.contains k then (s, false)
  else
    let s := backInvalidate s (256 * k)
    let old := hbmBits s.hbm (256 * k) 256
    let new := (span 0 256).foldl (fun x b => if bit mask b then putBits x b 1 (v >>> b) else x) old
    let bad := if mask = 2 ^ 256 - 1 then s.hbmBad.erase k else s.hbmBad
    ({ s with hbm := hbmPut s.hbm (256 * k) 256 new, hbmBad := bad }, true)

/-! ### Performing -/

/-- Part `k` of a load performs: translation, the read, and the strand's own stores over it (R121, R218 to R220). -/
def performLd (s : State) (c : Nat) (a : Acc) (k : Nat) (sx : Bool) : State :=
  match (sectors a.addr a.len)[k]? with
  | none => s
  | some sec =>
    let (lo, len) := sectorPart a.addr a.len sec
    match translate s a.ctx lo gStrand 0 false with
    | (s', .err code) => partDone (logAcc s' c a code lo) c a k none (some (code, lo)) sx
    | (s', .park l) => match takeRefusal s' a.team a.ctx lo with
      | some s' => partDone (logAcc s' c a eUnmapped lo) c a k none (some (eUnmapped, lo)) sx
      | none => match addPark s' a.ctx lo gStrand 0 l (.acc c a.id k) with
        | some s' => s'.onCore c (fun x => putAcc x { a with parked := a.parked ++ [k] })
        | none => s
    | (s', .ok p) =>
      if s'.hbmBad.contains (p / 256) then
        partDone (logAcc s' c a eEcc (256 * sec)) c a k none (some (eEcc, lo)) sx
      else
        let raw := hbmBits s'.hbm p len
        let v := (ownSubs (s'.core c) a.team a.pid).foldl (overlaySub lo len) raw
        partDone s' c a k (some (v <<< (lo - a.addr))) none sx

/-- The new element of an atomic and whether it is written (R225, R227, R229). -/
def atomicNew (idx fmt old a b w : Nat) : Nat × Bool :=
  let so := sext old w
  let sa := sext a w
  let ua := a % 2 ^ w
  match idx with
  | 3 => if old = b % 2 ^ w then (ua, true) else (old, false)
  | 4 => (ua, true)
  | 5 => ((old + ua) % 2 ^ w, true)
  | 6 => (match Fmt.ofCode fmt with | some f => faddCode f old ua | none => old, true)
  | 7 => (if so ≤ sa then old else ua, true)
  | 8 => (if so ≥ sa then old else ua, true)
  | 9 => (if old ≤ ua then old else ua, true)
  | 10 => (if old ≥ ua then old else ua, true)
  | 11 => (old &&& ua, true)
  | 12 => (old ||| ua, true)
  | 13 => (old ^^^ ua, true)
  | _ => if old < ua then (old + 1, true) else (old, false)

/-- An atomic performs as one step at its controller (R225, R226). -/
def performAtomic (s : State) (c : Nat) (a : Acc) (idx fmt : Nat) : State :=
  match translate s a.ctx a.addr gStrand 2 false with
  | (s', .err code) =>
    deliver (logAcc s' c a code a.addr) c { a with err := some (code, a.addr) } 0
  | (s', .park l) => match addPark s' a.ctx a.addr gStrand 2 l (.acc c a.id 0) with
    | some s' => s'.onCore c (fun x => putAcc x { a with parked := [0] })
    | none => s
  | (s', .ok p) =>
    if s'.hbmBad.contains (p / 256) then
      deliver (logAcc s' c a eEcc (a.addr / 256 * 256)) c { a with err := some (eEcc, a.addr) } 0
    else
      let old := hbmBits s'.hbm p a.len
      let (new, wr) := atomicNew idx fmt old a.data.toNat a.cmp.toNat a.len
      let s' := if wr then (storePart s' p a.len new).1 else s'
      deliver s' c a (wordN old)

/-- A released entry performs at its controller as one sector write (R223, R224). Where an `rmw` of several merged stores fails,
the record names the oldest of them (R40; log entry 57). -/
def performSend (s : State) (c : Nat) (a : Acc) (e : WEnt) : State :=
  let (mask, v) := entryMask e
  let lo := match e.subs with | u :: _ => u.lo | [] => a.addr
  let kind := if wholeBytes mask then 1 else 3
  match translate s a.ctx lo gStrand kind false with
  | (s', .err code) => logAccQ (s'.onCore c (fun x => dropAcc x a.id)) c a code lo
  | (s', .park l) => match addPark s' a.ctx lo gStrand kind l (.acc c a.id 0) with
    | some s' => s'.onCore c (fun x => putAcc x { a with parked := [0], sent := true })
    | none => s
  | (s', .ok p) => match storeMasked s' (p / 256) mask v with
    | (s', true) => s'.onCore c (fun x => dropAcc x a.id)
    | (s', false) => logAccQ (s'.onCore c (fun x => dropAcc x a.id)) c a eEcc lo

/-- The masks and values of the 64-bit words of a store of `n` bits at bit `o`, under a mask of its bits (R38, R191). -/
def wordsOf (o n m v : Nat) : List (Nat × Nat) :=
  let sh := o % 64
  (span 0 ((sh + n + 63) / 64)).map (fun k => ((m <<< sh) >>> (64 * k) % 2 ^ 64, (v <<< sh) >>> (64 * k) % 2 ^ 64))

/-- Word `k` of a store that begins at bit `o` performs at the shared port of core `pc`. -/
def storeWord (s : State) (pc o k : Nat) (w : Nat × Nat) : State :=
  let y := s.core pc
  let (m, bad, cleared) := spadMasked y.spad y.spadBad (o / 64 + k) [w]
  logWords (s.setCore pc { y with spad := m, spadBad := bad }) pc cleared

/-- A store of the value `v` to core `pc` performs: an element in one step, anything longer word by word (R193, R238). -/
def performPeerSt (s : State) (c : Nat) (a : Acc) (pc v : Nat) : State :=
  if a.len ≤ 64 then (spStore s pc a.addr a.len v).onCore c (fun x => dropAcc x a.id)
  else
    let ws := wordsOf a.addr a.len (match a.ben with | none => 2 ^ a.len - 1 | some k => stmBits k) v
    let k := a.got.length
    match ws[k]? with
    | none => s.onCore c (fun x => dropAcc x a.id)
    | some w => (storeWord s pc a.addr k w).onCore c (fun x =>
        if k + 1 < ws.length then putAcc x { a with got := Tab.put k none a.got } else dropAcc x a.id)

/-- A peer access performs at the peer's shared port (R193, R196): as elements, or aligned words for a longer store. An
uncorrectable word is logged by the peer's core. -/
def performPeer (s : State) (c : Nat) (a : Acc) : State :=
  let pc := a.peer
  match a.op with
  | .peerLd sx =>
    let (s, v) := spLoad s pc a.addr a.len
    deliver s c a (extend sx v a.len)
  | .peerSt => performPeerSt s c a a.peer a.data.toNat
  | .peerBor =>
    (spRmw s pc a.addr a.len (fun old => old ||| a.data.toNat % 2 ^ a.len)).1.onCore c (fun x => dropAcc x a.id)
  | _ => s

end Sys2Proof.Machine
end

