-- ==== Sys2Proof/Machine/Sync.lean ====
section
/-!
DEFINITION. Notify registers, their capture queue, and hardware barriers (R363 to R368).
-/
namespace Sys2Proof.Machine

/-- Notify register `j` of block `b` is listed under 256 b + j (R363). -/
def notifyOf (s : State) (n : Nat) : Notify := Tab.get Notify.init s.sync.reg n

def setNotify (s : State) (n : Nat) (r : Notify) : State :=
  { s with sync := { s.sync with reg := Tab.set Notify.init n r s.sync.reg } }

/-- The word of a notify register with `w` consumptions taken off its count (R364, R370). -/
def notifyWord (r : Notify) (w : Nat) : Word :=
  let c := r.cnt - w
  wordN ((b2n (decide (0 < c))) <<< 63 + (b2n r.coal) <<< 62 + c <<< 48 + r.word.toNat)

/-- Address of a notify register (R364). -/
def notifyAddr (n : Nat) : Nat := 0xE0000001300000 + 64 * n

/-- A wake of word `x` as one step (R364). -/
def wakeReg (r : Notify) (x : BitVec 48) : Notify :=
  if r.cnt = 16383 then { r with word := x, coal := true } else { r with word := x, cnt := r.cnt + 1 }

/-- A wake arrives: applied at once, or taken by the always-on queue while the aperture is gated or the queue has not
emptied; a full queue sets the register's merge bit (R365). -/
def wakeArrive (s : State) (n : Nat) (x : BitVec 48) : State :=
  if s.sync.gated || !s.sync.capq.isEmpty then
    if s.sync.capq.length < 64 then { s with sync := { s.sync with capq := s.sync.capq ++ [(n, x)] } }
    else { s with sync := { s.sync with merge := if s.sync.merge.contains n then s.sync.merge else s.sync.merge ++ [n] } }
  else setNotify s n (wakeReg (notifyOf s n) x)

/-- Ungating: the queued wakes apply in arrival order, then each merged register takes one further wake (R365). -/
def ungate (s : State) : State :=
  let s1 := s.sync.capq.foldl (fun t e => setNotify t e.1 (wakeReg (notifyOf t e.1) e.2)) s
  let s2 := s.sync.merge.foldl (fun t n =>
    let r := notifyOf t n
    setNotify t n { wakeReg r r.word with coal := true }) s1
  { s2 with sync := { s2.sync with gated := false, capq := [], merge := [] } }

/-- NB_CTX of a block: valid, host writes enabled, context (R366). -/
def nbWord (s : State) (b : Nat) : Word := Tab.get 0 s.sync.nb b

/-- A block that the strand of context `c` may name (R363). -/
def nbOwned (s : State) (b c : Nat) : Bool := flag (nbWord s b) 63 && fld (nbWord s b) 15 0 == c

def barrierOf (s : State) (i : Nat) : Barrier := Tab.get Barrier.init s.sync.bar i

def setBarrier (s : State) (i : Nat) (b : Barrier) : State :=
  { s with sync := { s.sync with bar := Tab.set Barrier.init i b s.sync.bar } }

/-- Word 0 of a barrier (R367). -/
def barrierWord (b : Barrier) : Word := wordN (b.gen <<< 48 + b.need <<< 24 + b.have_)

/-- BAR_CTX names the context (R367, R372). -/
def barOwned (s : State) (i c : Nat) : Bool :=
  let w := Tab.get 0 s.sync.barCtx i
  flag w 63 && fld w 15 0 == c

/-- An arrival of weight `u` (R368): each full need advances the generation. -/
def arriveAt (b : Barrier) (u : Nat) : Barrier :=
  let h := b.have_ + u
  if b.need = 0 then { b with have_ := h }
  else { b with have_ := h % b.need, gen := (b.gen + h / b.need) % 65536 }

/-- The arrival at barrier `i`, and the generation into which it fell. -/
def barrierArriveAt (s : State) (i u : Nat) : State × Nat :=
  let b := barrierOf s i
  (setBarrier s i (arriveAt b u), b.gen)

end Sys2Proof.Machine
end

