-- ==== Sys2Proof/Machine/Remote.lean ====
section
/-!
DEFINITION. Remote requests (R123, R124, R300 to R314): the source's window checks and sends, the target's translation,
parks and answers, and the link queues' flows.
-/
namespace Sys2Proof.Machine

/-! ### The source -/

/-- Window number and offset of a region 8 to 13 address (R123). -/
def winNo (a : Nat) : Nat := bits a 55 40 - 0x8000
def winOff (a : Nat) : Nat := bits a 39 0

/-- What an operation needs of its window. -/
inductive Need
  | rd | wr | at_ | red
  deriving DecidableEq, Repr

def Window.grants (w : Window) : Need → Bool
  | .rd => w.rd
  | .wr => w.wr
  | .at_ => w.at_
  | .red => w.red && w.kind == 0

/-- The source Fuller's checks on a window address: the window and the target address, or the code of its error response
(R110, R123, R319). -/
def windowFor (s : State) (ctx a : Nat) (n : Need) : State × Except Nat (Window × Nat) :=
  match window s ctx (winNo a) with
  | (s, .ok w) =>
    (s, match windowTarget w (winOff a) with
      | some t => if w.grants n then .ok (w, t) else .error eWindow
      | none => .error eWindow)
  | (s, .error e) => (s, .error e)

/-- A request packet to a window's package. A kind 01 window's pin travels in word 4 (log entry 11). -/
def windowPacket (s : State) (w : Window) (target : Nat) : Packet :=
  { blankPacket s with tdom := w.domain, tmem := w.member, tctx := w.tctx, addr := target,
                       x4 := if w.kind == 1 then wordN w.pin else 0 }

/-- What the remote operation of an access needs, and its packet's operation. -/
def remoteKind (a : Acc) : Option (Need × Nat) :=
  match a.op with
  | .rld _ => some (.rd, kLoad)
  | .rst => some (.wr, kStore)
  | .xsig => some (.at_, kAdd)
  | .bar => some (.at_, kBar)
  | .grp op _ _ _ _ _ => if op = kXperm then none else some (.red, op)
  | .connect _ => some (.wr, kConnect)
  | .sout _ _ _ => if decide (8 ≤ region a.addr) && decide (region a.addr ≤ 13) then some (.wr, kStore) else none
  | .sin _ _ => some (.rd, kLoad)
  | _ => none

def isRemote (a : Acc) : Bool := (remoteKind a).isSome

/-- The outbound queue of flow handle `h` is marked failed (R312); a queue that was only draining is dropped. -/
def failFlow (x : Core) (h : Nat) : Core :=
  match x.lq.find? (fun q => q.2.out && q.2.seq == h) with
  | some (n, q) => x.setLq n (if q.drain then LinkQ.init else { q with failed := true })
  | none => x

/-! ### Stream items of a window (R203 to R211) -/

/-- A failed item of an output stream: the channel stops there, its later items are discarded, and the fault is logged; a
channel started again since only logs it (R210). -/
def outFail (s : State) (c : Nat) (a : Acc) (k : Nat) (v : Vec) (code : Nat) : State :=
  let x := s.core c
  let later := fun (b : Acc) => b.team == a.team && (match b.op with | .sout _ j _ => j == k && decide (a.id < b.id) | _ => false)
  let s := dropParks s (fun w => match w with | .acc c' id _ => c' == c && id == a.id | _ => false)
  let s := s.setCore c { dropAcc x a.id with accs := (dropAcc x a.id).accs.filter (fun b => !later b) }
  if x.team = some a.team && decide ((x.chanRun k).place ≤ a.id) then chanFault s c k code v a.addr
  else logErr s code a.addr a.ctx 4 (streamNum c k) 0

/-- An `rmw` of an output item failed: logged, and the channel's ecc bit is set, without a fault (R206). -/
def outEcc (s : State) (c : Nat) (a : Acc) (k lo : Nat) : State :=
  let s := logErr s eEcc lo a.ctx 4 (streamNum c k) 0
  s.onCore c (fun x => if x.team = some a.team then x.setChanRun k { x.chanRun k with ecc := true } else x)

/-- Replace item `i` of a buffer, or add it at the end. -/
def putItem (x : Core) (k i : Nat) (it : Item) : Core :=
  let r := x.chanRun k
  x.setChanRun k { r with items := if i < r.items.length then r.items.set i it else r.items ++ [it] }

/-- The place in its buffer of an item that its channel still waits for. -/
def sentItem (x : Core) (k : Nat) (v : Vec) : Option Nat :=
  (x.chanRun k).items.findIdx? (fun i => i.vec == v && i.st == .sent)

/-- How many items of channel `k` from its position are due: an index item is due when its data item is (R204, R397). -/
def dueCount (x : Core) (k : Nat) : Nat :=
  if isIndex x k then
    (span 0 8).foldl (fun n j =>
      let h := x.dup.chanOf j
      if j != k && h.st == .running && dIx h.desc && dIxch h.desc == k then max n (x.chanRun j).need else n) 0
  else max 1 (x.chanRun k).need

/-- A speculative read is dropped: its item waits for its turn, and the channel's drop bit is set (R204). -/
def dropItemAt (x : Core) (k i : Nat) (v : Vec) (a : Nat) : Core :=
  putItem (x.setChanRun k { x.chanRun k with drop := true }) k i ⟨v, a, .dropped⟩

/-- The same, counted in XL_DROP (R125). -/
def dropRead (s : State) (c k i : Nat) (v : Vec) (a : Nat) : State :=
  { s with xl := { s.xl with drop := s.xl.drop + 1 } }.onCore c (fun x => dropItemAt x k i v a)

/-- A due item has faulted at index `i` of the buffer (R210, R397). -/
def faultAt (s : State) (c k i : Nat) (v : Vec) (code a : Nat) (logIt : Bool) : State :=
  let s := if logIt then chanFault s c k code v a
    else s.onCore c (fun x => x.setChanRun k { x.chanRun k with flt := true, fcode := code, fvec := v })
  let s := dropParks s (fun w => match w with | .sread c' k' v' _ => c' == c && k' == k && v' == v | _ => false)
  s.onCore c (fun x => putItem x k i ⟨v, a, .fault code a⟩)

/-- The item of a window has failed, or its read was dropped at the target (`none`), which has counted it: an item that is due by now
faults where its read was a demand read, and is read again otherwise (R125, R204, R210). -/
def sinFail (s : State) (c : Nat) (a : Acc) (k : Nat) (v : Vec) (code : Option Nat) : State :=
  let s := s.onCore c (fun x => dropAcc x a.id)
  let s := if isSpecAcc a && code.isSome then { s with xl := { s.xl with drop := s.xl.drop + 1 } } else s
  match sentItem (s.core c) k v with
  | none => s
  | some i => match code, isSpecAcc a with
    | some code, false => faultAt s c k i v code a.addr true
    | _, _ => s.onCore c (fun x => dropItemAt x k i v a.addr)

/-- A window's item arrives, zeros when an uncorrectable sector or word was met at the target: the item counts once, and the first of
them is logged (R204, R211). -/
def sinArrive (s : State) (c : Nat) (a : Acc) (k : Nat) (v : Vec) (val : Nat) (ecc : List Nat) : State :=
  let s := s.onCore c (fun x => dropAcc x a.id)
  match sentItem (s.core c) k v with
  | none => s
  | some i =>
    let s := match ecc with | e :: _ => chanEcc s c k e | [] => s
    s.onCore c (fun x => putItem x k i ⟨v, a.addr, .here (BitVec.ofNat 4096 val)⟩)

/-! ### Contribution records (R322) -/

/-- Whether `r` is the record of contribution `a`; the access keeps its target context in `cmp`. -/
def RedRec.isOf (r : RedRec) (a : Acc) : Bool :=
  match a.op with
  | .grp op w4 w5 _ _ _ => op == kContrib && r.team == a.team && a.peer == 1 + r.home && r.ctx == fld a.cmp 31 16
      && r.grp == w4.toNat && r.rank == w5.toNat
  | _ => false

/-- The record after one of its contributions has been answered; none when its generations have ended. -/
def RedRec.answered (r : RedRec) : Option RedRec :=
  if r.pend ≠ 1 then some { r with pend := r.pend - 1 }
  else some { r with pend := 0, seen := [] }

/-- The home has taken a contribution into generation `gen`; a notice of that generation may have come before. -/
def RedRec.taken (r : RedRec) (gen : Nat) (ret : Nat × Nat) : Option RedRec :=
  let done := r.seen.contains gen
  if done && r.pend == 1 && r.gen == 0 then none
  else RedRec.answered { r with gen := if done then r.gen else gen, ret := some ret }

/-- A completion notice of generation `gen` frees the record unless a contribution to another one remains. -/
def RedRec.noticed (r : RedRec) (gen : Nat) : Option RedRec :=
  if r.pend = 0 then (if r.gen = gen || r.gen = 0 then none else some r)
  else some { r with gen := if r.gen = gen then 0 else r.gen, seen := gen :: r.seen }

/-- Change the record of contribution `a`. -/
def editContrib (s : State) (a : Acc) (f : RedRec → Option RedRec) : State :=
  { s with fe := { s.fe with contribs := s.fe.contribs.filterMap (fun r => if r.isOf a then f r else some r) } }

/-- A remote request has failed: an rld is poisoned with its cause, a connect fails its queue, an item of a stream ends as R204,
R206 and R210 say, everything else is logged (R305, R307, R312). `far` marks an answer of the target. -/
def failRemote (s : State) (c : Nat) (a : Acc) (code : Nat) (far : Bool) : State :=
  match a.op with
  | .rld _ => deliver (logAcc s c a code a.addr) c { a with err := some (code, a.addr) } 0
  | .connect h => (logAccQ s c a code a.addr).onCore c (fun x => failFlow (dropAcc x a.id) h)
  | .sout _ k v => if far && code == eEcc then (outEcc s c a k a.addr).onCore c (fun x => dropAcc x a.id) else outFail s c a k v code
  | .sin k v => sinFail s c a k v (some code)
  | _ => logAccQ (editContrib (s.onCore c (fun x => dropAcc x a.id)) a RedRec.answered) c a code a.addr

/-- Number of a target package, as the source keeps it with a sent access. -/
def pkgNo (dom mem : Nat) : Nat := 1 + mem + 2048 * dom

/-- The stream channel of an access, one more than its number, or 0 (R302). -/
def accChan (a : Acc) : Nat := match a.op with | .sout _ k _ => k + 1 | .sin k _ => k + 1 | _ => 0

/-- A store of an mcast, which every later access waits for (R308). -/
def isMcast (a : Acc) : Bool := (match a.op with | .rst => true | _ => false) && a.reg == 1

/-- `b`, bound for package `pkg`, may follow `a` without waiting: both are in one sequence of R302. No access streams behind one of
class 15 or behind a mcast (R302, R308). -/
def streamsAhead (a b : Acc) (pkg : Nat) : Bool :=
  isRemote a && a.sent && a.cls == b.cls && a.cls != 15 && a.peer == pkg && accChan a == accChan b && !isMcast a

/-- An earlier access holds a remote one back unless it streams ahead of it (R302). -/
def remoteBlocked (s : State) (c : Nat) (b : Acc) (pkg : Nat) : Bool :=
  let ob := observed s c
  let as := standing s c
  as.any (fun a => !isNear a && placedBefore a b && accBefore ob a b && !streamsAhead a b pkg) || fenceBetween ob as false b

/-- The flow handle as connects and credits carry it in word 7 (log entry 11). -/
def flowWord (h : Nat) : Word := wordN (2 ^ 32 + h % 2 ^ 32)

/-- The flow handle of a packet, if it carries one. -/
def flowHandle (p : Packet) : Option Nat := if flag p.x7 32 then some (fld p.x7 31 0) else none

/-- The sender that a connect names above its flow handle: the queue, the strand's core in its team, and the team (R312; log entry
11). -/
def senderWord (x : Core) (a : Acc) (h : Nat) : Word :=
  let n := ((x.lq.find? (fun q => q.2.out && q.2.seq == h)).map (·.1)).getD 0
  flowWord h ||| wordN ((n % 8 + 8 * (x.tcore % 2 ^ 8) + 2 ^ 11 * (a.team % 2 ^ 20)) * 2 ^ 33)

/-- The request of a remote access, through window `w` to address `target`. A stream's request carries its channel, and a
speculative one its mark, in word 6 (log entry 11). A field that the operation does not use is zero: only loads, stores and adds
have an element's length, and a connect neither a qualifier nor a scope (R300). -/
def remotePacket (s : State) (c : Nat) (a : Acc) (op : Nat) (w : Window) (target : Nat) : Packet :=
  let p := { windowPacket s w target with
    tier := fld a.cmp 1 0, op := op, cls := a.cls, score := c, tag := a.id % 2 ^ 19,
    len := if [kLoad, kStore, kAdd].contains op || decide (64 < a.len) then a.len else 1,
    data := BitVec.ofNat 64 a.data.toNat, qual := if op = kConnect then 0 else fld a.cmp 3 2,
    scope := if op = kConnect then 0 else fld a.cmp 6 4,
    x6 := wordN ((accChan a) <<< 57 + (if isSpecAcc a then 2 ^ 62 else 0)) }
  match a.op with
  | .grp _ w4 w5 w6 w7 body => { p with x4 := w4, x5 := w5, x6 := w6, x7 := w7, body := body }
  | .connect h => { p with x7 := senderWord (s.core c) a h }
  | .sout body _ _ => { p with body := if 64 < a.len then body else 0, data := BitVec.ofNat 64 body.toNat }
  | _ => p

/-- A request has been sent to package `pkg`. -/
def markSent (s : State) (c : Nat) (a : Acc) (pkg : Nat) : State :=
  s.onCore c (fun x => putAcc x { a with sent := true, sentAt := s.fe.time.toNat, peer := pkg })

/-! A shared packet of an mcast names its further stores in the body, 128 bits each: the address and above it the tag (R308; log
entry 11). Word 5 counts them. -/

/-- The other stores of an mcast that can share its packet: the same package and target context, 32 at most. -/
def mcastMates (s : State) (c : Nat) (a : Acc) (w : Window) : List (Acc × Nat) :=
  if !isMcast a then []
  else
    (((s.core c).accs.filter (fun b => isMcast b && b.pid == a.pid && b.id != a.id && !b.sent)).filterMap (fun b =>
      match (windowFor s b.ctx b.addr .wr).2 with
      | .ok (v, t) => if v.domain == w.domain && v.member == w.member && v.tctx == w.tctx && v.kind == 0 && w.kind == 0
          then some (b, t) else none
      | .error _ => none)).take 32

/-- The packet with the stores that share it. -/
def withMates (p : Packet) (l : List (Acc × Nat)) : Packet :=
  { p with x5 := wordN l.length, flits := ceilDiv (128 * l.length) 512,
           body := BitVec.ofNat 4096 (packList 128 (l.map (fun e => e.1.id % 2 ^ 19 * 2 ^ 64 + e.2))) }

/-- The stores that a packet holds, one request each (R308). -/
def splitMates (p : Packet) : List Packet :=
  if p.op = kStore && !p.nc && decide (p.len ≤ 64) && p.x5 != 0 then
    { p with x5 := 0, body := 0, flits := 0 } :: (span 0 (min p.x5.toNat 32)).map (fun k =>
      let e := p.body.toNat >>> (128 * k)
      { p with x5 := 0, body := 0, flits := 0, addr := e % 2 ^ 57, tag := e >>> 64 % 2 ^ 19 })
  else [p]

/-- Send the request of a remote access, once its order allows and its operand is there (R302, R305 to R310, R321). -/
def sendRemote (s : State) (c : Nat) (a : Acc) : State :=
  match remoteKind a with
  | none => s
  | some (need, op) =>
    if a.sent || a.parked.length ≠ 0 then s
    else match windowFor s a.ctx a.addr need with
      | (s', .error code) => if blocked s c a then s else failRemote (settle s' c a) c a code false
      | (s', .ok (w, target)) =>
        let pkg := pkgNo w.domain w.member
        if remoteBlocked s c a pkg then s
        else if !fabOn s then failRemote s' c a eNoroute false
        else
          let s' := settle s' c a
          let mates := mcastMates s' c a w
          let p := remotePacket s' c a op w target
          let s' := sendPacket s' (if mates.isEmpty then p else withMates p mates)
          mates.foldl (fun s e => markSent s c e.1 pkg) (markSent s' c a pkg)

/-- The remote access that an answer's tag names. -/
def taggedAcc (x : Core) (tag : Nat) : Option Acc :=
  x.accs.find? (fun a => isRemote a && a.sent && a.id % 2 ^ 19 == tag)

/-- The connect of flow handle `h`. -/
def connectOf (x : Core) (h : Nat) : Option Acc :=
  x.accs.find? (fun a => a.sent && (match a.op with | .connect k => k % 2 ^ 32 == h | _ => false))

/-- A request unanswered for FAB_CTL.tmo µs without a park notice (R301). -/
def timedOut (s : State) (a : Acc) : Bool :=
  a.sent && !a.held && decide (1000 * fabTmo s ≤ s.fe.time.toNat - a.sentAt)

/-! ### Speculative reads of memory and windows (R125, R199, R230) -/

/-- A speculative read of a list of sector parts; each that is dropped counts. -/
def specParts (s : State) (ctx g a n : Nat) : List Nat → State
  | [] => s
  | k :: ks =>
    match translate s ctx (sectorPart a n k).1 g 0 true with
    | (s, .ok _) => specParts s ctx g a n ks
    | (s, _) => specParts { s with xl := { s.xl with drop := s.xl.drop + 1 } } ctx g a n ks

/-- The pieces of a speculative read of a window, each of at most 4,096 bits. DESIGN CHOICE (log entry 77): each piece that is dropped counts
in XL_DROP; R125 does not say whether a scout of several pieces counts once or once for each. -/
def specPieces (a n : Nat) : List (Nat × Nat) :=
  (span 0 (ceilDiv n 4096)).map (fun k => (a + 4096 * k, min 4096 (n - 4096 * k)))

/-- One of them goes to the target, where it stays speculative; a failed window check drops it. -/
def specWindow (s : State) (ctx cls : Nat) (x : Nat × Nat) : State :=
  match windowFor s ctx x.1 .rd with
  | (s, .error _) => { s with xl := { s.xl with drop := s.xl.drop + 1 } }
  | (s, .ok (w, t)) =>
    if !fabOn s then { s with xl := { s.xl with drop := s.xl.drop + 1 } }
    else sendFuller s .spec (some (ctx, winNo x.1)) { windowPacket s w t with tier := 1, op := kLoad, cls := cls, len := x.2, x6 := specWord }

/-- A prefetch or scout makes its speculative reads (R199, R230). -/
def performPref (s : State) (c : Nat) (a : Acc) : State :=
  let s := s.onCore c (fun x => dropAcc x a.id)
  if region a.addr ≤ 7 then specParts s a.ctx gStrand a.addr a.len (sectors a.addr a.len)
  else (specPieces a.addr a.len).foldl (fun s x => specWindow s a.ctx a.cls x) s

/-! ### The target -/

/-- The part of a pinned partition that a kind 01 request names (R124): the core and offset, a wait while the pin moves,
or code window; so for a request that begins inside the banks and runs past their end (log entry 60). -/
inductive PinAt
  | here (core o : Nat)
  | moving
  | bad
  deriving DecidableEq, Repr

def pinAt (s : State) (p : Packet) (len : Nat) : PinAt :=
  let h := p.x4.toNat
  let pn := s.pin h
  if bits p.addr 39 24 ≠ 0 || !s.hasPin h || pn.ctx ≠ p.tctx then .bad
  else if pn.st = 1 then .moving
  else
    let o := bits p.addr 21 0
    if pn.count * bankBits < o + len then .bad
    else .here (4 * pn.home + bits p.addr 23 22) (pn.first * bankBits + o)

/-- A kind 01 request carries an offset of region 0; memory windows reach regions 1 to 7 (R123). -/
def isPinReq (p : Packet) : Bool := region p.addr == 0

/-- Operations of memory (R300). -/
def isMemOp (op : Nat) : Bool := op == kLoad || op == kStore || op == kAdd || op == kXperm

/-- What is wrong with a request before any effect: a malformed pointer (R33), a misaligned element or row of a core (R37), or an
add outside the limits of R42. -/
def requestFault (p : Packet) : Option Nat :=
  if 2 ^ 56 ≤ p.addr then some eMalformed
  else if p.op = kAdd then (if arithLimits p.addr p.len then none else some eWidth)
  else if p.nc then none
  else if decide (p.len ≤ 64) && !alignedW p.addr p.len then some eAlignment
  else if decide (64 < p.len) && p.addr % 64 != 0 then some eAlignment
  else none

/-- The parts in which a request performs, in any order: an element or the words of a longer access in scratchpad, the sector
parts of memory (R38, R39, R41, R238). -/
def requestUnits (p : Packet) : List Nat :=
  if p.op = kAdd then [0]
  else if isPinReq p then (if p.len ≤ 64 then [0] else span 0 ((p.addr % 64 + p.len + 63) / 64))
  else sectors p.addr p.len

/-- How a part of a request ends: performed, with its bits in place or none for an uncorrectable sector or word; parked; waiting;
failed; or dropped as speculative. -/
inductive TRes
  | ok (v : Option Nat)
  | park (lo lvl kind : Nat)
  | wait
  | err (code a : Nat)
  | drop
  deriving DecidableEq, Repr

/-- The bits of a store. -/
def storeBits (p : Packet) : Nat := if p.len ≤ 64 then p.data.toNat else p.body.toNat

/-- A failure of a part, or its drop. -/
def partErr (p : Packet) (code a : Nat) : TRes := if isSpec p then .drop else .err code a

/-- Part `k` of a request on a pinned partition (R124, R305, R307, R309). An uncorrectable word is logged here, or for a stream item
and an engine by the package that asked (R211). -/
def pinUnit (s : State) (p : Packet) (k : Nat) : State × TRes :=
  match pinAt s p p.len with
  | .bad => (s, partErr p eWindow p.addr)
  | .moving => (s, .wait)
  | .here c o =>
    let x := s.core c
    if p.op = kLoad then
      let lo := if p.len ≤ 64 then o else max o (64 * (o / 64 + k))
      let n := if p.len ≤ 64 then p.len else min (o + p.len) (64 * (o / 64 + k + 1)) - lo
      (if p.nc || chanField p ≠ 0 then s else logWords s c (spadErrs x.spadBad lo n),
        .ok (if (spadErrs x.spadBad lo n).isEmpty then some (spadGet x.spad lo n <<< (lo - o)) else none))
    else if p.op = kAdd then ((spRmw s c o p.len (fun old => (old + p.data.toNat) % 2 ^ p.len)).1, .ok (some 0))
    else if p.len ≤ 64 then (spStore s c o p.len (storeBits p), .ok (some 0))
    else match (wordsOf o p.len (2 ^ p.len - 1) (storeBits p))[k]? with
      | some w => (storeWord s c o k w, .ok (some 0))
      | none => (s, .ok (some 0))

/-- Sector part `k` of a load as group 3 (R305), speculative if it is marked so (R125). -/
def loadUnit (s : State) (p : Packet) (k : Nat) : State × TRes :=
  let (lo, n) := sectorPart p.addr p.len k
  match (devShape p.addr p.len).elim (translate s p.tctx lo gRemote 0 (isSpec p)) (fun code => (s, .err code)) with
  | (s, .err code) => (s, partErr p code lo)
  | (s, .park l) => (s, if isSpec p then .drop else .park lo l 0)
  | (s, .ok q) => (s, .ok (if s.hbmBad.contains (q / 256) then none else some (hbmBits s.hbm q n <<< (lo - p.addr))))

/-- Sector part `k` of a store (R307): each element by R39. -/
def storeUnit (s : State) (p : Packet) (k : Nat) : State × TRes :=
  let (lo, n) := sectorPart p.addr p.len k
  match (devShape p.addr p.len).elim (translate s p.tctx lo gRemote (storeKind lo n) false) (fun code => (s, .err code)) with
  | (s, .err code) => (s, .err code lo)
  | (s, .park l) => (s, .park lo l (storeKind lo n))
  | (s, .ok q) => match storePart s q n (storeBits p >>> (lo - p.addr) % 2 ^ n) with
    | (s, true) => (s, .ok (some 0))
    | (s, false) => (s, .err eEcc lo)

/-- The signal increment at the target, as one atomic step (R309). -/
def addUnit (s : State) (p : Packet) : State × TRes :=
  match translate s p.tctx p.addr gRemote 2 false with
  | (s, .err code) => (s, .err code p.addr)
  | (s, .park l) => (s, .park p.addr l 2)
  | (s, .ok q) =>
    if s.hbmBad.contains (q / 256) then (s, .err eEcc p.addr)
    else ((storePart s q p.len ((hbmBits s.hbm q p.len + p.data.toNat) % 2 ^ p.len)).1, .ok (some 0))

/-- One part of a request. -/
def requestUnit (s : State) (p : Packet) (k : Nat) : State × TRes :=
  if isPinReq p then pinUnit s p k
  else if p.op = kLoad then loadUnit s p k
  else if p.op = kAdd then addUnit s p
  else storeUnit s p k

/-- Bits of a permutation collective arrive under a context and key (R328). -/
def countBits (s : State) (ctx key n : Nat) : State :=
  let old := ((s.ful.arrived.find? (fun e => e.1 == ctx && e.2.1 == key)).map (·.2.2)).getD 0
  { s with ful := { s.ful with
      arrived := (ctx, key, old + n) :: s.ful.arrived.filter (fun e => !(e.1 == ctx && e.2.1 == key)) } }

def putRemote (s : State) (rid : Nat) (r : RemoteReq) : State :=
  { s with fab := { s.fab with remote := Tab.put rid r s.fab.remote } }

/-- A request has left the target's list. -/
def endRemote (s : State) (rid : Nat) : State := { s with fab := { s.fab with remote := Tab.drop rid s.fab.remote } }

/-- Where a part of a request of the target's scratchpad begins: its first word, from the request's address on. -/
def wordAddr (p : Packet) (k : Nat) : Nat := p.addr / 64 * 64 + 64 * k

/-- The uncorrectable parts of a load, in ascending addresses: its sectors, or the words of a pinned partition. -/
def badParts (r : RemoteReq) : List Nat :=
  (requestUnits r.pkt).filterMap (fun k => if r.got.any (fun e => e.1 == k && e.2.isNone)
    then some (if isPinReq r.pkt then wordAddr r.pkt k else 256 * k) else none)

/-- Every part of a request has performed or failed: its answer (R301, R305, R307). A load with an uncorrectable sector answers
zeros, an engine's load zeros for that sector alone; the sector is logged here, or for a stream item and an engine, whose reply is
marked, by the package that asked (R89, R92, R211, R305; log entry 11). -/
def answerRequest (s : State) (rid : Nat) (r : RemoteReq) : State :=
  let p := r.pkt
  let s := endRemote s rid
  match r.err with
  | some (code, a) => answerErr s p code a
  | none =>
    if p.op = kLoad then
      let bads := badParts r
      let u := if isPinReq p then 64 else 256
      if bads.isEmpty then answerLoad s p ((r.got.map (fun e => e.2.getD 0)).sum)
      else if p.nc then answerBads s p ((r.got.map (fun e => e.2.getD 0)).sum) u bads
      else if chanField p ≠ 0 then answerBads s p 0 u bads
      else answerLoad (if isPinReq p then s else bads.foldl (fun s a => logFabric s eEcc a p.tctx) s) p 0
    else
      let s := if p.op = kXperm then countBits s p.tctx p.x4.toNat p.len else s
      answer s p kAck 0

/-- Parts of a request that have neither performed nor parked. -/
def openUnits (r : RemoteReq) : List Nat :=
  (requestUnits r.pkt).filter (fun k => !r.got.any (fun e => e.1 == k) && !r.parked.contains k)

/-- Part `k` has ended. -/
def unitEnd (r : RemoteReq) (k : Nat) (v : Option Nat) (err : Option (Nat × Nat)) : RemoteReq :=
  { r with got := Tab.put k v r.got, parked := r.parked.filter (· != k), err := r.err.or err }

/-- Part `k` of a request parks; the first park sends the notice (R118, R301). None where the MTU has no slot. -/
def parkUnit (s : State) (rid : Nat) (r : RemoteReq) (k lo lvl kind : Nat) : Option (State × RemoteReq) :=
  (addPark s r.pkt.tctx lo gRemote kind lvl (.remote rid k)).map (fun s =>
    let r' := { r with parked := r.parked ++ [k], noticed := true }
    (if r.noticed then putRemote s rid r' else answer (putRemote s rid r') r.pkt kPark 0, r'))

/-- Work on an arrived request, part by part in any order. A free choice may leave further parts to a later step, so that other
accesses can perform between them (R238). DESIGN CHOICE (log entry 77): a speculative read that is dropped here counts in this package's
XL_DROP; R125 does not say which package counts it. -/
def remoteRun (s : State) (rid : Nat) (r : RemoteReq) : Nat → State
  | 0 => s
  | n + 1 =>
    match choose s (openUnits r) with
    | (s, none) => if r.parked.isEmpty then answerRequest s rid r else s
    | (s, some k) =>
      let go := fun (s : State) (r : RemoteReq) =>
        let s := putRemote s rid r
        if (openUnits r).isEmpty then remoteRun s rid r n
        else
          let (s, d) := draw s
          if Config.pick d % 2 = 1 then s else remoteRun s rid r n
      match requestUnit s r.pkt k with
      | (s', .ok v) => go s' (unitEnd r k v none)
      | (s', .err code a) => go s' (unitEnd r k (some 0) (some (code, a)))
      | (s', .drop) =>
        answerDrop (endRemote { s' with xl := { s'.xl with drop := s'.xl.drop + 1 } } rid) r.pkt
      | (_, .wait) => s
      | (s', .park lo l kind) => match parkUnit s' rid r k lo l kind with
        | some (s', r') => go s' r'
        | none => s

/-- Work on request `rid` unless an earlier one of its sequence is still here (R302); the stores of one packet are not ordered
among themselves (R308). -/
def remoteStep (s : State) (rid : Nat) : State :=
  match s.fab.remote.find? (fun e => e.1 == rid) with
  | none => s
  | some (_, r) =>
    if s.fab.remote.any (fun e => decide (e.1 < rid) && inKey e.2.pkt == inKey r.pkt && e.2.pkt.seq != r.pkt.seq) then s
    else match requestFault r.pkt with
      | some code =>
        if isSpec r.pkt then answerDrop { endRemote s rid with xl := { s.xl with drop := s.xl.drop + 1 } } r.pkt
        else answerErr (endRemote s rid) r.pkt code r.pkt.addr
      | none => remoteRun s rid r ((requestUnits r.pkt).length + 1)

/-- Work on every request that waits, oldest first. -/
def remoteKick (s : State) : State := (s.fab.remote.map (·.1)).foldl remoteStep s

/-- A request of memory arrives at its target. -/
def remoteArrive (s : State) (p : Packet) : State :=
  remoteKick ((splitMates p).foldl (fun s p =>
    let rid := s.fab.nextRid
    { s with fab := { s.fab with remote := Tab.put rid { RemoteReq.init with pkt := p } s.fab.remote, nextRid := rid + 1 } }) s)

/-- A parked part walks again, or is refused (R120). -/
def remoteResume (s : State) (rid k : Nat) (refused : Option Nat) : State :=
  match s.fab.remote.find? (fun e => e.1 == rid) with
  | none => s
  | some (_, r) =>
    let r := { r with parked := r.parked.filter (· != k) }
    match refused with
    | some a => remoteKick (putRemote s rid (unitEnd r k (some 0) (some (eUnmapped, a))))
    | none => match requestUnit s r.pkt k with
      | (s', .ok v) => remoteKick (putRemote s' rid (unitEnd r k v none))
      | (s', .err code a) => remoteKick (putRemote s' rid (unitEnd r k (some 0) (some (code, a))))
      | (s', .park lo l kind) => (match parkUnit s' rid r k lo l kind with
        | some (s', _) => s'
        | none => putRemote s rid r)
      | (_, .wait) | (_, .drop) => putRemote s rid r

/-! ### Flows (R311 to R314) -/

/-- Row length of a code (R312). -/
def rowLen (code : Nat) : Nat := match code with | 0 => 256 | 1 => 512 | 2 => 1024 | 3 => 3072 | _ => 4096

def findKey (s : State) (ctx key : Nat) : Option FlowKey := s.fab.keys.find? (fun k => k.ctx == ctx && k.key == key)

def putKey (s : State) (k : FlowKey) : State :=
  { s with fab := { s.fab with keys := k :: s.fab.keys.filter (fun e => !(e.ctx == k.ctx && e.key == k.key)) } }

def dropKey (s : State) (ctx key : Nat) : State :=
  { s with fab := { s.fab with keys := s.fab.keys.filter (fun e => !(e.ctx == ctx && e.key == key)) } }

/-- A key entry with no queue of this package (R312: connects may wait for it). -/
def unboundLq : Nat := 8

/-- Credits to a sender (R311): `n` of them, named by its flow handle. -/
def sendCredits (s : State) (dom mem handle n : Nat) : State :=
  sendPacket s { blankPacket s with tier := 0, resp := true, op := kCredit, tdom := dom, tmem := mem, nc := true,
                                    x7 := flowWord handle, data := wordN n }

/-- A connect to a key that is bound: the sender that holds it, or the first, gets 16 credits; another one is refused (R312). -/
def connectKey (s : State) (p : Packet) : State :=
  match findKey s p.tctx (p.data.toNat % 2 ^ 32) with
  | none => s
  | some k =>
    let who := (p.sdom, p.smem, fld p.x7 63 33)
    let h := (flowHandle p).getD 0
    match k.sender with
    | some (dom, mem, w, _) =>
      if (dom, mem, w) = who then sendCredits (putKey s { k with sender := some (dom, mem, w, h) }) p.sdom p.smem h 16
      else answerErr s p eFlow p.addr
    | none => sendCredits (putKey s { k with sender := some (who.1, who.2.1, who.2.2, h) }) p.sdom p.smem h 16

/-- Register a key for a queue, and answer the connects that waited (R312). -/
def registerKey (s : State) (ctx key team tcore lq : Nat) : State :=
  let waiting := match findKey s ctx key with | some k => k.waiting | none => []
  match waiting with
  | [] => putKey s ⟨ctx, key, team, tcore, lq, none, []⟩
  | p :: ps => ps.foldl connectKey (connectKey (putKey s ⟨ctx, key, team, tcore, lq, none, []⟩) p)

/-- A row of an inbound queue is freed by a checkpoint: its sender gets a credit back (R260, R311). -/
def creditBack (s : State) (ctx key n : Nat) : State :=
  match findKey s ctx key with
  | some k => (match k.sender with
    | some (dom, mem, _, h) => (List.replicate n ()).foldl (fun s _ => sendCredits s dom mem h 1) s
    | none => s)
  | none => s

/-- Queue `n` of core `c` is unbound (R313): an inbound queue gives up its key and rows; an outbound one keeps its
released rows until they are sent. -/
def lqFreeNow (s : State) (c n : Nat) : State :=
  let q := (s.core c).lqOf n
  if !q.bound then s
  else if q.out then
    let rows := q.rows.filter (·.rel)
    s.onCore c (fun x => x.setLq n (if rows.isEmpty then LinkQ.init else { q with bound := false, drain := true, rows := rows, resv := 0 }))
  else (dropKey s (ctxOf s c) q.key).onCore c (fun x => x.setLq n LinkQ.init)

/-- A binding takes effect at t+3 (R312). -/
def lqBindNow (s : State) (c n : Nat) (dir : Bool) (rlen key omask wn : Nat) : State :=
  let q0 := (s.core c).lqOf n
  if dir then
    let (s, w) := window s (ctxOf s c) wn
    let (dom, mem, tctx) := match w with | .ok w => (w.domain, w.member, w.tctx) | .error _ => (0, 0, 0)
    let s := { s with fab := { s.fab with flows := (q0.seq, dom, mem, tctx) :: s.fab.flows.filter (fun e => e.1 != q0.seq) } }
    s.onCore c (fun x => x.setLq n { LinkQ.init with bound := true, out := true, rlen := rlen, key := key,
                                                     omask := omask, tdom := dom, tmem := mem, tctx := tctx,
                                                     seq := q0.seq, credits := q0.credits, failed := q0.failed })
  else
    s.onCore c (fun x => x.setLq n { LinkQ.init with bound := true, out := false, rlen := rlen, key := key, rows := q0.rows })

/-- At the end of a team on core `c`, released rows that wait for credits leave the strand's queue numbers (R313,
R314). Queue `n` of flow handle `h` goes on under number 8 (h + 1) + n. -/
def orphanQueues (x : Core) : Core :=
  (span 0 8).foldl (fun x n =>
    let q := x.lqOf n
    if q.drain then (x.setLq n LinkQ.init).setLq (8 * (q.seq + 1) + n) q else x.setLq n LinkQ.init) x

/-- The outbound queue of flow handle `h`: core and number. -/
def handleQueue (s : State) (h : Nat) : Option (Nat × Nat) :=
  s.cores.findSome? (fun e => (e.2.lq.find? (fun q => q.2.out && q.2.seq % 2 ^ 32 == h)).map (fun q => (e.1, q.1)))

/-- Whether a remote store of a class in `mask`, released at or before the row's checkpoint, has yet to perform (R311); a store of
the checkpoint's own bundle is one of them (R239, R307). -/
def omaskWaits (x : Core) (mask cyc : Nat) : Bool :=
  x.accs.any (fun a => (match a.op with | .rst => true | _ => false) && decide (a.iss ≤ cyc) && selects mask a.cls)

/-- Send the oldest released row of a queue that holds a credit (R311). -/
def lqSend (s : State) (c n : Nat) : State :=
  let x := s.core c
  let q := x.lqOf n
  match q.rows with
  | [] => s
  | r :: rest =>
    if !fabOn s || !q.out || q.failed || !r.rel || q.credits = 0 || omaskWaits x q.omask r.place then s
    else
      let q' := { q with rows := rest, credits := q.credits - 1 }
      let q' := if q.drain && rest.isEmpty then LinkQ.init else q'
      let s := s.setCore c (x.setLq n q')
      sendPacket s { blankPacket s with tier := 1, op := kLink, tdom := q.tdom, tmem := q.tmem, tctx := q.tctx, nc := true,
                                        len := rowLen q.rlen, data := wordN q.key, x6 := wordN ((q.seq % 8 + 8) <<< 57), body := r.v }

end Sys2Proof.Machine
end

