-- ==== Sys2Proof/Machine/Land.lean ====
section
/-!
DEFINITION. Effects reaching their issue cycle (R160, R191): one operation lands any effect, one advances a core by an
issue cycle, one drains a core (R351).
-/
namespace Sys2Proof.Machine

/-- System register `i` (R375). -/
def srValue (x : Core) (i : Nat) : Word :=
  match i with
  | 0 => wordN ((b2n x.cdRun) <<< 24 + x.cdown)
  | 1 => wordN x.cdload
  | 2 => wordN x.park
  | _ => wordN x.tcount

/-- Write system register `i`: reserved bits are ignored (R9), a value outside a field's range changes nothing (R375). -/
def srPut (x : Core) (i : Nat) (v : Word) : Core :=
  match i with
  | 1 => if 256 ≤ fld v 23 0 then { x with cdload := fld v 23 0 } else x
  | 2 => { x with park := fld v 47 0 }
  | 3 => { x with tcount := fld v 31 0 }
  | _ => x

/-- Withheld consumptions of notify register `n` by the core's strand, those released and not yet performed among them
(R370, R371). -/
def withheld (x : Core) (n : Nat) : Nat :=
  ((x.consume.find? (fun e => e.1 == n)).map (·.2)).getD 0
    + ((x.accs.filter (fun a => some a.team == x.team && a.op == .consume && a.addr == n)).map (·.len)).sum

/-- A segment copy starts (R184). -/
def startCopy (x : Core) (k : Nat) : Core := x.setHalf (k % 2) ⟨some k, false, true, false⟩

/-- An rld whose reply has not come when the core issues its cycle t+D poisons its register (R305). Its reply is discarded, and
counts as outstanding until it comes (R302). -/
def deadlinePoison (x : Core) (id : Nat) : Core :=
  match findAcc x id with
  | none => x
  | some a => if a.dead then x else (putAcc x { a with dead := true }).landDup a.iss (fun d => d.poisonG a.reg 0)

/-- The row of an rred is read (R321). -/
def rredRow (s : State) (c o len id : Nat) : State :=
  let (s, v) := ownLoad s c o len
  s.onCore c (fun x => match findAcc x id with
    | some a => (match a.op with
      | .grp op w4 w5 w6 w7 _ => putAcc x { a with op := .grp op w4 w5 w6 w7 (BitVec.ofNat 4096 v), parked := [] }
      | _ => x)
    | none => x)

/-! ### Descriptors of XP commands (R334, R338) -/

/-- A pointer of a descriptor: class kept, address in regions 1 to 7 and a multiple of `n`. -/
def ptrIn (p : Word) (n : Nat) : Bool :=
  !ptrMal p && decide (1 ≤ region (ptrAddr p)) && decide (region (ptrAddr p) ≤ 7) && ptrAddr p % n == 0

/-- Logit widths (R334). -/
def logitWidth (f : Nat) : Nat := if f = 0 then 32 else 16

/-- A topk descriptor has no reserved, out of range or misplaced field (R334). -/
def topkLegal (w : List Word) : Bool :=
  match w with
  | [w0, w1, w2, w3, w4, w5, w6, w7] =>
    let dir := fld w0 63 62
    let sel := fld w0 47 32 + 1
    let e := fld w0 31 16 + 1
    let er := fld w0 15 0 + 1
    decide (dir ≤ 1) && decide (fld w0 61 57 ≤ 2) && fld w0 56 48 == 0 && decide (er ≤ e)
      && (dir != 0 || (decide (sel ≤ 16) && decide (sel ≤ er)))
      && ptrIn w1 64 && decide (1 ≤ fld w2 63 40) && fld w2 39 0 % 64 == 0
      && decide (e * logitWidth (fld w0 61 57) ≤ fld w2 39 0) && (w3 == 0 || ptrIn w3 32) && ptrIn w4 64 && ptrIn w5 64
      && fld w6 31 0 == 0 && ptrIn w7 64
  | _ => false

/-- A walk descriptor has no reserved, out of range or misplaced field (R338). -/
def walkLegal (w : List Word) : Bool :=
  match w with
  | [w0, w1, w2, w3, w4, w5, w6, w7] =>
    fld w0 63 48 == 0 && fld w0 31 16 == 0 && ptrIn w1 16 && ptrIn w2 128 && ptrIn w3 512 && fld w4 63 48 == 0
      && fld w4 39 0 == 0 && decide (4 ≤ fld w4 47 40) && decide (fld w4 47 40 ≤ 20) && ptrIn w5 64 && w6 == 0 && w7 == 0
  | _ => false

/-- Eight words of a 512-bit value. -/
def words8 (v : Nat) : List Word := (span 0 8).map (fun k => wordN (v >>> (64 * k)))

/-- A command joins the queue of a die; the queues of the package number what they take (R331, R332). -/
def queueXp (s : State) (die : Nat) (cmd : XpCmd) : State :=
  { s with xp := { s.xp with cmds := Tab.upd [] die (fun q => q ++ [{ cmd with seq := s.xp.nextJob }]) s.xp.cmds,
                             nextJob := s.xp.nextJob + 1 } }

/-- The descriptor of a topk or walk is read in the cycle after the trigger; a bad one gives status 1 and no command
(R330, R334). -/
def xpDescriptor (s : State) (c iss o die : Nat) (cmd : XpCmd) : State :=
  let (s, v) := ownLoad s c o 512
  let ws := words8 v
  let ok := if cmd.op = 0 then topkLegal ws else walkLegal ws
  let s := if ok then queueXp s die { cmd with words := ws } else s
  s.onCore c (fun x => x.schedAt iss 3 rReg (.lat lXP (if ok then 0 else 1)))

/-! ### One effect -/

/-- A read of part `p` at vector `v` is one that channel `k` still waits for. -/
def stillReads (x : Core) (k : Nat) (v : Vec) (p : Nat) : Bool :=
  (x.chanRun k).items.any (fun i => i.vec == v && (match i.st with | .reading _ ps => ps.contains p | _ => false))

/-- Reads that channel `k` waits for no longer, after an operation has changed what it reads: parked ones are given up, and the
answers of requests already sent are discarded (R204, R212). -/
def freeReads (s : State) (c k : Nat) : State :=
  let x := s.core c
  let s := dropParks s (fun w => match w with
    | .sread c' k' v p => c' == c && k' == k && !stillReads x k v p
    | .soff c' k' g => c' == c && k' == k && (x.chanRun k).offPark != some g
    | _ => false)
  s.onCore c (fun x => { x with accs := (x.accs.filter (fun a => match a.op with
      | .sin j v => j != k || a.sent || (sentItem x k v).isSome | _ => true)).map (fun a => match a.op with
      | .sin j v => if j == k && (sentItem x k v).isNone then { a with dead := true } else a
      | _ => a) })

/-- A read of the own scratchpad that comes before the drain writes of its cycle (R245). -/
def isReadFx (fx : Fx) : Bool :=
  match fx with
  | .spRead _ _ _ _ _ | .spReadV _ _ | .mxRead _ _ _ | .rredRead _ _ _ | .xpDesc _ _ _ => true
  | _ => false

/-- The output-stream writes of this cycle, as its reads see them (R191). They land again in their own place, after the drains. -/
def earlyOuts (s : State) (c : Nat) : State :=
  let x := s.core c
  (x.due.filter (fun d => decide (d.at_ ≤ x.cyc))).foldl (fun s d => match d.fx with
    | .outSpad _ o len v => spStore s c o len v.toNat
    | _ => s) s

/-- An effect lands at its cycle (R160, R191). -/
def landFx (s : State) (c iss : Nat) (fx : Fx) : State :=
  let s := if isReadFx fx then earlyOuts s c else s
  match fx with
  | .lat n v => s.onCore c (fun x => x.landDup iss (fun d => d.setLatch n v))
  | .wlat n v => s.onCore c (fun x => x.landDup iss (fun d => d.setWlatch n v))
  | .creg i b => s.onCore c (fun x => x.landDup iss (fun d => d.setC i b))
  | .gFull r v => s.onCore c (fun x => fillG x iss r v)
  | .spWrite _ _ _ _ | .spRead _ _ _ _ _ | .spReadV _ _ | .spSwap _ _ _ _ | .spBor _ _ _ | .tagLook _ _ _ _ _
  | .tagGet _ _ _ | .tagSet _ _ _ | .tagClr _ _ _ => landLocal s c iss fx
  | .beatIn _ _ _ | .accAdd _ _ _ | .shiftIn _ _ _ | .accDrain _ _ _ | .event _ | .events _ _ | .md _ _ | .fmtSet _ _
  | .fmtLvl _ _ | .ovPop | .ovStat _ | .accZero _ _ _ | .wZero _ | .mxSave _ _ | .mxRow _ _ | .mxRead _ _ _ | .mxPlace _ _ _
  | .mxDone _ => landArray s c iss fx
  | .seAct _ k _ _ _ _ => freeReads (landChan s c iss fx) c k
  | .drainOut _ _ _ | .outSpad _ _ _ _ => landChan s c iss fx
  | .nclr b j =>
    let n := 256 * b + j
    (setNotify s n { notifyOf s n with cnt := 0, coal := false }).onCore c
      (fun x => { x with consume := x.consume.filter (fun e => e.1 != n) })
  | .srWrite i v => s.onCore c (fun x => srPut x i v)
  | .segCopy k => (dropParks s (fun w => w == .copy c (k % 2))).onCore c (fun x => startCopy x k)
  | .lqBind n dir rlen key omask wn _ => lqBindNow s c n dir rlen key omask wn
  | .lqFree n => lqFreeNow s c n
  | .rredRead o len id => rredRow s c o len id
  | .rld id => s.onCore c (fun x => deadlinePoison x id)
  | .xpDesc o die cmd => xpDescriptor s c iss o die cmd
  | .landed => s

/-- An item that a drain pushes, or the deadline of an rld: it acts in the bundle of its cycle (R247, R305). -/
def withBundle (d : Due) : Bool := decide (rPush ≤ d.rank)

/-- Land every effect due by the core's cycle, those of its bundle left out. -/
def landDue (s : State) (c : Nat) : Nat → State
  | 0 => s
  | n + 1 =>
    match (s.core c).due with
    | [] => s
    | d :: rest =>
      if (s.core c).cyc < d.at_ || ((s.core c).cyc == d.at_ && withBundle d) then s
      else landDue (landFx (s.onCore c (fun x => { x with due := rest })) c d.iss d.fx) c n

/-- The items that drains push in the present cycle take their places (R247). -/
def landPushes (s : State) (c : Nat) : State :=
  let ds := (s.core c).due.filter (fun d => decide (d.at_ ≤ (s.core c).cyc) && withBundle d)
  ds.foldl (fun s d => landFx s c d.iss d.fx) (s.onCore c (fun x => { x with due := x.due.filter (fun d => !ds.contains d) }))

/-- Local writes that have landed leave the list of accesses. -/
def dropNear (x : Core) : Core :=
  { x with accs := pruneFences x (x.accs.filter (fun a => match a.op with | .near at_ => decide (x.cyc < at_) | _ => true)),
           early := x.early.filter (fun e => decide (x.cyc < e.1)) }

/-- One issue cycle passes on a core (R5): the counter advances and the effects of the new cycle land. -/
def nextCycle (s : State) (c : Nat) : State :=
  let s := s.onCore c (fun x => { x with cyc := x.cyc + 1, stalled := false })
  (landDue s c (2 * (s.core c).due.length + 64)).onCore c dropNear

/-- A fixed-offset effect is still due; the deadline of an rld is none (R306, R351). -/
def dueLeft (x : Core) : Bool := x.due.any (fun d => match d.fx with | .rld _ => false | _ => true)

/-- Issue empty bundles until no fixed-offset effect is due and no array copy runs (R351). -/
def drain (s : State) (c : Nat) : Nat → State
  | 0 => s
  | n + 1 => if dueLeft (s.core c) then drain (nextCycle s c) c n else s

/-- Enough cycles for any drain: the longest copy takes 6 + 256 cycles, the longest beat 6 (R266, R276). -/
def drainFuel : Nat := 600

end Sys2Proof.Machine
end

