-- ==== Sys2Proof/Machine/Work.lean ====
section
/-!
DEFINITION. Rollback, the end of a strand and of a team (R25 to R28, R178, R182, R313, R322, R351, R354), and the
records they leave.
-/
namespace Sys2Proof.Machine

/-! ### The image of a strand -/

def imgOf (s : State) (c : Nat) : Img :=
  match (s.core c).team with | some t => (s.req (s.team t).tag).img | none => Img.init

/-- An image of two or more segments (R104). -/
def multiSeg (i : Img) : Bool := decide (2 ≤ i.nseg)

/-- Offset and length (bundles − 1) of a segment (R103). -/
def segEntry (i : Img) (k : Nat) : Nat × Nat := (i.segs[k]?).getD (0, 0)

/-- The segment last named for half `h`, be it by a segnext whose copy has yet to start (R174, R184). -/
def namedSeg (x : Core) (h : Nat) : Option Nat :=
  (x.due.findSome? (fun d => match d.fx with | .segCopy j => if j % 2 = h then some j else none | _ => none)).or (x.half h).seg

/-- A half that holds no segment, and into which none is being copied or about to be (R174). -/
def halfVoid (x : Core) (h : Nat) : Bool :=
  !(x.half h).installed && !(x.half h).copying
    && x.due.all (fun d => match d.fx with | .segCopy j => j % 2 != h | _ => true)

/-- The segment last named for the half that holds index `pc`, installed or being copied; 0 in a one-segment image, 0xFF for an
empty half (R174). -/
def segAt (s : State) (c : Nat) (pc : Pc) : Nat :=
  let x := s.core c
  let h := pc.toNat / 2048
  if !multiSeg (imgOf s c) then 0
  else if halfVoid x h then 0xFF
  else match namedSeg x h with
    | some k => k % 256
    | none => 0xFF

/-- The segment that a ret to index `pc` must name: the one last named for its half, be the half empty; 0xFF where none was ever
named (R174; log entry 68). -/
def retSeg (s : State) (c : Nat) (pc : Pc) : Nat :=
  match namedSeg (s.core c) (pc.toNat / 2048) with
  | some k => k % 256
  | none => 0xFF

/-- The bit address in the image of the bundle at index `pc` (R103, R104). -/
def bundleAddr (s : State) (c : Nat) (pc : Pc) : Nat :=
  let i := imgOf s c
  let k := if multiSeg i then (((s.core c).half (pc.toNat / 2048)).seg).getD (pc.toNat / 2048) else 0
  i.base + (segEntry i k).1 + 192 * (if multiSeg i then pc.toNat % 2048 else pc.toNat)

/-! ### Rollback (R178, R351) -/

/-- Put saved accumulator rows back (R271). -/
def undoRows (x : Core) : Core :=
  { x.undo.foldl (fun x u => x.setAccRow u.bank u.row u.old) x with undo := [], named := [] }

/-- Held inbound rows return to the head of their queue, withheld outbound rows are gone (R260). -/
def undoQueues (x : Core) : Core :=
  (span 0 8).foldl (fun x n =>
    let q := x.lqOf n
    x.setLq n (if q.out then { q with rows := q.rows.filter (·.rel), resv := 0 }
      else { q with rows := q.held ++ q.rows, held := [], resv := 0 })) x

/-- A producer whose reply a rollback can discard. -/
def isProducer (a : Acc) : Bool :=
  match a.op with | .ld _ => true | .ovl _ _ => true | .drd => true | .peerLd _ => true | .rld _ => true | .resq _ => true | _ => false

/-- Accesses after a rollback: producers issued after the checkpoint are dead, fences and stream reads issued since are
gone, everything already on its way stays (R178, R233). -/
def undoAccs (x : Core) : List Acc :=
  (x.accs.filter (fun a => match a.op with
      | .fence _ _ | .echo _ => decide (a.iss < x.ck.cyc) | .sin _ _ => a.sent | .near _ => false
      | _ => true)).map
    (fun a => if isSin a || (isProducer a && decide (x.ck.cyc ≤ a.iss)) then { a with dead := true } else a)

/-- Read-ahead is discarded on every channel (R214). -/
def undoChans (x : Core) : Core :=
  (span 0 8).foldl (fun x k => x.setChanRun k { nothingAhead (x.chanRun k) with resv := 0 }) x

/-- The checkpoint state comes back (R178). -/
def undoCore (x : Core) : Core :=
  let x := undoChans (undoQueues (undoRows x))
  { x with dup := x.ck.dup, pc := x.ck.pc, mode := x.ck.mode, wb := [], accs := headFences (undoAccs x), consume := [],
           early := [], due := x.due.filter (fun d => decide (d.iss < x.ck.cyc)), sel := none, leaf := (5, none),
           divide := x.divide.map (fun v => if x.ck.cyc ≤ v.iss then { v with discard := true } else v) }

/-- Running input channels of the own scratchpad read their item again (R203, R214). -/
def rereadSpad (s : State) (c : Nat) : State :=
  (span 0 8).foldl (fun s k =>
    startRead s c k) s

/-- A parked stream read of core `c`. -/
def readPark (c : Nat) (w : Who) : Bool := match w with | .sread k _ _ _ => k == c | .soff k _ _ => k == c | _ => false

/-- `rollback_core` of R351: drain, then the checkpoint state. -/
def rollbackCore (s : State) (c : Nat) : State :=
  let s := dropParks (drain s c drainFuel) (readPark c)
  rereadSpad (s.setCore c (undoCore (s.core c))) c

/-! ### A core is left -/

/-- Accesses that go on when their strand has left: what it has issued still performs, in its order, and the replies are discarded
(R182, R185). A stream read that has not been sent is none. -/
def leftAccs (x : Core) : List Acc :=
  (x.accs.filter (fun a => match a.op with | .sin _ _ => a.sent | .near _ => false | _ => true)).map
    (fun a => { a with dead := a.dead || isSin a || isProducer a || (match a.op with | .atomic _ _ => true | _ => false) })

/-- A core that its strand leaves. Its registers, array, channels' status, scratchpad and tag tables hold their values until the next
placement clears them (R18, R23, R197, R395, R398); what the strand has yet to do is gone, but for accesses on their way and link
rows that wait for credits. -/
def clearCore (x : Core) : Core :=
  { x with
    team := none, run := .waiting, undo := [], named := [], due := [], wb := [], accs := headFences (leftAccs x),
    chan := (undoChans x).chan, lq := (orphanQueues x).lq, imem := [], imemBad := [], half0 := Half.init, half1 := Half.init,
    refetch := [], divide := x.divide.map (fun v => { v with discard := true }), mxBusy := 0, c7 := false, cdRun := false,
    shielded := false, consume := [], sel := none, leaf := (5, none), early := [], stalled := false, evCopy := none }

/-- A strand that exits or is killed frees its bindings and leaves its core (R182, R313, R314). -/
def leaveCore (s : State) (c : Nat) : State :=
  let s := dropParks (drain s c drainFuel) (readPark c)
  let s := (span 0 8).foldl (fun s n => lqFreeNow s c n) s
  s.onCore c clearCore

/-! ### The end of a team -/

/-- Weight returns to the root counter; the launch completes when D = E (R27, R28). -/
def returnWeight (s : State) (tag w : Nat) (killed : Bool) : State :=
  s.updReq tag (fun r =>
    let d := r.d + w
    { r with d := d, killed := r.killed + b2n killed, st := if d = r.e then 3 else r.st })

/-- The withdrawals that a killed team's Fuller sends for its contribution records (R322). -/
def withdrawAll (s : State) (t : Nat) : State :=
  let (mine, rest) := s.fe.contribs.partition (fun e => e.team == t)
  let s := { s with fe := { s.fe with contribs := rest } }
  mine.foldl (fun s e => sendFuller s .note none
    { blankPacket s with tier := 1, op := kWithdraw, tdom := e.home / 2048, tmem := e.home % 2048, tctx := e.ctx,
                         x4 := wordN e.grp, x5 := wordN e.rank, x7 := wordN e.sctx }) s

/-- The physical core that a team's record names when no single strand is concerned (R354). -/
def firstCore (s : State) (t : Nat) : Nat := ((s.team t).cores.head?).getD (4 * (s.team t).cluster)

/-- The released rows that the frame of a team holds go on as those of a strand that has ended: they are sent as credits come
(R313, R314). -/
def sendSaved (s : State) (t : Nat) : State :=
  s.onCore (firstCore s t) (fun x => (s.team t).outq.foldl (fun x e => x.setLq (8 * (e.2.seq + 1) + e.1) e.2) x)

/-- The team leaves its cores and the table; its frame slots are free (R15, R126). -/
def removeTeam (s : State) (t : Nat) : State :=
  let s := (s.team t).cores.foldl leaveCore (sendSaved s t)
  let s := { s with fab := { s.fab with keys := s.fab.keys.filter (fun k => !(k.team == t && k.lq != unboundLq)) } }
  let s := dropRefusals s t
  { s with fe := { s.fe with teams := Tab.drop t s.fe.teams, gres := s.fe.gres.filter (fun e => e.1 != t) } }

/-- The last strand of a team has exited (R27, R182). -/
def finishTeam (s : State) (t : Nat) : State :=
  let tm := s.team t
  returnWeight (removeTeam s t) tm.tag tm.weight false

/-- The record of a kill: source kind 1, in the error log and the queue's error area (R183, R354). -/
def killRecord (s : State) (t code a num : Nat) (detail : Word) : State :=
  let r := s.req (s.team t).tag
  queueErr (logErr s code a r.ctx 1 num detail) r.queue code a 1 num detail

/-- One team is killed: its record, its withdrawals, its cores and its weight (R27, R223, R314, R322). -/
def killOne (s : State) (t code a num : Nat) (detail : Word) : State :=
  let s := killRecord s t code a num detail
  let s := (s.team t).cores.foldl (fun s c => s.onCore c (fun x => { x with wb := [] })) s
  let tm := s.team t
  let s := withdrawAll s t
  returnWeight (removeTeam s t) tm.tag tm.weight true

/-- The other teams of a gang (R354). -/
def gangMates (s : State) (t : Nat) : List Nat :=
  let tm := s.team t
  if tm.gang then (s.fe.teams.filter (fun e => e.2.tag == tm.tag && e.2.gang && e.1 != t)).map (·.1) else []

/-- A team is killed; a team of a gang takes its whole gang with it (R354). -/
def killTeam (s : State) (t code a num : Nat) (detail : Word) : State :=
  let mates := gangMates s t
  mates.foldl (fun s m => killOne s m code a (firstCore s m) detail) (killOne s t code a num detail)

/-- A double fault on core `c` (R354). -/
def doubleFault (s : State) (c : Nat) : State :=
  match (s.core c).team with
  | none => s
  | some t => killTeam s t eDblfault (bundleAddr s c (s.core c).pc) c 0

/-! ### Pre-emption (R355, R356) -/

/-- Slots of the frame pool, in use and free (R126, R358). -/
def poolSlots (s : State) : Nat := s.xl.framelen / 2 ^ 24

def slotUsed (s : State) (k : Nat) : Bool :=
  s.fe.teams.any (fun e => e.2.slot == some k || e.2.ext == some k)

def freeSlots (s : State) : List Nat := (span 0 (poolSlots s)).filter (fun k => !slotUsed s k)

/-- C7 rises on a core, which loads its countdown (R355). -/
def raiseCore (x : Core) : Core := if x.c7 then x else { x with c7 := true, cdown := x.cdload, cdRun := true }

/-- C7 rises on every core of a team (R355). -/
def raiseTeam (s : State) (t : Nat) : State :=
  let tm := s.team t
  if tm.st = .running then
    tm.cores.foldl (fun s c => s.onCore c raiseCore) (s.setTeam t { tm with st := .requested, reason := 1 })
  else s

/-- A team is asked to leave, and its whole gang with it (R24, R100). -/
def preempt (s : State) (t : Nat) : State := (gangMates s t).foldl raiseTeam (raiseTeam s t)

/-- A load of the strand that its rollback cancels. -/
def cancelsLoad (x : Core) (id : Nat) : Bool :=
  match findAcc x id with | some a => isProducer a && some a.team == x.team && decide (x.ck.cyc ≤ a.iss) | none => false

/-- A parked load or stream read of the strand on core `c` that its rollback cancels. -/
def cancelsPark (s : State) (c : Nat) (w : Who) : Bool :=
  match w with
  | .sread d _ _ _ | .soff d _ _ => d == c
  | .acc d id _ => d == c && cancelsLoad (s.core c) id
  | _ => false

/-- The parked loads of a strand that leaves are cancelled: its accesses are gone, the records stay (R121, R233). -/
def cancelLoads (s : State) (c : Nat) : State :=
  let ids := s.xl.parks.filterMap (fun p => match p.who with
    | .acc _ id _ => if cancelsPark s c p.who then some id else none
    | _ => none)
  let t := (s.core c).team.getD 0
  let parks := s.xl.parks.map (fun p => if cancelsPark s c p.who then { p with who := .cancelled t } else p)
  { s with xl := { s.xl with parks := parks } }.onCore c (fun x => ids.foldl dropAcc x)

/-- A strand is forced back to its last checkpoint and counts as yielded; its parked loads are cancelled (R233, R356). -/
def forceStrand (s : State) (c : Nat) : State :=
  (rollbackCore (cancelLoads s c) c).onCore c (fun x => { x with run := .yielded })

/-- A handler that no countdown and no park switch forces (R353). -/
def isShielded (x : Core) : Bool := x.mode == .handler && x.shielded

end Sys2Proof.Machine
end

