-- ==== Sys2Proof/Machine/Ops.lean ====
section
/-!
DEFINITION. Taking a trap (R351) and returning from one (R373), taking a checkpoint (R177), and how a unit operation
becomes a step: done, stalled, or the trap it takes.
-/
namespace Sys2Proof.Machine

/-- The outcome of a step that answers a state. -/
abbrev Out := Host.Outcome State Fault Refusal

/-! ### Taking a trap -/

/-- The cause that a trap records (R348, R374). -/
def causeOf (s : State) (c : Nat) (t : Trap) : Cause :=
  let x := s.core c
  ⟨t.code, t.slot, t.sub, t.reg, x.pc, segAt s c x.pc, t.addr⟩

/-- Entry into half 0 finds no segment and no copy (R352). -/
def emptyHalf0 (s : State) (c : Nat) : Bool :=
  multiSeg (imgOf s c) && !(s.core c).half0.installed && !(s.core c).half0.copying

/-- The core enters its handler after the rollback: cause, trap count, mode at the trap, index 0 (R351). -/
def enterHandler (x : Core) (k : Cause) (m : Mode) : Core :=
  { x with cause := k, tcount := (x.tcount + 1) % 2 ^ 32, tmode := m, mode := .handler, pc := 0, shielded := false }

/-- Take a trap (R351): the record of R108, then the rollback, then the handler; in handler mode, or with half 0 empty,
a double fault (R352, R354). -/
def takeTrap (s : State) (c : Nat) (t : Trap) : State :=
  let s := match t.log with | some code => logCore s c code t.addr | none => s
  if (s.core c).mode = .handler then doubleFault s c
  else
    let k := causeOf s c t
    let m := (s.core c).mode
    let s := (rollbackCore s c).onCore c (fun x => enterHandler x k m)
    if emptyHalf0 s c then doubleFault s c else s

/-! ### Checkpoints -/

/-- Inbound rows that a checkpoint frees: their senders get credits (R260, R311). -/
def freeRows (s : State) (c n : Nat) : State :=
  let q := (s.core c).lqOf n
  if q.out || q.held.isEmpty then s
  else (creditBack s (ctxOf s c) q.key q.held.length).onCore c (fun x => x.setLq n { q with held := [] })

/-- Withheld outbound rows that the checkpoint of cycle `cyc` releases (R260, R311). -/
def releaseRows (cyc : Nat) (x : Core) (n : Nat) : Core :=
  let q := x.lqOf n
  if q.out then x.setLq n { q with rows := q.rows.map (fun r => if r.rel then r else { r with rel := true, place := cyc }) }
  else x

/-- Withheld consumptions that a checkpoint releases, one access each (R370, R371). -/
def releaseConsumes (s : State) (c : Nat) : State :=
  let es := (s.core c).consume
  let s := s.onCore c (fun x => { x with consume := [] })
  es.foldl (fun s e => pushAcc s c { accBase s c with op := .consume, addr := e.1, len := e.2 }) s

/-- What an effective ckpt releases, in every mode: stores, rows, consumptions (R177, R186). A handler that releases a
store is shielded from then on (R353). -/
def release (s : State) (c : Nat) : State :=
  let had := !(s.core c).wb.isEmpty
  let s := releaseConsumes (releaseStores s c) c
  let s := (span 0 8).foldl (fun s n => (freeRows s c n).onCore c (fun x => releaseRows x.cyc x n)) s
  if had && (s.core c).mode == .handler then s.onCore c (fun x => { x with shielded := true }) else s

/-- Record the checkpoint: the duplicate registers, the resume point and the mode; the undo buffer empties. Effects
issued before cycle `cyc` belong to it (R177, R178). -/
def recordCkpt (x : Core) (resume : Pc) (cyc : Nat) : Core :=
  { x with ck := ⟨x.dup, resume, x.mode, cyc⟩, undo := [], named := [] }

/-! ### Return from a trap -/

/-- The mode that rte restores (R373). -/
def rteMode (x : Core) (rm ctx : Nat) : Mode :=
  match rm with
  | 1 => if ctx = 0 then .priv else x.tmode
  | 2 => .user
  | _ => x.tmode

/-- The countdown of a core has run out and holds at 0 (R353, R355). -/
def cdDone (x : Core) : Bool := x.c7 && x.cdRun && x.cdown == 0

/-- A shielded handler whose strand is to leave: its countdown ran out, or its team is switched out (R353). -/
def leaveAtRte (s : State) (c : Nat) : Bool :=
  let x := s.core c
  isShielded x && (cdDone x || (match x.team with | some t => (s.team t).st == .forcing | none => false))

/-- The return from the handler: the stores are released, the mode comes back and the resume point is named (R373). A
strand that its handler's shield kept from leaving has then yielded (R353). -/
def returnTrap (s : State) (c rm : Nat) : State :=
  let s := release s c
  let m := rteMode (s.core c) rm (ctxOf s c)
  let away := leaveAtRte s c
  s.onCore c (fun x => { x with mode := m, shielded := false, sel := some x.ck.pc, run := if away then .yielded else x.run })

/-! ### Operations as steps -/

/-- What a step of core `c` answers for the end of an operation: its state, the same state when it stalls, or the trap
taken (R11, R144, R351). -/
def finish (s : State) (c : Nat) (r : Res) : Out :=
  match r with
  | .done s' => .next s'
  | .stall => .next s
  | .fetch a => .next (pushAcc s c a)
  | .await k n => .next (s.onCore c (fun x => needItems x k n))
  | .trap t => .next (takeTrap s c t)

/-- The operand port registers as a unit samples them. -/
def portOf (t : Trig) (s : State) (n : Nat) : Word := (s.core t.core).dup.port n

/-- Schedule one effect of the operation. -/
def plan (s : State) (c off rank : Nat) (fx : Fx) : State := s.onCore c (fun x => x.sched off rank fx)

/-- An operation that must share its bundle with an effective ckpt (R159); in the handler it shields (R353). -/
def withCkpt (t : Trig) (s : State) (k : State → Res) : Res :=
  if !t.ckpt then .trap (trapIllegal t.slot)
  else if (s.core t.core).mode = .handler then
    k (s.onCore t.core (fun x => { x with shielded := true }))
  else k s

/-- A privileged operation (R159, R400). -/
def withPriv (t : Trig) (s : State) (k : State → Res) : Res :=
  if (s.core t.core).privileged then k s else .trap (trapPriv t.slot)

/-- A long-latency operation waits while its register is empty with a producer outstanding (R143). -/
def withReg (s : State) (c r : Nat) (k : Unit → Res) : Res :=
  if ((s.core c).dup.greg r).st = .empty then .stall else k ()

/-- An operation that needs a request slot (R217). -/
def withSlot (s : State) (c : Nat) (k : Unit → Res) : Res :=
  if 2048 ≤ outstanding (s.core c) then .stall else k ()

/-- A long-latency access issues: its register is empty and it takes its place (R141, R239). -/
def issueAcc (s : State) (c : Nat) (a : Acc) : State :=
  pushAcc (s.onCore c (fun x => { x with dup := x.dup.emptyG a.reg })) c a

end Sys2Proof.Machine
end

