-- ==== Sys2Proof/Machine/Flags.lean ====
section
/-!
DEFINITION. The condition registers C0 to C7 as operations read and write them (R164 to R166, R170), and the
comparisons whose outcome they hold.
-/
namespace Sys2Proof.Machine

/-- C0 to C6 are registers; C7 is the device's request (R140, R355). -/
def condBit (x : Core) (i : Nat) : Bool := if i = 7 then x.c7 else x.dup.creg i

/-- Ranks of the writers of a condition register within one bundle (R164). -/
def minorIA (copy : Bool) : Nat := if copy then 1 else 0
def minorBP : Nat := 2
def minorMove : Nat := 3

/-- A condition write two cycles after issue; C7 is read-only (R164 to R166, R170). -/
def condWrite (t : Trig) (s : State) (i : Nat) (minor : Nat) (b : Bool) : Res :=
  if i = 7 then .trap (trapIllegal t.slot) else .done (plan s t.core 2 (rC minor) (.creg i b))

/-- Signed comparisons of words (R165). -/
def sltW (a y : Word) : Bool := decide (sgn a < sgn y)
def sleW (a y : Word) : Bool := decide (sgn a ≤ sgn y)

/-- Unsigned comparisons of words (R165). -/
def ultW (a y : Word) : Bool := decide (a.toNat < y.toNat)
def uleW (a y : Word) : Bool := decide (a.toNat ≤ y.toNat)

/-- `aligned` of pchk (R171). -/
def chkAligned (p : Word) (run : Bool) : Bool :=
  let w := ptrWidth p
  if w == 3 || w == 6 then !run || ptrAddr p % 64 == 0 else ptrAddr p % w == 0

end Sys2Proof.Machine
end

