-- ==== Sys2Proof/Machine/Global.lean ====
section
/-!
DEFINITION. The unit GM (R215 to R233): loads, withheld stores, atomics, prefetches and device-register accesses.
-/
namespace Sys2Proof.Machine

def gmA (t : Trig) (s : State) : Word := portOf t s pGMa
def gmB (t : Trig) (s : State) : Word := portOf t s pGMb
def gmD (t : Trig) (s : State) : Word := portOf t s pGMd
def gmQ (t : Trig) (s : State) : Word := portOf t s pGMq
def gmReg (t : Trig) (s : State) : Nat := fld (gmD t s) 5 0
/-- qual: bit 6 acquire, bit 7 release (R215). -/
def gmAcq (t : Trig) (s : State) : Bool := flag (gmD t s) 6
def gmRel (t : Trig) (s : State) : Bool := flag (gmD t s) 7
def gmAmask (t : Trig) (s : State) : Nat := if gmAcq t s then fld (gmQ t s) 63 48 else 0
/-- Scope of the qualifiers (R215). -/
def gmScope (t : Trig) (s : State) : Nat := fld (gmQ t s) 18 16
def gmRmask (t : Trig) (s : State) : Nat := if gmRel t s then fld (gmQ t s) 47 32 else 0

/-- A scope of 6 or 7 is illegal where a qualifier uses it (R216). -/
def gmScopeBad (t : Trig) (s : State) (uses : Bool) : Bool := uses && decide (6 ≤ gmScope t s)

/-- Kinds of GM operations, for the checks of R216. -/
inductive GmKind
  | plain | arith | bitwise | pref | dev
  deriving DecidableEq, Repr

/-- `r42_limits` (R42): width and placement of an atomic. -/
def r42Limits (a w : Nat) (k : GmKind) : Bool :=
  match k with
  | .bitwise => decide (a % 64 + w ≤ 64)
  | _ => arithLimits a w

/-- `gm_target` of R216: the address, or the trap. -/
def gmTarget (t : Trig) (s : State) (w : Nat) (k : GmKind) : Except Trap Nat :=
  let a := ptrAddr t.y
  let r := region a
  let priv := (s.core t.core).privileged
  if k == .dev && !priv then .error (trapPriv t.slot)
  else if ptrMal t.y then .error (trapMal t.slot a)
  else if k == .dev then (if r ≠ 14 then .error (trapAddr t.slot a eUnmapped) else .ok a)
  else if r = 14 && !priv then .error (trapPrivAddr t.slot a)
  else if decide (r < 1) || decide (7 < r) || decide (2 ^ 55 < a + w) then .error (trapAddr t.slot a eUnmapped)
  else if (k == .arith || k == .bitwise) && !r42Limits a w k then .error (trapWidth t.slot a)
  else if k == .plain && !alignedW a w then .error (trapAlign t.slot a)
  else .ok a

/-- The target of y, then a request slot (R216, R217). -/
def withGm (t : Trig) (s : State) (w : Nat) (k : GmKind) (f : Nat → Res) : Res :=
  match gmTarget t s w k with
  | .error tr => .trap tr
  | .ok a => withSlot s t.core fun _ => f a

/-- As `withGm`, for an operation that needs `n` entries of the withholding buffer of the core `x`, a number that depends on the target:
the trap of a full buffer comes before any stall (R222, R350). -/
def withGmEntry (t : Trig) (s : State) (w : Nat) (k : GmKind) (x : Core) (n : Nat → Nat) (f : Nat → Res) : Res :=
  match gmTarget t s w k with
  | .error tr => .trap tr
  | .ok a => match wbRoom x t.slot (n a) with
    | some r => r
    | none => withSlot s t.core fun _ => f a

/-! ### Loads (R218) -/

def gmLoad (t : Trig) (s : State) (sx : Bool) : Res :=
  let w := ptrWidth t.y
  let r := gmReg t s
  if gmScopeBad t s (gmAcq t s) then .trap (trapIllegal t.slot)
  else withGm t s w .plain fun a => withReg s t.core r fun _ =>
    .done (issueAcc s t.core { accBase s t.core with
      cls := ptrClass t.y, op := .ld sx, addr := a, len := w, reg := r, acq := gmAmask t s, scope := gmScope t s })

def opGmLd (t : Trig) (s : State) : Res := gmLoad t s false
def opGmLds (t : Trig) (s : State) : Res := gmLoad t s true

/-! ### Stores (R221, R222) -/

def opGmSt (t : Trig) (s : State) : Res :=
  let w := ptrWidth t.y
  let cls := ptrClass t.y
  if gmScopeBad t s (gmRel t s) then .trap (trapIllegal t.slot)
  else withGmEntry t s w .plain (s.core t.core) (fun a => wbNeeds (s.core t.core).wb cls a w) fun a =>
    .done (wbStore s t.core cls (gmRmask t s) (gmScope t s) a w ((gmA t s).toNat % 2 ^ w))

/-! ### Atomics (R225 to R229) -/

/-- The format of fadd: f32, bf16 or f16 (R215). -/
def gmFmt (t : Trig) (s : State) : Nat := fld (gmD t s) 12 8

/-- An atomic of index `idx` and width `w`. -/
def gmAtomic (t : Trig) (s : State) (idx w : Nat) (k : GmKind) : Res :=
  let r := gmReg t s
  withCkpt t s fun s =>
    if gmScopeBad t s (gmAcq t s || gmRel t s) then .trap (trapIllegal t.slot)
    else withGm t s w k fun a => withReg s t.core r fun _ =>
      .done (issueAcc s t.core { accBase s t.core with
        cls := ptrClass t.y, op := .atomic idx (gmFmt t s), addr := a, len := w, reg := r,
        data := (gmA t s).zeroExtend 1024, cmp := gmB t s, acq := gmAmask t s, rel := gmRmask t s, scope := gmScope t s })

/-- The length of and, or and xor. -/
def gmLen (t : Trig) (s : State) : Nat := fld (gmD t s) 21 16 + 1

def opGmCas (t : Trig) (s : State) : Res := gmAtomic t s 3 (ptrWidth t.y) .arith
def opGmSwap (t : Trig) (s : State) : Res := gmAtomic t s 4 (ptrWidth t.y) .arith
def opGmAdd (t : Trig) (s : State) : Res := gmAtomic t s 5 (ptrWidth t.y) .arith
def opGmFadd (t : Trig) (s : State) : Res :=
  if 2 < gmFmt t s then .trap (trapIllegal t.slot)
  else gmAtomic t s 6 (if gmFmt t s = 0 then 32 else 16) .arith
def opGmMin (t : Trig) (s : State) : Res := gmAtomic t s 7 (ptrWidth t.y) .arith
def opGmMax (t : Trig) (s : State) : Res := gmAtomic t s 8 (ptrWidth t.y) .arith
def opGmMinu (t : Trig) (s : State) : Res := gmAtomic t s 9 (ptrWidth t.y) .arith
def opGmMaxu (t : Trig) (s : State) : Res := gmAtomic t s 10 (ptrWidth t.y) .arith
def opGmAnd (t : Trig) (s : State) : Res := gmAtomic t s 11 (gmLen t s) .bitwise
def opGmOr (t : Trig) (s : State) : Res := gmAtomic t s 12 (gmLen t s) .bitwise
def opGmXor (t : Trig) (s : State) : Res := gmAtomic t s 13 (gmLen t s) .bitwise
def opGmIncb (t : Trig) (s : State) : Res := gmAtomic t s 14 (ptrWidth t.y) .arith

/-! ### Prefetch and device registers (R230, R231) -/

def opGmPref (t : Trig) (s : State) : Res :=
  let n := (gmA t s).toNat
  if n = 0 || decide (2 ^ 20 < n) then .trap (trapIllegal t.slot)
  else withGm t s (ptrWidth t.y) .pref fun a =>
    .done (pushAcc s t.core { accBase s t.core with cls := ptrClass t.y, op := .pref, addr := a, len := n })

def opGmDrd (t : Trig) (s : State) : Res :=
  let r := gmReg t s
  withCkpt t s fun s =>
    if gmScopeBad t s (gmAcq t s) then .trap (trapIllegal t.slot)
    else withGm t s 64 .dev fun a => withReg s t.core r fun _ =>
      .done (issueAcc s t.core { accBase s t.core with
        cls := ptrClass t.y, op := .drd, addr := a, reg := r, acq := gmAmask t s, scope := gmScope t s })

/-- The core without the entries that the present bundle has released: a dwr of the bundle was judged beside them as they stood
withheld (R222, R231). -/
def beforeRelease (x : Core) : Core := { x with accs := x.accs.filter (fun a => !(isSend a && a.iss == x.cyc)) }

/-- A dwr needs an entry of the withholding buffer, which its own checkpoint releases (R217, R222, R231). -/
def opGmDwr (t : Trig) (s : State) : Res :=
  withCkpt t s fun s =>
    if gmScopeBad t s (gmRel t s) then .trap (trapIllegal t.slot)
    else withGmEntry t s 64 .dev (beforeRelease (s.core t.core)) (fun _ => 1) fun a =>
      .done (pushAcc s t.core { accBase s t.core with
          cls := ptrClass t.y, op := .dwr, addr := a, data := (gmA t s).zeroExtend 1024, rel := gmRmask t s, scope := gmScope t s })

def execGmLd (t : Trig) (s : State) : Out := finish s t.core (opGmLd t s)
def execGmLds (t : Trig) (s : State) : Out := finish s t.core (opGmLds t s)
def execGmSt (t : Trig) (s : State) : Out := finish s t.core (opGmSt t s)
def execGmCas (t : Trig) (s : State) : Out := finish s t.core (opGmCas t s)
def execGmSwap (t : Trig) (s : State) : Out := finish s t.core (opGmSwap t s)
def execGmAdd (t : Trig) (s : State) : Out := finish s t.core (opGmAdd t s)
def execGmFadd (t : Trig) (s : State) : Out := finish s t.core (opGmFadd t s)
def execGmMin (t : Trig) (s : State) : Out := finish s t.core (opGmMin t s)
def execGmMax (t : Trig) (s : State) : Out := finish s t.core (opGmMax t s)
def execGmMinu (t : Trig) (s : State) : Out := finish s t.core (opGmMinu t s)
def execGmMaxu (t : Trig) (s : State) : Out := finish s t.core (opGmMaxu t s)
def execGmAnd (t : Trig) (s : State) : Out := finish s t.core (opGmAnd t s)
def execGmOr (t : Trig) (s : State) : Out := finish s t.core (opGmOr t s)
def execGmXor (t : Trig) (s : State) : Out := finish s t.core (opGmXor t s)
def execGmIncb (t : Trig) (s : State) : Out := finish s t.core (opGmIncb t s)
def execGmPref (t : Trig) (s : State) : Out := finish s t.core (opGmPref t s)
def execGmDrd (t : Trig) (s : State) : Out := finish s t.core (opGmDrd t s)
def execGmDwr (t : Trig) (s : State) : Out := finish s t.core (opGmDwr t s)

end Sys2Proof.Machine
end

