-- ==== Sys2Proof/Machine/Fabric.lean ====
section
/-!
DEFINITION. The unit RM (R303 to R315, R319): remote loads, stores and signals, link-queue bindings, reductions and the
permutation collective, as their triggers issue them.
-/
namespace Sys2Proof.Machine

def rmA (t : Trig) (s : State) : Word := portOf t s pRMa
def rmB (t : Trig) (s : State) : Word := portOf t s pRMb
def rmD (t : Trig) (s : State) : Word := portOf t s pRMd
def rmQ (t : Trig) (s : State) : Word := portOf t s pRMq

/-! ### The ports (R303) -/

def rmQual (t : Trig) (s : State) : Nat := fld (rmD t s) 7 6
def rmScope (t : Trig) (s : State) : Nat := fld (rmQ t s) 18 16
def rmAmask (t : Trig) (s : State) : Nat := if bit (rmQual t s) 0 then fld (rmQ t s) 63 48 else 0
def rmRmask (t : Trig) (s : State) : Nat := if bit (rmQual t s) 1 then fld (rmQ t s) 47 32 else 0
/-- Tier of rst and mcast (R298). -/
def rmTier (t : Trig) (s : State) : Nat := if flag (rmQ t s) 20 then 2 else 1

/-- A scope of 6 or 7 is illegal where a qualifier uses it: bit 0 acquire, bit 1 release. -/
def rmScopeBad (t : Trig) (s : State) (q : Nat) : Bool := bit (rmQual t s) q && decide (6 ≤ rmScope t s)

/-- Tier, qualifiers and scope as the packet header takes them. -/
def rmHead (t : Trig) (s : State) (tier : Nat) : Word := wordN (tier + rmQual t s <<< 2 + rmScope t s <<< 4)

/-- Operations that check a window pointer (R304). -/
inductive RmKind
  | element | signal | bar | group
  deriving DecidableEq, Repr

/-- `rm_target` of R304 for `cnt` windows; the group operations check the pointer and its region only (R319). -/
def rmTarget (t : Trig) (w cnt : Nat) (k : RmKind) : Except Trap Nat :=
  let a := ptrAddr t.y
  if ptrMal t.y then .error (trapMal t.slot a)
  else if decide (region a < 8) || decide (13 < region a) then .error (trapAddr t.slot a eUnmapped)
  else if k == .bar && winOff a / 2 ^ 12 != 0 then .error (trapAddr t.slot a eUnmapped)
  else if decide (24575 < winNo a + cnt - 1) then .error (trapAddr t.slot a eUnmapped)
  else if k == .signal && !r42Limits a w .arith then .error (trapWidth t.slot a)
  else if k == .element && !alignedW a w then .error (trapAlign t.slot a)
  else .ok a

/-- The target of y, then the operation's own illegal cases (R304, R305). -/
def withRm (t : Trig) (w cnt : Nat) (k : RmKind) (bad : Bool) (f : Nat → Res) : Res :=
  match rmTarget t w cnt k with
  | .error tr => .trap tr
  | .ok a => if bad then .trap (trapIllegal t.slot) else f a

/-- A remote access of the strand. -/
def rmAcc (t : Trig) (s : State) (tier : Nat) : Acc :=
  { accBase s t.core with cls := ptrClass t.y, addr := ptrAddr t.y, cmp := rmHead t s tier }

/-! ### Loads, stores and signals (R305 to R310) -/

def opRmRld (t : Trig) (s : State) : Res :=
  let w := ptrWidth t.y
  let r := fld (rmD t s) 5 0
  let d := fld (rmQ t s) 15 0
  withCkpt t s fun s =>
    withRm t w 1 .element (d == 0 || rmScopeBad t s 0) fun _ => withSlot s t.core fun _ => withReg s t.core r fun _ =>
      let id := (s.core t.core).nextId
      .done (issueAcc (plan s t.core d rPush (.rld id)) t.core
        { rmAcc t s 0 with op := .rld d, len := w, reg := r, acq := rmAmask t s, scope := rmScope t s })

def opRmRst (t : Trig) (s : State) : Res :=
  let w := ptrWidth t.y
  withCkpt t s fun s =>
    withRm t w 1 .element (rmScopeBad t s 1) fun _ => withSlot s t.core fun _ =>
      .done (pushAcc s t.core { rmAcc t s (rmTier t s) with
        op := .rst, len := w, data := BitVec.ofNat 1024 ((rmA t s).toNat % 2 ^ w), rel := rmRmask t s, scope := rmScope t s })

/-- The stores of a mcast from window j on: one place in model order, one access for each window, marked in `reg` (R308). -/
def mcastAccs (s : State) (c : Nat) (a : Acc) (j : Nat) : Nat → State
  | 0 => s
  | n + 1 =>
    let b := { a with id := (s.core c).nextId, addr := a.addr + j * 2 ^ 40 }
    mcastAccs (pushAcc s c b) c a (j + 1) n

def opRmMcast (t : Trig) (s : State) : Res :=
  let w := ptrWidth t.y
  let n := fld (rmB t s) 12 0
  withCkpt t s fun s =>
    withRm t w n .element (n == 0 || decide (4096 < n) || rmScopeBad t s 1) fun _ => withSlot s t.core fun _ =>
      .done (mcastAccs s t.core { rmAcc t s (rmTier t s) with
        op := .rst, len := w, data := BitVec.ofNat 1024 ((rmA t s).toNat % 2 ^ w), rel := rmRmask t s, scope := rmScope t s, reg := 1 } 0 n)

def opRmXsig (t : Trig) (s : State) : Res :=
  let w := ptrWidth t.y
  withCkpt t s fun s =>
    withRm t w 1 .signal (rmScopeBad t s 1) fun _ => withSlot s t.core fun _ =>
      .done (pushAcc s t.core { rmAcc t s 0 with
        op := .xsig, len := w, data := BitVec.ofNat 1024 ((rmA t s).toNat % 2 ^ w), rel := rmRmask t s, scope := rmScope t s })

def opRmBar (t : Trig) (s : State) : Res :=
  let u := (rmA t s).toNat
  withCkpt t s fun s =>
    withRm t 64 1 .bar (u == 0 || decide (65535 < u) || rmScopeBad t s 1) fun _ => withSlot s t.core fun _ =>
      .done (pushAcc s t.core { rmAcc t s 0 with op := .bar, data := BitVec.ofNat 1024 u, rel := rmRmask t s, scope := rmScope t s })

/-! ### Reductions (R317 to R322) -/

/-- Result formats of a group (R318). -/
def grpFmt (c : Nat) : Option Fmt :=
  match c with
  | 0 => some .f32 | 1 => some .bf16 | 2 => some .f16 | 0x0A => some .s32 | 0x0B => some .s64 | _ => none

/-- Records of contributions that a package holds (R322). -/
def contribMax : Nat := 16384

/-- The record of a contribution; none where the window check fails. -/
def contribOf (s : State) (c a grp rank : Nat) : State × Option RedRec :=
  match windowFor s (ctxOf s c) a .red with
  | (s, .ok (w, _)) => (s, some ⟨(s.core c).team.getD 0, 2048 * w.domain + w.member, w.tctx, grp, rank, 0, 1, [], ctxOf s c, none⟩)
  | (s, .error _) => (s, none)

/-- Whether two records stand for the same (home, group, rank) of a team. -/
def RedRec.same (a b : RedRec) : Bool :=
  a.team == b.team && a.home == b.home && a.ctx == b.ctx && a.grp == b.grp && a.rank == b.rank

/-- Keep a record, with one more contribution unanswered; none when it needs a place and none is free. -/
def addContrib (s : State) (r : Option RedRec) : Option State :=
  match r with
  | none => some s
  | some r =>
    if s.fe.contribs.any (·.same r) then
      some { s with fe := { s.fe with contribs := s.fe.contribs.map (fun e => if e.same r then { e with pend := e.pend + 1 } else e) } }
    else if contribMax ≤ s.fe.contribs.length then none
    else some { s with fe := { s.fe with contribs := s.fe.contribs ++ [r] } }

/-- A request to a group's home, with the group in word 4 and the strand's context in word 7 (log entry 11). -/
def grpAcc (t : Trig) (s : State) (tier op grp : Nat) (w5 w6 : Word) (body : Col) : Acc :=
  { rmAcc t s 0 with cmp := wordN tier, op := .grp op (wordN grp) w5 w6 (wordN (ctxOf s t.core)) body }

def opRmRred (t : Trig) (s : State) : Res :=
  let b := rmB t s
  let grp := fld b 11 0
  let rank := fld b 27 16
  let n := fld (rmD t s) 19 8 + 1
  withCkpt t s fun s =>
    if flag b 31 then
      withRm t 64 1 .group false fun _ => withSlot s t.core fun _ => .done (pushAcc s t.core (grpAcc t s 1 kWithdraw grp (wordN rank) 0 0))
    else
      let f := grpFmt (fld (rmD t s) 24 20)
      let w := match f with | some f => f.width | none => 1
      withRm t 64 1 .group (f.isNone || decide (4096 < n * w)) fun a =>
          match lsTarget s t.core t.slot (rmA t s) (n * w) w true with
          | .error tr => .trap tr
          | .ok (_, o) =>
            if winOff a % w ≠ 0 then .trap (trapAlign t.slot a)
            else withSlot s t.core fun _ =>
              let (s, r) := contribOf s t.core a grp rank
              match addContrib s r with
              | none => .stall
              | some s =>
                let id := (s.core t.core).nextId
                let acc := { grpAcc t s 1 kContrib grp (wordN rank) (wordN (fld (rmD t s) 24 20 + n <<< 8)) 0 with
                  parked := [0], peer := (r.map (fun r => 1 + r.home)).getD 0, cmp := wordN (1 + (r.map (·.ctx)).getD 0 * 2 ^ 16) }
                .done (pushAcc (plan s t.core 1 rRead (.rredRead o (n * w) id)) t.core acc)

/-- A group descriptor without a reserved or out-of-range field (R318). -/
def grpLegal (ws : List Word) : Bool :=
  match ws with
  | [w0, w1, w2, w3, w4, w5, w6, w7] =>
    let mode := fld w0 63 62
    let addr := fun (w : Word) (n : Nat) => decide (w.toNat < 2 ^ 56) && decide (1 ≤ region w.toNat)
      && decide (region w.toNat ≤ 7) && w.toNat % n == 0
    mode != 3 && fld w0 61 60 != 3 && fld w0 58 57 == 0 && fld w0 39 16 == 0 && fld w1 63 16 == 0
      && (match grpFmt (fld w0 56 52) with | some f => decide ((fld w1 15 0 + 1) * f.width ≤ 2 ^ 20) | none => false)
      && (if mode == 0 then w2 == 0 else addr w2 512) && (w3 == 0 || addr w3 64) && (w4 == 0 || addr w4 64)
      && w5 == 0 && w6 == 0 && w7 == 0
  | _ => false

/-- RM.s at t+3. -/
def rmStatus (t : Trig) (s : State) (v : Nat) : State := plan s t.core 3 rReg (.lat lRM (wordN v))

def opRmGrpset (t : Trig) (s : State) : Res :=
  let grp := fld (rmB t s) 11 0
  withCkpt t s fun s => withRm t 64 1 .group false fun a =>
    match lsTarget s t.core t.slot (rmA t s) 512 1 true with
    | .error tr => .trap tr
    | .ok (_, o) =>
      if ptrAddr (rmA t s) % 512 ≠ 0 then .trap (trapAlign t.slot (ptrAddr (rmA t s)))
      else
        let (s, v) := spLoad s t.core o 512
        if !grpLegal (words8 v) then .done (rmStatus t s 5)
        else match windowFor s (ctxOf s t.core) a .red with
          | (s, .error _) => .done (rmStatus t s 6)
          | (s, .ok _) => withSlot s t.core fun _ =>
            .done (pushAcc (rmStatus t s 0) t.core (grpAcc t s 0 kGrpset grp 0 0 (BitVec.ofNat 4096 v)))

/-- grpclr and grpretire ignore the offset of their pointer (R319). -/
def homeAddr (a : Nat) : Nat := a / 2 ^ 40 * 2 ^ 40

def opRmGrpclr (t : Trig) (s : State) : Res :=
  let grp := fld (rmB t s) 11 0
  withCkpt t s fun s => withRm t 64 1 .group false fun a =>
    match windowFor s (ctxOf s t.core) (homeAddr a) .red with
    | (s, .error _) => .done (rmStatus t s 6)
    | (s, .ok _) => withSlot s t.core fun _ =>
      .done (pushAcc (rmStatus t s 0) t.core { grpAcc t s 0 kGrpclr grp 0 0 0 with addr := homeAddr a })

def opRmGrpretire (t : Trig) (s : State) : Res :=
  let grp := fld (rmB t s) 11 0
  withCkpt t s fun s => withRm t 64 1 .group false fun a => withSlot s t.core fun _ =>
    .done (pushAcc s t.core { grpAcc t s 0 kGrpretire grp 0 0 0 with addr := homeAddr a })

/-- xperm counts as a class-15 access; its descriptor is read with the trigger (R319, R328). -/
def opRmXperm (t : Trig) (s : State) : Res :=
  withCkpt t s fun s =>
    match lsTarget s t.core t.slot t.y 512 1 true with
    | .error tr => .trap tr
    | .ok (_, o) =>
      if ptrAddr t.y % 512 ≠ 0 then .trap (trapAlign t.slot (ptrAddr t.y))
      else withSlot s t.core fun _ =>
        let (s, v) := spLoad s t.core o 512
        .done (pushAcc s t.core { grpAcc t s 2 kXperm 0 0 0 (BitVec.ofNat 4096 v) with cls := 15 })

/-! ### Link queues (R312, R313) -/

/-- A binding or an unbinding of queue `n` is due. -/
def lqPending (x : Core) (n : Nat) : Bool :=
  x.due.any (fun d => match d.fx with | .lqBind m _ _ _ _ _ _ => m == n | _ => false)

/-- Queue `n` is bound, about to be bound, or draining. -/
def lqTaken (x : Core) (n : Nat) : Bool := (x.lqOf n).bound || (x.lqOf n).drain || lqPending x n

/-- The key stands for a queue of this package in the context (R313 status 1). -/
def keyBound (s : State) (ctx key : Nat) : Bool :=
  match findKey s ctx key with | some k => k.lq != unboundLq | none => false

def opRmLqbind (t : Trig) (s : State) : Res :=
  let c := t.core
  let b := rmB t s
  let n := fld b 2 0
  let rlen := fld b 6 4
  withCkpt t s fun s =>
    let x := s.core c
    let ctx := ctxOf s c
    if 5 ≤ rlen then .trap (trapIllegal t.slot)
    else if flag b 3 then
      withRm t 64 1 .group false fun a =>
        let key := winOff a % 2 ^ 32
        if winOff a / 2 ^ 32 ≠ 0 then .trap (trapIllegal t.slot)
        else if lqTaken x n then .done (rmStatus t s 2)
        else match windowFor s ctx a .wr with
          | (s, .error _) => .done (rmStatus t s 4)
          | (s, .ok _) => withSlot s t.core fun _ =>
            let h := s.fab.nextRid
            let s := { s with fab := { s.fab with nextRid := h + 1 } }
            let s := s.onCore c (fun x => x.setLq n { LinkQ.init with out := true, seq := h })
            let s := plan (rmStatus t s 0) c 3 rReg (.lqBind n true rlen key (fld b 31 16) (winNo a) (s.core c).nextId)
            .done (pushAcc s c { rmAcc t s 0 with op := .connect h, data := BitVec.ofNat 1024 key })
    else if fld t.y 63 32 ≠ 0 then .trap (trapIllegal t.slot)
    else
      let key := fld t.y 31 0
      if lqTaken x n then .done (rmStatus t s 2)
      else if keyBound s ctx key then .done (rmStatus t s 1)
      else
        let s := registerKey s ctx key (x.team.getD 0) x.tcore n
        .done (plan (rmStatus t s 0) c 3 rReg (.lqBind n false rlen key 0 0 (s.core c).nextId))

def opRmLqfree (t : Trig) (s : State) : Res :=
  let n := fld t.y 2 0
  withCkpt t s fun s =>
    let x := s.core t.core
    if (span 0 8).any (fun j => let h := x.dup.chanOf j; h.st == .running && dMem h.desc == 3 && dLq h.desc == n) then
      .trap (trapProg t.slot 8)
    else if !(x.lqOf n).bound && !lqPending x n then .done (rmStatus t s 3)
    else .done (plan (rmStatus t s 0) t.core 3 rReg (.lqFree n))

def execRmRld (t : Trig) (s : State) : Out := finish s t.core (opRmRld t s)
def execRmRst (t : Trig) (s : State) : Out := finish s t.core (opRmRst t s)
def execRmRred (t : Trig) (s : State) : Out := finish s t.core (opRmRred t s)
def execRmMcast (t : Trig) (s : State) : Out := finish s t.core (opRmMcast t s)
def execRmXsig (t : Trig) (s : State) : Out := finish s t.core (opRmXsig t s)
def execRmBar (t : Trig) (s : State) : Out := finish s t.core (opRmBar t s)
def execRmGrpset (t : Trig) (s : State) : Out := finish s t.core (opRmGrpset t s)
def execRmGrpclr (t : Trig) (s : State) : Out := finish s t.core (opRmGrpclr t s)
def execRmGrpretire (t : Trig) (s : State) : Out := finish s t.core (opRmGrpretire t s)
def execRmXperm (t : Trig) (s : State) : Out := finish s t.core (opRmXperm t s)
def execRmLqbind (t : Trig) (s : State) : Out := finish s t.core (opRmLqbind t s)
def execRmLqfree (t : Trig) (s : State) : Out := finish s t.core (opRmLqfree t s)

/-- The deadline of an rld has come: the core is to issue its cycle t+D (R305). -/
def isLateRld (x : Core) (d : Due) : Bool := decide (d.at_ ≤ x.cyc) && (match d.fx with | .rld _ => true | _ => false)

/-- The deadline of an rld passes: every rld of the core whose cycle t+D issues and whose register is still empty is poisoned
(R305). -/
def passDeadlines (x : Core) : Core :=
  let late := x.due.filter (isLateRld x)
  late.foldl (fun x d => match d.fx with | .rld id => deadlinePoison x id | _ => x)
    { x with due := x.due.filter (fun d => !isLateRld x d) }

end Sys2Proof.Machine
end

