-- ==== Sys2Proof/Machine/Control.lean ====
section
/-!
DEFINITION. The control unit CU (R173 to R186): jumps, loops, checkpoints, yield, spawn, exit, halt, segments and
fences. In a bundle an operation names the next bundle through `sel`; as a step of its own it moves the pc there.
-/
namespace Sys2Proof.Machine

def cuA (t : Trig) (s : State) : Word := portOf t s pCUa
def cuK (t : Trig) (s : State) : Word := portOf t s pCUk

/-! ### The next bundle (R148, R149) -/

/-- Close the loops that end at `pc`, innermost first; the entries that remain, and the next bundle (R149). -/
def closeLoops (pc : Pc) : List LoopEnt → List LoopEnt × Pc
  | [] => ([], pc + 1)
  | e :: r =>
    if e.stop = pc then
      if e.i + 1 < e.count then ({ e with i := e.i + 1 } :: r, e.start) else closeLoops pc r
    else (e :: r, pc + 1)

/-- Step 3 of R149 at index `pc`: the loop stack and the next bundle. -/
def stepLoops (d : Dup) (pc : Pc) : Dup × Pc :=
  let r := closeLoops pc d.loops.reverse
  ({ d with loops := r.1.reverse }, r.2)

/-- A control operation names the next bundle. -/
def selectPc (s : State) (c : Nat) (p : Pc) : State := s.onCore c (fun x => { x with sel := some p })

/-- A named next bundle becomes the pc. -/
def takeSel (x : Core) : Core :=
  match x.sel with
  | some p => { x with pc := p, sel := none }
  | none => x

/-- A control operation as a step of its own. -/
def finishSel (s : State) (c : Nat) (r : Res) : Out :=
  match r with
  | .done s' => .next (s'.onCore c takeSel)
  | r => finish s c r

/-! ### Jumps (R174) -/

def opCuJump (t : Trig) (s : State) : Res := .done (selectPc s t.core (BitVec.ofNat 12 (fld t.y 11 0)))

def opCuCall (t : Trig) (s : State) : Res :=
  let next := (s.core t.core).pc + 1
  let r := wordN (segAt s t.core next * 2 ^ 12 + next.toNat)
  .done (selectPc (plan s t.core 1 rReg (.lat lCU r)) t.core (BitVec.ofNat 12 (fld t.y 11 0)))

def opCuRet (t : Trig) (s : State) : Res :=
  let p : Pc := BitVec.ofNat 12 (fld t.y 11 0)
  if multiSeg (imgOf s t.core) && fld t.y 19 12 != retSeg s t.core p then .trap (trapProg t.slot 9)
  else .done (selectPc s t.core p)

/-! ### Loops (R175, R176) -/

def opCuLoop (t : Trig) (s : State) : Res :=
  let x := s.core t.core
  let ls := x.dup.loops
  let n := t.y.toNat
  let e : Pc := BitVec.ofNat 12 (fld (cuK t s) 11 0)
  let st := x.pc + 1
  let halves := multiSeg (imgOf s t.core) && e.toNat / 2048 != st.toNat / 2048
  let inner := match ls.getLast? with | some l => decide (l.stop.toNat < e.toNat) | none => false
  if decide (2 ^ 32 ≤ n) || decide (e.toNat < st.toNat) || halves then .trap (trapIllegal t.slot)
  else if ls.length = 6 then .trap (trapProg t.slot 1)
  else if inner || ls.any (fun l => l.stop == x.pc) then .trap (trapProg t.slot 2)
  else if n = 0 then
    let (d, p) := stepLoops x.dup e
    .done (s.setCore t.core { x with dup := d, sel := some p })
  else .done (s.setCore t.core { x with dup := { x.dup with loops := ls ++ [⟨st, e, n, 0⟩] }, sel := some st })

def opCuLpop (t : Trig) (s : State) : Res :=
  let x := s.core t.core
  let n := t.y.toNat
  if n = 0 || decide (6 < n) then .trap (trapIllegal t.slot)
  else if x.dup.loops.length < n then .trap (trapProg t.slot 3)
  else .done (s.setCore t.core { x with dup := { x.dup with loops := x.dup.loops.take (x.dup.loops.length - n) } })

/-! ### Checkpoints (R177, R186) -/

/-- What `ckpt` does before the end of its bundle: the release. The bundle's end records the state. -/
def opCuCkpt (t : Trig) (s : State) : Res := .done (release s t.core)

/-- The end of a bundle with an effective ckpt: outside the handler the state is recorded with the resume point; the
effects of the bundle that ends at cycle `cyc` belong to it (R177, R178, R186). -/
def endCkpt (s : State) (c : Nat) (resume : Pc) (cyc : Nat) : State :=
  s.onCore c (fun x => if x.mode = .handler then x else recordCkpt x resume cyc)

/-! ### Yield, exit, halt (R180, R182, R183) -/

/-- The operations that are double faults in handler mode (R186). -/
def notInHandler (t : Trig) (s : State) (k : Unit → Res) : Res :=
  if (s.core t.core).mode = .handler then .trap (trapIllegal t.slot) else k ()

def opCuYield (t : Trig) (s : State) : Res :=
  withCkpt t s fun s => notInHandler t s fun _ =>
    .done (s.onCore t.core (fun x => { x with run := if x.c7 then .yielded else x.run }))

def opCuExit (t : Trig) (s : State) : Res :=
  withCkpt t s fun s => notInHandler t s fun _ => .done (s.onCore t.core (fun x => { x with run := .exited }))

/-- Every strand of the team has exited. -/
def allExited (s : State) (t : Nat) : Bool :=
  let tm := s.team t
  decide (popCount tm.exited 4 = tm.n)

/-- A strand has exited (R182): its offsets land, its replies are discarded, and the last one ends its team. -/
def strandExit (s : State) (c : Nat) : State :=
  match (s.core c).team with
  | none => s
  | some t =>
    let s := drain s c drainFuel
    let s := s.onCore c (fun x => { x with
      accs := x.accs.map (fun a => { a with dead := a.dead || isProducer a || (match a.op with | .atomic _ _ => true | _ => false) }),
      divide := x.divide.map (fun v => { v with discard := true }) })
    let s := s.updTeam t (fun tm => { tm with exited := tm.exited ||| 2 ^ (s.core c).tcore })
    if allExited s t then finishTeam s t else s

def opCuHalt (t : Trig) (s : State) : Res := withCkpt t s fun s => .done s

/-- A halt ends its team abnormally (R183). -/
def haltTeam (s : State) (c : Nat) (pc : Pc) (y : Word) : State :=
  match (s.core c).team with
  | none => s
  | some t => killTeam s t eHalt (bundleAddr s c pc) c y

/-! ### Spawn (R26, R181) -/

/-- Spawn records of the package (R181). -/
def spawnMax : Nat := 65536

/-- A launch offers a team: one that is ready, or an initial one not yet claimed (R94). -/
def offersTeam (s : State) (tag : Nat) : Bool :=
  decide ((s.req tag).claimed < (Tab.get 0 (s.req tag).draft 1).toNat)
    || s.fe.teams.any (fun e => e.2.tag == tag && e.2.st == .ready)

/-- A launch that offered no team is about to offer one: its aging counts from here (R96). -/
def startOffer (s : State) (tag : Nat) : State :=
  if offersTeam s tag then s else s.updReq tag (fun r => { r with since := s.fe.time })

/-- A new team joins the ready list (R94). -/
def addTeam (s : State) (tm : Team) : State :=
  { s with fe := { s.fe with teams := Tab.put s.fe.nextTeam { tm with order := s.fe.order } s.fe.teams,
                             nextTeam := s.fe.nextTeam + 1, order := s.fe.order + 1 } }

/-- The share of child `i` when `h` is handed to `m` children (R26). -/
def spawnShare (h m i : Nat) : Nat := h / m + (if i < h % m then 1 else 0)

/-- Children `i`, …: each joins with its share of the weight and its arguments, to follow the accesses that `after` names (R26,
R181, R250). -/
def addChildren (s : State) (tag h m entry n : Nat) (words : List Word) (after : Nat × Nat × Nat) (i : Nat) : Nat → State
  | 0 => s
  | k + 1 =>
    let tm := { Team.init with
      tag := tag, st := .ready, weight := spawnShare h m i, args := wordN i :: wordN m :: words,
      entries := List.replicate n entry, n := n, index := i, spawned := true, after := some after }
    addChildren (addTeam s tm) tag h m entry n words after (i + 1) k

/-- A spawn of `m` teams by the strand of team `t` on core `c` (R26, R181). -/
def spawnTeams (s : State) (c t m entry n : Nat) (words : List Word) : State :=
  let tm := s.team t
  let grant := decide (tm.weight / 2 < m)
  let w := if grant then tm.weight + 2 ^ 40 else tm.weight
  let s := s.updReq tm.tag (fun r => { r with e := if grant then r.e + 2 ^ 40 else r.e, spawned := r.spawned + m })
  let s := startOffer (s.setTeam t { tm with weight := w - w / 2 }) tm.tag
  let s := addChildren s tm.tag (w / 2) m entry n words (c, (s.core c).nextId, t) 0 m
  { s with fe := { s.fe with spawnRecs := s.fe.spawnRecs + m } }

/-- The six argument registers, or the first that is empty or poisoned (R142, R181). -/
def spawnArgs (d : Dup) (g slot : Nat) : Nat → Except (Option Trap) (List Word)
  | 0 => .ok []
  | n + 1 =>
    let r := d.greg g
    match r.st with
    | .empty => (match spawnArgs d (g + 1) slot n with | .error (some t) => .error (some t) | _ => .error none)
    | .poison cause => .error (some (trapPoison slot g cause))
    | .full => (spawnArgs d (g + 1) slot n).map (r.val :: ·)

def opCuSpawn (t : Trig) (s : State) : Res :=
  withCkpt t s fun s => notInHandler t s fun _ =>
    let x := s.core t.core
    let m := t.y.toNat
    let entry := fld (cuK t s) 11 0
    let n := fld (cuK t s) 13 12 + 1
    let g := fld (cuA t s) 5 0
    if m = 0 || decide (4096 < m) || decide ((segEntry (imgOf s t.core) 0).2 < entry) || decide (58 < g) then
      .trap (trapIllegal t.slot)
    else match spawnArgs x.dup g t.slot 6 with
      | .error (some tr) => .trap tr
      | .error none => .stall
      | .ok words =>
        if spawnMax < s.fe.spawnRecs + m then .stall
        else match x.team with
          | none => .done s
          | some tm => .done (spawnTeams s t.core tm m entry n words)

/-! ### Segments and fences (R184, R185) -/

/-- A segment copy into half `h` that has yet to start. -/
def startsCopy (h : Nat) (d : Due) : Bool := match d.fx with | .segCopy j => j % 2 == h | _ => false

def opCuSegnext (t : Trig) (s : State) : Res :=
  notInHandler t s fun _ =>
    let x := s.core t.core
    let img := imgOf s t.core
    let k := fld t.y 7 0
    let h := x.half (k % 2)
    if !multiSeg img || k % 2 = x.pc.toNat / 2048 then .trap (trapProg t.slot 9)
    else if img.nseg ≤ k then
      .done ((dropParks s (fun w => w == .copy t.core (k % 2))).onCore t.core
        (fun x => { x with due := x.due.filter (fun d => !startsCopy (k % 2) d) }.setHalf (k % 2) ⟨some k, false, false, false⟩))
    else if h.seg == some k && (h.installed || h.copying) then .done s
    else .done (plan s t.core 2 rReg (.segCopy k))

def opCuFence (t : Trig) (s : State) : Res :=
  let mask := fld t.y 15 0
  let scope := fld t.y 18 16
  if decide (6 ≤ scope) || (decide (1 ≤ scope) && !t.ckpt) then .trap (trapIllegal t.slot)
  else if mask = 0 then .done s
  else .done (pushAcc s t.core { accBase s t.core with op := .fence mask scope })

/-! ### The steps -/

def execCuLoop (t : Trig) (s : State) : Out := finishSel s t.core (opCuLoop t s)
def execCuJump (t : Trig) (s : State) : Out := finishSel s t.core (opCuJump t s)
def execCuCall (t : Trig) (s : State) : Out := finishSel s t.core (opCuCall t s)
def execCuRet (t : Trig) (s : State) : Out := finishSel s t.core (opCuRet t s)

/-- A checkpoint as a step of its own: its resume point is the bundle that R149 selects at the pc (R177). -/
def execCuCkpt (t : Trig) (s : State) : Out :=
  match opCuCkpt t s with
  | .done s' =>
    let x := s'.core t.core
    let (d, p) := stepLoops x.dup x.pc
    .next (s'.onCore t.core (fun y => if y.mode = .handler then y else
      { recordCkpt { y with dup := d } p (y.cyc + 1) with dup := y.dup }))
  | r => finish s t.core r

def execCuYield (t : Trig) (s : State) : Out := finish s t.core (opCuYield t s)
def execCuSpawn (t : Trig) (s : State) : Out := finish s t.core (opCuSpawn t s)

def execCuExit (t : Trig) (s : State) : Out :=
  match opCuExit t s with
  | .done s' => .next (strandExit s' t.core)
  | r => finish s t.core r

def execCuSegnext (t : Trig) (s : State) : Out := finish s t.core (opCuSegnext t s)

def execCuHalt (t : Trig) (s : State) : Out :=
  match opCuHalt t s with
  | .done s' => .next (haltTeam s' t.core (s'.core t.core).pc t.y)
  | r => finish s t.core r

def execCuFence (t : Trig) (s : State) : Out := finish s t.core (opCuFence t s)
def execCuLpop (t : Trig) (s : State) : Out := finish s t.core (opCuLpop t s)

end Sys2Proof.Machine
end

