-- ==== Sys2Proof/Machine/Frame.lean ====
section
/-!
DEFINITION. Start state of a strand (R18), and context frames (R126, R357 to R362): their rows, how a save writes them
and how a restore reads them.
-/
namespace Sys2Proof.Machine

/-! ### Placement of a core (R18, R355, R375) -/

/-- The banks of every pin whose home is cluster `cl`. -/
def pinnedBank (s : State) (cl b : Nat) : Bool :=
  s.fe.pins.any (fun e => e.2.home == cl && decide (e.2.first ≤ b) && decide (b < e.2.first + e.2.count))

/-- Keep what lies in pinned banks, with `per` entries of the table for each bank. -/
def keepPinned {α : Type} (s : State) (c per : Nat) (t : Tab α) : Tab α := Tab.keep (fun i => pinnedBank s (c / 4) (i / per)) t

/-- Words and tag entries of a bank. -/
def bankWords : Nat := 2560
def bankTags : Nat := 1024

/-- Draft field of a request (R70). -/
def draftOf (r : Req) (k : Nat) : Word := Tab.get 0 r.draft k

/-- The park threshold of a launch: its park field, or the context's (R22, R119). -/
def parkThreshold (s : State) (r : Req) : Nat :=
  if draftOf r 8 ≠ 0 then (draftOf r 8).toNat
  else match (descriptor s r.ctx).2 with | some d => d.park | none => 0

/-- A core as its placement leaves it: clear but for pinned banks; accesses on their way stay (R18, R98). -/
def placeCore (s : State) (c t k : Nat) : Core :=
  let x := s.core c
  let r := s.req (s.team t).tag
  { Core.init with
    team := some t, tcore := k, run := .waiting, spad := keepPinned s c bankWords x.spad,
    spadBad := x.spadBad.filter (fun w => pinnedBank s (c / 4) (w / bankWords)),
    tags := keepPinned s c bankTags x.tags,
    tagsBad := x.tagsBad.filter (fun w => pinnedBank s (c / 4) (w / bankTags)), accs := x.accs, nextId := x.nextId,
    lq := Tab.keep (fun n => decide (8 ≤ n)) x.lq, divide := x.divide, cdload := (draftOf r 7).toNat, park := parkThreshold s r,
    dup := { Dup.init with fmt := r.img.fmt } }

/-- Load the argument words into G0, G1, … (R18). -/
def loadArgs (d : Dup) (i : Nat) : List Word → Dup
  | [] => d
  | w :: ws => loadArgs (d.writeG i w) (i + 1) ws

/-- The start state of a strand (R18); its first checkpoint is its start. -/
def startCore (s : State) (c t k : Nat) : Core :=
  let x := placeCore s c t k
  let tm := s.team t
  let pc : Pc := BitVec.ofNat 12 ((tm.entries[k]?).getD 0)
  let d := loadArgs x.dup 0 tm.args
  { x with dup := d, pc := pc, ck := ⟨d, pc, .user, 0⟩ }

/-! ### Codes of the register block (R135, R361) -/

def modeCode (m : Mode) : Nat := match m with | .user => 0 | .priv => 1 | .handler => 2
def modeOf (n : Nat) : Mode := match n with | 0 => .user | 1 => .priv | _ => .handler

/-- A half holds nothing to fetch. -/
def halfEmpty (h : Half) : Bool := !h.installed && !h.copying

/-- The special source segs (R135). For an empty half it shows the segment last named, or 0 (DESIGN CHOICE, log entry 68). -/
def segsWord (s : State) (c : Nat) : Nat :=
  let x := s.core c
  if !multiSeg (imgOf s c) then 0
  else b2n (halfEmpty x.half1) <<< 17 + b2n (halfEmpty x.half0) <<< 16 + (x.half1.seg.getD 0 % 256) <<< 8
    + x.half0.seg.getD 0 % 256

def gStCode (st : GSt) : Nat := match st with | .full => 0 | .empty => 1 | .poison 0 => 2 | .poison _ => 3
def gCause (st : GSt) : Nat := match st with | .poison c => c | _ => 0

/-- A register that an outstanding rld left empty is recorded as poisoned, without cause (R306). -/
def savedSt (st : GSt) : GSt := match st with | .empty => .poison 0 | x => x

/-- Narrow and wide numbers in order (R157, R158). -/
def narrowPorts : List Nat := (span 0x040 41).filter (fun n => !widePorts.contains n)
def narrowLatches : List Nat := (span 0x080 21).filter (fun n => !wideLatches.contains n)

/-- `n` values in order, read from a table by number, packed in `w` bits each. -/
def packNums (w : Nat) (get : Nat → Nat) (ns : List Nat) : Nat := packList w (ns.map get)

/-! ### Rows of a frame (R360, R361) -/

/-- The channel row: the unused bits hold what the spec gives no place: the items that sskip has still to pass, and the
vector of a fault. -/
def chanFrame (x : Core) (k : Nat) : Nat :=
  let h := x.dup.chanOf k
  let r := x.chanRun k
  h.desc.toNat + (match h.grp with | some p => p.toNat | none => 0) <<< 512 + b2n h.grp.isSome <<< 576
    + chStateCode h.st <<< 577 + (h.skip % 2 ^ 61) <<< 579 + (vecWord1 h.pos).toNat <<< 640 + (vecWord2 h.pos).toNat <<< 704
    + (statWord x k 0).toNat <<< 768 + (statWord x k 3).toNat <<< 832 + (vecWord1 r.fvec).toNat <<< 896
    + (vecWord2 r.fvec).toNat <<< 960

/-- The link-queue entry of row 80; bits 10:6 hold the number of rows, and bit 11 that the queue is draining. -/
def lqFrame (q : LinkQ) : Nat :=
  b2n q.bound + b2n q.out <<< 1 + q.rlen <<< 2 + b2n q.failed <<< 5 + (min q.rows.length 16) <<< 6 + b2n q.drain <<< 11 + q.key <<< 32
    + (q.omask % 2 ^ 16) <<< 64 + (min q.credits 31) <<< 80 + (q.seq % 2 ^ 32) <<< 96

/-- Row `r` of the register block of a core whose registers are at its checkpoint. -/
def regFrame (s : State) (c r : Nat) : Nat :=
  let x := s.core c
  let d := x.dup
  if r < 4 then packNums 64 (fun i => (d.greg i).val.toNat) (span (16 * r) 16)
  else if r = 4 then
    packNums 2 (fun i => gStCode (savedSt (d.greg i).st)) (span 0 64)
      + packNums 8 (fun i => gCause (d.greg i).st) (span 0 64) <<< 128
  else if r = 5 then
    d.c.toNat + d.loops.length <<< 8 + modeCode x.ck.mode <<< 12 + b2n (x.run == .exited) <<< 14 + x.ck.pc.toNat <<< 16
      + (segAt s c x.ck.pc % 256) <<< 28 + (x.cyc % 2 ^ 64) <<< 64 + segsWord s c <<< 128
      + (match d.arrival with | some (i, g) => (i % 2 ^ 12) <<< 192 + (g % 2 ^ 16) <<< 204 + 1 <<< 220 | none => 0)
  else if r = 6 then
    packList 128 (d.loops.map (fun e => e.start.toNat + e.stop.toNat <<< 16 + e.count <<< 32 + e.i <<< 64))
  else if r < 39 then (d.vreg (r - 7)).toNat
  else if r < 55 then packNums 64 (fun i => (d.spillReg i).toNat) (span (16 * (r - 39)) 16)
  else if r < 62 then (d.wport ((widePorts[r - 55]?).getD 0)).toNat
  else if r < 65 then packNums 64 (fun n => (d.port n).toNat) ((narrowPorts.drop (16 * (r - 62))).take 16)
  else if r < 70 then (d.wlatch ((wideLatches[r - 65]?).getD 0)).toNat
  else if r = 70 then packNums 64 (fun n => (d.latch n).toNat) narrowLatches
  else if r = 71 then packNums 128 (fun m => (d.mdOf m).base.toNat + (d.mdOf m).w1.toNat <<< 64) (span 0 8)
  else if r < 80 then chanFrame x (r - 72)
  else if r = 80 then packNums 128 (fun q => lqFrame (x.lqOf q)) (span 0 8)
  else 0

/-- First and last part of the array image that frame rows hold, as (part, row). -/
def imagePlace (j : Nat) : Nat × Nat :=
  if j < 544 then (j / 136, j % 136) else if j < 1056 then (4 + (j - 544) / 256, (j - 544) % 256) else (6, j - 1056)

/-- Row `j` of the frame of core `c`; banks of partitions stay with their pins (R360). -/
def frameRow (s : State) (c j : Nat) : Nat :=
  let x := s.core c
  if j < 2560 then (if pinnedBank s (c / 4) (j / 160) then 0 else (spadLoad x.spad x.spadBad (1024 * j) 1024).1)
  else if j < 3584 then
    let b := (j - 2560) / 64
    if pinnedBank s (c / 4) b then 0
    else packNums 64 (fun i => (tagSeen x b i).toNat) (span (16 * ((j - 2560) % 64)) 16)
  else if j < 4646 then let (p, i) := imagePlace (j - 3584); imageRow x p i
  else if j < 4742 then regFrame s c (j - 4646)
  else
    let q := x.lqOf ((j - 4742) / 64)
    match q.rows[(j - 4742) % 64 / 4]? with
    | some r => fld r.v (1024 * ((j - 4742) % 4) + 1023) (1024 * ((j - 4742) % 4))
    | none => 0

def frameRowsPerCore : Nat := 5254

/-- The stored rows of one core, from row `j`: those that are not zero (R360). -/
def coreRows (s : State) (c k j : Nat) : Nat → Tab Nat
  | 0 => []
  | n + 1 =>
    let v := frameRow s c j
    if v = 0 then coreRows s c k (j + 1) n else (frameRowsPerCore * k + j, v) :: coreRows s c k (j + 1) n

/-- The stored rows of a team, its cores from number `k`. -/
def teamRows (s : State) (k : Nat) : List Nat → Tab Nat
  | [] => []
  | c :: cs => coreRows s c k 0 frameRowsPerCore ++ teamRows s (k + 1) cs

/-! ### The frame pool (R126) -/

/-- Translate a pool address: a 2 MiB or 1 GiB leaf with nf set and group 7 read and write. A miss that would wait for a park slot
has waited before the save or restore began (`poolOpen`). -/
def frameXlate (s : State) (a : Nat) (wr : Bool) : State × Option Nat :=
  match descriptor s 0 with
  | (s, none) => (s, none)
  | (s, some d) =>
    if decide (region a < 1) || decide (7 < region a) then (s, none)
    else match findLeaf s d 0 a gMgmt true with
      | (s, some (.leaf e l p, ps)) =>
        if flag e 7 && (l == 1 || l == 2) && allowed (fld e 63 48) gMgmt 2 then
          ((leafEnt 0 a e l p :: ps).foldl cachePut (touchLeaf s p e wr), some (fld e 41 19 * 2 ^ 19 + a % 2 ^ leafSize l))
        else (s, none)
      | (s, _) => (s, none)

/-- Every MTU takes a miss of group 7: a frame access waits for that, since it never parks (R118, R126). -/
def poolOpen (s : State) : Bool := (span 0 8).all (fun m => !slotsFull s m gMgmt)

/-- Pool address of row `r` of a frame in slot `k` with extension `x`. -/
def frameAddr (s : State) (k x r : Nat) : Nat :=
  s.xl.framebase + (if r < 16384 then 2 ^ 24 * k + 1024 * r else 2 ^ 24 * x + 1024 * (r - 16384))

/-- Write a row at its four sectors. -/
def writeSectors (s : State) (p v : Nat) : Nat → State
  | 0 => s
  | n + 1 => writeSectors (storePart s p 256 (v % 2 ^ 256)).1 (p + 256) (v >>> 256) n

/-- Write rows; the address of the first that faults. -/
def writeRows (s : State) (k x : Nat) : List (Nat × Nat) → State × Option Nat
  | [] => (s, none)
  | (r, v) :: rest =>
    let a := frameAddr s k x r
    match frameXlate s a true with
    | (s, none) => (s, some a)
    | (s, some p) => writeRows (writeSectors s p v 4) k x rest

/-- Read rows; the address of the first that faults or holds an uncorrectable sector. -/
def readRows (s : State) (k x : Nat) : List Nat → State × Except Nat (List Nat)
  | [] => (s, .ok [])
  | r :: rest =>
    let a := frameAddr s k x r
    match frameXlate s a false with
    | (s, none) => (s, .error a)
    | (s, some p) =>
      if (badSector s p 1024).isSome then (s, .error a)
      else
        let v := hbmBits s.hbm p 1024
        match readRows s k x rest with
        | (s, .ok vs) => (s, .ok (v :: vs))
        | r => r

/-- The header of a frame: words 0 to 5 (R359). -/
def frameHeader (s : State) (t ext : Nat) (reason : Nat) : Nat :=
  let tm := s.team t
  let h := teamPin s t
  let p := s.pin h
  let aff := draftOf (s.req tm.tag) 6
  packList 64 [
    0x5746524D <<< 32 + 1 <<< 24 + (reason % 16) <<< 20 + (tm.exited % 16) <<< 16 + (tm.n - 1) % 4,
    tm.tag, tm.weight, ext,
    if h = 0 then 0
    else (h % 2 ^ 16) <<< 48 + (p.first % 16) <<< 44 + (p.count % 32) <<< 39 + (if aff = 0 then 0 else 1) <<< 38
      + (p.home / 16 % 4 * 16 + p.home % 16) <<< 32,
    s.fe.time.toNat]

/-- The row map as 21 rows (R358, R360). -/
def frameMap (rows : Tab Nat) : Nat := rows.foldl (fun m e => m + 1 <<< e.1) 0

/-- Slice a value into rows of 1,024 bits, numbered from `r`. -/
def sliceRows (r v : Nat) : Nat → List (Nat × Nat)
  | 0 => []
  | n + 1 => (r, v % 2 ^ 1024) :: sliceRows (r + 1) (v >>> 1024) n

/-- Number a list of rows. -/
def numberRows (r : Nat) : List Nat → List (Nat × Nat)
  | [] => []
  | v :: vs => (r, v) :: numberRows (r + 1) vs

/-- A frame needs its extension slot (R358). -/
def needsExt (rows : Tab Nat) : Bool := decide (16384 < 32 + rows.length)

/-- Frame rows that rows arriving while team `t` is saved can add (R314): four for each free row of an inbound queue. -/
def growth (s : State) (cores : List Nat) : Nat :=
  (cores.flatMap (fun c => (span 0 8).map (fun n =>
    let q := (s.core c).lqOf n
    if q.bound && !q.out then 4 * (16 - q.rows.length) else 0))).sum

/-- Write a whole frame; the address of a fault. -/
def writeFrame (s : State) (t k x reason : Nat) (grown : Bool) (rows : Tab Nat) : State × Option Nat :=
  let ext := if grown then s.xl.framebase + 2 ^ 24 * x else 0
  writeRows s k x (sliceRows 0 (frameHeader s t ext reason) 4 ++ sliceRows 4 (frameMap rows) 21 ++ sliceRows 25 0 7
    ++ numberRows 32 (rows.map (·.2)))

/-- The indices of the set bits of a map below `n`, from `i`. -/
def mapBits (m i : Nat) : Nat → List Nat
  | 0 => []
  | n + 1 => if bit m i then i :: mapBits m (i + 1) n else mapBits m (i + 1) n

/-- Read a frame: its header and its rows; the address of a fault. -/
def readFrame (s : State) (k x n : Nat) : State × Except Nat (Nat × Tab Nat) :=
  match readRows s k x (span 0 25) with
  | (s, .error a) => (s, .error a)
  | (s, .ok vs) =>
    let hdr := packList 1024 (vs.take 4)
    let is := mapBits (packList 1024 (vs.drop 4)) 0 (frameRowsPerCore * n)
    match readRows s k x (span 32 is.length) with
    | (s, .error a) => (s, .error a)
    | (s, .ok rs) => (s, .ok (hdr, List.zip is rs))

/-! ### Saving (R357, R358) -/

/-- A strand no longer issues: it has yielded, was forced, or has exited (R356). -/
def strandOut (x : Core) : Bool := x.run == .yielded || x.run == .exited

/-- Every strand of the team no longer issues. -/
def teamOut (s : State) (t : Nat) : Bool := (s.team t).cores.all (fun c => strandOut (s.core c))

/-- An access that a save waits for: a released store not yet sent, a reply that belongs to the checkpoint, an access to a
team peer (R178, R223, R357). Parked stores and acknowledgements do not hold it. -/
def holdsSave (x : Core) (a : Acc) : Bool :=
  some a.team == x.team && stands a && (match a.op with
    | .send _ | .dwr => !a.sent && a.parked.isEmpty
    | .ld _ | .ovl _ _ | .drd | .peerLd _ | .resq _ | .atomic _ _ => true
    | .peerSt | .peerBor => true
    | .hbar => true
    | .connect _ => !a.held
    | .sout _ _ _ => a.peer != 0 && !a.sent
    | _ => false)

/-- The core has nothing left that a save waits for. -/
def coreQuiet (x : Core) : Bool :=
  !x.accs.any (holdsSave x) && !dueLeft x && (match x.divide with | some d => d.discard | none => true)

/-- A team of a gang is saved only when every team of the gang has come this far (R24, R357). -/
def gangOut (s : State) (t : Nat) : Bool :=
  (gangMates s t).all (fun m => (s.team m).st == .saved || teamOut s m)

/-- The team may be saved (R357, R358). -/
def canSave (s : State) (t : Nat) : Bool :=
  let tm := s.team t
  (tm.st == .requested || tm.st == .forcing) && teamOut s t && gangOut s t && tm.cores.all (fun c => coreQuiet (s.core c))
    && decide (2 ≤ (freeSlots s).length) && poolOpen s

/-- Queues of core `c` whose released rows go into the frame, with their numbers (R314). -/
def sentLater (x : Core) : List (Nat × LinkQ) :=
  (span 0 8).filterMap (fun n =>
    let q := x.lqOf n
    let rows := q.rows.filter (·.rel)
    if q.out && !rows.isEmpty then some (n, { q with bound := false, drain := true, rows := rows, resv := 0 }) else none)

/-- The tag entries that a save reads and finds uncorrectable are logged (R192). -/
def logTags (s : State) (c : Nat) : State :=
  ((s.core c).tagsBad.filter (fun w => !pinnedBank s (c / 4) (w / bankTags))).foldl
    (fun s w => (tagRead s c (w / bankTags) (w % bankTags)).1) s

/-- The registers that the frame of a core holds: its checkpoint state. -/
def atCkpt (x : Core) : Core := { x with dup := x.ck.dup, pc := x.ck.pc, mode := x.ck.mode }

/-- What stays on a core that a saved team leaves: as for any strand, but its bindings and the rows of
draining queues are in the frame (R314), and an rld no longer counts (R306). -/
def leaveSaved (s : State) (c : Nat) : State :=
  (dropParks s (readPark c)).onCore c (fun x =>
    let y := (span 0 8).foldl (fun x n => x.setLq n LinkQ.init) x
    clearCore { y with accs := y.accs.filter (fun a => match a.op with | .connect _ | .rld _ => false | _ => true) })

/-- Write the frame of a team and release its cores; a fault kills it (R126, R357). A frame that the rows of its inbound queues can
still fill keeps its extension (R314, R358). -/
def saveTeam (s : State) (t : Nat) : State :=
  match freeSlots s with
  | k :: x :: _ =>
    let s := (s.team t).cores.foldl (fun s c => s.onCore c atCkpt) ((s.team t).cores.foldl logTags s)
    let tm := s.team t
    let rows := teamRows s 0 tm.cores
    let grown := decide (16384 < 32 + rows.length + growth s tm.cores)
    (match writeFrame s t k x tm.reason grown rows with
      | (s, some a) => killTeam s t eFramefault a (firstCore s t) 0
      | (s, none) =>
        let outq := tm.cores.flatMap (fun c => sentLater (s.core c))
        let s := tm.cores.foldl leaveSaved s
        s.setTeam t { tm with st := .saved, cores := [], slot := some k, ext := if grown then some x else none, outq := outq })
  | _ => s

/-- TEAM_SAVE (R357). -/
def execTeamSave (team : Nat) (s : State) : Out := .next (if canSave s team then saveTeam s team else s)

/-! ### Restoring (R359, R362) -/

/-- The header belongs to this team's launch (R359). -/
def headerOk (s : State) (t hdr : Nat) : Bool :=
  bits hdr 63 32 == 0x5746524D && bits hdr 31 24 == 1 && bits hdr 127 64 == (s.team t).tag

/-- Restore the state of G register `i`. -/
def gOf (val st cause : Nat) : GReg :=
  ⟨wordN val, match st with | 0 => .full | 1 => .empty | 2 => .poison 0 | _ => .poison cause⟩

/-- A channel from its row. -/
def chanOfFrame (v : Nat) : ChDup × ChRun :=
  let w0 := bits v 831 768
  let pos := vecOf (wordN (bits v 703 640)) (wordN (bits v 767 704))
  let h : ChDup :=
    { st := match bits v 578 577 with | 0 => .unbound | 1 => .idle | 2 => .running | _ => .done,
      desc := BitVec.ofNat 512 v, grp := if bit v 576 then some (wordN (bits v 575 512)) else none, pos := pos, cons := 0,
      skip := bits v 639 579 }
  let cons := if h.grp.isSome then walkTotal h - bits w0 31 0 else vecOrd h ChRun.init pos
  ({ h with cons := if h.st == .unbound then 0 else cons },
    { ChRun.init with flt := bit w0 61, fcode := bits w0 60 56, ecc := bit w0 55, lod := bit w0 54, drop := bit w0 53,
                      fvec := vecOf (wordN (bits v 959 896)) (wordN (bits v 1023 960)), eccn := bits v 895 864,
                      lodn := bits v 863 832 })

/-- A link queue from its entry and its rows. -/
def lqOfFrame (s : State) (v : Nat) (row : Nat → Nat) : LinkQ :=
  if !bit v 0 && !bit v 11 then LinkQ.init
  else
    let h := bits v 127 96
    let (dom, mem, ctx) := match s.fab.flows.find? (fun e => e.1 == h) with | some (_, d, m, c) => (d, m, c) | none => (0, 0, 0)
    { bound := bit v 0, out := bit v 1, rlen := bits v 4 2, failed := bit v 5, key := bits v 63 32, omask := bits v 79 64,
      credits := bits v 84 80, drain := bit v 11, tdom := dom, tmem := mem, tctx := ctx,
      rows := (span 0 (bits v 10 6)).map (fun i => ⟨BitVec.ofNat 4096 (row i), true, 0⟩), held := [], resv := 0,
      seq := h }

/-- The duplicate registers from the rows of the register block. -/
def dupOfFrame (reg : Nat → Nat) (d : Dup) : Dup :=
  let d := (span 0 64).foldl (fun d i => d.setG i
    (gOf (bits (reg (i / 16)) (64 * (i % 16) + 63) (64 * (i % 16))) (bits (reg 4) (2 * i + 1) (2 * i))
      (bits (reg 4) (8 * i + 135) (8 * i + 128)))) d
  let loops := (span 0 (bits (reg 5) 10 8)).map (fun l =>
    let e := bits (reg 6) (128 * l + 127) (128 * l)
    (⟨BitVec.ofNat 12 e, BitVec.ofNat 12 (e >>> 16), bits e 63 32, bits e 95 64⟩ : LoopEnt))
  let d := (span 0 32).foldl (fun d i => d.setV i (BitVec.ofNat 1024 (reg (7 + i)))) d
  let d := (span 0 256).foldl (fun d i => d.setSpill i (wordN (reg (39 + i / 16) >>> (64 * (i % 16))))) d
  let d := (span 0 7).foldl (fun d i => d.setWport ((widePorts[i]?).getD 0) (BitVec.ofNat 1024 (reg (55 + i)))) d
  let d := (span 0 34).foldl (fun d i => d.setPort ((narrowPorts[i]?).getD 0) (wordN (reg (62 + i / 16) >>> (64 * (i % 16))))) d
  let d := (span 0 5).foldl (fun d i => d.setWlatch ((wideLatches[i]?).getD 0) (BitVec.ofNat 1024 (reg (65 + i)))) d
  let d := (span 0 16).foldl (fun d i => d.setLatch ((narrowLatches[i]?).getD 0) (wordN (reg 70 >>> (64 * i)))) d
  let d := (span 0 8).foldl (fun d m => d.setMd m ⟨wordN (reg 71 >>> (128 * m)), wordN (reg 71 >>> (128 * m + 64))⟩) d
  let d := (span 0 8).foldl (fun d k => d.setChan k (chanOfFrame (reg (72 + k))).1) d
  { d with c := BitVec.ofNat 7 (reg 5), loops := loops,
           arrival := if bit (reg 5) 220 then some (bits (reg 5) 203 192, bits (reg 5) 219 204) else none }

/-- A half from segs (R105); an empty one keeps the number last named (R104). -/
def halfOf (segs h : Nat) : Half :=
  let k := bits segs (8 * h + 7) (8 * h)
  if bit segs (16 + h) then ⟨if k = 0 then none else some k, false, false, false⟩ else ⟨some k, false, true, false⟩

/-- A core from the rows of team-relative core `k`; its segments are still to be copied in (R105, R362). -/
def restoreCore (s : State) (c t k : Nat) (rows : Tab Nat) : Core :=
  let row := fun (j : Nat) => Tab.get 0 rows (frameRowsPerCore * k + j)
  let reg := fun (r : Nat) => row (4646 + r)
  let x := placeCore s c t k
  let x := (span 0 2560).foldl (fun x j =>
    if pinnedBank s (c / 4) (j / 160) || row j = 0 then x else { x with spad := spadWords (16 * j) (row j) 16 x.spad }) x
  let x := (span 0 16384).foldl (fun x i =>
    let v := wordN (row (2560 + i / 16) >>> (64 * (i % 16)))
    if pinnedBank s (c / 4) (i / 1024) || v = 0 then x else { x with tags := Tab.set 0 i v x.tags }) x
  let x := (span 0 1062).foldl (fun x j => let (p, i) := imagePlace j; placeRow x p i (row (3584 + j))) x
  let d := dupOfFrame reg x.dup
  let x := (span 0 8).foldl (fun x q =>
    x.setChanRun q { (chanOfFrame (reg (72 + q))).2 with place := x.nextId }) x
  let x := (span 0 8).foldl (fun x q => x.setLq q (lqOfFrame s (bits (reg 80) (128 * q + 127) (128 * q))
    (fun i => packList 1024 ((span 0 4).map (fun j => row (4742 + 64 * q + 4 * i + j)))))) x
  let pc : Pc := BitVec.ofNat 12 (bits (reg 5) 27 16)
  let m := modeOf (bits (reg 5) 13 12)
  let segs := bits (reg 5) 145 128
  let multi := multiSeg (s.req (s.team t).tag).img
  { x with
    dup := d, pc := pc, mode := m, tmode := m, cyc := bits (reg 5) 127 64, ck := ⟨d, pc, m, bits (reg 5) 127 64⟩,
    run := if bit (reg 5) 14 then .exited else .waiting,
    half0 := if multi then halfOf segs 0 else ⟨some 0, false, true, false⟩,
    half1 := if multi then halfOf segs 1 else Half.init }

/-- Slot numbers that a team's frame holds. -/
def slotOf (tm : Team) : Nat := tm.slot.getD 0
def extOf (tm : Team) : Nat := tm.ext.getD 0

/-- The rows of a frame enter the cores of the team. -/
def loadCores (s : State) (t : Nat) (rows : Tab Nat) (k : Nat) : List Nat → State
  | [] => s
  | c :: cs => loadCores (s.setCore c (restoreCore s c t k rows)) t rows (k + 1) cs

/-- Accesses of the team that are still on their way from where it was: released stores, output-stream writes and whatever else has
yet to perform there (R251). -/
def leftBehind (s : State) (t : Nat) : Bool := s.cores.any (fun e => e.2.accs.any (fun a => a.team == t && stands a && !isFence a))

/-- The partition that the team names has come to its cluster (R362). -/
def pinHere (s : State) (t : Nat) : Bool :=
  let h := teamPin s t
  h == 0 || ((s.pin h).st != 1 && (s.pin h).home == (s.team t).cluster)

/-- Read the frame back; a fault or a wrong header kills the team (R126, R359). The strands wait for their segments
(R362). -/
def restoreTeam (s : State) (t : Nat) : State :=
  let tm := s.team t
  match readFrame s (slotOf tm) (extOf tm) tm.n with
  | (s, .error a) => killTeam s t eFramefault a (firstCore s t) 0
  | (s, .ok (hdr, rows)) =>
    if !headerOk s t hdr then killTeam s t eFramefault (frameAddr s (slotOf tm) (extOf tm) 0) (firstCore s t) 0
    else
      let s := loadCores s t rows 0 tm.cores
      let s := tm.cores.foldl (fun s c => (span 0 8).foldl (fun s k => startRead s c k) s) s
      s.setTeam t { tm with st := .placed, slot := none, ext := none, filled := true, reason := 0, outq := [] }

/-- TEAM_RESTORE (R357, R362). -/
def execTeamRestore (team : Nat) (s : State) : Out :=
  .next (if (s.team team).st == .restoring && pinHere s team && !leftBehind s team && poolOpen s then restoreTeam s team else s)

/-! ### The frame of a saved team changes (R311, R314, R359, R362) -/

/-- The reason in the header of a saved team's frame (R359); a fault kills the team (R126). -/
def writeReason (s : State) (t reason : Nat) : State :=
  let a := frameAddr s (slotOf (s.team t)) 0 0
  let at_ := fun (s : State) (p : Nat) => (physWord s p).getD 0
  match frameXlate s a true with
  | (s, none) => killTeam s t eFramefault a (firstCore s t) 0
  | (s, some p) => physPut s p (setFld (at_ s p) 23 20 reason)

/-- Change the rows of a saved team's frame, within the slots that its save kept. -/
def editFrame (s : State) (t : Nat) (f : Tab Nat → Tab Nat) : State :=
  let tm := s.team t
  match readFrame s (slotOf tm) (extOf tm) tm.n with
  | (s, .error a) => killTeam s t eFramefault a (firstCore s t) 0
  | (s, .ok (hdr, rows)) =>
    let rows := f rows
    match writeRows s (slotOf tm) (extOf tm) (sliceRows 0 hdr 4 ++ sliceRows 4 (frameMap rows) 21 ++ sliceRows 25 0 7
        ++ numberRows 32 (rows.map (·.2))) with
    | (s, none) => s
    | (s, some a) => killTeam s t eFramefault a (firstCore s t) 0

/-- Index of row 80 of core `k`, and of row `i` of queue `q`. -/
def lqEntryRow (k : Nat) : Nat := frameRowsPerCore * k + 4646 + 80
def lqRowBase (k q i : Nat) : Nat := frameRowsPerCore * k + 4742 + 64 * q + 4 * i

/-- A row that arrives for a saved team's queue `q` (R314). -/
def frameAddRow (k q : Nat) (v : Col) (rows : Tab Nat) : Tab Nat :=
  let e := Tab.get 0 rows (lqEntryRow k)
  let n := bits e (128 * q + 10) (128 * q + 6)
  let rows := Tab.set 0 (lqEntryRow k) (putBits e (128 * q + 6) 5 (n + 1)) rows
  (span 0 4).foldl (fun rows j => Tab.set 0 (lqRowBase k q n + j) (fld v (1024 * j + 1023) (1024 * j)) rows) rows

/-- Where flow handle `h` stands in the frame rows of a team of `n`: its core and queue. -/
def findHandle (rows : Tab Nat) (n h : Nat) : Option (Nat × Nat) :=
  (span 0 (8 * n)).findSome? (fun i =>
    let e := Tab.get 0 rows (lqEntryRow (i / 8))
    let v := bits e (128 * (i % 8) + 127) (128 * (i % 8))
    if (bit v 0 || bit v 11) && bit v 1 && bits v 127 96 == h then some (i / 8, i % 8) else none)

/-- The saved team whose frame holds flow handle `h`. -/
def savedHandle (s : State) (h : Nat) : Option (Nat × Nat × Nat) :=
  s.fe.teams.findSome? (fun e =>
    if e.2.slot.isNone then none
    else match (readFrame s (slotOf e.2) (extOf e.2) e.2.n).2 with
      | .ok (_, rows) => (findHandle rows e.2.n h).map (fun p => (e.1, p.1, p.2))
      | .error _ => none)

/-- The link queue of flow handle `h` in the frame of team `t` changes: what a kill of the team would still send (R314). -/
def editSent (s : State) (t h : Nat) (f : LinkQ → LinkQ) : State :=
  s.updTeam t (fun tm => { tm with outq := tm.outq.map (fun e => if e.2.seq % 2 ^ 32 = h then (e.1, f e.2) else e) })

/-- `n` credits for queue `q` of core `k`. -/
def frameAddCredits (k q n : Nat) (rows : Tab Nat) : Tab Nat :=
  let e := Tab.get 0 rows (lqEntryRow k)
  let c := bits e (128 * q + 84) (128 * q + 80)
  Tab.set 0 (lqEntryRow k) (putBits e (128 * q + 80) 5 (min 31 (c + n))) rows

/-- The connect of queue `q` of core `k` failed (R312). -/
def frameFail (k q : Nat) (rows : Tab Nat) : Tab Nat :=
  let e := Tab.get 0 rows (lqEntryRow k)
  Tab.set 0 (lqEntryRow k) (putBits e (128 * q + 5) 1 1) rows

end Sys2Proof.Machine
end

