-- ==== Sys2Proof/Machine/Lerant.lean ====
section
/-!
DEFINITION. The scanner, the interpreters and the bytecodes of Lerant (R57 to R68). A bytecode acts on the interpreter
`cur`; the packet's end, its records and the release of the queue stand here once.
-/
namespace Sys2Proof.Machine

/-! ### What the front end reads -/

/-- Uncorrectable sectors that the front end reads supply zeros and are logged. -/
def queueEcc (s : State) (q : Nat) (es : List Nat) : State := logBads s (s.queue q).ctx 0 q (es.map sectorBase)

/-- An address that no rule states, for a record that needs one. -/
def freeAddr (s : State) : State × Nat := ((draw s).1, Config.pick (draw s).2 % 2 ^ 56)

/-! ### Queues and their binding (R61 to R64) -/

def widxOf (s : State) (q : Nat) : Nat := Tab.get 0 s.fe.widx q

/-- Packets that wait in the ring. -/
def backlog (s : State) (q : Nat) : Nat := (widxOf s q + 2 ^ 32 - (s.queue q).ridx % 2 ^ 32) % 2 ^ 32

def isBound (s : State) (q : Nat) : Bool := s.fe.ip.any (fun e => e.2.queue == some q)

/-- The interpreter that holds queue `q`. -/
def holderOf (s : State) (q : Nat) : Option Nat := (s.fe.ip.find? (fun e => e.2.queue == some q)).map (·.1)

/-- A free interpreter takes the queue; otherwise it waits in the order of its poll (R64). -/
def bindQueue (s : State) (q : Nat) : State :=
  match (span 0 16).find? (fun k => (s.interp k).queue.isNone) with
  | some k => s.setInterp k { Interp.init with queue := some q }
  | none => { s with fe := { s.fe with waitq := s.fe.waitq ++ [q] } }

/-- A queue leaves for state `st`: unmapped zeroes ridx and pemit (R62, R68). A queue that its packet has put in error stays so, and a
halt that waited for the packet is dropped (DESIGN CHOICE, log entry 72). -/
def applyState (x : Queue) (st : Nat) : Queue :=
  if st = 0 then { x with st := 0, ridx := 0, pemit := 0, want := none }
  else { x with st := if x.st = 1 then st else x.st, want := none }

/-- The interpreter releases its queue: a state write that waited takes effect, the next poll is due in 50 ns, and the queue
that has waited longest is bound (R62 to R64). -/
def releaseInterp (s : State) (k : Nat) : State :=
  match (s.interp k).queue with
  | none => s
  | some q =>
    let x := s.queue q
    let x := match x.want with | some st => applyState x st | none => x
    let s := ((clearParts s (.interp k)).setInterp k Interp.init).setQueue q { x with next := s.fe.time.toNat + 50 }
    match s.fe.waitq with
    | [] => s
    | p :: r => bindQueue { s with fe := { s.fe with waitq := r } } p

/-- The binding ends: a state write waits, the queue no longer runs, eight packets are done, or the ring is empty (R64). -/
def bindingOver (s : State) (k q : Nat) : Bool :=
  (s.queue q).want.isSome || (s.queue q).st != 1 || decide (8 ≤ (s.interp k).done) || backlog s q == 0

/-- The packet of interpreter `k` ends; ridx advances unless it stopped or faulted (R64, R68). -/
def endPacket (s : State) (k : Nat) (adv : Bool) : State :=
  match (s.interp k).queue with
  | none => s
  | some q =>
    let x := s.queue q
    let s := clearParts s (.interp k)
    let s := if adv then s.setQueue q { x with ridx := (x.ridx + 1) % 2 ^ 32, pemit := 0 } else s
    let i := s.interp k
    let s := s.setInterp k { i with busy := false, pend := none, done := i.done + 1 }
    if bindingOver s k q then releaseInterp s k else s

/-- More packets than slots: error state with code qoverflow (R61, R62). -/
def queueOverflow (s : State) (q : Nat) : State :=
  let x := s.queue q
  let s := s.setQueue q { x with st := 2 }
  let (s, a) := freeAddr s
  queueErr (logErr s eQoverflow a x.ctx 0 q 0) q eQoverflow a 0 q 0

/-- A record of the packet in progress, in the queue's error area (R67, R70). -/
def packetErr (s : State) (q code : Nat) (detail : Word) : State :=
  let (s, a) := freeAddr s
  queueErr s q code a 0 q detail

/-- The packet is rejected: its record, and ridx advances (R64, R67, R70). -/
def rejectPacket (s : State) (k q code : Nat) (detail : Word) : State := endPacket (packetErr s q code detail) k true

/-- The packet meets a fault on the ring or the parameter area (R62). -/
def faultPacket (s : State) (k q code a : Nat) : State := endPacket (queueFault s q code a) k false

/-! ### The scanner (R63) -/

/-- No queue runs in recovery mode; only system-context queues run while the management cores are held (R77). -/
def mayRun (s : State) (q : Nat) : Bool := !s.firm.recovery && (!s.firm.mgmtHeld || (s.queue q).ctx == 0)

/-- Running, due, and neither bound nor waiting for an interpreter. DESIGN CHOICE (log entry 22): due compares FE_TIME with the
queue's next poll as numbers, so a write of FE_TIME moves it. -/
def isDue (s : State) (q : Nat) : Bool :=
  let x := s.queue q
  x.st == 1 && mayRun s q && decide (x.next ≤ s.fe.time.toNat) && !isBound s q && !s.fe.waitq.contains q

/-- Distance of a queue from the last polled one, in ascending numbers with the wrap at 16,383. -/
def pollDist (s : State) (q : Nat) : Nat := (q + 16384 - s.fe.lastPoll % 16384 - 1) % 16384

/-- No other due queue comes before `q`. -/
def isPollTurn (s : State) (q : Nat) : Bool :=
  isDue s q && s.fe.q.all (fun e => !isDue s e.1 || decide (pollDist s q ≤ pollDist s e.1))

/-- One poll of queue `q` (R61, R63). -/
def pollQueue (s : State) (q : Nat) : State :=
  let x := s.queue q
  let n := backlog s q
  let s := { s with fe := { s.fe with lastPoll := q } }
  let x := { x with seen := widxOf s q }
  if 2 ^ x.lsize < n then queueOverflow (s.setQueue q x) q
  else if n = 0 then
    let k := min (x.ival + 1) 10
    s.setQueue q { x with ival := k, next := s.fe.time.toNat + 50 * 2 ^ k }
  else bindQueue (s.setQueue q { x with ival := 0 }) q

/-- QUEUE_POLL (R63). -/
def execQueuePoll (q : Nat) (s : State) : Out := .next (if isPollTurn s q then pollQueue s q else s)

/-! ### Bytecodes (R67) -/

def getA (x : Interp) (i : BitVec 3) : Word := Tab.get 0 x.a i.toNat
def setA (x : Interp) (i : BitVec 3) (v : Word) : Interp := { x with a := Tab.set 0 i.toNat v x.a }

/-- The end of a `rep` body at the next index: the next pass with its index, or the bytecode after the body (R67). -/
def closeReps (a : Tab Word) (nx : Nat) : List RepFrame → List RepFrame × Nat × Tab Word
  | [] => ([], nx, a)
  | f :: r =>
    if nx = f.last + 1 then
      if f.i + 1 < f.n then ({ f with i := f.i + 1 } :: r, f.first, Tab.set 0 f.reg (wordN (f.i + 1)) a) else closeReps a nx r
    else (f :: r, nx, a)

/-- Go on at index `nx`. -/
def goTo (x : Interp) (nx : Nat) : Interp :=
  let r := closeReps x.a nx x.reps
  { x with reps := r.1, pc := r.2.1, a := r.2.2 }

/-- Write register `a` and go on at the next bytecode. -/
def putNext (x : Interp) (i : BitVec 3) (v : Word) : Interp := goTo (setA x i v) (x.pc + 1)

/-- A branch by `d` when `c` holds. -/
def branchIf (x : Interp) (c : Bool) (d : BitVec 8) : Interp := goTo x (x.pc + if c then d.toNat else 1)

def ipLdpk (a : BitVec 3) (k : BitVec 4) (x : Interp) : Interp := putNext x a (Tab.get 0 x.pkt k.toNat)
def ipLdi (a : BitVec 3) (v : BitVec 20) (x : Interp) : Interp := putNext x a (word v.toInt)
def ipShin (a : BitVec 3) (v : BitVec 20) (x : Interp) : Interp := putNext x a ((getA x a <<< 20) ||| wordN v.toNat)
def ipMov (a b : BitVec 3) (x : Interp) : Interp := putNext x a (getA x b)
def ipAdd (a b : BitVec 3) (x : Interp) : Interp := putNext x a (getA x a + getA x b)
def ipSub (a b : BitVec 3) (x : Interp) : Interp := putNext x a (getA x a - getA x b)
def ipAnd (a b : BitVec 3) (x : Interp) : Interp := putNext x a (getA x a &&& getA x b)
def ipOr (a b : BitVec 3) (x : Interp) : Interp := putNext x a (getA x a ||| getA x b)
def ipExt (a b : BitVec 3) (h l : BitVec 6) (x : Interp) : Interp := putNext x a (wordN (fld (getA x b) h.toNat l.toNat))
def ipAddi (a : BitVec 3) (v : BitVec 20) (x : Interp) : Interp := putNext x a (getA x a + word v.toInt)
def ipBz (a : BitVec 3) (d : BitVec 8) (x : Interp) : Interp := branchIf x (getA x a == 0) d
def ipBnz (a : BitVec 3) (d : BitVec 8) (x : Interp) : Interp := branchIf x (getA x a != 0) d
def ipBeq (a b : BitVec 3) (d : BitVec 8) (x : Interp) : Interp := branchIf x (getA x a == getA x b) d
def ipBltu (a b : BitVec 3) (d : BitVec 8) (x : Interp) : Interp := branchIf x (decide ((getA x a).toNat < (getA x b).toNat)) d

/-- The body's first pass begins with index 0 (R67). -/
def ipRep (a : BitVec 3) (n : BitVec 6) (k : BitVec 5) (x : Interp) : Interp :=
  { setA x a 0 with pc := x.pc + 1, reps := ⟨a.toNat, x.pc + 1, x.pc + 1 + k.toNat, 0, n.toNat + 1⟩ :: x.reps }

def ipSetf (a : BitVec 3) (f : BitVec 5) (x : Interp) : Interp :=
  goTo { x with draft := Tab.set 0 f.toNat (getA x a) x.draft } (x.pc + 1)

/-- Change the interpreter whose bytecode runs. -/
def onIp (s : State) (f : Interp → Interp) : State := s.setInterp s.cur (f (s.interp s.cur))

/-- The queue of the interpreter whose bytecode runs. -/
def curQueue (s : State) : Option Nat := (s.interp s.cur).queue

def feLdsc (a : BitVec 3) (k : BitVec 5) (s : State) : State :=
  match curQueue s with
  | some q => onIp s (fun x => putNext x a (Tab.get 0 (s.queue q).scratch k.toNat))
  | none => s

def feStsc (a : BitVec 3) (k : BitVec 5) (s : State) : State :=
  match curQueue s with
  | some q =>
    let x := s.queue q
    onIp (s.setQueue q { x with scratch := Tab.set 0 k.toNat (getA (s.interp s.cur) a) x.scratch }) (fun y => goTo y (y.pc + 1))
  | none => s

/-- A parameter word is read in the queue's context as group host (R57, R65); the read may park. -/
def feLdpa (a : BitVec 3) (k : BitVec 6) (s : State) : State :=
  match curQueue s with
  | none => s
  | some q =>
    let x := s.queue q
    match whoRead s (.interp s.cur) x.ctx gHost (x.param + 64 * k.toNat) 64 with
    | (s, ⟨_, _, true, _⟩) => s
    | (s, ⟨_, some (code, lo), false, _⟩) => faultPacket s s.cur q code lo
    | (s, ⟨v, none, false, e⟩) => onIp (queueEcc (clearParts s (.interp s.cur)) q e) (fun y => putNext y a (wordN v))

def feTime (a : BitVec 3) (s : State) : State := onIp s (fun x => putNext x a s.fe.time)

def feHalt (s : State) : State := endPacket s s.cur true

def feRej (v : BitVec 16) (s : State) : State :=
  match curQueue s with | some q => rejectPacket s s.cur q eRej (wordN v.toNat) | none => s

/-- `stop`: the record, error state, and ridx and pemit stay (R62, R67, R68). -/
def feStop (v : BitVec 16) (s : State) : State :=
  match curQueue s with
  | some q =>
    let s := packetErr s q eStop (wordN v.toNat)
    endPacket (s.setQueue q { s.queue q with st := 2 }) s.cur false
  | none => s

def execLerantHalt (s : State) : Out := .next (feHalt s)
def execLdpk (a : BitVec 3) (k : BitVec 4) (s : State) : Out := .next (onIp s (ipLdpk a k))
def execLdi (a : BitVec 3) (v : BitVec 20) (s : State) : Out := .next (onIp s (ipLdi a v))
def execShin (a : BitVec 3) (v : BitVec 20) (s : State) : Out := .next (onIp s (ipShin a v))
def execLerantMov (a b : BitVec 3) (s : State) : Out := .next (onIp s (ipMov a b))
def execLerantAdd (a b : BitVec 3) (s : State) : Out := .next (onIp s (ipAdd a b))
def execLerantSub (a b : BitVec 3) (s : State) : Out := .next (onIp s (ipSub a b))
def execLerantAnd (a b : BitVec 3) (s : State) : Out := .next (onIp s (ipAnd a b))
def execLerantOr (a b : BitVec 3) (s : State) : Out := .next (onIp s (ipOr a b))
def execExt (a b : BitVec 3) (h l : BitVec 6) (s : State) : Out := .next (onIp s (ipExt a b h l))
def execAddi (a : BitVec 3) (v : BitVec 20) (s : State) : Out := .next (onIp s (ipAddi a v))
def execBz (a : BitVec 3) (d : BitVec 8) (s : State) : Out := .next (onIp s (ipBz a d))
def execBnz (a : BitVec 3) (d : BitVec 8) (s : State) : Out := .next (onIp s (ipBnz a d))
def execBeq (a b : BitVec 3) (d : BitVec 8) (s : State) : Out := .next (onIp s (ipBeq a b d))
def execBltu (a b : BitVec 3) (d : BitVec 8) (s : State) : Out := .next (onIp s (ipBltu a b d))
def execRep (a : BitVec 3) (n : BitVec 6) (k : BitVec 5) (s : State) : Out := .next (onIp s (ipRep a n k))
def execLdsc (a : BitVec 3) (k : BitVec 5) (s : State) : Out := .next (feLdsc a k s)
def execStsc (a : BitVec 3) (k : BitVec 5) (s : State) : Out := .next (feStsc a k s)
def execLdpa (a : BitVec 3) (k : BitVec 6) (s : State) : Out := .next (feLdpa a k s)
def execSetf (a : BitVec 3) (f : BitVec 5) (s : State) : Out := .next (onIp s (ipSetf a f))
def execLerantRej (v : BitVec 16) (s : State) : Out := .next (feRej v s)
def execLerantStop (v : BitVec 16) (s : State) : Out := .next (feStop v s)
def execLerantTime (a : BitVec 3) (s : State) : Out := .next (feTime a s)

end Sys2Proof.Machine
end

