-- ==== Sys2Proof/Machine/Transfer.lean ====
section
/-!
DEFINITION. Stream transfers (R89): one piece at a time, from and to memory of the queue's context or windows of it.
-/
namespace Sys2Proof.Machine

/-! ### Requests by their draft -/

/-- A request tag (R82). -/
def reqTag (q emit seq : Nat) : Nat := q * 2 ^ 34 + emit * 2 ^ 32 + seq

/-- A range in regions 1 to 7, and one in regions 8 to 13. -/
def isMem (a : Nat) : Bool := decide (1 ≤ region a) && decide (region a ≤ 7)
def isWin (a : Nat) : Bool := decide (8 ≤ region a) && decide (region a ≤ 13)

/-- An error of a request, logged with its queue (R72). -/
def reqErr (s : State) (r : Req) (code a : Nat) : State := logErr s code a r.ctx 0 r.queue 0

/-! ### A piece -/

/-- The next piece of a transfer: source, destination and length. It lies in one destination sector, and in one source
window (R89). -/
def xferPiece (r : Req) : Nat × Nat × Nat :=
  let a := (draftOf r 21).toNat + r.copied
  let b := (draftOf r 22).toNat + r.copied
  let m := min ((draftOf r 23).toNat - r.copied) (256 - b % 256)
  (a, b, if isWin a then min m (2 ^ 40 - a % 2 ^ 40) else m)

/-- The transfer ends with a transfer fault; pieces before the failing one stay performed (R89). -/
def xferFail (s : State) (tag code a : Nat) : State :=
  let s := reqErr (clearParts s (.xfer tag)) (s.req tag) code a
  s.updReq tag (fun r => { r with status := 3, st := 3, asked := none })

/-- A piece is done; after the last write is issued the request is completing (R376). -/
def xferAdvance (s : State) (tag m : Nat) : State :=
  (clearParts s (.xfer tag)).updReq tag (fun r =>
    let k := r.copied + m
    { r with copied := k, st := if (draftOf r 23).toNat ≤ k then 3 else 2 })

/-- Send a request of a transfer through window `w`: class 0, package scope, in tier 2 (R89, R298). -/
def xferSend (s : State) (w : Window) (target op tag off m v wn : Nat) : State :=
  sendFuller s (.xfer tag (op == kLoad) off m) (some ((s.req tag).ctx, wn))
    { windowPacket s w target with tier := 2, scope := 3, op := op, len := m, data := wordN v, body := if 64 < m then BitVec.ofNat 4096 v else 0 }

/-- Uncorrectable source sectors were written as zeros: each is logged (R89). -/
def xferEcc (s : State) (r : Req) (es : List Nat) : State := logBads s r.ctx 0 r.queue (es.map sectorBase).eraseDups

/-- Write a piece of `m` bits (R89). -/
def xferPut (s : State) (tag b m v : Nat) : State :=
  let r := s.req tag
  if isMem b then
    match whoWrite s (.xfer tag) r.ctx gHost b m v with
    | (s, ⟨_, _, true, _⟩) => s
    | (s, ⟨_, some (code, lo), false, _⟩) => xferFail s tag code lo
    | (s, ⟨_, none, false, _⟩) => xferAdvance s tag m
  else match windowFor s r.ctx b .wr with
    | (s, .error code) => xferFail s tag code b
    | (s, .ok (w, t)) =>
      if !fabOn s then xferFail s tag eNoroute b
      else (xferAdvance (xferSend s w t kStore tag r.copied m v (winNo b)) tag m).updReq tag (fun r => { r with out := r.out + 1 })

/-- Read a piece, and write it unless it parks or comes from a window (R89). -/
def xferGet (s : State) (tag : Nat) : State :=
  let r := s.req tag
  let (a, b, m) := xferPiece r
  if isMem a then
    match whoRead s (.xfer tag) r.ctx gHost a m with
    | (s, ⟨_, _, true, _⟩) => s
    | (s, ⟨_, some (code, lo), false, e⟩) => xferFail (xferEcc s r e) tag code lo
    | (s, ⟨v, none, false, e⟩) => xferPut (xferEcc s r e) tag b m v
  else match windowFor s r.ctx a .rd with
    | (s, .error code) => xferFail s tag code a
    | (s, .ok (w, t)) =>
      if !fabOn s then xferFail s tag eNoroute a
      else (xferSend s w t kLoad tag r.copied m 0 (winNo a)).updReq tag (fun r => { r with asked := some r.copied })

/-- A transfer in states 01 or 10 whose next piece has not been asked of another package. -/
def xferReady (s : State) (tag : Nat) : Bool :=
  let r := s.req tag
  s.hasReq tag && r.kind == 1 && (r.st == 1 || r.st == 2) && r.asked.isNone

/-- One piece. The first one takes the request to state 10 (R88). -/
def xferStep (s : State) (tag : Nat) : State :=
  if xferReady s tag then xferGet (s.updReq tag (fun r => { r with st := 2 })) tag else s

/-- TRANSFER_RUN (R89). -/
def execTransferRun (tag : Nat) (s : State) : Out := .next (xferStep s tag)

/-! ### Answers to its requests -/

/-- The data of a read come back: the piece is written. Uncorrectable sectors, which the reply marks, have come as zeros (R89). -/
def xferReply (s : State) (tag off m : Nat) (p : Packet) : State :=
  let r := s.req tag
  if s.hasReq tag && r.asked == some off && r.st == 2 then
    let (_, b, _) := xferPiece r
    let s := xferEcc s r (badUnits p)
    xferPut (s.updReq tag (fun r => { r with asked := none })) tag b m (replyBits p % 2 ^ m)
  else s

/-- A write is acknowledged (R89). -/
def xferAck (s : State) (tag : Nat) : State := s.updReq tag (fun r => { r with out := r.out - 1 })

/-- A request of the transfer has failed: a read ends it at its piece, and a write at the first piece not written (R89). -/
def xferLost (s : State) (tag off code : Nat) (read : Bool) : State :=
  let r := s.req tag
  if !s.hasReq tag then s
  else if read then (if r.asked == some off then xferFail s tag code ((draftOf r 21).toNat + off) else s)
  else (xferFail (xferAck s tag) tag code ((draftOf r 22).toNat + off)).updReq tag (fun r => { r with copied := min r.copied off })

end Sys2Proof.Machine
end

