-- ==== Sys2Proof/Machine/Packets.lean ====
section
/-!
DEFINITION. The packets of the fabric as events (R294 to R314): the ports and their choice, requests at their target, flows and
their credits.
-/
namespace Sys2Proof.Machine

/-! ### Ports (R294, R295, R299) -/

/-- The packets queued for port `q`, oldest first. -/
def portQueue (s : State) (q : Nat) : List Packet := (s.fab.outq.filter (fun e => e.1 == some q)).map (·.2)

/-- FAB_CTL.starve (R316), and the counter c[k] of port `q`. -/
def fabStarve (s : State) : Nat := fld s.fab.ctl 31 16
def starvedOf (s : State) (q k : Nat) : Nat := Tab.get 0 s.fab.starved (4 * q + k)

/-- The tier that a port serves: one that has starved, or the lowest that waits (R299). -/
def servedTier (s : State) (q : Nat) (l : List Packet) : Nat × Bool :=
  match [1, 2].find? (fun k => fabStarve s != 0 && decide (fabStarve s ≤ starvedOf s q k) && l.any (·.tier == k)) with
  | some k => (k, true)
  | none => ((l.map (·.tier)).min?.getD 0, false)

/-- `a` leaves before `b` of its tier: responses first, then the higher hop index (R299). -/
def leavesFirst (a b : Packet) : Bool := if a.resp == b.resp then decide (b.hop < a.hop) else a.resp

/-- The packet of a tier that leaves next; among equals the oldest (R299; log entry 61). -/
def nextOfTier (t : Nat) (l : List Packet) : Option Packet :=
  (l.filter (·.tier == t)).foldl (fun b p => match b with
    | none => some p
    | some b => if leavesFirst p b then some p else some b) none

/-- The counters after a packet of tier `t`: the starved tier starts again, or every waiting higher tier has waited for its flits
(R299; log entry 61). -/
def countWait (s : State) (q t : Nat) (starved : Bool) (l : List Packet) (p : Packet) : Tab Nat :=
  if starved then Tab.set 0 (4 * q + t) 0 s.fab.starved
  else [1, 2].foldl (fun m k =>
    if t < k && l.any (·.tier == k) then Tab.set 0 (4 * q + k) (Tab.get 0 m (4 * q + k) + 1 + p.flits) m else m) s.fab.starved

/-- Port `q` puts the packet of its choice on its link; until the package has an address it carries only link training (R294,
R299). -/
def sendPort (s : State) (q : Nat) : State :=
  let l := portQueue s q
  let (t, starved) := servedTier s q l
  match nextOfTier t l with
  | none => s
  | some p =>
    if !fabOn s then s
    else { s with fab := { s.fab with outq := s.fab.outq.erase (some q, p), wire := s.fab.wire ++ [(q, p)],
                                      starved := countWait s q t starved l p } }

/-- FABRIC_PORT_DOWN (R295): the port leaves FAB_PORTSTAT; what was queued for it takes another way. -/
def execFabricPortDown (port : Nat) (s : State) : Out := .next (setPorts s (s.fab.up &&& (2 ^ 48 - 1 - 2 ^ port % 2 ^ 48)))

/-- FABRIC_PORT_TRAINED (R295). -/
def execFabricPortTrained (port : Nat) (s : State) : Out := .next (setPorts s (s.fab.up ||| 2 ^ port % 2 ^ 48))

/-! ### Requests at their target -/

/-- LOAD_REQUEST (R305). -/
def execLoadRequest (a : Arrival) (s : State) : Out :=
  match arriveReq s a kLoad with
  | (s, some p) => .next (remoteArrive s p)
  | (s, none) => .next s

/-- STORE_REQUEST (R307). -/
def execStoreRequest (a : Arrival) (s : State) : Out :=
  match arriveReq s a kStore with
  | (s, some p) => .next (remoteArrive s p)
  | (s, none) => .next s

/-- ADD_REQUEST (R309). -/
def execAddRequest (a : Arrival) (s : State) : Out :=
  match arriveReq s a kAdd with
  | (s, some p) => .next (remoteArrive s p)
  | (s, none) => .next s

/-- An arrival at a barrier of this package (R310). -/
def barrierPacket (s : State) (p : Packet) : State :=
  let i := bits p.addr 11 0
  if !barOwned s i p.tctx then answerErr s p ePerm p.addr
  else answer (barrierArriveAt s i (p.data.toNat % 2 ^ 16)).1 p kAck 0

/-- BARRIER_ARRIVAL (R310). -/
def execBarrierArrival (a : Arrival) (s : State) : Out :=
  match arriveReq s a kBar with
  | (s, some p) => .next (unlessMal s p barrierPacket)
  | (s, none) => .next s

/-! ### Flows (R311 to R314) -/

/-- A row arrives for its key: into the queue, into the frame of a saved team, or discarded and logged (R311, R313,
R314). -/
def rowArrive (s : State) (p : Packet) : State :=
  let key := p.data.toNat % 2 ^ 32
  match findKey s p.tctx key with
  | none => logFabric s eFlow p.addr p.tctx
  | some k =>
    if k.lq = unboundLq then logFabric s eFlow p.addr p.tctx
    else
      let tm := s.team k.team
      match tm.slot, tm.cores[k.tcore]? with
      | some _, _ => editFrame s k.team (frameAddRow k.tcore k.lq p.body)
      | none, some c => s.onCore c (fun x =>
          let q := x.lqOf k.lq
          x.setLq k.lq { q with rows := q.rows ++ [⟨p.body, true, x.nextId⟩] })
      | none, none => logFabric s eFlow p.addr p.tctx

/-- LINK_ROW (R311). -/
def execLinkRow (a : Arrival) (s : State) : Out :=
  match arriveReq s a kLink with
  | (s, some p) => .next (rowArrive s p)
  | (s, none) => .next s

/-- A connect reaches the package of its key (R312). -/
def connectArrive (s : State) (p : Packet) : State :=
  let key := p.data.toNat % 2 ^ 32
  match findKey s p.tctx key with
  | some k =>
    if k.lq = unboundLq then answer (putKey s { k with waiting := k.waiting ++ [p] }) p kPark 0
    else connectKey s p
  | none => answer (putKey s ⟨p.tctx, key, 0, 0, unboundLq, none, [p]⟩) p kPark 0

/-- CONNECT (R312). -/
def execConnect (a : Arrival) (s : State) : Out :=
  match arriveReq s a kConnect with
  | (s, some p) => .next (unlessMal s p connectArrive)
  | (s, none) => .next s

/-- The core whose connect names flow handle `h`. -/
def connectCore (s : State) (h : Nat) : Option (Nat × Acc) :=
  s.cores.findSome? (fun e => (connectOf e.2 h).map (fun a => (e.1, a)))

/-- Credits reach the sender (R311): its queue, the frame of a saved team, or nobody. The first end its connect. -/
def creditArrive (s : State) (p : Packet) : State :=
  let n := p.data.toNat % 32
  let h := (flowHandle p).getD 0
  let s := match connectCore s h with
    | some (c, a) => s.onCore c (fun x => dropAcc x a.id)
    | none => s
  match handleQueue s h with
  | some (c, q) => s.onCore c (fun x => x.setLq q { x.lqOf q with credits := (x.lqOf q).credits + n })
  | none => match savedHandle s h with
    | some (t, k, q) => editFrame (editSent s t h (fun q => { q with credits := min 31 (q.credits + n) })) t (frameAddCredits k q n)
    | none => s

/-- CREDIT (R311). -/
def execCredit (a : Arrival) (s : State) : Out :=
  match arrive s a kCredit with
  | (s, some p) => .next (creditArrive s p)
  | (s, none) => .next s

/-- LINK_ROW_SEND (R311). -/
def execLinkRowSend (core lq : Nat) (s : State) : Out := .next (lqSend s core lq)

end Sys2Proof.Machine
end

