-- ==== Sys2Proof/Machine/Groups.lean ====
section
/-!
DEFINITION. Reduction groups at their home (R317 to R327): contributions and withdrawals, the combination of a
generation's elements, its endings and their delivery, clearing and retirement.
-/
namespace Sys2Proof.Machine

/-! ### The descriptor (R318) -/

def Group.word (g : Group) (k : Nat) : Word := (g.desc[k]?).getD 0
def Group.mode (g : Group) : Nat := fld (g.word 0) 63 62
def Group.op (g : Group) : Nat := fld (g.word 0) 61 60
def Group.sat (g : Group) : Bool := flag (g.word 0) 59
def Group.fmtCode (g : Group) : Nat := fld (g.word 0) 56 52
def Group.fmt (g : Group) : Fmt := (grpFmt g.fmtCode).getD .f32
def Group.ranks (g : Group) : Nat := fld (g.word 0) 51 40 + 1
def Group.tmo (g : Group) : Nat := fld (g.word 0) 15 0
def Group.elems (g : Group) : Nat := fld (g.word 1) 15 0 + 1
def Group.sbase (g : Group) : Nat := (g.word 2).toNat
def Group.retAddr (g : Group) : Nat := (g.word 3).toNat
def Group.sigAddr (g : Group) : Nat := (g.word 4).toNat

/-! ### Combination (R323, R324) -/

/-- The accumulation format of float sums (R323). -/
def accFmt (f : Fmt) : Fmt := if f == .f16 then .f16 else .f32

/-- `comb` of R323 on two values, left operand first, and whether a float sum overflowed. -/
def combVal (g : Group) (x z : Val) : Val × Bool :=
  if g.op = 0 then
    if g.fmt.isFloat then
      let y := floatVal (accFmt g.fmt) (convert (addVal x z 0) (accFmt g.fmt) 0 false 0).code
      (y, y.isInf && !x.isInf && !z.isInf)
    else (addVal x z 0, false)
  else if x.isNan || z.isNan then (.nan, false)
  else (if g.op = 1 then (if valLt z x then z else x) else (if valLt x z then z else x), false)

/-- `comb` with absent operands (R323). -/
def combOpt (g : Group) (x z : Option Val × Bool) : Option Val × Bool :=
  match x.1, z.1 with
  | none, _ => (z.1, x.2 || z.2)
  | some a, none => (some a, x.2 || z.2)
  | some a, some b => let (v, o) := combVal g a b; (some v, o || x.2 || z.2)

/-- The element `j` of a contribution, if it covers it. -/
def Contrib.at_ (c : Contrib) (j : Nat) : Option Nat := if c.first ≤ j then c.codes[j - c.first]? else none

/-- The value of element `j` that rank `r` has contributed. -/
def rankVal (g : Group) (r j : Nat) : Option Val :=
  (g.rows.findSome? (fun c => if c.rank = r then c.at_ j else none)).map (fun x => valueOf g.fmt x 0)

/-- Elements that rank `r` has delivered. -/
def delivered (g : Group) (r : Nat) : Nat := (g.rows.map (fun c => if c.rank = r then c.codes.length else 0)).sum

/-- Ranks that have delivered every element and not withdrawn: A of R323 at an ending (R325). -/
def included (g : Group) : List Nat :=
  (span 0 g.ranks).filter (fun r => delivered g r == g.elems && !g.wdn.contains r)

/-- The rank tree of mode 1 (R323); `n` bounds its depth. -/
def rankTree (g : Group) (c : Nat → Option Val) (lo hi : Nat) : Nat → Option Val × Bool
  | 0 => (c lo, false)
  | n + 1 =>
    if hi - lo ≤ 1 then (c lo, false)
    else
      let mid := lo + 2 ^ Nat.log2 (hi - lo - 1)
      combOpt g (rankTree g c lo mid n) (rankTree g c mid hi n)

/-- The exact sum of mode 2 (R323). -/
def exactSum (vs : List Val) : Val :=
  let pi := vs.any (fun v => v.isInf && !v.neg?)
  let ni := vs.any (fun v => v.isInf && v.neg?)
  if vs.any (·.isNan) || (pi && ni) then .nan
  else if pi then .inf false
  else if ni then .inf true
  else dyVal (vs.foldl (fun a v => dyAdd a v.dyadic) (0, 0)) (vs.all (·.neg?))

/-- The combined value of element `j`, and whether a sum on the way overflowed (R323). -/
def elemVal (g : Group) (a : List Nat) (j : Nat) : Val × Bool :=
  if a.isEmpty then (if g.op ≠ 0 && g.fmt.isFloat then .nan else .zero false, false)
  else if g.mode = 0 then
    let r := g.rows.foldl (fun (acc : Option Val × Bool) c =>
      match c.at_ j with
      | some x => combOpt g acc (some (valueOf g.fmt x 0), false)
      | none => acc) (none, false)
    (r.1.getD (.zero false), r.2)
  else if g.mode = 2 && g.op = 0 && g.fmt.isFloat then (exactSum (a.filterMap (fun r => rankVal g r j)), false)
  else
    let r := rankTree g (fun r => if a.contains r then rankVal g r j else none) 0 g.ranks 16
    (r.1.getD (.zero false), r.2)

/-- The integer that an exact value stands for. -/
def Val.toInt (v : Val) : Int := v.dyadic.1 * 2 ^ v.dyadic.2.toNat

/-- The result code of a combined value and whether it overflowed, saturated or wrapped (R324). -/
def elemCode (g : Group) (v : Val) : Nat × Bool :=
  let f := g.fmt
  if f.isFloat then
    let c := convert v f 0 g.sat 0
    (c.code, c.event || (!v.isInf && !v.isNan && (floatVal f c.code).isInf))
  else
    let (y, out) := clamp v.toInt (intRange f)
    (wrapw (if g.sat then y else v.toInt) f.width, out)

/-- The results of a generation: its bits at rbase, and the status bit ovf (R324, R326). -/
def results (g : Group) (a : List Nat) : Nat × Bool :=
  let xs := (span 0 g.elems).map (fun j =>
    let (v, o) := elemVal g a j
    let (c, o') := elemCode g v
    (c, o || o'))
  (packList g.fmt.width (xs.map (·.1)), xs.any (·.2))

/-- The status word (R326). `kind` is 1 complete, 2 time-out, 3 abort. -/
def statusWord (g : Group) (kind : Nat) (a : List Nat) (ovf : Bool) : Word :=
  let cnt := if kind = 3 then 0 else a.length
  let part := kind != 3 && g.mode == 0 && g.rows.any (fun c => !a.contains c.rank)
  wordN (kind <<< 62 + b2n part <<< 61 + b2n (kind != 3 && ovf) <<< 60 + g.gen <<< 32 + (g.ranks - cnt) <<< 16 + cnt)

/-! ### Writes at the home and deliveries (R325) -/

/-- A long write in parts of one packet's payload, cut between sectors so that no element within a sector is cut (R41): address,
length and bits. -/
def payloads (a n v : Nat) : List (Nat × Nat × Nat) :=
  (span 0 (ceilDiv (a % 256 + n) 4096)).map (fun k =>
    let lo := max a (a / 256 * 256 + 4096 * k)
    let len := min (a + n) (a / 256 * 256 + 4096 * (k + 1)) - lo
    (lo, len, v >>> (lo - a) % 2 ^ len))

/-- The Fuller's own writes at a home, as group 3 in the group's context (R318): whether one waits for its page (R118), and the
failures of the others. -/
def homeWrites (s : State) (k ctx : Nat) : List (Nat × Nat × Nat) → State × Bool × List (Nat × Nat)
  | [] => (s, false, [])
  | (a, n, v) :: r =>
    let (s, x) := whoWrite s (.group k) ctx gRemote a n v
    let (s, w, es) := homeWrites s k ctx r
    (s, x.wait || w, x.err.toList ++ es)

/-- A store by the Fuller to a package. -/
def fullerStore (s : State) (dom mem ctx : Nat) (x : Nat × Nat × Nat) : State :=
  sendFuller s .note none
    { blankPacket s with tier := 1, op := kStore, tdom := dom, tmem := mem, tctx := ctx, addr := x.1, len := x.2.1,
                         data := wordN x.2.2, body := if 64 < x.2.1 then BitVec.ofNat 4096 x.2.2 else 0 }

/-- A completion notice (R325): the group in word 4 and its generation in word 6 (log entry 11). -/
def sendNotice (s : State) (dom mem ctx grp gen : Nat) : State :=
  sendFuller s .note none
    { blankPacket s with tier := 1, op := kNotice, tdom := dom, tmem := mem, tctx := ctx, x4 := wordN grp,
                         x6 := wordN (gen <<< 32) }

/-- Results and status go to one (package, context) (R325 steps 1 and 2). -/
def deliverTo (s : State) (g : Group) (res : Option Nat) (sw : Word) (d : Nat × Nat × Nat) : State :=
  let s := match res with
    | some v => if g.retAddr = 0 then s
        else (payloads g.retAddr (g.elems * g.fmt.width) v).foldl (fun s x => fullerStore s d.1 d.2.1 d.2.2 x) s
    | none => s
  if g.sigAddr = 0 then s else fullerStore s d.1 d.2.1 d.2.2 (g.sigAddr, 64, sw.toNat)

/-- Generations rise by one modulo 2^16, with 0 skipped (R317). -/
def nextGen (n : Nat) : Nat := n % 65535 + 1

/-- The state of the group after an ending (R317, R325, R327). -/
def stAfter (g : Group) (kind : Nat) : GrpSt :=
  if g.st = .retiring then .retired else if kind = 2 then .incomplete else .idle

/-- The distinct packages of a generation's packets. -/
def distinctPkgs : List (Nat × Nat × Nat) → List (Nat × Nat)
  | [] => []
  | d :: r => let rest := distinctPkgs r
      if rest.contains (d.1, d.2.1) then rest else (d.1, d.2.1) :: rest

/-- `n` codes of `w` bits, the first lowest. -/
def unpackCodes (v w n : Nat) : List Nat := (span 0 n).map (fun i => v >>> (w * i) % 2 ^ w)

/-- The rows of ranks `rs` as staging holds them (R318, R323). -/
def stagedRows (s : State) (k : Nat) (g : Group) : List Nat → State × List (Nat × Got)
  | [] => (s, [])
  | r :: rs =>
    let n := g.elems * g.fmt.width
    let (s, x) := whoRead s (.group k) g.ctx gRemote (g.sbase + r * n) n
    let (s, l) := stagedRows s k g rs
    (s, (r, x) :: l)

/-- What was read of staging is logged: an uncorrectable sector, which reads as zeros, and a row that cannot be read (R325). -/
def logRows (s : State) (g : Group) (l : List (Nat × Got)) : State :=
  l.foldl (fun s e =>
    let s := e.2.ecc.foldl (fun s a => logFabric s eEcc (sectorBase a) g.ctx) s
    match e.2.err with | some (code, lo) => logFabric s code lo g.ctx | none => s) s

/-- The contributions that staging gave; a rank whose row cannot be read counts as withdrawn, as one whose row could not be written
does (R323, R325; log entry 62). -/
def rowsRead (g : Group) (l : List (Nat × Got)) : List Contrib :=
  (l.filter (fun e => e.2.err.isNone)).map (fun e => ⟨e.1, 0, unpackCodes e.2.v g.fmt.width g.elems⟩)

/-- A generation has ended (R325): results, status and notices go to every contributor and to the home, and the waiting grpretires
are answered. -/
def closeGen (s : State) (k : Nat) (g : Group) (kind : Nat) (v : Option Nat) (ovf : Bool) (a : List Nat) : State :=
  let s := clearParts s (.group k)
  let sw := statusWord g kind a ovf
  let s := g.from_.foldl (deliverTo · g v sw) s
  let s := if g.from_.contains (fabDom s, fabMem s, g.ctx) then s
    else deliverTo s g none sw (fabDom s, fabMem s, g.ctx)
  let s := (distinctPkgs g.from_).foldl (fun s d => sendNotice s d.1 d.2 g.ctx k g.gen) s
  let s := g.ret.foldl (fun s p => answer s p kAck 0) s
  s.setGroup k { g with st := stAfter g kind, gen := nextGen g.gen, rows := [], wdn := [], from_ := [], ret := [], work := none }

/-- A generation ends (R325): results at rbase unless it aborts, then the deliveries. While an access of the home waits for its page,
the ending waits and the group takes no packet (R318). -/
def endGen (s : State) (k kind : Nat) : State :=
  let g := s.group k
  if kind = 3 then closeGen s k g 3 none false []
  else
    let (s, l) := if g.mode = 0 then (s, []) else stagedRows s k g (included g)
    if l.any (·.2.wait) then s.setGroup k { g with work := some (.ending kind) }
    else
      let s := logRows s g l
      let g := { g with wdn := g.wdn ++ (l.filter (fun e => e.2.err.isSome)).map (·.1), work := some (.ending kind) }
      let h := if g.mode = 0 then g else { g with rows := rowsRead g l }
      let a := included h
      let (v, ovf) := results h a
      match homeWrites s k g.ctx (payloads g.rbase (g.elems * g.fmt.width) v) with
      | (s, true, _) => s.setGroup k g
      | (s, false, es) => closeGen (es.foldl (fun s e => logFabric s e.1 e.2 g.ctx) s) k g kind (some v) ovf a

/-! ### Packets at the home -/

/-- Group, rank and the source of a group's packet. -/
def pktGroup (p : Packet) : Nat := p.x4.toNat % 4096
def pktRank (p : Packet) : Nat := p.x5.toNat % 4096
def pktFrom (p : Packet) : Nat × Nat × Nat := (p.sdom, p.smem, fld p.x7 15 0)

/-- The checks of R320 that contributions and withdrawals share. -/
def grpRefuse (g : Group) (p : Packet) : Option Nat :=
  if g.st = .unset || g.st = .incomplete then some eGrpstate
  else if g.st = .retired then some eRetired
  else if g.ctx ≠ p.tctx then some ePerm
  else if g.ranks ≤ pktRank p then some eRedrange
  else none

/-- A packet of the generation is taken: the first one opens it (R317, R325). -/
def takePacket (s : State) (g : Group) (p : Packet) : Group :=
  let g := if g.st = .idle then { g with st := .opened, t0 := s.fe.time, rows := [], wdn := [], from_ := [] } else g
  if g.from_.contains (pktFrom p) then g else { g with from_ := g.from_ ++ [pktFrom p] }

/-- Every rank has contributed all elements or withdrawn (R325). -/
def genDone (g : Group) : Bool :=
  (span 0 g.ranks).all (fun r => g.wdn.contains r || delivered g r == g.elems)

/-- The acknowledgement of a contribution or withdrawal gives its generation and the group's ret range (R322, R329; log entry
11). -/
def ackTaken (s : State) (g : Group) (p : Packet) : State :=
  sendPacket s { answerHead s p kAck 0 with addr := g.retAddr, x6 := wordN (g.gen <<< 32 + g.elems * g.fmt.width) }

/-- A packet has been taken: it is acknowledged, and a complete generation ends (R322, R325). -/
def taken (s : State) (k : Nat) (g : Group) (p : Packet) : State :=
  let s := ackTaken (s.setGroup k { g with work := none }) g p
  if genDone g then endGen s k 1 else s

/-- First element and whether a contribution's elements lie in the group (R320, R321). -/
def contribSpan (g : Group) (p : Packet) : Option (Nat × Nat) :=
  let w := g.fmt.width
  let n := fld p.x6 20 8
  let off := p.addr - g.rbase
  if p.addr < g.rbase || off % w ≠ 0 || g.elems < off / w + n || fld p.x6 4 0 ≠ g.fmtCode then none else some (off / w, n)

/-- Rank `r` has withdrawn, or has already contributed one of the elements (R320). -/
def contribDup (g : Group) (r first n : Nat) : Bool :=
  g.wdn.contains r || g.rows.any (fun c => c.rank == r && decide (c.first < first + n) && decide (first < c.first + c.codes.length))

/-- A packet of a group is taken once the group's arithmetic is free (R318). -/
def arriveGrp (s : State) (a : Arrival) (op : Nat) : State × Option Packet :=
  match arriveReq s a op with
  | (s', some p) => if (s.group (pktGroup p)).work.isSome then (s, none) else (s', some p)
  | r => r

/-- The row of contribution `p` goes to staging in modes 1 and 2; a failed write is logged and its rank treated as withdrawn (R323,
R325). `fresh` tells that the write has not parked before: its first park sends the notice (R301). -/
def stageRow (s : State) (k : Nat) (p : Packet) (fresh : Bool) : State :=
  let g := s.group k
  let w := g.fmt.width
  match contribSpan g p with
  | none => s
  | some (i, n) =>
    let r := pktRank p
    let g' := { g with rows := g.rows ++ [⟨r, i, unpackCodes p.body.toNat w n⟩] }
    if g.mode = 0 then taken s k g' p
    else match whoWrite s (.group k) g.ctx gRemote (g.sbase + (r * g.elems + i) * w) (n * w) p.body.toNat with
      | (s, ⟨_, _, true, _⟩) =>
        let s := s.setGroup k { g with work := some (.row p) }
        if fresh then answer s p kPark 0 else s
      | (s, ⟨_, some (code, lo), false, _⟩) =>
        taken (logFabric (clearParts s (.group k)) code lo g.ctx) k { g' with wdn := g'.wdn ++ [r] } p
      | (s, ⟨_, none, false, _⟩) => taken (clearParts s (.group k)) k g' p

/-- A contribution reaches its home (R321). -/
def contribArrive (s : State) (p : Packet) : State :=
  let k := pktGroup p
  let g := s.group k
  match grpRefuse g p with
  | some code => answerErr s p code p.addr
  | none => match contribSpan g p with
    | none => answerErr s p eRedrange p.addr
    | some (i, n) =>
      if contribDup g (pktRank p) i n then answerErr s p eGrpdup p.addr
      else stageRow (s.setGroup k (takePacket s g p)) k p true

/-- CONTRIBUTION (R321). -/
def execContribution (a : Arrival) (s : State) : Out :=
  match arriveGrp s a kContrib with
  | (s, some p) => .next (unlessMal s p contribArrive)
  | (s, none) => .next s

/-- A withdrawal reaches its home (R321): the rank leaves A, and in mode 0 what was combined stays. -/
def withdrawArrive (s : State) (p : Packet) : State :=
  let k := pktGroup p
  let g := s.group k
  match grpRefuse g p with
  | some code => answerErr s p code p.addr
  | none =>
    if g.wdn.contains (pktRank p) then answerErr s p eGrpdup p.addr
    else
      let g := takePacket s g p
      taken s k { g with wdn := g.wdn ++ [pktRank p] } p

/-- WITHDRAWAL (R321). -/
def execWithdrawal (a : Arrival) (s : State) : Out :=
  match arriveGrp s a kWithdraw with
  | (s, some p) => .next (unlessMal s p withdrawArrive)
  | (s, none) => .next s

/-- A grpset sets a group that is unset, or retired and of the same context (R317, R318, R320). -/
def grpsetArrive (s : State) (p : Packet) : State :=
  let k := pktGroup p
  let g := s.group k
  if g.st = .unset || (g.st = .retired && g.ctx = p.tctx) then
    answer (s.setGroup k { Group.init with st := .idle, ctx := p.tctx, desc := words8 p.body.toNat, rbase := p.addr, gen := 1 })
      p kAck 0
  else answerErr s p eLivegroup p.addr

/-- GROUP_SET_PACKET (R318). -/
def execGroupSetPacket (a : Arrival) (s : State) : Out :=
  match arriveGrp s a kGrpset with
  | (s, some p) => .next (unlessMal s p grpsetArrive)
  | (s, none) => .next s

/-- A grpclr at the home (R320, R327). -/
def grpclrArrive (s : State) (p : Packet) : State :=
  let k := pktGroup p
  let g := s.group k
  if g.st = .unset then answerErr s p eGrpstate p.addr
  else if g.st = .retired then answerErr s p eRetired p.addr
  else if g.ctx ≠ p.tctx then answerErr s p ePerm p.addr
  else match g.st with
    | .opened | .retiring => answer (endGen s k 3) p kAck 0
    | .incomplete => answer (s.setGroup k { g with st := .idle }) p kAck 0
    | _ => answer s p kAck 0

/-- GROUP_CLEAR_PACKET (R327). -/
def execGroupClearPacket (a : Arrival) (s : State) : Out :=
  match arriveGrp s a kGrpclr with
  | (s, some p) => .next (unlessMal s p grpclrArrive)
  | (s, none) => .next s

/-- A grpretire at the home (R327): an open generation ends first, and the grpretire waits for it with a park notice; a retired
group acknowledges every grpretire (R320). -/
def grpretireArrive (s : State) (p : Packet) : State :=
  let k := pktGroup p
  let g := s.group k
  if g.st = .unset then answerErr s p eGrpstate p.addr
  else if g.st = .retired then answer s p kAck 0
  else if g.ctx ≠ p.tctx then answerErr s p ePerm p.addr
  else match g.st with
    | .opened | .retiring => answer (s.setGroup k { g with st := .retiring, ret := g.ret ++ [p] }) p kPark 0
    | _ => answer (s.setGroup k { g with st := .retired }) p kAck 0

/-- GROUP_RETIRE_PACKET (R327). -/
def execGroupRetirePacket (a : Arrival) (s : State) : Out :=
  match arriveGrp s a kGrpretire with
  | (s, some p) => .next (unlessMal s p grpretireArrive)
  | (s, none) => .next s

/-- The generation of group `g` has been open for tmo µs (R325). -/
def genLate (s : State) (g : Group) : Bool :=
  (g.st == .opened || g.st == .retiring) && g.tmo != 0 && decide (1000 * g.tmo ≤ (s.fe.time - g.t0).toNat)

/-- The arithmetic of group `k` goes on with what a park held up (R120, R318). -/
def resumeGroup (s : State) (k : Nat) : State :=
  match (s.group k).work with
  | some (.ending kind) => endGen s k kind
  | some (.row p) => stageRow s k p false
  | none => s

/-- GROUP_TIMEOUT (R325): a packet that the arithmetic has taken comes first. -/
def execGroupTimeout (grp : Nat) (s : State) : Out :=
  let g := s.group grp
  .next (if g.work.isSome then resumeGroup s grp else if genLate s g then endGen s grp 2 else s)

/-- A completion notice frees the records of its generation, and is acknowledged (R301, R322; log entry 11). -/
def noticeArrive (s : State) (p : Packet) : State :=
  let mine := fun (r : RedRec) => r.home == 2048 * p.sdom + p.smem && r.grp == pktGroup p && r.ctx == p.tctx
  let s := { s with fe := { s.fe with
    contribs := s.fe.contribs.filterMap (fun r => if mine r then r.noticed (fld p.x6 47 32) else some r) } }
  answer s p kAck 0

/-- COMPLETION_NOTICE (R322). -/
def execCompletionNotice (a : Arrival) (s : State) : Out :=
  match arriveReq s a kNotice with
  | (s, some p) => .next (noticeArrive s p)
  | (s, none) => .next s

end Sys2Proof.Machine
end

