-- ==== Sys2Proof/Machine/Experts.lean ====
section
/-!
DEFINITION. The expert engines (R331 to R347): residency entries and their home tables, the pager, and the commands that
the top-k comparators and the tile walkers run.
-/
namespace Sys2Proof.Machine

/-! ### Residency entries (R341, R342) -/

def resid (s : State) (e : Nat) : Resid := Tab.get Resid.init s.xp.res e
def setResid (s : State) (e : Nat) (r : Resid) : State :=
  { s with xp := { s.xp with res := Tab.set Resid.init e r s.xp.res } }

def rAbsent : Nat := 0
def rFetching : Nat := 1
def rResident : Nat := 2
def rFailed : Nat := 3

/-- Pages of a count of tokens (R340). -/
def pagesOf (n : Nat) : Nat := (n + 15) / 16

/-- Wait entries of an expert whose pages still wait, in the order of parking. -/
def waitsOf (s : State) (e : Nat) : List WaitEnt := s.xp.waits.filter (fun w => w.e == e && !w.armed)

/-- The entry word (R342). -/
def residWord (s : State) (e : Nat) : Word :=
  let r := resid s e
  let n := ((waitsOf s e).map (fun w => pagesOf w.n)).sum
  wordN (r.st <<< 62 + r.slot <<< 32 + r.lock <<< 16 + min n 65535)

/-- The entry is valid and belongs to the context. -/
def residOwned (s : State) (e ctx : Nat) : Bool := (resid s e).valid && (resid s e).ctx == ctx

/-- Physical address of a catalogue entry and of a slot entry (R341). -/
def catAddr (s : State) (e : Nat) : Nat := s.xp.cat + 256 * e
def slotAddr (s : State) (k : Nat) : Nat := s.xp.slot + 128 * k

/-- A word of a catalogue or slot entry; zero where it cannot be read. -/
def catWord (s : State) (e k : Nat) : Word := (physWord s (catAddr s e + 64 * k)).getD 0
def slotWord (s : State) (e k : Nat) : Word := (physWord s (slotAddr s (resid s e).slot + 64 * k)).getD 0

/-- Engine numbers within a die (R72). -/
def engTopk : Nat := 0
def engWalk : Nat := 1
def engPager : Nat := 2

/-- A record of a die engine (R72). -/
def logEngine (s : State) (code a ctx die eng : Nat) : State := logErr s code a ctx 6 (4 * die + eng) 0

/-- An expert id that is not in the catalogue or belongs to another context (R333, R345). -/
def logXpstate (s : State) (e ctx : Nat) : State := logEngine s eXpstate (catAddr s e) ctx (e % 4) engPager

/-! ### Fetches and slots (R342, R343) -/

/-- Whether another expert keeps the slot of `e`: fetching in it, or resident with locks. -/
def slotHeld (s : State) (e : Nat) : Bool :=
  s.xp.res.any (fun x => x.1 != e && x.2.slot == (resid s e).slot
    && ((x.2.st == rFetching && x.2.claimed) || (x.2.st == rResident && x.2.lock != 0)))

/-! ### NVMe (R343, R347)

A Read command is an entry of 512 bits and a completion one of 128, laid out as the NVMe base specification has them (log entry 63).
-/

def nvWord (s : State) (q k : Nat) : Word := Tab.get (nvqDefault (4 * q + k)) s.xp.nvq (4 * q + k)
def nvState (s : State) (q : Nat) : NvmeQ := Tab.get NvmeQ.init s.xp.nvs q
def setNv (s : State) (q : Nat) (x : NvmeQ) : State := { s with xp := { s.xp with nvs := Tab.set NvmeQ.init q x s.xp.nvs } }

/-- The queue of expert `e`, its entries, and the bytes of a logical block. -/
def nvQueue (s : State) (e : Nat) : Nat := fld (catWord s e 0) 1 0
def nvBlock (s : State) (q : Nat) : Nat := 2 ^ fld (nvWord s q 1) 47 42

/-- Read commands of a fetch, each of at most 65,536 blocks. -/
def nvReads (s : State) (e : Nat) : Nat := ceilDiv ((catWord s e 2).toNat / 8) (65536 * nvBlock s (nvQueue s e))

/-- The entry of Read command `k` of a fetch: opcode 2, SGL, its identifier, the namespace, a data block that names the frame, the
first block and the number of blocks less one. -/
def readEntry (s : State) (e k cid : Nat) (sgl : BitVec 128) : Nat :=
  let blk := nvBlock s (nvQueue s e)
  let n := (catWord s e 2).toNat / 8
  packList 64 [2 + 1 <<< 14 + cid <<< 16 + fld (catWord s e 3) 31 0 <<< 32, 0, 0, sgl.toNat % 2 ^ 64, sgl.toNat >>> 64,
    ((catWord s e 1).toNat + 65536 * k) % 2 ^ 64, min 65536 (ceilDiv (n - 65536 * blk * k) blk) - 1, 0]

/-- One Read command goes into its submission queue, and the drive's tail doorbell is written. The data block's descriptor gives a
bus address of the memory BAR, which the manual does not state. -/
def sendRead (s : State) (e : Nat) : State :=
  let q := nvQueue s e
  let x := nvState s q
  let (s, d) := draw s
  let p := fld (nvWord s q 0) 41 0 + 512 * x.tail
  let v := readEntry s e (resid s e).sent x.next (Config.sgl d)
  let s := (storePart (storePart s p 256 (v % 2 ^ 256)).1 (p + 256) 256 (v >>> 256)).1
  let tail := (x.tail + 1) % (fld (nvWord s q 0) 63 48 + 1)
  let s := setNv s q { x with tail := tail, next := (x.next + 1) % 65536, out := x.out ++ [(x.next, some e)] }
  tellHost (setResid s e { resid s e with sent := (resid s e).sent + 1 }) (.doorbell (nvWord s q 2) tail)

/-- Read commands of a fetch, as many as its queue has room for. -/
def sendReads (s : State) (e : Nat) : Nat → State
  | 0 => s
  | n + 1 =>
    let q := nvQueue s e
    if (resid s e).sent < nvReads s e && (nvState s q).out.length < fld (nvWord s q 0) 63 48 then sendReads (sendRead s e) e n else s

/-- Fetches from an NVMe drive go on sending. -/
def pumpReads (s : State) : State :=
  (s.xp.res.filter (fun x => x.2.st == rFetching && x.2.claimed)).foldl (fun s x =>
    if fld (catWord s x.1 0) 62 61 = 1 then sendReads s x.1 (nvReads s x.1) else s) s

/-- Take the completions that the drive has written: the entry's phase tells a new one, and each ends a command of its fetch. -/
def takeCpls (s : State) (q : Nat) : Nat → State
  | 0 => s
  | n + 1 =>
    let x := nvState s q
    match physWord s (fld (nvWord s q 1) 41 0 + 128 * x.head + 64) with
    | none => s
    | some w =>
      if flag w 48 == x.flipped then s
      else
        let head := (x.head + 1) % (fld (nvWord s q 1) 63 48 + 1)
        let s := setNv s q { x with head := head, flipped := if head = 0 then !x.flipped else x.flipped,
                                    out := x.out.filter (fun c => c.1 != fld w 47 32) }
        let s := match (x.out.find? (fun c => c.1 == fld w 47 32)).bind (·.2) with
          | some e =>
            let r := resid s e
            setResid s e { r with done_ := r.done_ + 1, bad := r.bad || fld w 63 49 != 0 }
          | none => s
        takeCpls (tellHost s (.doorbell (nvWord s q 3) head)) q n

/-- The completion queue of expert `e` is read, and its fetches go on. -/
def pollDrive (s : State) (e : Nat) : State :=
  if fld (catWord s e 0) 62 61 = 1 then pumpReads (takeCpls s (nvQueue s e) 65536) else s

/-- Reads that the pager sends to its source (R343): a UIO read of the cave, or NVMe Read commands. -/
def askCave (s : State) (e : Nat) : State :=
  match fld (catWord s e 0) 62 61 with
  | 0 => tellHost s (.uio (catWord s e 1).toNat ((catWord s e 2).toNat / 8))
  | 1 => pumpReads s
  | _ => s

/-- Experts resident in the slot that `e` claims become absent (R342). -/
def evictSlot (s : State) (e : Nat) : State :=
  { s with xp := { s.xp with res := s.xp.res.map (fun x =>
      if x.1 ≠ e && x.2.slot = (resid s e).slot && x.2.st = rResident then (x.1, { x.2 with st := rAbsent }) else x) } }

/-- A fetch claims its slot and starts (R342, R343). -/
def claim (s : State) (e : Nat) : State :=
  let s := evictSlot s e
  let s := { s with xp := { s.xp with fq := s.xp.fq.erase e } }
  askCave (setResid s e { resid s e with claimed := true, t0 := s.fe.time, sent := 0, done_ := 0, bad := false }) e

/-- Fetches that wait for their slot claim it where it is free, oldest first (R342). -/
def claimAll (s : State) : List Nat → State
  | [] => s
  | e :: r => if slotHeld s e then claimAll s r else claimAll (claim s e) r

def claimSlots (s : State) : State := claimAll s s.xp.fq

/-- A fetch is requested (R342). -/
def startFetch (s : State) (e : Nat) : State :=
  let s := setResid s e { resid s e with st := rFetching, claimed := false }
  claimSlots { s with xp := { s.xp with fq := s.xp.fq ++ [e] } }

/-! ### Engine accesses (R332, R333) -/

/-- How a stretch of an engine's work ends: the command goes on later from a state of its own, waits for a page, or is over. -/
inductive ERun
  | wait (s : State) (j : XpJob)
  | park (s : State) (j : XpJob)
  | ended (s : State) (j : XpJob)
  deriving DecidableEq, Repr

/-- Engine number of a job's kind. -/
def jobEng (j : XpJob) : Nat := if j.kind = 1 || j.kind = 3 then engWalk else engTopk

/-- The first failure is kept (R333). -/
def XpJob.note (j : XpJob) (code : Nat) : XpJob := if j.code = 0 then { j with code := code } else j

/-- A failure that ends the command (R333). -/
def jobFail (s : State) (die : Nat) (j : XpJob) (code a : Nat) : ERun :=
  .ended (logEngine s code a j.ctx die (jobEng j)) { j.note code with ended := true, failed := true }

/-- Where a job goes on after a park: at `back`, with the failure that it has noted. -/
def XpJob.from (j back : XpJob) : XpJob := { back with code := j.code }

/-- Uncorrectable sectors that an engine has read: a record each, at the part's first bit (R40, R333). -/
def engBads (s : State) (die : Nat) (j : XpJob) (as : List Nat) : State × XpJob :=
  (as.foldl (fun s a => logEngine s eEcc a j.ctx die (jobEng j)) s, if as.isEmpty then j else j.note eEcc)

/-- Read `n` bits in the command's context as group 4: an uncorrectable sector reads as zeros and is logged (R333). `back` is
where a park returns to; what has been read stays read until the item's work is done (`engDone`). -/
def engRead (s : State) (die : Nat) (j back : XpJob) (a n : Nat) (k : State → XpJob → Nat → ERun) : ERun :=
  match whoRead s (.engine j.id) j.ctx gWalker a n with
  | (s, ⟨_, _, true, _⟩) => .park s (j.from back)
  | (s, ⟨_, some (code, lo), false, es⟩) => let (s, j) := engBads s die j es; jobFail s die j code lo
  | (s, ⟨v, none, false, es⟩) => let (s, j) := engBads s die j es; k s j v

/-- An item of the command's work is done: its accesses are over. -/
def engDone (s : State) (j : XpJob) : State := clearParts s (.engine j.id)

/-- Words that the command will read anew: what it has read of them is forgotten, a refusal apart. -/
def engAnew (s : State) (j : XpJob) (as : List Nat) : State :=
  { s with xl := { s.xl with parts := s.xl.parts.filter (fun p =>
      !(p.who == .engine j.id && !p.wr && p.len != 0 && as.contains p.lo)) } }

/-- Read through a pointer that the engine has found in memory: a malformed one is refused, and so is an element of `w` bits that
is not aligned (R33, R37). DESIGN CHOICE (log entry 71): either response ends the command with state 10; R333 names perm, unmapped,
ptentry, heaprange and window only. -/
def engElem (s : State) (die : Nat) (j back : XpJob) (p : Word) (w n : Nat) (k : State → XpJob → Nat → ERun) : ERun :=
  if ptrMal p then jobFail s die j eMalformed (ptrAddr p)
  else if ptrAddr p % w ≠ 0 then jobFail s die j eAlignment (ptrAddr p)
  else engRead s die j back (ptrAddr p) n k

/-- Write `n` bits in the command's context as group 4. -/
def engWrite (s : State) (die : Nat) (j back : XpJob) (a n v : Nat) (k : State → XpJob → ERun) : ERun :=
  match whoWrite s (.engine j.id) j.ctx gWalker a n v with
  | (s, ⟨_, _, true, _⟩) => .park s (j.from back)
  | (s, ⟨_, some (code, lo), false, _⟩) => jobFail s die j code lo
  | (s, ⟨_, none, false, _⟩) => k s j

def XpJob.word (j : XpJob) (k : Nat) : Word := (j.words[k]?).getD 0

/-! ### Gate selection (R335, R336) -/

def lfmtOf (c : Nat) : Fmt := match c with | 0 => .f32 | 1 => .bf16 | _ => .f16

/-- `score` of R335: none is low. -/
def scoreOf (l b : Val) (idle : Bool) : Option Val :=
  if idle || l.isNan || b.isNan || (l.isInf && b.isInf && l.neg? != b.neg?) then none else some (addVal l b 0)

/-- Rank order of R335: `a` stands before `b`. -/
def rankBefore (a b : Option Val × Nat) : Bool :=
  match a.1, b.1 with
  | some x, some y => if numLt y x then true else if numLt x y then false else decide (a.2 < b.2)
  | some _, none => true
  | none, some _ => false
  | none, none => decide (a.2 < b.2)

def insertRank (x : Option Val × Nat) : List (Option Val × Nat) → List (Option Val × Nat)
  | [] => [x]
  | y :: r => if rankBefore x y then x :: y :: r else y :: insertRank x r

/-- The first `n` indices in rank order. -/
def topRanks (n : Nat) (xs : List (Option Val)) : List Nat :=
  (((xs.zip (span 0 xs.length)).foldl (fun acc x => (insertRank x acc).take n) []).map (·.2))

/-- A weight: the unbiased logit in f32 (R335). -/
def weightOf (f : Fmt) (code : Nat) : Nat := (convert (floatVal f code) .f32 0 false 0).code

/-- The output of row or expert `row`: `n` indices of `w` bits and weights. -/
def topkOut (s : State) (die : Nat) (j : XpJob) (row w n : Nat) (idx wts : List Nat) (k : State → XpJob → ERun) : ERun :=
  engWrite s die j j (ptrAddr (j.word 4) + w * row * n) (w * n) (packList w idx) fun s j =>
    engWrite s die j j (ptrAddr (j.word 5) + 32 * row * n) (32 * n) (packList 32 wts) fun s j =>
      k (engDone s j) { j with items := j.items + 1 }

/-- The bias values of a topk (R336). -/
def topkBias (j : XpJob) : List Val := (j.snap.getD []).map (fun c => floatVal .f32 c)

/-- Tokens choose experts: row by row (R335). -/
def topkTokens (s : State) (die : Nat) (j : XpJob) : Nat → ERun
  | 0 => .ended s { j with ended := true }
  | n + 1 =>
    let w0 := j.word 0
    let f := lfmtOf (fld w0 61 57)
    let e := fld w0 31 16 + 1
    let er := fld w0 15 0 + 1
    let sel := fld w0 47 32 + 1
    let row := j.items
    engRead s die j j (ptrAddr (j.word 1) + row * fld (j.word 2) 39 0) (e * f.width) fun s j v =>
      let cs := unpackCodes v f.width e
      let sc := ((cs.zip (topkBias j)).zip (span 0 e)).map (fun x => scoreOf (floatVal f x.1.1) x.1.2 (decide (er ≤ x.2)))
      let top := topRanks sel sc
      topkOut s die j row 16 sel top (top.map (fun i => weightOf f ((cs[i]?).getD 0))) fun s j => topkTokens s die j n

/-- The logit rows that are still to be read, for experts that choose tokens; those read stay with the job. -/
def topkRows (s : State) (die : Nat) (j : XpJob) (k : State → XpJob → ERun) : Nat → ERun
  | 0 => k s j
  | n + 1 =>
    let f := lfmtOf (fld (j.word 0) 61 57)
    let e := fld (j.word 0) 31 16 + 1
    engRead s die j j (ptrAddr (j.word 1) + j.rows.length * fld (j.word 2) 39 0) (e * f.width) fun s j v =>
      topkRows (engDone s j) die { j with rows := j.rows ++ [unpackCodes v f.width e] } k n

/-- Experts choose tokens: expert by expert, with idle entries (R335, R337). -/
def topkExperts (s : State) (die : Nat) (j : XpJob) : Nat → ERun
  | 0 => .ended s { j with ended := true }
  | n + 1 =>
    let w0 := j.word 0
    let f := lfmtOf (fld w0 61 57)
    let c := fld w0 47 32 + 1
    let e := j.items
    let col := j.rows.map (fun r => (r[e]?).getD 0)
    let be := ((topkBias j)[e]?).getD (.zero false)
    let top := if fld w0 15 0 < e then [] else topRanks c (col.map (fun x => scoreOf (floatVal f x) be false))
    let pad := c - top.length
    topkOut s die j e 32 c (top ++ List.replicate pad (fld (j.word 6) 63 32))
      (top.map (fun i => weightOf f ((col[i]?).getD 0)) ++ List.replicate pad 0) fun s j =>
      topkExperts s die j n

/-- The ranges of a topk's snapshot and of a bias write. -/
def snapRange (j : XpJob) : Nat × Nat := (ptrAddr (j.word 3), 32 * (fld (j.word 0) 31 16 + 1))
def biasRange (j : XpJob) : Nat × Nat := (ptrAddr (j.word 1), 32 * fld (j.word 2) 16 0)

/-- The physical ranges of a range, page by page, where they have any. -/
def physRanges (s : State) (ctx : Nat) (r : Nat × Nat) : List (Nat × Nat) :=
  (span 0 (ceilDiv (r.1 % 2 ^ 19 + r.2) (2 ^ 19))).filterMap (fun k =>
    let lo := max r.1 (r.1 / 2 ^ 19 * 2 ^ 19 + 2 ^ 19 * k)
    let hi := min (r.1 + r.2) (r.1 / 2 ^ 19 * 2 ^ 19 + 2 ^ 19 * (k + 1))
    match (translate s ctx lo gWalker 0 true).2, (translate s ctx lo gWalker 1 true).2 with
    | .ok p, _ | _, .ok p => some (p, hi - lo)
    | _, _ => none)

/-- Two ranges overlap, by their addresses in one context or in memory (R336). -/
def overlap (s : State) (c : Nat) (p : Nat × Nat) (d : Nat) (q : Nat × Nat) : Bool :=
  (c == d && meets p q) || rangesMeet (physRanges s c p) (physRanges s d q)

/-- A snapshot waits for a bias write of its range that the package started before, and a bias write for such a snapshot (R336). -/
def serialised (s : State) (j : XpJob) : Bool :=
  (s.xp.jobs.flatMap (·.2)).any (fun b => decide (b.id < j.id) && !b.ended
    && (if j.kind = 0 then b.kind == 2 && overlap s j.ctx (snapRange j) b.ctx (biasRange b)
        else b.kind == 0 && b.snap.isNone && b.word 3 != 0 && overlap s j.ctx (biasRange j) b.ctx (snapRange b)))

/-- The selection, from the row or expert that is next (R334, R335, R337). -/
def topkSelect (s : State) (die : Nat) (j : XpJob) : ERun :=
  let nr := fld (j.word 2) 63 40
  if fld (j.word 0) 63 62 = 0 then topkTokens s die j (nr - j.items)
  else topkRows s die j (fun s j => topkExperts s die j (fld (j.word 0) 31 16 + 1 - j.items)) (nr - j.rows.length)

/-- topk: the bias snapshot, taken once, then the selection (R334 to R337). -/
def topkRun (s : State) (die : Nat) (j : XpJob) : ERun :=
  let e := fld (j.word 0) 31 16 + 1
  if j.snap.isSome then topkSelect s die j
  else if j.word 3 = 0 then topkSelect s die { j with snap := some (List.replicate e 0) }
  else if serialised s j then .wait s j
  else engRead s die j j (ptrAddr (j.word 3)) (32 * e) fun s j v =>
    topkSelect (engDone s j) die { j with snap := some (unpackCodes v 32 e) }

/-- The values that bias copies next: those up to the end of a destination sector. -/
def biasChunk (j : XpJob) : Nat := min (fld (j.word 2) 16 0 - j.items) (8 - (ptrAddr (j.word 1) / 32 + j.items) % 8)

/-- bias: the values are copied unchanged, each a plain element write; a failure leaves those before it (R333, R336). -/
def biasRun (s : State) (die : Nat) (j : XpJob) : Nat → ERun
  | 0 => .ended s { j with ended := true }
  | n + 1 =>
    let m := biasChunk j
    if m = 0 then .ended s { j with ended := true }
    else engRead s die j j (ptrAddr (j.word 0) + 32 * j.items) (32 * m) fun s j v =>
      engWrite s die j j (ptrAddr (j.word 1) + 32 * j.items) (32 * m) v fun s j =>
        biasRun (engDone s j) die { j with items := j.items + m } n

/-! ### Walks (R338 to R340) -/

/-- The walker logs a page list that ends early (R340). -/
def listEnds (s : State) (die : Nat) (j : XpJob) (e : Nat) : State := logEngine s eXpstate (catAddr s e) j.ctx die engWalk

/-- The item of page `j` (R339). -/
def itemBits (em : Emit) (p : Word) : Nat :=
  packList 64 [em.kind <<< 62 + em.tag <<< 32 + (min 16 (em.n - 16 * em.j) - 1) <<< 16 + em.e, p.toNat, em.waddr.toNat, em.j]

/-- One item of the emission goes into its ring, or waits for room (R339, R340). The indices are read anew after a park: another
emission may have moved them. -/
def emitItem (s : State) (die : Nat) (j0 : XpJob) (em : Emit) (k : State → XpJob → ERun) : ERun :=
  let put := fun (s : State) (j : XpJob) (p : Word) =>
    engRead (engAnew s j [em.ring, em.ring + 64]) die j j0 em.ring 32 fun s j wi =>
      engRead s die j j0 (em.ring + 64) 32 fun s j ri =>
        if (wi + 2 ^ 32 - ri) % 2 ^ 32 = 2 ^ em.lring then .wait s (j.from j0)
        else engWrite s die j j0 (em.ring + 512 + 256 * (wi % 2 ^ em.lring)) 256 (itemBits em p) fun s j =>
          engWrite s die j j0 em.ring 32 ((wi + 1) % 2 ^ 32) fun s j =>
            let rest := if em.j + 1 < pagesOf em.n then some { em with page := p, j := em.j + 1 } else none
            k (engDone s j) { j with items := j.items + 1, cur := rest }
  if em.j = 0 then put s j0 em.page
  else engElem s die j0 j0 em.page 64 64 fun s j p =>
    if p = 0 then k (listEnds (engDone s j) die j em.e) { j with cur := none } else put s j (wordN p)

/-- Wait entries in use at a home die (R340). -/
def waitsAt (s : State) (die : Nat) : Nat := (s.xp.waits.filter (fun w => w.e % 4 == die)).length

/-- The action at the home table of an expert with `n` tokens from page `p` (R340, R344). -/
def walkTable (s : State) (j : XpJob) (e : Nat) (p : Word) (n : Nat) (k : State → XpJob → ERun) : ERun :=
  let r := resid s e
  let m := pagesOf n
  let stay := ERun.wait s { j with pend := some (e, p, n) }
  let ring := ptrAddr (j.word 3)
  let lring := fld (j.word 4) 47 40
  let tag := fld (j.word 0) 47 32
  let next := { j with pend := none, x := j.x + 1 }
  if m = 0 then k s next
  else if !residOwned s e j.ctx then k (logXpstate s e j.ctx) next
  else if r.st = rResident then
    if decide (65535 < r.lock + m) || !(waitsOf s e).isEmpty then stay
    else k (setResid s e { r with lock := r.lock + m })
      { next with cur := some ⟨e, ring, lring, tag, p, n, 0, 0, slotWord s e 0⟩ }
  else if 4096 ≤ waitsAt s (e % 4) then stay
  else
    let s := if r.st = rAbsent then startFetch s e else s
    k { s with xp := { s.xp with waits := s.xp.waits ++ [⟨e, ring, lring, tag, p, n, j.ctx, j.tag, false⟩] } }
      { next with pages := j.pages + m }

/-- A walk or an emission, item by item and expert by expert (R340); the fuel bounds one stretch of work. -/
def walkRun (s : State) (die : Nat) (j : XpJob) : Nat → ERun
  | 0 => .wait s j
  | n + 1 =>
    match j.cur with
    | some em => emitItem s die j em (fun s j => walkRun s die j n)
    | none =>
      if j.kind = 3 then .ended s { j with ended := true }
      else match j.pend with
      | some (e, p, t) => walkTable s j e p t (fun s j => walkRun s die j n)
      | none =>
        if fld (j.word 0) 15 0 < j.x then .ended s { j with ended := true }
        else
          let back := j
          engRead s die j back (ptrAddr (j.word 1) + 16 * j.x) 16 fun s j e =>
            engRead s die j back (ptrAddr (j.word 2) + 128 * e) 128 fun s j h =>
              engElem s die j back (wordN (h >>> 64)) 32 32 fun s j t =>
                walkTable (engDone s j) j e (wordN h) t (fun s j => walkRun s die j n)

/-- Items and experts of one stretch. -/
def walkFuel : Nat := 2 ^ 22

/-! ### Done words (R333) -/

/-- Where a command's done word lies; none for an emission. -/
def jobDone (j : XpJob) : Option Nat :=
  match j.kind with
  | 0 => some (ptrAddr (j.word 7))
  | 1 => some (ptrAddr (j.word 5))
  | 2 => some (ptrAddr (j.word 3))
  | _ => none

def doneWord (j : XpJob) : Nat :=
  let n := if j.kind = 1 then (j.pages % 2 ^ 24) <<< 24 + j.items % 2 ^ 24 else j.items % 2 ^ 48
  (if j.failed then 2 else 1) <<< 62 + j.code <<< 48 + n

/-- The state of a job after a stretch: over, waiting or parked. -/
inductive JobEnd
  | gone (s : State)
  | stay (s : State) (j : XpJob)
  | parked (s : State) (j : XpJob)
  deriving DecidableEq, Repr

/-- The done word is written after every other write of the command; a failed write of it is logged (R332, R333). -/
def finishJob (s : State) (die : Nat) (j : XpJob) : JobEnd :=
  match jobDone j with
  | none => .gone s
  | some a => match whoWrite s (.engine j.id) j.ctx gWalker a 64 (doneWord j) with
    | (s, ⟨_, _, true, _⟩) => .parked s j
    | (s, ⟨_, some (code, lo), false, _⟩) => .gone (logEngine s code lo j.ctx die (jobEng j))
    | (s, ⟨_, none, false, _⟩) => .gone s

/-- Work on a job until it is over, waits or parks; a parked access delays its own command (R332). -/
def runJob (s : State) (die : Nat) (j : XpJob) : JobEnd :=
  if j.ended then finishJob s die j
  else
    let r := match j.kind with
      | 0 => topkRun s die j
      | 2 => if j.items = 0 && serialised s j then .wait s j else biasRun s die j 65536
      | _ => walkRun s die j walkFuel
    match r with
    | .ended s j => finishJob (engDone s j) die j
    | .wait s j => .stay s j
    | .park s j => .parked s j

/-! ### The jobs of a die -/

def jobsOf (s : State) (die : Nat) : List XpJob := Tab.get [] s.xp.jobs die
def setJobs (s : State) (die : Nat) (l : List XpJob) : State := { s with xp := { s.xp with jobs := Tab.set [] die l s.xp.jobs } }
def putJob (s : State) (die : Nat) (j : XpJob) : State :=
  setJobs s die ((jobsOf s die).map (fun b => if b.id = j.id then j else b))
def dropJob (s : State) (die id : Nat) : State := setJobs s die ((jobsOf s die).filter (fun b => b.id != id))

def jobParked (s : State) (id : Nat) : Bool := isParked s (.engine id)

/-- The wait entry that an emission is for. -/
def WaitEnt.isOf (w : WaitEnt) (j : XpJob) : Bool :=
  w.armed && j.kind == 3 && w.req == j.tag && w.ctx == j.ctx && j.pend == some (w.e, w.page, w.n)

/-- A job is over: the wait entry of an emission is freed (R344). -/
def endJob (s : State) (die id : Nat) : State :=
  match (jobsOf s die).find? (fun j => j.id == id) with
  | none => s
  | some j =>
    let s := dropJob (engDone s j) die id
    match s.xp.waits.find? (fun w => w.isOf j) with
    | some w => { s with xp := { s.xp with waits := s.xp.waits.erase w } }
    | none => s

/-- Work on job `id` of a die; true where it waits, and keeps its engine waiting if that is the walker (R339). -/
def tryJob (s : State) (die id : Nat) : State × Bool :=
  match (jobsOf s die).find? (fun j => j.id == id) with
  | none => (s, false)
  | some j =>
    match runJob s die j with
    | .gone s => (endJob s die id, false)
    | .stay s j => (putJob s die j, true)
    | .parked s j => (putJob s die j, false)

/-- Work on the walker's jobs in order; a job that waits holds the later ones back (R331, R339). -/
def kickJobs (s : State) (die : Nat) : List Nat → State
  | [] => s
  | id :: r => match tryJob s die id with
    | (s, true) => s
    | (s, false) => kickJobs s die r

def isWalker (j : XpJob) : Bool := j.kind == 1

/-- Emissions of re-armed or dropped pages go on, each expert's in order (R344); a full ring holds up nothing else. -/
def kickEmits (s : State) (die : Nat) (held : List Nat) : List XpJob → State
  | [] => s
  | j :: r =>
    let e := (j.pend.map (·.1)).getD 0
    if held.contains e then kickEmits s die held r
    else
      let s := (tryJob s die j.id).1
      kickEmits s die (if (jobsOf s die).any (fun b => b.id == j.id) then e :: held else held) r

/-- Comparators that waited for a snapshot or a bias write go on (R336). -/
def kickBias (s : State) : State :=
  (s.xp.jobs.flatMap (fun d => (d.2.filter (fun j => j.kind == 0 || j.kind == 2)).map (fun j => (d.1, j.id)))).foldl
    (fun s x => (tryJob s x.1 x.2).1) s

/-- The engines of a die go on. -/
def kickDie (s : State) (die : Nat) : State :=
  let s := kickEmits s die [] ((jobsOf s die).filter (fun j => j.kind == 3))
  kickBias (kickJobs s die (((jobsOf s die).filter isWalker).map (·.id)))

/-- A job is started. -/
def addJob (s : State) (die : Nat) (j : XpJob) : State :=
  let id := s.xp.nextJob
  let s := { s with xp := { s.xp with nextJob := id + 1 } }
  setJobs s die (jobsOf s die ++ [{ j with id := id }])

def XpJob.init : XpJob :=
  { id := 0, kind := 0, ctx := 0, tag := 0, core := 0, team := 0, tcore := 0, seq := 0, words := [], x := 0, pend := none, cur := none,
    pages := 0, items := 0, snap := none, rows := [], code := 0, ended := false, failed := false }

/-! ### Home tables (R344 to R346) -/

/-- A wait entry's pages are emitted at once, into its ring (R344, R346). The entry is freed with its last item; `pend` of the job
names it. -/
def emitWait (s : State) (w : WaitEnt) (kind : Nat) (waddr : Word) : State :=
  let s := { s with xp := { s.xp with waits := { w with armed := true } :: s.xp.waits.erase w } }
  addJob s (w.e % 4) { XpJob.init with kind := 3, ctx := w.ctx, tag := w.req, pend := some (w.e, w.page, w.n),
                                       cur := some ⟨w.e, w.ring, w.lring, w.tag, w.page, w.n, 0, kind, waddr⟩ }

/-- Wait entries of a resident expert are re-armed in order while lock has room (R344). -/
def rearm (s : State) (e : Nat) : List WaitEnt → State
  | [] => s
  | w :: r =>
    let x := resid s e
    if 65535 < x.lock + pagesOf w.n then s
    else rearm (emitWait (setResid s e { x with lock := x.lock + pagesOf w.n }) w 1 (slotWord s e 0)) e r

/-- Locks that wait at the home table are applied once no wait entry waits for lock room (R345). -/
def applyLocks (s : State) (e : Nat) : List (Nat × Nat) → State
  | [] => s
  | l :: r =>
    let x := resid s e
    if x.lock = 65535 then s
    else
      let s := { s with xp := { s.xp with locks := s.xp.locks.erase l } }
      applyLocks (setResid s e { x with lock := x.lock + 1 }) e r

/-- Room for locks is handed out in order: wait entries, then locks (R344, R345). -/
def handOut (s : State) (e : Nat) : State :=
  let s := if (resid s e).st = rResident then rearm s e (waitsOf s e) else s
  let s := if (resid s e).st = rResident && !(waitsOf s e).isEmpty then s
    else applyLocks s e (s.xp.locks.filter (·.1 == e))
  kickDie s (e % 4)

/-- page op 0 (R345). -/
def pageFetch (s : State) (e : Nat) : State := if (resid s e).st = rAbsent then startFetch s e else s

/-- page op 1 (R345), of a launch with request tag `tag`. -/
def pageLock (s : State) (e tag : Nat) : State :=
  let r := resid s e
  let waits := r.lock == 65535 || s.xp.locks.any (·.1 == e) || (r.st == rResident && !(waitsOf s e).isEmpty)
  let s := if waits then { s with xp := { s.xp with locks := s.xp.locks ++ [(e, tag)] } } else setResid s e { r with lock := r.lock + 1 }
  pageFetch s e

/-- page op 2 (R345). -/
def pageUnlock (s : State) (e ctx u : Nat) : State :=
  let r := resid s e
  let s := if r.lock < u then logXpstate s e ctx else s
  claimSlots (handOut (setResid s e { r with lock := r.lock - u }) e)

/-- page op 3 (R345). -/
def pageEvict (s : State) (e : Nat) : State :=
  let r := resid s e
  if r.st = rResident && r.lock = 0 then claimSlots (setResid s e { r with st := rAbsent }) else s

/-- resarm op 0 (R346). -/
def resarmRetry (s : State) (e : Nat) : State := if (resid s e).st = rFailed then startFetch s e else s

/-- resarm op 1 (R346). -/
def resarmDrop (s : State) (e : Nat) : State :=
  let s := (waitsOf s e).foldl (fun s w => emitWait s w 2 0) s
  let r := resid s e
  handOut (if r.st = rFailed then setResid s e { r with st := rAbsent } else s) e

/-! ### Commands (R330 to R332) -/

/-- Command numbers: topk, walk, bias, page ops 0 to 3, resq, resarm ops 0 and 1. -/
def cTopk : Nat := 0
def cWalk : Nat := 1
def cBias : Nat := 2
def cPage (op : Nat) : Nat := 3 + op
def cResq : Nat := 7
def cResarm (op : Nat) : Nat := 8 + op

def XpCmd.word (c : XpCmd) (k : Nat) : Word := (c.words[k]?).getD 0

/-- The expert of a table command. -/
def XpCmd.expert (c : XpCmd) : Nat := fld (c.word 0) 15 0

/-- Where a command goes: the comparators, the walker, or a home table (R332). -/
def XpCmd.target (c : XpCmd) : Nat := if c.op = cWalk then 1 else if c.op < 3 then 0 else 2 + c.expert % 4

/-- Every earlier access of the strand, its stream reads among them, has performed (R246, R332). -/
def cmdReady (s : State) (c : XpCmd) : Bool :=
  !(standing s c.core).any (fun a => decide ((if isSin a then a.pid else a.id) < c.place) && a.team == c.team && stands a && !isFence a
    && (match a.op with | .connect _ => false | .pref => false | .scout => false | .resq _ => false | _ => true))

/-- The strand of a command, or of the job that it has become, wherever its team has been placed since. -/
def XpCmd.sameStrand (c : XpCmd) (tcore team : Nat) : Bool := c.tcore == tcore && c.team == team

/-- A command of the strand to the same engine or table stands before it in some die's queue; a walk goes to the tables of its experts
too (R332). -/
def cmdBehind (s : State) (c : XpCmd) : Bool :=
  (s.xp.cmds.flatMap (·.2)).any (fun b => decide (b.seq < c.seq) && c.sameStrand b.tcore b.team && (b.target == c.target || (b.op == cWalk && 3 ≤ c.op) || (c.op == cWalk && 3 ≤ b.op)))

/-- Entry `i` of a walk's list, as memory holds it; none where it cannot be read. -/
def listEntry (s : State) (j : XpJob) (i : Nat) : Option Nat :=
  let a := ptrAddr (j.word 1) + 16 * i
  match (translate s j.ctx a gWalker 0 false).2 with
  | .ok p => some (hbmBits s.hbm p 16)
  | _ => none

/-- A walk that runs has yet to reach the table for expert `e`. -/
def walkAhead (s : State) (j : XpJob) (e : Nat) : Bool :=
  j.kind == 1 && !j.ended && (span (if j.pend.isSome then j.x + 1 else j.x) (fld (j.word 0) 15 0 + 1 - (if j.pend.isSome then j.x + 1 else j.x))).any
    (fun i => match listEntry s j i with | some x => x == e | none => true)

/-- An earlier walk of the strand holds a command back: one to a table that it has yet to reach, or a later walk (R332). -/
def walkBefore (s : State) (c : XpCmd) : Bool :=
  (s.xp.jobs.flatMap (·.2)).any (fun j => j.kind == 1 && c.sameStrand j.tcore j.team && decide (j.seq < c.seq)
    && (if c.op = cWalk then !j.ended else decide (3 ≤ c.op) && walkAhead s j c.expert))

/-- The walker takes a new walk: no job of it waits for room (R331, R339). -/
def walkerFree (s : State) (die : Nat) : Bool := (jobsOf s die).all (fun j => !isWalker j || jobParked s j.id)

/-- A resq is answered (R346). -/
def resqAnswer (s : State) (c : XpCmd) : State :=
  match findAcc (s.core c.core) (c.word 1).toNat with
  | none => s
  | some a =>
    if residOwned s c.expert c.ctx then deliver s c.core a (residWord s c.expert)
    else deliver (logXpstate s c.expert c.ctx) c.core { a with err := some (eXpstate, 0) } 0

/-- A table command acts on its expert (R345, R346). -/
def tableCmd (s : State) (c : XpCmd) : State :=
  let e := c.expert
  if c.op = cResq then resqAnswer s c
  else if !residOwned s e c.ctx then logXpstate s e c.ctx
  else if c.op = cPage 0 then pageFetch s e
  else if c.op = cPage 1 then pageLock s e c.tag
  else if c.op = cPage 2 then pageUnlock s e c.ctx (fld (c.word 1) 15 0)
  else if c.op = cPage 3 then pageEvict s e
  else if c.op = cResarm 0 then resarmRetry s e
  else resarmDrop s e

/-- Command `k` of a die's queue is accepted: an engine starts it, or its home table receives it (R331). -/
def acceptCmd (s : State) (die k : Nat) : State :=
  let q := Tab.get [] s.xp.cmds die
  match takeNth k q with
  | none => s
  | some (c, rest) =>
    if !cmdReady s c || cmdBehind s c || walkBefore s c || (c.op == cWalk && !walkerFree s die) then s
    else
      let s := { s with xp := { s.xp with cmds := Tab.set [] die rest s.xp.cmds } }
      if c.op < 3 then
        let id := s.xp.nextJob
        kickBias (tryJob (addJob s die { XpJob.init with
          kind := c.op, ctx := c.ctx, tag := c.tag, core := c.core, team := c.team, tcore := c.tcore, seq := c.seq, words := c.words }) die id).1
      else tableCmd s c

/-- XP_COMMAND_ACCEPT (R331). -/
def execXpCommandAccept (die k : Nat) (s : State) : Out := .next (acceptCmd s die k)

/-- WALK_RESUME (R339). -/
def execWalkResume (die : Nat) (s : State) : Out := .next (kickDie s die)

/-! ### Fetches (R342 to R344) -/

/-- A fetch of `e` is under way at its pager. -/
def fetching (s : State) (e : Nat) : Bool := (resid s e).st == rFetching && (resid s e).claimed

/-- Weight length and slot capacity in bits. -/
def fetchLen (s : State) (e : Nat) : Nat := (catWord s e 2).toNat
def fetchFits (s : State) (e : Nat) : Bool := decide (fetchLen s e ≤ (slotWord s e 1).toNat)

/-- The source lies in device memory. -/
def fromDevice (s : State) (e : Nat) : Bool := fld (catWord s e 0) 62 61 == 2

/-- Free data of the cave: `n` bytes. -/
def caveData (s : State) (n : Nat) : State × Nat :=
  let (s, k) := draw s
  (s, gather (fun i => (Config.caveByte k i).toNat) 8 0 n)

/-- Outcome of a fetch: the frame is written, an access waits for its page, or one fails. -/
inductive Fetched
  | done (s : State)
  | wait (s : State)
  | fail
  deriving DecidableEq, Repr

/-- Where the pager's own accesses of a fetch are misaligned (R37): the frame, or the source in device memory. DESIGN CHOICE (log
entry 70): they are judged as words of 64 bits; the manual names no access width for the pager. -/
def fetchSkew (s : State) (e : Nat) : Option Nat :=
  if (slotWord s e 0).toNat % 64 ≠ 0 then some (slotWord s e 0).toNat
  else if fromDevice s e && (catWord s e 1).toNat % 64 ≠ 0 then some (catWord s e 1).toNat
  else none

/-- The weights are read and written to the frame as group 6 in the catalogue's context (R343). -/
def fetchData (s : State) (e : Nat) : Fetched :=
  let ctx := (resid s e).ctx
  let n := fetchLen s e
  let frame := (slotWord s e 0).toNat
  let put := fun (s : State) (v : Nat) => match whoWrite s (.fetch e) ctx gPager frame n v with
    | (s, ⟨_, _, true, _⟩) => Fetched.wait s
    | (_, ⟨_, some _, false, _⟩) => .fail
    | (s, ⟨_, none, false, _⟩) => .done s
  if (fetchSkew s e).isSome then .fail
  else if fromDevice s e then
    match whoRead s (.fetch e) ctx gPager (catWord s e 1).toNat n with
    | (s, ⟨_, _, true, _⟩) => .wait s
    | (s, ⟨v, none, false, []⟩) => put s v
    | _ => .fail
  else
    let (s, v) := caveData s (n / 8)
    put s v

/-- Every Read command of an NVMe fetch has completed without an error (R343). -/
def driveDone (s : State) (e : Nat) : Bool :=
  fld (catWord s e 0) 62 61 != 1 || (decide ((resid s e).done_ = nvReads s e) && !(resid s e).bad)

/-- The entry is resident and its wait entries are re-armed as one action; a fetch that waits for the slot then claims it where no
lock is left (R342, R344). -/
def fetchEnds (s : State) (e : Nat) : State :=
  claimSlots (handOut (setResid s e { resid s e with st := rResident, claimed := false }) e)

/-- The data of a fetch arrive, unless they wait. -/
def fetchStep (s : State) (e : Nat) : State :=
  if !fetching s e then s
  else
    let s := pollDrive s e
    if !fetchFits s e || !driveDone s e then s
    else match fetchData s e with
      | .wait s => s
      | .fail => s
      | .done s => fetchEnds (clearParts s (.fetch e)) e

/-- EXPERT_FETCH_COMPLETE (R344). -/
def execExpertFetchComplete (e : Nat) (s : State) : Out := .next (fetchStep s e)

/-- What can be read of a range: zeros where an access would fail or park. -/
def glimpse (s : State) (ctx g a n : Nat) : Nat :=
  ((sectors a n).map (fun k =>
    let (lo, len) := sectorPart a n k
    match (translate s ctx lo g 0 true).2 with
    | .ok p => hbmBits s.hbm p len <<< (lo - a)
    | _ => 0)).sum

/-- Write what can be written of a range. -/
def pokeParts (s : State) (ctx g a n v : Nat) : State :=
  (sectors a n).foldl (fun s k =>
    let (lo, len) := sectorPart a n k
    match translate s ctx lo g (storeKind lo len) false with
    | (s, .ok p) => (storePart s p len (v >>> (lo - a) % 2 ^ len)).1
    | _ => s) s

/-- A failed fetch leaves any mix of old and new data in its frame (R343); one whose accesses are misaligned makes none (R37). -/
def mixFrame (s : State) (e : Nat) : State :=
  if !fetchFits s e || (fetchSkew s e).isSome then s
  else
    let ctx := (resid s e).ctx
    let n := fetchLen s e
    let frame := (slotWord s e 0).toNat
    let (s, v) := if fromDevice s e then (s, glimpse s ctx gPager (catWord s e 1).toNat n) else caveData s (n / 8)
    let (s, k) := draw s
    let old := glimpse s ctx gPager frame n
    let mixed := gather (fun i => if Config.fetchMix (k + i) then v >>> (8 * i) else old >>> (8 * i)) 8 0 (n / 8)
    pokeParts { s with fresh := s.fresh + n / 8 } ctx gPager frame n mixed

/-- The fetch has failed: logged, the waiting pages stay, the slot is free (R342, R343). -/
def failFetch (s : State) (e : Nat) : State :=
  let ctx := (resid s e).ctx
  let s := dropParks (mixFrame s e) (fun w => w == .fetch e)
  let s := match fetchSkew s e with | some a => logEngine s eAlignment a ctx (e % 4) engPager | none => s
  let s := logEngine s eCavefail (slotWord s e 0).toNat ctx (e % 4) engPager
  let s := { s with xp := { s.xp with nvs := s.xp.nvs.map (fun x =>
    (x.1, { x.2 with out := x.2.out.map (fun c => if c.2 = some e then (c.1, none) else c) })) } }
  claimSlots (setResid s e { resid s e with st := rFailed, claimed := false })

/-- The weights do not fit their slot, the source reports an error, or an access of the pager fails (R342, R343). A drive reports it
in a completion; whether a read of the cave ends well is not this package's. -/
def fetchFails (s : State) (e : Nat) : Bool :=
  !fetchFits s e || (match fld (catWord s e 0) 62 61 with
    | 0 => true
    | 1 => (resid s e).bad || (driveDone s e && fetchData s e == .fail)
    | _ => fetchData s e == .fail)

/-- EXPERT_FETCH_FAIL (R342). -/
def execExpertFetchFail (e : Nat) (s : State) : Out :=
  if !fetching s e then .next s
  else
    let s := pollDrive s e
    .next (if fetchFails s e then failFetch s e else s)

/-- EXPERT_FETCH_TIMEOUT (R342): XR_CTL.tmo ms, 0 meaning none. -/
def execExpertFetchTimeout (e : Nat) (s : State) : Out :=
  if fetching s e && s.xp.tmo != 0 && decide (1000000 * s.xp.tmo ≤ (s.fe.time - (resid s e).t0).toNat) then
    .next (failFetch s e)
  else .next s

/-! ### Registers (R347) -/

def countRes (s : State) (p : Resid → Bool) : Nat := min (s.xp.res.filter (fun x => p x.2)).length 65535

/-- XR_STAT. -/
def xrStat (s : State) : Word :=
  wordN (countRes s (fun r => r.st == rFetching) <<< 48 + countRes s (fun r => r.st == rFailed) <<< 32
    + countRes s (fun r => r.lock != 0) <<< 16 + min s.xp.waits.length 65535)

/-- A catalogue entry without a reserved field, of a slot that exists (R341). -/
def catLegal (s : State) (e : Nat) : Bool :=
  match descWords s (catAddr s e) 4 with
  | some [w0, _, w2, w3] =>
    flag w0 63 && fld w0 62 61 != 3 && fld w0 60 48 == 0 && fld w0 15 2 == 0 && fld w3 63 32 == 0 && w2.toNat % 4096 == 0
      && decide (fld w0 31 16 < s.xp.slotn)
  | _ => false

/-- Load every entry from the catalogue (R347). -/
def loadCatalogue (s : State) : State :=
  (span 0 s.xp.catn).foldl (fun t e =>
    let w0 := catWord s e 0
    setResid t e ⟨rAbsent, fld w0 31 16, 0, catLegal s e, fld w0 47 32, false, 0, 0, 0, false⟩)
    { s with xp := { s.xp with res := [] } }

/-- XR_CTL load is refused while an entry is fetching or locked, or a wait entry is in use (R347). -/
def loadBusy (s : State) : Bool := s.xp.res.any (fun x => x.2.st == rFetching || x.2.lock != 0) || !s.xp.waits.isEmpty

end Sys2Proof.Machine
end

