-- ==== Sys2Proof/Machine/Requests.lean ====
section
/-!
DEFINITION. Requests in the front end: dependences and their judgement (R83 to R85), the scoreboards (R87, R88), aging
(R96), pin requests (R379, R380) and retirement (R376 to R378).
-/
namespace Sys2Proof.Machine

/-! ### Dependences (R83 to R85) -/

/-- The dependence words of a launch or a transfer (R86). -/
def depWords (r : Req) : List Word := if r.kind ≤ 1 then (span 15 4).map (draftOf r) else []

/-- What a request waits for: condition code and tag; a launch also waits for the outstanding create of its pin (R380). -/
def depsOf (r : Req) : List (Nat × Nat) :=
  ((depWords r).filter (fun w => fld w 63 62 != 0)).map (fun w => (fld w 63 62, fld w 47 0))
    ++ (match r.pinDep with | some t => [(2, t)] | none => [])

/-- A dependence as R84 judges it: none while it is unmet, else whether it is met or failed. -/
def judgeDep (s : State) (cond tag : Nat) : Option Bool :=
  if s.hasReq tag then none
  else match s.fe.retired.find? (fun e => e.1 == tag) with
    | some (_, clean) => some (clean || cond == 1)
    | none => some (cond == 1)

/-- Held in the front end and not yet judged (R88). -/
def isHeld (r : Req) : Bool := r.st == 0 && r.met.isNone && (r.kind ≤ 1 || (r.kind == 2 && fld (draftOf r 24) 63 62 == 0))

/-- A held request after a look at its dependences: cancelled, met with number `n`, or as it was (R85, R88). DESIGN CHOICE (log entry 38):
a dependence already met is judged anew until all are met. -/
def judgeReq (s : State) (n : Nat) (r : Req) : Req :=
  if !isHeld r then r
  else
    let js := (depsOf r).map (fun d => judgeDep s d.1 d.2)
    if js.contains (some false) then { r with status := 2, st := 3 }
    else if js.contains none then r
    else { r with met := some n }

/-- Look at every held request; those whose dependences become met together share one number (R88). -/
def judgeAll (s : State) : State :=
  { s with fe := { s.fe with reqs := s.fe.reqs.map (fun e => (e.1, judgeReq s s.fe.order e.2)), order := s.fe.order + 1 } }

/-- A request of the packet in progress is submitted: its emit counts (R68), and its dependences are judged. -/
def submitReq (s : State) (k q : Nat) (r : Req) : State :=
  let i := s.interp k
  let x := s.queue q
  let s := (s.setQueue q { x with pemit := i.emits + 1 }).setReq r.tag r
  judgeAll (s.setInterp k (goTo { i with emits := i.emits + 1, draft := draftInit, pend := none } (i.pc + 1)))

/-! ### The scoreboards (R86 to R88) -/

def scoreSize : Nat := 256

/-- The dies on which a request holds an entry (R86, R87). -/
def holdsOn (r : Req) (d : Nat) : Bool := r.entered != 0 && (r.kind != 1 || r.die == d)

def scoreUsed (s : State) (d : Nat) : Nat := (s.fe.reqs.filter (fun e => holdsOn e.2 d)).length

def scoreFree (s : State) (d : Nat) : Bool := decide (scoreUsed s d < scoreSize)

/-- Whether request `a` waits before request `b`: by the order in which dependences became met, then by tag (R88). -/
def waitsBefore (a b : Req) : Bool :=
  match a.met, b.met with
  | some m, some n => decide (m < n) || (m == n && decide (a.tag < b.tag))
  | some _, none => true
  | _, _ => false

/-- The held request that enters next. -/
def isNextHeld (s : State) (r : Req) : Bool :=
  r.st == 0 && r.met.isSome && s.fe.reqs.all (fun e => !(e.2.st == 0 && waitsBefore e.2 r))

/-- The die of a transfer's entry: the lowest with a free one (R87). -/
def xferDie (s : State) : Option Nat := (span 0 4).find? (scoreFree s)

/-- A request enters state 01, after every one that has entered before. Its aging begins here. -/
def enterScore (s : State) (r : Req) (d : Nat) : State :=
  let n := s.fe.order
  let s := s.setReq r.tag { r with st := 1, entered := n + 1, die := d, since := s.fe.time }
  { s with fe := { s.fe with order := n + 1 } }

/-- REQUEST_ENTER_SCOREBOARD (R88). -/
def execRequestEnterScoreboard (tag : Nat) (s : State) : Out :=
  let r := s.req tag
  .next (
    if !s.hasReq tag || !isNextHeld s r then s
    else if r.kind = 1 then (match xferDie s with | some d => enterScore s r d | none => s)
    else if (span 0 4).all (scoreFree s) then enterScore s r 0 else s)

/-! ### Ready teams and aging (R94, R96) -/

/-- A team that may be placed. -/
def isReadyTeam (tag : Nat) (t : Team) : Bool := t.tag == tag && t.st == .ready

/-- Initial teams of a launch (R22). -/
def teamCount (r : Req) : Nat := (draftOf r 1).toNat

/-- A launch in state 01 or 10 offers a team (R94). -/
def hasReadyTeam (s : State) (r : Req) : Bool :=
  (r.st == 1 || r.st == 2) && r.kind == 0 && offersTeam s r.tag

/-- Aging period of a class on a die, in ns; 0 where the class does not age (R96, R106). -/
def agePeriod (s : State) (d cls : Nat) : Nat :=
  if cls = 0 || decide (3 < cls) then 0 else 1000 * fld (s.die d).age (16 * cls - 1) (16 * cls - 16)

/-- A launch's aging begins again (R96). -/
def restartAging (s : State) (tag : Nat) : State := s.updReq tag (fun r => { r with aged := [], since := s.fe.time })

/-- CLASS_AGING (R96): one more full period has passed with a ready team and no placement. -/
def execClassAging (die tag : Nat) (s : State) : Out :=
  let r := s.req tag
  let n := Tab.get 0 r.aged die
  let p := agePeriod s die (draftOf r 3).toNat
  .next (
    if s.hasReq tag && hasReadyTeam s r && p != 0 && decide ((n + 1) * p ≤ s.fe.time.toNat - r.since.toNat)
        && decide (n < (draftOf r 3).toNat) then
      s.setReq tag { r with aged := Tab.set 0 die (n + 1) r.aged }
    else s)

/-- Effective class on a die (R96). -/
def effClass (r : Req) (d : Nat) : Nat := (draftOf r 3).toNat - Tab.get 0 r.aged d

/-! ### Pin requests (R379, R380) -/

def pinOp (r : Req) : Nat := fld (draftOf r 24) 63 62
def pinHandle (r : Req) : Nat := (draftOf r 5).toNat
def pinFirst (r : Req) : Nat := fld (draftOf r 24) 8 5
def pinBanks (r : Req) : Nat := fld (draftOf r 24) 4 0

/-- Word 3 of a pin request's record (R379). -/
def pinDetail (h home first count : Nat) : Word :=
  wordN (h % 2 ^ 16 * 2 ^ 48 + home % 64 * 2 ^ 42 + first % 16 * 2 ^ 38 + count % 32 * 2 ^ 33)

/-- A pin request ends with status 4, logged with pinrefused (R379). The home that its record names is free where no pin
gives it. -/
def refusePin (s : State) (r : Req) : State :=
  let (s, n) := draw s
  let (s, a) := freeAddr s
  let p := s.pin (pinHandle r)
  let d := if s.hasPin (pinHandle r) && pinOp r = 1 then pinDetail (pinHandle r) p.home p.first p.count
    else pinDetail (pinHandle r) (Config.pick n) (pinFirst r) (pinBanks r)
  (logErr s ePinrefused a r.ctx 0 r.queue 0).setReq r.tag { r with status := 4, st := 3, detail := d }

def maxPins : Nat := 1024

/-- A create is refused: the handle exists, an earlier create of it has not retired, or 1,024 pins exist (R379). -/
def createRefused (s : State) (h tag : Nat) : Bool :=
  s.hasPin h || (s.fe.creates.takeWhile (fun c => c.2.2 != tag)).any (fun c => c.1 == h) || decide (maxPins ≤ s.fe.pins.length)

/-- A release is refused: the handle neither exists in the context nor has a create outstanding there, or an earlier release
of it has not retired (R379). -/
def releaseRefused (s : State) (ctx h tag : Nat) : Bool :=
  (if s.hasPin h then (s.pin h).ctx != ctx else !s.fe.creates.any (fun c => c.1 == h && c.2.1 == ctx))
    || (s.fe.releases.takeWhile (fun c => c.2 != tag)).any (fun c => c.1 == h)

/-- A create takes its scoreboard entries at its emit where they are free, else it waits in state 00 (R86). -/
def enterCreate (s : State) (tag : Nat) : State :=
  if isNextHeld s (s.req tag) && (span 0 4).all (scoreFree s) then enterScore s (s.req tag) 0 else s

/-- A create that is refused at its emit holds its entries like any other until it retires (R86, R379); without free entries
it ends once it has entered, and status 4 marks it until then. -/
def refuseCreate (s : State) (tag : Nat) : State :=
  if (s.req tag).st = 1 then refusePin s (s.req tag) else s.updReq tag (fun r => { r with status := 4 })

/-- A pin request is emitted: noted for those that come after it until it retires, and refused at once where its handle stands in
the way. -/
def submitPin (s : State) (k q : Nat) (r : Req) : State :=
  let h := pinHandle r
  if pinOp r = 0 then
    let t := enterCreate (submitReq { s with fe := { s.fe with creates := s.fe.creates ++ [(h, r.ctx, r.tag)] } } k q r) r.tag
    if createRefused s h r.tag then refuseCreate t r.tag else t
  else
    let t := submitReq { s with fe := { s.fe with releases := s.fe.releases ++ [(h, r.tag)] } } k q r
    if releaseRefused s r.ctx h r.tag then refusePin t r else t

/-- A launch that names pin `h` and has not retired, one that waits for a root counter among them (R379). -/
def pinInUse (s : State) (h : Nat) : Bool :=
  s.fe.reqs.any (fun e => e.2.kind == 0 && pinHandle e.2 == h)
    || s.fe.ip.any (fun e => match e.2.pend with | some r => pinHandle r == h | none => false)

/-- The packet that emitted request `tag` is still in progress (R74). -/
def inHandling (s : State) (tag : Nat) : Bool :=
  tag % 2 ^ 32 == (s.queue (tagQueue tag)).ridx && s.fe.ip.any (fun e => e.2.queue == some (tagQueue tag) && e.2.busy)

/-- PIN_RELEASE (R379): the earlier launches have retired, and the banks stop being pinned. A release whose create failed is
refused. -/
def execPinRelease (tag : Nat) (s : State) : Out :=
  let r := s.req tag
  let h := pinHandle r
  .next (
    if !s.hasReq tag || r.kind != 2 || pinOp r != 1 || r.st != 0 || pinInUse s h || s.fe.creates.any (fun c => c.1 == h) then s
    else if releaseRefused s r.ctx h tag then refusePin s r
    else
      let p := s.pin h
      let left := s.fe.unpinned.filter (fun e => inHandling s e.1)
      { s with fe := { s.fe with pins := Tab.drop h s.fe.pins, unpinned := left ++ [(tag, h, p)] } }.setReq tag
        { r with st := 3, status := 0, detail := pinDetail h p.home p.first p.count })

/-! ### Retirement (R376 to R378) -/

/-- The effects of a request that have yet to perform (R376): accesses of its teams, XP commands, and walks whose pages wait;
a transfer's writes to other packages. -/
def effectsLeft (s : State) (r : Req) : Bool :=
  s.cores.any (fun e => e.2.accs.any (fun a => a.tag == r.tag))
    || s.xp.cmds.any (fun e => e.2.any (fun c => c.tag == r.tag))
    || s.xp.jobs.any (fun e => e.2.any (fun j => j.tag == r.tag))
    || s.xp.waits.any (fun w => w.req == r.tag)
    || s.xp.locks.any (·.2 == r.tag)
    || r.out != 0

/-- Where a completion record stands; none where none is written (R86, R377). -/
def recordAddr (r : Req) : Option Nat :=
  let a := (draftOf r 20).toNat
  let skip := fun n => a + 4096 * ceilDiv n 4096
  if a = 0 then none
  else some (if r.kind = 3 then skip (draftOf r 23).toNat else if r.kind = 4 then skip 25312 else a)

/-- Status of R377: a launch with killed teams, or what the request's end has set. -/
def recordStatus (r : Req) : Nat := if r.kind = 0 && r.status != 2 then (if r.killed = 0 then 0 else 1) else r.status

/-- Word 3 of R377. -/
def recordDetail (r : Req) : Word :=
  match r.kind with
  | 0 => wordN (min r.killed (2 ^ 32 - 1) * 2 ^ 32 + min r.spawned (2 ^ 32 - 1))
  | 1 => wordN (((draftOf r 21).toNat + r.copied) % 2 ^ 56)
  | 2 => r.detail
  | _ => 0

/-- The launch has passed its deadline (R22, R377). -/
def overrun (s : State) (r : Req) : Bool :=
  r.kind == 0 && draftOf r 4 != 0 && decide ((draftOf r 4).toNat < s.fe.time.toNat)

/-- The 256 bits of a completion record (R377). -/
def recordWord (s : State) (r : Req) : Nat :=
  packList 64 [0x57434D50 * 2 ^ 32 + 2 ^ 24 + r.kind * 2 ^ 21 + recordStatus r * 2 ^ 18 + b2n (overrun s r) * 2 ^ 17,
    r.tag, s.fe.time.toNat, (recordDetail r).toNat]

/-- The request is gone: its entries and its root counter are free, and its tag is among the 65,536 remembered (R376). -/
def forgetReq (s : State) (r : Req) : State :=
  judgeAll { s with fe := { s.fe with
    reqs := Tab.drop (r.tag + 1) s.fe.reqs,
    retired := ((r.tag, recordStatus r == 0) :: s.fe.retired.filter (fun e => e.1 != r.tag)).take 65536,
    creates := s.fe.creates.filter (fun c => c.2.2 != r.tag), releases := s.fe.releases.filter (fun c => c.2 != r.tag) } }

/-- Steps 4 and 5 of R376: the record, then the end. A record write that faults is logged and the request retires all the
same (R378). -/
def writeRecord (s : State) (r : Req) : State :=
  match recordAddr r with
  | none => forgetReq s r
  | some a =>
    match whoWrite s (.xfer r.tag) r.ctx gHost a 256 (recordWord s r) with
    | (s, ⟨_, _, true, _⟩) => s
    | (s, ⟨_, some (code, lo), false, _⟩) =>
      forgetReq (queueErr (logErr (clearParts s (.xfer r.tag)) code lo r.ctx 0 r.queue 0) r.queue code lo 0 r.queue 0) r
    | (s, ⟨_, none, false, _⟩) => forgetReq (clearParts s (.xfer r.tag)) r

/-- REQUEST_RETIRE (R376). -/
def execRequestRetire (tag : Nat) (s : State) : Out :=
  let r := s.req tag
  .next (
    if s.hasReq tag && r.st == 3 && (r.status == 2 || !effectsLeft s r) then writeRecord s r else s)

end Sys2Proof.Machine
end

