-- ==== Sys2Proof/Machine/Xmss.lean ====
section
/-!
DEFINITION. SHAKE256 and the XMSS scheme of R76, after FIPS 202, RFC 8391 and NIST SP 800-208 (log entry 7): the digests of R77 and
R78, and the verification and making of signatures. Hash values are lists of 32 bytes, numbers in them have their high byte first.
-/
namespace Sys2Proof.Machine

/-- `n` bytes of a value, low byte first. -/
def bytesOf (v : Nat) : Nat → List Byte
  | 0 => []
  | n + 1 => BitVec.ofNat 8 v :: bytesOf (v / 256) n

/-- A list of bytes as a value. -/
def ofBytes (bs : List Byte) : Nat := packList 8 (bs.map (·.toNat))

/-! ### SHAKE256 -/

def lane (a : List Word) (i : Nat) : Word := (a[i]?).getD 0

/-- Rotation of lane x + 5y. -/
def keccakRot : List Nat :=
  [0, 1, 62, 28, 27, 36, 44, 6, 55, 20, 3, 10, 43, 25, 39, 41, 45, 15, 21, 8, 18, 2, 61, 56, 14]

/-- Round constants. -/
def keccakRc : List Word :=
  [0x0000000000000001, 0x0000000000008082, 0x800000000000808A, 0x8000000080008000, 0x000000000000808B, 0x0000000080000001,
   0x8000000080008081, 0x8000000000008009, 0x000000000000008A, 0x0000000000000088, 0x0000000080008009, 0x000000008000000A]
  ++ [0x000000008000808B, 0x800000000000008B, 0x8000000000008089, 0x8000000000008003, 0x8000000000008002, 0x8000000000000080,
   0x000000000000800A, 0x800000008000000A, 0x8000000080008081, 0x8000000000008080, 0x0000000080000001, 0x8000000080008008]

/-- One round of Keccak on 25 lanes. -/
def keccakRound (a : List Word) (rc : Word) : List Word :=
  let c := (span 0 5).map (fun x => lane a x ^^^ lane a (x + 5) ^^^ lane a (x + 10) ^^^ lane a (x + 15) ^^^ lane a (x + 20))
  let d := (span 0 5).map (fun x => lane c ((x + 4) % 5) ^^^ (lane c ((x + 1) % 5)).rotateLeft 1)
  let t := (span 0 25).map (fun i => lane a i ^^^ lane d (i % 5))
  let b := (span 0 25).map (fun j =>
    let i := (j % 5 + 3 * (j / 5)) % 5 + 5 * (j % 5)
    (lane t i).rotateLeft ((keccakRot[i]?).getD 0))
  (span 0 25).map (fun j =>
    let y := j / 5 * 5
    (lane b j ^^^ (~~~ lane b ((j + 1) % 5 + y) &&& lane b ((j + 2) % 5 + y))) ^^^ (if j = 0 then rc else 0))

def keccakF (a : List Word) : List Word := keccakRc.foldl keccakRound a

/-- The lanes of 136 bytes, 17 of them. -/
def rateLanes (m : List Byte) : List Word :=
  (span 0 17).map (fun k => wordN (ofBytes ((m.drop (8 * k)).take 8)))

/-- The message with the padding of SHAKE256, in whole blocks. -/
def shakePad (m : List Byte) : List Byte :=
  let n := 136 - m.length % 136
  if n = 1 then m ++ [0x9F] else m ++ [0x1F] ++ List.replicate (n - 2) 0 ++ [0x80]

/-- Absorb `n` blocks. -/
def absorb (a : List Word) (m : List Byte) : Nat → List Word
  | 0 => a
  | n + 1 =>
    let b := rateLanes m
    absorb (keccakF ((span 0 25).map (fun i => lane a i ^^^ lane b i))) (m.drop 136) n

/-- SHAKE256 with 32 bytes of output. -/
def shakeBytes (m : List Byte) : List Byte :=
  let p := shakePad m
  let a := absorb (List.replicate 25 0) p (p.length / 136)
  (span 0 4).flatMap (fun k => bytesOf (lane a k).toNat 8)

/-- SHAKE256 with 256 bits of output, the first byte lowest (R77, R78). -/
def shake256 (m : List Byte) : BitVec 256 := BitVec.ofNat 256 (ofBytes (shakeBytes m))

/-! ### The functions of the parameter set (SP 800-208) -/

/-- `x` in `n` bytes, the high one first. -/
def toByte (x n : Nat) : List Byte := (span 0 n).map (fun i => BitVec.ofNat 8 (x >>> (8 * (n - 1 - i))))

def xmssF (key m : List Byte) : List Byte := shakeBytes (toByte 0 32 ++ key ++ m)
def xmssH (key m : List Byte) : List Byte := shakeBytes (toByte 1 32 ++ key ++ m)
def xmssHmsg (key m : List Byte) : List Byte := shakeBytes (toByte 2 32 ++ key ++ m)
def xmssPrf (key m : List Byte) : List Byte := shakeBytes (toByte 3 32 ++ key ++ m)

/-- An address of the scheme: kind 0 a chain of a leaf, 1 an L-tree, 2 the hash tree; `km` selects key or mask. -/
def xmssAdrs (kind a b c km : Nat) : List Byte :=
  toByte 0 12 ++ toByte kind 4 ++ toByte a 4 ++ toByte b 4 ++ toByte c 4 ++ toByte km 4

def xorBytes (a b : List Byte) : List Byte := (a.zip b).map (fun p => p.1 ^^^ p.2)

/-- The parent of two nodes, under the address `adrs` of a key or mask. -/
def randHash (l r seed : List Byte) (adrs : Nat → List Byte) : List Byte :=
  let k := fun (i : Nat) => xmssPrf seed (adrs i)
  xmssH (k 0) (xorBytes l (k 1) ++ xorBytes r (k 2))

/-! ### One-time signatures -/

/-- `n` steps of chain `j` of leaf `leaf`, from step `i` on. -/
def wotsChain (seed : List Byte) (leaf j : Nat) (x : List Byte) (i : Nat) : Nat → List Byte
  | 0 => x
  | n + 1 =>
    let k := fun (m : Nat) => xmssPrf seed (xmssAdrs 0 leaf j i m)
    wotsChain seed leaf j (xmssF (k 0) (xorBytes x (k 1))) (i + 1) n

/-- Bytes in digits of base 16, the high one first. -/
def digits16 (m : List Byte) : List Nat := m.flatMap (fun b => [b.toNat / 16, b.toNat % 16])

/-- The 67 digits that a one-time signature of a 32-byte digest signs: its own and those of their checksum. -/
def wotsDigits (m : List Byte) : List Nat :=
  let d := digits16 m
  d ++ (digits16 (toByte ((d.map (fun x => 15 - x)).sum * 16) 2)).take 3

/-- The L-tree over a list of nodes, from height `h`; `n` bounds its height. -/
def lTree (seed : List Byte) (leaf h : Nat) (ns : List (List Byte)) : Nat → List Byte
  | 0 => ns.headD []
  | n + 1 =>
    if ns.length ≤ 1 then ns.headD []
    else
      let up := (span 0 (ns.length / 2)).map (fun i =>
        randHash ((ns[2 * i]?).getD []) ((ns[2 * i + 1]?).getD []) seed (xmssAdrs 1 leaf h i))
      lTree seed leaf (h + 1) (up ++ (if ns.length % 2 = 1 then ns.drop (ns.length - 1) else [])) n

/-! ### Verification -/

def xmssN : Nat := 32
def xmssLen : Nat := 67
def xmssHeight : Nat := 20

/-- Bytes and bits of a signature (R76). -/
def signBytes : Nat := 4 + xmssN + xmssLen * xmssN + xmssHeight * xmssN
def signBits : Nat := 8 * signBytes

/-- The identifier of XMSS-SHAKE256_20_256 (SP 800-208). -/
def xmssId : Nat := 0x12

/-- A public key: identifier, root and seed (R76). -/
def publicKey (root seed : List Byte) : List Byte := toByte xmssId 4 ++ root ++ seed

/-- A number with its high byte first. -/
def ofByte (l : List Byte) : Nat := l.foldl (fun n b => 256 * n + b.toNat) 0

/-- The leaf that a one-time signature gives. -/
def otsLeaf (seed : List Byte) (i : Nat) (digest : List Byte) (ots : List Byte) : List Byte :=
  lTree seed i 0 (((wotsDigits digest).zip (span 0 xmssLen)).map (fun e =>
    wotsChain seed i e.2 ((ots.drop (xmssN * e.2)).take xmssN) e.1 (15 - e.1))) 8

/-- The root above node `x` of leaf index `i`, from height `k` on, along an authentication path. -/
def rootAbove (seed : List Byte) (i k : Nat) (x : List Byte) : List (List Byte) → List Byte
  | [] => x
  | y :: ys =>
    let adrs := xmssAdrs 2 0 k (i / 2 ^ (k + 1))
    rootAbove seed i (k + 1) (if i / 2 ^ k % 2 = 0 then randHash x y seed adrs else randHash y x seed adrs) ys

/-- A signature of message `m` verifies under a public key (R76). -/
def xmssVerify (key m sig : List Byte) : Bool :=
  let root := (key.drop 4).take xmssN
  let seed := (key.drop (4 + xmssN)).take xmssN
  let i := ofByte (sig.take 4)
  let r := (sig.drop 4).take xmssN
  let digest := xmssHmsg (r ++ root ++ toByte i xmssN) m
  let ots := (sig.drop (4 + xmssN)).take (xmssLen * xmssN)
  let auth := (span 0 xmssHeight).map (fun k => (sig.drop (4 + xmssN + xmssLen * xmssN + xmssN * k)).take xmssN)
  key.take 4 == toByte xmssId 4 && sig.length == signBytes && key.length == 4 + 2 * xmssN
    && rootAbove seed i 0 (otsLeaf seed i digest ots) auth == root

/-! ### The identity key (R80) -/

/-- The secret start of chain `j` of leaf `i`, and the other secrets: of the identity key, which only the root core reads. -/
def identityStart (i j : Nat) : List Byte := bytesOf (Config.identityChain i j).toNat xmssN
def identitySeed : List Byte := bytesOf Config.identitySeed.toNat xmssN

/-- Node `i` at height `h` of the identity key's tree. -/
def identityNode : Nat → Nat → List Byte
  | 0, i => lTree identitySeed i 0 ((span 0 xmssLen).map (fun j => wotsChain identitySeed i j (identityStart i j) 0 15)) 8
  | h + 1, i => randHash (identityNode h (2 * i)) (identityNode h (2 * i + 1)) identitySeed (xmssAdrs 2 0 h i)

def identityRoot : List Byte := identityNode xmssHeight 0
def identityKey : List Byte := publicKey identityRoot identitySeed

/-- The device's signature with leaf index `i` over a message (R80, R81). -/
def xmssSign (i : Nat) (m : List Byte) : List Byte :=
  let r := xmssPrf (bytesOf Config.identityPrf.toNat xmssN) (toByte i xmssN)
  let digest := xmssHmsg (r ++ identityRoot ++ toByte i xmssN) m
  toByte i 4 ++ r
    ++ ((wotsDigits digest).zip (span 0 xmssLen)).flatMap (fun e => wotsChain identitySeed i e.2 (identityStart i e.2) 0 e.1)
    ++ (span 0 xmssHeight).flatMap (fun k => identityNode k ((i / 2 ^ k) ^^^ 1))

end Sys2Proof.Machine
end

