-- ==== Sys2Proof/Machine/Emit.lean ====
section
/-!
DEFINITION. The emits of Lerant (R70): the checks of each kind, what a request keeps, and the kinds that the front end carries
out at the emit (R74, R79, R81); the native decoder (R71); and the run of a packet (R64).
-/
namespace Sys2Proof.Machine

/-! ### Reads and writes of an emit -/

/-- An access of the front end for the packet of interpreter `k`: done, failed, or parked (the state then holds the park and
the emit is made again). -/
inductive Rd
  | ok (s : State) (v : Nat)
  | bad (s : State) (code a : Nat)
  | park (s : State)
  deriving DecidableEq, Repr

def feRead (s : State) (k q a n : Nat) : Rd :=
  let ctx := (s.queue q).ctx
  match whoRead s (.interp k) ctx gHost a n with
  | (s, ⟨_, _, true, _⟩) => .park s
  | (s, ⟨_, some (code, lo), false, e⟩) => .bad (queueEcc s q e) code lo
  | (s, ⟨v, none, false, e⟩) => .ok (queueEcc s q e) v

def feWrite (s : State) (k q a n v : Nat) : Rd :=
  let ctx := (s.queue q).ctx
  match whoWrite s (.interp k) ctx gHost a n v with
  | (s, ⟨_, _, true, _⟩) => .park s
  | (s, ⟨_, some (code, lo), false, _⟩) => .bad s code lo
  | (s, ⟨_, none, false, _⟩) => .ok s 0

/-- What interpreter `k` writes at `a` where its write waits for a page: its length and bits stay as they were at the emit. -/
def keptWrite (s : State) (k a : Nat) : Option (Nat × Nat) :=
  s.xl.parts.findSome? (fun p => if p.who == .interp k && !p.wr && p.lo == a then
    (match p.res with | .ok v => some (p.len, v) | _ => none) else none)

/-- Keep the bits that interpreter `k` is to write at `a`. -/
def keepWrite (s : State) (k a n v : Nat) : State := keepParts s (.interp k) false [(a, n, some (.ok v))]

/-- Word `i` of a value. -/
def wordAt (v i : Nat) : Word := wordN (v >>> (64 * i))

/-- How the checks of an emit end: a request, a refusal (code, detail, and the address of an error-log record if it writes
one), or a park. -/
inductive ERes
  | ok (s : State) (r : Req)
  | rej (s : State) (code detail : Nat) (log : Option Nat)
  | park (s : State)
  deriving DecidableEq, Repr

def draftAt (x : Interp) (f : Nat) : Word := Tab.get 0 x.draft f
def draftNat (x : Interp) (f : Nat) : Nat := (draftAt x f).toNat

/-- The first check that fails, as code and detail. -/
def firstBad : List (Bool × Nat × Nat) → Option (Nat × Nat)
  | [] => none
  | (b, c, d) :: r => if b then some (c, d) else firstBad r

/-! ### The kernel image (R20, R21, R103, R256) -/

/-- A header that R21 does not refuse; `lim` is the image's length in bits. -/
def headerGood (h lim : Nat) : Bool :=
  let w := wordAt h
  let n := fld (w 0) 1 0 + 1
  let tab := fld (w 2) 55 0
  fld (w 0) 63 32 == 0x57584B31 && fld (w 0) 31 24 == 1 && fld (w 0) 23 16 != 0 && decide (fld (w 0) 15 8 ≤ 128)
    && fld (w 0) 7 2 == 0 && fld (w 1) 63 48 != 0 && fld (w 2) 63 56 == 0 && fld (w 3) 63 56 == 0
    && (span n (4 - n)).all (fun k => fld (w 1) (12 * k + 11) (12 * k) == 0)
    && decide (tab < lim) && decide (tab + 128 * fld (w 0) 23 16 ≤ lim)
    && (fld (w 3) 55 0 == 0 || decide (fld (w 3) 55 0 + 1024 ≤ lim))

/-- A segment-table entry that R21 does not refuse (R103); DESIGN CHOICE (log entry 38): an off that is no multiple of 64 bits is
refused too, which neither rule names. -/
def segGood (one : Bool) (lim : Nat) (e : Nat) : Bool :=
  let off := bits e 55 0
  let len := bits e 75 64
  bits e 63 56 == 0 && bits e 127 76 == 0 && off % 64 == 0 && decide (off < lim) && (one || decide (len ≤ 2047))
    && decide (off + 192 * (len + 1) ≤ lim)

/-- Entries of the segment table as offset and length. -/
def segsOf (t n : Nat) : List (Nat × Nat) :=
  (span 0 n).map (fun k => (bits (t >>> (128 * k)) 55 0, bits (t >>> (128 * k)) 75 64))

/-- The image read and checked: what the front end keeps, a refusal, or a park. -/
inductive ImgRes
  | ok (s : State) (i : Img)
  | bad (s : State)
  | park (s : State)
  deriving DecidableEq, Repr

/-- The format table of an image with header `h` (R256). -/
def readFormats (s : State) (k q base h : Nat) (i : Img) : ImgRes :=
  let f := fld (wordAt h 3) 55 0
  if f = 0 then .ok s i
  else match feRead s k q (base + f) 1024 with
    | .bad s _ _ => .bad s
    | .park s => .park s
    | .ok s v =>
      if (span 0 16).all (fun j => entryLegal (wordAt v j).toNat) then
        .ok s { i with fmt := Tab.setList fmtDefault 0 ((span 0 16).map (fun j => BitVec.ofNat 32 (wordAt v j).toNat)) [] }
      else .bad s

/-- Read and check the image at `base` (R21). A header that cannot be read is refused like one that is wrong. -/
def readImage (s : State) (k q base : Nat) : ImgRes :=
  match feRead s k q base 256 with
  | .bad s _ _ => .bad s
  | .park s => .park s
  | .ok s h =>
    let lim := 16384 * fld (wordAt h 1) 63 48
    let nseg := fld (wordAt h 0) 23 16
    let tab := fld (wordAt h 2) 55 0
    let n := fld (wordAt h 0) 1 0 + 1
    if !headerGood h lim then .bad s
    else match feRead s k q (base + tab) (128 * nseg) with
      | .bad s _ _ => .bad s
      | .park s => .park s
      | .ok s t =>
        let es := (span 0 n).map (fun j => fld (wordAt h 1) (12 * j + 11) (12 * j))
        let segs := segsOf t nseg
        if !(span 0 nseg).all (fun j => segGood (nseg == 1) lim (t >>> (128 * j) % 2 ^ 128))
            || es.any (fun e => decide (((segs[0]?).getD (0, 0)).2 < e)) then .bad s
        else
          readFormats s k q base h { base := base, nseg := nseg, carve := 32 * fld (wordAt h 0) 15 8, n := n, entries := es,
                                     segs := segs, segtab := tab, fmt := [] }

/-! ### Launch (R22, R23, R70, R83, R90, R91, R380) -/

/-- One dependence word of an emit (R83): none, or the refusal. -/
def depBad (s : State) (q emits f : Nat) (w : Word) : Option (Nat × Nat) :=
  let cond := fld w 63 62
  let tq := fld w 47 34
  let x := s.queue q
  let d := ((s.queue tq).ridx + 2 ^ 32 - fld w 31 0) % 2 ^ 32
  let cur := tq == q && d == 0
  firstBad [
    (cond == 3 || fld w 61 48 != 0 || (cond == 0 && w != 0), eDraft, f),
    (cond != 0 && (if cur then decide (emits ≤ fld w 33 32) else !(decide (1 ≤ d) && decide (d ≤ 2 ^ 31 - 1))), eDraft, f),
    (cond != 0 && x.ctx != 0 && (s.queue tq).ctx != x.ctx, ePerm, f)]

/-- The dependence words of a draft, lowest field first. -/
def depsBad (s : State) (q : Nat) (x : Interp) : Option (Nat × Nat) :=
  (span 15 4).findSome? (fun f => depBad s q x.emits f (draftAt x f))

/-- A record field out of range (R70, R377); `m` is the alignment that the kind asks for. -/
def recordBad (x : Interp) (m : Nat) : Bool :=
  let a := draftNat x 20
  a != 0 && (a % m != 0 || decide (2 ^ 56 ≤ a) || !isMem a)

/-- First bank and bank count of the pin that a launch names, from the pin or its outstanding create; none where R380
refuses the launch. -/
def pinBanksFor (s : State) (ctx h : Nat) : Option (Nat × Nat) :=
  if s.fe.releases.any (fun c => c.1 == h && (s.req c.2).status != 4) then none
  else if s.hasPin h then (if (s.pin h).ctx = ctx then some ((s.pin h).first, (s.pin h).count) else none)
  else (s.fe.creates.find? (fun c => c.1 == h && c.2.1 == ctx)).map (fun c => (pinFirst (s.req c.2.2), pinBanks (s.req c.2.2)))

/-- Banks [a, a+n) and scratchpad bits [o, o+len) meet. -/
def banksMeet (b : Nat × Nat) (o len : Nat) : Bool :=
  decide (0 < len) && decide (b.1 * bankBits < o + len) && decide (o < (b.1 + b.2) * bankBits)

/-- Fields 1 to 8 of a launch (R22, R23, R101). -/
def launchFields (s : State) (q : Nat) (x : Interp) (i : Img) : Option (Nat × Nat) :=
  let t := draftNat x 1
  let gang := draftNat x 2
  let h := draftNat x 5
  let carve := 64 * i.carve
  firstBad [
    (t == 0 || decide ((if gang = 0 then 2 ^ 20 else 64) < t) || (gang != 0 && decide (256 < t * i.n))
      || (h != 0 && decide (1 < t)), eDraft, 1),
    (decide (1 < gang), eDraft, 2),
    (decide (3 < draftNat x 3), eDraft, 3),
    (decide (2 ^ 16 ≤ h), eDraft, 5),
    (h != 0 && (pinBanksFor s (s.queue q).ctx h).isNone, ePinrefused, 5),
    (h != 0 && banksMeet ((pinBanksFor s (s.queue q).ctx h).getD (0, 0)) (spadBits - carve) carve, eDraft, 5),
    (decide (1 < draftNat x 6), eDraft, 6),
    (decide (draftNat x 7 < 256) || decide (16777215 < draftNat x 7), eDraft, 7),
    (decide (2 ^ 40 ≤ draftNat x 8), eDraft, 8)]

/-- Field 19 itself (R90). -/
def streamsBad (w : Word) : Bool :=
  decide (8 < fld w 63 60) || fld w 59 56 != 0 || (fld w 63 60 == 0 && w != 0) || fld w 55 0 % 256 != 0

/-- Entry `k` of an input-stream table. -/
def streamOf (t k : Nat) : InStream :=
  let w := fun (i : Nat) => wordAt t (4 * k + i)
  { src := w 0, cstride := sext (fld (w 1) 63 32) 32, cores := fld (w 1) 25 22, dst := fld (w 1) 21 0, len := fld (w 2) 22 0,
    tstride := (w 3).toInt }

/-- A reserved field of entry `k` is set. -/
def streamReserved (t k : Nat) : Bool :=
  flag (wordAt t (4 * k)) 56 || fld (wordAt t (4 * k + 1)) 31 26 != 0 || fld (wordAt t (4 * k + 2)) 63 23 != 0

/-- An entry that R91 refuses: its length, its end, its cores, or the named pin's banks. -/
def streamBad (i : Img) (pin : Option (Nat × Nat)) (e : InStream) : Bool :=
  e.len == 0 || decide (spadBits - 64 * i.carve < e.dst + e.len) || e.cores >>> i.n != 0
    || (match pin with | some b => banksMeet b e.dst e.len | none => false)

/-- Two entries overlap in a core that they both fill (R91). -/
def streamsMeet : List InStream → Bool
  | [] => false
  | e :: r => r.any (fun f => e.cores &&& f.cores != 0 && decide (e.dst < f.dst + f.len) && decide (f.dst < e.dst + e.len))
      || streamsMeet r

/-- The input-stream table is read once (R90): its entries, the refusal of R91, or the fault. -/
def readStreams (s : State) (k q : Nat) (x : Interp) (i : Img) (pin : Option (Nat × Nat)) :
    Except ERes (State × List InStream) :=
  let w := draftAt x 19
  let n := fld w 63 60
  if streamsBad w then .error (.rej s eDraft 19 none)
  else if n = 0 then .ok (s, [])
  else match feRead s k q (fld w 55 0) (256 * n) with
    | .bad s _ _ => .error (.rej s eUnmapped 19 none)
    | .park s => .error (.park s)
    | .ok s t =>
      let es := (span 0 n).map (streamOf t)
      if (span 0 n).any (streamReserved t) || es.any (streamBad i pin) || streamsMeet es then .error (.rej s eDraft 19 none)
      else .ok (s, es)

/-- A request of the packet in progress. -/
def newReq (s : State) (q : Nat) (x : Interp) (kind : Nat) : Req :=
  { Req.init with tag := reqTag q x.emits (s.queue q).ridx, kind := kind, queue := q, ctx := (s.queue q).ctx, draft := x.draft }

/-- The create, not yet retired, that a launch naming pin `h` waits for: the pin's own, or where there is no pin the first of its
context (R380). -/
def pinWait (s : State) (ctx h : Nat) : Option Nat :=
  if h = 0 then none
  else (s.fe.creates.find? (fun c => if s.hasPin h then c.2.2 == (s.pin h).tag else c.1 == h && c.2.1 == ctx)).map (·.2.2)

/-- The checks of a launch emit. An invalid context is refused like a bad image (R21, R110). -/
def checkLaunch (s : State) (k q : Nat) (x : Interp) : ERes :=
  let base := draftNat x 0
  let ctx := (s.queue q).ctx
  if base % 4096 != 0 || decide (2 ^ 56 ≤ base) then .rej s eDraft 0 none
  else match descriptor s ctx with
    | (s, none) => .rej s eImage 0 (some base)
    | (s, some _) => match readImage s k q base with
      | .park s => .park s
      | .bad s => .rej s eImage 0 (some base)
      | .ok s i =>
        let h := draftNat x 5
        match (launchFields s q x i).or (depsBad s q x) with
        | some (c, d) =>
          let (s, a) := freeAddr s
          .rej s c d (if c = ePinrefused then some a else none)
        | none => match readStreams s k q x i (if h = 0 then none else pinBanksFor s ctx h) with
          | .error e => e
          | .ok (s, es) =>
            if recordBad x 256 then .rej s eDraft 20 none
            else .ok s { newReq s q x 0 with
              img := i, ins := es, e := 2 ^ 63, counter := true,
              pinDep := pinWait s ctx h }

/-- Root counters (R70). -/
def rootCounters : Nat := 4096

def countersUsed (s : State) : Nat := (s.fe.reqs.filter (fun e => e.2.counter)).length

/-- A launch is submitted, or waits with its interpreter for a root counter (R70). -/
def submitLaunch (s : State) (k q : Nat) (r : Req) : State :=
  if countersUsed s < rootCounters then submitReq s k q r else s.setInterp k { s.interp k with pend := some r }

/-! ### Transfer and pin control (R89, R379) -/

/-- The end of regions 1 to 13. -/
def rangeEnd : Nat := 14 * 2 ^ 52

def rangeBad (a n : Nat) : Bool := decide (a < 2 ^ 52) || decide (rangeEnd < a + n)

def checkTransfer (s : State) (_k q : Nat) (x : Interp) : ERes :=
  let a := draftNat x 21
  let b := draftNat x 22
  let n := draftNat x 23
  let badLen := n == 0 || decide (2 ^ 40 < n)
  let m := if badLen then 1 else n
  match (depsBad s q x).or (firstBad [
      (recordBad x 256, eDraft, 20),
      (rangeBad a m || (!badLen && !rangeBad b n && decide (a < b + n) && decide (b < a + n)), eDraft, 21),
      (rangeBad b m, eDraft, 22), (badLen, eDraft, 23)]) with
  | some (c, d) => .rej s c d none
  | none => .ok s (newReq s q x 1)

def checkPin (s : State) (_k q : Nat) (x : Interp) : ERes :=
  let h := draftNat x 5
  let w := draftAt x 24
  let op := fld w 63 62
  match firstBad [
      (h == 0 || decide (2 ^ 16 ≤ h), eDraft, 5),
      (recordBad x 256, eDraft, 20),
      (decide (1 < op) || fld w 61 9 != 0 || (op == 1 && fld w 8 0 != 0)
        || (op == 0 && (fld w 4 0 == 0 || decide (16 < fld w 8 5 + fld w 4 0))), eDraft, 24)] with
  | some (c, d) => .rej s c d none
  | none => .ok s (newReq s q x 2)

/-! ### Resynchronise (R74) -/

/-- What queue `q` sees of another context. -/
def sees (ctx c : Nat) : Bool := ctx == 0 || ctx == c

/-- Queue entry of R74. -/
def syncQueue (s : State) (q : Nat) : Nat :=
  let x := s.queue q
  packList 64 [x.ridx * 2 ^ 32 + x.seen, x.st * 2 ^ 62 + x.ival * 2 ^ 58 + x.ctx * 2 ^ 32 + x.errseq]

/-- Teams of a launch that hold cores. -/
def residentTeams (s : State) (tag : Nat) : Nat := (s.fe.teams.filter (fun e => e.2.tag == tag && !e.2.cores.isEmpty)).length

/-- Launch entry of R74. -/
def syncLaunch (s : State) (r : Req) : Nat :=
  packList 64 [r.tag,
    r.ctx * 2 ^ 48 + r.st % 4 * 2 ^ 46 + fld (draftOf r 3) 1 0 * 2 ^ 44 + min (residentTeams s r.tag) 4095 * 2 ^ 32
      + min r.killed (2 ^ 32 - 1),
    (draftOf r 4).toNat, min (r.e - r.d) (2 ^ 64 - 1)]

/-- The launch that holds a pin, by its tag, or 0. -/
def pinHolder (s : State) (p : Pin) : Nat :=
  match p.team with
  | some t => if s.fe.teams.any (fun e => e.1 == t) then (s.team t).tag else 0
  | none => 0

/-- Pin entry of R74. -/
def syncPin (s : State) (h : Nat) (p : Pin) : Nat :=
  packList 64 [h * 2 ^ 48 + p.st * 2 ^ 46 + p.home * 2 ^ 40 + p.first * 2 ^ 36 + p.count * 2 ^ 31 + p.ctx, pinHolder s p]

/-- Parked-fault entry of R74 for a record of MTU `m` (R128). -/
def syncFault (s : State) (m : Nat) (r : FaultRec) : Nat :=
  packList 64 [m * 2 ^ 61 + r.g * 2 ^ 56 + r.addr, r.ctx * 2 ^ 48 + (s.fe.time - r.time).toNat % 2 ^ 48]

/-- FE_ELOG_STAT (R73). -/
def elogStat (s : State) : Nat := s.fe.elogLost * 2 ^ 32 + s.fe.elogWp * 2 ^ 16 + s.fe.elogRp

/-- Entries that fit into `n` bits, in order: their bits, how many bits, and whether any was left out. -/
def fitEntries (n : Nat) : List (Nat × Nat) → Nat × Nat × Bool
  | [] => (0, 0, false)
  | (w, v) :: r =>
    if w ≤ n then
      let (x, m, t) := fitEntries (n - w) r
      (v % 2 ^ w + x <<< w, w + m, t)
    else (0, 0, true)

/-- The packet that emitted request `tag` is still in progress on an interpreter of another queue than `q` (R74). -/
def stillHandled (s : State) (q tag : Nat) : Bool := tagQueue tag != q && inHandling s tag

/-- The pins that a summary for queue `q` reflects: those that packets in progress have made are left out, and those that they have
released stay (R74). -/
def pinsSeen (s : State) (q : Nat) : List (Nat × Pin) :=
  s.fe.pins.filter (fun e => !stillHandled s q e.2.tag)
    ++ ((s.fe.unpinned.filter (fun e => stillHandled s q e.1 && !stillHandled s q e.2.2.tag)).map (·.2))

/-- The summary for queue `q` within `len` bits: its length and bits (R74). -/
def summary (s : State) (q len : Nat) : Nat × Nat :=
  let ctx := (s.queue q).ctx
  let qs := (span 0 16384).filter (fun p => sees ctx (s.queue p).ctx)
  let ls := s.fe.reqs.filter (fun e => e.2.kind == 0 && sees ctx e.2.ctx && !stillHandled s q e.2.tag)
  let ps := (pinsSeen s q).filter (fun e => sees ctx e.2.ctx)
  let fs := (span 0 8).flatMap (fun m => ((s.mtu m).opened.filter (fun r => sees ctx r.ctx)).map (fun r => (m, r)))
  let es := qs.map (fun p => (128, syncQueue s p)) ++ ls.map (fun e => (256, syncLaunch s e.2))
    ++ ps.map (fun e => (128, syncPin s e.1 e.2)) ++ fs.map (fun e => (128, syncFault s e.1 e.2))
  let (v, n, t) := fitEntries (len - 512) es
  let head := packList 64 [0x5753554D * 2 ^ 32 + 2 ^ 24 + b2n (t || decide (len < 512)), s.fe.time.toNat,
    qs.length * 2 ^ 32 + ls.length, ps.length * 2 ^ 32 + fs.length, elogStat s, s.fe.elogBase]
  (min len (512 + n), (head + v <<< 512) % 2 ^ min len (512 + n))

/-- Emit kind 3: the summary is written at the emit, which is the instant S. A failed write is logged like that of a record
(R378), and the request retires. With record 0 nothing is written. -/
def checkResync (s : State) (k q : Nat) (x : Interp) : ERes :=
  let a := draftNat x 20
  let r := { newReq s q x 3 with st := 3 }
  if recordBad x 4096 then .rej s eDraft 20 none
  else if a = 0 then .ok s r
  else
    let (n, v) := (keptWrite s k a).getD (summary s q (draftNat x 23))
    match feWrite (keepWrite s k a n v) k q a n v with
    | .park s => .park s
    | .bad s code lo => .ok (queueErr (logErr s code lo r.ctx 0 q 0) q code lo 0 q 0) r
    | .ok s _ => .ok s r

/-! ### Attest and commit (R79 to R81) -/

/-- Burn the next identity-fuse block, which reserves 256 leaves (R80). -/
def burnBlock (f : Firm) : Firm :=
  if 4096 ≤ f.idBits then { f with leafNext := none }
  else { f with leafNext := some (256 * f.idBits), idBits := f.idBits + 1 }

/-- The next leaf of the identity key, from the reserved block or from a new one; none once all fuse bits are burned, as the
rule's words have it, though leaves of the last block are left (R80; log entry 54). -/
def takeLeaf (f : Firm) : Option Nat × Firm :=
  let f := if f.leafNext.isNone then burnBlock f else f
  match f.leafNext with
  | some l => if 4096 ≤ f.idBits then (none, f)
      else (some l, { f with leafNext := if (l + 1) % 256 = 0 then none else some (l + 1) })
  | none => (none, f)

/-- The report over a nonce (R81): its bits, and the firmware state after it. The leaf index of an unsigned report is
free. -/
def report (s : State) (nonce : Nat) : State × Nat :=
  let part := fun (st leaf : Nat) =>
    0x57415454 * 2 ^ 32 + 2 ^ 24 + st + s.fe.time.toNat <<< 64 + (nonce % 2 ^ 256) <<< 128
      + (packList 256 ((span 0 8).map (fun i => (Tab.get 0 s.firm.meas i).toNat))) <<< 384
      + (shake256 identityKey).toNat <<< 2432 + (leaf % 2 ^ 32) <<< 2688
  match takeLeaf s.firm with
  | (some l, f) =>
    let b := part 0 l
    ({ s with firm := f }, b + (ofBytes (xmssSign l (bytesOf b 344)) % 2 ^ signBits) <<< 2752)
  | (none, f) =>
    let (s', n) := draw { s with firm := f }
    (s', part 1 (Config.pick n))

/-- A leaf of a report that could not be written is the next one again, unless another has been taken since (R81). -/
def giveBack (f : Firm) (l : Nat) : Firm :=
  if f.leafNext = (if (l + 1) % 256 = 0 then none else some (l + 1)) then { f with leafNext := some l } else f

/-- Emit kind 4 (R81): a fault on xsrc or record ends the packet with code unmapped and burns no index. -/
def checkAttest (s : State) (k q : Nat) (x : Interp) : ERes :=
  let a := draftNat x 20
  let r := { newReq s q x 4 with st := 3 }
  if (s.queue q).ctx != 0 then .rej s ePerm 4 none
  else if recordBad x 4096 then .rej s eDraft 20 none
  else match feRead s k q (draftNat x 21) 256 with
    | .park s => .park s
    | .bad s _ _ => .rej s eUnmapped 21 none
    | .ok s nonce =>
      if a = 0 then .ok s r
      else match keptWrite s k a with
        | some (n, v) => (match feWrite s k q a n v with
          | .park t => .park t
          | .bad t _ _ => .rej { t with firm := giveBack t.firm (bits v 2719 2688) } eUnmapped 20 none
          | .ok t _ => .ok t r)
        | none =>
          let (s', v) := report s nonce
          match feWrite (keepWrite s' k a (2752 + signBits) v) k q a (2752 + signBits) v with
          | .park t => .park t
          | .bad t _ _ => .rej { t with firm := s.firm } eUnmapped 20 none
          | .ok t _ => .ok t r

/-- Emit kind 5 (R79). DESIGN CHOICE (log entry 39): the fused minimum is held as an exact number. -/
def checkCommit (s : State) (_k q : Nat) (x : Interp) : ERes :=
  let v := draftNat x 9
  if (s.queue q).ctx != 0 then .rej s ePerm 5 none
  else if s.firm.rootVer < v then .rej s eDraft 9 none
  else if recordBad x 256 then .rej s eDraft 20 none
  else .ok { s with firm := { s.firm with minVer := max s.firm.minVer v } } { newReq s q x 5 with st := 3 }

/-! ### The emits -/

/-- An emit of the interpreter whose bytecode runs: not a second time after a stop (R68), else checked and submitted, or
refused (R70). -/
def runEmit (s : State) (check : State → Nat → Nat → Interp → ERes) (submit : State → Nat → Nat → Req → State) : State :=
  let k := s.cur
  let x := s.interp k
  match x.queue with
  | none => s
  | some q =>
    if x.emits < (s.queue q).pemit then
      s.setInterp k (goTo { x with emits := x.emits + 1, draft := draftInit } (x.pc + 1))
    else match check s k q x with
      | .park s => s
      | .ok s r => submit (clearParts s (.interp k)) k q r
      | .rej s code d log =>
        let s := match log with | some a => logErr s code a (s.queue q).ctx 0 q 0 | none => s
        rejectPacket s k q code (wordN d)

def feEmitLaunch (s : State) : State := runEmit s checkLaunch submitLaunch
def feEmitTransfer (s : State) : State := runEmit s checkTransfer submitReq
def feEmitPin (s : State) : State := runEmit s checkPin submitPin
def feEmitResync (s : State) : State := runEmit s checkResync submitReq
def feEmitAttest (s : State) : State := runEmit s checkAttest submitReq
def feEmitCommit (s : State) : State := runEmit s checkCommit submitReq

def execEmitLaunch (s : State) : Out := .next (feEmitLaunch s)
def execEmitTransfer (s : State) : Out := .next (feEmitTransfer s)
def execEmitPinControl (s : State) : Out := .next (feEmitPin s)
def execEmitResynchronise (s : State) : Out := .next (feEmitResync s)
def execEmitAttest (s : State) : Out := .next (feEmitAttest s)
def execEmitCommitMinVersion (s : State) : Out := .next (feEmitCommit s)

/-- The emit of a kind (R70). -/
def feEmit (c : Nat) (s : State) : State :=
  match c with
  | 0 => feEmitLaunch s
  | 1 => feEmitTransfer s
  | 2 => feEmitPin s
  | 3 => feEmitResync s
  | 4 => feEmitAttest s
  | _ => feEmitCommit s

/-! ### Native packets (R71) -/

/-- The fields of a native packet: word, draft field, high and low bit. -/
def nativeFields (kind : Nat) : List (Nat × Nat × Nat × Nat) :=
  let deps := (span 0 4).map (fun i => (10 + i, 15 + i, 63, 0))
  match kind with
  | 1 => [(0, 5, 55, 40), (0, 3, 39, 38), (0, 2, 37, 37), (0, 6, 36, 36), (0, 1, 20, 0), (1, 0, 63, 0), (2, 4, 63, 0),
      (3, 7, 63, 40), (3, 8, 39, 0)] ++ (span 0 6).map (fun i => (4 + i, 9 + i, 63, 0)) ++ deps
      ++ [(14, 19, 63, 0), (15, 20, 63, 0)]
  | 2 => [(1, 21, 63, 0), (2, 22, 63, 0), (3, 23, 63, 0)] ++ deps ++ [(15, 20, 63, 0)]
  | 3 => [(0, 5, 55, 40), (1, 24, 63, 0), (15, 20, 63, 0)]
  | 4 => [(1, 20, 63, 0), (3, 23, 63, 0)]
  | 5 => [(1, 21, 63, 0), (15, 20, 63, 0)]
  | 6 => [(1, 9, 63, 0)]
  | _ => []

/-- Bits of packet word `w` that a kind does not use. -/
def nativeRest (kind w : Nat) (v : Word) : Word :=
  let kept := (nativeFields kind).foldl (fun x f => if f.1 = w then setFld x f.2.2.1 f.2.2.2 0 else x) v
  if w = 0 then setFld kept 63 56 0 else kept

/-- The draft of a native packet; a countdown of 0 selects 65,536. -/
def nativeDraft (kind : Nat) (pkt : Tab Word) : Tab Word :=
  let d := (nativeFields kind).foldl (fun d f => Tab.set 0 f.2.1 (wordN (fld (Tab.get 0 pkt f.1) f.2.2.1 f.2.2.2)) d) draftInit
  if kind = 1 && Tab.get 0 d 7 == 0 then Tab.set 0 7 65536 d else d

/-- The native decoder (R71): a no-op, a rejection with detail 32 + w, or the emit, after which the packet ends. -/
def nativeStep (s : State) : State :=
  let k := s.cur
  let x := s.interp k
  match x.queue with
  | none => s
  | some q =>
    let kind := fld (Tab.get 0 x.pkt 0) 63 56
    if x.emits != 0 || kind == 0 then endPacket s k true
    else if 6 < kind then rejectPacket s k q eDraft 32
    else match (span 0 16).find? (fun w => nativeRest kind w (Tab.get 0 x.pkt w) != 0) with
      | some w => rejectPacket s k q eDraft (wordN (32 + w))
      | none => feEmit (kind - 1) (s.setInterp k { x with draft := nativeDraft kind x.pkt })

/-! ### The run of a packet (R64, R65) -/

/-- Bytecodes 2j and 2j + 1 of handle h stand in word j (R66); the word is listed under 128 h + j. -/
def storeIndex (h j : Nat) : Nat := 128 * h + j

/-- The 32 bits of the bytecode at the interpreter's pc (R66). -/
def fetchBytecode (s : State) (k : Nat) : Nat :=
  let x := s.interp k
  let w := Tab.get 0 s.fe.store (storeIndex x.prog (x.pc % 256 / 2))
  if x.pc % 2 = 0 then fld w 31 0 else fld w 63 32

/-- A packet in progress that does not wait for a root counter. -/
def canStep (s : State) (k : Nat) : Bool := (s.interp k).queue.isSome && (s.interp k).busy && (s.interp k).pend.isNone

/-- One bytecode as the front end runs it. -/
def lerantStep (i : Instr) (s : State) : State :=
  match i with
  | .lerantHalt => feHalt s
  | .ldpk a k => onIp s (ipLdpk a k)
  | .ldi a v => onIp s (ipLdi a v)
  | .shin a v => onIp s (ipShin a v)
  | .lerantMov a b => onIp s (ipMov a b)
  | .lerantAdd a b => onIp s (ipAdd a b)
  | .lerantSub a b => onIp s (ipSub a b)
  | .lerantAnd a b => onIp s (ipAnd a b)
  | .lerantOr a b => onIp s (ipOr a b)
  | .ext a b h l => onIp s (ipExt a b h l)
  | .addi a v => onIp s (ipAddi a v)
  | .bz a d => onIp s (ipBz a d)
  | .bnz a d => onIp s (ipBnz a d)
  | .beq a b d => onIp s (ipBeq a b d)
  | .bltu a b d => onIp s (ipBltu a b d)
  | .rep a n k => onIp s (ipRep a n k)
  | .ldsc a k => feLdsc a k s
  | .stsc a k => feStsc a k s
  | .ldpa a k => feLdpa a k s
  | .setf a f => onIp s (ipSetf a f)
  | .emitLaunch => feEmitLaunch s
  | .emitTransfer => feEmitTransfer s
  | .emitPinControl => feEmitPin s
  | .emitResynchronise => feEmitResync s
  | .emitAttest => feEmitAttest s
  | .emitCommitMinVersion => feEmitCommit s
  | .lerantRej v => feRej v s
  | .lerantStop v => feStop v s
  | .lerantTime a => feTime a s
  | _ => s

/-- The next bytecode of a packet, or the native decoder's step. -/
def packetStep (s : State) (k : Nat) : Option State :=
  if (s.interp k).prog = 0 then some (nativeStep s) else (decodeLerant (fetchBytecode s k)).map (fun i => lerantStep i s)

/-- Steps of the packet that began when `n` packets of the binding were done, up to its end or until an access of it is parked. -/
def runSteps (s : State) (k n : Nat) : Nat → State
  | 0 => s
  | f + 1 =>
    if !canStep s k || (s.interp k).done != n then s
    else match packetStep s k with
      | some s => if isParked s (.interp k) then s else runSteps s k n f
      | none => s

/-- The next packet of the bound queue, if it still runs (R62): its slot is read whole, with fresh registers and a fresh draft (R61, R65). -/
def startPacket (s : State) (k q : Nat) : State :=
  let x := s.queue q
  let n := backlog s q
  if x.st ≠ 1 then releaseInterp s k
  else if 2 ^ x.lsize < n then releaseInterp (queueOverflow s q) k
  else if n = 0 then releaseInterp s k
  else match feRead s k q (x.ring + 1024 * (x.ridx % 2 ^ x.lsize)) 1024 with
    | .park s => s
    | .bad s code a => releaseInterp (queueFault s q code a) k
    | .ok s v =>
      let i := s.interp k
      (clearParts s (.interp k)).setInterp k { Interp.init with
        queue := i.queue, done := i.done, busy := true, prog := x.prog, pkt := Tab.setList 0 0 ((span 0 16).map (wordAt v)) [] }

/-- Enough steps for any checked program (R69). -/
def packetFuel : Nat := 600

/-- The next packet of interpreter `k`, or the one in progress, up to its end or until it waits (R64). -/
def packetRun (s : State) (k : Nat) : State :=
  let s := { s with cur := k }
  match (s.interp k).queue with
  | none => s
  | some q =>
    let s := if (s.interp k).busy then s else startPacket s k q
    runSteps s k (s.interp k).done packetFuel

/-- PACKET_RUN (R64). -/
def execPacketRun (k : Nat) (s : State) : Out := .next (packetRun s k)

/-- ROOT_COUNTER_WAIT_END (R70). -/
def execRootCounterWaitEnd (k : Nat) (s : State) : Out :=
  let x := s.interp k
  .next (match x.queue, x.pend with
    | some q, some r => if countersUsed s < rootCounters then submitReq s k q r else s
    | _, _ => s)

end Sys2Proof.Machine
end

