-- ==== Sys2Proof/Machine/Place.lean ====
section
/-!
DEFINITION. Dispatch (R94 to R101): the candidates of a dispatcher and their rank, the clusters that can take a team,
placement, reservation and pre-emption, and the creation and moves of pins (R98, R379).
-/
namespace Sys2Proof.Machine

/-! ### Order -/

/-- Lexicographic order of keys. -/
def lexLt : List Nat → List Nat → Bool
  | a :: r, b :: t => decide (a < b) || (a == b && lexLt r t)
  | [], _ :: _ => true
  | _, [] => false

/-- Insert an element before the first one with a greater key. -/
def insertKey {α : Type} (x : List Nat × α) : List (List Nat × α) → List (List Nat × α)
  | [] => [x]
  | y :: r => if lexLt x.1 y.1 then x :: y :: r else y :: insertKey x r

/-- The elements of a list by ascending key. -/
def sortKey {α : Type} (key : α → List Nat) (l : List α) : List α :=
  (l.foldr (fun x r => insertKey (key x, x) r) []).map (·.2)

/-! ### Candidates (R94, R95, R101) -/

/-- What a dispatcher may place next for a request: an existing team, the next initial team of a launch, a gang that holds no
reservations yet (`team` none), or the banks of a create, which rank as a team of four. -/
structure Cand where
  tag : Nat
  team : Option Nat
  n : Nat
  pin : Nat
  aff : Nat
  create : Bool
  deriving DecidableEq, Repr

/-- A candidate as a reservation names it. -/
def candKey (c : Cand) : Nat := match c.team with | some t => 2 * t + 1 | none => 2 * c.tag

/-- Affinity of a launch: 1 waits for its home (R22). -/
def affinity (r : Req) : Nat := (draftOf r 6).toNat

def candOf (s : State) (r : Req) (t : Nat) : Cand :=
  ⟨r.tag, some t, (s.team t).n, teamPin s t, affinity r, false⟩

/-- Rank of a ready team within its launch: resumed ones, spawned ones, initial ones (R94). -/
def readyKey (e : Nat × Team) : List Nat :=
  if e.2.slot.isSome then [0, e.2.order] else if e.2.spawned then [1, e.2.order] else [2, e.2.index]

def isGang (r : Req) : Bool := r.kind == 0 && draftOf r 2 == 1

/-- What its spawner did before the spawn, the stores of that checkpoint among it, has performed (R250). -/
def spawnClear (s : State) (tm : Team) : Bool :=
  match tm.after with
  | some (c, n, t) => !(s.core c).accs.any (fun a => a.team == t && stands a && !isFence a && decide (a.id < n))
  | none => true

/-- The ready teams of a launch: those of its gang in index order (R101), or the others in the order of R94. -/
def readyTeams (s : State) (tag : Nat) (gang : Bool) : List (Nat × Team) :=
  sortKey (fun e => if gang then [e.2.index] else readyKey e) (s.fe.teams.filter (fun e => isReadyTeam tag e.2 && e.2.gang == gang && spawnClear s e.2))

/-- The candidate that stands for the next initial team, or for a gang as a whole. -/
def initialCand (r : Req) : Cand := ⟨r.tag, none, r.img.n, pinHandle r, affinity r, false⟩

/-- The next team of a launch (R94). -/
def nextReady (s : State) (r : Req) : List Cand :=
  match readyTeams s r.tag false with
  | e :: _ => [candOf s r e.1]
  | [] => if !isGang r && decide (r.claimed < teamCount r) then [initialCand r] else []

/-- A gang with teams to place, and one that holds reservations and is not yet placed as a whole (R101). -/
def gangWaits (s : State) (r : Req) : Bool := decide (r.claimed < teamCount r) || !(readyTeams s r.tag true).isEmpty
def gangHolds (s : State) (tag : Nat) : Bool := s.fe.gang == some tag && !(readyTeams s tag true).isEmpty

/-- What a gang offers: its teams in index order while it holds reservations, itself as a whole where no gang does, and
nothing while another one does (R101). -/
def gangCands (s : State) (r : Req) : List Cand :=
  if !isGang r || !gangWaits s r then []
  else if gangHolds s r.tag then (readyTeams s r.tag true).map (fun e => candOf s r e.1)
  else match s.fe.gang with
    | some g => if gangHolds s g then [] else [initialCand r]
    | none => [initialCand r]

/-- The candidates of a request in state 01 or 10. -/
def candidates (s : State) (r : Req) : List Cand :=
  if r.kind = 2 && pinOp r = 0 && r.st = 1 then [⟨r.tag, none, 4, 0, 0, true⟩]
  else if r.kind = 0 && (r.st = 1 || r.st = 2) then gangCands s r ++ nextReady s r
  else []

/-- Rank among launches of effective class `k` without a deadline: in rotation by scoreboard entry, from the one after the
last served (R95; log entry 53). -/
def rotKey (s : State) (k : Nat) (r : Req) : Nat := if Tab.get 0 s.fe.rot k < r.entered then 0 else 1

/-- The class in which die `d` ranks a request; a create is of class 0 (R379). -/
def rankClass (d : Nat) (r : Req) : Nat := if r.kind = 2 then 0 else effClass r d

/-- The key of R95 on die `d`. -/
def rankKey (s : State) (d : Nat) (r : Req) : List Nat :=
  let k := rankClass d r
  let dl := if r.kind = 2 then 0 else (draftOf r 4).toNat
  [k, b2n (dl == 0), if dl = 0 then rotKey s k r else dl, r.entered, r.tag]

/-- The candidates of die `d`, first rank first. -/
def ranked (s : State) (d : Nat) : List Cand :=
  (sortKey (rankKey s d) (s.fe.reqs.map (·.2))).flatMap (candidates s)

/-! ### Clusters (R97, R98) -/

/-- Clusters 0 to 63 of the package, 16 to a die. -/
def clusterDie (cl : Nat) : Nat := cl / 16

def freeCores (s : State) (cl : Nat) : List Nat := (span (4 * cl) 4).filter (fun c => (s.core c).team.isNone)

def isOpen (s : State) (cl : Nat) : Bool := !bit (s.die (clusterDie cl)).cldis (cl % 16)

/-- The teams of a gang for which a cluster is reserved (R101). -/
def gangOn (s : State) (cl : Nat) : List Nat := (s.fe.gres.filter (fun e => e.2 == cl)).map (·.1)

/-- A cluster reserved for other candidates only (R99, R101). -/
def heldForOthers (s : State) (c : Cand) (cl : Nat) : Bool :=
  let own := match c.team with | some t => (gangOn s cl).contains t | none => false
  !own && (!(gangOn s cl).isEmpty
    || (match (s.die (clusterDie cl)).resv with | some (k, x) => x == cl && k != candKey c | none => false))

/-- A pin has banks on cluster `cl`: its home, or the cluster to which it moves (R98). -/
def pinOn (p : Pin) (cl : Nat) : Bool := p.home == cl || (p.st == 1 && p.moveTo == cl)

/-- The partitions on a cluster but for pin `h`, those on their way there among them: first bank and count. -/
def partitions (s : State) (h cl : Nat) : List (Nat × Nat) :=
  (s.fe.pins.filter (fun e => pinOn e.2 cl && e.1 != h)).map (fun e => (e.2.first, e.2.count))

def rangesHit (a b : Nat × Nat) : Bool := decide (a.1 < b.1 + b.2) && decide (b.1 < a.1 + a.2)

/-- The team's carve-out and input streams avoid a partition (R98). -/
def avoids (s : State) (c : Cand) (b : Nat × Nat) : Bool :=
  let r := s.req c.tag
  let carve := 64 * r.img.carve
  let spawned := match c.team with | some t => (s.team t).spawned | none => false
  !banksMeet b (spadBits - carve) carve && (spawned || r.ins.all (fun e => !banksMeet b e.dst e.len))

/-- The partitions of a cluster allow the team, or the banks of a create, to stand there (R98, R379). -/
def pinsAvoided (s : State) (c : Cand) (cl : Nat) : Bool :=
  if c.create then (partitions s 0 cl).all (fun b => !rangesHit b (pinFirst (s.req c.tag), pinBanks (s.req c.tag)))
  else (partitions s c.pin cl).all (avoids s c)

/-- The candidate names no pin, or its pin's home, which is not on the move (R98). -/
def atHome (s : State) (c : Cand) (cl : Nat) : Bool := c.pin == 0 || ((s.pin c.pin).home == cl && (s.pin c.pin).st != 1)

/-- A cluster to which the partition of a pin under affinity 0 may move (R98). -/
def mayMoveTo (s : State) (c : Cand) (cl : Nat) : Bool :=
  let p := s.pin c.pin
  c.pin != 0 && c.aff == 0 && p.home != cl && p.st != 1 && (partitions s c.pin cl).all (fun b => !rangesHit b (p.first, p.count))

/-- The cluster has room for the candidate now (R97). -/
def hasRoom (s : State) (c : Cand) (cl : Nat) : Bool :=
  isOpen s cl && decide (c.n ≤ (freeCores s cl).length) && pinsAvoided s c cl

/-- A cluster that fits the candidate by R97 and R98, be it by a move of its partition (R99). -/
def fits (s : State) (c : Cand) (cl : Nat) : Bool := hasRoom s c cl && (atHome s c cl || mayMoveTo s c cl)

/-- A cluster on which the candidate can be placed now. -/
def takes (s : State) (c : Cand) (cl : Nat) : Bool := hasRoom s c cl && atHome s c cl && !heldForOthers s c cl

/-- Some of the clusters of die `d`, in the order of R97: fewest free cores, then lowest number. -/
def onDie (s : State) (d : Nat) (ok : Nat → Bool) : List Nat :=
  sortKey (fun cl => [(freeCores s cl).length, cl]) ((span (16 * d) 16).filter ok)

/-- The first cluster of the package that takes a create (R379). -/
def createCluster (s : State) (c : Cand) : Option Nat :=
  (sortKey (fun cl => [(freeCores s cl).length, cl]) ((span 0 64).filter (takes s c))).head?

/-- The cluster of die `d` for a candidate (R97); a gang is placed once it holds reservations (R101). -/
def fitOn (s : State) (d : Nat) (c : Cand) : Option Nat :=
  if c.create then (createCluster s c).filter (fun cl => clusterDie cl == d)
  else if isGang (s.req c.tag) && c.team.isNone then none
  else (onDie s d (takes s c)).head?

/-- The first candidate in rank that fits on die `d`, and its cluster. -/
def firstFit (s : State) (d : Nat) : Option (Cand × Nat) :=
  (ranked s d).findSome? (fun c => (fitOn s d c).map (fun cl => (c, cl)))

/-! ### Placement (R18, R25, R97) -/

/-- Weight of initial team `j` of `t` (R25). -/
def initialWeight (t j : Nat) : Nat := 2 ^ 63 / t + (if j < 2 ^ 63 % t then 1 else 0)

/-- The next initial team of a launch (R18, R25). -/
def initialTeam (r : Req) : Team :=
  { Team.init with
    tag := r.tag, st := .ready, weight := initialWeight (teamCount r) r.claimed,
    args := wordN r.claimed :: wordN (teamCount r) :: (span 9 6).map (draftOf r), entries := r.img.entries, n := r.img.n,
    index := r.claimed, gang := isGang r }

/-- The next initial team of a launch is claimed (R94). -/
def claimNext (s : State) (tag : Nat) : State × Nat :=
  ((addTeam s (initialTeam (s.req tag))).updReq tag (fun r => { r with claimed := r.claimed + 1 }), s.fe.nextTeam)

/-- The team of a candidate: an existing one, or the next initial team, which is claimed by the dispatcher of die `d`. -/
def claimTeam (s : State) (c : Cand) (d : Nat) : State × Nat :=
  match c.team with
  | some t => (s, t)
  | none =>
    let (s, t) := claimNext s c.tag
    (s.updReq c.tag (fun r => { r with claimAt := some (s.pow.pulse, d) }), t)

/-- A higher die has claimed a team of the launch in this cycle: the claim of a lower one would have come first, so this one
comes in a later cycle (R94). -/
def claimLate (s : State) (c : Cand) (d : Nat) : Bool :=
  c.team.isNone && (match (s.req c.tag).claimAt with | some (p, k) => p == s.pow.pulse && decide (d < k) | none => false)

/-- The core of a placed team: in its start state with segment 0 on its way, or held for its frame (R18, R103, R362). -/
def occupy (s : State) (t : Nat) (fresh : Bool) (k : Nat) : List Nat → State
  | [] => s
  | c :: cs =>
    let x := if fresh then { startCore s c t k with half0 := ⟨some 0, false, true, false⟩ } else placeCore s c t k
    occupy (s.setCore c x) t fresh (k + 1) cs

/-- The pin of a placed team is held by it, at home (R98). -/
def takePin (s : State) (h t : Nat) : State := if h = 0 then s else s.setPin h { s.pin h with team := some t, st := 0 }

/-- A launch without a deadline has been served in its turn (R95). -/
def tookTurn (s : State) (d : Nat) (r : Req) : State :=
  if r.kind = 2 || draftOf r 4 = 0 then { s with fe := { s.fe with rot := Tab.set 0 (rankClass d r) r.entered s.fe.rot } } else s

/-- A team of a launch is placed from die `d`: aging begins again and the turn passes on; for a gang, which ranks as one unit,
with its last team (R95, R96, R101). -/
def launchPlaced (s : State) (tag d : Nat) (gang : Bool) : State :=
  if gang && gangWaits s (s.req tag) then s
  else
    let s := tookTurn s d (s.req tag)
    let s := s.updReq tag (fun r => { r with aged := [], since := s.fe.time })
    if gang then { s with fe := { s.fe with gang := none } } else s

/-- A spawned team placed for the first time frees its spawn record (R181). -/
def freeRecord (s : State) (tm : Team) : State :=
  if tm.spawned && tm.fresh && tm.slot.isNone then { s with fe := { s.fe with spawnRecs := s.fe.spawnRecs - 1 } } else s

/-- A reservation ends with the placement of its candidate (R99, R101). -/
def dropResv (s : State) (c : Cand) : State :=
  let s := (span 0 4).foldl (fun s d =>
    let x := s.die d
    s.setDie d { x with resv := match x.resv with | some (k, cl) => if k = candKey c then none else some (k, cl) | none => none }) s
  match c.team with
  | some t => { s with fe := { s.fe with gres := s.fe.gres.filter (fun e => e.1 != t) } }
  | none => s

/-- The dispatcher of `cl` has placed: nothing is reserved for the candidate any more, and its next placement is eight
cycles away (R97, R99). -/
def dispPlaced (s : State) (c : Cand) (cl : Nat) : State :=
  let s := dropResv s c
  s.setDie (clusterDie cl) { s.die (clusterDie cl) with lastPlace := some s.pow.pulse }

/-- Place a candidate on a cluster (R15, R97). -/
def placeTeam (s : State) (c : Cand) (cl : Nat) : State :=
  let cores := (freeCores s cl).take c.n
  let (s, t) := claimTeam s c (clusterDie cl)
  let tm := s.team t
  let s := freeRecord s tm
  let fresh := tm.slot.isNone
  let s := s.setTeam t { tm with
    st := if fresh then .placed else .restoring, cluster := cl, cores := cores, clock := 0, filled := tm.spawned || (s.req c.tag).ins.isEmpty, fillAt := 0, asked := false }
  let s := occupy s t fresh 0 cores
  dispPlaced (launchPlaced (takePin s (teamPin s t) t) c.tag (clusterDie cl) tm.gang) c cl

/-! ### Reservation (R99, R101) -/

/-- The clusters that R99 considers for a reservation: the home under affinity 1; else those without a partition that the
team does not name, most free cores first. -/
def resvClusters (s : State) (c : Cand) (room : Nat → Nat) : List Nat :=
  if c.pin != 0 && c.aff = 1 then [(s.pin c.pin).home]
  else sortKey (fun cl => [4 - room cl, cl]) ((span 0 64).filter (fun cl => (partitions s c.pin cl).isEmpty))

/-- The reservation of a candidate that fits nowhere: kept where it stands, else made. Clusters that a gang has reserved stay
with it (log entry 53). -/
def reserveFor (s : State) (c : Cand) : State :=
  if (span 0 4).any (fun d => match (s.die d).resv with | some (k, _) => k == candKey c | none => false) then s
  else match (resvClusters s c (fun cl => (freeCores s cl).length)).filter (fun cl => (gangOn s cl).isEmpty) with
    | cl :: _ => s.setDie (clusterDie cl) { s.die (clusterDie cl) with resv := some (candKey c, cl) }
    | [] => s

/-- A die drops a reservation of its own whose team no longer ranks first (R99). -/
def moveReservation (s : State) (d : Nat) (top : Cand) : State :=
  match (s.die d).resv with
  | some (k, _) => if k = candKey top then s else s.setDie d { s.die d with resv := none }
  | none => s

/-- The cores of a cluster that the reservations of a gang will take. -/
def gangLoad (s : State) (cl : Nat) : Nat := ((gangOn s cl).map (fun t => (s.team t).n)).sum

/-- The cluster reserved for one team of a gang: the choice of R97 among those with room beside the gang's other teams, else
that of R99. -/
def gangCluster (s : State) (c : Cand) : Option Nat :=
  let room := fun cl => (freeCores s cl).length - gangLoad s cl
  let now := sortKey (fun cl => [b2n ((s.pin c.pin).home != cl), room cl, cl])
    ((span 0 64).filter (fun cl => fits s c cl && decide (c.n ≤ room cl)))
  match now with
  | cl :: _ => some cl
  | [] => ((resvClusters s c room).filter (fun cl => decide (gangLoad s cl + c.n ≤ 4))).head?

/-- Every ready team of the gang gets its reservation, one at a time in index order (R101). -/
def reserveTeams (s : State) (r : Req) : List (Nat × Team) → State
  | [] => s
  | e :: es =>
    if s.fe.gres.any (fun x => x.1 == e.1) then reserveTeams s r es
    else match gangCluster s (candOf s r e.1) with
      | some cl => reserveTeams { s with fe := { s.fe with gres := s.fe.gres ++ [(e.1, cl)] } } r es
      | none => reserveTeams s r es

/-- Claim the `n` initial teams of a gang that are left. -/
def claimRest (s : State) (tag : Nat) : Nat → State
  | 0 => s
  | n + 1 => claimRest (claimNext s tag).1 tag n

/-- A gang that ranks first: its initial teams are claimed, and clusters are reserved for all that wait (R101). -/
def reserveGang (s : State) (r : Req) : State :=
  let s := claimRest s r.tag (teamCount r - r.claimed)
  reserveTeams { s with fe := { s.fe with gang := some r.tag, gres := s.fe.gres.filter (fun e => (s.team e.1).tag == r.tag) } }
    (s.req r.tag) (readyTeams s r.tag true)

/-! ### Pre-emption (R100) -/

def teamClass (s : State) (t : Nat) : Nat := (draftOf (s.req (s.team t).tag) 3).toNat

/-- A deadline of 0 is later than any other. -/
def lateness (s : State) (t : Nat) : Nat :=
  let d := (draftOf (s.req (s.team t).tag) 4).toNat
  if d = 0 then 2 ^ 64 else d

/-- Resident teams of a cluster. -/
def teamsOn (s : State) (cl : Nat) : List Nat :=
  (s.fe.teams.filter (fun e => e.2.cluster == cl && !e.2.cores.isEmpty)).map (·.1)

/-- A team on its way out. -/
def isLeaving (s : State) (t : Nat) : Bool := (s.team t).st == .requested || (s.team t).st == .forcing

/-- Cores of a cluster that are free or about to be. -/
def leavingCores (s : State) (cl : Nat) : Nat :=
  (freeCores s cl).length + (((teamsOn s cl).filter (isLeaving s)).map (fun t => (s.team t).n)).sum

/-- Teams of a cluster that may be pre-empted for class `c`, first victim first. -/
def victims (s : State) (c cl : Nat) : List Nat :=
  sortKey (fun t => [16 - teamClass s t, 2 ^ 64 - lateness s t, t])
    ((teamsOn s cl).filter (fun t => decide (c < teamClass s t) && (s.team t).st == .running))

/-- Pre-empt victims until `need` cores are on their way. -/
def preemptSome (s : State) (need : Nat) : List Nat → State
  | [] => s
  | t :: r => if need = 0 then s else preemptSome (preempt s t) (need - (s.team t).n) r

/-- The clusters that R100 considers. -/
def preemptable (s : State) (c : Cand) (cl : Nat) : Bool :=
  isOpen s cl && pinsAvoided s c cl && (atHome s c cl || mayMoveTo s c cl)

/-- Cores that a team of a gang leaves to the gang's other teams on a cluster (R101). -/
def spokenFor (s : State) (c : Cand) (cl : Nat) : Nat :=
  match c.team with
  | some t => if s.fe.gres.any (fun e => e.1 == t) then gangLoad s cl - (if (gangOn s cl).contains t then c.n else 0) else 0
  | none => 0

/-- Cores of a cluster that the candidate may count on. -/
def comingCores (s : State) (c : Cand) (cl : Nat) : Nat := leavingCores s cl - spokenFor s c cl

/-- Pre-emption for a candidate that fits no cluster (R100): on the cluster whose teams are of the greatest class, then of
the latest deadline. -/
def preemptFor (s : State) (c : Cand) : State :=
  let cls := if c.create then 0 else (draftOf (s.req c.tag) 3).toNat
  let ok := (span 0 64).filter (preemptable s c)
  if ok.any (fun cl => decide (c.n ≤ comingCores s c cl)) then s
  else
    let enough := ok.filter (fun cl =>
      decide (c.n ≤ comingCores s c cl + ((victims s cls cl).map (fun t => (s.team t).n)).sum) && !(victims s cls cl).isEmpty)
    let key := fun (cl : Nat) =>
      let vs := victims s cls cl
      [16 - (vs.map (teamClass s)).foldl max 0, 2 ^ 64 - (vs.map (lateness s)).foldl max 0, cl]
    match sortKey key enough with
    | cl :: _ => preemptSome s (c.n - comingCores s c cl) (victims s cls cl)
    | [] => s

/-- A pinned team under affinity 1 whose home cannot take it waits for it (R98). -/
def waitHome (s : State) (c : Cand) : State :=
  if c.pin != 0 && c.aff = 1 && (s.pin c.pin).st = 0 then s.setPin c.pin { s.pin c.pin with st := 2 } else s

/-! ### The step -/

/-- The teams of a gang whose reserved cluster has not the room that its reservations ask for. -/
def gangShort (s : State) (r : Req) : List Cand :=
  ((readyTeams s r.tag true).map (fun e => candOf s r e.1)).filter (fun c =>
    match c.team with
    | some t => s.fe.gres.any (fun e => e.1 == t && !(isOpen s e.2 && decide (gangLoad s e.2 ≤ (freeCores s e.2).length)))
    | none => false)

/-- A gang ranks first: reservations for all its teams, and pre-emption for the first of them that does not fit (R101). -/
def gangCare (s : State) (r : Req) : State :=
  let s := reserveGang s r
  match gangShort s (s.req r.tag) with
  | c :: _ => preemptFor (waitHome s c) c
  | [] => s

/-- The partition that the candidate names is on the move (R98). -/
def isMoving (s : State) (c : Cand) : Bool := c.pin != 0 && (s.pin c.pin).st == 1

/-- What follows for the first candidate in rank: nothing where it fits some cluster of the package, else reservation and
pre-emption (R99, R100); a gang goes its own way (R101). -/
def topCare (s : State) (d : Nat) : State :=
  match ranked s d with
  | [] => s
  | top :: _ =>
    let s := moveReservation s d top
    if isGang (s.req top.tag) && (match top.team with | some t => (s.team t).gang | none => true) then gangCare s (s.req top.tag)
    else if isMoving s top then s
    else if ((span 0 64).filter (fits s top)).isEmpty then preemptFor (reserveFor (waitHome s top) top) top else s

/-- The cluster of die `d` to which the partition of the first candidate in rank moves, where its home cannot take it
(R98). -/
def moveFor (s : State) (d : Nat) : Option (Cand × Nat) :=
  match (ranked s d).head? with
  | some c =>
    if fits s c (s.pin c.pin).home then none
    else ((onDie s d (fun cl => hasRoom s c cl && mayMoveTo s c cl && !heldForOthers s c cl)).head?).map (fun cl => (c, cl))
  | none => none

/-- The partition of a candidate's pin begins to move; the team is placed once the copy is complete, and the cluster is kept
for it (R98). -/
def startMove (s : State) (c : Cand) (cl : Nat) : State :=
  let x := s.die (clusterDie cl)
  (s.setPin c.pin { s.pin c.pin with st := 1, moveTo := cl }).setDie (clusterDie cl) { x with resv := some (candKey c, cl) }

/-- One placement every eight cycles (R97). -/
def mayPlace (s : State) (d : Nat) : Bool :=
  match (s.die d).lastPlace with | some p => decide (p + 8 ≤ s.pow.pulse) | none => true

/-- The next placement of die `d`: the first candidate in rank that fits; a create that comes first waits for its own
step. -/
def placeNext (s : State) (d : Nat) : State :=
  match firstFit s d with
  | some (c, cl) => if c.create || claimLate s c d then s else placeTeam s c cl
  | none => s

/-- TEAM_PLACEMENT (R97, R98). -/
def execTeamPlacement (die : Nat) (s : State) : Out :=
  .next (
    if !mayPlace s die then s
    else
      let s := topCare s die
      match moveFor s die with
      | some (c, cl) => startMove s c cl
      | none => placeNext s die)

/-! ### Pins (R98, R379) -/

/-- Keep the entries of a table outside banks [a, a+n), `per` to a bank. -/
def clearBanks {α : Type} (per a n : Nat) (t : Tab α) : Tab α :=
  Tab.keep (fun i => !(decide (a ≤ i / per) && decide (i / per < a + n))) t

/-- The entries of a table inside banks [a, a+n). -/
def onlyBanks {α : Type} (per a n : Nat) (t : Tab α) : Tab α :=
  Tab.keep (fun i => decide (a ≤ i / per) && decide (i / per < a + n)) t

/-- Merge two tables without common indices. -/
def mergeTab {α : Type} (t u : Tab α) : Tab α := u.foldr (fun e t => Tab.put e.1 e.2 t) t

/-- A core with banks [a, a+n) cleared: words and tags. -/
def wipeBanks (x : Core) (a n : Nat) : Core :=
  { x with spad := clearBanks bankWords a n x.spad, tags := clearBanks bankTags a n x.tags,
           spadBad := x.spadBad.filter (fun w => !(decide (a ≤ w / bankWords) && decide (w / bankWords < a + n))),
           tagsBad := x.tagsBad.filter (fun w => !(decide (a ≤ w / bankTags) && decide (w / bankTags < a + n))) }

/-- A core with banks [a, a+n) as core `y` has them. -/
def copyBanks (x y : Core) (a n : Nat) : Core :=
  let x := wipeBanks x a n
  { x with spad := mergeTab x.spad (onlyBanks bankWords a n y.spad), tags := mergeTab x.tags (onlyBanks bankTags a n y.tags),
           spadBad := x.spadBad ++ y.spadBad.filter (fun w => decide (a ≤ w / bankWords) && decide (w / bankWords < a + n)),
           tagsBad := x.tagsBad ++ y.tagsBad.filter (fun w => decide (a ≤ w / bankTags) && decide (w / bankTags < a + n)) }

/-- The pin of a create comes to exist on a cluster, with its banks zero (R379). -/
def makePin (s : State) (r : Req) (cl : Nat) : State :=
  let h := pinHandle r
  let s := (span 0 4).foldl (fun s i => s.onCore (4 * cl + i) (fun x => wipeBanks x (pinFirst r) (pinBanks r))) s
  let s := s.setPin h ⟨r.ctx, cl, pinFirst r, pinBanks r, 0, 0, none, r.tag⟩
  s.setReq r.tag { r with st := 3, status := 0, detail := pinDetail h cl (pinFirst r) (pinBanks r) }

/-- PIN_CREATE (R379): refused, or placed when it is the first that fits on its cluster's die, which may place now (R97). -/
def execPinCreate (tag : Nat) (s : State) : Out :=
  let r := s.req tag
  .next (
    if !s.hasReq tag || r.kind != 2 || pinOp r != 0 || r.st != 1 then s
    else if r.status = 4 || createRefused s (pinHandle r) tag then refusePin s r
    else match (span 0 4).findSome? (fun d => (firstFit s d).filter (fun p => p.1.create && p.1.tag == tag && mayPlace s d)) with
      | some (c, cl) => dispPlaced (tookTurn (makePin s r cl) (clusterDie cl) r) c cl
      | none => topCare s 0)

/-- PARTITION_MOVE_COMPLETE (R98): the banks stand on the new cluster, which is now the home, and requests that waited for
the pin go there (R124). -/
def execPartitionMoveComplete (pin : Nat) (s : State) : Out :=
  let p := s.pin pin
  .next (
    if !s.hasPin pin || p.st != 1 then s
    else
      let s := (span 0 4).foldl (fun s i =>
        s.setCore (4 * p.moveTo + i) (copyBanks (s.core (4 * p.moveTo + i)) (s.core (4 * p.home + i)) p.first p.count)) s
      remoteKick (s.setPin pin { p with home := p.moveTo, st := 0 }))

end Sys2Proof.Machine
end

