-- ==== Sys2Proof/Machine/Teams.lean ====
section
/-!
DEFINITION. Teams between placement and removal: input-stream fills (R92), the first bundle (R93, R101), segment copies
(R103, R105, R184), forced leaves (R121, R356) and readiness after a save (R357).
-/
namespace Sys2Proof.Machine

/-! ### Input streams (R90 to R92) -/

/-- A piece of a fill: its core, its source address and length, where it goes, the class of its source pointer (R90), and whether
its entry has left the address space. -/
structure FillUnit where
  core : Nat
  a : Nat
  n : Nat
  dst : Nat
  cls : Nat
  bad : Bool
  deriving DecidableEq, Repr

/-- An uncorrectable row is logged with source kind 4 (R92). -/
def fillEcc (s : State) (ctx c : Nat) (es : List Nat) : State := logBads s ctx 4 (8 * c) (es.map sectorBase).eraseDups

/-- Source address of an entry for core `k` of initial team `j` (R92). -/
def fillSource (e : InStream) (j k : Nat) : Int := (ptrAddr e.src : Int) + j * e.tstride + k * e.cstride

/-- The pieces of one entry in core `c`, the team's `k`-th: its sector parts in ascending order (R92). -/
def entryUnits (e : InStream) (j k c : Nat) : List FillUnit :=
  let x := fillSource e j k
  if x < 0 || (2 : Int) ^ 56 < x + e.len then [⟨c, wrapw x 56, 0, 0, 0, true⟩]
  else
    let a := x.toNat
    (sectors a e.len).map (fun m => let (lo, n) := sectorPart a e.len m; ⟨c, lo, n, e.dst + (lo - a), ptrClass e.src, false⟩)

/-- Every piece of a team's fill, entry by entry, each in the cores that it names. -/
def fillUnits (s : State) (t : Nat) : List FillUnit :=
  let tm := s.team t
  (s.req tm.tag).ins.flatMap (fun e =>
    ((span 0 tm.cores.length).filter (bit e.cores)).flatMap (fun k => entryUnits e tm.index k ((tm.cores[k]?).getD 0)))

/-- The end of a fill under error: the team is killed and the error logged (R27, R92). -/
def fillKill (s : State) (t code a c : Nat) : State := killTeam (clearParts s (.fill t)) t code a c 0

/-- A piece has landed. -/
def fillPlace (s : State) (t ctx : Nat) (u : FillUnit) (v : Nat) (ecc : List Nat) : State :=
  (spStore (fillEcc (clearParts s (.fill t)) ctx u.core ecc) u.core u.dst u.n v).updTeam t (fun x => { x with fillAt := x.fillAt + 1, asked := false })

/-- Read one piece as group streams and place it, or ask the window's package for it (R92). The second part tells whether the fill
goes on. -/
def fillPiece (s : State) (t ctx : Nat) (u : FillUnit) : State × Bool :=
  if u.bad then (fillKill s t eMalformed u.a u.core, false)
  else if isMem u.a then
    match whoRead s (.fill t) ctx gStream u.a u.n with
    | (s, ⟨_, _, true, _⟩) => (s, false)
    | (s, ⟨_, some (code, lo), false, _⟩) => (fillKill s t code lo u.core, false)
    | (s, ⟨v, none, false, e⟩) => (fillPlace s t ctx u v e, true)
  else if isWin u.a then
    match windowFor s ctx u.a .rd with
    | (s, .error code) => (fillKill s t code u.a u.core, false)
    | (s, .ok (w, x)) =>
      if !fabOn s then (fillKill s t eNoroute u.a u.core, false)
      else
        let s := sendFuller s (.fill t u.core (s.team t).fillAt u.n) (some (ctx, winNo u.a))
          { windowPacket s w x with tier := 1, op := kLoad, cls := u.cls, len := u.n }
        (s.updTeam t (fun x => { x with asked := true }), false)
  else (fillKill s t eUnmapped u.a u.core, false)

/-- Pieces until one waits. -/
def fillList (s : State) (t ctx : Nat) : List FillUnit → State
  | [] => s.updTeam t (fun x => { x with filled := true })
  | u :: r => match fillPiece s t ctx u with
    | (s, true) => fillList s t ctx r
    | (s, false) => s

/-- A placed team's fill goes on from the piece at which it stands, unless that piece waits. -/
def fillStep (s : State) (t : Nat) : State :=
  let tm := s.team t
  if tm.st != .placed || tm.filled || tm.asked then s
  else fillList s t (s.req tm.tag).ctx ((fillUnits s t).drop tm.fillAt)

/-- INPUT_STREAM_FILL (R92). -/
def execInputStreamFill (team : Nat) (s : State) : Out := .next (fillStep s team)

/-- The request of a fill that an answer is for: that of the piece at which the team's fill stands. -/
def fillAsks (s : State) (t c off : Nat) : Bool :=
  let tm := s.team t
  tm.st == .placed && tm.asked && tm.fillAt == off && tm.cores.contains c

/-- A piece comes back from another package, with zeros for the uncorrectable sector that its reply marks (R92). -/
def fillArrive (s : State) (t c off n : Nat) (p : Packet) : State :=
  if !fillAsks s t c off then s
  else match (fillUnits s t)[off]? with
    | some u =>
      let s := fillPlace s t (s.req (s.team t).tag).ctx u (replyBits p % 2 ^ n) (badUnits p)
      fillStep s t
    | none => s

/-- The request of a fill has failed (R92, R301). -/
def fillLost (s : State) (t c off code : Nat) : State :=
  if !fillAsks s t c off then s
  else match (fillUnits s t)[off]? with
    | some u => fillKill s t code u.a c
    | none => s

/-- The fill of a team waits for a translation, here or at its target (R92, R118). -/
def fillWaits (s : State) (t : Nat) : Bool :=
  isParked s (.fill t) || s.fab.flights.any (fun f => f.held && (match f.who with | .fill u _ _ _ => u == t | _ => false))

/-- What waits for a core of a team: the fill of the team and the copies of its cores. -/
def placedPark (cores : List Nat) (t : Nat) (w : Who) : Bool :=
  match w with | .fill u => u == t | .copy c _ => cores.contains c | _ => false

/-- The answers that a fill waits for find nothing any more (R92). -/
def dropFillFlights (s : State) (t : Nat) : State :=
  { s with fab := { s.fab with flights := s.fab.flights.filter (fun f => match f.who with | .fill u _ _ _ => u != t | _ => true) } }

/-- A team gives its cores up before its first bundle and is ready again (R92). -/
def unplace (s : State) (t : Nat) : State :=
  let tm := s.team t
  let s := tm.cores.foldl (fun s c => s.onCore c clearCore) (dropFillFlights (dropParks s (placedPark tm.cores t)) t)
  (startOffer s tm.tag).setTeam t { tm with st := .ready, cores := [], filled := false, fillAt := 0, asked := false, clock := 0 }

/-- FILL_PARK_TIMEOUT (R92): domain cycles since the placement exceed the park threshold. -/
def execFillParkTimeout (team : Nat) (s : State) : Out :=
  let tm := s.team team
  let n := parkThreshold s (s.req tm.tag)
  .next (
    if tm.st == .placed && fillWaits s team && n != 0 && decide (n < tm.clock) then unplace s team else s)

/-! ### The first bundle (R24, R93, R101) -/

/-- Every copy that a core waits for has ended. -/
def coreReady (x : Core) : Bool := !x.half0.copying && !x.half1.copying

/-- The team has everything that R93 and R362 ask for. -/
def teamSet (s : State) (t : Nat) : Bool :=
  let tm := s.team t
  tm.st == .placed && tm.filled && tm.cores.all (fun c => coreReady (s.core c)) && pinHere s t

/-- The strands of a team begin to issue; exited ones stay exited (R182). With its first team the launch runs (R88). -/
def startTeam (s : State) (t : Nat) : State :=
  let tm := s.team t
  let s := tm.cores.foldl (fun s c => s.onCore c (fun x => { x with run := if x.run == .exited then .exited else .running })) s
  let s := s.updReq tm.tag (fun r => { r with st := if r.st = 1 then 2 else r.st })
  s.setTeam t { tm with st := .running, fresh := false }

/-- TEAM_FIRST_ISSUE (R93). -/
def execTeamFirstIssue (team : Nat) (s : State) : Out :=
  .next (if teamSet s team && !(s.team team).gang then startTeam s team else s)

/-- The teams of a gang. -/
def gangTeams (s : State) (tag : Nat) : List Nat :=
  (s.fe.teams.filter (fun e => e.2.tag == tag && e.2.gang)).map (·.1)

/-- GANG_START (R24, R101): all teams of the gang are placed and set, and start in one cycle. -/
def execGangStart (tag : Nat) (s : State) : Out :=
  let ts := gangTeams s tag
  .next (
    if !ts.isEmpty && (s.req tag).claimed == teamCount (s.req tag) && ts.all (teamSet s) then ts.foldl startTeam s else s)

/-! ### Segments (R103 to R105, R184) -/

/-- Index of the first bundle of segment `k` (R104). -/
def segStart (i : Img) (k : Nat) : Nat := if multiSeg i then 2048 * (k % 2) else 0

/-- Install `n` bundles of a copy (R103). -/
def installSeg (x : Core) (h k first n v : Nat) : Core :=
  let xs := (span 0 n).map (fun i => BitVec.ofNat 192 (v >>> (192 * i)))
  { x.setHalf h ⟨some k, true, false, false⟩ with
    imem := Tab.setList 0 first xs x.imem, imemBad := x.imemBad.filter (fun i => !(decide (first ≤ i) && decide (i < first + n))) }

/-- A copy ends with its half empty, and is logged (R184). -/
def copyFails (s : State) (c h ctx code a : Nat) : State :=
  (logErr (clearParts s (.copy c h)) code a ctx 1 c 0).onCore c (fun x => x.setHalf h Half.init)

/-- The copy into half `h` of core `c` reads its segment as group host (R103). -/
def copySegment (s : State) (c h k : Nat) : State :=
  let i := imgOf s c
  let ctx := ctxOf s c
  let e := segEntry i k
  match whoRead s (.copy c h) ctx gHost (i.base + e.1) (192 * (e.2 + 1)) with
  | (s, ⟨_, _, true, _⟩) => s
  | (s, ⟨_, _, false, a :: as⟩) => copyFails (logBads s ctx 1 c (as.map sectorBase)) c h ctx eEcc (sectorBase a)
  | (s, ⟨_, some (code, lo), false, []⟩) => copyFails s c h ctx code lo
  | (s, ⟨v, none, false, []⟩) => (clearParts s (.copy c h)).onCore c (fun x => installSeg x h k (segStart i k) (e.2 + 1) v)

/-- A segment copy goes on. -/
def copyStep (s : State) (c h : Nat) : State :=
  let x := (s.core c).half h
  match x.copying, x.seg with
  | true, some k => copySegment s c h k
  | _, _ => s

/-- SEGMENT_COPY_COMPLETE (R103, R184). -/
def execSegmentCopyComplete (core half : Nat) (s : State) : Out := .next (copyStep s core half)

/-! ### Forced leaves (R121, R353, R356) -/

/-- An atomic of the strand is parked; its strand cannot leave before the reply (R226, R356). -/
def atomicParked (x : Core) : Bool :=
  x.accs.any (fun a => some a.team == x.team && !a.dead && !a.parked.isEmpty
    && (match a.op with | .atomic _ _ => true | _ => false))

/-- The countdown has run out on a strand that has not left (R355, R356). -/
def mustForce (x : Core) : Bool := cdDone x && x.run == .running && !isShielded x && !atomicParked x

/-- COUNTDOWN_EXPIRY (R356). -/
def execCountdownExpiry (core : Nat) (s : State) : Out :=
  .next (if mustForce (s.core core) then forceStrand s core else s)

/-- A load, of an element or of an overflow slot (R121, R189). -/
def isCoreLoad (a : Acc) : Bool := match a.op with | .ld _ | .ovl _ _ => true | _ => false

/-- A load or stream read of the team is parked for longer than the threshold of its strand, here or, of a stream that reads
through a window, at its target (R121). -/
def parkedLong (s : State) (t : Nat) : Bool :=
  s.xl.parks.any (fun p => match p.who with
    | .sread c _ _ _ | .soff c _ _ => (s.core c).team == some t && (s.core c).park != 0 && decide ((s.core c).park < p.clock)
    | .acc c id _ => (s.core c).team == some t && (s.core c).park != 0 && decide ((s.core c).park < p.clock)
        && (match findAcc (s.core c) id with | some a => isCoreLoad a && !a.dead | none => false)
    | _ => false)
  || (s.team t).cores.any (fun c => (s.core c).park != 0
    && (s.core c).accs.any (fun a => a.team == t && isSin a && a.held && !a.dead && decide ((s.core c).park < a.age)))

/-- An atomic or a remote operation of the team is parked, or a shielded handler has yet to return: the switch waits. Items of a
stream do not delay it (R121, R353). -/
def switchWaits (s : State) (t : Nat) : Bool :=
  (s.team t).cores.any (fun c =>
    let x := s.core c
    atomicParked x || isShielded x
      || x.accs.any (fun a => a.team == t && isRemote a && a.held && !isSin a && (match a.op with | .sout _ _ _ => false | _ => true)))

/-- A team is switched out: its parked loads are cancelled and its strands rolled back (R121, R357). -/
def switchOut (s : State) (t : Nat) : State :=
  let tm := s.team t
  let s := (dropRefusals s t).setTeam t { tm with st := .forcing, reason := 2 }
  tm.cores.foldl (fun s c => if (s.core c).run == .running then forceStrand s c else cancelLoads s c) s

/-- PARK_SWITCH (R121): a team, and its gang with it. -/
def execParkSwitch (team : Nat) (s : State) : Out :=
  let ts := team :: gangMates s team
  .next (
    if (s.team team).st == .running && parkedLong s team && ts.all (fun t => (s.team t).st == .running)
        && !ts.any (switchWaits s) then ts.foldl switchOut s
    else s)

/-! ### Readiness (R30, R121, R357) -/

/-- A request of the team that a switch cancelled is still held by its record. -/
def stillHeld (s : State) (t : Nat) : Bool := isParked s (.cancelled t)

/-- The pinned team waits for its home (R23, R362). -/
def homeBusy (s : State) (t : Nat) : Bool :=
  let tm := s.team t
  let h := teamPin s t
  h != 0 && affinity (s.req tm.tag) == 1 && !takes s (candOf s (s.req tm.tag) t) (s.pin h).home

/-- What put a saved team out has cleared, and every store that it had released has performed (R121, R251, R357). -/
def reasonClear (s : State) (t : Nat) : Bool := (s.team t).st == .saved && !stillHeld s t && !leftBehind s t

/-- A saved team joins the ready list (R94). -/
def makeReady (s : State) (t : Nat) : State :=
  let tm := s.team t
  let s := (startOffer s tm.tag).setTeam t { tm with st := .ready, order := s.fe.order }
  { s with fe := { s.fe with order := s.fe.order + 1 } }

/-- A team that stays saved for its home shows reason 3 in its frame, and its pin waits (R98, R359, R362). -/
def stayHome (s : State) (t : Nat) : State :=
  let h := teamPin s t
  writeReason ((s.updTeam t (fun tm => { tm with reason := 3 })).setPin h { s.pin h with st := 2 }) t 3

/-- Teams of a gang in the order of their indices (R101). -/
def inIndexOrder (s : State) (ts : List Nat) : List Nat := sortKey (fun t => [(s.team t).index]) ts

/-- TEAM_READY (R357): a team of a gang becomes ready with its whole gang (R24). -/
def execTeamReady (team : Nat) (s : State) : Out :=
  let ts := inIndexOrder s (team :: gangMates s team)
  .next (
    if !ts.all (reasonClear s) then s
    else if ts.any (homeBusy s) then ts.foldl (fun s t => if homeBusy s t && (s.team t).reason != 3 then stayHome s t else s) s
    else ts.foldl makeReady s)

end Sys2Proof.Machine
end

