-- ==== Sys2Proof/Machine/Xperm.lean ====
section
/-!
DEFINITION. The permutation collective (R328, R329): its start, the data that arrive, the copy into the own shard, and the
done word.
-/
namespace Sys2Proof.Machine

/-! ### The descriptor (R328) -/

def Xperm.word (x : Xperm) (k : Nat) : Word := (x.desc[k]?).getD 0
def Xperm.width (x : Xperm) : Nat := widthOf (fld (x.word 0) 63 61)
def Xperm.key (x : Xperm) : Nat := fld (x.word 0) 60 49
def Xperm.parts (x : Xperm) : Nat := fld (x.word 0) 48 37 + 1
def Xperm.own (x : Xperm) : Nat := fld (x.word 0) 36 25
def Xperm.tmo (x : Xperm) : Nat := fld (x.word 0) 15 0
def Xperm.buf (x : Xperm) : Nat := (x.word 1).toNat
def Xperm.bounce (x : Xperm) : Nat := (x.word 2).toNat
def Xperm.wn0 (x : Xperm) : Nat := fld (x.word 3) 14 0
def Xperm.doneAddr (x : Xperm) : Nat := (x.word 6).toNat
def Xperm.newLen (x : Xperm) : Nat := (x.new[x.own]?).getD 0
def Xperm.oldLen (x : Xperm) : Nat := (x.old[x.own]?).getD 0

def State.xpermOf (s : State) (k : Nat) : Xperm := Tab.get Xperm.init s.ful.xp k
def State.hasXperm (s : State) (k : Nat) : Bool := s.ful.xp.any (fun e => e.1 == k)
def State.setXperm (s : State) (k : Nat) (x : Xperm) : State :=
  { s with ful := { s.ful with xp := Tab.put k x s.ful.xp } }

/-- An address word of the descriptor: regions 1 to 7 and a multiple of `n`. -/
def xpAddr (w : Word) (n : Nat) : Bool :=
  decide (w.toNat < 2 ^ 56) && decide (1 ≤ region w.toNat) && decide (region w.toNat ≤ 7) && w.toNat % n == 0

/-- No reserved field is set, p < P, and the windows end at 24,575 (R328, R329). -/
def xpermLegal (x : Xperm) : Bool :=
  fld (x.word 0) 24 16 == 0 && decide (x.own < x.parts) && fld (x.word 3) 63 15 == 0
    && decide (x.wn0 + x.parts - 1 ≤ 24575) && xpAddr (x.word 1) 64 && xpAddr (x.word 2) 64 && xpAddr (x.word 4) 1
    && xpAddr (x.word 5) 1 && xpAddr (x.word 6) 64 && x.word 7 == 0

/-- The lengths of a table: none when a word has a reserved bit. -/
def tabLens (v n : Nat) : Option (List Nat) :=
  let ws := (span 0 n).map (fun k => v >>> (64 * k) % 2 ^ 64)
  if ws.all (fun w => decide (w < 2 ^ 48)) then some ws else none

/-- A length table in memory: the lengths, a wait for its page, or nothing (R329). -/
inductive TabRead
  | lens (l : List Nat)
  | wait
  | bad
  deriving DecidableEq, Repr

/-- Collective `k` reads a table of words, whose address must be theirs (R37). -/
def readTab (s : State) (k ctx a n : Nat) : State × TabRead :=
  if a % 64 ≠ 0 then (s, .bad)
  else match whoRead s (.xperm k) ctx gRemote a (64 * n) with
    | (s, ⟨_, _, true, _⟩) => (s, .wait)
    | (s, ⟨v, none, false, []⟩) => match tabLens v n with
      | some l => (s, .lens l)
      | none => (s, .bad)
    | (s, _) => (s, .bad)

/-- buf overlaps the result buffer or staging area of a group of the context that is homed here and not retired, or the ret
range of one for which this package holds a record (R329). A home's acknowledgement gives the range to the record; before the
first, a group homed here gives it itself. -/
def groupLive (s : State) (ctx a n : Nat) : Bool :=
  s.ful.grp.any (fun e =>
    let g := e.2
    let len := g.elems * g.fmt.width
    let recd := s.fe.contribs.any (fun r => r.sctx == ctx && r.home == 2048 * fabDom s + fabMem s && r.grp == e.1 && r.ctx == g.ctx)
    g.st != .unset && g.st != .retired && ((g.ctx == ctx && (meets (a, n) (g.rbase, len)
        || (g.mode != 0 && meets (a, n) (g.sbase, g.ranks * len))))
      || (recd && g.retAddr != 0 && meets (a, n) (g.retAddr, len))))
  || s.fe.contribs.any (fun r => r.sctx == ctx && (match r.ret with | some (b, m) => b != 0 && meets (a, n) (b, m) | none => false))

/-- A record whose contribution the home, another package, has yet to acknowledge: its ret range comes with the answer, and the check
waits for it (log entry 62). -/
def groupElsewhere (s : State) (ctx : Nat) : Bool :=
  s.fe.contribs.any (fun r => r.sctx == ctx && r.ret.isNone && r.pend != 0 && r.home != 2048 * fabDom s + fabMem s)

/-! ### The done word (R329) -/

/-- Bits that have arrived under a context and key. -/
def arrivedBits (s : State) (ctx key : Nat) : Nat :=
  ((s.ful.arrived.find? (fun e => e.1 == ctx && e.2.1 == key)).map (·.2.2)).getD 0

/-- The collective ends: its done word is written, its count is freed, and its access has performed (R328, R329). -/
def xpermEnd (s : State) (k : Nat) : State :=
  let x := s.xpermOf k
  let n := arrivedBits s x.ctx x.key
  let w := (if x.fail = 0 then 1 <<< 62 else 2 <<< 62 + x.fail <<< 48) + n % 2 ^ 48
  match whoWrite (s.setXperm k { x with phase := 4 }) (.xperm k) x.ctx gRemote x.doneAddr 64 w with
  | (s, ⟨_, _, true, _⟩) => s
  | (s, r) =>
    let s := clearParts s (.xperm k)
    let s := match r.err with | some (code, lo) => logFabric s code lo x.ctx | none => s
    let s := { s with ful := { s.ful with xp := Tab.drop k s.ful.xp,
                                          arrived := s.ful.arrived.filter (fun e => !(e.1 == x.ctx && e.2.1 == x.key)) } }
    s.onCore x.core (fun y => dropAcc y x.id)

/-- The participation fails with its first failure (R329). -/
def xpermFail (s : State) (k code : Nat) : State :=
  xpermEnd ((dropParks s (fun w => w == .xperm k)).setXperm k { s.xpermOf k with fail := code }) k

/-- A failure found after the start is logged as R307 states (R319). -/
def xpermLost (s : State) (k code a : Nat) : State :=
  let x := s.xpermOf k
  let s := match findAcc (s.core x.core) x.id with | some acc => logAccQ s x.core acc code a | none => logErr s code a x.ctx 1 x.core 0
  xpermFail s k code

/-! ### The start (R328) -/

/-- Sum of the first `n` entries. -/
def prefixLen (l : List Nat) (n : Nat) : Nat := (l.take n).sum

/-- The piece of the own shard that participant `q` needs: first element of the tensor and end. -/
def pieceOf (x : Xperm) (q : Nat) : Nat × Nat :=
  let om := prefixLen x.old x.own
  let mm := prefixLen x.new q
  (max om mm, min (om + x.oldLen) (mm + (x.new[q]?).getD 0))

/-- The offset of the piece of participant `q` in its window. -/
def pieceOff (x : Xperm) (q : Nat) : Nat := ((pieceOf x q).1 - prefixLen x.new q) * x.width

/-- Number of packets to participant `q`. -/
def pieceCount (x : Xperm) (q : Nat) : Nat :=
  let (lo, hi) := pieceOf x q
  if lo < hi then (payloads (pieceOff x q) ((hi - lo) * x.width) 0).length else 0

/-- The window pointer of the piece of participant `q`. -/
def pieceAddr (x : Xperm) (q : Nat) : Nat := (0x8000 + x.wn0 + q) * 2 ^ 40 + pieceOff x q % 2 ^ 40

/-- Send the piece of participant `q`, `v` being the bits of the own shard (R328), or the code of its failure. A piece that leaves
the offsets of its window fails the window check. -/
def sendPiece (s : State) (k : Nat) (x : Xperm) (v q : Nat) : State × Option Nat :=
  let (lo, hi) := pieceOf x q
  if hi ≤ lo then (s, none)
  else
    let a := pieceAddr x q
    let n := (hi - lo) * x.width
    let bits_ := v >>> ((lo - prefixLen x.old x.own) * x.width) % 2 ^ n
    match windowFor s x.ctx a .red with
    | (s, .error code) => (s, some code)
    | (s, .ok (w, target)) =>
      if 2 ^ 40 < pieceOff x q + n then (s, some eWindow)
      else if !fabOn s then (s, some eNoroute)
      else
        ((payloads target n bits_).foldl (fun s y =>
          sendFuller s (.xperm k q) (some (x.ctx, winNo a))
            { windowPacket s w y.1 with tier := 2, op := kXperm, cls := 15, len := y.2.1, x4 := wordN x.key, data := wordN y.2.2,
                                        body := if 64 < y.2.1 then BitVec.ofNat 4096 y.2.2 else 0 }) s, none)

/-- The pieces in order; the first failure ends the sends. -/
def sendPieces (s : State) (k : Nat) (x : Xperm) (v : Nat) : List Nat → State × Option (Nat × Nat)
  | [] => (s, none)
  | q :: r => match sendPiece s k x v q with
    | (s, some code) => (s, some (code, pieceAddr x q))
    | (s, none) => sendPieces s k x v r

/-- Uncorrectable sectors that the collective has read: zeros, and a record each. -/
def xpermEcc (s : State) (x : Xperm) (es : List Nat) : State := es.foldl (fun s a => logFabric s eEcc (sectorBase a) x.ctx) s

/-- The checks have passed: the pieces are read from buf and sent (R328). -/
def xpermSend (s : State) (k : Nat) : State :=
  let x := s.xpermOf k
  match whoRead s (.xperm k) x.ctx gRemote x.buf (x.oldLen * x.width) with
  | (s, ⟨_, _, true, _⟩) => s
  | (s, ⟨_, some (code, lo), false, ecc⟩) => xpermLost (xpermEcc s x ecc) k code lo
  | (s, ⟨v, none, false, ecc⟩) =>
    let s := clearParts (xpermEcc s x ecc) (.xperm k)
    let sends := (span 0 x.parts).filterMap (fun q => let n := pieceCount x q; if n = 0 then none else some (q, n))
    match sendPieces (s.setXperm k { x with sends := sends, phase := 2 }) k x v (span 0 x.parts) with
    | (s, some (code, a)) => xpermLost s k code a
    | (s, none) => s

/-- The checks of R329, which come before any effect; a refusal sends nothing. -/
def xpermCheck (s : State) (k : Nat) : State :=
  let x := s.xpermOf k
  if !xpermLegal x then xpermFail s k eXtable
  else
    match readTab s k x.ctx (x.word 4).toNat x.parts with
    | (s, .wait) => s
    | (s, .bad) => xpermFail s k eXtable
    | (s, .lens old) =>
      match readTab s k x.ctx (x.word 5).toNat x.parts with
      | (s, .wait) => s
      | (s, .bad) => xpermFail s k eXtable
      | (s, .lens new) =>
        let x := { x with old := old, new := new, phase := 1 }
        let n := max x.oldLen x.newLen * x.width
        if old.sum ≠ new.sum then xpermFail s k eXtable
        else if n ≠ 0 && groupLive s x.ctx x.buf n then xpermFail s k eLivegroup
        else if n ≠ 0 && groupElsewhere s x.ctx then s
        else xpermSend ((clearParts s (.xperm k)).setXperm k x) k

/-! ### Data and the copy -/

/-- XPERM_DATA (R328): the bits land in the receiver's bounce area and count under its key. -/
def execXpermData (a : Arrival) (s : State) : Out :=
  match arriveReq s a kXperm with
  | (s, some p) => .next (remoteArrive s p)
  | (s, none) => .next s

/-- Every send is acknowledged and every bit has arrived (R328). -/
def xpermReady (s : State) (x : Xperm) : Bool :=
  x.sends.all (fun z => z.2 == 0) && decide (x.newLen * x.width ≤ arrivedBits s x.ctx x.key)

/-- The bounce area is copied to buf and done is written (R328). -/
def xpermCopy (s : State) (k : Nat) : State :=
  let x := { s.xpermOf k with phase := 3 }
  let s := s.setXperm k x
  let n := x.newLen * x.width
  match whoRead s (.xperm k) x.ctx gRemote x.bounce n with
  | (s, ⟨_, _, true, _⟩) => s
  | (s, ⟨_, some (code, lo), false, ecc⟩) => xpermLost (xpermEcc s x ecc) k code lo
  | (s, ⟨v, none, false, ecc⟩) =>
    match whoWrite (xpermEcc s x ecc) (.xperm k) x.ctx gRemote x.buf n v with
    | (s, ⟨_, _, true, _⟩) => s
    | (s, ⟨_, some (code, lo), false, _⟩) => xpermLost s k code lo
    | (s, ⟨_, none, false, _⟩) => xpermEnd (clearParts s (.xperm k)) k

/-- The collective goes on from where it stands. -/
def xpermStep (s : State) (k : Nat) : State :=
  let x := s.xpermOf k
  if !s.hasXperm k then s
  else match x.phase with
    | 0 => xpermCheck s k
    | 1 => xpermSend s k
    | 2 => if xpermReady s x then xpermCopy s k else s
    | 3 => xpermCopy s k
    | _ => xpermEnd s k

/-- xperm starts when its access may perform (R302, R319, R328). -/
def xpermStart (s : State) (c : Nat) (a : Acc) (body : Col) : State :=
  let k := s.ful.nextX
  let x := { Xperm.init with ctx := a.ctx, core := c, id := a.id, desc := words8 body.toNat, t0 := s.fe.time }
  let s := ({ s with ful := { s.ful with nextX := k + 1 } }).onCore c (fun y => putAcc y { a with sent := true })
  xpermStep (s.setXperm k x) k

/-- XPERM_COPY (R328): a failed participation writes done alone (R329). -/
def execXpermCopy (k : Nat) (s : State) : Out := .next (xpermStep s k)

/-- A send of the collective has been acknowledged (R328). -/
def xpermAck (s : State) (k q : Nat) : State :=
  if s.hasXperm k then
    let x := s.xpermOf k
    s.setXperm k { x with sends := x.sends.map (fun z => if z.1 = q then (q, z.2 - 1) else z) }
  else s

/-- A send has failed (R329): a participant that has reached the copy completes it. -/
def xpermSendFails (s : State) (k q code : Nat) : State :=
  let x := s.xpermOf k
  if s.hasXperm k && decide (x.phase ≤ 2) then xpermLost s k code (pieceAddr x q) else s

/-- The count of a receiver is not met by its tmo (R329). -/
def xpermLate (s : State) (x : Xperm) : Bool :=
  x.tmo != 0 && decide (1000 * x.tmo ≤ (s.fe.time - x.t0).toNat) && decide (arrivedBits s x.ctx x.key < x.newLen * x.width)

/-- XPERM_TIMEOUT (R329): the participant fails with fabtimeout and its buf keeps the old shard; the record names its buf (log entry
62). -/
def execXpermTimeout (k : Nat) (s : State) : Out :=
  let x := s.xpermOf k
  .next (if s.hasXperm k && decide (x.phase ≤ 2) && xpermLate s x then xpermLost s k eFabtimeout x.buf else s)

end Sys2Proof.Machine
end

