-- ==== Sys2Proof/Machine/Answers.lean ====
section
/-!
DEFINITION. The answers to a package's requests (R301, R302, R305, R307): replies, acknowledgements, park notices, error responses
and time-outs, for its cores and for the requests of its Fuller, and the packets that find no way on.
-/
namespace Sys2Proof.Machine

/-! ### Requests of the Fuller -/

/-- A request of the Fuller has failed (R89, R92, R125, R325, R329). -/
def fullerFail (s : State) (f : Flight) (code : Nat) : State :=
  match f.who with
  | .xfer tag read off _ => xferLost s tag off code read
  | .fill t c off _ => fillLost s t c off code
  | .xperm k q => xpermSendFails s k q code
  | .spec => { s with xl := { s.xl with drop := s.xl.drop + 1 } }
  | .note => logFabric s code f.addr f.ctx

/-- A request of the Fuller has performed. -/
def fullerDone (s : State) (f : Flight) (p : Packet) : State :=
  match f.who with
  | .xfer tag true off m => xferReply s tag off m p
  | .xfer tag false _ _ => xferAck s tag
  | .fill t c off n => fillArrive s t c off n p
  | .xperm k q => xpermAck s k q
  | .spec | .note => s

/-- The answer to a request of the Fuller; one that nothing waits for is discarded and counted (R301, R316). -/
def fullerAnswer (s : State) (p : Packet) (fail : Option Nat) : State :=
  match flightOf s p.tag with
  | none => dropPacket s
  | some f => match fail with
    | some code => fullerFail (dropFlight s p.tag) f code
    | none => fullerDone (dropFlight s p.tag) f p

/-- A request of the Fuller has waited FAB_CTL.tmo µs without an answer or a park notice (R301). -/
def flightLate (s : State) (f : Flight) : Bool := !f.held && decide (1000 * fabTmo s ≤ s.fe.time.toNat - f.t0)

/-- The late requests of the Fuller meet their time-out (R301). -/
def expireFlights (s : State) : State :=
  (s.fab.flights.filter (flightLate s)).foldl (fun s f => fullerFail (dropFlight s f.tag) f eFabtimeout) s

/-! ### Packets on their way (R297, R299, R301) -/

/-- A packet without a way on is dropped and counted (R301): a request of this package gets the error response, and those behind it
close up; anything else is logged. -/
def noRoute (s : State) (p : Packet) : State :=
  let s := dropPacket s
  if p.resp || !fromHere s p then logFabric s eNoroute p.addr p.tctx
  else
    let s := closeGap s p
    if p.op = kLink then logFabric s eNoroute p.addr p.tctx
    else if p.nc then
      match flightOf s p.tag with
      | some f => fullerFail (dropFlight s p.tag) f eNoroute
      | none => s
    else (splitMates p).foldl (fun s q => match taggedAcc (s.core q.score) q.tag with
      | some a => failRemote s q.score a eNoroute false
      | none => s) s

/-- Packet `k` of those that wait asks for its next link: its port sends the packet of its choice (R297, R299), and one without a
way on is dropped. -/
def forward (s : State) (k : Nat) : State :=
  match takeNth k s.fab.outq with
  | none => s
  | some ((some q, _), _) => sendPort s q
  | some ((none, p), rest) => noRoute { s with fab := { s.fab with outq := rest } } p

/-- PACKET_FORWARD (R297, R299). -/
def execPacketForward (k : Nat) (s : State) : Out := .next (forward s k)

/-! ### Answers at their source -/

/- An answer that finds no request waiting for it came after its time-out or after its register was poisoned: it is
discarded and FAB_DROP counts it (R301, R316). -/
/-- A load's data reach the register (R305) or the stream item (R204, R211) that asked for them. -/
def loadAnswer (s : State) (p : Packet) (a : Acc) : State :=
  match a.op with
  | .sin k v =>
    if flag p.x6 62 then sinFail s p.score a k v none
    else sinArrive s p.score a k v (replyBits p % 2 ^ a.len) (badUnits p)
  | .rld _ => deliver s p.score a (wordN (p.data.toNat % 2 ^ a.len))
  | _ => s

/-- REPLY (R305): the register is full, if the reply is in time. Reads of the Fuller also come back so (R89, R92). -/
def execReply (a : Arrival) (s : State) : Out :=
  match arrive s a kReply with
  | (s, none) => .next s
  | (s, some p) =>
    if p.nc then .next (fullerAnswer s p none)
    else match taggedAcc (s.core p.score) p.tag with
      | none => .next (dropPacket s)
      | some acc => .next (loadAnswer s p acc)

/-- The acknowledgement of a contribution gives its generation and the group's ret range (R322, R329). -/
def ackContrib (s : State) (p : Packet) (a : Acc) : State :=
  editContrib s a (fun r => r.taken (fld p.x6 47 32) (p.addr, fld p.x6 31 0))

/-- ACKNOWLEDGEMENT (R301): the request has performed. -/
def execAcknowledgement (a : Arrival) (s : State) : Out :=
  match arrive s a kAck with
  | (s, none) => .next s
  | (s, some p) =>
    if p.nc then .next (fullerAnswer s p none)
    else match taggedAcc (s.core p.score) p.tag with
      | some acc => .next ((ackContrib s p acc).onCore p.score (fun x => dropAcc x acc.id))
      | none => .next (dropPacket s)

/-- PARK_NOTICE (R118, R301): the source's time-out is suspended. -/
def execParkNotice (a : Arrival) (s : State) : Out :=
  match arrive s a kPark with
  | (s, none) => .next s
  | (s, some p) =>
    if p.nc then .next (if (flightOf s p.tag).isSome then holdFlight s p.tag else dropPacket s)
    else match taggedAcc (s.core p.score) p.tag with
    | some acc => .next (s.onCore p.score (fun x => putAcc x { acc with held := true }))
    | none => .next (dropPacket s)

/-- A connect of a saved team failed (R312): its queue is failed in the frame, and the failure is logged. -/
def connectFail (s : State) (h code : Nat) (p : Packet) : State :=
  match savedHandle s h with
  | some (t, k, q) =>
    let r := s.req (s.team t).tag
    let s := queueErr (logErr s code p.addr r.ctx 1 (firstCore s t) 0) r.queue code p.addr 1 (firstCore s t) 0
    editFrame (editSent s t h (fun q => { q with failed := true })) t (frameFail k q)
  | none => s

/-- ERROR_RESPONSE (R301, R305, R307, R312). The answer to a connect carries its flow handle. -/
def execErrorResponse (a : Arrival) (s : State) : Out :=
  match arrive s a kErr with
  | (s, none) => .next s
  | (s, some p) =>
    let code := p.data.toNat % 256
    if p.nc then .next (fullerAnswer s p (some code))
    else match taggedAcc (s.core p.score) p.tag with
      | some acc => .next (failRemote s p.score acc code true)
      | none => match flowHandle p with
        | some h => .next (connectFail s h code p)
        | none => .next (dropPacket s)

/-- FABTIMEOUT (R301): a request without an answer or a park notice. -/
def execFabtimeout (core id : Nat) (s : State) : Out :=
  match findAcc (s.core core) id with
  | some a => if isRemote a && timedOut s a then .next (failRemote s core a eFabtimeout false) else .next s
  | none => .next s

end Sys2Proof.Machine
end

