-- ==== Sys2Proof/Machine/LoadStore.lean ====
section
/-!
DEFINITION. The units LS0 and LS1 (R187 to R199): the scratchpad of the own core and of team peers, the spill form, and
the tag tables.
-/
namespace Sys2Proof.Machine

def lsA (t : Trig) (s : State) : Word := portOf t s (pLSa t.copy)
def lsD (t : Trig) (s : State) : Word := portOf t s (pLSd t.copy)
def lsW (t : Trig) (s : State) : Wide := (s.core t.core).dup.wport (pLSw t.copy)
def lsReg (t : Trig) (s : State) : Nat := fld (lsD t s) 5 0
def lsBank (t : Trig) (s : State) : Nat := fld (lsD t s) 13 10

/-- The target of y (R194), or its trap. -/
def withTarget (t : Trig) (s : State) (len w : Nat) (own : Bool) (k : Nat → Nat → Res) : Res :=
  match lsTarget s t.core t.slot t.y len w own with
  | .error tr => .trap tr
  | .ok (n, o) => k n o

/-- Team-relative core `n` is the strand's own (R108). -/
def isOwn (t : Trig) (s : State) (n : Nat) : Bool := n == (s.core t.core).tcore

/-! ### The spill form (R188, R189) -/

/-- Where slot `j` lies beyond the spill store. -/
inductive SpillAt
  | carve (o : Nat)
  | over (a : Nat)
  | bad (tr : Trap)
  deriving DecidableEq, Repr

/-- The place of the spill slot that y names, with the checks of spill slot 255. -/
def spillAt (t : Trig) (s : State) : SpillAt :=
  let j := fld t.y 19 0
  let c := (imgOf s t.core).carve
  let p := (s.core t.core).dup.spillReg 255
  if j < 256 then .bad (trapIllegal t.slot)
  else if j < 256 + c then .carve (spadBits - 64 * c + 64 * (j - 256))
  else if ptrMal p then .bad (trapMal t.slot (ptrAddr p))
  else if decide (region (ptrAddr p) < 1) || decide (7 < region (ptrAddr p)) then
    .bad (trapAddr t.slot (ptrAddr p) eUnmapped)
  else if ptrAddr p % 64 ≠ 0 then .bad (trapAlign t.slot (ptrAddr p))
  else .over (ptrAddr p + 64 * (j - 256 - c))

/-- The read of an overflow slot that this bundle has sent (R189). -/
def ovlFind (x : Core) (copy : Bool) (a : Nat) : Option Acc :=
  x.accs.find? (fun b => !b.dead && b.iss == x.cyc && some b.team == x.team && b.addr == a
    && (match b.op with | .ovl k _ => k == copy | _ => false))

/-- The bundle takes what an overflow load has read. While released stores that it may have returned are on their way, it keeps
its place, as a load does (R189, R242). -/
def ovlDone (b : Acc) (x : Core) : Core :=
  let ids := ownSends x b
  if ids.isEmpty then dropAcc x b.id else putAcc x { b with op := .echo ids, acq := 0 }

/-- An overflow load reads before its bundle issues (R189): the first attempt sends the read, the bundle stalls until it
has returned, and an error response is a memory-fault. -/
def overLoad (t : Trig) (s : State) (a : Nat) (sx : Bool) : Res :=
  let x := s.core t.core
  match ovlFind x t.copy a with
  | none =>
    .fetch { accBase s t.core with
      cls := ptrClass (x.dup.spillReg 255), op := .ovl t.copy sx, addr := a, len := 64 }
  | some b =>
    match b.err with
    | some (code, _) =>
      if code = eEcc then .done ((plan s t.core 3 rReg (.lat (lLSr t.copy) 0)).onCore t.core (ovlDone b))
      else .trap ⟨0x09, t.slot, code, 0, 0, none⟩
    | none =>
      if b.got.isEmpty then .stall
      else .done ((plan s t.core 3 rReg (.lat (lLSr t.copy) (wordN (gathered b)))).onCore t.core (ovlDone b))

/-! ### Loads and stores (R195) -/

/-- A local access, which stalls while a fence or an acquire holds it behind an access that has yet to perform (R185, R196, R242,
R243; log entry 56). -/
def withLocal (t : Trig) (s : State) (r : Res) : Res := if heldLocal s t.core (ptrClass t.y) then .stall else r

/-- A local write at t+2, with its place among the strand's accesses (R191, R196, R239). -/
def planNear (t : Trig) (s : State) (fx : Fx) : State :=
  pushAcc (plan s t.core 2 (rLs t.copy) fx) t.core
    { accBase s t.core with cls := ptrClass t.y, op := .near ((s.core t.core).cyc + 2) }

/-- ld and lds. -/
def lsLoad (t : Trig) (s : State) (sx : Bool) : Res :=
  if flag (lsD t s) 8 then
    match spillAt t s with
    | .bad tr => .trap tr
    | .carve o => withLocal t s (.done (plan s t.core 1 rRead (.spRead t.copy o 64 sx none)))
    | .over a => overLoad t s a sx
  else
    let w := ptrWidth t.y
    withTarget t s w w true fun _ o => withLocal t s (.done (plan s t.core 1 rRead (.spRead t.copy o w sx none)))

def opLsLd (t : Trig) (s : State) : Res := lsLoad t s false
def opLsLds (t : Trig) (s : State) : Res := lsLoad t s true

/-- A store of `len` bits at (k, o): local at t+2, or at the peer's shared port (R191, R193). -/
def lsPut (t : Trig) (s : State) (n o len : Nat) (v : Wide) (ben : Option Word) : Res :=
  if isOwn t s n then withLocal t s (.done (planNear t s (.spWrite o len v ben)))
  else .done (pushAcc s t.core { accBase s t.core with
    cls := ptrClass t.y, op := .peerSt, addr := o, len := len, data := v, ben := ben, peer := peerCore s t.core n })

def opLsSt (t : Trig) (s : State) : Res :=
  let v := lsA t s
  if flag (lsD t s) 8 then
    match spillAt t s with
    | .bad tr => .trap tr
    | .carve o => withLocal t s (.done (planNear t s (.spWrite o 64 (v.zeroExtend 1024) none)))
    | .over a =>
      let cls := ptrClass ((s.core t.core).dup.spillReg 255)
      match wbRoom (s.core t.core) t.slot (wbNeeds (s.core t.core).wb cls a 64) with
      | some r => r
      | none => .done (wbStore s t.core cls 0 0 a 64 v.toNat)
  else
    let w := ptrWidth t.y
    withTarget t s w w false fun n o => lsPut t s n o w (BitVec.ofNat 1024 (v.toNat % 2 ^ w)) none

def opLsLdv (t : Trig) (s : State) : Res :=
  withTarget t s 1024 64 true fun _ o => withLocal t s (.done (plan s t.core 1 rRead (.spReadV t.copy o)))
def opLsStv (t : Trig) (s : State) : Res :=
  withTarget t s 1024 64 false fun n o => lsPut t s n o 1024 (lsW t s) none
def opLsStm (t : Trig) (s : State) : Res :=
  withTarget t s 1024 64 false fun n o => lsPut t s n o 1024 (lsW t s) (some (lsA t s))

/-- ldpr and ldprs: a long-latency load, from the own scratchpad in three cycles (R193, R195, R196). -/
def lsLoadPeer (t : Trig) (s : State) (sx : Bool) : Res :=
  let w := ptrWidth t.y
  let r := lsReg t s
  withTarget t s w w false fun n o => withReg s t.core r fun _ =>
    if isOwn t s n then
      withLocal t s (.done (plan (s.onCore t.core (fun x => { x with dup := x.dup.emptyG r })) t.core 1 rRead
        (.spRead t.copy o w sx (some r))))
    else .done (issueAcc s t.core { accBase s t.core with
      cls := ptrClass t.y, op := .peerLd sx, addr := o, len := w, reg := r, peer := peerCore s t.core n })

def opLsLdpr (t : Trig) (s : State) : Res := lsLoadPeer t s false
def opLsLdprs (t : Trig) (s : State) : Res := lsLoadPeer t s true

def opLsSwap (t : Trig) (s : State) : Res :=
  withCkpt t s fun s =>
    let w := ptrWidth t.y
    withTarget t s w w true fun _ o =>
      withLocal t s (.done (planNear t s (.spSwap t.copy o w (wordN ((lsA t s).toNat % 2 ^ w)))))

def opLsBor (t : Trig) (s : State) : Res :=
  withCkpt t s fun s =>
    let w := ptrWidth t.y
    withTarget t s w w false fun n o =>
      if isOwn t s n then withLocal t s (.done (planNear t s (.spBor o w (lsA t s))))
      else .done (pushAcc s t.core { accBase s t.core with
        cls := ptrClass t.y, op := .peerBor, addr := o, len := w, data := (lsA t s).zeroExtend 1024,
        peer := peerCore s t.core n })

def opLsZero (t : Trig) (s : State) : Res :=
  let n := (lsA t s).toNat
  if n = 0 || decide (1024 < n) then .trap (trapIllegal t.slot)
  else withTarget t s n 1 false fun k o => lsPut t s k o n 0 none

/-! ### Tag tables (R197 to R199) -/


/-- The range of tlook and tclr. -/
def withRange (t : Trig) (s : State) (k : Nat → Nat → Res) : Res :=
  let first := fld (lsA t s) 25 16
  let last := fld (lsA t s) 9 0
  if last < first then .trap (trapIllegal t.slot) else k first last

def opLsTlook (t : Trig) (s : State) : Res :=
  withRange t s fun first last =>
    .done (plan s t.core 1 rRead (.tagLook t.copy (lsBank t s) first last (fld t.y 47 0)))
/-- An entry of any bank of the own core is written, one of a bank pinned by a handle that the team does not name too: R198 gives
the tag operations no check of pinned partitions (DESIGN CHOICE, log entry 69; the same for tlook, tclr and tget). -/
def opLsTset (t : Trig) (s : State) : Res :=
  .done (plan s t.core 2 (rLs t.copy) (.tagSet (lsBank t s) (fld t.y 9 0) (lsA t s)))
def opLsTclr (t : Trig) (s : State) : Res :=
  withRange t s fun first last => .done (plan s t.core 2 (rLs t.copy) (.tagClr (lsBank t s) first last))
def opLsTget (t : Trig) (s : State) : Res :=
  .done (plan s t.core 1 rRead (.tagGet t.copy (lsBank t s) (fld t.y 9 0)))

/-- A scout makes speculative reads and has no other effect: it counts as no request (R199, R217). -/
def opLsTscout (t : Trig) (s : State) : Res :=
  let n := (lsA t s).toNat
  let r := region (ptrAddr t.y)
  if n = 0 || decide (2 ^ 20 < n) || r = 0 || decide (14 ≤ r) then .trap (trapIllegal t.slot)
  else if ptrMal t.y then .trap (trapMal t.slot (ptrAddr t.y))
  else .done (pushAcc s t.core { accBase s t.core with cls := ptrClass t.y, op := .scout, addr := ptrAddr t.y, len := n })

def execLsLd (t : Trig) (s : State) : Out := finish s t.core (opLsLd t s)
def execLsLds (t : Trig) (s : State) : Out := finish s t.core (opLsLds t s)
def execLsSt (t : Trig) (s : State) : Out := finish s t.core (opLsSt t s)
def execLsLdv (t : Trig) (s : State) : Out := finish s t.core (opLsLdv t s)
def execLsStv (t : Trig) (s : State) : Out := finish s t.core (opLsStv t s)
def execLsLdpr (t : Trig) (s : State) : Out := finish s t.core (opLsLdpr t s)
def execLsLdprs (t : Trig) (s : State) : Out := finish s t.core (opLsLdprs t s)
def execLsStm (t : Trig) (s : State) : Out := finish s t.core (opLsStm t s)
def execLsTlook (t : Trig) (s : State) : Out := finish s t.core (opLsTlook t s)
def execLsTset (t : Trig) (s : State) : Out := finish s t.core (opLsTset t s)
def execLsTclr (t : Trig) (s : State) : Out := finish s t.core (opLsTclr t s)
def execLsTget (t : Trig) (s : State) : Out := finish s t.core (opLsTget t s)
def execLsTscout (t : Trig) (s : State) : Out := finish s t.core (opLsTscout t s)
def execLsSwap (t : Trig) (s : State) : Out := finish s t.core (opLsSwap t s)
def execLsBor (t : Trig) (s : State) : Out := finish s t.core (opLsBor t s)
def execLsZero (t : Trig) (s : State) : Out := finish s t.core (opLsZero t s)

/-- PEER_ACCESS_PERFORM (R193): an access that nothing earlier holds back performs at its peer. -/
def execPeerAccessPerform (core id : Nat) (s : State) : Out :=
  match findAcc (s.core core) id with
  | some a => if isPeer a && !blocked s core a then .next (performPeer (settle s core a) core a) else .next s
  | none => .next s

end Sys2Proof.Machine
end

