-- ==== Sys2Proof/Machine/Matrix.lean ====
section
/-!
DEFINITION. The beats of the matrix slot (R257 to R266) and the unit MX (R274 to R276).
-/
namespace Sys2Proof.Machine

/-! ### Verdicts -/

/-- Of several checks the illegal-operation traps come first, then the others in order (R350). -/
def pickTrap (ts : List (Option Trap)) : Option Trap :=
  match ts.findSome? (fun t => match t with | some x => if x.code = 1 then some x else none | none => none) with
  | some x => some x
  | none => ts.findSome? id

/-- How an operand is found at issue: taken (or its place reserved), waited for, or a trap. -/
inductive Take (α : Type)
  | ok (s : State) (v : α)
  | wait (r : Res)
  | bad (t : Trap)

def Take.trap? {α : Type} : Take α → Option Trap
  | .bad t => some t
  | _ => none

/-- The traps of a beat or MX operation as such: the matrix slot in handler mode, and the busy window (R261, R273,
R276). -/
def mxBusyTrap (s : State) (c slot : Nat) : Option Trap :=
  if (s.core c).mxBusy ≠ 0 then some (trapProg slot 0x0A) else none

/-! ### Operands of beats (R257, R260) -/

/-- A running channel has the link queue for its memory (R203). -/
def lqServes (x : Core) (n : Nat) : Bool :=
  (span 0 8).any (fun j => let h := x.dup.chanOf j
    h.st == .running && dMem h.desc == 3 && dLq h.desc == n)

/-- Why link queue `n` cannot take part in a beat of `len` bits in direction `out` (R260). -/
def lqTrap (x : Core) (n len : Nat) (out : Bool) : Option Trap :=
  let q := x.lqOf n
  pickTrap [
    if lqServes x n || (q.bound && rowLen q.rlen != len) then some (trapIllegal 0) else none,
    if !q.bound || q.out != out || q.failed then some (trapProg 0 7) else none,
    if !out && decide (16 ≤ q.held.length) then some (trapProg 0 6) else none]

/-- A group of vector registers as one value, or its first register (R257). -/
def vGroup (d : Dup) (g len : Nat) : Nat :=
  if len ≤ 1024 then (d.vreg (4 * g)).toNat
  else packList 1024 ((span (4 * g) 4).map (fun r => (d.vreg r).toNat))

/-- The source of a beat: `len` bits, or a row item of `item` bits (R257). -/
def beatSource (s : State) (c opnd len item : Nat) : Take BeatSrc :=
  let x := s.core c
  let n := opnd % 8
  match opnd / 8 with
  | 0 => match mdAddr s c (x.dup.mdOf n) len with
    | .error t => .bad t
    | .ok a => .ok s (.spad a len)
  | 1 => match lqTrap x n len false with
    | some t => .bad t
    | none =>
      let q := x.lqOf n
      match q.rows with
      | [] => .wait .stall
      | r :: rest => .ok (s.setCore c (x.setLq n { q with rows := rest, held := q.held ++ [r] })) (.val r.v)
  | 2 => match sAvail s c 0 n item 1 with
    | .bad t => .bad t
    | .wait => .wait (.await n 1)
    | .ready => let (s, v) := sTake s c n; .ok s (.val (BitVec.ofNat 4096 v))
  | _ => .ok s (.val (BitVec.ofNat 4096 (vGroup x.dup n len)))

/-- Take `n` element items of a stream, first lowest (R259). -/
def takeItems (s : State) (c k : Nat) : Nat → State × Nat
  | 0 => (s, 0)
  | n + 1 =>
    let (s, v) := sTake s c k
    let (s, r) := takeItems s c k n
    (s, v + r <<< 64)

/-- The `nb` scale bytes of a beat under entry `e` (R259). A stream that is also the operand is illegal. -/
def beatScale (s : State) (c opnd : Nat) (e : BitVec 32) (nb : Nat) : Take BeatSrc :=
  let src := feSc e
  let k := src % 8
  if 24 ≤ src then
    match mdAddr s c ((s.core c).dup.mdOf k) (8 * nb) with
    | .error t => .bad t
    | .ok a => .ok s (.spad a (8 * nb))
  else if opnd = 16 + k then .bad (trapIllegal 0)
  else match sAvail s c 0 k 64 (nb / 8) with
    | .bad t => .bad t
    | .wait => .wait (.await k (nb / 8))
    | .ready => let (s, v) := takeItems s c k (nb / 8); .ok s (.val (BitVec.ofNat 4096 v))

/-- The destination of a drain of `len` bits (R257, R260): its slot is reserved at issue. -/
def beatDest (s : State) (c opnd len : Nat) : Take DrainDst :=
  let x := s.core c
  let n := opnd % 8
  match opnd / 8 with
  | 0 => match mdAddr s c (x.dup.mdOf n) len with
    | .error t => .bad t
    | .ok a => .ok s (.spad a)
  | 1 => match lqTrap x n len true with
    | some t => .bad t
    | none =>
      let q := x.lqOf n
      if 16 ≤ q.rows.length + q.resv then
        (if q.rows.any (·.rel) then .wait .stall else .bad (trapProg 0 6))
      else .ok (s.setCore c (x.setLq n { q with resv := q.resv + 1 })) (.lq n)
  | 2 => match sRoom s c 0 n 1024 with
    | .bad t => .bad t
    | .wait => .wait .stall
    | .ready => .ok (reserveOut s c n) (.stream n)
  | _ => .ok s (.vreg (4 * n))

/-! ### Beats (R261 to R266) -/

/-- The accumulator row that a beat names (R150, R261). -/
def beatRow (d : Dup) (b : Beat) : Nat := if b.rmode = 1 then (b.row + d.inner) % 256 else b.row

/-- A beat as issue resolves it. -/
def beatRec (s : State) (b : Beat) (kind : Nat) : BeatRec :=
  let x := s.core b.core
  let d := x.dup
  let n := activeNo d
  { kind := kind, entry := d.fmtOf n, entryNo := n, cols := if kind = 1 then x.latchOf b.latch else Latch.init,
    latch := b.latch, bank := if kind = 2 then 0 else b.bank, row := if kind = 2 then 0 else beatRow d b,
    ctrs := d.ctrs }

/-- Naming accumulator row (bank, row) would need a 129th row of the undo buffer (R271). -/
def undoFull (x : Core) (rows : List (Nat × Nat)) : Bool :=
  decide (128 < x.named.length + (rows.filter (fun r => !x.named.contains r)).length)

/-- The rows join those that the region has named (R271). -/
def nameRows (x : Core) (rows : List (Nat × Nat)) : Core :=
  { x with named := x.named ++ rows.filter (fun r => !x.named.contains r) }

/-- The traps of a beat but for its operands (R255, R261, R271, R273). -/
def beatTraps (s : State) (b : Beat) (r : BeatRec) (mod : Bool) : List (Option Trap) :=
  let x := s.core b.core
  [if x.mode = .handler || !entryLegal r.entry.toNat then some (trapIllegal 0) else none,
    mxBusyTrap s b.core 0,
    if mod && undoFull x [(r.bank, r.row)] then some (trapProg 0 5) else none]

/-- Operand length of a beat that reads: kind 1 push, 2 shift, 3 acc (R257). -/
def readLen (e : BitVec 32) (kind : Nat) : Nat :=
  match kind with
  | 1 => kOf (feA e) * codeWidth (feA e)
  | 2 => kOf (feB e) * codeWidth (feB e)
  | _ => 1024

/-- Whether a beat of this kind takes scale bytes, and how many (R259). -/
def scaleLen (e : BitVec 32) (kind : Nat) : Nat :=
  match kind with
  | 1 => if codeIsN (feA e) then kOf (feA e) / 32 else 0
  | 2 => if codeIsN (feB e) then kOf (feB e) / 32 else 0
  | _ => 0

/-- push, shift and acc: the operand and the scale bytes are found at issue, and the beat reads at t+1. -/
def readBeat (b : Beat) (s : State) (kind : Nat) : Res :=
  let c := b.core
  let r := beatRec s b kind
  let nb := scaleLen r.entry kind
  let src := fun (s : State) => beatSource s c b.opnd (readLen r.entry kind) (if kind = 3 then 1024 else 4096)
  let sc := fun (s : State) => if nb = 0 then Take.ok s (.val 0) else beatScale s c b.opnd r.entry nb
  let mod := kind != 2
  match pickTrap (beatTraps s b r mod ++ (if entryLegal r.entry.toNat then [(src s).trap?, (sc s).trap?] else [])) with
  | some t => .trap t
  | none => match src s with
    | .bad t => .trap t
    | .wait w => w
    | .ok s v => match sc s with
      | .bad t => .trap t
      | .wait w => w
      | .ok s w =>
        let s := if mod then s.onCore c (fun x => nameRows x [(r.bank, r.row)]) else s
        .done (plan s c 1 rLate (.beatIn r v w))

/-- drain and drain-and-zero (R265). -/
def drainBeat (b : Beat) (s : State) (zero : Bool) : Res :=
  let c := b.core
  let r := beatRec s b (if zero then 5 else 4)
  let dst := fun (s : State) => beatDest s c b.opnd (32 * codeWidth (feD r.entry))
  match pickTrap (beatTraps s b r zero ++ (if entryLegal r.entry.toNat then [(dst s).trap?] else [])) with
  | some t => .trap t
  | none => match dst s with
    | .bad t => .trap t
    | .wait w => w
    | .ok s d =>
      let s := if zero then s.onCore c (fun x => nameRows x [(r.bank, r.row)]) else s
      .done (plan s c 4 rAcc (.accDrain r zero d))

def opMxNop (s : State) : Res := .done s
def opMxPush (b : Beat) (s : State) : Res := readBeat b s 1
def opMxShift (b : Beat) (s : State) : Res := readBeat b s 2
def opMxAcc (b : Beat) (s : State) : Res := readBeat b s 3
def opMxDrain (b : Beat) (s : State) : Res := drainBeat b s false
def opMxDrainz (b : Beat) (s : State) : Res := drainBeat b s true

def execMxNop (core : Nat) (s : State) : Out := finish s core (opMxNop s)
def execMxPush (b : Beat) (s : State) : Out := finish s b.core (opMxPush b s)
def execMxShift (b : Beat) (s : State) : Out := finish s b.core (opMxShift b s)
def execMxAcc (b : Beat) (s : State) : Out := finish s b.core (opMxAcc b s)
def execMxDrain (b : Beat) (s : State) : Out := finish s b.core (opMxDrain b s)
def execMxDrainz (b : Beat) (s : State) : Out := finish s b.core (opMxDrainz b s)

/-! ### The unit MX (R274) -/

def mxA (t : Trig) (s : State) : Word := portOf t s pMXa
def mxK (t : Trig) (s : State) : Word := portOf t s pMXk

/-- An MX operation: its own illegal case first, then the busy window, then its other checks (R276, R350). -/
def withMx (t : Trig) (s : State) (illegal : Bool) (k : Unit → Res) : Res :=
  if illegal then .trap (trapIllegal t.slot)
  else match mxBusyTrap s t.core t.slot with
    | some tr => .trap tr
    | none => k ()

/-- A change of a register of the array, seen by beats from t+2. -/
def mxSet (t : Trig) (s : State) (fx : Fx) : Res := .done (plan s t.core 2 rMx fx)

def opMxMdset (t : Trig) (s : State) : Res :=
  let m : MdReg := ⟨t.y, mxA t s⟩
  withMx t s (mdRowlv m == 7 || mdTilelv m == 7 || fld m.w1 55 48 != 0) fun _ =>
    if ptrMal t.y then .trap (trapMal t.slot (ptrAddr t.y))
    else if spadBits ≤ ptrAddr t.y then .trap (trapAddr t.slot (ptrAddr t.y) eUnmapped)
    else mxSet t s (.md (fld (mxK t s) 2 0) m)

def opMxFmtset (t : Trig) (s : State) : Res :=
  withMx t s (!entryLegal t.y.toNat) fun _ => mxSet t s (.fmtSet (fld (mxK t s) 3 0) (BitVec.ofNat 32 t.y.toNat))

def opMxFmtget (t : Trig) (s : State) : Res :=
  withMx t s false fun _ =>
    .done (plan s t.core 2 rReg (.lat lMX (((s.core t.core).dup.fmtOf (fld t.y 3 0)).zeroExtend 64)))

def opMxFmtlvl (t : Trig) (s : State) : Res :=
  withMx t s (fld t.y 6 4 == 7) fun _ => mxSet t s (.fmtLvl (fld t.y 6 4) (fld t.y 3 0))

def opMxOvpop (t : Trig) (s : State) : Res :=
  withMx t s false fun _ => .done (plan s t.core 1 (rEvent 3) .ovPop)

def opMxOvstat (t : Trig) (s : State) : Res :=
  withMx t s false fun _ => .done (plan s t.core 1 (rEvent 3) (.ovStat (flag t.y 0)))

/-- The image of part `part` at y, in the own scratchpad (R276). -/
def withImage (t : Trig) (s : State) (k : Nat → Nat → Res) : Res :=
  let p := fld (mxK t s) 2 0
  withMx t s (p == 7 || ptrAddr t.y % 1024 != 0) fun _ =>
    match lsTarget s t.core t.slot t.y (1024 * imageLen p) 1 true with
    | .error tr => .trap tr
    | .ok (_, o) => k p o

/-- A copy runs until t+6+L (R276). -/
def startImage (s : State) (c p : Nat) (done : Nat) : State :=
  plan (s.onCore c (fun x => { x with mxBusy := x.cyc + 6 + imageLen p })) c (6 + imageLen p) (rMx + 1) (.mxDone done)

/-- mxsave: the state as after the beats issued up to t, and the operations triggered before t, whose effects have landed by t+5;
the events of the last drains enter the queue at t+6 (R266, R276). -/
def opMxMxsave (t : Trig) (s : State) : Res :=
  withImage t s fun p o =>
    let s := if p = 6 then s.onCore t.core (fun x => { x with evCopy := some (x.cyc, x.dup.ovq, x.dup.ovLost) }) else s
    .done (plan (startImage s t.core p 7) t.core (if p = 6 then 6 else 5) (if p = 6 then rEvent 3 else rAcc) (.mxSave p o))

def opMxMxload (t : Trig) (s : State) : Res :=
  withImage t s fun p o =>
    .done ((span 0 (imageLen p)).foldl (fun s j => plan s t.core (6 + j) rRead (.mxRead p j (o + 1024 * j)))
      (startImage s t.core p p))

/-- Rows `first` to `last` of a bank. -/
def bankRows (bank first last : Nat) : List (Nat × Nat) := (span first (last + 1 - first)).map (fun r => (bank, r))

/-- acczero takes its place among the beats: after those issued up to t+1, before those from t+2 (R274). -/
def opMxAcczero (t : Trig) (s : State) : Res :=
  let x := s.core t.core
  let bank := fld t.y 16 16
  let first := fld t.y 15 8
  let last := fld t.y 7 0
  withMx t s (x.mode == .handler || decide (last < first)) fun _ =>
    if undoFull x (bankRows bank first last) then .trap (trapProg t.slot 5)
    else .done (plan (s.setCore t.core (nameRows x (bankRows bank first last))) t.core 6 rAcc (.accZero bank first last))

/-- wzero: a column that a shift issued up to t+1 writes as late as t+3 is zeroed too (R263, R274). -/
def opMxWzero (t : Trig) (s : State) : Res :=
  let l := fld t.y 1 0
  withMx t s ((s.core t.core).mode == .handler) fun _ =>
    .done (plan (plan s t.core 2 (rEvent 3) (.wZero l)) t.core 3 (rEvent 3) (.wZero l))

def execMxMdset (t : Trig) (s : State) : Out := finish s t.core (opMxMdset t s)
def execMxFmtset (t : Trig) (s : State) : Out := finish s t.core (opMxFmtset t s)
def execMxFmtget (t : Trig) (s : State) : Out := finish s t.core (opMxFmtget t s)
def execMxFmtlvl (t : Trig) (s : State) : Out := finish s t.core (opMxFmtlvl t s)
def execMxOvpop (t : Trig) (s : State) : Out := finish s t.core (opMxOvpop t s)
def execMxOvstat (t : Trig) (s : State) : Out := finish s t.core (opMxOvstat t s)
def execMxMxsave (t : Trig) (s : State) : Out := finish s t.core (opMxMxsave t s)
def execMxMxload (t : Trig) (s : State) : Out := finish s t.core (opMxMxload t s)
def execMxAcczero (t : Trig) (s : State) : Out := finish s t.core (opMxAcczero t s)
def execMxWzero (t : Trig) (s : State) : Out := finish s t.core (opMxWzero t s)

end Sys2Proof.Machine
end

