-- ==== Sys2Proof/Machine/Stream.lean ====
section
/-!
DEFINITION. The unit SE (R212, R213, R397) and the events of stream channels: reads ahead and demand reads, arrivals,
and the writes of output channels (R203 to R211, R246, R247).
-/
namespace Sys2Proof.Machine

/-! ### SE operations (R212) -/

def seK (t : Trig) (s : State) : Nat := fld (portOf t s pSEk) 2 0
def seA (t : Trig) (s : State) : Word := portOf t s pSEa

def isSeAct (d : Due) : Bool := match d.fx with | .seAct _ _ _ _ _ _ => true | _ => false

/-- The channels as every earlier SE operation of the strand leaves them (R212). -/
def seView (s : State) (c : Nat) : State :=
  let x := s.core c
  (x.due.filter isSeAct).foldl (fun s d => match d.fx with
    | .seAct op k y a desc pl => seApply s c d.iss op k y a desc pl
    | _ => s) (s.setCore c { x with due := x.due.filter (fun d => !isSeAct d) })

/-- The operation takes effect at t+2, and its reads stand at this place in model order (R212, R246). -/
def seAt (t : Trig) (s : State) (op k : Nat) (y a : Word) (desc : BitVec 512) : Res :=
  .done (plan s t.core 2 rSe (.seAct op k y a desc (s.core t.core).nextId))

/-- The channel of a SE operation that needs a bound one (R212). -/
def withChan (t : Trig) (s : State) (f : Core → ChDup → Res) : Res :=
  let x := (seView s t.core).core t.core
  let ch := x.dup.chanOf (seK t s)
  if ch.st == .unbound then .trap (trapProg t.slot 8) else f x ch

/-- Channel `k` feeds indices to a running channel (R397). -/
def feedsRunning (x : Core) (k : Nat) : Bool :=
  (span 0 8).any (fun j => let h := x.dup.chanOf j
    j != k && h.st == .running && dIx h.desc && dIxch h.desc == k)

def opSeSbind (t : Trig) (s : State) : Res :=
  match lsTarget s t.core t.slot t.y 512 1 true with
  | .error tr => .trap tr
  | .ok (_, o) =>
    if o % 512 ≠ 0 then .trap (trapIllegal t.slot)
    else
      let (s, v) := ownLoad s t.core o 512
      let d := BitVec.ofNat 512 v
      if !descLegal d then .trap (trapIllegal t.slot)
      else if ptrMal (dWord d 0) then .trap (trapMal t.slot (ptrAddr (dWord d 0)))
      else seAt t s 0 (seK t s) t.y 0 d

def opSeSgrp (t : Trig) (s : State) : Res :=
  if ptrWc t.y < 6 then .trap (trapIllegal t.slot)
  else withChan t s fun _ ch =>
    if ptrMal t.y then .trap (trapMal t.slot (ptrAddr t.y))
    else if ch.st != .idle || decide (dLev ch.desc < 3) || dIx ch.desc then .trap (trapProg t.slot 8)
    else seAt t s 1 (seK t s) t.y 0 0

/-- A link queue that a channel may start on: bound in its direction, and no running channel's memory (R203). -/
def lqStartable (x : Core) (k : Nat) (d : BitVec 512) : Bool :=
  let q := x.lqOf (dLq d)
  q.bound && q.out == dOut d && !(span 0 8).any (fun j => let h := x.dup.chanOf j
    j != k && h.st == .running && dMem h.desc == 3 && dLq h.desc == dLq d)

/-- An index channel that a channel may start with (R207). -/
def indexStartable (x : Core) (k : Nat) (d : BitVec 512) : Bool :=
  let j := dIxch d
  let h := x.dup.chanOf j
  j != k && h.st == .running && !dOut h.desc && dItem h.desc == 0 && !dIx h.desc && h.grp.isNone

def opSeSstart (t : Trig) (s : State) : Res :=
  withChan t s fun x ch =>
    let k := seK t s
    if (dMem ch.desc = 3 && !lqStartable x k ch.desc) || (dIx ch.desc && !indexStartable x k ch.desc) then
      .trap (trapProg t.slot 8)
    else seAt t s 2 k 0 0 0

def opSeSstop (t : Trig) (s : State) : Res := withChan t s fun _ _ => seAt t s 3 (seK t s) 0 0 0

/-- A vector of sseek: each level below its count, but for level 1 of a grouped walk (R212). -/
def vecLegal (ch : ChDup) (v : Vec) : Bool :=
  let d := ch.desc
  decide (v.i0 < dCount d 0) && (ch.grp.isSome || decide (v.i1 < dCount d 1)) && decide (v.i2 < dCount d 2)
    && decide (v.i3 < dCount d 3) && decide (v.i4 < dCount d 4)

def opSeSseek (t : Trig) (s : State) : Res :=
  withChan t s fun x ch =>
    if !vecLegal ch (vecOf t.y (seA t s)) then .trap (trapIllegal t.slot)
    else if feedsRunning x (seK t s) then .trap (trapProg t.slot 8)
    else seAt t s 4 (seK t s) t.y (seA t s) 0

def opSeSstat (t : Trig) (s : State) : Res :=
  if 4 ≤ t.y.toNat then .trap (trapIllegal t.slot)
  else .done (plan s t.core 3 rReg (.lat lSE (statWord ((seView s t.core).core t.core) (seK t s) t.y.toNat)))

def opSeSflush (t : Trig) (s : State) : Res :=
  withChan t s fun x _ =>
    if feedsRunning x (seK t s) then .trap (trapProg t.slot 8) else seAt t s 6 (seK t s) 0 0 0

def opSeSskip (t : Trig) (s : State) : Res :=
  withChan t s fun x _ =>
    if feedsRunning x (seK t s) then .trap (trapProg t.slot 8) else seAt t s 7 (seK t s) t.y 0 0

def opSeSfree (t : Trig) (s : State) : Res := withChan t s fun _ _ => seAt t s 8 (seK t s) 0 0 0

/-- Items that can stand in the buffer of an input channel: the run-ahead limit, or the rows of a link queue (R260). -/
def holdable (ch : ChDup) : Nat := if dMem ch.desc = 3 then min 16 (dLimit ch.desc) else dLimit ch.desc

/-- The walk ends after the items read ahead. -/
def readAll (x : Core) (k : Nat) : Bool :=
  let ch := x.dup.chanOf k
  let r := x.chanRun k
  let v := match r.items.getLast? with | some i => nextVec ch r i.vec | none => posVec x k
  ch.skip == 0 && vecEnd ch v

def isHere (i : Item) : Bool := match i.st with | .here _ => true | _ => false

/-- The fault among the first `n` items of a channel. -/
def faultAmong (x : Core) (k n : Nat) : Option Nat :=
  ((x.chanRun k).items.take n).findSome? (fun i => match i.st with | .fault code _ => some code | _ => none)

/-- The item after those read ahead lies in the own scratchpad, where it is read only as the one before it is consumed (R203). -/
def nextIsOwn (s : State) (c k : Nat) : Bool :=
  let x := s.core c
  let r := x.chanRun k
  let d := (x.dup.chanOf k).desc
  let v := match r.items.getLast? with | some i => nextVec (x.dup.chanOf k) r i.vec | none => posVec x k
  dMem d = 2 && !r.items.isEmpty && (match itemAt x k r.items.length v with
    | .item a => (match spadTarget s c a (dWidth d) with | .ok (pc, _) => pc == c | .error _ => false)
    | _ => false)

/-- Rows that a strand has pushed to an outbound link queue and that its checkpoint has released wait to be sent. A withheld row is
sent after a checkpoint that a stalled bundle cannot take: it is not waited for (log entry 28). -/
def rowsWait (x : Core) (ch : ChDup) : Bool := dMem ch.desc = 3 && (x.lqOf (dLq ch.desc)).rows.any (·.rel)

def opSeSwait (t : Trig) (s : State) : Res :=
  withChan t s fun x ch =>
    let k := seK t s
    let r := x.chanRun k
    if dOut ch.desc then
      if r.resv ≠ 0 then .trap (trapProg t.slot 8)
      else if r.flt then .trap (trapStream t.slot k r.fcode)
      else if pendingOut x k ≠ 0 || rowsWait x ch then .stall else .done s
    else
      let n := min (min t.y.toNat (itemsLeft x k)) (holdable ch)
      if dMem ch.desc = 3 then (if (x.lqOf (dLq ch.desc)).rows.length < n then .stall else .done s)
      else match faultAmong x k n with
        | some code => .trap (trapStream t.slot k code)
        | none =>
          if (r.items.take n).all isHere && (decide (n ≤ r.items.length) || (ch.st == .running && readAll x k)
              || nextIsOwn (seView s t.core) t.core k)
          then .done s
          else .await k n

def execSeSbind (t : Trig) (s : State) : Out := finish s t.core (opSeSbind t s)
def execSeSgrp (t : Trig) (s : State) : Out := finish s t.core (opSeSgrp t s)
def execSeSstart (t : Trig) (s : State) : Out := finish s t.core (opSeSstart t s)
def execSeSstop (t : Trig) (s : State) : Out := finish s t.core (opSeSstop t s)
def execSeSseek (t : Trig) (s : State) : Out := finish s t.core (opSeSseek t s)
def execSeSstat (t : Trig) (s : State) : Out := finish s t.core (opSeSstat t s)
def execSeSflush (t : Trig) (s : State) : Out := finish s t.core (opSeSflush t s)
def execSeSskip (t : Trig) (s : State) : Out := finish s t.core (opSeSskip t s)
def execSeSfree (t : Trig) (s : State) : Out := finish s t.core (opSeSfree t s)
def execSeSwait (t : Trig) (s : State) : Out := finish s t.core (opSeSwait t s)

/-! ### Reads of input channels (R204, R208, R246) -/

/-- A stream read, placed where its channel began reading (R246); `peer` is 0, or one more than the peer's core. -/
def readAcc (s : State) (c k : Nat) (v : Vec) (a w peer : Nat) : Acc :=
  let x := s.core c
  let place := (x.chanRun k).place
  { accBase s c with
    id := place, pid := place, cls := ptrClass (dWord (x.dup.chanOf k).desc 0), op := .sin k v, addr := a, len := w, peer := peer }

/-- The parts in which an item of HBM or of a peer is read, in any order: its sectors, or the words of a longer row (R38, R41,
R238, R246). -/
def itemUnits (mem a w : Nat) : List Nat := if mem = 0 then sectors a w else if w ≤ 64 then [0] else spadTouch a w

/-- First bit and length of part `p`. -/
def unitPart (mem a w p : Nat) : Nat × Nat :=
  if mem = 0 then sectorPart a w p
  else if w ≤ 64 then (a, w)
  else let lo := max a (64 * p); (lo, min (a + w) (64 * (p + 1)) - lo)

/-- A part of an item has been read: its bits in place, or none for an uncorrectable sector or word. The last part completes
the item (R211). -/
def unitRead (x : Core) (k i : Nat) (it : Item) (units : List Nat) (got : Tab (Option Nat)) (parked : List Nat) (p : Nat)
    (v : Option Nat) (unit : Nat) : Core :=
  let got := Tab.put p v got
  let bad := (got.find? (fun e => e.2.isNone)).map (fun e => unit * e.1)
  let val := if bad.isSome then 0 else (got.map (fun e => e.2.getD 0)).sum
  putItem x k i { it with st := if got.length < units.length then .reading got (parked.filter (· != p)) else .read (BitVec.ofNat 4096 val) bad }

/-- Read part `p` of item `i` of channel `k`, in HBM or at a peer. A demand read may park or fault; a speculative one that would is
dropped (R125, R204). -/
def readUnit (s : State) (c k i : Nat) (it : Item) (got : Tab (Option Nat)) (parked : List Nat) (p : Nat) (due : Bool) : State :=
  let d := ((s.core c).dup.chanOf k).desc
  let w := dWidth d
  let ctx := ctxOf s c
  if dMem d = 0 then
    let (lo, n) := unitPart 0 it.addr w p
    let b := readAcc s c k it.vec lo n 0
    if blocked s c b then s
    else match translate (settle s c b) ctx lo gStream 0 (!due) with
      | (s', .err code) => if due then faultAt s' c k i it.vec code it.addr true else dropRead s' c k i it.vec it.addr
      | (s', .park l) =>
        if due then (match takeRefusal s' b.team ctx lo with
          | some s' => faultAt s' c k i it.vec eUnmapped it.addr true
          | none => match addPark s' ctx lo gStream 0 l (.sread c k it.vec p) with
            | some s' => s'.onCore c (fun x => putItem x k i { it with st := .reading got (parked ++ [p]) })
            | none => s)
        else dropRead s' c k i it.vec it.addr
      | (s', .ok q) =>
        let v := if s'.hbmBad.contains (q / 256) then none else some (hbmBits s'.hbm q n <<< (lo - it.addr))
        s'.onCore c (fun x => unitRead x k i it (itemUnits 0 it.addr w) got parked p v 256)
  else match spadTarget s c it.addr w with
    | .error e => if due then faultAt s c k i it.vec e it.addr true else s.onCore c (fun x => dropItemAt x k i it.vec it.addr)
    | .ok (pc, o) =>
      let (lo, n) := unitPart 2 o w p
      let b := readAcc s c k it.vec lo n (pc + 1)
      if blocked s c b then s
      else
        let s := settle s c b
        let y := s.core pc
        let bad := spadErrs y.spadBad lo n
        let v := if bad.isEmpty then some (spadGet y.spad lo n <<< (lo - o)) else none
        s.onCore c (fun x => unitRead x k i it (itemUnits 2 o w) got parked (if w ≤ 64 then bad.headD (o / 64) else p) v 64)

/-- Begin the read of the item at address `a`, at index `i` of the buffer (R203): in the own scratchpad at the position alone;
through a window as a request, speculative until the item is due. -/
def readItem (s : State) (c k i : Nat) (v : Vec) (a : Nat) (due : Bool) : State :=
  let x := s.core c
  let d := (x.dup.chanOf k).desc
  let put := fun (s : State) (st : ItemSt) => s.onCore c (fun x => putItem x k i ⟨v, a, st⟩)
  match dMem d with
  | 0 => put s (.reading [] [])
  | 1 =>
    match windowFor s (ctxOf s c) a .rd with
    | (s', .error code) => if due then faultAt s' c k i v code a true else dropRead s' c k i v a
    | (s', .ok _) =>
      let acc := { readAcc s' c k v a (dWidth d) 0 with id := x.nextId, cmp := wordN (1 + if due then 0 else 2 ^ 62) }
      pushAcc (put s' .sent) c acc
  | _ =>
    match spadTarget s c a (dWidth d) with
    | .error e => if due then faultAt s c k i v e a true else s.onCore c (fun x => dropItemAt x k i v a)
    | .ok (pc, o) =>
      if pc ≠ c then put s (.reading [] [])
      else if i = 0 then
        let r := spadLoad x.spad x.spadBad o (dWidth d)
        put (chanEccWords s c k r.2) (.here (BitVec.ofNat 4096 (ownView x o (dWidth d) r.1)))
      else s

/-- An offset of a grouped walk has been read. -/
def keepOffset (x : Core) (k g y : Nat) : Core :=
  let r := x.chanRun k
  x.setChanRun k { r with offs := (g, y) :: r.offs, offPark := if r.offPark = some g then none else r.offPark }

/-- Read offset `g` of a grouped walk (R208): a fault is one of the first item that needs it, at index `i` and vector `v`. -/
def readOffset (s : State) (c k i : Nat) (v : Vec) (g : Nat) (due : Bool) : State :=
  let ch := (s.core c).dup.chanOf k
  let a := offAddr ch g
  let w := match ch.grp with | some p => ptrWidth p | none => 64
  let ctx := ctxOf s c
  let b := readAcc s c k v a w 0
  if blocked s c b then s
  else if !alignedW a w then
    (if due then faultAt s c k i v eAlignment a true else s.onCore c (fun x => dropItemAt x k i v a))
  else match translate (settle s c b) ctx a gStream 0 (!due) with
    | (s', .err code) => if due then faultAt s' c k i v code a true else dropRead s' c k i v a
    | (s', .park l) =>
      if due then (match takeRefusal s' b.team ctx a with
        | some s' => faultAt s' c k i v eUnmapped a true
        | none => match addPark s' ctx a gStream 0 l (.soff c k g) with
          | some s' => s'.onCore c (fun x => x.setChanRun k { x.chanRun k with offPark := some g })
          | none => s)
      else dropRead s' c k i v a
    | (s', .ok q) =>
      if s'.hbmBad.contains (q / 256) then (chanEcc s' c k (a / 256 * 256)).onCore c (fun x => keepOffset x k g 0)
      else s'.onCore c (fun x => keepOffset x k g (hbmBits s'.hbm q w))

/-- Pass items that sskip has still to pass in a grouped walk, as far as one segment goes (R208, R212). -/
def skipOn (x : Core) (k : Nat) : Core :=
  let ch := x.dup.chanOf k
  let r := x.chanRun k
  let v := posVec x k
  match segOf r v.i2 with
  | none => x
  | some (a, b) =>
    let n0 := dCount ch.desc 0
    let here := v.i0 + n0 * v.i1
    let left := n0 * (b - a) - here
    let n := min ch.skip left
    let p := here + n
    let v' := if p < n0 * (b - a) then { v with i0 := p % n0, i1 := p / n0 } else atVec ch r (nextSeg ch v)
    { x with dup := x.dup.setChan k { ch with pos := v', skip := ch.skip - n, st := if vecEnd ch v' then .done else ch.st } }

/-- Begin, or begin again, the item at vector `v`, index `i` of the buffer: its offset or index first (R204, R207, R208). -/
def beginItem (s : State) (c k i : Nat) (v : Vec) (due : Bool) : State :=
  let x := s.core c
  let ch := x.dup.chanOf k
  let r := x.chanRun k
  if stopsAt r v && !dOut ch.desc then s.onCore c (fun x => putItem x k i (faultAgain r v))
  else if vecEnd ch v then
    -- a grouped walk whose last segments hold no items ends here
    s.onCore c (fun x =>
      let x := x.setChanRun k { r with items := r.items.take i }
      if i = 0 && ch.skip = 0 then { x with dup := x.dup.setChan k { ch with pos := v, st := .done } } else x)
  else match itemAt x k i v with
    | .off g => readOffset s c k i v g due
    | .idx => s.onCore c (fun x => x.setChanRun k { r with lod := true })
    | .flt code a v =>
      if dOut ch.desc then s
      else if due then faultAt s c k i v code a (!idxFaulted x k i)
      else s.onCore c (fun x => dropItemAt x k i v a)
    | .item a =>
      if ch.skip ≠ 0 then s.onCore c (fun x => skipOn x k)
      else if dOut ch.desc then s else readItem s c k i v a due

/-- What a channel can do next: begin the next item of its walk, read a dropped item again, or read a part of an item. -/
inductive StreamAct
  | next
  | again (i : Nat)
  | part (i p : Nat)
  deriving DecidableEq, Repr

def isFaultItem (i : Item) : Bool := match i.st with | .fault _ _ => true | _ => false

def isParkedItem (i : Item) : Bool := match i.st with | .reading _ p => !p.isEmpty | _ => false

/-- The parts of item `i` that can be read. -/
def openParts (s : State) (c k i : Nat) (it : Item) : List StreamAct :=
  let d := ((s.core c).dup.chanOf k).desc
  match it.st with
  | .reading got parked =>
    let a := if dMem d = 2 then (match spadTarget s c it.addr (dWidth d) with | .ok (_, o) => o | .error _ => it.addr) else it.addr
    ((itemUnits (dMem d) a (dWidth d)).filter (fun p => !got.any (fun e => e.1 == p) && !parked.contains p)).map (.part i)
  | _ => []

/-- The choices of a running channel. Items begin in walk order within the run-ahead limit, and nothing after a parked read goes on
(R118, R204), nor anything after an item that has faulted (R210); the parts of items on their way are read in any order (R246). -/
def streamActs (s : State) (c k : Nat) : List StreamAct :=
  let x := s.core c
  let ch := x.dup.chanOf k
  let r := x.chanRun k
  let n := min r.items.length ((r.items.takeWhile (fun i => !isParkedItem i)).length + 1)
  let parts := ((r.items.take n).zipIdx).flatMap (fun e => openParts s c k e.2 e.1)
  let again := match (r.items.take (min n (dueCount x k))).findIdx? (fun i => i.st == .dropped) with | some i => [.again i] | none => []
  let known := match r.items.getLast? with
    | some i => ch.grp.isNone || (segOf r i.vec.i2).isSome
    | none => true
  let next := if r.offPark.isNone && !r.items.any isParkedItem && decide (r.items.length < dLimit ch.desc)
      && !r.items.any isFaultItem && (!dOut ch.desc || !r.flt) && known
    then [StreamAct.next] else []
  next ++ again ++ parts

/-- One act of a running channel (R204). -/
def streamRead (s : State) (c k : Nat) : State :=
  let x := s.core c
  let ch := x.dup.chanOf k
  let r := x.chanRun k
  if ch.st != .running || dMem ch.desc = 3 || x.team.isNone then s
  else
    let due := fun (i : Nat) => decide (i < dueCount x k)
    match choose s (streamActs s c k) with
    | (s, none) => s
    | (s, some .next) =>
      let i := r.items.length
      beginItem s c k i (match r.items.getLast? with | some it => nextVec ch r it.vec | none => posVec x k) (due i)
    | (s, some (.again i)) => (match r.items[i]? with
      | some it => beginItem s c k i (atVec ch r it.vec) true
      | none => s)
    | (s, some (.part i p)) => match r.items[i]? with
      | some it => (match it.st with
        | .reading got parked => readUnit s c k i it got parked p (due i)
        | _ => s)
      | none => s

/-- A parked part of a stream's item walks again, or is refused: a fault of the item (R120, R210). -/
def resumeRead (s : State) (c k : Nat) (v : Vec) (p : Nat) (refused : Bool) : State :=
  match (((s.core c).chanRun k).items.zipIdx).find? (fun e => e.1.vec == v && isParkedItem e.1) with
  | some (it, i) => (match it.st with
    | .reading got parked =>
      let it := { it with st := .reading got (parked.filter (· != p)) }
      if refused then faultAt s c k i v eUnmapped it.addr true
      else readUnit (s.onCore c (fun x => putItem x k i it)) c k i it got (parked.filter (· != p)) p true
    | _ => s)
  | none => s

/-- The same for a parked offset. -/
def resumeOffset (s : State) (c k g : Nat) (refused : Bool) : State :=
  let x := s.core c
  let r := x.chanRun k
  if r.offPark ≠ some g then s
  else
    let s := s.onCore c (fun x => x.setChanRun k { x.chanRun k with offPark := none })
    let i := (r.items.findIdx? (fun i => i.st == .dropped)).getD r.items.length
    let v := match r.items[i]? with
      | some it => it.vec
      | none => match r.items.getLast? with | some it => nextVec (x.dup.chanOf k) r it.vec | none => posVec x k
    if refused then faultAt s c k i v eUnmapped (offAddr (x.dup.chanOf k) g) true else readOffset s c k i v g true

/-- An item that was read comes back (R204); one with an uncorrectable sector or word is zeros, counted and logged
(R211). -/
def itemArrive (s : State) (c k i : Nat) : State :=
  let r := (s.core c).chanRun k
  match r.items[i]? with
  | some it => (match it.st with
    | .read v e =>
      let s := match e with
        | some b => chanEcc s c k (if dMem ((s.core c).dup.chanOf k).desc = 2 then b else b / 256 * 256)
        | none => s
      s.onCore c (fun x => putItem x k i { it with st := .here (if e.isSome then 0 else v) })
    | _ => s)
  | none => s

/-! ### Writes of output channels (R206, R247) -/

/-- Part `i` of a pushed item performs in memory (R39, R206, R238). -/
def outUnit (s : State) (c : Nat) (a : Acc) (body : Col) (k : Nat) (vec : Vec) (i : Nat) : State :=
  match (sectors a.addr a.len)[i]? with
  | none => s
  | some sec =>
    let (lo, n) := sectorPart a.addr a.len sec
    let done := fun (s : State) => s.onCore c (fun x =>
      let b := { a with got := Tab.put i none a.got, parked := a.parked.filter (· != i) }
      if b.got.length < (sectors a.addr a.len).length then putAcc x b else dropAcc x a.id)
    match translate s a.ctx lo gStream (storeKind lo n) false with
    | (s', .err code) => outFail s' c a k vec code
    | (s', .park l) => match addPark s' a.ctx lo gStream (storeKind lo n) l (.acc c a.id i) with
      | some s' => s'.onCore c (fun x => putAcc x { a with parked := a.parked ++ [i] })
      | none => s
    | (s', .ok p) => match storePart s' p n (body.toNat >>> (lo - a.addr) % 2 ^ n) with
      | (s', true) => done s'
      | (s', false) => done (outEcc s' c a k lo)

/-- Parts of a pushed item that have neither performed nor parked. -/
def outOpen (a : Acc) : List Nat :=
  (span 0 (sectors a.addr a.len).length).filter (fun i => !a.got.any (fun e => e.1 == i) && !a.parked.contains i)

/-- One pushed item goes on (R206, R210, R247): at a peer, through a window, or one part of it in memory. -/
def performOut (s : State) (c : Nat) (a : Acc) (body : Col) (k : Nat) (vec : Vec) : State :=
  if isRemote a && a.err.isNone then sendRemote s c a
  else if blocked s c a then s
  else
    let s := settle s c a
    match a.err with
    | some (code, _) => outFail s c a k vec code
    | none =>
      if a.peer ≠ 0 then performPeerSt s c a (a.peer - 1) body.toNat
      else match choose s (outOpen a) with
        | (s, some i) => outUnit s c a body k vec i
        | (s, none) => s

/-- The oldest item pushed to channel `k` of core `c`. -/
def oldestOut (x : Core) (k : Nat) : Option Acc :=
  x.accs.find? (fun a => match a.op with | .sout _ j _ => j == k | _ => false)

/-- The oldest item of a channel goes on unless its request is on its way. -/
def streamWrite (s : State) (c k : Nat) : State :=
  match oldestOut (s.core c) k with
  | some a => (match a.op with
    | .sout body j vec => if a.sent then s else performOut s c a body j vec
    | _ => s)
  | none => s

/-! ### The steps -/

/-- STREAM_READ_ISSUE (R204). -/
def execStreamReadIssue (core ch : Nat) (s : State) : Out := .next (streamRead s core ch)
/-- STREAM_ITEM_ARRIVAL (R204, R211). -/
def execStreamItemArrival (core ch k : Nat) (s : State) : Out := .next (itemArrive s core ch k)
/-- STREAM_OUTPUT_WRITE (R206). -/
def execStreamOutputWrite (core ch : Nat) (s : State) : Out := .next (streamWrite s core ch)

end Sys2Proof.Machine
end

