-- ==== Sys2Proof/Machine/Resume.lean ====
section
/-!
DEFINITION. Fault records and the end of a park (R118 to R120): the record that names it, and what a retried or a refused
request does.
-/
namespace Sys2Proof.Machine

/-! ### Overflow loads (R189) -/

/-- The read of an overflow slot: a demand load, with the strand's own stores over it; the access keeps what it returned
until its bundle issues. -/
def performOvl (s : State) (c : Nat) (a : Acc) : State :=
  let give := fun (s : State) (v : Option Nat) (err : Option (Nat × Nat)) =>
    s.onCore c (fun x => if a.dead then dropAcc x a.id
      else putAcc x { a with got := [(0, v)], err := err, parked := [] })
  match translate s a.ctx a.addr gStrand 0 false with
  | (s', .err code) => give (logAcc s' c a code a.addr) none (some (code, a.addr))
  | (s', .park l) => match takeRefusal s' a.team a.ctx a.addr with
    | some s' => give (logAcc s' c a eUnmapped a.addr) none (some (eUnmapped, a.addr))
    | none => match addPark s' a.ctx a.addr gStrand 0 l (.acc c a.id 0) with
      | some s' => s'.onCore c (fun x => putAcc x { a with parked := [0] })
      | none => s
  | (s', .ok p) =>
    if s'.hbmBad.contains (p / 256) then
      give (logAcc s' c a eEcc (a.addr / 256 * 256)) none (some (eEcc, a.addr))
    else
      let v := (ownSubs (s'.core c) a.team a.pid).foldl (overlaySub a.addr 64) (hbmBits s'.hbm p 64)
      give s' (some v) none

/-! ### Fault records (R119) -/

/-- The slot that wp names. -/
def recordSlot (m : Mtu) : Nat := m.wp % 16384

/-- The queue is full, or the slot still holds an unresolved record (R119). -/
def faultFull (m : Mtu) : Bool :=
  (m.wp + 32768 - m.rp % 32768) % 32768 == 16384 || m.opened.any (fun r => r.slot == recordSlot m)

/-- Parks of one granule that no record names yet. -/
def joins (m : Nat) (p q : Park) : Bool :=
  q.mtu == m && q.slot.isNone && q.ctx == p.ctx && q.addr / 2 ^ 19 == p.addr / 2 ^ 19

/-- The 256 bits of a fault record (R119). -/
def faultWord (p : Park) (slot n : Nat) : Nat :=
  packList 64 [p.time.toNat, p.lvl % 4 * 2 ^ 56 + p.addr % 2 ^ 56,
    p.ctx % 2 ^ 16 * 2 ^ 48 + p.g % 8 * 2 ^ 45 + p.kind % 4 * 2 ^ 43, slot * 2 ^ 36 + min n (2 ^ 36 - 1)]

/-- The first park without a record gets one, with every other park of its granule (R119). DESIGN CHOICE (log entry 75): the count of
attached requests stays in memory as it was written; R119 does not say whether it follows requests that attach later. -/
def writeFault (s : State) (m : Nat) : State :=
  let x := s.mtu m
  match s.xl.parks.find? (fun p => p.mtu == m && p.slot.isNone) with
  | none => s
  | some p =>
    if faultFull x then s
    else
      let k := recordSlot x
      let n := (s.xl.parks.filter (joins m p)).length
      let s := (storePart s (x.fqbase + 256 * k) 256 (faultWord p k n)).1
      let s := { s with xl := { s.xl with
        parks := s.xl.parks.map (fun q => if joins m p q then { q with slot := some k } else q) } }
      s.setMtu m { x with wp := (x.wp + 1) % 32768, opened := x.opened ++ [⟨k, p.ctx, p.addr, p.g, p.time⟩] }

/-- FAULT_RECORD_WRITE (R119). -/
def execFaultRecordWrite (m : Nat) (s : State) : Out := .next (writeFault s m)

/-! ### The end of a park (R120) -/

/-- An access of a core walks again and performs, or parks again. -/
def retryAcc (s : State) (c id k : Nat) : State :=
  match findAcc (s.core c) id with
  | none => s
  | some a =>
    let a := { a with parked := a.parked.filter (· != k) }
    let s := s.onCore c (fun x => putAcc x a)
    match a.op with
    | .ld sx => performLd s c a k sx
    | .ovl _ _ => performOvl s c a
    | .atomic idx fmt => performAtomic s c a idx fmt
    | .send e => performSend s c a e
    | .sout body j v => outUnit s c a body j v k
    | _ => s

/-- An access of a core is refused with its own address (R120, R220, R224). -/
def refuseAcc (s : State) (c id k addr : Nat) : State :=
  match findAcc (s.core c) id with
  | none => s
  | some a => match a.op with
    | .ld sx => partDone (logAcc s c a eUnmapped addr) c a k none (some (eUnmapped, addr)) sx
    | .ovl _ _ => (logAcc s c a eUnmapped addr).onCore c (fun x =>
        if a.dead then dropAcc x id else putAcc x { a with got := [(0, none)], err := some (eUnmapped, addr), parked := [] })
    | .atomic _ _ => deliver (logAcc s c a eUnmapped addr) c { a with err := some (eUnmapped, addr) } 0
    | .send _ => logAccQ (s.onCore c (fun x => dropAcc x id)) c a eUnmapped addr
    | .sout _ j v => outFail s c a j v eUnmapped
    | _ => s

/-- The die whose engine runs job `id`. -/
def jobDie (s : State) (id : Nat) : Option Nat := (span 0 4).find? (fun d => (jobsOf s d).any (fun j => j.id == id))

/-- A job of an expert engine goes on. -/
def retryJob (s : State) (id : Nat) : State :=
  match jobDie s id with
  | some d => kickDie (tryJob s d id).1 d
  | none => s

/-- A cancelled request of a team that has left is refused: the team's own access meets the answer when it is made again (R121). -/
def noteRefusal (s : State) (t : Nat) (p : Park) : State :=
  if s.fe.teams.any (fun e => e.1 == t) then { s with xl := { s.xl with refused := s.xl.refused ++ [(t, p.ctx, p.addr / 2 ^ 19)] } } else s

/-- A cancelled request is retried: it walks, and parks again where the entry is still invalid (R120). DESIGN CHOICE (log entry 76): R121 does
not say whether a cancelled request walks at all; here the new record keeps its team saved. -/
def walkAgain (s : State) (p : Park) : State :=
  match translate s p.ctx p.addr p.g p.kind false with
  | (s, .park l) => (addPark s p.ctx p.addr p.g p.kind l p.who).getD s
  | (s, _) => s

/-- A retried request walks again and performs, or parks again (R120). -/
def retryPark (s : State) (p : Park) : State :=
  match p.who with
  | .acc c id k => retryAcc s c id k
  | .sread c k v i => resumeRead s c k v i false
  | .soff c k g => resumeOffset s c k g false
  | .remote rid k => remoteResume s rid k none
  | .engine id => retryJob s id
  | .fill t => fillStep s t
  | .copy c h => copyStep s c h
  | .xfer tag => xferStep s tag
  | .fetch e => fetchStep s e
  | .group g => resumeGroup s g
  | .xperm k => xpermStep s k
  | .interp k => packetRun s k
  | .elog => writeLog s s.fe.elogLate
  | .qerr q => writeErrs s q (s.queue q).errs
  | .cancelled _ => walkAgain s p

/-- A refused request (R120): an engine's work goes on with the answer of that part. -/
def refusePark (s : State) (p : Park) : State :=
  match p.who with
  | .acc c id k => refuseAcc s c id k p.addr
  | .sread c k v i => resumeRead s c k v i true
  | .soff c k g => resumeOffset s c k g true
  | .remote rid k => remoteResume s rid k (some p.addr)
  | .cancelled t => noteRefusal s t p
  | .fetch e => failFetch s e
  | .engine _ | .group _ | .xperm _ | .fill _ | .copy _ _ | .xfer _ | .interp _ | .elog | .qerr _ =>
    retryPark (refusePart s p.who (p.kind != 0) p.addr) p

/-- A park that record `k` of MTU `m` holds. -/
def heldBy (m k : Nat) (p : Park) : Bool := p.mtu == m && p.slot == some k

/-- The record is resolved; its requests are retried, or refused, in the order in which they parked (R120). -/
def resolveRecord (s : State) (m k : Nat) (retry : Bool) : State :=
  let ps := s.xl.parks.filter (heldBy m k)
  let s := { s with xl := { s.xl with parks := s.xl.parks.filter (fun p => !heldBy m k p) } }
  let x := s.mtu m
  let s := s.setMtu m { x with opened := x.opened.filter (fun r => r.slot != k) }
  ps.foldl (if retry then retryPark else refusePark) s

/-- The record is unresolved. -/
def isOpened (s : State) (m k : Nat) : Bool := (s.mtu m).opened.any (fun r => r.slot == k)

end Sys2Proof.Machine
end

