-- ==== Sys2Proof/Machine/Check.lean ====
section
/-!
DEFINITION. The checker of Lerant programs (R69) and the operations of FE_PCTL (R73).
-/
namespace Sys2Proof.Machine

/-- The bytecodes 0 to `n` − 1 of handle `h` (R66). -/
def storedCode (s : State) (h n : Nat) : List Nat :=
  (span 0 n).map (fun i => if h = 0 then 0 else fld (Tab.get 0 s.fe.store (storeIndex h (i / 2))) (32 * (i % 2) + 31) (32 * (i % 2)))

def opOf (w : Nat) : Nat := bits w 31 26
def isRep (w : Nat) : Bool := opOf w == 0x0F
def isBranch (w : Nat) : Bool := decide (0x0B ≤ opOf w) && decide (opOf w ≤ 0x0E)

/-- Whether an op uses its fields a and b, and the bits of imm that it uses (R67). The whole immediate of `ldpk` names its
word, so that a word above 15 is reason 3 (R69; log entry 12). -/
def opUses (op : Nat) : Bool × Bool × Nat :=
  match op with
  | 0x00 => (false, false, 0)
  | 0x01 | 0x02 | 0x03 | 0x0A => (true, false, 0xFFFFF)
  | 0x04 | 0x05 | 0x06 | 0x07 | 0x08 => (true, true, 0)
  | 0x09 => (true, true, 0xFFF)
  | 0x0B | 0x0C => (true, false, 0xFF)
  | 0x0D | 0x0E => (true, true, 0xFF)
  | 0x0F => (true, false, 0x3F1F)
  | 0x10 | 0x11 | 0x13 => (true, false, 0x1F)
  | 0x12 => (true, false, 0x3F)
  | 0x14 => (false, false, 7)
  | 0x15 | 0x16 => (false, false, 0xFFFF)
  | _ => (true, false, 0)

/-- Reason 2: a nonzero unused field, or hi < lo in `ext`. -/
def fieldsBad (w : Nat) : Bool :=
  let u := opUses (opOf w)
  let imm := bits w 19 0
  (!u.1 && bits w 25 23 != 0) || (!u.2.1 && bits w 22 20 != 0) || imm - (imm &&& u.2.2) != 0
    || (opOf w == 0x09 && decide (bits imm 11 6 < bits imm 5 0))

/-- Reason 3: a packet word above 15, a draft field above 24, an emit kind above 5. -/
def namesBad (w : Nat) : Bool :=
  let imm := bits w 19 0
  (opOf w == 0x01 && decide (15 < imm)) || (opOf w == 0x13 && decide (24 < imm)) || (opOf w == 0x14 && decide (5 < imm))

/-- The last index of the body of the `rep` that stands at `i`. -/
def repEnd (w i : Nat) : Nat := i + bits w 4 0 + 1

/-- The `rep`s whose bodies hold index `j`, outermost first. -/
def encloses (code : List Nat) (j : Nat) : List Nat :=
  (span 0 j).filter (fun i => isRep ((code[i]?).getD 0) && decide (j ≤ repEnd ((code[i]?).getD 0) i))

/-- Reason 4: a branch by 0, beyond the last bytecode, or into or out of a body. -/
def branchBad (code : List Nat) (i w : Nat) : Bool :=
  let t := i + bits w 7 0
  isBranch w && (t == i || decide (code.length ≤ t) || (encloses code t).getLast? != (encloses code i).getLast?)

/-- Reason 5: a body that runs past the end, of the program or of the enclosing body; a third level; a `rep` at the last
position of the enclosing body (log entry 12). -/
def repBad (code : List Nat) (i w : Nat) : Bool :=
  isRep w && (let up := encloses code i
    let stop := match up.getLast? with
      | some p => min (repEnd ((code[p]?).getD 0) p) (code.length - 1)
      | none => code.length - 1
    decide (stop < repEnd w i) || decide (2 ≤ up.length) || (!up.isEmpty && i == stop))

/-- The lowest reason for which the bytecode at `i` fails; 0 when it does not. -/
def reasonAt (code : List Nat) (i w : Nat) : Nat :=
  if 0x17 < opOf w then 1
  else if fieldsBad w then 2
  else if namesBad w then 3
  else if branchBad code i w then 4
  else if repBad code i w then 5
  else if i + 1 = code.length && opOf w != 0x00 && opOf w != 0x15 && opOf w != 0x16 then 8
  else 0

/-- The first bytecode that fails, with its reason. -/
def firstReason (code : List Nat) (i : Nat) : List Nat → Option (Nat × Nat)
  | [] => none
  | w :: r => if reasonAt code i w = 0 then firstReason code (i + 1) r else some (reasonAt code i w, i)

/-- How often the bytecode at `i` runs in the worst case: the product of the passes of the bodies around it. -/
def passes (code : List Nat) (i : Nat) : Nat :=
  (encloses code i).foldl (fun n j => n * (bits ((code[j]?).getD 0) 13 8 + 1)) 1

/-- The worst case of R69: the steps, and the emits. -/
def worstSteps (code : List Nat) : Nat := ((span 0 code.length).map (passes code)).sum
def worstEmits (code : List Nat) : Nat :=
  ((span 0 code.length).map (fun i => if opOf ((code[i]?).getD 0) = 0x14 then passes code i else 0)).sum

/-- The highest `ldpa` index. -/
def highestLdpa (code : List Nat) : Option Nat :=
  code.foldl (fun m w => if opOf w = 0x12 then some (max (m.getD 0) (bits w 5 0)) else m) none

/-- The checker: reason (0 accepted), index and worst-case steps (R69). -/
def checkCode (code : List Nat) : Nat × Nat × Nat :=
  match firstReason code 0 code with
  | some (r, i) => (r, i, 0)
  | none =>
    if 512 < worstSteps code then (6, 0, 0)
    else if 4 < worstEmits code then (7, 0, 0)
    else (0, 0, worstSteps code)

/-- FE_PSTAT without its busy bit (R73). -/
def pstatWord (result h idx steps : Nat) : Word := wordN (result <<< 48 + h <<< 40 + idx <<< 32 + steps)

/-- A check of `len` + 1 bytecodes of handle `h` begins. -/
def startCheck (s : State) (h len : Nat) : State := { s with fe := { s.fe with check := some (h, len), pctl := 256 * h + len } }

/-- Whether any queue names the handle (R73). -/
def isNamed (s : State) (h : Nat) : Bool := s.fe.q.any (fun e => e.2.prog == h)

/-- A release fails with result 9 while a queue names the handle (R73). -/
def releaseHandle (s : State) (h len : Nat) : State :=
  let r := if isNamed s h then 9 else 0
  { s with fe := { s.fe with
      checked := if r = 0 then Tab.drop h s.fe.checked else s.fe.checked
      pstat := pstatWord r h 0 0, pctl := 256 * h + len } }

/-- The check ends: an accepted handle is checked (R69, R73). It may raise p_max above the plen of a queue that names the handle (DESIGN
CHOICE, log entry 73). -/
def endCheck (s : State) : State :=
  match s.fe.check with
  | none => s
  | some (h, len) =>
    let code := storedCode s h (len + 1)
    let (r, i, n) := checkCode code
    { s with fe := { s.fe with
        check := none, pstat := pstatWord r h i n
        checked := if r = 0 then Tab.set Checked.init h ⟨len + 1, highestLdpa code, n⟩ s.fe.checked else s.fe.checked } }

/-- PROGRAM_CHECK_COMPLETE (R69). -/
def execProgramCheckComplete (s : State) : Out := .next (endCheck s)

/-- Whether a queue with `plen` parameter words may name handle `h` (R69). DEDUCED (log entry 12): an unchecked handle may not be
named. -/
def mayName (s : State) (h plen : Nat) : Bool :=
  h == 0 || match s.fe.checked.find? (fun e => e.1 == h) with
    | some (_, c) => (match c.pmax with | some m => decide (m < plen) | none => true)
    | none => false

end Sys2Proof.Machine
end

