-- ==== Sys2Proof/Machine/DevRegs.lean ====
section
/-!
DEFINITION. The device registers of region 14 (R8, R9, R43, R58 to R60, R66, R73, R106, R127, R128, R297, R316, R347,
R363 to R367, R384, R387): where each lies, who may write it, what it reads, and what a write does.
-/
namespace Sys2Proof.Machine

/-! ### Who writes (R75, R106, R127, R128, R347, R367, R387) -/

/-- Root firmware only. -/
def asRoot (ag : Agent) : Bool := match ag with | .root => true | _ => false
/-- Root or management firmware (R128). -/
def asFirmware (ag : Agent) : Bool := match ag with | .root => true | .mgmt _ => true | _ => false
/-- The system context: its strands, the host (R382), and root firmware. -/
def asSystem (ag : Agent) : Bool :=
  match ag with | .root => true | .host _ => true | .strand c _ => c == 0 | .mgmt _ => false

/-- What a register write does: a next state, or the code of the response that drops it. -/
inductive WRes
  | ok (s : State)
  | bad (code : Nat)

/-- A write that right `r` guards. -/
def needs (r : Bool) (w : WRes) : WRes := if r then w else .bad ePerm
/-- A write whose value is legal (R9). -/
def legal (c : Bool) (w : WRes) : WRes := if c then w else .bad eResvwrite

/-! ### Addresses -/

def devBase : Nat := 0xE0000000000000
def widxAddr (q : Nat) : Nat := devBase + 64 * q
def qdAddr (q k : Nat) : Nat := devBase + 0x100000 + 512 * q + 64 * k
def feAddr (k : Nat) : Nat := devBase + 0x900000 + 64 * k
def storeAddr (h j : Nat) : Nat := devBase + 0xA00000 + 8192 * h + 64 * j
def xlAddr (k : Nat) : Nat := devBase + 0xE00000 + 64 * k
def mtuAddr (m k : Nat) : Nat := devBase + 0xD00000 + 0x10000 * m + 64 * k
def xrAddr (k : Nat) : Nat := devBase + 0x1200000 + 64 * k
def barAddr (i k : Nat) : Nat := devBase + 0x1800000 + 128 * i + 64 * k

/-- A device register. -/
inductive Dev
  | widx (q : Nat)
  | qd (q k : Nat)
  | fe (k : Nat)
  | store (h j : Nat)
  | dsp (d k : Nat)
  | mtu (m k : Nat)
  | xl (k : Nat)
  | fab (k : Nat)
  | dom (m : Nat)
  | glob (g k : Nat)
  | xr (k : Nat)
  | notify (n : Nat)
  | bar (i k : Nat)
  | nbCtx (b : Nat)
  | barCtx (i : Nat)
  | ntCtl
  | hl (k : Nat)
  | pwr (k : Nat)
  deriving DecidableEq, Repr

/-- The register at word `n` of the region, where one is defined (R43, R58). -/
def devAt (n : Nat) : Option Dev :=
  let inR := fun (lo len : Nat) => decide (lo ≤ n) && decide (n < lo + len)
  if n < 0x4000 then some (.widx n)
  else if inR 0x4000 0x20000 then some (.qd ((n - 0x4000) / 8) (n % 8))
  else if inR 0x24000 6 then some (.fe (n - 0x24000))
  else if inR 0x28000 0x8000 then some (.store ((n - 0x28000) / 128) (n % 128))
  else if inR 0x30000 0x1000 && decide (n % 0x400 < 4) then some (.dsp ((n - 0x30000) / 0x400) (n % 0x400))
  else if inR 0x34000 0x2000 && decide (n % 0x400 < 4) then some (.mtu ((n - 0x34000) / 0x400) (n % 0x400))
  else if inR 0x38000 9 then some (.xl (n - 0x38000))
  else if inR 0x3C000 5 then some (.fab (n - 0x3C000))
  else if inR 0x40000 1058 then some (.dom (n - 0x40000))
  else if inR 0x44000 3072 then some (.glob ((n - 0x44000) / 4) (n % 4))
  else if inR 0x48000 6 || inR 0x48008 16 then some (.xr (n - 0x48000))
  else if inR 0x4C000 0x10000 then some (.notify (n - 0x4C000))
  else if inR 0x60000 0x2000 then some (.bar ((n - 0x60000) / 2) (n % 2))
  else if inR 0x64000 256 then some (.nbCtx (n - 0x64000))
  else if inR 0x64400 4096 then some (.barCtx (n - 0x64400))
  else if n = 0x65800 then some .ntCtl
  else if inR 0x68000 11 then some (.hl (n - 0x68000))
  else if inR 0x6C000 3 then some (.pwr (n - 0x6C000))
  else none

/-! ### Reads -/

/-- Words QD0 to QD7 (R60). -/
def readQd (s : State) (q k : Nat) : Word :=
  let x := s.queue q
  match k with
  | 0 => wordN (x.st <<< 62 + x.lsize <<< 57 + x.ring)
  | 1 => wordN (x.ctx <<< 48 + x.prog <<< 32 + x.ridx)
  | 2 => wordN x.param
  | 3 => wordN (x.plen <<< 56 + x.err)
  | 4 => wordN (x.errseq <<< 32 + x.pemit <<< 4 + x.ival)
  | _ => 0

/-- Front-end registers (R73). -/
def readFe (s : State) (k : Nat) : Word :=
  match k with
  | 0 => s.fe.time
  | 1 => wordN s.fe.elogBase
  | 2 => wordN (elogStat s)
  | 4 => wordN s.fe.pctl
  | 5 => s.fe.pstat ||| wordN (if s.fe.check.isSome then 2 ^ 63 else 0)
  | _ => 0

/-- A cluster that some reservation names (R99, R101). -/
def hasResv (s : State) (cl : Nat) : Bool :=
  (match (s.die (cl / 16)).resv with | some (_, c) => c == cl | none => false) || s.fe.gres.any (fun e => e.2 == cl)

/-- Dispatcher registers (R106). -/
def readDsp (s : State) (d k : Nat) : Word :=
  let x := s.die d
  match k with
  | 0 => x.age
  | 1 => wordN x.cldis
  | 2 => wordN (scoreUsed s d <<< 32 + ((span 0 16).map (fun j => if hasResv s (16 * d + j) then 2 ^ j else 0)).sum <<< 16 + x.level)
  | _ => wordN ((span 0 64).map (fun c => if (s.core (64 * d + c)).team.isNone then 2 ^ c else 0)).sum

/-- MTU registers (R128). -/
def readMtu (s : State) (m k : Nat) : Word :=
  let x := s.mtu m
  match k with
  | 0 => wordN x.fqbase
  | 1 => wordN (x.wp <<< 16 + x.rp)
  | 3 => wordN (parkedAt s m <<< 32 + x.opened.length)
  | _ => 0

/-- Translation registers (R127). -/
def readXl (s : State) (k : Nat) : Word :=
  match k with
  | 0 => wordN s.xl.ctxbase
  | 1 => wordN s.xl.ctxlen
  | 3 => wordN s.xl.invctx
  | 4 => wordN s.xl.invaddr
  | 5 => wordN (if s.xl.inv.isSome then 2 ^ 63 else 0)
  | 6 => s.xl.drop
  | 7 => wordN s.xl.framebase
  | 8 => wordN s.xl.framelen
  | _ => 0

/-- Fabric registers (R316). -/
def readFab (s : State) (k : Nat) : Word :=
  match k with
  | 0 => s.fab.id
  | 1 => s.fab.ctl
  | 2 => s.fab.portmap
  | 3 => wordN s.fab.up
  | _ => s.fab.drop

/-- Expert registers (R347). -/
def readXr (s : State) (k : Nat) : Word :=
  match k with
  | 0 => wordN s.xp.cat
  | 1 => wordN s.xp.catn
  | 2 => wordN s.xp.slot
  | 3 => wordN s.xp.slotn
  | 4 => wordN s.xp.tmo
  | 5 => xrStat s
  | _ => Tab.get (nvqDefault (k - 8)) s.xp.nvq (k - 8)

/-- Status of a host port in HL_STAT (R384). -/
def portStat (p : HPort) : Nat := (b2n p.up) <<< 15 + (b2n p.cxl) <<< 14 + p.width <<< 8 + p.gen

def portOf' (s : State) (p : Nat) : HPort := Tab.get HPort.init s.hl.port p

/-- Host-link registers (R384). -/
def readHl (s : State) (k : Nat) : Word :=
  match k with
  | 0 => wordN s.hl.ctx
  | 1 => wordN (b2n s.hl.ready)
  | 10 => wordN (portStat (portOf' s 0) + (portStat (portOf' s 1)) <<< 16)
  | _ => wordN (Tab.get 0 s.hl.p2p (k - 2))

/-- The average power P over the samples of the last millisecond, in watts, rounded down (R386; log entry 13). -/
def avgPower (s : State) : Nat := s.pow.samples.sum / max 1 s.pow.samples.length

/-- Power registers (R387). -/
def readPwr (s : State) (k : Nat) : Word :=
  match k with
  | 0 => wordN s.pow.cap
  | 1 => wordN ((avgPower s % 4096) <<< 52 + ((span 0 4).foldl (fun m d => max m (s.die d).temp) 0 % 256) <<< 44
      + ((span 0 4).map (fun d => ((s.die d).level % 64) <<< (6 * d))).sum)
  | _ => s.pow.therm

/-- What a register reads; reserved fields and write-only fields read zero (R8, R9). -/
def readDev (s : State) (r : Dev) : Word :=
  match r with
  | .widx q => wordN (widxOf s q)
  | .qd q k => readQd s q k
  | .fe k => readFe s k
  | .store h j => if h = 0 then 0 else Tab.get 0 s.fe.store (storeIndex h j)
  | .dsp d k => readDsp s d k
  | .mtu m k => readMtu s m k
  | .xl k => readXl s k
  | .fab k => readFab s k
  | .dom m => Tab.get 0 s.fab.dom m
  | .glob g k => Tab.get 0 s.fab.glob (4 * g + k)
  | .xr k => readXr s k
  | .notify n => notifyWord (notifyOf s n) 0
  | .bar i k => if k = 0 then barrierWord (barrierOf s i) else 0
  | .nbCtx b => nbWord s b
  | .barCtx i => Tab.get 0 s.sync.barCtx i
  | .ntCtl => wordN ((b2n s.sync.gated) <<< 63 + s.sync.capq.length)
  | .hl k => readHl s k
  | .pwr k => readPwr s k

/-! ### Writes of queue descriptors (R60, R62, R69) -/

/-- The context of a queue is valid (R62, R110). -/
def ctxValid (s : State) (c : Nat) : State × Bool := ((descriptor s c).1, (descriptor s c).2.isSome)

/-- A state write that need not wait: the queue has no packet in progress. A queue that waits for an interpreter leaves the
wait (log entry 14). -/
def leaveNow (s : State) (q : Nat) (x : Queue) (st : Nat) : State :=
  let s := s.setQueue q (applyState x st)
  { s with fe := { s.fe with waitq := s.fe.waitq.filter (· != q) } }

/-- A write of 11 or 00: at once, or once the packet in progress finishes. A queue that is bound but between packets is
released at once (R62, R64). -/
def askState (s : State) (q : Nat) (x : Queue) (st : Nat) : State :=
  match holderOf s q with
  | none => leaveNow s q x st
  | some k =>
    let s := s.setQueue q { x with want := some st }
    if (s.interp k).busy then s else releaseInterp s k

/-- A write of 01: the queue is mapped, or resumes at its unchanged ridx. -/
def runQueue (s : State) (q : Nat) (x : Queue) : State :=
  s.setQueue q { x with st := 1, ival := 0, next := s.fe.time.toNat, want := none,
                        scratch := if x.st = 0 then [] else x.scratch }

/-- A write of QD0 (R60, R62): the context of a queue is judged when it is mapped, lsize at every write of 01, and a ring base
that is no multiple of 1,024 is a reserved value (R9; log entry 15). -/
def writeQd0 (s : State) (q : Nat) (v : Word) : WRes :=
  let x := s.queue q
  let y := { x with lsize := fld v 61 57, ring := fld v 55 0 }
  legal (y.ring % 1024 == 0) (match fld v 63 62 with
    | 0 => .ok (askState s q y 0)
    | 1 =>
      let (s, c) := if x.st = 0 then ctxValid s x.ctx else (s, true)
      legal (x.st != 1 && decide (4 ≤ y.lsize) && decide (y.lsize ≤ 16) && c) (.ok (runQueue s q y))
    | 3 => legal (x.st == 1) (.ok (askState s q y 3))
    | _ => .bad eResvwrite)

/-- A write of QD1 (R60, R69). -/
def writeQd1 (s : State) (ag : Agent) (q : Nat) (v : Word) : WRes :=
  let x := s.queue q
  needs (fld v 63 48 == x.ctx || asRoot ag)
    (legal (decide (fld v 47 32 < 256))
      (if mayName s (fld v 47 32) x.plen then .ok (s.setQueue q { x with ctx := fld v 63 48, prog := fld v 47 32 })
       else .bad eLerantload))

/-- A write of QD3 (R60, R69). -/
def writeQd3 (s : State) (q : Nat) (v : Word) : WRes :=
  let x := s.queue q
  legal (fld v 55 0 % 256 == 0)
    (if mayName s x.prog (fld v 61 56) then .ok (s.setQueue q { x with plen := fld v 61 56, err := fld v 55 0 })
     else .bad eLerantload)

/-- A write of any word of a queue descriptor; QD4 is read-only and QD5 to QD7 are reserved (R60). -/
def writeQd (s : State) (ag : Agent) (q k : Nat) (v : Word) : WRes :=
  match k with
  | 0 => writeQd0 s q v
  | 1 => writeQd1 s ag q v
  | 2 => legal (fld v 55 0 % 64 == 0) (.ok (s.setQueue q { s.queue q with param := fld v 55 0 }))
  | 3 => writeQd3 s q v
  | _ => .ok s

/-! ### Writes of the other registers -/

/-- FE_PCTL (R73). -/
def writePctl (s : State) (v : Word) : WRes :=
  match fld v 63 62 with
  | 1 => legal (fld v 15 8 != 0) (.ok (startCheck s (fld v 15 8) (fld v 7 0)))
  | 2 => legal (fld v 15 8 != 0) (.ok (releaseHandle s (fld v 15 8) (fld v 7 0)))
  | _ => .bad eResvwrite

/-- Front-end registers (R73). -/
def writeFe (s : State) (ag : Agent) (k : Nat) (v : Word) : WRes :=
  match k with
  | 0 => needs (asSystem ag) (.ok { s with fe := { s.fe with time := v } })
  | 1 => needs (asRoot ag) (legal (fld v 55 0 % 256 == 0) (.ok { s with fe := { s.fe with elogBase := fld v 55 0 } }))
  | 2 => .ok { s with fe := { s.fe with elogRp := fld v 15 0 } }
  | 3 => .ok (if flag v 0 then { s with fe := { s.fe with elogLost := 0 } } else s)
  | 4 => needs (asRoot ag) (writePctl s v)
  | _ => .ok s

/-- The program store (R66). -/
def writeStore (s : State) (h j : Nat) (v : Word) : WRes :=
  if h = 0 then .ok s
  else needs (!s.fe.checked.any (fun e => e.1 == h))
    (.ok { s with fe := { s.fe with store := Tab.set 0 (storeIndex h j) v s.fe.store } })

/-- Dispatcher registers (R106). -/
def writeDsp (s : State) (ag : Agent) (d k : Nat) (v : Word) : WRes :=
  needs (asSystem ag) (match k with
    | 0 => .ok (s.setDie d { s.die d with age := wordN (fld v 47 0) })
    | 1 => .ok (s.setDie d { s.die d with cldis := fld v 15 0 })
    | _ => .ok s)

/-- MTU_RESOLVE (R120, R128). -/
def writeResolve (s : State) (m : Nat) (v : Word) : WRes :=
  match fld v 63 62 with
  | 1 => legal (isOpened s m (fld v 13 0)) (.ok (resolveRecord s m (fld v 13 0) true))
  | 2 => legal (isOpened s m (fld v 13 0)) (.ok (resolveRecord s m (fld v 13 0) false))
  | _ => .bad eResvwrite

/-- MTU registers (R128). -/
def writeMtu (s : State) (ag : Agent) (m k : Nat) (v : Word) : WRes :=
  match k with
  | 0 => needs (asRoot ag) (legal (fld v 41 0 % 256 == 0) (.ok (s.setMtu m { s.mtu m with fqbase := fld v 41 0 })))
  | 1 => needs (asFirmware ag) (.ok (s.setMtu m { s.mtu m with rp := fld v 14 0 }))
  | 2 => needs (asFirmware ag) (writeResolve s m v)
  | _ => needs (asRoot ag) (.ok s)

/-- XL_INV (R122, R127): an invalidation begins. -/
def writeInv (s : State) (v : Word) : WRes :=
  let op := fld v 63 62
  let start := .ok { s with xl := { s.xl with
    inv := some ⟨op, flag v 61, fld v 60 59, s.xl.invctx, s.xl.invaddr⟩ } }
  legal (s.xl.inv.isNone && op != 0 && !(op == 1 && !flag v 61 && fld v 60 59 == 3)) start

/-- Translation registers (R127). -/
def writeXl (s : State) (ag : Agent) (k : Nat) (v : Word) : WRes :=
  let put := fun (x : Xlate) => WRes.ok { s with xl := x }
  needs (asRoot ag) (match k with
    | 0 => legal (fld v 41 0 % 512 == 0) (put { s.xl with ctxbase := fld v 41 0 })
    | 1 => legal (decide (1 ≤ fld v 16 0) && decide (fld v 16 0 ≤ 65536)) (put { s.xl with ctxlen := fld v 16 0 })
    | 2 => writeInv s v
    | 3 => put { s.xl with invctx := fld v 15 0 }
    | 4 => put { s.xl with invaddr := fld v 55 0 }
    | 6 => put { s.xl with drop := v }
    | 7 => legal (fld v 55 0 % 2 ^ 24 == 0) (put { s.xl with framebase := fld v 55 0 })
    | 8 => legal (fld v 55 0 % 2 ^ 24 == 0) (put { s.xl with framelen := fld v 55 0 })
    | _ => .ok s)

/-- Fabric registers (R316). -/
def writeFab (s : State) (ag : Agent) (k : Nat) (v : Word) : WRes :=
  let put := fun (x : Fabric) => WRes.ok { s with fab := x }
  needs (asRoot ag) (match k with
    | 0 => legal (decide (fld v 20 11 ≤ 767) && decide (fld v 10 0 ≤ 1057)) (put { s.fab with id := v &&& 0x80000000001FFFFF#64 })
    | 1 => legal (fld v 15 0 != 0) (put { s.fab with ctl := v &&& 0x3FFFFFFFF#64 })
    | 2 => legal (decide (fld v 5 0 ≤ 46)) (.ok (setPorts { s with fab := { s.fab with portmap := v &&& 0x7F#64 } } s.fab.up))
    | 4 => put { s.fab with drop := v }
    | _ => .ok s)

/-- A gateway word: uplinks 12 to 15 are reserved (R297). -/
def globLegal (v : Word) : Bool := (span 0 4).all (fun j => decide (fld v (16 * j + 4) (16 * j + 1) < 12))

/-- Routing tables (R297). -/
def writeDom (s : State) (ag : Agent) (m : Nat) (v : Word) : WRes :=
  needs (asRoot ag) (legal (decide (fld v 5 0 ≤ 46))
    (.ok { s with fab := { s.fab with dom := Tab.set 0 m (v &&& 0x7F#64) s.fab.dom } }))

def writeGlob (s : State) (ag : Agent) (g k : Nat) (v : Word) : WRes :=
  needs (asRoot ag) (legal (globLegal v) (.ok { s with fab := { s.fab with glob := Tab.set 0 (4 * g + k) v s.fab.glob } }))

/-- XR_CTL (R347). -/
def writeXrCtl (s : State) (v : Word) : WRes :=
  let t := { s with xp := { s.xp with tmo := fld v 15 0 } }
  match fld v 63 62 with
  | 0 => .ok t
  | 1 => legal (!loadBusy s) (.ok (loadCatalogue t))
  | _ => .bad eResvwrite

/-- XR_NVQ words (R347). A write that places a queue starts it anew (log entry 63). -/
def nvqLegal (k : Nat) (v : Word) : Bool :=
  match k % 4 with
  | 0 => fld v 41 0 % 512 == 0
  | 1 => fld v 41 0 % 128 == 0 && decide (9 ≤ fld v 47 42) && decide (fld v 47 42 ≤ 16)
  | _ => true

def writeNvq (s : State) (k : Nat) (v : Word) : WRes :=
  let v' := if k % 4 = 0 then v &&& 0xFFFF03FFFFFFFFFF#64 else v
  legal (nvqLegal k v) (.ok { s with xp := { s.xp with
    nvq := Tab.set (nvqDefault k) k v' s.xp.nvq, nvs := if k % 4 < 2 then Tab.set NvmeQ.init (k / 4) NvmeQ.init s.xp.nvs else s.xp.nvs } })

/-- Expert registers (R347). -/
def writeXr (s : State) (ag : Agent) (k : Nat) (v : Word) : WRes :=
  let put := fun (x : Experts) => WRes.ok { s with xp := x }
  needs (asSystem ag) (match k with
    | 0 => legal (fld v 41 0 % 256 == 0) (put { s.xp with cat := fld v 41 0 })
    | 1 => legal (decide (fld v 16 0 ≤ 65536)) (put { s.xp with catn := fld v 16 0 })
    | 2 => legal (fld v 41 0 % 128 == 0) (put { s.xp with slot := fld v 41 0 })
    | 3 => legal (decide (fld v 16 0 ≤ 65536)) (put { s.xp with slotn := fld v 16 0 })
    | 4 => writeXrCtl s v
    | 5 => .ok s
    | _ => writeNvq s (k - 8) v)

/-- A host write needs the block's v and hwen bits (R363). -/
def hostMayWake (s : State) (ag : Agent) (b : Nat) : Bool :=
  match ag with | .host _ => flag (nbWord s b) 63 && flag (nbWord s b) 62 | _ => true

/-- A notify register: a write is a wake (R364). -/
def writeNotify (s : State) (ag : Agent) (n : Nat) (v : Word) : WRes :=
  needs (hostMayWake s ag (n / 256)) (.ok (wakeArrive s n (v.truncate 48)))

/-- The words of a barrier (R367, R368). -/
def writeBar (s : State) (ag : Agent) (i k : Nat) (v : Word) : WRes :=
  if k = 0 then
    needs (asSystem ag) (legal (fld v 47 24 != 0)
      (.ok (setBarrier s i { barrierOf s i with need := fld v 47 24, have_ := 0 })))
  else .ok (if fld v 15 0 = 0 then s else (barrierArriveAt s i (fld v 15 0)).1)

/-- Host-link registers (R384). -/
def writeHl (s : State) (ag : Agent) (k : Nat) (v : Word) : WRes :=
  let put := fun (x : HostLink) => WRes.ok { s with hl := x }
  needs (asRoot ag) (match k with
    | 0 => put { s.hl with ctx := fld v 15 0 }
    | 1 => put { s.hl with ready := flag v 0 }
    | 10 => .ok s
    | _ => legal (k % 2 == 1 || fld v 41 0 % 2 ^ 15 == 0) (put { s.hl with p2p := Tab.set 0 (k - 2) (fld v 41 0) s.hl.p2p }))

/-- Power registers (R387). -/
def writePwr (s : State) (ag : Agent) (k : Nat) (v : Word) : WRes :=
  match k with
  | 0 => needs (asSystem ag) (legal (decide (600 ≤ fld v 11 0) && decide (fld v 11 0 ≤ 2400))
      (.ok { s with pow := { s.pow with cap := fld v 11 0 } }))
  | 2 => needs (asRoot ag) (.ok { s with pow := { s.pow with therm := wordN (fld v 15 0) } })
  | _ => .bad ePerm

/-- A write to a register that is defined (R8, R9). -/
def writeDev (s : State) (ag : Agent) (r : Dev) (v : Word) : WRes :=
  match r with
  | .widx q => .ok { s with fe := { s.fe with widx := Tab.set 0 q (fld v 31 0) s.fe.widx } }
  | .qd q k => writeQd s ag q k v
  | .fe k => writeFe s ag k v
  | .store h j => writeStore s h j v
  | .dsp d k => writeDsp s ag d k v
  | .mtu m k => writeMtu s ag m k v
  | .xl k => writeXl s ag k v
  | .fab k => writeFab s ag k v
  | .dom m => writeDom s ag m v
  | .glob g k => writeGlob s ag g k v
  | .xr k => writeXr s ag k v
  | .notify n => writeNotify s ag n v
  | .bar i k => writeBar s ag i k v
  | .nbCtx b => needs (asRoot ag)
      (.ok { s with sync := { s.sync with nb := Tab.set 0 b (v &&& 0xC00000000000FFFF#64) s.sync.nb } })
  | .barCtx i => needs (asRoot ag)
      (.ok { s with sync := { s.sync with barCtx := Tab.set 0 i (v &&& 0x800000000000FFFF#64) s.sync.barCtx } })
  | .ntCtl => .ok s
  | .hl k => writeHl s ag k v
  | .pwr k => writePwr s ag k v

/-! ### Accesses (R43) -/

/-- A 64-bit read at bit address `a`: the register, or the response that it gets. -/
def devRead (s : State) (a : Nat) : Word × Option Nat :=
  if a % 64 ≠ 0 || region a != 14 then (0, some eDevreg)
  else match devAt ((a - devBase) / 64) with
    | some r => (readDev s r, none)
    | none => (0, some eUnmapped)

/-- A 64-bit write at bit address `a`; a write that is not accepted has no effect. -/
def devWrite (s : State) (ag : Agent) (a : Nat) (v : Word) : State × Option Nat :=
  if a % 64 ≠ 0 || region a != 14 then (s, some eDevreg)
  else match devAt ((a - devBase) / 64) with
    | none => (s, some eUnmapped)
    | some r => match writeDev s ag r v with
      | .ok t => (t, none)
      | .bad code => (s, some code)

/-- The record of a refused access: source kind 1 for a strand, 5 for firmware and the host (R72, R75, R382). -/
def logAgent (s : State) (ag : Agent) (code a : Nat) : State :=
  match ag with
  | .strand ctx c => logErr s code a ctx 1 c 0
  | .mgmt k => logErr s code a 0 5 k 0
  | .root | .host _ => logErr s code a 0 5 0 0

/-- Management cores that are held in reset do nothing (R77). -/
def agentRuns (s : State) (ag : Agent) : Bool := match ag with | .mgmt _ => !s.firm.mgmtHeld | _ => true

/-- Addresses of the page-table entries that the walk for `a` reads from table `t` at level `l` (R115). -/
def walkPath (s : State) (a t l : Nat) : Nat → List Nat
  | 0 => []
  | n + 1 =>
    let p := t + 64 * ptIndex a l
    p :: (match physWord s p with
      | some e => if fld e 1 0 == 1 && !ptMalformed e l then walkPath s a (fld e 41 11 * 2048) (l + 1) n else []
      | none => [])

/-- Management services a page fault by a root call that confines the write to the faulting context: to an entry on the walk
of the address of an unresolved fault record (R75, R119). -/
def servicesFault (s : State) (a : Nat) : Bool :=
  s.xl.mtu.any (fun m => m.2.opened.any (fun r => match (descriptor s r.ctx).2 with
    | some d => (walkPath s r.addr (d.root * 2 ^ 18) 0 4).contains a
    | none => false))

/-- An address of physical memory, which only firmware may name: descriptors, window tables and page tables lie there
(R75, R109). -/
def isPhys (ag : Agent) (a : Nat) : Bool := asFirmware ag && decide (a < 2 ^ 42)

/-- A leaf with nf set (R126). -/
def isFrameLeaf (w : Word) : Bool := fld w 1 0 == 2 && flag w 7

/-- A 64-bit write of physical memory by firmware (R75): by root anywhere, by management as `servicesFault` allows, but for leaves with
nf set, which it neither writes nor makes (R126). -/
def firmWrite (s : State) (ag : Agent) (a : Nat) (v : Word) : State :=
  if a % 64 ≠ 0 then logAgent s ag eAlignment a
  else if asRoot ag || (servicesFault s a && !isFrameLeaf v && !isFrameLeaf ((physWord s a).getD 0)) then physPut s a v
  else logAgent s ag ePerm a

/-- A register write by an agent. -/
def agentWrite (s : State) (ag : Agent) (a : Nat) (v : Word) : State :=
  if !agentRuns s ag then s
  else if isPhys ag a then firmWrite s ag a v
  else match devWrite s ag a v with
    | (t, none) => t
    | (t, some code) => logAgent t ag code a

/-- REGISTER_WRITE (R8, R9). -/
def execRegisterWrite (ag : Agent) (a : Nat) (v : Word) (s : State) : Out := .next (agentWrite s ag a v)

/-- QD_STATE_RUNNING, QD_STATE_HALTED, QD_STATE_UNMAPPED (R62): a write of QD0 with the state. -/
def execQdStateRunning (ag : Agent) (q : Nat) (v : Word) (s : State) : Out :=
  .next (agentWrite s ag (qdAddr q 0) (setFld v 63 62 1))
def execQdStateHalted (ag : Agent) (q : Nat) (v : Word) (s : State) : Out :=
  .next (agentWrite s ag (qdAddr q 0) (setFld v 63 62 3))
def execQdStateUnmapped (ag : Agent) (q : Nat) (v : Word) (s : State) : Out :=
  .next (agentWrite s ag (qdAddr q 0) (setFld v 63 62 0))
/-- QD1_WRITE (R60) and QD3_WRITE (R69). -/
def execQd1Write (ag : Agent) (q : Nat) (v : Word) (s : State) : Out := .next (agentWrite s ag (qdAddr q 1) v)
def execQd3Write (ag : Agent) (q : Nat) (v : Word) (s : State) : Out := .next (agentWrite s ag (qdAddr q 3) v)
/-- PROGRAM_STORE_WRITE (R66). -/
def execProgramStoreWrite (ag : Agent) (h j : Nat) (v : Word) (s : State) : Out :=
  .next (agentWrite s ag (storeAddr h j) v)
/-- FE_PCTL_CHECK (R69) and FE_PCTL_RELEASE (R73). -/
def execFePctlCheck (ag : Agent) (h len : Nat) (s : State) : Out :=
  .next (agentWrite s ag (feAddr 4) (wordN (1 <<< 62 + h <<< 8 + len)))
def execFePctlRelease (ag : Agent) (h : Nat) (s : State) : Out :=
  .next (agentWrite s ag (feAddr 4) (wordN (2 <<< 62 + h <<< 8)))
/-- CLRLOST (R73). -/
def execClrlost (ag : Agent) (s : State) : Out := .next (agentWrite s ag (feAddr 3) 1)
/-- XL_INV_ENTRY, XL_INV_CONTEXT, XL_INV_ALL (R122). -/
def execXlInvEntry (ag : Agent) (tgt : Bool) (size : Nat) (s : State) : Out :=
  .next (agentWrite s ag (xlAddr 2) (wordN (1 <<< 62 + (b2n tgt) <<< 61 + size <<< 59)))
def execXlInvContext (ag : Agent) (s : State) : Out := .next (agentWrite s ag (xlAddr 2) (wordN (2 <<< 62)))
def execXlInvAll (ag : Agent) (s : State) : Out := .next (agentWrite s ag (xlAddr 2) (wordN (3 <<< 62)))
/-- MTU_RESOLVE_RETRY and MTU_RESOLVE_REFUSE (R120). -/
def execMtuResolveRetry (ag : Agent) (m i : Nat) (s : State) : Out :=
  .next (agentWrite s ag (mtuAddr m 2) (wordN (1 <<< 62 + i)))
def execMtuResolveRefuse (ag : Agent) (m i : Nat) (s : State) : Out :=
  .next (agentWrite s ag (mtuAddr m 2) (wordN (2 <<< 62 + i)))
/-- XR_CTL_LOAD (R347). -/
def execXrCtlLoad (ag : Agent) (tmo : Nat) (s : State) : Out :=
  .next (agentWrite s ag (xrAddr 4) (wordN (1 <<< 62 + tmo % 65536)))
/-- NOTIFY_WAKE (R364): a write of the register. -/
def execNotifyWake (ag : Agent) (b j : Nat) (w : BitVec 48) (s : State) : Out :=
  .next (agentWrite s ag (notifyAddr (256 * b + j)) (w.zeroExtend 64))
/-- BARRIER_NEED_WRITE (R367) and BARRIER_ARRIVE (R368). -/
def execBarrierNeedWrite (ag : Agent) (i need : Nat) (s : State) : Out :=
  .next (agentWrite s ag (barAddr i 0) (wordN ((need % 2 ^ 24) <<< 24)))
def execBarrierArrive (ag : Agent) (i u : Nat) (s : State) : Out :=
  .next (agentWrite s ag (barAddr i 1) (wordN (u % 65536)))

/-! ### The end of an invalidation (R122) -/

/-- Whether an invalidation removes a cached entry. -/
def removes (v : Inval) (e : CacheEnt) : Bool :=
  match v.op with
  | 1 => e.ctx == v.ctx &&
      (if v.tgt then e.kind == 2 && e.key == v.addr % 2 ^ 15
       else
         let size := match v.size with | 0 => 19 | 1 => 24 | _ => 33
         ((e.kind == 0 && e.size == size) || (decide (3 ≤ e.kind) && decide (size ≤ e.size)))
           && e.key == v.addr / 2 ^ e.size * 2 ^ e.size)
  | 2 => e.ctx == v.ctx
  | _ => true

/-- An invalidation removes window `w` of context `ctx`. -/
def removesWin (v : Inval) (ctx w : Nat) : Bool :=
  match v.op with
  | 1 => ctx == v.ctx && v.tgt && w == v.addr % 2 ^ 15
  | 2 => ctx == v.ctx
  | _ => true

def isConnect (a : Acc) : Bool := match a.op with | .connect _ => true | _ => false

/-- A request through window `w` of context `ctx` is on its way, without an answer, one that is parked at its target among them; a
connect that its target keeps has had one (R312). Every other access translates as it performs, so none is on its way with an old translation. -/
def viaWindow (s : State) (gone : Nat → Nat → Bool) : Bool :=
  s.cores.any (fun e => e.2.accs.any (fun a =>
    isRemote a && a.sent && !(a.held && isConnect a) && a.got.isEmpty && a.err.isNone && gone a.ctx (winNo a.addr)))
    || s.fab.flights.any (fun f => match f.win with | some (ctx, w) => gone ctx w | none => false)

/-- No cache holds a matching entry any more, and busy clears once every access translated with one has performed or has its
response. -/
def endInval (s : State) : State :=
  match s.xl.inv with
  | none => s
  | some v => if viaWindow s (removesWin v) then s
    else { s with xl := { s.xl with inv := none, cache := s.xl.cache.filter (fun e => !removes v e) } }

/-- INVALIDATION_COMPLETE (R122). -/
def execInvalidationComplete (s : State) : Out := .next (endInval s)

end Sys2Proof.Machine
end

