-- ==== Sys2Proof/Machine/System.lean ====
section
/-!
DEFINITION. The system unit SY (R369 to R375): notify registers, hardware barriers, the return from the handler, the
cause of the last trap, and the system registers.
-/
namespace Sys2Proof.Machine

def syA (t : Trig) (s : State) : Word := portOf t s pSYa
def syK (t : Trig) (s : State) : Word := portOf t s pSYk

/-- The notify register that a trigger names, 256 b + j. -/
def syReg (t : Trig) (s : State) : Nat := 256 * fld (syK t s) 7 0 + fld t.y 7 0

/-- An address trap of SY names the register and writes no record (R363, R372; R108 does not list it). -/
def trapSy (slot a : Nat) : Trap := ⟨0x03, slot, 0, 0, a, none⟩

/-- A notify register of a block that the strand's context owns (R363). -/
def withBlock (t : Trig) (s : State) (k : Nat → Res) : Res :=
  let n := syReg t s
  if nbOwned s (n / 256) (ctxOf s t.core) then k n else .trap (trapSy t.slot (notifyAddr n))

/-- One more withheld consumption of register `n` (R370). -/
def addConsume (x : Core) (n : Nat) : Core :=
  if x.consume.any (fun e => e.1 == n) then
    { x with consume := x.consume.map (fun e => if e.1 = n then (e.1, e.2 + 1) else e) }
  else { x with consume := x.consume ++ [(n, 1)] }

def opSyNwait (t : Trig) (s : State) : Res :=
  withBlock t s fun n =>
    let w := withheld (s.core t.core) n
    let r := notifyOf s n
    if r.cnt ≤ w then .stall
    else .done ((plan s t.core 1 rReg (.lat lSY (notifyWord r w))).onCore t.core (fun x => addConsume x n))

def opSyNread (t : Trig) (s : State) : Res :=
  withBlock t s fun n =>
    .done (plan s t.core 3 rReg (.lat lSY (notifyWord (notifyOf s n) (withheld (s.core t.core) n))))

def opSyNclr (t : Trig) (s : State) : Res :=
  withBlock t s fun n => .done (plan s t.core 2 rReg (.nclr (n / 256) (n % 256)))

def opSyNsig (t : Trig) (s : State) : Res :=
  withCkpt t s fun s => withBlock t s fun n =>
    .done (pushAcc s t.core { accBase s t.core with op := .nsig, addr := n, data := BitVec.ofNat 1024 (fld (syA t s) 47 0) })

/-- Address of a barrier's word 0 (R367). -/
def barrierAddr (i : Nat) : Nat := 0xE0000001800000 + 128 * i

def opSyHbar (t : Trig) (s : State) : Res :=
  withCkpt t s fun s =>
    let i := fld t.y 11 0
    let u := fld (syA t s) 15 0
    if u = 0 then .trap (trapIllegal t.slot)
    else if !barOwned s i (ctxOf s t.core) then .trap (trapSy t.slot (barrierAddr i))
    else .done (pushAcc s t.core { accBase s t.core with op := .hbar, addr := i, len := u })

/-- The strand's last arrival whose reply has not come. -/
def hbarDue (x : Core) : Option Nat :=
  ((x.accs.filter (fun a => a.op == .hbar && some a.team == x.team)).getLast?).map (·.addr)

def opSyHbwait (t : Trig) (s : State) : Res :=
  let x := s.core t.core
  let i := fld t.y 11 0
  match hbarDue x with
  | some j => if j = i then .stall else .trap (trapProg t.slot 0x0B)
  | none => match x.dup.arrival with
    | some (j, g) =>
      if j ≠ i then .trap (trapProg t.slot 0x0B)
      else if (barrierOf s i).gen = g then .stall
      else .done (plan s t.core 1 rReg (.lat lSY (barrierWord (barrierOf s i))))
    | none => .trap (trapProg t.slot 0x0B)

/-- Operations of the handler (R159, R162). -/
def withHandler (t : Trig) (s : State) (k : Unit → Res) : Res :=
  if (s.core t.core).mode = .handler then k () else .trap (trapPriv t.slot)

def opSyRte (t : Trig) (s : State) : Res :=
  withHandler t s fun _ => .done (returnTrap s t.core (fld t.y 1 0))

/-- The end of a bundle with an effective rte: the current state is the checkpoint state, and the resume point stays
(R373). -/
def endRte (s : State) (c cyc : Nat) : State := s.onCore c (fun x => recordCkpt x x.ck.pc cyc)

/-- Word `sel` of tinfo (R374). -/
def tinfoWord (s : State) (c sel : Nat) : Word :=
  let x := s.core c
  let k := x.cause
  match sel with
  | 0 => wordN (k.code <<< 56 + (k.slot % 256) <<< 48 + (k.sub % 256) <<< 40 + (k.reg % 256) <<< 32
      + k.pc.toNat <<< 20 + (k.seg % 256) <<< 12)
  | 1 => if (decide (3 ≤ k.code) && decide (k.code ≤ 6)) || k.code == 0x0B then wordN k.addr else 0
  | 2 => wordN ((segAt s c x.ck.pc) <<< 12 + x.ck.pc.toNat)
  | _ => 0

def opSyTinfo (t : Trig) (s : State) : Res :=
  withHandler t s fun _ => .done (plan s t.core 3 rReg (.lat lSY (tinfoWord s t.core (fld t.y 7 0))))

def opSySrd (t : Trig) (s : State) : Res :=
  withCkpt t s fun s =>
    let i := fld t.y 7 0
    if 4 ≤ i then .trap (trapIllegal t.slot)
    else withPriv t s fun s => .done (plan s t.core 3 rReg (.lat lSY (srValue (s.core t.core) i)))

def opSySwr (t : Trig) (s : State) : Res :=
  withCkpt t s fun s =>
    let i := fld (syK t s) 7 0
    if 4 ≤ i then .trap (trapIllegal t.slot) else withPriv t s fun s => .done (plan s t.core 2 rReg (.srWrite i t.y))

def execSyNwait (t : Trig) (s : State) : Out := finish s t.core (opSyNwait t s)
def execSyNread (t : Trig) (s : State) : Out := finish s t.core (opSyNread t s)
def execSyNclr (t : Trig) (s : State) : Out := finish s t.core (opSyNclr t s)
def execSyNsig (t : Trig) (s : State) : Out := finish s t.core (opSyNsig t s)
def execSyHbar (t : Trig) (s : State) : Out := finish s t.core (opSyHbar t s)
def execSyHbwait (t : Trig) (s : State) : Out := finish s t.core (opSyHbwait t s)

/-- The return as a step of its own: the state is recorded and the resume point becomes the pc (R373). -/
def execSyRte (t : Trig) (s : State) : Out :=
  match opSyRte t s with
  | .done s' => .next ((endRte s' t.core ((s'.core t.core).cyc + 1)).onCore t.core takeSel)
  | r => finish s t.core r

def execSyTinfo (t : Trig) (s : State) : Out := finish s t.core (opSyTinfo t s)
def execSySrd (t : Trig) (s : State) : Out := finish s t.core (opSySrd t s)
def execSySwr (t : Trig) (s : State) : Out := finish s t.core (opSySwr t s)

end Sys2Proof.Machine
end

