-- ==== Sys2Proof/Machine/Replies.lean ====
section
/-!
DEFINITION. Accesses on their way perform and reply (R141, R220, R223, R231, R371): one part of one access of a core at a
time, once everything that must come first has performed.
-/
namespace Sys2Proof.Machine

/-- A device read replies with the register, or poisons its register and is logged (R220, R231). -/
def performDrd (s : State) (c : Nat) (a : Acc) : State :=
  match devRead s a.addr with
  | (v, none) => deliver s c a v
  | (_, some code) => deliver (logAcc s c a code a.addr) c { a with err := some (code, a.addr) } 0

/-- A device write takes effect, or is logged like a store's error (R224, R231). -/
def performDwr (s : State) (c : Nat) (a : Acc) : State :=
  let s := s.onCore c (fun x => dropAcc x a.id)
  match devWrite s (.strand a.ctx c) a.addr (a.data.truncate 64) with
  | (t, none) => t
  | (t, some code) => logAccQ t c a code a.addr

/-- A wake reaches its register (R370, R371). -/
def performNsig (s : State) (c : Nat) (a : Acc) : State :=
  wakeArrive (s.onCore c (fun x => dropAcc x a.id)) a.addr (a.data.truncate 48)

/-- The reply of an arrival is recorded in the strand's state (R372). -/
def recordArrival (s : State) (c : Nat) (a : Acc) (g : Option (Nat × Nat)) : State :=
  s.onCore c (fun x =>
    let y := dropAcc x a.id
    if x.team = some a.team then y.landDup a.iss (fun d => { d with arrival := g }) else y)

/-- An arrival performs at its barrier, which checks the context once more (R372). -/
def performHbar (s : State) (c : Nat) (a : Acc) : State :=
  if barOwned s a.addr a.ctx then
    recordArrival (barrierArriveAt s a.addr a.len).1 c a (some (a.addr, (barrierArriveAt s a.addr a.len).2))
  else recordArrival (logAcc s c a ePerm (barrierAddr a.addr)) c a none

/-- Released consumptions come off the count (R370). -/
def performConsume (s : State) (c : Nat) (a : Acc) : State :=
  let r := notifyOf s a.addr
  setNotify (s.onCore c (fun x => dropAcc x a.id)) a.addr { r with cnt := r.cnt - a.len }

/-- A part that has neither performed nor parked. -/
def partOpen (a : Acc) (k : Nat) : Bool := !a.got.any (fun e => e.1 == k) && !a.parked.contains k

/-- Part `k` of access `a` of core `c` performs. -/
def performAcc (s : State) (c : Nat) (a : Acc) (k : Nat) : State :=
  match a.op with
  | .ld sx => if partOpen a k then performLd s c a k sx else s
  | .ovl _ _ => if partOpen a 0 && a.err.isNone then performOvl s c a else s
  | .atomic idx fmt => if partOpen a 0 then performAtomic s c a idx fmt else s
  | .send e => if partOpen a 0 then performSend s c a e else s
  | .drd => performDrd s c a
  | .dwr => performDwr s c a
  | .pref | .scout => performPref s c a
  | .peerLd _ | .peerSt | .peerBor => performPeer s c a
  | .nsig => performNsig s c a
  | .hbar => performHbar s c a
  | .consume => performConsume s c a
  | .grp op _ _ _ _ body => if op = kXperm && !a.sent then xpermStart s c a body else s
  | .fence _ _ | .resq _ | .rld _ | .rst | .xsig | .bar | .connect _ | .sout _ _ _ | .sin _ _ | .near _ | .echo _ => s

/-- A wake and an arrival act from two issue cycles after their bundle (R160), or while the strand's next bundle stalls, where no
issue cycle passes (R144), or once the strand issues nothing more. -/
def tooEarly (x : Core) (a : Acc) : Bool :=
  (match a.op with | .nsig | .hbar => true | _ => false) && decide (x.cyc < a.iss + 2) && !x.stalled
    && x.run == .running && x.team == some a.team

/-- An access is made when nothing earlier holds it back; a request to another package has its own order (R302). -/
def stepAcc (s : State) (c id k : Nat) : State :=
  match findAcc (s.core c) id with
  | none => s
  | some a =>
    if isRemote a then (match a.op with | .sout body j v => performOut s c a body j v | _ => sendRemote s c a)
    else if blocked s c a || tooEarly (s.core c) a then s
    else performAcc (settle s c a) c a k

/-- LONG_LATENCY_REPLY (R141). -/
def execLongLatencyReply (core id part : Nat) (s : State) : Out := .next (stepAcc s core id part)

/-- A released entry is sent and performs at its controller (R223). -/
def sendEntry (s : State) (c id : Nat) : State :=
  match findAcc (s.core c) id with
  | some a => (match a.op with
    | .send e => if partOpen a 0 && !blocked s c a then performSend (settle s c a) c a e else s
    | _ => s)
  | none => s

/-- WITHHELD_ENTRY_SEND (R223). -/
def execWithheldEntrySend (core id : Nat) (s : State) : Out := .next (sendEntry s core id)

end Sys2Proof.Machine
end

