-- ==== Sys2Proof/Machine/Package.lean ====
section
/-!
DEFINITION. The package as its host sees it (R77, R78, R80, R381 to R386): cold reset and boot, recovery, the ports, the
BARs and CXL.mem, and the power controller.
-/
namespace Sys2Proof.Machine

/-! ### Firmware and boot (R77, R78, R80, R385) -/

/-- The signed part of an image: its header and body (R77). -/
def signedPart (i : FwImage) : List Byte := Config.fwHeader i.root i.body.length i.version ++ i.body

/-- The Esrov public key of slot `k`, whose digest is fused and which no fuse revokes (R77). -/
def esrovKey (k : Nat) : List Byte := publicKey (bytesOf (Config.esrovRoot k).toNat xmssN) (bytesOf (Config.esrovSeed k).toNat xmssN)
def slotGood (f : Firm) (k : Nat) : Bool := !bit f.keyRevoked k && shake256 (esrovKey k) == Config.keyDigest k

/-- An image is accepted when its signature, of the length of R76, verifies under a good key slot and its security version is
not below the fused minimum (R77). -/
def accepts (f : Firm) (root : Bool) (i : FwImage) : Bool :=
  i.root == root && decide (f.minVer ≤ i.version) && i.sig.length == signBytes
    && (span 0 2).any (fun k => slotGood f k && xmssVerify (esrovKey k) (signedPart i) i.sig)

/-- Extend measurement register `k` by a digest source (R78). -/
def extendMeas (f : Firm) (k : Nat) (d : List Byte) : Firm :=
  { f with meas := Tab.upd 0 k (fun m => shake256 (bytesOf m.toNat 32 ++ d)) f.meas }

/-- The root firmware runs: it measures its image and configuration, burns the first identity block, and releases the
management cores if their image is accepted (R77, R78, R385 steps 2 to 4). -/
def runRoot (f : Firm) (i : FwImage) : Firm :=
  let f := extendMeas (extendMeas f 1 (signedPart i ++ i.sig)) 2 Config.straps
  let f := burnBlock { f with up := true, recovery := false, rootVer := i.version }
  let m := Config.mgmtImage f.boots
  if accepts f false m then { extendMeas f 3 (signedPart m ++ m.sig) with mgmtHeld := false } else f

/-- The boot of the package: the boot ROM is measured, and the root image of the flash runs or leaves the root core in
recovery mode (R77, R78, R385 steps 1 to 4). -/
def boot (s : State) : State :=
  let f := { s.firm with boots := s.firm.boots + 1 }
  let f := extendMeas f 0 (Config.bootRom f.minVer f.idBits f.keyRevoked)
  let i := Config.rootImage f.boots
  if accepts f true i then { s with firm := runRoot f i }
  else tellHost { s with firm := { f with recovery := true } } (.msix 1)

/-- Management firmware that runs may supply a digest for one of MEAS4 to MEAS7 (R78). -/
def mgmtMeasure (s : State) : State :=
  if s.firm.mgmtHeld then s
  else match Config.mgmtDigest s.firm.boots s.fe.time.toNat with
    | some (k, d) => { s with firm := extendMeas s.firm (4 + k % 4) d }
    | none => s

/-- The size of a page that management brings in. -/
def pageBits : Nat := 2 ^ 19

/-- Management firmware services a page fault: through the cave pager it brings a page into a 64 KiB frame of HBM, before root writes
the leaf (R75, R120; log entry 23). It has one to bring in only while a fault record is unresolved. -/
def mgmtPaging (s : State) : State :=
  if s.firm.mgmtHeld || !s.xl.mtu.any (fun m => !m.2.opened.isEmpty) then s
  else match Config.mgmtPage s.firm.boots s.fe.time.toNat with
    | some k =>
      let (s, v) := caveData s (pageBits / 8)
      (sectors 0 pageBits).foldl (fun s i => (storePart s (pageBits * (k % 2 ^ 23) + 256 * i) 256 (v >>> (256 * i) % 2 ^ 256)).1) s
    | none => s

/-- The boot is still to run. -/
def mustBoot (s : State) : Bool := !s.firm.up && !s.firm.recovery

/-- Cold reset: all device state is cleared except the fuses. The boot follows as device time goes on (R385). The model's own
schedule and counters go on. -/
def resetCold (s : State) : State :=
  { State.reset with
    turns := s.turns, tick := s.tick, fresh := s.fresh,
    firm := { State.reset.firm with minVer := s.firm.minVer, idBits := s.firm.idBits, keyRevoked := s.firm.keyRevoked,
                                    boots := s.firm.boots } }

/-- COLD_RESET (R385). -/
def execColdReset (s : State) : Out := .next (resetCold s)

/-- A new root image arrives in recovery mode; one that is not accepted leaves the root core waiting (R77). -/
def recover (s : State) (i : FwImage) : State :=
  if s.firm.recovery && accepts s.firm true i then { s with firm := runRoot s.firm i } else s

/-- RECOVERY_IMAGE (R77). -/
def execRecoveryImage (img : FwImage) (s : State) : Out := .next (recover s img)

/-! ### The ports (R381, R384, R385) -/

def setPort (s : State) (p : Nat) (x : HPort) : State :=
  { s with hl := { s.hl with port := Tab.set HPort.init p x s.hl.port } }

/-- LINK_RESET (R385): the port's link, and its outstanding completions. -/
def execLinkReset (port : Nat) (s : State) : Out := .next (setPort s port HPort.init)

/-- HOST_PORT_TRAINED (R384): HL_STAT takes the trained values. -/
def execHostPortTrained (port width gen : Nat) (cxl : Bool) (s : State) : Out :=
  .next (setPort s port { portOf' s port with up := true, cxl := cxl, width := width % 32, gen := gen % 8 })

/-- PCIe completion statuses (log entry 17). -/
def cplOk : Nat := 0
def cplRetry : Nat := 2
def cplAbort : Nat := 4

/-- A completion of a port. -/
def complete (s : State) (p : Nat) (c : Cpl) : State :=
  let x := portOf' s p
  setPort s p { x with out := x.out ++ [c] }

/-- CONFIG_REQUEST (R381, R385): Request Retry Status until the root firmware runs; then a read completes with data that the
manual does not give. -/
def config (s : State) (a : HostAcc) : State :=
  if !(portOf' s a.port).up then s
  else if !s.firm.up then complete s a.port ⟨cplRetry, 0, false⟩
  else if a.wr then complete s a.port ⟨cplOk, 0, false⟩
  else complete (draw s).1 a.port ⟨cplOk, Config.pick (draw s).2 % 2 ^ (8 * a.len), false⟩

def execConfigRequest (a : HostAcc) (s : State) : Out := .next (config s a)

/-! ### BAR accesses (R382) -/

/-- A part of a host write performs (R39, R40); one that fails is logged. -/
def putPart (s : State) (p lo ctx len v : Nat) : State :=
  match storePart s p len v with
  | (s, true) => s
  | (s, false) => logErr s eEcc lo ctx 5 0 0

/-- The parts of host writes that are still on their way perform: at the next access of the host, which they stand before (R61,
R381). -/
def landHost (s : State) : State :=
  s.hl.late.foldl (fun s e => putPart s e.1 e.2.1 e.2.2.1 e.2.2.2.1 e.2.2.2.2) { s with hl := { s.hl with late := [] } }

/-- An access that is refused: a read completes with Completer Abort, a write is dropped. -/
def abort (s : State) (a : HostAcc) : State := if a.wr then s else complete s a.port ⟨cplAbort, 0, false⟩

/-- A refused access with its record: source kind 5 (R382). -/
def abortLog (s : State) (a : HostAcc) (code addr ctx : Nat) : State := abort (logErr s code addr ctx 5 0 0) a

/-- Sizes of the BARs in bytes. -/
def bar0Size : Nat := 2 ^ 26
def bar2Size : Nat := 2 ^ 39

/-- The port can carry the access, and the access lies inside the BAR. -/
def reaches (s : State) (a : HostAcc) (size : Nat) : Bool := (portOf' s a.port).up && decide (a.off + a.len ≤ size)

/-- BAR0: a register of region 14, with the rights of the system context. Earlier writes of the host have performed before a write of it
takes effect (R61). -/
def bar0 (s : State) (a : HostAcc) : State :=
  let addr := devBase + 8 * a.off
  if !reaches s a bar0Size then s
  else if !s.hl.ready then abort s a
  else if a.len ≠ 8 then abortLog s a eDevreg addr 0
  else if a.wr then agentWrite (landHost s) (.host a.port) addr (wordN a.data)
  else match devRead s addr with
    | (v, none) => complete s a.port ⟨cplOk, v.toNat, false⟩
    | (_, some code) => abortLog s a code addr 0

def execBar0Access (a : HostAcc) (s : State) : Out := .next (bar0 s a)

/-- The physical parts of an access: (physical address, bit address, length); or the code and address of the first part that
translation refuses, none where it waits at its MTU's input (R118). A host access never parks. -/
def hostParts (s : State) (ctx a n kind : Nat) : List Nat → State × (List (Nat × Nat × Nat) ⊕ Option (Nat × Nat))
  | [] => (s, .inl [])
  | k :: ks =>
    let (lo, len) := sectorPart a n k
    match translate s ctx lo gHost kind false with
    | (s, .err code) => (s, .inr (some (code, lo)))
    | (s, .park _) => (s, .inr (if slotsFull s (homeMtu lo) gHost then none else some (eUnmapped, lo)))
    | (s, .ok p) => match hostParts s ctx a n kind ks with
      | (s, .inl r) => (s, .inl ((p, lo, len) :: r))
      | (s, .inr e) => (s, .inr e)

/-- Read physical parts: the data, with zeros for an uncorrectable sector, which is logged; and whether one was met. -/
def readPhys (s : State) (a ctx : Nat) : List (Nat × Nat × Nat) → State × Nat × Bool
  | [] => (s, 0, false)
  | (p, lo, len) :: r =>
    if s.hbmBad.contains (p / 256) then
      let (s, v, _) := readPhys (logErr s eEcc (lo / 256 * 256) ctx 5 0 0) a ctx r
      (s, v, true)
    else
      let v0 := hbmBits s.hbm p len
      let (s, v, e) := readPhys s a ctx r
      (s, v0 <<< (lo - a) + v, e)

/-- Write physical parts: in any order, and not at one time (R61): a free choice leaves a part for later. A write of one part performs
at once. -/
def writePhys (s : State) (a ctx v : Nat) (one : Bool) : List (Nat × Nat × Nat) → State
  | [] => s
  | (p, lo, len) :: r =>
    let (s, d) := if one then (s, 0) else ((draw s).1, Config.pick (draw s).2 % 2)
    let x := v >>> (lo - a) % 2 ^ len
    writePhys (if d = 1 then { s with hl := { s.hl with late := s.hl.late ++ [(p, lo, ctx, len, x)] } } else putPart s p lo ctx len x)
      a ctx v one r

/-- The host's own copy of a line needs no back-invalidate for the host's own CXL.mem write (R383). -/
def forgetLines (s : State) (ps : List (Nat × Nat × Nat)) : State :=
  { s with hl := { s.hl with lines := s.hl.lines.filter (fun l => !ps.any (fun p => p.1 / 512 == l)) } }

/-- Lines that the host may hold after a CXL.mem read (R383). -/
def holdLines (s : State) (ps : List (Nat × Nat × Nat)) : State :=
  { s with hl := { s.hl with lines := s.hl.lines ++ ((ps.map (fun p => p.1 / 512)).eraseDups.filter (fun l => !s.hl.lines.contains l)) } }

/-- The BAR2 window: context HL_CTX, group 5 (R382, R383). -/
def hostMem (s : State) (a : HostAcc) (cxl : Bool) : State :=
  let addr := 2 ^ 52 + 8 * a.off
  let n := 8 * a.len
  if !reaches s a bar2Size then s
  else if !s.hl.ready then abort s a
  else match hostParts (landHost s) s.hl.ctx addr n (b2n a.wr) (sectors addr n) with
    | (_, .inr none) => s
    | (s, .inr (some (code, lo))) => abortLog s a code lo s.hl.ctx
    | (s, .inl ps) =>
      if a.wr then writePhys (if cxl then forgetLines s ps else s) addr s.hl.ctx a.data (ps.length == 1) ps
      else
        let (s, v, e) := readPhys s addr s.hl.ctx ps
        complete (if cxl then holdLines s ps else s) a.port ⟨cplOk, v, e⟩

/-- BAR2_ACCESS (R382). -/
def execBar2Access (a : HostAcc) (s : State) : Out := .next (hostMem s a false)

/-- CXL_MEM_ACCESS (R383): through a port on which CXL is active. -/
def execCxlMemAccess (a : HostAcc) (s : State) : Out :=
  .next (if (portOf' s a.port).cxl then hostMem s a true else s)

/-- A physical range inside one HL_P2P range (R382, R384). -/
def inP2p (s : State) (p n : Nat) : Bool :=
  (span 0 4).any (fun i => decide (Tab.get 0 s.hl.p2p (2 * i) ≤ p) && decide (p + n ≤ Tab.get 0 s.hl.p2p (2 * i + 1)))

/-- Physical parts of a physical access. -/
def physParts (p n : Nat) : List (Nat × Nat × Nat) :=
  (sectors p n).map (fun k => ((sectorPart p n k).1, (sectorPart p n k).1, (sectorPart p n k).2))

/-- BAR4: physical memory inside an HL_P2P range. The code of an access outside every range is free (log entry 17). -/
def bar4 (s : State) (a : HostAcc) : State :=
  let p := 8 * a.off
  let n := 8 * a.len
  if !reaches s a bar2Size then s
  else if !s.hl.ready then abort s a
  else if !inP2p s p n then abortLog (draw s).1 a (Config.pick (draw s).2 % 256) p 0
  else if a.wr then writePhys (landHost s) p 0 a.data ((physParts p n).length == 1) (physParts p n)
  else
    let (s, v, e) := readPhys (landHost s) p 0 (physParts p n)
    complete s a.port ⟨cplOk, v, e⟩

/-- BAR4_ACCESS (R382). -/
def execBar4Access (a : HostAcc) (s : State) : Out := .next (bar4 s a)

/-! ### Power (R386) -/

def tthrot (s : State) : Nat := fld s.pow.therm 7 0
def ttrip (s : State) : Nat := fld s.pow.therm 15 8

/-- Ask every die for a level, which takes effect at the next boundary (R102). -/
def askLevels (s : State) (f : Disp → Nat) : State :=
  (span 0 4).foldl (fun s d => s.setDie d { s.die d with want := f (s.die d) }) s

/-- Device time has advanced by `n` ns since `t`. -/
def since (s : State) (t : Word) (n : Nat) : Bool := decide (t.toNat + n ≤ s.fe.time.toNat)

/-- P exceeds the cap; P is more than 50 W below it (R386). -/
def isAboveCap (s : State) : Bool := decide (s.pow.cap * s.pow.samples.length < s.pow.samples.sum)
def isBelowCap (s : State) : Bool := decide (s.pow.samples.sum + 50 * s.pow.samples.length < s.pow.cap * s.pow.samples.length)

/-- A sample of package power and die temperatures. A die above the trip temperature takes every level to 48. -/
def samplePower (s : State) (watts : Nat) (t : List Nat) : State :=
  let s := (span 0 4).foldl (fun s d => s.setDie d { s.die d with temp := (t[d]?).getD 0 }) s
  let s := { s with pow := { s.pow with samples := (watts :: s.pow.samples).take 1000, sampled := s.fe.time } }
  if t.any (fun x => decide (ttrip s < x)) then
    askLevels { s with pow := { s.pow with hot := some (s.pow.hot.getD s.fe.time) } } (fun _ => 48)
  else { s with pow := { s.pow with hot := none } }

/-- POWER_SAMPLE (R386): every 1 µs. -/
def execPowerSample (watts t0 t1 t2 t3 : Nat) (s : State) : Out :=
  .next (if since s s.pow.sampled 1000 then samplePower s watts [t0, t1, t2, t3] else s)

/-- LEVEL_RAISE_TICK (R386): every level rises by 1 every 10 µs, up to 48. -/
def execLevelRaiseTick (s : State) : Out :=
  .next (if isAboveCap s && since s s.pow.lastUp 10000 then
    askLevels { s with pow := { s.pow with lastUp := s.fe.time } } (fun d => min 48 (d.want + 1))
  else s)

/-- LEVEL_LOWER_TICK (R386): every level falls by 1 every 100 µs, down to its die's thermal floor. -/
def execLevelLowerTick (s : State) : Out :=
  .next (if isBelowCap s && s.pow.hot.isNone && since s s.pow.lastDown 100000 then
    askLevels { s with pow := { s.pow with lastDown := s.fe.time } } (fun d => max d.floor (d.want - 1))
  else s)

/-- THERMAL_FLOOR_TICK (R386): the floor of a hot die rises every 10 µs, and its level with it; it falls every 100 µs once the
die has cooled by 5 °C. -/
def execThermalFloorTick (die : Nat) (s : State) : Out :=
  let x := s.die die
  .next (if tthrot s < x.temp then
      (if since s x.floorAt 10000 then
        let f := min 48 (x.floor + 1)
        s.setDie die { x with floor := f, want := max x.want f, floorAt := s.fe.time }
      else s)
    else if x.temp + 5 < tthrot s then
      (if since s x.floorAt 100000 then s.setDie die { x with floor := x.floor - 1, floorAt := s.fe.time } else s)
    else s)

/-- Ten milliseconds above the trip temperature (R386). The record's address and source are free (log entry 17). -/
def trip (s : State) : State :=
  match s.pow.hot with
  | none => s
  | some t =>
    if s.pow.tripped || !since s t 10000000 then s
    else
      let (s, a) := freeAddr s
      let (s, n) := draw s
      logErr { s with pow := { s.pow with tripped := true } } eThermtrip a 0 (Config.pick n % 7) (Config.pick n / 7 % 2 ^ 40) 0

/-- THERMTRIP (R386). -/
def execThermtrip (s : State) : Out := .next (trip s)

/-! ### The notify aperture (R365) -/

/-- NOTIFY_UNGATE (R365). -/
def execNotifyUngate (s : State) : Out := .next (if s.sync.gated then ungate s else s)

end Sys2Proof.Machine
end

