-- ==== Sys2Proof/Machine/Scalar.lean ====
section
/-!
DEFINITION. The integer units IA0 and IA1 (R165, R166), the multiplier and divider IM (R167 to R169), and the pointer
unit BP (R170 to R172). Each operation takes its trigger; `op` answers how it ends in its bundle and `exec` is the step.
-/
namespace Sys2Proof.Machine

/-! ### IA (R165) -/

/-- Port `.a` of the triggered IA unit, and `bits(k, 2, 0)` of its `.k`. -/
def iaA (t : Trig) (s : State) : Word := portOf t s (pIAa t.copy)
def iaK (t : Trig) (s : State) : Word := portOf t s (pIAk t.copy)

/-- An IA result reaches the unit's latch at t+2. -/
def iaRes (t : Trig) (s : State) (v : Word) : Res := .done (plan s t.core 2 rReg (.lat (lIA t.copy) v))

/-- An IA compare writes its condition register at t+2. -/
def iaCond (t : Trig) (s : State) (b : Bool) : Res := condWrite t s (fld (iaK t s) 2 0) (minorIA t.copy) b

def opIaAdd (t : Trig) (s : State) : Res := iaRes t s (iaA t s + t.y)
def opIaSub (t : Trig) (s : State) : Res := iaRes t s (iaA t s - t.y)
def opIaAnd (t : Trig) (s : State) : Res := iaRes t s (iaA t s &&& t.y)
def opIaOr (t : Trig) (s : State) : Res := iaRes t s (iaA t s ||| t.y)
def opIaXor (t : Trig) (s : State) : Res := iaRes t s (iaA t s ^^^ t.y)
def opIaAndn (t : Trig) (s : State) : Res := iaRes t s (iaA t s &&& ~~~t.y)
def opIaShl (t : Trig) (s : State) : Res := iaRes t s (iaA t s <<< fld t.y 5 0)
def opIaShr (t : Trig) (s : State) : Res := iaRes t s (iaA t s >>> fld t.y 5 0)
def opIaSar (t : Trig) (s : State) : Res := iaRes t s ((iaA t s).sshiftRight (fld t.y 5 0))
def opIaRol (t : Trig) (s : State) : Res := iaRes t s ((iaA t s).rotateLeft (fld t.y 5 0))
def opIaMin (t : Trig) (s : State) : Res := iaRes t s (if sleW (iaA t s) t.y then iaA t s else t.y)
def opIaMax (t : Trig) (s : State) : Res := iaRes t s (if sleW t.y (iaA t s) then iaA t s else t.y)
def opIaMinu (t : Trig) (s : State) : Res := iaRes t s (if uleW (iaA t s) t.y then iaA t s else t.y)
def opIaMaxu (t : Trig) (s : State) : Res := iaRes t s (if uleW t.y (iaA t s) then iaA t s else t.y)
def opIaNeg (t : Trig) (s : State) : Res := iaRes t s (word (-(sgn t.y)))
def opIaAbs (t : Trig) (s : State) : Res := iaRes t s (word ((sgn t.y).natAbs : Int))
def opIaClz (t : Trig) (s : State) : Res := iaRes t s (wordN (leadZeros t.y.toNat 64))
def opIaCtz (t : Trig) (s : State) : Res := iaRes t s (wordN (trailZeros t.y.toNat 64))
def opIaPopc (t : Trig) (s : State) : Res := iaRes t s (wordN (popCount t.y.toNat 64))
def opIaSxt (t : Trig) (s : State) : Res := iaRes t s (word (sext t.y.toNat (fld (iaK t s) 5 0 + 1)))
def opIaSel (t : Trig) (s : State) : Res := iaRes t s (if condBit (s.core t.core) (fld (iaK t s) 2 0) then iaA t s else t.y)
def opIaCmpeq (t : Trig) (s : State) : Res := iaCond t s (iaA t s == t.y)
def opIaCmpne (t : Trig) (s : State) : Res := iaCond t s (iaA t s != t.y)
def opIaCmplt (t : Trig) (s : State) : Res := iaCond t s (sltW (iaA t s) t.y)
def opIaCmple (t : Trig) (s : State) : Res := iaCond t s (sleW (iaA t s) t.y)
def opIaCmpltu (t : Trig) (s : State) : Res := iaCond t s (ultW (iaA t s) t.y)
def opIaCmpleu (t : Trig) (s : State) : Res := iaCond t s (uleW (iaA t s) t.y)
def opIaTst (t : Trig) (s : State) : Res := iaCond t s (iaA t s &&& t.y != 0)

def execIaAdd (t : Trig) (s : State) : Out := finish s t.core (opIaAdd t s)
def execIaSub (t : Trig) (s : State) : Out := finish s t.core (opIaSub t s)
def execIaAnd (t : Trig) (s : State) : Out := finish s t.core (opIaAnd t s)
def execIaOr (t : Trig) (s : State) : Out := finish s t.core (opIaOr t s)
def execIaXor (t : Trig) (s : State) : Out := finish s t.core (opIaXor t s)
def execIaAndn (t : Trig) (s : State) : Out := finish s t.core (opIaAndn t s)
def execIaShl (t : Trig) (s : State) : Out := finish s t.core (opIaShl t s)
def execIaShr (t : Trig) (s : State) : Out := finish s t.core (opIaShr t s)
def execIaSar (t : Trig) (s : State) : Out := finish s t.core (opIaSar t s)
def execIaRol (t : Trig) (s : State) : Out := finish s t.core (opIaRol t s)
def execIaMin (t : Trig) (s : State) : Out := finish s t.core (opIaMin t s)
def execIaMax (t : Trig) (s : State) : Out := finish s t.core (opIaMax t s)
def execIaMinu (t : Trig) (s : State) : Out := finish s t.core (opIaMinu t s)
def execIaMaxu (t : Trig) (s : State) : Out := finish s t.core (opIaMaxu t s)
def execIaNeg (t : Trig) (s : State) : Out := finish s t.core (opIaNeg t s)
def execIaAbs (t : Trig) (s : State) : Out := finish s t.core (opIaAbs t s)
def execIaClz (t : Trig) (s : State) : Out := finish s t.core (opIaClz t s)
def execIaCtz (t : Trig) (s : State) : Out := finish s t.core (opIaCtz t s)
def execIaPopc (t : Trig) (s : State) : Out := finish s t.core (opIaPopc t s)
def execIaSxt (t : Trig) (s : State) : Out := finish s t.core (opIaSxt t s)
def execIaSel (t : Trig) (s : State) : Out := finish s t.core (opIaSel t s)
def execIaCmpeq (t : Trig) (s : State) : Out := finish s t.core (opIaCmpeq t s)
def execIaCmpne (t : Trig) (s : State) : Out := finish s t.core (opIaCmpne t s)
def execIaCmplt (t : Trig) (s : State) : Out := finish s t.core (opIaCmplt t s)
def execIaCmple (t : Trig) (s : State) : Out := finish s t.core (opIaCmple t s)
def execIaCmpltu (t : Trig) (s : State) : Out := finish s t.core (opIaCmpltu t s)
def execIaCmpleu (t : Trig) (s : State) : Out := finish s t.core (opIaCmpleu t s)
def execIaTst (t : Trig) (s : State) : Out := finish s t.core (opIaTst t s)

/-! ### IM (R167, R168) -/

def imA (t : Trig) (s : State) : Word := portOf t s pIMa

/-- A product's half reaches IM.r at t+4. -/
def imRes (t : Trig) (s : State) (v : Word) : Res := .done (plan s t.core 4 rReg (.lat lIM v))

/-- Bits 127:64 of a product in two's complement. -/
def highHalf (x : Int) : Word := word (x / 2 ^ 64)

def opImMul (t : Trig) (s : State) : Res := imRes t s (imA t s * t.y)
def opImMulh (t : Trig) (s : State) : Res := imRes t s (highHalf (sgn (imA t s) * sgn t.y))
def opImMulhu (t : Trig) (s : State) : Res := imRes t s (highHalf ((imA t s).toNat * t.y.toNat))
def opImMulhsu (t : Trig) (s : State) : Res := imRes t s (highHalf (sgn (imA t s) * t.y.toNat))

/-- Bit length of a magnitude. -/
def bitLen (x : Nat) : Nat := 64 + 1 - leadZeros x 65

/-- Domain cycles of a divide whose quotient has magnitude `q` (R169). -/
def divCycles (q : Nat) : Nat := 6 + ceilDiv (bitLen q - 4) 2

/-- Quotient and remainder, signed or unsigned, with the borderline cases of R168, and the domain cycles. -/
def divResult (signed : Bool) (a y : Word) : Word × Word × Nat :=
  if y = 0 then (0xFFFFFFFFFFFFFFFF#64, a, 6)
  else if signed then
    let q := truncDiv (sgn a) (sgn y)
    (word q, word (sgn a - sgn y * q), divCycles q.natAbs)
  else (wordN (a.toNat / y.toNat), wordN (a.toNat % y.toNat), divCycles (a.toNat / y.toNat))

/-- A divide issues: its register is empty until the reply; a second one waits for the first (R168, R169). -/
def opDivide (t : Trig) (s : State) (signed rem : Bool) : Res :=
  let x := s.core t.core
  let r := fld (portOf t s pIMd) 5 0
  if x.divide.isSome then .stall
  else withReg s t.core r fun _ =>
    let (q, m, n) := divResult signed (imA t s) t.y
    .done (s.setCore t.core { x with dup := x.dup.emptyG r, divide := some ⟨r, if rem then m else q, n, x.cyc, false⟩ })

def opImDiv (t : Trig) (s : State) : Res := opDivide t s true false
def opImDivu (t : Trig) (s : State) : Res := opDivide t s false false
def opImRem (t : Trig) (s : State) : Res := opDivide t s true true
def opImRemu (t : Trig) (s : State) : Res := opDivide t s false true

def execImMul (t : Trig) (s : State) : Out := finish s t.core (opImMul t s)
def execImMulh (t : Trig) (s : State) : Out := finish s t.core (opImMulh t s)
def execImMulhu (t : Trig) (s : State) : Out := finish s t.core (opImMulhu t s)
def execImMulhsu (t : Trig) (s : State) : Out := finish s t.core (opImMulhsu t s)
def execImDiv (t : Trig) (s : State) : Out := finish s t.core (opImDiv t s)
def execImDivu (t : Trig) (s : State) : Out := finish s t.core (opImDivu t s)
def execImRem (t : Trig) (s : State) : Out := finish s t.core (opImRem t s)
def execImRemu (t : Trig) (s : State) : Out := finish s t.core (opImRemu t s)

/-- The divider's reply fills its register when its last domain cycle has passed (R169); a discarded reply only frees
the divider. -/
def divideReplyNow (x : Core) : Core :=
  match x.divide with
  | some d =>
    if d.left = 0 then
      let x := { x with divide := none }
      if d.discard then x else fillG x d.iss d.reg d.v
    else x
  | none => x

/-- DIVIDE_REPLY (R169). -/
def execDivideReply (core : Nat) (s : State) : Out := .next (s.onCore core divideReplyNow)

/-! ### BP (R170 to R172) -/

def bpA (t : Trig) (s : State) : Word := portOf t s pBPa
def bpK (t : Trig) (s : State) : Word := portOf t s pBPk
def bpV (t : Trig) (s : State) : Wide := (s.core t.core).dup.wport pBPv
def bpCr (t : Trig) (s : State) : Nat := fld (bpK t s) 10 8
def bpWc (t : Trig) (s : State) : Nat := fld (bpK t s) 6 4
def bpCls (t : Trig) (s : State) : Nat := fld (bpK t s) 3 0

/-- A pointer or element result reaches BP.r at t+2. -/
def bpRes (t : Trig) (s : State) (v : Word) : Res := .done (plan s t.core 2 rReg (.lat lBP v))

/-- A pointer moved by a number of elements; it stays malformed (R171). -/
def ptrStep (a : Word) (n : Int) : Word :=
  let r := mkPtr (ptrClass a) (ptrWc a) (ptrAddr a + n * ptrWidth a)
  if ptrMal a then malform r else r

def opBpPadd (t : Trig) (s : State) : Res := bpRes t s (ptrStep (bpA t s) (sgn t.y))
def opBpPsub (t : Trig) (s : State) : Res := bpRes t s (ptrStep (bpA t s) (-(sgn t.y)))
def opBpPdiff (t : Trig) (s : State) : Res :=
  bpRes t s (word (truncDiv ((ptrAddr (bpA t s) : Int) - ptrAddr t.y) (ptrWidth (bpA t s))))
def opBpPwset (t : Trig) (s : State) : Res := bpRes t s (setFld t.y 59 57 (bpWc t s))
def opBpPcset (t : Trig) (s : State) : Res := bpRes t s (setFld t.y 63 60 (bpCls t s))
def opBpPchk (t : Trig) (s : State) : Res :=
  condWrite t s (bpCr t s) minorBP (!ptrMal t.y && chkAligned t.y (flag (bpK t s) 11))
def opBpPmal (t : Trig) (s : State) : Res := condWrite t s (bpCr t s) minorBP (ptrMal t.y)
def opBpPbyte (t : Trig) (s : State) : Res := bpRes t s (wordN (ptrAddr t.y / 8))
def opBpPfrom (t : Trig) (s : State) : Res := bpRes t s (mkPtr (bpCls t s) (bpWc t s) t.y.toNat)

/-- The element index of R172, or the trap beyond the count. -/
def bpElem (t : Trig) (s : State) (i : Nat) (k : Nat → Nat → Res) : Res :=
  let w := widthOf (bpWc t s)
  if 1024 / w ≤ i then .trap (trapIllegal t.slot) else k i w

def opBpElget (t : Trig) (s : State) : Res :=
  bpElem t s t.y.toNat fun i w => bpRes t s (wordN (fld (bpV t s) (i * w + w - 1) (i * w)))
def opBpElsgn (t : Trig) (s : State) : Res :=
  bpElem t s t.y.toNat fun i w => bpRes t s (word (sext (fld (bpV t s) (i * w + w - 1) (i * w)) w))
def opBpElins (t : Trig) (s : State) : Res :=
  bpElem t s (bpA t s).toNat fun i w =>
    .done (plan s t.core 3 rReg (.wlat lBPw (setFld (bpV t s) (i * w + w - 1) (i * w) t.y.toNat)))

def execBpPadd (t : Trig) (s : State) : Out := finish s t.core (opBpPadd t s)
def execBpPsub (t : Trig) (s : State) : Out := finish s t.core (opBpPsub t s)
def execBpPdiff (t : Trig) (s : State) : Out := finish s t.core (opBpPdiff t s)
def execBpPwset (t : Trig) (s : State) : Out := finish s t.core (opBpPwset t s)
def execBpPcset (t : Trig) (s : State) : Out := finish s t.core (opBpPcset t s)
def execBpPchk (t : Trig) (s : State) : Out := finish s t.core (opBpPchk t s)
def execBpPmal (t : Trig) (s : State) : Out := finish s t.core (opBpPmal t s)
def execBpPbyte (t : Trig) (s : State) : Out := finish s t.core (opBpPbyte t s)
def execBpPfrom (t : Trig) (s : State) : Out := finish s t.core (opBpPfrom t s)
def execBpElget (t : Trig) (s : State) : Out := finish s t.core (opBpElget t s)
def execBpElsgn (t : Trig) (s : State) : Out := finish s t.core (opBpElsgn t s)
def execBpElins (t : Trig) (s : State) : Out := finish s t.core (opBpElins t s)

end Sys2Proof.Machine
end

