-- ==== Sys2Proof/Machine/Vector.lean ====
section
/-!
DEFINITION. The vector unit VX (R277 to R284) and the conversion unit VC (R285 to R290): lanes, events and the
illegal settings of R293.
-/
namespace Sys2Proof.Machine

/-! ### Lanes (R277) -/

/-- Lane `i` of width `w`. -/
def laneAt (x : Wide) (w i : Nat) : Nat := fld x (w * i + w - 1) (w * i)

/-- Number of lanes of width `w`. -/
def laneCount (w : Nat) : Nat := 1024 / w

/-- The exact integer of a lane code (R51). -/
def laneInt (f : Fmt) (code : Nat) : Int := if f.isS then sext code f.width else ((code % 2 ^ f.width : Nat) : Int)

/-- A vector event (R291): the operation, the lane, the counters at the start of the bundle. -/
def vecEvent (d : Dup) (op lane : Nat) : Word := wordN (3 <<< 60 + op <<< 47 + (lane % 128) <<< 40 + d.ctrs)

/-- The first lane with an event in a list of lane results. -/
def firstEvent (rs : List (Nat × Bool)) : Option Nat := rs.findIdx? (·.2)

/-- A vector operation's event joins the queue at its result offset (R291): VX before VC. -/
def vecPost (t : WTrig) (s : State) (off minor op : Nat) (ev : Option Nat) : State :=
  match ev with
  | some l => plan s t.core off (rEvent minor) (.event (vecEvent (s.core t.core).dup op l))
  | none => s

def wportOf (t : WTrig) (s : State) (n : Nat) : Wide := (s.core t.core).dup.wport n
def wmode (t : WTrig) (s : State) (n : Nat) : Word := (s.core t.core).dup.port n

/-! ### VX (R278 to R284) -/

def vxA (t : WTrig) (s : State) : Wide := wportOf t s pVXa
def vxB (t : WTrig) (s : State) : Wide := wportOf t s pVXb
def vxM (t : WTrig) (s : State) : Word := wmode t s pVXm

/-- The format sets C and I of R279. -/
def Fmt.isC (f : Fmt) : Bool := f.isF || (f.isInt && f.width != 8)

/-- Settings of a lane operation: format, rounding mode, saturation. -/
structure VxSet where
  f : Fmt
  mode : Nat
  sat : Bool
  deriving DecidableEq, Repr

/-- The settings that VX.m gives, if its format is one of the operation's. -/
def vxSet (m : Word) (ok : Fmt → Bool) : Option VxSet :=
  match Fmt.ofCode (fld m 4 0) with
  | some f => if ok f then some ⟨f, fld m 6 5, flag m 7⟩ else none
  | none => none

/-- All lanes of a result: `g e A B Y` for each. -/
def vxLanes (e : VxSet) (g : VxSet → Nat → Nat → Nat → Nat × Bool) (a b y : Wide) : List (Nat × Bool) :=
  (span 0 (laneCount e.f.width)).map
    (fun i => g e (laneAt a e.f.width i) (laneAt b e.f.width i) (laneAt y e.f.width i))

/-- A lane operation: VX.r and at most one event, at t + `off`. -/
def vxOp (t : WTrig) (s : State) (op off : Nat) (ok : Fmt → Bool) (g : VxSet → Nat → Nat → Nat → Nat × Bool) : Res :=
  match vxSet (vxM t s) ok with
  | none => .trap (trapIllegal t.slot)
  | some e =>
    let rs := vxLanes e g (vxA t s) (vxB t s) t.y
    .done (plan (vecPost t s off 1 op (firstEvent rs)) t.core off rReg
      (.wlat lVXr (BitVec.ofNat 1024 (packList e.f.width (rs.map (·.1))))))

/-- A float result: converted once (R280, R281). -/
def laneConv (e : VxSet) (v : Val) : Nat × Bool :=
  let r := convert v e.f e.mode e.sat 0
  (r.code, r.event)

def laneFadd (e : VxSet) (a _b y : Nat) : Nat × Bool := laneConv e (addVal (floatVal e.f a) (floatVal e.f y) e.mode)
def laneFsub (e : VxSet) (a _b y : Nat) : Nat × Bool := laneConv e (addVal (floatVal e.f a) (floatVal e.f y).negate e.mode)
def laneFmul (e : VxSet) (a _b y : Nat) : Nat × Bool := laneConv e (mulVal (floatVal e.f a) (floatVal e.f y))
def laneFma (e : VxSet) (a b y : Nat) : Nat × Bool :=
  laneConv e (addVal (mulVal (floatVal e.f a) (floatVal e.f b)) (floatVal e.f y) e.mode)

/-- fmin and fmax give an operand itself; equal lanes give A (R280). -/
def laneFmin (e : VxSet) (a _b y : Nat) : Nat × Bool :=
  if (floatVal e.f a).isNan || (floatVal e.f y).isNan then (e.f.nanCode, false)
  else if valLt (floatVal e.f y) (floatVal e.f a) then (y, false) else (a, false)
def laneFmax (e : VxSet) (a _b y : Nat) : Nat × Bool :=
  if (floatVal e.f a).isNan || (floatVal e.f y).isNan then (e.f.nanCode, false)
  else if valLt (floatVal e.f a) (floatVal e.f y) then (y, false) else (a, false)
def laneFabs (e : VxSet) (_a _b y : Nat) : Nat × Bool :=
  if (floatVal e.f y).isNan then (e.f.nanCode, false) else (y % 2 ^ (e.f.width - 1), false)
def laneFneg (e : VxSet) (_a _b y : Nat) : Nat × Bool :=
  if (floatVal e.f y).isNan then (e.f.nanCode, false) else (y ^^^ 2 ^ (e.f.width - 1), false)
def laneExp2 (e : VxSet) (_a _b y : Nat) : Nat × Bool := laneConv e (exp2Val (floatVal e.f y))
def laneRcp (e : VxSet) (_a _b y : Nat) : Nat × Bool := laneConv e (rcpVal (floatVal e.f y))
def laneRsq (e : VxSet) (_a _b y : Nat) : Nat × Bool := laneConv e (rsqVal (floatVal e.f y))

/-- Integer lane results: wrapped, or clamped with an event (R284). -/
def laneWrap (e : VxSet) (v : Int) : Nat × Bool :=
  if e.sat then let (y, o) := clamp v (intRange e.f); (wrapw y e.f.width, o) else (wrapw v e.f.width, false)
def laneIadd (e : VxSet) (a _b y : Nat) : Nat × Bool := laneWrap e (laneInt e.f a + laneInt e.f y)
def laneIsub (e : VxSet) (a _b y : Nat) : Nat × Bool := laneWrap e (laneInt e.f a - laneInt e.f y)
def laneImul (e : VxSet) (a _b y : Nat) : Nat × Bool := laneWrap e (laneInt e.f a * laneInt e.f y)

def opVxFadd (t : WTrig) (s : State) : Res := vxOp t s 0 4 Fmt.isF laneFadd
def opVxFsub (t : WTrig) (s : State) : Res := vxOp t s 1 4 Fmt.isF laneFsub
def opVxFmul (t : WTrig) (s : State) : Res := vxOp t s 2 4 Fmt.isF laneFmul
def opVxFma (t : WTrig) (s : State) : Res := vxOp t s 3 4 Fmt.isF laneFma
def opVxFmin (t : WTrig) (s : State) : Res := vxOp t s 4 4 Fmt.isF laneFmin
def opVxFmax (t : WTrig) (s : State) : Res := vxOp t s 5 4 Fmt.isF laneFmax
def opVxFabs (t : WTrig) (s : State) : Res := vxOp t s 6 4 Fmt.isF laneFabs
def opVxFneg (t : WTrig) (s : State) : Res := vxOp t s 7 4 Fmt.isF laneFneg
def opVxExp2 (t : WTrig) (s : State) : Res := vxOp t s 8 6 Fmt.isF laneExp2
def opVxRcp (t : WTrig) (s : State) : Res := vxOp t s 9 6 Fmt.isF laneRcp
def opVxRsq (t : WTrig) (s : State) : Res := vxOp t s 10 6 Fmt.isF laneRsq
def opVxIadd (t : WTrig) (s : State) : Res := vxOp t s 15 3 Fmt.isInt laneIadd
def opVxIsub (t : WTrig) (s : State) : Res := vxOp t s 16 3 Fmt.isInt laneIsub
def opVxImul (t : WTrig) (s : State) : Res := vxOp t s 17 3 Fmt.isInt laneImul

/-- The granule mask of lane outcomes (R282). -/
def granules (w : Nat) (bs : List Bool) : Nat := packList (w / 16) (bs.map (fun b => if b then 2 ^ (w / 16) - 1 else 0))

/-- A compare writes VX.c at t+3 (R282). -/
def vxCmp (t : WTrig) (s : State) (rel : Val → Val → Bool) : Res :=
  match vxSet (vxM t s) Fmt.isC with
  | none => .trap (trapIllegal t.slot)
  | some e =>
    let w := e.f.width
    let bs := (span 0 (laneCount w)).map
      (fun i => rel (valueOf e.f (laneAt (vxA t s) w i) 0) (valueOf e.f (laneAt t.y w i) 0))
    .done (plan s t.core 3 rReg (.lat lVXc (wordN (granules w bs))))

def opVxCmpeq (t : WTrig) (s : State) : Res := vxCmp t s numEq
def opVxCmplt (t : WTrig) (s : State) : Res := vxCmp t s numLt
def opVxCmple (t : WTrig) (s : State) : Res := vxCmp t s (fun a y => numLt a y || numEq a y)

/-- A result of fixed form in VX.r. -/
def vxPlain (t : WTrig) (s : State) (off : Nat) (v : Wide) : Res := .done (plan s t.core off rReg (.wlat lVXr v))

/-- The mask of sel: each bit of VX.m over its 16-bit granule (R283). -/
def selMask (m : Word) : Wide := BitVec.ofNat 1024 (packList 16 ((span 0 64).map (fun i => if flag m i then 0xFFFF else 0)))

def opVxSel (t : WTrig) (s : State) : Res :=
  let k := selMask (vxM t s)
  vxPlain t s 2 ((vxA t s &&& k) ||| (t.y &&& ~~~k))
def opVxAnd (t : WTrig) (s : State) : Res := vxPlain t s 3 (vxA t s &&& t.y)
def opVxOr (t : WTrig) (s : State) : Res := vxPlain t s 3 (vxA t s ||| t.y)

def execVxFadd (t : WTrig) (s : State) : Out := finish s t.core (opVxFadd t s)
def execVxFsub (t : WTrig) (s : State) : Out := finish s t.core (opVxFsub t s)
def execVxFmul (t : WTrig) (s : State) : Out := finish s t.core (opVxFmul t s)
def execVxFma (t : WTrig) (s : State) : Out := finish s t.core (opVxFma t s)
def execVxFmin (t : WTrig) (s : State) : Out := finish s t.core (opVxFmin t s)
def execVxFmax (t : WTrig) (s : State) : Out := finish s t.core (opVxFmax t s)
def execVxFabs (t : WTrig) (s : State) : Out := finish s t.core (opVxFabs t s)
def execVxFneg (t : WTrig) (s : State) : Out := finish s t.core (opVxFneg t s)
def execVxExp2 (t : WTrig) (s : State) : Out := finish s t.core (opVxExp2 t s)
def execVxRcp (t : WTrig) (s : State) : Out := finish s t.core (opVxRcp t s)
def execVxRsq (t : WTrig) (s : State) : Out := finish s t.core (opVxRsq t s)
def execVxCmpeq (t : WTrig) (s : State) : Out := finish s t.core (opVxCmpeq t s)
def execVxCmplt (t : WTrig) (s : State) : Out := finish s t.core (opVxCmplt t s)
def execVxCmple (t : WTrig) (s : State) : Out := finish s t.core (opVxCmple t s)
def execVxSel (t : WTrig) (s : State) : Out := finish s t.core (opVxSel t s)
def execVxIadd (t : WTrig) (s : State) : Out := finish s t.core (opVxIadd t s)
def execVxIsub (t : WTrig) (s : State) : Out := finish s t.core (opVxIsub t s)
def execVxImul (t : WTrig) (s : State) : Out := finish s t.core (opVxImul t s)
def execVxAnd (t : WTrig) (s : State) : Out := finish s t.core (opVxAnd t s)
def execVxOr (t : WTrig) (s : State) : Out := finish s t.core (opVxOr t s)

/-! ### VC (R285 to R290) -/

def vcA (t : WTrig) (s : State) : Wide := wportOf t s pVCa
def vcB (t : WTrig) (s : State) : Wide := wportOf t s pVCb
def vcM (t : WTrig) (s : State) : Word := wmode t s pVCm

/-- The fields of VC.m. -/
structure VcSet where
  k : Nat
  ty : Nat
  sb : Nat
  h : Nat
  sat : Bool
  mode : Nat
  d : Option Fmt
  f : Option Fmt
  deriving DecidableEq, Repr

def vcSet (m : Word) : VcSet :=
  ⟨fld m 38 32, fld m 25 24, fld m 23 17, fld m 16 13, flag m 12, fld m 11 10, Fmt.ofCode (fld m 9 5),
    Fmt.ofCode (fld m 4 0)⟩

/-- A result in VC.r, with the event of its lanes. -/
def vcRes (t : WTrig) (s : State) (op off : Nat) (v : Nat) (ev : Option Nat) : Res :=
  .done (plan (vecPost t s off 2 (32 + op) ev) t.core off rReg (.wlat lVCr (BitVec.ofNat 1024 v)))

/-- A result in VC.s, with the event of its lanes. -/
def vcScalar (t : WTrig) (s : State) (op off : Nat) (v : Word) (ev : Option Nat) : Res :=
  .done (plan (vecPost t s off 2 (32 + op) ev) t.core off rReg (.lat lVCs v))

/-- `cvt` on lanes (R286): the result and the first lane of y with an event. -/
def cvtLanes (e : VcSet) (f d : Fmt) (a y : Wide) : Nat × Option Nat :=
  let m := max f.width d.width
  let l := 1024 / m
  let narrow := decide (d.width ≤ f.width)
  let from_ := if narrow then 0 else e.h * l
  let rs := (span from_ l).map (fun i =>
    let r := convert (valueOf f (laneAt y f.width i) 0) d e.mode e.sat 0
    (r.code, r.event))
  let v := packList d.width (rs.map (·.1))
  (if narrow then putBits a.toNat (e.h * l * d.width) (l * d.width) v else v, (firstEvent rs).map (· + from_))

def opVcCvt (t : WTrig) (s : State) : Res :=
  let e := vcSet (vcM t s)
  match e.f, e.d with
  | some f, some d =>
    if f.isN || d.isN || decide (max f.width d.width / min f.width d.width ≤ e.h) then .trap (trapIllegal t.slot)
    else
      let (v, ev) := cvtLanes e f d (vcA t s) t.y
      vcRes t s 0 5 v ev
  | _, _ => .trap (trapIllegal t.slot)

/-- Blocks of 32 lanes of a float format. -/
def blocksOf (f : Fmt) : Nat := laneCount f.width / 32

/-- The scale byte of block `k` (R287). -/
def scaleAt (e : VcSet) (b : Wide) (k : Nat) : Nat := fld b (8 * (e.sb + k) + 7) (8 * (e.sb + k))

/-- The settings of pack and unpk: `f` the float format, `n` the packed one (R287, R293). -/
def packLegal (e : VcSet) (f n : Fmt) : Bool :=
  f.isF && n.isN && decide ((e.h + 1) * blocksOf f * (32 * n.width) ≤ 1024) && decide (e.sb + blocksOf f ≤ 128)

def opVcPack (t : WTrig) (s : State) : Res :=
  let e := vcSet (vcM t s)
  match e.f, e.d with
  | some f, some n =>
    if !packLegal e f n then .trap (trapIllegal t.slot)
    else
      let rs := (span 0 (laneCount f.width)).map (fun i =>
        let r := convert (valueOf f (laneAt t.y f.width i) 0) n e.mode true (scaleAt e (vcB t s) (i / 32))
        (r.code, r.event))
      let len := blocksOf f * (32 * n.width)
      vcRes t s 1 5 (putBits (vcA t s).toNat (e.h * len) len (packList n.width (rs.map (·.1)))) (firstEvent rs)
  | _, _ => .trap (trapIllegal t.slot)

def opVcUnpk (t : WTrig) (s : State) : Res :=
  let e := vcSet (vcM t s)
  match e.f, e.d with
  | some n, some f =>
    if !packLegal e f n then .trap (trapIllegal t.slot)
    else
      let base := e.h * (blocksOf f * (32 * n.width))
      let rs := (span 0 (laneCount f.width)).map (fun i =>
        let sc := scaleAt e (vcB t s) (i / 32)
        let code := fld t.y (base + n.width * i + n.width - 1) (base + n.width * i)
        let r := convert (valueOf n code sc) f e.mode e.sat 0
        (r.code, r.event || reservedType n (bits sc 7 6)))
      vcRes t s 3 5 (packList f.width (rs.map (·.1))) (firstEvent rs)
  | _, _ => .trap (trapIllegal t.slot)

/-- The largest magnitude of a grid, in sixteenths (R288). -/
def gmax16 (n : Fmt) (ty : Nat) : Nat :=
  let top := 2 ^ (n.width - 1) - 1
  if ty = 0 then 16 * top else nMag16 n ty top

/-- The absolute value. -/
def Val.magnitude (v : Val) : Val := if v.neg? then v.negate else v

/-- The scale exponent that packs computes for a block (R288). -/
def blockExp (n : Fmt) (ty : Nat) (vs : List Val) : Nat :=
  ((span 0 64).find? (fun (e : Nat) =>
    let top := Val.ofDy false (gmax16 n ty) ((e : Int) - 36)
    vs.all (fun v => v.isNan || !valLt top v.magnitude))).getD 63

def opVcPacks (t : WTrig) (s : State) : Res :=
  let e := vcSet (vcM t s)
  match e.f, e.d with
  | some f, some n =>
    if !f.isF || !n.isN || reservedType n e.ty || decide (128 < e.sb + blocksOf f) then .trap (trapIllegal t.slot)
    else
      let bytes := (span 0 (blocksOf f)).map (fun k =>
        64 * e.ty + blockExp n e.ty ((span (32 * k) 32).map (fun i => floatVal f (laneAt t.y f.width i))))
      vcRes t s 2 5 (putBits (vcA t s).toNat (8 * e.sb) (8 * blocksOf f) (packList 8 bytes)) none
  | _, _ => .trap (trapIllegal t.slot)

/-- One level of the sum tree (R289): f32 codes with the events of their additions. -/
def sumLevel (mode : Nat) (sat : Bool) : List Nat → List (Nat × Bool)
  | a :: b :: r => laneFadd ⟨.f32, mode, sat⟩ a 0 b :: sumLevel mode sat r
  | _ => []

/-- The pairwise tree from level `l`: the sum, and the lowest lane under the first node with an event (R289, R291). -/
def sumTree (mode : Nat) (sat : Bool) (l : Nat) (xs : List Nat) : Nat → Nat × Option Nat
  | 0 => (xs.headD 0, none)
  | n + 1 =>
    if xs.length ≤ 1 then (xs.headD 0, none)
    else
      let rs := sumLevel mode sat xs
      let (v, ev) := sumTree mode sat (l + 1) (rs.map (·.1)) n
      (v, match firstEvent rs with | some i => some (2 ^ (l + 1) * i) | none => ev)

/-- A float lane widened exactly to f32. -/
def widen (f : Fmt) (code : Nat) : Nat := (convert (floatVal f code) .f32 0 false 0).code

def opVcRsum (t : WTrig) (s : State) : Res :=
  let e := vcSet (vcM t s)
  match e.f with
  | some f =>
    let xs := (span 0 (laneCount f.width)).map (laneAt t.y f.width)
    if f.isF then
      let (v, ev) := sumTree e.mode e.sat 0 (xs.map (widen f)) 8
      vcScalar t s 4 6 (wordN v) ev
    else if f.isInt then
      let v := (xs.map (laneInt f)).sum
      let r := laneWrap ⟨if f.isS then .s64 else .w64, 0, e.sat⟩ v
      vcScalar t s 4 6 (wordN r.1) (if r.2 then some 0 else none)
    else .trap (trapIllegal t.slot)
  | none => .trap (trapIllegal t.slot)

/-- The index of the extreme lane: `better` is strict, so the lowest index among equals stands (R289). -/
def extreme (better : Val → Val → Bool) (i best : Nat) (bv : Val) : List Val → Nat
  | [] => best
  | v :: r => if better v bv then extreme better (i + 1) i v r else extreme better (i + 1) best bv r

/-- rmax and rmin (R289). -/
def vcExtreme (t : WTrig) (s : State) (op : Nat) (better : Val → Val → Bool) : Res :=
  match (vcSet (vcM t s)).f with
  | some f =>
    if !(f.isF || (f.isInt && f.width != 64)) then .trap (trapIllegal t.slot)
    else
      let xs := (span 0 (laneCount f.width)).map (laneAt t.y f.width)
      let vs := xs.map (fun c => valueOf f c 0)
      let r := match vs.findIdx? Val.isNan with
        | some i => i * 2 ^ 32 + 0x7FC00000
        | none =>
          let i := extreme better 1 0 (vs.headD .nan) vs.tail
          let c := xs.getD i 0
          i * 2 ^ 32 + (if f.isF then widen f c else wrapw (laneInt f c) 32)
      vcScalar t s op 6 (wordN r) none
  | none => .trap (trapIllegal t.slot)

def opVcRmax (t : WTrig) (s : State) : Res := vcExtreme t s 5 (fun v b => valLt b v)
def opVcRmin (t : WTrig) (s : State) : Res := vcExtreme t s 6 (fun v b => valLt v b)

/-- The lane width of a rearranging operation; a scaled format is illegal (R290, R293). -/
def rearrange (t : WTrig) (s : State) (k : VcSet → Fmt → Res) : Res :=
  let e := vcSet (vcM t s)
  match e.f with
  | some f => if f.isN then .trap (trapIllegal t.slot) else k e f
  | none => .trap (trapIllegal t.slot)

/-- Lane `i` of the 2n lanes of y followed by those of VC.b. -/
def lane2 (t : WTrig) (s : State) (w i : Nat) : Nat :=
  if i < laneCount w then laneAt t.y w i else laneAt (vcB t s) w (i - laneCount w)

/-- VC.r from a function of the lane index, at t+3. -/
def vcArrange (t : WTrig) (s : State) (op w : Nat) (g : Nat → Nat) : Res :=
  vcRes t s op 3 (packList w ((span 0 (laneCount w)).map g)) none

def opVcShuf (t : WTrig) (s : State) : Res :=
  rearrange t s fun _ f =>
    let w := f.width
    vcArrange t s 7 w (fun i => lane2 t s w (laneAt (vcA t s) w i % (2 * laneCount w)))
def opVcBcast (t : WTrig) (s : State) : Res :=
  rearrange t s fun e f =>
    if laneCount f.width ≤ e.k then .trap (trapIllegal t.slot)
    else vcArrange t s 8 f.width (fun _ => laneAt t.y f.width e.k)
def opVcRot (t : WTrig) (s : State) : Res :=
  rearrange t s fun e f =>
    if laneCount f.width ≤ e.k then .trap (trapIllegal t.slot)
    else vcArrange t s 9 f.width (fun i => laneAt t.y f.width ((i + e.k) % laneCount f.width))
def opVcZip (t : WTrig) (s : State) : Res :=
  rearrange t s fun e f =>
    if 1 < e.h then .trap (trapIllegal t.slot)
    else vcArrange t s 10 f.width (fun i =>
      let j := e.h * (laneCount f.width / 2) + i / 2
      if i % 2 = 0 then laneAt t.y f.width j else laneAt (vcB t s) f.width j)
def opVcUnzip (t : WTrig) (s : State) : Res :=
  rearrange t s fun e f =>
    if 1 < e.h then .trap (trapIllegal t.slot)
    else vcArrange t s 11 f.width (fun i => lane2 t s f.width (2 * i + e.h))
def opVcLane (t : WTrig) (s : State) : Res :=
  rearrange t s fun e f =>
    if laneCount f.width ≤ e.k then .trap (trapIllegal t.slot)
    else
      let c := laneAt t.y f.width e.k
      vcScalar t s 12 3 (if f.isS then word (sext c f.width) else wordN c) none

/-- The byte mask of merge. -/
def mergeMask (b : Wide) : Wide :=
  BitVec.ofNat 1024 (packList 8 ((span 0 128).map (fun i => if flag b i then 0xFF else 0)))

def opVcMerge (t : WTrig) (s : State) : Res :=
  let k := mergeMask (vcB t s)
  vcRes t s 13 3 ((t.y &&& k) ||| (vcA t s &&& ~~~k)).toNat none

def execVcCvt (t : WTrig) (s : State) : Out := finish s t.core (opVcCvt t s)
def execVcPack (t : WTrig) (s : State) : Out := finish s t.core (opVcPack t s)
def execVcPacks (t : WTrig) (s : State) : Out := finish s t.core (opVcPacks t s)
def execVcUnpk (t : WTrig) (s : State) : Out := finish s t.core (opVcUnpk t s)
def execVcRsum (t : WTrig) (s : State) : Out := finish s t.core (opVcRsum t s)
def execVcRmax (t : WTrig) (s : State) : Out := finish s t.core (opVcRmax t s)
def execVcRmin (t : WTrig) (s : State) : Out := finish s t.core (opVcRmin t s)
def execVcShuf (t : WTrig) (s : State) : Out := finish s t.core (opVcShuf t s)
def execVcBcast (t : WTrig) (s : State) : Out := finish s t.core (opVcBcast t s)
def execVcRot (t : WTrig) (s : State) : Out := finish s t.core (opVcRot t s)
def execVcZip (t : WTrig) (s : State) : Out := finish s t.core (opVcZip t s)
def execVcUnzip (t : WTrig) (s : State) : Out := finish s t.core (opVcUnzip t s)
def execVcLane (t : WTrig) (s : State) : Out := finish s t.core (opVcLane t s)
def execVcMerge (t : WTrig) (s : State) : Out := finish s t.core (opVcMerge t s)

end Sys2Proof.Machine
end

