-- ==== Sys2Proof/Machine/Xp.lean ====
section
/-!
DEFINITION. The unit XP (R330, R331, R345, R346): the strand's commands to the expert engines, as their triggers queue them.
-/
namespace Sys2Proof.Machine

def xpA (t : Trig) (s : State) : Word := portOf t s pXPa
def xpB (t : Trig) (s : State) : Word := portOf t s pXPb
def xpD (t : Trig) (s : State) : Word := portOf t s pXPd
def xpQ (t : Trig) (s : State) : Word := portOf t s pXPq

/-- The die of a core (R3). -/
def dieOf (c : Nat) : Nat := c / 64

/-- Entries of a die's queue in use: the commands it holds, and those whose descriptor is being read (R331). -/
def queueUse (s : State) (die : Nat) : Nat :=
  (Tab.get [] s.xp.cmds die).length + ((s.cores.filter (fun e => dieOf e.1 == die)).map (fun e =>
    (e.2.due.filter (fun d => match d.fx with | .xpDesc _ _ _ => true | _ => false)).length)).sum

/-- An XP operation shares its bundle with an effective ckpt, and stalls while its die's queue is full (R330, R331). -/
def withXp (t : Trig) (s : State) (k : State → Res) : Res :=
  withCkpt t s fun s => if 32 ≤ queueUse s (dieOf t.core) then .stall else k s

/-- A command of the strand at its place in model order. -/
def xpCmd (t : Trig) (s : State) (op : Nat) (words : List Word) : XpCmd :=
  let a := accBase s t.core
  { op := op, ctx := a.ctx, core := t.core, team := a.team, tcore := (s.core t.core).tcore, tag := a.tag, place := a.id, seq := 0,
    words := words }

/-- XP.r at t+3 (R330). -/
def xpStatus (t : Trig) (s : State) (v : Nat) : State := plan s t.core 3 rReg (.lat lXP (wordN v))

/-- The command joins the queue of its die and takes a place in model order (R331, R332). -/
def sendXp (t : Trig) (s : State) (op : Nat) (words : List Word) : State :=
  (queueXp (xpStatus t s 0) (dieOf t.core) (xpCmd t s op words)).onCore t.core (fun x => { x with nextId := x.nextId + 1 })

/-- topk and walk: the descriptor's checks at the trigger, its read at t+1 (R330, R334). -/
def descriptorCmd (t : Trig) (s : State) (op : Nat) : Res :=
  withCkpt t s fun s =>
    match lsTarget s t.core t.slot t.y 512 1 true with
    | .error tr => .trap tr
    | .ok (_, o) =>
      if ptrAddr t.y % 512 ≠ 0 then .trap (trapAlign t.slot (ptrAddr t.y))
      else if 32 ≤ queueUse s (dieOf t.core) then .stall
      else .done ((plan s t.core 1 rRead (.xpDesc o (dieOf t.core) (xpCmd t s op []))).onCore t.core
        (fun x => { x with nextId := x.nextId + 1 }))

def opXpTopk (t : Trig) (s : State) : Res := descriptorCmd t s cTopk
def opXpWalk (t : Trig) (s : State) : Res := descriptorCmd t s cWalk

/-- The expert that y names. -/
def xpExpert (t : Trig) : Word := wordN (fld t.y 15 0)

def opXpPageFetch (t : Trig) (s : State) : Res := withXp t s fun s => .done (sendXp t s (cPage 0) [xpExpert t])
def opXpPageLock (t : Trig) (s : State) : Res := withXp t s fun s => .done (sendXp t s (cPage 1) [xpExpert t])
def opXpPageUnlock (t : Trig) (s : State) : Res :=
  withXp t s fun s =>
    let u := fld (xpB t s) 15 0
    if u = 0 then .done (xpStatus t s 1) else .done (sendXp t s (cPage 2) [xpExpert t, wordN u])
def opXpPageEvict (t : Trig) (s : State) : Res := withXp t s fun s => .done (sendXp t s (cPage 3) [xpExpert t])

/-- resq is a long-latency producer and an outstanding request (R331, R346). -/
def opXpResq (t : Trig) (s : State) : Res :=
  withXp t s fun s =>
    let r := fld (xpD t s) 5 0
    withReg s t.core r fun _ => withSlot s t.core fun _ =>
      let a := { accBase s t.core with op := .resq (fld t.y 15 0), reg := r }
      .done (issueAcc (queueXp (xpStatus t s 0) (dieOf t.core) (xpCmd t s cResq [xpExpert t, wordN a.id])) t.core a)

def opXpResarmRetry (t : Trig) (s : State) : Res := withXp t s fun s => .done (sendXp t s (cResarm 0) [xpExpert t])
def opXpResarmDrop (t : Trig) (s : State) : Res := withXp t s fun s => .done (sendXp t s (cResarm 1) [xpExpert t])

/-- A pointer port of bias lies in regions 1 to 7 and is a multiple of `n` (R336). -/
def biasPtr (p : Word) (n : Nat) : Bool :=
  decide (1 ≤ region (ptrAddr p)) && decide (region (ptrAddr p) ≤ 7) && ptrAddr p % n == 0

def opXpBias (t : Trig) (s : State) : Res :=
  withCkpt t s fun s =>
    let a := xpA t s
    let q := xpQ t s
    let n := fld (xpB t s) 16 0
    if ptrMal t.y then .trap (trapMal t.slot (ptrAddr t.y))
    else if ptrMal a then .trap (trapMal t.slot (ptrAddr a))
    else if ptrMal q then .trap (trapMal t.slot (ptrAddr q))
    else if 32 ≤ queueUse s (dieOf t.core) then .stall
    else if n = 0 || decide (65536 < n) || !biasPtr t.y 32 || !biasPtr a 32 || !biasPtr q 64 then .done (xpStatus t s 1)
    else .done (sendXp t s cBias [t.y, a, wordN n, q])

def execXpTopk (t : Trig) (s : State) : Out := finish s t.core (opXpTopk t s)
def execXpWalk (t : Trig) (s : State) : Out := finish s t.core (opXpWalk t s)
def execXpPageFetch (t : Trig) (s : State) : Out := finish s t.core (opXpPageFetch t s)
def execXpPageLock (t : Trig) (s : State) : Out := finish s t.core (opXpPageLock t s)
def execXpPageUnlock (t : Trig) (s : State) : Out := finish s t.core (opXpPageUnlock t s)
def execXpPageEvict (t : Trig) (s : State) : Out := finish s t.core (opXpPageEvict t s)
def execXpResq (t : Trig) (s : State) : Out := finish s t.core (opXpResq t s)
def execXpResarmRetry (t : Trig) (s : State) : Out := finish s t.core (opXpResarmRetry t s)
def execXpResarmDrop (t : Trig) (s : State) : Out := finish s t.core (opXpResarmDrop t s)
def execXpBias (t : Trig) (s : State) : Out := finish s t.core (opXpBias t s)

end Sys2Proof.Machine
end

