-- ==== Sys2Proof/Machine/Operands.lean ====
section
/-!
DEFINITION. The operand forms of a move (R134 to R137, R141 to R143): reading any source, writing any destination, and the
operation that a trigger code starts (R156, R159).
-/
namespace Sys2Proof.Machine

/-- The value of a move: 64 or 1,024 bits (R137). -/
inductive MvVal
  | narrow (v : Word)
  | wide (v : Wide)
  deriving DecidableEq, Repr

def MvVal.word (v : MvVal) : Word := match v with | .narrow v => v | .wide _ => 0
def MvVal.row (v : MvVal) : Wide := match v with | .wide v => v | .narrow _ => 0

/-- How a source is found (R142, R144): a value, a wait, or a trap. -/
inductive Src
  | ok (v : MvVal)
  | wait (r : Res)
  | bad (t : Trap)
  deriving DecidableEq, Repr

/-! ### Sources (R134, R135) -/

/-- Physical core number of the special source pcore: die × 64 + cluster × 4 + core (R135). -/
def physCore (c : Nat) : Nat := c

/-- The special sources (R135). -/
def readSpecial (s : State) (c slot n : Nat) : Src :=
  let x := s.core c
  match n with
  | 0x0D6 => .ok (.narrow (wordN x.cyc))
  | 0x0D7 => .ok (.narrow (wordN x.tcore))
  | 0x0D8 => .ok (.narrow (wordN (teamSize s c)))
  | 0x0D9 => .ok (.narrow (wordN x.dup.loops.length))
  | 0x0DA => .ok (.narrow s.fe.time)
  | 0x0DB => .ok (.narrow (wordN (segsWord s c)))
  | 0x0DC => if x.privileged then .ok (.narrow (wordN (physCore c))) else .bad (trapPriv slot)
  | 0x0DD => .ok (.narrow (wordN (modeCode x.mode)))
  | 0x0DE => .ok (.narrow 0)
  | _ => .bad (trapIllegal slot)

/-- A read of a G register, blocking or trapping (R142). -/
def readG (x : Core) (slot r : Nat) (trapping : Bool) : Src :=
  let g := x.dup.greg r
  match g.st with
  | .full => .ok (.narrow g.val)
  | .poison k => .bad (trapPoison slot r k)
  | .empty => if trapping then .bad (trapEmpty slot r) else .wait .stall

/-- A read of a stream register: the next element, zero-extended (R134, R205). -/
def readS (s : State) (c slot k : Nat) : Src :=
  match sAvail s c slot k 0 1 with
  | .bad t => .bad t
  | .wait => .wait (.await k 1)
  | .ready => .ok (.narrow (wordN (sTake s c k).2))

/-- The value of source `n` at the start of the bundle (R134, R138). -/
def readSource (s : State) (c slot n : Nat) : Src :=
  let x := s.core c
  let d := x.dup
  if n < 0x080 then readG x slot (n % 64) (decide (0x040 ≤ n))
  else if n < 0x095 then .ok (if wideLatches.contains n then .wide (d.wlatch n) else .narrow (d.latch n))
  else if n < 0x0C0 then .bad (trapIllegal slot)
  else if n < 0x0C8 then readS s c slot (n - 0x0C0)
  else if n < 0x0D0 then .ok (.narrow (wordN (b2n (condBit x (n - 0x0C8)))))
  else if n < 0x0D6 then .ok (.narrow (wordN (d.ctr (n - 0x0D0))))
  else if n < 0x0E0 then readSpecial s c slot n
  else if n < 0x100 then .ok (.wide (d.vreg (n - 0x0E0)))
  else .ok (.narrow (d.spillReg (n - 0x100)))

/-- The value of a move's source. -/
def readMv (s : State) (c slot : Nat) (m : MvSrc) : Src :=
  match m with
  | .reg n => readSource s c slot n
  | .imm v => .ok (.narrow v)

/-- A source that advances a stream does so (R134). -/
def takeMv (s : State) (c : Nat) (m : MvSrc) : State :=
  match m with
  | .reg n => if 0x0C0 ≤ n ∧ n < 0x0C8 then (sTake s c (n - 0x0C0)).1 else s
  | .imm _ => s

/-- Width of a move's source. -/
def mvWide (m : MvSrc) : Option Bool := match m with | .reg n => srcWide n | .imm _ => some false

/-- A move's own fields are legal in its slot (R135 to R137). -/
def mvLegal (slot : Nat) (m : MvSrc) (dst : Nat) : Bool :=
  match mvWide m, dstWide dst with
  | some x, some y => x == y && (!x || decide (slot ≤ 2))
  | _, _ => false

/-! ### Destinations (R136) -/

def isPort (dst : Nat) : Bool := decide (0x040 ≤ dst) && decide (dst < 0x080)
def isTrig (dst : Nat) : Bool := decide (0x080 ≤ dst) && decide (dst < 0x280)

/-- Unit and operation index of a trigger code (R156). -/
def trigUnit (dst : Nat) : Nat := (dst - 0x080) / 32
def trigIdx (dst : Nat) : Nat := (dst - 0x080) % 32

/-- What the destination of a move waits for, or its trap: an empty G register (R143), room in an output stream (R205). -/
def destVerdict (s : State) (c slot dst : Nat) : Option Res :=
  if dst < 0x040 then (if ((s.core c).dup.greg dst).st = .empty then some .stall else none)
  else if 0x2A0 ≤ dst ∧ dst < 0x2A8 then
    match sRoom s c slot (dst - 0x2A0) 0 with
    | .bad t => some (.trap t)
    | .wait => some .stall
    | .ready => none
  else none

/-- An operand port takes its value (R136, R138). -/
def writePort (d : Dup) (dst : Nat) (v : MvVal) : Dup :=
  if widePorts.contains dst then d.setWport dst v.row else d.setPort dst v.word

/-- A register destination other than a port takes its value; a push is the bundle's that issued at `iss` (R136, R206). -/
def writeDest (s : State) (c dst iss : Nat) (v : MvVal) : State :=
  if dst < 0x040 then s.onCore c (fun x => { x with dup := x.dup.writeG dst v.word })
  else if isPort dst then s.onCore c (fun x => { x with dup := writePort x.dup dst v })
  else if dst < 0x280 then s
  else if dst < 0x2A0 then s.onCore c (fun x => { x with dup := x.dup.setV (dst - 0x280) v.row })
  else if dst < 0x2A8 then sPush s c (dst - 0x2A0) iss 1 v.word.toNat
  else if dst < 0x2AF then s.onCore c (fun x => { x with dup := x.dup.setC (dst - 0x2A8) (v.word.getLsbD 0) })
  else if dst < 0x300 then s
  else s.onCore c (fun x => { x with dup := x.dup.setSpill (dst - 0x300) v.word })

/-! ### Trigger codes (R156, R159) -/

/-- Operations that need an effective CU.ckpt in their bundle, whatever their operands (R159). -/
def needCkpt (u i : Nat) : Bool :=
  match u with
  | 4 | 5 => i == 13 || i == 14
  | 6 => (decide (3 ≤ i) && decide (i ≤ 14)) || i == 16 || i == 17
  | 7 | 14 => true
  | 12 => i == 5 || i == 6 || i == 7 || i == 9
  | 13 => i == 3 || i == 4 || i == 8 || i == 9
  | _ => false

/-- Privileged operations (R159). -/
def needPriv (u i : Nat) : Bool := (u == 6 && (i == 16 || i == 17)) || (u == 13 && (i == 8 || i == 9))

/-- Operations of the handler (R159). -/
def needHandler (u i : Nat) : Bool := u == 13 && (i == 6 || i == 7)

/-- Operations that are a double fault in handler mode (R186, R273). -/
def notHandler (u i : Nat) : Bool :=
  (u == 12 && (i == 5 || i == 6 || i == 7 || i == 8)) || (u == 11 && (i == 8 || i == 9))

/-- Control operations that name the next bundle (R149). -/
def namesNext (u i : Nat) : Bool := (u == 12 && decide (i ≤ 3)) || (u == 13 && i == 6)

/-- Two triggers of CU that may meet: a checkpoint with any other, lpop with a jump (R176), spawn with exit (R26). -/
def cuPair (i j : Nat) : Bool :=
  (i != j && (i == 4 || j == 4)) || (i == 11 && j == 1) || (i == 1 && j == 11) || (i == 6 && j == 7) || (i == 7 && j == 6)

/-- The operand ports of a unit (R157). -/
def unitPorts (u : Nat) : List Nat :=
  match u with
  | 0 => [0x040, 0x041] | 1 => [0x042, 0x043] | 2 => [0x044, 0x045] | 3 => [0x046, 0x047, 0x048]
  | 4 => [0x049, 0x04A, 0x04B] | 5 => [0x04C, 0x04D, 0x04E] | 6 => [0x04F, 0x050, 0x051, 0x052]
  | 7 => [0x053, 0x054, 0x055, 0x056] | 8 => [0x057, 0x058] | 9 => [0x059, 0x05A, 0x05B] | 10 => [0x05C, 0x05D, 0x05E]
  | 11 => [0x05F, 0x060] | 12 => [0x061, 0x062] | 13 => [0x063, 0x064] | 14 => [0x065, 0x066, 0x067, 0x068] | _ => []

def runIA (i : Nat) (t : Trig) (s : State) : Res :=
  match i with
  | 0 => opIaAdd t s | 1 => opIaSub t s | 2 => opIaAnd t s | 3 => opIaOr t s | 4 => opIaXor t s | 5 => opIaAndn t s
  | 6 => opIaShl t s | 7 => opIaShr t s | 8 => opIaSar t s | 9 => opIaRol t s | 10 => opIaMin t s | 11 => opIaMax t s
  | 12 => opIaMinu t s | 13 => opIaMaxu t s | 14 => opIaNeg t s | 15 => opIaAbs t s | 16 => opIaClz t s
  | 17 => opIaCtz t s | 18 => opIaPopc t s | 19 => opIaSxt t s | 20 => opIaSel t s | 21 => opIaCmpeq t s
  | 22 => opIaCmpne t s | 23 => opIaCmplt t s | 24 => opIaCmple t s | 25 => opIaCmpltu t s | 26 => opIaCmpleu t s
  | 27 => opIaTst t s
  | _ => .trap (trapIllegal t.slot)

def runIM (i : Nat) (t : Trig) (s : State) : Res :=
  match i with
  | 0 => opImMul t s | 1 => opImMulh t s | 2 => opImMulhu t s | 3 => opImMulhsu t s | 4 => opImDiv t s
  | 5 => opImDivu t s | 6 => opImRem t s | 7 => opImRemu t s
  | _ => .trap (trapIllegal t.slot)

def runBP (i : Nat) (t : Trig) (s : State) : Res :=
  match i with
  | 0 => opBpPadd t s | 1 => opBpPsub t s | 2 => opBpPdiff t s | 3 => opBpPwset t s | 4 => opBpPcset t s
  | 5 => opBpPchk t s | 6 => opBpPmal t s | 7 => opBpPbyte t s | 8 => opBpPfrom t s | 9 => opBpElget t s
  | 10 => opBpElsgn t s | 11 => opBpElins t s
  | _ => .trap (trapIllegal t.slot)

def runLS (i : Nat) (t : Trig) (s : State) : Res :=
  match i with
  | 0 => opLsLd t s | 1 => opLsLds t s | 2 => opLsSt t s | 3 => opLsLdv t s | 4 => opLsStv t s | 5 => opLsLdpr t s
  | 6 => opLsLdprs t s | 7 => opLsStm t s | 8 => opLsTlook t s | 9 => opLsTset t s | 10 => opLsTclr t s
  | 11 => opLsTget t s | 12 => opLsTscout t s | 13 => opLsSwap t s | 14 => opLsBor t s | 15 => opLsZero t s
  | _ => .trap (trapIllegal t.slot)

def runGM (i : Nat) (t : Trig) (s : State) : Res :=
  match i with
  | 0 => opGmLd t s | 1 => opGmLds t s | 2 => opGmSt t s | 3 => opGmCas t s | 4 => opGmSwap t s | 5 => opGmAdd t s
  | 6 => opGmFadd t s | 7 => opGmMin t s | 8 => opGmMax t s | 9 => opGmMinu t s | 10 => opGmMaxu t s
  | 11 => opGmAnd t s | 12 => opGmOr t s | 13 => opGmXor t s | 14 => opGmIncb t s | 15 => opGmPref t s
  | 16 => opGmDrd t s | 17 => opGmDwr t s
  | _ => .trap (trapIllegal t.slot)

def runRM (i : Nat) (t : Trig) (s : State) : Res :=
  match i with
  | 0 => opRmRld t s | 1 => opRmRst t s | 2 => opRmRred t s | 3 => opRmMcast t s | 4 => opRmXsig t s | 5 => opRmBar t s
  | 6 => opRmGrpset t s | 7 => opRmGrpclr t s | 8 => opRmGrpretire t s | 9 => opRmXperm t s | 10 => opRmLqbind t s
  | 11 => opRmLqfree t s
  | _ => .trap (trapIllegal t.slot)

def runSE (i : Nat) (t : Trig) (s : State) : Res :=
  match i with
  | 0 => opSeSbind t s | 1 => opSeSgrp t s | 2 => opSeSstart t s | 3 => opSeSstop t s | 4 => opSeSseek t s
  | 5 => opSeSstat t s | 6 => opSeSflush t s | 7 => opSeSskip t s | 8 => opSeSfree t s | 9 => opSeSwait t s
  | _ => .trap (trapIllegal t.slot)

def runMX (i : Nat) (t : Trig) (s : State) : Res :=
  match i with
  | 0 => opMxMdset t s | 1 => opMxFmtset t s | 2 => opMxFmtget t s | 3 => opMxFmtlvl t s | 4 => opMxOvpop t s
  | 5 => opMxOvstat t s | 6 => opMxMxsave t s | 7 => opMxMxload t s | 8 => opMxAcczero t s | 9 => opMxWzero t s
  | _ => .trap (trapIllegal t.slot)

def runCU (i : Nat) (t : Trig) (s : State) : Res :=
  match i with
  | 0 => opCuLoop t s | 1 => opCuJump t s | 2 => opCuCall t s | 3 => opCuRet t s | 4 => opCuCkpt t s | 5 => opCuYield t s
  | 6 => opCuSpawn t s | 7 => opCuExit t s | 8 => opCuSegnext t s | 9 => opCuHalt t s | 10 => opCuFence t s
  | 11 => opCuLpop t s
  | _ => .trap (trapIllegal t.slot)

def runSY (i : Nat) (t : Trig) (s : State) : Res :=
  match i with
  | 0 => opSyNwait t s | 1 => opSyNread t s | 2 => opSyNclr t s | 3 => opSyNsig t s | 4 => opSyHbar t s
  | 5 => opSyHbwait t s | 6 => opSyRte t s | 7 => opSyTinfo t s | 8 => opSySrd t s | 9 => opSySwr t s
  | _ => .trap (trapIllegal t.slot)

/-- XP.page and XP.resarm choose their form by XP.a (R331, R341, R346). -/
def runXP (i : Nat) (t : Trig) (s : State) : Res :=
  match i with
  | 0 => opXpTopk t s
  | 1 => opXpWalk t s
  | 2 => (match fld (portOf t s pXPa) 1 0 with
    | 0 => opXpPageFetch t s | 1 => opXpPageLock t s | 2 => opXpPageUnlock t s | _ => opXpPageEvict t s)
  | 3 => opXpResq t s
  | 4 => if flag (portOf t s pXPa) 0 then opXpResarmDrop t s else opXpResarmRetry t s
  | 5 => opXpBias t s
  | _ => .trap (trapIllegal t.slot)

def runVX (i : Nat) (t : WTrig) (s : State) : Res :=
  match i with
  | 0 => opVxFadd t s | 1 => opVxFsub t s | 2 => opVxFmul t s | 3 => opVxFma t s | 4 => opVxFmin t s | 5 => opVxFmax t s
  | 6 => opVxFabs t s | 7 => opVxFneg t s | 8 => opVxExp2 t s | 9 => opVxRcp t s | 10 => opVxRsq t s
  | 11 => opVxCmpeq t s | 12 => opVxCmplt t s | 13 => opVxCmple t s | 14 => opVxSel t s | 15 => opVxIadd t s
  | 16 => opVxIsub t s | 17 => opVxImul t s | 18 => opVxAnd t s | 19 => opVxOr t s
  | _ => .trap (trapIllegal t.slot)

def runVC (i : Nat) (t : WTrig) (s : State) : Res :=
  match i with
  | 0 => opVcCvt t s | 1 => opVcPack t s | 2 => opVcPacks t s | 3 => opVcUnpk t s | 4 => opVcRsum t s | 5 => opVcRmax t s
  | 6 => opVcRmin t s | 7 => opVcShuf t s | 8 => opVcBcast t s | 9 => opVcRot t s | 10 => opVcZip t s
  | 11 => opVcUnzip t s | 12 => opVcLane t s | 13 => opVcMerge t s
  | _ => .trap (trapIllegal t.slot)

/-- The operation that trigger code `dst` starts with the triggering value `v` (R156). -/
def runTrig (s : State) (c slot dst : Nat) (ckpt : Bool) (v : MvVal) : Res :=
  let u := trigUnit dst
  let i := trigIdx dst
  let t : Trig := ⟨c, slot, u == 1 || u == 5, ckpt, v.word⟩
  let w : WTrig := ⟨c, slot, v.row⟩
  match u with
  | 0 | 1 => runIA i t s
  | 2 => runIM i t s
  | 3 => runBP i t s
  | 4 | 5 => runLS i t s
  | 6 => runGM i t s
  | 7 => runRM i t s
  | 8 => runSE i t s
  | 9 => runVX i w s
  | 10 => runVC i w s
  | 11 => runMX i t s
  | 12 => runCU i t s
  | 13 => runSY i t s
  | 14 => runXP i t s
  | _ => .trap (trapIllegal slot)

end Sys2Proof.Machine
end

