-- ==== Sys2Proof/Machine/Bundle.lean ====
section
/-!
DEFINITION. One bundle as one step (R104, R130, R138 to R151, R350): the fetch, the leaf of the tree, the moves and the beat
that take effect, what they meet, and what issue does. The rows MOVE, IMMEDIATE_MOVE and CONDITION_TREE as steps of
their own, and the gate of the notify aperture (R365) stand after it.
-/
namespace Sys2Proof.Machine

/-! ### The fetch (R104, R130) -/

/-- How a fetch ends. -/
inductive IFetch
  | ok (w : BitVec 192)
  | ecc
  | wait
  | bad (t : Trap)
  deriving DecidableEq, Repr

/-- Bit address of an entry of the segment table. -/
def segEntryAddr (i : Img) (k : Nat) : Nat := i.base + i.segtab + 128 * k

/-- The entry that a fetch from an empty half names: the one last named beyond the last segment, else entry 1 (R104). -/
def emptyEntry (i : Img) (h : Half) : Nat := match h.seg with | some k => if i.nseg ≤ k then k else 1 | none => 1

/-- An installed bundle, or its uncorrectable error. -/
def imemAt (x : Core) (i : Nat) : IFetch := if x.imemBad.contains i then .ecc else .ok (Tab.get 0 x.imem i)

/-- The fetch at the pc (R104). -/
def fetchAt (s : State) (c : Nat) : IFetch :=
  let x := s.core c
  let img := imgOf s c
  let i := x.pc.toNat
  let h := if multiSeg img then x.half (i / 2048) else x.half0
  let k := if multiSeg img then h.seg.getD 0 else 0
  let j := if multiSeg img then i % 2048 else i
  if h.copying then .wait
  else if !h.installed then .bad (trapFetch (segEntryAddr img (emptyEntry img h)))
  else if (segEntry img k).2 < j then .bad (trapFetch (bundleAddr s c x.pc))
  else imemAt x i

/-- The segment and index of the bundle at index `i` (R104). -/
def bundleKey (s : State) (c i : Nat) : Nat × Nat :=
  if multiSeg (imgOf s c) then ((((s.core c).half (i / 2048)).seg).getD 0, i % 2048) else (0, i)

/-- A bundle with an uncorrectable error does not issue: the core rolls back and the half is copied again; when the same bundle
of the same segment fails again, its team is killed (R130). -/
def eccFetch (s : State) (c : Nat) : State :=
  let x := s.core c
  let i := x.pc.toNat
  let a := bundleAddr s c x.pc
  let h := if multiSeg (imgOf s c) then i / 2048 else 0
  let key := bundleKey s c i
  if x.refetch.contains key then
    match x.team with
    | some t => killTeam s t eEcc a c 0
    | none => s
  else
    (rollbackCore (logErr s eEcc a (ctxOf s c) 1 c 0) c).onCore c (fun x =>
      { x.setHalf h { x.half h with installed := false, copying := true } with refetch := key :: x.refetch })

/-! ### The leaf (R146, R147) -/

/-- Test `k` of a tree header holds. -/
def testHolds (x : Core) (h k : Nat) : Bool :=
  condBit x (fieldAt h (16 - 4 * k) (14 - 4 * k)) != (fieldAt h (13 - 4 * k) (13 - 4 * k) == 1)

/-- The target of offset `k` of a tree at index `pc`. -/
def leafTarget (pc : Pc) (w k : Nat) : Pc := pc + BitVec.ofInt 12 (signOf (fieldAt w (23 - 6 * k) (18 - 6 * k)) 6)

/-- The leaf that a tree chooses: its number, and its target when it is taken (R146). -/
def leafOf (x : Core) (pc : Pc) (h w : Nat) : Nat × Option Pc :=
  match (span 0 (treeTests h)).find? (testHolds x h) with
  | some k => (k + 1, some (leafTarget pc w k))
  | none => if fieldAt h 0 0 = 1 then (5, some (leafTarget pc w 3)) else (5, none)

/-- A path tag takes effect under a leaf (R147). -/
def tagOn (leaf : Nat × Option Pc) (tag : Nat) : Bool := tag == 0 || tag == leaf.1 || (tag == 6 && leaf.2.isSome)

/-! ### What takes effect -/

/-- A move that takes effect, with its source as it stands at the start of the bundle. -/
structure Eff where
  slot : Nat
  src : MvSrc
  dst : Nat
  val : Src
  deriving DecidableEq, Repr

/-- A bundle at its issue: the chosen leaf, the beat and the moves that take effect, whether ckpt does, and the lowest slot
that is illegal whatever the leaf. -/
structure Look where
  leaf : Nat × Option Pc
  beat : Instr
  effs : List Eff
  ckpt : Bool
  bad : Option Nat
  deriving DecidableEq, Repr

def look (s : State) (c : Nat) (w : BitVec 192) : Look :=
  let x := s.core c
  let b := decodeBundle c w
  let leaf := match b.tree with | some t => leafOf x x.pc t.h t.x | none => (5, none)
  let effs := (b.moves.filter (fun m => tagOn leaf m.tag && mvLegal m.slot m.src m.dst)).map
    (fun m => Eff.mk m.slot m.src m.dst (readMv s c m.slot m.src))
  ⟨leaf, if tagOn leaf b.beat.1 then b.beat.2 else .mxNop c, effs, effs.any (fun e => e.dst == trigCode 12 4), b.bad⟩

/-- A source that is known. -/
def Eff.value (e : Eff) : Option MvVal := match e.val with | .ok v => some v | _ => none

/-- The beat as an operation (R150). -/
def runBeat (i : Instr) (s : State) : Res :=
  match i with
  | .mxPush b => opMxPush b s
  | .mxShift b => opMxShift b s
  | .mxAcc b => opMxAcc b s
  | .mxDrain b => opMxDrain b s
  | .mxDrainz b => opMxDrainz b s
  | _ => opMxNop s

/-- Streams that the beat reads: its operand, and the scale bytes of its active entry (R257, R259). -/
def beatStreams (s : State) (c : Nat) (i : Instr) : List Nat :=
  let d := (s.core c).dup
  let e := d.fmtOf (activeNo d)
  let opnd := fun (b : Beat) => if b.opnd / 8 = 2 then [b.opnd % 8] else []
  let scale := fun (k : Nat) => if scaleLen e k != 0 && decide (feSc e < 24) then [feSc e % 8] else []
  match i with
  | .mxPush b => opnd b ++ scale 1
  | .mxShift b => opnd b ++ scale 2
  | .mxAcc b => opnd b
  | _ => []

/-- The stream that a move reads. -/
def Eff.stream (e : Eff) : Option Nat :=
  match e.src with
  | .reg n => if 0x0C0 ≤ n ∧ n < 0x0C8 then some (n - 0x0C0) else none
  | .imm _ => none

/-- Two moves that conflict (R139). -/
def clash (a b : Eff) : Bool :=
  a.dst == b.dst || (a.stream.isSome && a.stream == b.stream)
    || (isTrig a.dst && isTrig b.dst && trigUnit a.dst == trigUnit b.dst
      && !(trigUnit a.dst == 12 && cuPair (trigIdx a.dst) (trigIdx b.dst)))

/-- The lowest slot that a conflict names: the higher one of its pair (R139). -/
def conflictSlot (busy : List Nat) (seen : List Eff) : List Eff → Option Nat
  | [] => none
  | e :: r =>
    if seen.any (clash e) || (match e.stream with | some k => busy.contains k | none => false) then some e.slot
    else conflictSlot busy (seen ++ [e]) r

/-- The control operation that meets a taken leaf (R149). -/
def transferSlot (l : Look) : Option Nat :=
  if l.leaf.2.isSome then (l.effs.find? (fun e => isTrig e.dst && namesNext (trigUnit e.dst) (trigIdx e.dst))).map (·.slot)
  else none

/-! ### What the bundle meets (R144, R350) -/

/-- The state in which the operations look at their ports: those that this bundle writes hold their new values (R138). -/
def withPorts (s : State) (c : Nat) (es : List Eff) : State :=
  s.onCore c (fun x => { x with dup := es.foldl (fun d e =>
    match e.value with | some v => if isPort e.dst then writePort d e.dst v else d | none => d) x.dup })

def Res.trap? : Res → Option Trap
  | .trap t => some t
  | _ => none

def Res.isTrap (r : Res) : Bool := r.trap?.isSome

/-- A store of LS that a move starts goes to an overflow slot, which is withheld as a GM store (R189). -/
def isOverSt (s : State) (c : Nat) (e : Eff) : Bool :=
  let u := trigUnit e.dst
  let t : Trig := ⟨c, e.slot, u == 5, false, match e.value with | some v => v.word | none => 0⟩
  (u == 4 || u == 5) && trigIdx e.dst == 2 && flag (lsD t s) 8
    && (match spillAt t s with | .over _ => true | _ => false)

/-- An end other than done. -/
def notDone (r : Res) : List Res := match r with | .done _ => [] | r => [r]

/-- What the operation of a trigger meets. Placement, privilege and mode do not wait for operands. -/
def meetOp (s : State) (c : Nat) (ckpt : Bool) (unknown : List Nat) (e : Eff) : List Res :=
  let u := trigUnit e.dst
  let i := trigIdx e.dst
  let m := (s.core c).mode
  if (needCkpt u i && !ckpt) || (m == .handler && notHandler u i) then [.trap (trapIllegal e.slot)]
  else
    let rs := match e.value with
      | some v => if (unitPorts u).any unknown.contains then [] else notDone (runTrig s c e.slot e.dst ckpt v)
      | none => []
    if (needPriv u i && !(s.core c).privileged) || (needHandler u i && m != .handler) then
      .trap (trapPriv e.slot) :: rs.filter Res.isTrap
    else rs

/-- The place in which the store of a move enters the withholding buffer, if it does: LS0 before LS1 (R161), GM after both
(R189, R231, R239). -/
def entryRank (s : State) (c : Nat) (e : Eff) : Option Nat :=
  match trigUnit e.dst with
  | 4 => if isOverSt s c e then some 0 else none
  | 5 => if isOverSt s c e then some 1 else none
  | 6 => if trigIdx e.dst = 2 ∨ trigIdx e.dst = 17 then some 2 else none
  | _ => none

/-- The state that a store of the bundle meets: with the stores of the bundle that enter the withholding buffer before it (R222). -/
def entryView (s : State) (c : Nat) (ckpt : Bool) (es : List Eff) (e : Eff) : State :=
  match entryRank s c e with
  | none => s
  | some n => (span 0 n).foldl (fun s k => match es.find? (fun f => entryRank s c f == some k) with
      | some f => (match f.value with
        | some v => (match runTrig s c f.slot f.dst ckpt v with | .done s' => s' | _ => s)
        | none => s)
      | none => s) s

/-- What a move meets: at its source, at its destination, and in the operation that it starts. -/
def meetMove (s sp : State) (c : Nat) (ckpt : Bool) (unknown : List Nat) (es : List Eff) (e : Eff) : List Res :=
  (match e.val with | .ok _ => [] | .wait r => [r] | .bad t => [.trap t])
    ++ (match destVerdict s c e.slot e.dst with | some r => [r] | none => [])
    ++ (if isTrig e.dst then meetOp (entryView sp c ckpt es e) c ckpt unknown e else [])

/-- Everything that the bundle meets, in ascending slots. -/
def meetAll (s : State) (c : Nat) (l : Look) : List Res :=
  let sp := withPorts s c l.effs
  let unknown := (l.effs.filter (fun e => isPort e.dst && e.value.isNone)).map (·.dst)
  let es := l.effs.filter (fun e => match l.bad with | some k => decide (e.slot < k) | none => true)
  (if l.bad = some 0 then [] else notDone (runBeat l.beat s)) ++ es.flatMap (meetMove s sp c l.ckpt unknown l.effs)

/-- The lowest of some slots. -/
def lowest : List Nat → Option Nat
  | [] => none
  | k :: r => some (match lowest r with | some j => min k j | none => k)

/-- The trap that the bundle takes: illegal-operation in the lowest slot, then privilege, then the others in order
(R151, R350). -/
def chooseTrap (illegal : List Nat) (ts : List Trap) : Option Trap :=
  match lowest (illegal ++ (ts.filter (·.code == 1)).map (·.slot)) with
  | some k => some (trapIllegal k)
  | none => match ts.find? (·.code == 2) with
    | some t => some t
    | none => ts.head?

/-- The trap of a bundle whose parts have met `rs`. -/
def bundleTrap (s : State) (c : Nat) (l : Look) (rs : List Res) : Option Trap :=
  chooseTrap (l.bad.toList ++ (conflictSlot (beatStreams s c l.beat) [] l.effs).toList ++ (transferSlot l).toList)
    (rs.filterMap Res.trap?)

/-! ### A stalled bundle -/

/-- A read of channel `k` waits for an index item that has not arrived: lost decoupling, one cycle counted (R207). -/
def countLod (x : Core) (k : Nat) : Core :=
  let h := x.dup.chanOf k
  let r := x.chanRun k
  if h.st == .running && !dOut h.desc && dIx h.desc && r.items.isEmpty && itemAt x k 0 (posVec x k) == .idx then
    x.setChanRun k { r with lod := true, lodn := min (r.lodn + 1) (2 ^ 32 - 1) }
  else x

/-- A bundle stalls: no issue cycle passes (R144). Reads of overflow slots are sent, items fall due (R189, R204). -/
def stallBundle (s : State) (c : Nat) (l : Look) (rs : List Res) : State :=
  let ks := (beatStreams s c l.beat ++ l.effs.filterMap Eff.stream).eraseDups
  let s := s.onCore c (fun x => { ks.foldl countLod x with stalled := true })
  rs.foldl (fun s r => match r with
    | .fetch a => pushAcc s c a
    | .await k n => s.onCore c (fun x => needItems x k n)
    | _ => s) s

/-! ### Issue -/

/-- The order in which operations of one bundle are applied: waits for items before anything is consumed (R11, R212); withheld
stores, LS0 before LS1 (R161, R189), and withheld consumptions before the release of the checkpoint (R177, R370); remote stores
after it, then LS0 and LS1, then what drains push, then the other units in ascending slots (R239); what changes the loop stack from
t+1 after what samples the counters at t (R160, R291), an exit after a spawn (R26), the return from the handler last. -/
def opRank (s : State) (c : Nat) (e : Eff) : Nat :=
  let i := trigIdx e.dst
  match trigUnit e.dst with
  | 4 => if isOverSt s c e then 0 else 5
  | 5 => if isOverSt s c e then 1 else 6
  | 6 => if i = 2 then 2 else 7
  | 7 => if i = 1 || i = 3 then 4 else 7
  | 12 => if i = 4 then 3 else if i = 7 || i = 0 || i = 11 then 8 else 7
  | 13 => if i = 0 then 2 else if i = 6 then 9 else 7
  | _ => 7

/-- A wait for items or for writes to be performed, SE.swait: it looks at its channel as the bundle finds it. -/
def Eff.isSwait (e : Eff) : Bool := e.dst == trigCode 8 9

/-- The triggers of ranks `lo` to `hi`, in that order, the waits left out. -/
def inOrder (s : State) (c lo hi : Nat) (es : List Eff) : List Eff :=
  (span lo (hi + 1 - lo)).flatMap (fun r => es.filter (fun e => isTrig e.dst && !e.isSwait && opRank s c e == r))

/-- Registers that an operation of the bundle has emptied stay so. -/
def keepEmpty (old new : Dup) : Dup := (old.g.filter (fun e => e.2.st == .empty)).foldl (fun d e => d.emptyG e.1) new

/-- Apply operations in turn; each sees the G registers as they stood at the start of the bundle (R11). -/
def applyAll (c : Nat) (g0 : Tab GReg) : List (State → Res) → State → Res
  | [], s => .done s
  | f :: r, s =>
    match f (s.onCore c (fun x => { x with dup := { x.dup with g := g0 } })) with
    | .done s' => applyAll c g0 r (s'.onCore c (fun x => { x with dup := keepEmpty (s.core c).dup x.dup }))
    | e => e

/-- A result with its state changed. -/
def Res.thenState (r : Res) (f : State → State) : Res := match r with | .done s => .done (f s) | r => r

/-- The channels and link queues of core `c` as `x` holds them. -/
def withChans (s : State) (c : Nat) (x : Core) : State :=
  s.onCore c (fun y => { y with dup := { y.dup with chan := x.dup.chan }, chan := x.chan, lq := x.lq })

/-- The operation of a trigger, in a bundle that began in state `s0`: an operation of SE looks at the channels as the bundle finds
them, not as the bundle's own reads leave them (R11). -/
def Eff.run (s0 : State) (c : Nat) (ckpt : Bool) (e : Eff) (s : State) : Res :=
  match e.value with
  | some v =>
    if trigUnit e.dst = 8 then
      (runTrig (withChans s c (s0.core c)) c e.slot e.dst ckpt v).thenState (fun s' => withChans s' c (s.core c))
    else runTrig s c e.slot e.dst ckpt v
  | none => .stall

/-- The waits, the beat, the stream reads and the operations of the bundle; what drains push in its cycle stands among them
(R239, R247). -/
def bundleOps (s : State) (c : Nat) (l : Look) : List (State → Res) :=
  let run := Eff.run s c l.ckpt
  (l.effs.filter Eff.isSwait).map run ++ [runBeat l.beat] ++ l.effs.map (fun e s => .done (takeMv s c e.src))
    ++ (inOrder s c 0 6 l.effs).map run ++ [fun s => .done (landPushes s c)] ++ (inOrder s c 7 9 l.effs).map run

def Look.has (l : Look) (u i : Nat) : Bool := l.effs.any (fun e => e.dst == trigCode u i)

/-- Every link queue releases its withheld rows at the checkpoint of cycle `cyc` (R260). -/
def releaseAllRows (cyc : Nat) (x : Core) : Core := (span 0 8).foldl (releaseRows cyc) x

/-- The next bundle (R149), with the loop stack that its choice leaves. -/
def nextPc (x : Core) (pc : Pc) (leaf : Nat × Option Pc) : Dup × Pc :=
  match x.sel with
  | some p => (x.dup, p)
  | none => match leaf.2 with
    | some p => (x.dup, p)
    | none => stepLoops x.dup pc

/-- Reads of overflow slots that this bundle sent have served it (R189). -/
def dropOvl (x : Core) : Core :=
  { x with accs := x.accs.filterMap (fun a => match a.op with
      | .ovl _ _ => if some a.team = x.team then (if a.got.isEmpty && a.err.isNone then some { a with dead := true } else none)
                    else some a
      | _ => some a) }

/-- How a strand stands after its bundle: a yield, an exit or a halt ends its issue (R180, R182, R183). -/
def afterBundle (s : State) (c : Nat) (l : Look) (pc : Pc) : State :=
  match l.effs.find? (fun e => e.dst == trigCode 12 9) with
  | some e => haltTeam s c pc (match e.value with | some v => v.word | none => 0)
  | none => match (s.core c).run with
    | .yielded => drain s c drainFuel
    | .exited => strandExit s c
    | _ => s

/-- The end of an issued bundle, the state `s` after its operations: the moves take effect at t+1 with what falls due
then, the next bundle is chosen, and the checkpoint is taken (R138, R149, R177). -/
def endBundle (s : State) (c : Nat) (l : Look) (pc : Pc) (t : Nat) : State :=
  let s := nextCycle s c
  let s := l.effs.foldl (fun s e => match e.value with
    | some v => if isPort e.dst || isTrig e.dst then s else writeDest s c e.dst t v
    | none => s) s
  let (d, p) := nextPc (s.core c) pc l.leaf
  let s := s.onCore c (fun x => dropOvl { x with dup := d })
  let s := if l.ckpt then endCkpt (s.onCore c (releaseAllRows t)) c p (t + 1) else s
  let s := if l.has 13 6 then endRte (s.onCore c (releaseAllRows t)) c (t + 1) else s
  afterBundle (s.onCore c (fun x => { x with pc := p, sel := none })) c l pc

/-- Issue of a bundle that meets nothing; operations that meet only together want for room stall it (R144, R217). -/
def issueBundle (s : State) (c : Nat) (l : Look) : State :=
  let x := s.core c
  match applyAll c x.dup.g (bundleOps (withPorts s c l.effs) c l) (withPorts s c l.effs) with
  | .done s' => endBundle s' c l x.pc x.cyc
  | .trap t => takeTrap s c t
  | _ => s.onCore c (fun x => { x with stalled := true })

/-- A trap at the issue cycle in which the countdown is 0 is left to the force (R356). -/
def trapOrForce (s : State) (c : Nat) (t : Trap) : State :=
  if cdDone (s.core c) && !isShielded (s.core c) then s else takeTrap s c t

/-- A bundle word stalls at the pc: it meets waits and no trap (R144). -/
def stallsAt (s : State) (c : Nat) (w : BitVec 192) : Bool :=
  let l := look s c w
  let rs := meetAll s c l
  (bundleTrap s c l rs).isNone && !rs.isEmpty

/-- Deadlines of rld that fall in the core's cycle pass as its bundle issues; while the bundle stalls they do not (R305). -/
def passInIssue (s : State) (c : Nat) (w : BitVec 192) : State :=
  if (s.core c).due.any (isLateRld (s.core c)) && !stallsAt s c w then s.onCore c passDeadlines else s

/-- One attempt to issue the bundle at the pc (R144, R350). -/
def attempt (s : State) (c : Nat) : State :=
  match fetchAt s c with
  | .wait => s
  | .bad t => trapOrForce s c t
  | .ecc => eccFetch s c
  | .ok w =>
    let s := passInIssue s c w
    let l := look s c w
    let rs := meetAll s c l
    match bundleTrap s c l rs with
    | some t => trapOrForce s c t
    | none => if rs.isEmpty then issueBundle s c l else stallBundle s c l rs

/-- RLD_DEADLINE (R305): the core is about to issue the bundle of a deadline, which does not stall. -/
def execRldDeadline (core : Nat) (s : State) : Out :=
  .next (match fetchAt s core with | .ok w => passInIssue s core w | _ => s)

/-! ### Timed domains (R102) -/

/-- Six bits reversed. -/
def rev6 (p : Nat) : Nat := (span 0 6).foldl (fun a k => a + b2n (bit p k) * 2 ^ (5 - k)) 0

/-- The cores of the timed domain of core `c`: those of its team, or of its team's gang. -/
def domainCores (s : State) (c : Nat) : List Nat :=
  match (s.core c).team with
  | none => [c]
  | some t => (t :: gangMates s t).flatMap (fun u => (s.team u).cores)

/-- Pulse `p` is swallowed for core `c`. -/
def swallowed (s : State) (p c : Nat) : Bool :=
  decide (rev6 (p % 64) < ((c :: domainCores s c).map (fun d => (s.die (dieOf d)).level)).foldl max 0)

/-- A strand that its countdown has forced to wait issues nothing more (R356). -/
def forced (x : Core) : Bool := cdDone x && !isShielded x

/-- A core that issues: its strand runs and the device has not tripped (R386). -/
def issues (s : State) (c : Nat) : Bool := (s.core c).run == .running && (s.core c).team.isSome && !s.pow.tripped

/-- At a pulse with p % 64 = 0 the levels that the power controller has set take effect, on every die at once. -/
def applyLevels (s : State) (p : Nat) : State :=
  if p % 64 = 0 then (span 0 4).foldl (fun s d => s.setDie d { s.die d with level := (s.die d).want }) s else s

/-! What a domain cycle counts (R119, R169, R355). -/

/-- The divider has one cycle less to go, and replies at its last (R169). -/
def divideTick (x : Core) : Core := divideReplyNow { x with divide := x.divide.map (fun d => { d with left := d.left - 1 }) }

/-- The countdown decrements while C7 is raised and at least two frame slots are free (R355). -/
def countTick (free : Nat) (x : Core) : Core := if x.c7 && x.cdRun && decide (2 ≤ free) then { x with cdown := x.cdown - 1 } else x

/-- Parks of the cores `cs` grow older (R119). -/
def parkTick (cs : List Nat) (p : Park) : Park :=
  match p.who with
  | .acc c _ _ => if cs.contains c then { p with clock := p.clock + 1 } else p
  | .sread c _ _ _ | .soff c _ _ => if cs.contains c then { p with clock := p.clock + 1 } else p
  | _ => p

/-- The reads of window streams that are parked at their target grow older (R119, R121). -/
def heldTick (x : Core) : Core :=
  if x.accs.any (fun a => isSin a && a.held) then
    { x with accs := x.accs.map (fun a => if isSin a && a.held then { a with age := a.age + 1 } else a) }
  else x

/-- A placed team counts the domain cycles from its placement until it starts (R92). -/
def fillTick (cs : List Nat) (e : Nat × Team) : Nat × Team :=
  if e.2.st = .placed && e.2.cores.any cs.contains then (e.1, { e.2 with clock := e.2.clock + 1 }) else e

/-- One domain cycle of the cores `cs`, before their bundles. -/
def domainTick (s : State) (cs : List Nat) : State :=
  let free := (freeSlots s).length
  let s := cs.foldl (fun s c => s.onCore c (fun x => countTick free (divideTick (heldTick x)))) s
  { s with xl := { s.xl with parks := s.xl.parks.map (parkTick cs) },
           fe := { s.fe with teams := s.fe.teams.map (fillTick cs) } }

/-- A pulse begins: the levels that are due take effect, and every core for which it is not swallowed counts a domain cycle. Those that
may issue in it are noted, each for one attempt, unless its countdown has run out (R102, R356). The clock of a device that has tripped
stands (R386). -/
def beginPulse (s : State) : State :=
  match s.pow.todo with
  | some _ => s
  | none =>
    if s.pow.tripped then { s with pow := { s.pow with todo := some [] } }
    else
      let s := applyLevels s s.pow.pulse
      let cs := (s.cores.map (·.1)).filter (fun c => !swallowed s s.pow.pulse c)
      let go := cs.filter (fun c => !forced (s.core c))
      let s := domainTick s cs
      { s with pow := { s.pow with todo := some go } }

/-- Core `c` may still issue in the present pulse. -/
def mayIssue (s : State) (c : Nat) : Bool := issues s c && (s.pow.todo.getD []).contains c

/-- Core `c` takes its attempt of the present pulse. -/
def takePulse (s : State) (c : Nat) : State :=
  attempt { s with pow := { s.pow with todo := s.pow.todo.map (fun l => l.erase c) } } c

/-- BUNDLE_ISSUE (R102, R138, R144): the core's one attempt in a pulse. -/
def execBundleIssue (core : Nat) (s : State) : Out :=
  .next (if mayIssue (beginPulse s) core then takePulse (beginPulse s) core else s)

/-! ### Moves and trees as steps of their own -/

/-- A move as a step of its own: its source, then its destination; a trigger starts its operation. -/
def moveStep (s : State) (c slot : Nat) (m : MvSrc) (dst : Nat) : Out :=
  if !mvLegal slot m dst then .next (takeTrap s c (trapIllegal slot))
  else match readMv s c slot m with
    | .bad t => .next (takeTrap s c t)
    | .wait r => finish s c r
    | .ok v => match destVerdict s c slot dst with
      | some r => finish s c r
      | none =>
        let s' := takeMv s c m
        if isTrig dst then
          match runTrig s' c slot dst false v with
          | .done s'' => .next (s''.onCore c takeSel)
          | r => finish s c r
        else .next (writeDest s' c dst (s.core c).cyc v)

/-- MOVE (R132, R134, R136): the word with both fields 0 is the empty move. -/
def execMove (core slot : Nat) (src : BitVec 9) (dst : BitVec 10) (s : State) : Out :=
  if src = 0 ∧ dst = 0 then .next s else moveStep s core slot (.reg src.toNat) dst.toNat

/-- IMMEDIATE_MOVE (R133, R136). -/
def execImmediateMove (core slot : Nat) (v : Word) (dst : BitVec 10) (s : State) : Out :=
  moveStep s core slot (.imm v) dst.toNat

/-- The slot that a malformed tree names: the tree counts as slot 6 (R145, R151, R350). -/
def treeSlot (h w : Nat) : Option Nat :=
  if fieldAt h 20 19 != 3 || !treeHeadOk h || !treeOffsOk h w then some 6 else none

/-- CONDITION_TREE (R145, R146, R149): the leaf, and the next bundle. -/
def execConditionTree (core : Nat) (h x : BitVec 24) (s : State) : Out :=
  match treeSlot h.toNat x.toNat with
  | some k => .next (takeTrap s core (trapIllegal k))
  | none => .next (s.onCore core (fun y =>
      let leaf := leafOf y y.pc h.toNat x.toNat
      let n := nextPc { y with sel := none } y.pc leaf
      { y with leaf := leaf, dup := n.1, pc := n.2 }))

/-! ### The gate of the notify aperture (R365) -/

/-- The strand of a core is stalled in nwait. -/
def stalledInNwait (s : State) (c : Nat) : Bool :=
  issues s c && (match fetchAt s c with
    | .ok w =>
      let l := look s c w
      l.effs.any (fun e => e.dst == trigCode 13 0 && (match e.value with
        | some v => (match runTrig (withPorts s c l.effs) c e.slot e.dst l.ckpt v with | .stall => true | _ => false)
        | none => false))
    | _ => false)

/-- NOTIFY_GATE (R365). -/
def execNotifyGate (s : State) : Out :=
  .next (if s.sync.gated || s.cores.any (fun e => stalledInNwait s e.1) then s
    else { s with sync := { s.sync with gated := true } })

end Sys2Proof.Machine
end

