-- ==== Sys2Proof/Machine/Clock.lean ====
section
/-!
DEFINITION. Time (R5, R73, R102, R119): one pulse of the arithmetic clock over every core, and one nanosecond of
device time.
-/
namespace Sys2Proof.Machine

/-! ### A pulse -/

/-- One pulse of the arithmetic clock: every core that may issue in it and has not done so makes its attempt (R5, R102). -/
def pulse (s : State) : State :=
  let s := beginPulse s
  let s := (s.pow.todo.getD []).foldl (fun s c => if mayIssue s c then takePulse s c else s) s
  { s with pow := { s.pow with pulse := s.pow.pulse + 1, todo := none } }

/-- Records that wait to be written to the error log or to a queue's error area are tried again (R60, R72, R118). -/
def writeLate (s : State) : State :=
  let late := s.fe.q.filter (fun e => !e.2.errs.isEmpty)
  late.foldl (fun s e => writeErrs s e.1 (s.queue e.1).errs) (if s.fe.elogLate.isEmpty then s else writeLog s s.fe.elogLate)

/-- What the passing of time brings: requests of the Fuller that are late end (R301), requests that wait at their target go on
(R302), parts of host writes perform (R61), records that wait are written (R60, R72), and the boot runs (R385), or management firmware
(R75, R78). -/
def timePasses (s : State) : State :=
  let s := writeLate (landHost (remoteKick (expireFlights s)))
  if mustBoot s then boot s else mgmtPaging (mgmtMeasure s)

/-- One nanosecond of device time (R73). -/
def nano (s : State) : State :=
  let t := s.fe.time + 1
  let s := timePasses { s with fe := { s.fe with time := t } }
  { s with fe := { s.fe with time := t } }

end Sys2Proof.Machine
end

