-- ==== Sys2Proof/Machine/Dispatch.lean ====
section
/-!
DEFINITION. One arm for each step of spec/opcode_table.json, in the order of the table.
-/
namespace Sys2Proof.Machine

def exec (i : Instr) (s : State) : Host.Outcome State Fault Refusal :=
  match i with
  | .coldReset => Sys2Proof.Machine.execColdReset s
  | .recoveryImage img => Sys2Proof.Machine.execRecoveryImage img s
  | .linkReset port => Sys2Proof.Machine.execLinkReset port s
  | .configRequest a => Sys2Proof.Machine.execConfigRequest a s
  | .bar0Access a => Sys2Proof.Machine.execBar0Access a s
  | .bar2Access a => Sys2Proof.Machine.execBar2Access a s
  | .bar4Access a => Sys2Proof.Machine.execBar4Access a s
  | .cxlMemAccess a => Sys2Proof.Machine.execCxlMemAccess a s
  | .powerSample watts t0 t1 t2 t3 => Sys2Proof.Machine.execPowerSample watts t0 t1 t2 t3 s
  | .levelRaiseTick => Sys2Proof.Machine.execLevelRaiseTick s
  | .levelLowerTick => Sys2Proof.Machine.execLevelLowerTick s
  | .thermalFloorTick die => Sys2Proof.Machine.execThermalFloorTick die s
  | .thermtrip => Sys2Proof.Machine.execThermtrip s
  | .notifyGate => Sys2Proof.Machine.execNotifyGate s
  | .notifyUngate => Sys2Proof.Machine.execNotifyUngate s
  | .registerWrite ag addr v => Sys2Proof.Machine.execRegisterWrite ag addr v s
  | .qdStateRunning ag q v => Sys2Proof.Machine.execQdStateRunning ag q v s
  | .qdStateHalted ag q v => Sys2Proof.Machine.execQdStateHalted ag q v s
  | .qdStateUnmapped ag q v => Sys2Proof.Machine.execQdStateUnmapped ag q v s
  | .qd1Write ag q v => Sys2Proof.Machine.execQd1Write ag q v s
  | .qd3Write ag q v => Sys2Proof.Machine.execQd3Write ag q v s
  | .programStoreWrite ag h j v => Sys2Proof.Machine.execProgramStoreWrite ag h j v s
  | .fePctlCheck ag h len => Sys2Proof.Machine.execFePctlCheck ag h len s
  | .fePctlRelease ag h => Sys2Proof.Machine.execFePctlRelease ag h s
  | .clrlost ag => Sys2Proof.Machine.execClrlost ag s
  | .xlInvEntry ag tgt size => Sys2Proof.Machine.execXlInvEntry ag tgt size s
  | .xlInvContext ag => Sys2Proof.Machine.execXlInvContext ag s
  | .xlInvAll ag => Sys2Proof.Machine.execXlInvAll ag s
  | .invalidationComplete => Sys2Proof.Machine.execInvalidationComplete s
  | .mtuResolveRetry ag m idx => Sys2Proof.Machine.execMtuResolveRetry ag m idx s
  | .mtuResolveRefuse ag m idx => Sys2Proof.Machine.execMtuResolveRefuse ag m idx s
  | .xrCtlLoad ag tmo => Sys2Proof.Machine.execXrCtlLoad ag tmo s
  | .notifyWake ag b j w => Sys2Proof.Machine.execNotifyWake ag b j w s
  | .barrierNeedWrite ag b0 need => Sys2Proof.Machine.execBarrierNeedWrite ag b0 need s
  | .barrierArrive ag b0 u => Sys2Proof.Machine.execBarrierArrive ag b0 u s
  | .queuePoll q => Sys2Proof.Machine.execQueuePoll q s
  | .packetRun k => Sys2Proof.Machine.execPacketRun k s
  | .rootCounterWaitEnd k => Sys2Proof.Machine.execRootCounterWaitEnd k s
  | .lerantHalt => Sys2Proof.Machine.execLerantHalt s
  | .ldpk a k => Sys2Proof.Machine.execLdpk a k s
  | .ldi a v => Sys2Proof.Machine.execLdi a v s
  | .shin a v => Sys2Proof.Machine.execShin a v s
  | .lerantMov a b => Sys2Proof.Machine.execLerantMov a b s
  | .lerantAdd a b => Sys2Proof.Machine.execLerantAdd a b s
  | .lerantSub a b => Sys2Proof.Machine.execLerantSub a b s
  | .lerantAnd a b => Sys2Proof.Machine.execLerantAnd a b s
  | .lerantOr a b => Sys2Proof.Machine.execLerantOr a b s
  | .ext a b h l => Sys2Proof.Machine.execExt a b h l s
  | .addi a v => Sys2Proof.Machine.execAddi a v s
  | .bz a d => Sys2Proof.Machine.execBz a d s
  | .bnz a d => Sys2Proof.Machine.execBnz a d s
  | .beq a b d => Sys2Proof.Machine.execBeq a b d s
  | .bltu a b d => Sys2Proof.Machine.execBltu a b d s
  | .rep a n k => Sys2Proof.Machine.execRep a n k s
  | .ldsc a k => Sys2Proof.Machine.execLdsc a k s
  | .stsc a k => Sys2Proof.Machine.execStsc a k s
  | .ldpa a k => Sys2Proof.Machine.execLdpa a k s
  | .setf a f => Sys2Proof.Machine.execSetf a f s
  | .emitLaunch => Sys2Proof.Machine.execEmitLaunch s
  | .emitTransfer => Sys2Proof.Machine.execEmitTransfer s
  | .emitPinControl => Sys2Proof.Machine.execEmitPinControl s
  | .emitResynchronise => Sys2Proof.Machine.execEmitResynchronise s
  | .emitAttest => Sys2Proof.Machine.execEmitAttest s
  | .emitCommitMinVersion => Sys2Proof.Machine.execEmitCommitMinVersion s
  | .lerantRej v => Sys2Proof.Machine.execLerantRej v s
  | .lerantStop v => Sys2Proof.Machine.execLerantStop v s
  | .lerantTime a => Sys2Proof.Machine.execLerantTime a s
  | .requestEnterScoreboard tag => Sys2Proof.Machine.execRequestEnterScoreboard tag s
  | .requestRetire tag => Sys2Proof.Machine.execRequestRetire tag s
  | .transferRun tag => Sys2Proof.Machine.execTransferRun tag s
  | .pinCreate tag => Sys2Proof.Machine.execPinCreate tag s
  | .pinRelease tag => Sys2Proof.Machine.execPinRelease tag s
  | .classAging die tag => Sys2Proof.Machine.execClassAging die tag s
  | .teamPlacement die => Sys2Proof.Machine.execTeamPlacement die s
  | .partitionMoveComplete pin => Sys2Proof.Machine.execPartitionMoveComplete pin s
  | .inputStreamFill team => Sys2Proof.Machine.execInputStreamFill team s
  | .fillParkTimeout team => Sys2Proof.Machine.execFillParkTimeout team s
  | .teamFirstIssue team => Sys2Proof.Machine.execTeamFirstIssue team s
  | .gangStart tag => Sys2Proof.Machine.execGangStart tag s
  | .segmentCopyComplete core half => Sys2Proof.Machine.execSegmentCopyComplete core half s
  | .countdownExpiry core => Sys2Proof.Machine.execCountdownExpiry core s
  | .parkSwitch team => Sys2Proof.Machine.execParkSwitch team s
  | .teamSave team => Sys2Proof.Machine.execTeamSave team s
  | .teamReady team => Sys2Proof.Machine.execTeamReady team s
  | .teamRestore team => Sys2Proof.Machine.execTeamRestore team s
  | .bundleIssue core => Sys2Proof.Machine.execBundleIssue core s
  | .move core slot src dst => Sys2Proof.Machine.execMove core slot src dst s
  | .immediateMove core slot v dst => Sys2Proof.Machine.execImmediateMove core slot v dst s
  | .conditionTree core h x => Sys2Proof.Machine.execConditionTree core h x s
  | .mxNop core => Sys2Proof.Machine.execMxNop core s
  | .mxPush b => Sys2Proof.Machine.execMxPush b s
  | .mxShift b => Sys2Proof.Machine.execMxShift b s
  | .mxAcc b => Sys2Proof.Machine.execMxAcc b s
  | .mxDrain b => Sys2Proof.Machine.execMxDrain b s
  | .mxDrainz b => Sys2Proof.Machine.execMxDrainz b s
  | .iaAdd t => Sys2Proof.Machine.execIaAdd t s
  | .iaSub t => Sys2Proof.Machine.execIaSub t s
  | .iaAnd t => Sys2Proof.Machine.execIaAnd t s
  | .iaOr t => Sys2Proof.Machine.execIaOr t s
  | .iaXor t => Sys2Proof.Machine.execIaXor t s
  | .iaAndn t => Sys2Proof.Machine.execIaAndn t s
  | .iaShl t => Sys2Proof.Machine.execIaShl t s
  | .iaShr t => Sys2Proof.Machine.execIaShr t s
  | .iaSar t => Sys2Proof.Machine.execIaSar t s
  | .iaRol t => Sys2Proof.Machine.execIaRol t s
  | .iaMin t => Sys2Proof.Machine.execIaMin t s
  | .iaMax t => Sys2Proof.Machine.execIaMax t s
  | .iaMinu t => Sys2Proof.Machine.execIaMinu t s
  | .iaMaxu t => Sys2Proof.Machine.execIaMaxu t s
  | .iaNeg t => Sys2Proof.Machine.execIaNeg t s
  | .iaAbs t => Sys2Proof.Machine.execIaAbs t s
  | .iaClz t => Sys2Proof.Machine.execIaClz t s
  | .iaCtz t => Sys2Proof.Machine.execIaCtz t s
  | .iaPopc t => Sys2Proof.Machine.execIaPopc t s
  | .iaSxt t => Sys2Proof.Machine.execIaSxt t s
  | .iaSel t => Sys2Proof.Machine.execIaSel t s
  | .iaCmpeq t => Sys2Proof.Machine.execIaCmpeq t s
  | .iaCmpne t => Sys2Proof.Machine.execIaCmpne t s
  | .iaCmplt t => Sys2Proof.Machine.execIaCmplt t s
  | .iaCmple t => Sys2Proof.Machine.execIaCmple t s
  | .iaCmpltu t => Sys2Proof.Machine.execIaCmpltu t s
  | .iaCmpleu t => Sys2Proof.Machine.execIaCmpleu t s
  | .iaTst t => Sys2Proof.Machine.execIaTst t s
  | .imMul t => Sys2Proof.Machine.execImMul t s
  | .imMulh t => Sys2Proof.Machine.execImMulh t s
  | .imMulhu t => Sys2Proof.Machine.execImMulhu t s
  | .imMulhsu t => Sys2Proof.Machine.execImMulhsu t s
  | .imDiv t => Sys2Proof.Machine.execImDiv t s
  | .imDivu t => Sys2Proof.Machine.execImDivu t s
  | .imRem t => Sys2Proof.Machine.execImRem t s
  | .imRemu t => Sys2Proof.Machine.execImRemu t s
  | .divideReply core => Sys2Proof.Machine.execDivideReply core s
  | .bpPadd t => Sys2Proof.Machine.execBpPadd t s
  | .bpPsub t => Sys2Proof.Machine.execBpPsub t s
  | .bpPdiff t => Sys2Proof.Machine.execBpPdiff t s
  | .bpPwset t => Sys2Proof.Machine.execBpPwset t s
  | .bpPcset t => Sys2Proof.Machine.execBpPcset t s
  | .bpPchk t => Sys2Proof.Machine.execBpPchk t s
  | .bpPmal t => Sys2Proof.Machine.execBpPmal t s
  | .bpPbyte t => Sys2Proof.Machine.execBpPbyte t s
  | .bpPfrom t => Sys2Proof.Machine.execBpPfrom t s
  | .bpElget t => Sys2Proof.Machine.execBpElget t s
  | .bpElsgn t => Sys2Proof.Machine.execBpElsgn t s
  | .bpElins t => Sys2Proof.Machine.execBpElins t s
  | .lsLd t => Sys2Proof.Machine.execLsLd t s
  | .lsLds t => Sys2Proof.Machine.execLsLds t s
  | .lsSt t => Sys2Proof.Machine.execLsSt t s
  | .lsLdv t => Sys2Proof.Machine.execLsLdv t s
  | .lsStv t => Sys2Proof.Machine.execLsStv t s
  | .lsLdpr t => Sys2Proof.Machine.execLsLdpr t s
  | .lsLdprs t => Sys2Proof.Machine.execLsLdprs t s
  | .lsStm t => Sys2Proof.Machine.execLsStm t s
  | .lsTlook t => Sys2Proof.Machine.execLsTlook t s
  | .lsTset t => Sys2Proof.Machine.execLsTset t s
  | .lsTclr t => Sys2Proof.Machine.execLsTclr t s
  | .lsTget t => Sys2Proof.Machine.execLsTget t s
  | .lsTscout t => Sys2Proof.Machine.execLsTscout t s
  | .lsSwap t => Sys2Proof.Machine.execLsSwap t s
  | .lsBor t => Sys2Proof.Machine.execLsBor t s
  | .lsZero t => Sys2Proof.Machine.execLsZero t s
  | .peerAccessPerform core id => Sys2Proof.Machine.execPeerAccessPerform core id s
  | .gmLd t => Sys2Proof.Machine.execGmLd t s
  | .gmLds t => Sys2Proof.Machine.execGmLds t s
  | .gmSt t => Sys2Proof.Machine.execGmSt t s
  | .gmCas t => Sys2Proof.Machine.execGmCas t s
  | .gmSwap t => Sys2Proof.Machine.execGmSwap t s
  | .gmAdd t => Sys2Proof.Machine.execGmAdd t s
  | .gmFadd t => Sys2Proof.Machine.execGmFadd t s
  | .gmMin t => Sys2Proof.Machine.execGmMin t s
  | .gmMax t => Sys2Proof.Machine.execGmMax t s
  | .gmMinu t => Sys2Proof.Machine.execGmMinu t s
  | .gmMaxu t => Sys2Proof.Machine.execGmMaxu t s
  | .gmAnd t => Sys2Proof.Machine.execGmAnd t s
  | .gmOr t => Sys2Proof.Machine.execGmOr t s
  | .gmXor t => Sys2Proof.Machine.execGmXor t s
  | .gmIncb t => Sys2Proof.Machine.execGmIncb t s
  | .gmPref t => Sys2Proof.Machine.execGmPref t s
  | .gmDrd t => Sys2Proof.Machine.execGmDrd t s
  | .gmDwr t => Sys2Proof.Machine.execGmDwr t s
  | .longLatencyReply core id part => Sys2Proof.Machine.execLongLatencyReply core id part s
  | .withheldEntrySend core id => Sys2Proof.Machine.execWithheldEntrySend core id s
  | .faultRecordWrite m => Sys2Proof.Machine.execFaultRecordWrite m s
  | .rmRld t => Sys2Proof.Machine.execRmRld t s
  | .rmRst t => Sys2Proof.Machine.execRmRst t s
  | .rmRred t => Sys2Proof.Machine.execRmRred t s
  | .rmMcast t => Sys2Proof.Machine.execRmMcast t s
  | .rmXsig t => Sys2Proof.Machine.execRmXsig t s
  | .rmBar t => Sys2Proof.Machine.execRmBar t s
  | .rmGrpset t => Sys2Proof.Machine.execRmGrpset t s
  | .rmGrpclr t => Sys2Proof.Machine.execRmGrpclr t s
  | .rmGrpretire t => Sys2Proof.Machine.execRmGrpretire t s
  | .rmXperm t => Sys2Proof.Machine.execRmXperm t s
  | .rmLqbind t => Sys2Proof.Machine.execRmLqbind t s
  | .rmLqfree t => Sys2Proof.Machine.execRmLqfree t s
  | .rldDeadline core => Sys2Proof.Machine.execRldDeadline core s
  | .fabtimeout core id => Sys2Proof.Machine.execFabtimeout core id s
  | .fabricPortDown port => Sys2Proof.Machine.execFabricPortDown port s
  | .packetForward k => Sys2Proof.Machine.execPacketForward k s
  | .loadRequest a => Sys2Proof.Machine.execLoadRequest a s
  | .storeRequest a => Sys2Proof.Machine.execStoreRequest a s
  | .addRequest a => Sys2Proof.Machine.execAddRequest a s
  | .barrierArrival a => Sys2Proof.Machine.execBarrierArrival a s
  | .linkRow a => Sys2Proof.Machine.execLinkRow a s
  | .connect a => Sys2Proof.Machine.execConnect a s
  | .credit a => Sys2Proof.Machine.execCredit a s
  | .linkRowSend core lq => Sys2Proof.Machine.execLinkRowSend core lq s
  | .reply a => Sys2Proof.Machine.execReply a s
  | .acknowledgement a => Sys2Proof.Machine.execAcknowledgement a s
  | .parkNotice a => Sys2Proof.Machine.execParkNotice a s
  | .errorResponse a => Sys2Proof.Machine.execErrorResponse a s
  | .contribution a => Sys2Proof.Machine.execContribution a s
  | .withdrawal a => Sys2Proof.Machine.execWithdrawal a s
  | .groupSetPacket a => Sys2Proof.Machine.execGroupSetPacket a s
  | .groupClearPacket a => Sys2Proof.Machine.execGroupClearPacket a s
  | .groupRetirePacket a => Sys2Proof.Machine.execGroupRetirePacket a s
  | .groupTimeout grp => Sys2Proof.Machine.execGroupTimeout grp s
  | .completionNotice a => Sys2Proof.Machine.execCompletionNotice a s
  | .xpermData a => Sys2Proof.Machine.execXpermData a s
  | .xpermCopy k => Sys2Proof.Machine.execXpermCopy k s
  | .xpermTimeout k => Sys2Proof.Machine.execXpermTimeout k s
  | .seSbind t => Sys2Proof.Machine.execSeSbind t s
  | .seSgrp t => Sys2Proof.Machine.execSeSgrp t s
  | .seSstart t => Sys2Proof.Machine.execSeSstart t s
  | .seSstop t => Sys2Proof.Machine.execSeSstop t s
  | .seSseek t => Sys2Proof.Machine.execSeSseek t s
  | .seSstat t => Sys2Proof.Machine.execSeSstat t s
  | .seSflush t => Sys2Proof.Machine.execSeSflush t s
  | .seSskip t => Sys2Proof.Machine.execSeSskip t s
  | .seSfree t => Sys2Proof.Machine.execSeSfree t s
  | .seSwait t => Sys2Proof.Machine.execSeSwait t s
  | .streamReadIssue core ch => Sys2Proof.Machine.execStreamReadIssue core ch s
  | .streamItemArrival core ch k => Sys2Proof.Machine.execStreamItemArrival core ch k s
  | .streamOutputWrite core ch => Sys2Proof.Machine.execStreamOutputWrite core ch s
  | .vxFadd t => Sys2Proof.Machine.execVxFadd t s
  | .vxFsub t => Sys2Proof.Machine.execVxFsub t s
  | .vxFmul t => Sys2Proof.Machine.execVxFmul t s
  | .vxFma t => Sys2Proof.Machine.execVxFma t s
  | .vxFmin t => Sys2Proof.Machine.execVxFmin t s
  | .vxFmax t => Sys2Proof.Machine.execVxFmax t s
  | .vxFabs t => Sys2Proof.Machine.execVxFabs t s
  | .vxFneg t => Sys2Proof.Machine.execVxFneg t s
  | .vxExp2 t => Sys2Proof.Machine.execVxExp2 t s
  | .vxRcp t => Sys2Proof.Machine.execVxRcp t s
  | .vxRsq t => Sys2Proof.Machine.execVxRsq t s
  | .vxCmpeq t => Sys2Proof.Machine.execVxCmpeq t s
  | .vxCmplt t => Sys2Proof.Machine.execVxCmplt t s
  | .vxCmple t => Sys2Proof.Machine.execVxCmple t s
  | .vxSel t => Sys2Proof.Machine.execVxSel t s
  | .vxIadd t => Sys2Proof.Machine.execVxIadd t s
  | .vxIsub t => Sys2Proof.Machine.execVxIsub t s
  | .vxImul t => Sys2Proof.Machine.execVxImul t s
  | .vxAnd t => Sys2Proof.Machine.execVxAnd t s
  | .vxOr t => Sys2Proof.Machine.execVxOr t s
  | .vcCvt t => Sys2Proof.Machine.execVcCvt t s
  | .vcPack t => Sys2Proof.Machine.execVcPack t s
  | .vcPacks t => Sys2Proof.Machine.execVcPacks t s
  | .vcUnpk t => Sys2Proof.Machine.execVcUnpk t s
  | .vcRsum t => Sys2Proof.Machine.execVcRsum t s
  | .vcRmax t => Sys2Proof.Machine.execVcRmax t s
  | .vcRmin t => Sys2Proof.Machine.execVcRmin t s
  | .vcShuf t => Sys2Proof.Machine.execVcShuf t s
  | .vcBcast t => Sys2Proof.Machine.execVcBcast t s
  | .vcRot t => Sys2Proof.Machine.execVcRot t s
  | .vcZip t => Sys2Proof.Machine.execVcZip t s
  | .vcUnzip t => Sys2Proof.Machine.execVcUnzip t s
  | .vcLane t => Sys2Proof.Machine.execVcLane t s
  | .vcMerge t => Sys2Proof.Machine.execVcMerge t s
  | .mxMdset t => Sys2Proof.Machine.execMxMdset t s
  | .mxFmtset t => Sys2Proof.Machine.execMxFmtset t s
  | .mxFmtget t => Sys2Proof.Machine.execMxFmtget t s
  | .mxFmtlvl t => Sys2Proof.Machine.execMxFmtlvl t s
  | .mxOvpop t => Sys2Proof.Machine.execMxOvpop t s
  | .mxOvstat t => Sys2Proof.Machine.execMxOvstat t s
  | .mxMxsave t => Sys2Proof.Machine.execMxMxsave t s
  | .mxMxload t => Sys2Proof.Machine.execMxMxload t s
  | .mxAcczero t => Sys2Proof.Machine.execMxAcczero t s
  | .mxWzero t => Sys2Proof.Machine.execMxWzero t s
  | .cuLoop t => Sys2Proof.Machine.execCuLoop t s
  | .cuJump t => Sys2Proof.Machine.execCuJump t s
  | .cuCall t => Sys2Proof.Machine.execCuCall t s
  | .cuRet t => Sys2Proof.Machine.execCuRet t s
  | .cuCkpt t => Sys2Proof.Machine.execCuCkpt t s
  | .cuYield t => Sys2Proof.Machine.execCuYield t s
  | .cuSpawn t => Sys2Proof.Machine.execCuSpawn t s
  | .cuExit t => Sys2Proof.Machine.execCuExit t s
  | .cuSegnext t => Sys2Proof.Machine.execCuSegnext t s
  | .cuHalt t => Sys2Proof.Machine.execCuHalt t s
  | .cuFence t => Sys2Proof.Machine.execCuFence t s
  | .cuLpop t => Sys2Proof.Machine.execCuLpop t s
  | .syNwait t => Sys2Proof.Machine.execSyNwait t s
  | .syNread t => Sys2Proof.Machine.execSyNread t s
  | .syNclr t => Sys2Proof.Machine.execSyNclr t s
  | .syNsig t => Sys2Proof.Machine.execSyNsig t s
  | .syHbar t => Sys2Proof.Machine.execSyHbar t s
  | .syHbwait t => Sys2Proof.Machine.execSyHbwait t s
  | .syRte t => Sys2Proof.Machine.execSyRte t s
  | .syTinfo t => Sys2Proof.Machine.execSyTinfo t s
  | .sySrd t => Sys2Proof.Machine.execSySrd t s
  | .sySwr t => Sys2Proof.Machine.execSySwr t s
  | .xpTopk t => Sys2Proof.Machine.execXpTopk t s
  | .xpWalk t => Sys2Proof.Machine.execXpWalk t s
  | .xpPageFetch t => Sys2Proof.Machine.execXpPageFetch t s
  | .xpPageLock t => Sys2Proof.Machine.execXpPageLock t s
  | .xpPageUnlock t => Sys2Proof.Machine.execXpPageUnlock t s
  | .xpPageEvict t => Sys2Proof.Machine.execXpPageEvict t s
  | .xpResq t => Sys2Proof.Machine.execXpResq t s
  | .xpResarmRetry t => Sys2Proof.Machine.execXpResarmRetry t s
  | .xpResarmDrop t => Sys2Proof.Machine.execXpResarmDrop t s
  | .xpBias t => Sys2Proof.Machine.execXpBias t s
  | .xpCommandAccept die k => Sys2Proof.Machine.execXpCommandAccept die k s
  | .walkResume die => Sys2Proof.Machine.execWalkResume die s
  | .expertFetchComplete e => Sys2Proof.Machine.execExpertFetchComplete e s
  | .expertFetchFail e => Sys2Proof.Machine.execExpertFetchFail e s
  | .expertFetchTimeout e => Sys2Proof.Machine.execExpertFetchTimeout e s
  | .fabricPortTrained port => Sys2Proof.Machine.execFabricPortTrained port s
  | .hostPortTrained port width gen cxl => Sys2Proof.Machine.execHostPortTrained port width gen cxl s
  | .programCheckComplete => Sys2Proof.Machine.execProgramCheckComplete s

end Sys2Proof.Machine
end

