-- ==== Sys2Proof/Machine/Step.lean ====
section
/-!
DEFINITION. One turn of the package (log entry 1): the next turn of the schedule is taken, and runs. The schedule is
plain data, and where it is empty the next turn is free.
-/
namespace Sys2Proof.Machine

/-- Take the next turn: the head of `turns`, else a free one. -/
def nextTurn (s : State) : Turn × State :=
  match s.turns with
  | t :: r => (t, { s with turns := r })
  | [] => (Config.turn s.tick, { s with tick := s.tick + 1 })

/-- A step of the table; its operands lie in the ranges that its row gives. -/
def runInstr (i : Instr) (s : State) : Host.Outcome State Fault Refusal :=
  if i.wf then exec i s else .refused .illFormed

/-- The next bytecode of interpreter `k` (R66, R67); nothing where the interpreter has none to run. -/
def runBytecode (k : Nat) (s : State) : Host.Outcome State Fault Refusal :=
  let s := { s with cur := k }
  if canStep s k && (s.interp k).prog != 0 then
    match decodeLerant (fetchBytecode s k) with
    | some i => exec i s
    | none => .fault (.noBytecode (fetchBytecode s k))
  else .next s

/-- One step of the package. -/
def step (s : State) : Host.Outcome State Fault Refusal :=
  match nextTurn s with
  | (.instr i, s) => runInstr i s
  | (.bytecode k, s) => runBytecode k s
  | (.pulse, s) => .next (pulse s)
  | (.nano, s) => .next (nano s)

/-- A bytecode stored where the next step fetches: word 0 of program handle 1, run by interpreter 0, whose packet is in
progress with nothing read yet (log entry 20). -/
def State.withFetchWord (s : State) (nbits w : Nat) : State :=
  let s := { s with turns := [.bytecode 0], fe := { s.fe with store := Tab.set 0 (storeIndex 1 0) (wordN (w % 2 ^ nbits)) s.fe.store } }
  s.setInterp 0 { Interp.init with queue := some 0, busy := true, prog := 1 }

end Sys2Proof.Machine
end

