-- ==== Sys2Proof/Safety.lean ====
section
/-!
DEFINITION. What counts as a safe run, in the terms that statements use: a turn that answers a next state, and a state whose
memory has its canonical form.
-/
namespace Sys2Proof

open Machine

/-- A step answers a next state. -/
def Runs (o : Host.Outcome State Fault Refusal) : Prop := ∃ s, o = .next s

/-- A step stops: a fault or a refusal. -/
def Stops (o : Host.Outcome State Fault Refusal) : Prop := (∃ f, o = .fault f) ∨ ∃ r, o = .refused r

/-- The memory of a state has its one canonical form. -/
abbrev MemoryOk (s : State) : Prop := Memory.wf s.hbm = true

/-- The bytecode that the next step of interpreter `k` fetches is no bytecode (R67). -/
def NoBytecode (s : State) (k : Nat) : Prop := decodeLerant (fetchBytecode s k) = none

end Sys2Proof
end

