-- ==== Sys2Proof/Certificates/Slice0/Obligations.lean ====
section
/-!
DEFINITION. The statements for the provers, family by family: what a step answers, what it leaves unchanged, where it
traps, and how bytecodes and slots are encoded.
-/
open Sys2Proof Sys2Proof.Machine

namespace Sys2Proof.Stmt

/-- The step answers the state `u`. -/
abbrev Gives (i : Instr) (s u : State) : Prop := exec i s = .next u

/-- The state after an operation of core `c` has scheduled the effect `fx`, `off` issue cycles on, in rank `rank`. -/
abbrev planned (s : State) (c off rank : Nat) (fx : Fx) : State := plan s c off rank fx

/-- Only core `c` differs, and of it only the list of effects that are due. -/
def OnlyDue (s u : State) (c : Nat) : Prop :=
  u = { s with cores := u.cores } ∧ (∀ k, k ≠ c → u.core k = s.core k) ∧ u.core c = { s.core c with due := (u.core c).due }

/-- Every byte of memory reads as before. -/
def SameMemory (s u : State) : Prop := ∀ a, readByte u.hbm a = readByte s.hbm a

/-- The strand on core `c` is in user mode, so a trap enters its handler and is no double fault. -/
def UserMode (s : State) (c : Nat) : Prop := (s.core c).mode = .user

end Sys2Proof.Stmt

open Sys2Proof.Stmt

/-! ### Reset, turns and decoding -/

/-- Reset (R385, R59, R60, R73, R66, R94, R116, R363, R367): no queue is mapped, the device time, the error log and the front end are
at their reset values, no translation is cached, no notify block and no barrier is valid, and no core holds a strand. That memory
lists nothing (log entry 5) and that the ports and vector registers of every core hold 0 (log entry 3) are the model's choices: the
manual gives no value there. -/
def Obligations.ResetState : Prop :=
  let s := State.reset
  s.hbm = [] ∧ s.fe.time = 0 ∧ (∀ q, (s.queue q).st = 0) ∧ s.fe.elogBase = 0 ∧ s.fe.elogWp = 0 ∧ s.fe.reqs = [] ∧ s.fe.teams = []
    ∧ s.xl.cache = [] ∧ (∀ b, flag (nbWord s b) 63 = false) ∧ (∀ i, flag (Tab.get 0 s.sync.barCtx i) 63 = false)
    ∧ (∀ c, (s.core c).team = none) ∧ (∀ c n, (s.core c).dup.port n = 0) ∧ (∀ c r, (s.core c).dup.vreg r = 0)

/-- The canonical form of memory (listed bytes in rising order, none of them 0) holds after reset (log entry 5). -/
def Obligations.ResetMemoryCanonical : Prop :=
 MemoryOk State.reset

/-- A turn that names a step runs exactly that step on the rest of the schedule; operands out of range are refused by
name (log entries 1 and 50). -/
def Sys2Proof.Stmt.StepRunsInstr : Prop :=
  ∀ (s : State) (i : Instr) (r : List Turn), s.turns = .instr i :: r →
    (i.wf = true → step s = exec i { s with turns := r }) ∧ (i.wf = false → step s = .refused .illFormed)

/-- A turn of interpreter `k` fetches its next bytecode, decodes it and runs it; a word that is no bytecode stops the run
by name; an interpreter with nothing to run changes nothing but the acting interpreter (R64, R66, R67). -/
def Sys2Proof.Stmt.StepRunsBytecode : Prop :=
  ∀ (s : State) (k : Nat) (r : List Turn), s.turns = .bytecode k :: r →
    let u := { s with turns := r, cur := k }
    (∀ i, canStep u k = true → (u.interp k).prog ≠ 0 → decodeLerant (fetchBytecode u k) = some i → step s = exec i u) ∧
    (canStep u k = true → (u.interp k).prog ≠ 0 → decodeLerant (fetchBytecode u k) = none →
      step s = .fault (.noBytecode (fetchBytecode u k))) ∧
    (canStep u k = false ∨ (u.interp k).prog = 0 → step s = .next u)

/-- A turn of the arithmetic clock and a turn of device time answer a next state (R5, R73). -/
def Sys2Proof.Stmt.StepRunsClocks : Prop :=
  ∀ (s : State) (r : List Turn),
    (s.turns = .pulse :: r → step s = .next (pulse { s with turns := r })) ∧
    (s.turns = .nano :: r → step s = .next (nano { s with turns := r }))

/-- Words of the manual: two bytecodes worked out after R67, a halt, a word with a nonzero unused field, and the first bundle
worked out after R162. Each decodes to the step it stands for. -/
def Obligations.DecodesWords : Prop :=
  decodeLerant 0x248003C0 = some (.ext 1 0 15 0) ∧
  decodeLerant 0x2C800012 = some (.bz 1 18) ∧
  decodeLerant 0x00000000 = some .lerantHalt ∧
  decodeLerant 0x00000001 = none ∧
  decodeSlots none 1 none [0x00284F, 0x083051, 0x00254E, 0x037A04] =
    ([⟨1, 0, .reg 0x00A, 0x04F⟩, ⟨2, 0, .imm 12, 0x051⟩, ⟨3, 0, .reg 0x009, 0x14E⟩, ⟨4, 0, .reg 0x0DE, 0x204⟩], none)

/-- The step has a word of 32 bits, and that word decodes to it. -/
def Sys2Proof.Stmt.HasWord (i : Instr) : Prop := ∃ w, w < 2 ^ 32 ∧ encodeLerant i = some w ∧ decodeLerant w = some i

/-- Every bytecode with operands in range has a word, and its word decodes to it: every operand at every value (R67). -/
def Sys2Proof.Stmt.LerantRoundTrip : Prop :=
  ∀ (a b : BitVec 3) (k : BitVec 4) (f n5 : BitVec 5) (h l : BitVec 6) (d : BitVec 8) (u : BitVec 16) (v : BitVec 20),
    (∀ i ∈ [Instr.lerantHalt, .ldpk a k, .ldi a v, .shin a v, .lerantMov a b, .lerantAdd a b, .lerantSub a b, .lerantAnd a b,
        .lerantOr a b, .ext a b h l, .addi a v, .bz a d, .bnz a d, .beq a b d, .bltu a b d, .rep a h n5, .ldsc a f, .stsc a f,
        .ldpa a h, .setf a f, .emitLaunch, .emitTransfer, .emitPinControl, .emitResynchronise, .emitAttest, .emitCommitMinVersion,
        .lerantRej u, .lerantStop u, .lerantTime a],
      i.wf = true → HasWord i) ∧
    (∀ (i : Instr) (w : Nat), i.wf = true → encodeLerant i = some w → decodeLerant w = some i)

/-- The other direction: a word that decodes to a step is that step's one word, so no two words stand for one bytecode
(R67). -/
def Sys2Proof.Stmt.LerantWordsUnique : Prop :=
  ∀ (i : Instr) (w : Nat), decodeLerant w = some i → encodeLerant i = some w

/-- A beat with fields in range decodes from its word `beatWord`, whose form is 1 to 5, with every path tag (R131, R150). -/
def Sys2Proof.Stmt.BeatRoundTrip : Prop :=
  ∀ (b : Beat) (tag c : Nat), b.core = c → b.fits = true → tag < 8 →
    decodeBeat c (tag * 2 ^ 21) = some (tag, .mxNop c) ∧
    decodeBeat c (beatWord tag 1 b) = some (tag, .mxPush b) ∧
    (b.noRow = true → decodeBeat c (beatWord tag 2 b) = some (tag, .mxShift b)) ∧
    (b.noLatch = true →
      decodeBeat c (beatWord tag 3 b) = some (tag, .mxAcc b) ∧
      decodeBeat c (beatWord tag 4 b) = some (tag, .mxDrain b) ∧
      decodeBeat c (beatWord tag 5 b) = some (tag, .mxDrainz b))

/-- An immediate of 64 bits decodes from the shortest chain of slots that holds it, whatever its value: from slot `k` on, with
path tag 0 (R132, R133). -/
def Sys2Proof.Stmt.ImmediateRoundTrip : Prop :=
  ∀ (v : Word) (dst k : Nat), dst < 1024 → dstWide dst = some false →
    decodeSlots none k none (encodeImm 0 v dst) = ([⟨k + chainLen v, 0, .imm v, dst⟩], none)

/-- A move between a source and a destination of one width decodes from its slot word, in any slot for 64 bits and in slots 1
and 2 for 1,024 bits; a pair of different widths makes its slot illegal (R132, R134, R136, R137). -/
def Sys2Proof.Stmt.MoveRoundTrip : Prop :=
  ∀ (src dst k : Nat) (x y : Bool), src < 512 → dst < 1024 → (src ≠ 0 ∨ dst ≠ 0) →
    srcWide src = some x → dstWide dst = some y →
    decodeSlots none k none [moveWord 0 0 src dst] =
      ([⟨k, 0, .reg src, dst⟩], if x != y || (x && decide (2 < k)) then some k else none)

/-! ### Scalar units -/

/-- The integer units (R165): the result of each operation, at every operand, is in the unit's latch from t+2. `a` is the
unit's port `.a`, `y` the triggering value. Completes, in every state: iaAdd, iaSub, iaAnd, iaOr, iaXor, iaAndn, iaShl, iaShr,
iaSar, iaRol, iaMin, iaMax, iaMinu, iaMaxu, iaNeg, iaAbs, iaClz, iaCtz, iaPopc, iaSxt, iaSel. -/
def Sys2Proof.Stmt.IaResults : Prop :=
  ∀ (t : Trig) (s : State),
    let a := portOf t s (pIAa t.copy)
    let y := t.y
    let k := portOf t s (pIAk t.copy)
    let res := fun (v : Word) => planned s t.core 2 rReg (.lat (lIA t.copy) v)
    Gives (.iaAdd t) s (res (BitVec.ofNat 64 (a.toNat + y.toNat))) ∧
    Gives (.iaSub t) s (res (BitVec.ofInt 64 ((a.toNat : Int) - y.toNat))) ∧
    Gives (.iaAnd t) s (res (a &&& y)) ∧
    Gives (.iaOr t) s (res (a ||| y)) ∧
    Gives (.iaXor t) s (res (a ^^^ y)) ∧
    Gives (.iaAndn t) s (res (a &&& ~~~y)) ∧
    Gives (.iaShl t) s (res (BitVec.ofNat 64 (a.toNat * 2 ^ (y.toNat % 64)))) ∧
    Gives (.iaShr t) s (res (BitVec.ofNat 64 (a.toNat / 2 ^ (y.toNat % 64)))) ∧
    Gives (.iaSar t) s (res (BitVec.ofInt 64 (a.toInt / 2 ^ (y.toNat % 64)))) ∧
    Gives (.iaRol t) s (res (a.rotateLeft (y.toNat % 64))) ∧
    Gives (.iaMin t) s (res (BitVec.ofInt 64 (min a.toInt y.toInt))) ∧
    Gives (.iaMax t) s (res (BitVec.ofInt 64 (max a.toInt y.toInt))) ∧
    Gives (.iaMinu t) s (res (BitVec.ofNat 64 (min a.toNat y.toNat))) ∧
    Gives (.iaMaxu t) s (res (BitVec.ofNat 64 (max a.toNat y.toNat))) ∧
    Gives (.iaNeg t) s (res (BitVec.ofInt 64 (-y.toInt))) ∧
    Gives (.iaAbs t) s (res (if y.toInt < 0 then -y else y)) ∧
    Gives (.iaClz t) s (res (wordN (leadZeros y.toNat 64))) ∧
    Gives (.iaCtz t) s (res (wordN (trailZeros y.toNat 64))) ∧
    Gives (.iaPopc t) s (res (wordN (popCount y.toNat 64))) ∧
    Gives (.iaSxt t) s (res (BitVec.ofInt 64 (sext y.toNat (k.toNat % 64 + 1)))) ∧
    Gives (.iaSel t) s (res (if condBit (s.core t.core) (k.toNat % 8) then a else y))

/-- Compares write C0 to C6 at t+2 with their outcome; naming C7, which is read-only, takes the illegal-operation trap
(R164, R165, R166). Completes, for a condition register other than C7: iaCmpeq, iaCmpne, iaCmplt, iaCmple, iaCmpltu, iaCmpleu,
iaTst. -/
def Sys2Proof.Stmt.IaCompares : Prop :=
  ∀ (t : Trig) (s : State),
    let a := portOf t s (pIAa t.copy)
    let y := t.y
    let i := (portOf t s (pIAk t.copy)).toNat % 8
    let set := fun (b : Bool) => planned s t.core 2 (rC (minorIA t.copy)) (.creg i b)
    (i ≠ 7 →
      Gives (.iaCmpeq t) s (set (decide (a = y))) ∧
      Gives (.iaCmpne t) s (set (decide (a ≠ y))) ∧
      Gives (.iaCmplt t) s (set (decide (a.toInt < y.toInt))) ∧
      Gives (.iaCmple t) s (set (decide (a.toInt ≤ y.toInt))) ∧
      Gives (.iaCmpltu t) s (set (decide (a.toNat < y.toNat))) ∧
      Gives (.iaCmpleu t) s (set (decide (a.toNat ≤ y.toNat))) ∧
      Gives (.iaTst t) s (set (decide (a &&& y ≠ 0)))) ∧
    (i = 7 → ∀ e ∈ [Instr.iaCmpeq t, .iaCmpne t, .iaCmplt t, .iaCmple t, .iaCmpltu t, .iaCmpleu t, .iaTst t],
      Gives e s (takeTrap s t.core (trapIllegal t.slot)))

/-- Products (R167): a half of the exact product is in IM.r from t+4. Completes, in every state: imMul, imMulh,
imMulhu, imMulhsu. -/
def Sys2Proof.Stmt.ImProducts : Prop :=
  ∀ (t : Trig) (s : State),
    let a := portOf t s pIMa
    let res := fun (x : Int) => planned s t.core 4 rReg (.lat lIM (BitVec.ofInt 64 x))
    Gives (.imMul t) s (res (a.toInt * t.y.toInt)) ∧
    Gives (.imMulh t) s (res (a.toInt * t.y.toInt / 2 ^ 64)) ∧
    Gives (.imMulhu t) s (res ((a.toNat * t.y.toNat : Nat) / 2 ^ 64)) ∧
    Gives (.imMulhsu t) s (res (a.toInt * t.y.toNat / 2 ^ 64))

/-- Divides (R168, R169): with no divide in progress and the register not empty, the register becomes empty and the divider
holds the quotient or the remainder, rounded toward zero; by 0 the quotient is all ones and the remainder is the dividend,
and a quotient beyond the signed range wraps. A second divide stalls. Completes, with no divide in progress: imDiv, imDivu,
imRem, imRemu. -/
def Sys2Proof.Stmt.ImDivides : Prop :=
  ∀ (t : Trig) (s : State),
    let x := s.core t.core
    let a := portOf t s pIMa
    let r := (portOf t s pIMd).toNat % 64
    let u := fun (v : Word) (n : Nat) =>
      s.setCore t.core { x with dup := x.dup.emptyG r, divide := some ⟨r, v, n, x.cyc, false⟩ }
    (x.divide = none → (x.dup.greg r).st ≠ .empty →
      (t.y = 0 → Gives (.imDiv t) s (u (BitVec.allOnes 64) 6) ∧ Gives (.imDivu t) s (u (BitVec.allOnes 64) 6) ∧
        Gives (.imRem t) s (u a 6) ∧ Gives (.imRemu t) s (u a 6)) ∧
      (t.y ≠ 0 →
        (∃ n, Gives (.imDiv t) s (u (BitVec.ofInt 64 (a.toInt.tdiv t.y.toInt)) n)) ∧
        (∃ n, Gives (.imRem t) s (u (BitVec.ofInt 64 (a.toInt.tmod t.y.toInt)) n)) ∧
        (∃ n, Gives (.imDivu t) s (u (BitVec.ofNat 64 (a.toNat / t.y.toNat)) n)) ∧
        (∃ n, Gives (.imRemu t) s (u (BitVec.ofNat 64 (a.toNat % t.y.toNat)) n)))) ∧
    (x.divide ≠ none → ∀ e ∈ [Instr.imDiv t, .imDivu t, .imRem t, .imRemu t], Gives e s s)

/-- The divider's reply (R169): once its cycles have passed, the register is full with the result, unless a rollback
discarded it; before, nothing changes. Completes: divideReply. -/
def Sys2Proof.Stmt.DivideReply : Prop :=
  ∀ (c : Nat) (s : State) (d : Divide), (s.core c).divide = some d →
    (d.left ≠ 0 → Gives (.divideReply c) s (s.setCore c (s.core c))) ∧
    (d.left = 0 → d.discard = false →
      ∃ u, Gives (.divideReply c) s u ∧ (u.core c).divide = none ∧ (u.core c).dup.greg d.reg = ⟨d.v, .full⟩ ∧
        (∀ k, k ≠ c → u.core k = s.core k) ∧ u.hbm = s.hbm)

/-- Pointer arithmetic (R170, R171, R33): a pointer moved by y elements of its width, malformed where the exact address leaves
56 bits; differences, width and class fields, byte addresses and pointers from an address. Completes, in every state: bpPadd, bpPsub,
bpPdiff, bpPwset, bpPcset, bpPbyte, bpPfrom. -/
def Sys2Proof.Stmt.BpPointers : Prop :=
  ∀ (t : Trig) (s : State),
    let a := portOf t s pBPa
    let k := portOf t s pBPk
    let y := t.y
    let res := fun (v : Word) => planned s t.core 2 rReg (.lat lBP v)
    let at_ := fun (z : Int) => (ptrAddr a : Int) + z * ptrWidth a
    (∀ z : Int, (ptrAddr (ptrStep a z) : Int) = at_ z % 2 ^ 56 ∧
      (ptrMal (ptrStep a z) = true ↔ ptrMal a = true ∨ at_ z < 0 ∨ 2 ^ 56 ≤ at_ z) ∧
      ptrClass (ptrStep a z) = ptrClass a ∧ ptrWc (ptrStep a z) = ptrWc a) ∧
    Gives (.bpPadd t) s (res (ptrStep a y.toInt)) ∧ Gives (.bpPsub t) s (res (ptrStep a (-y.toInt))) ∧
    Gives (.bpPdiff t) s (res (BitVec.ofInt 64 (((ptrAddr a : Int) - ptrAddr y).tdiv (ptrWidth a)))) ∧
    Gives (.bpPwset t) s (res (setFld y 59 57 (bits k.toNat 6 4))) ∧
    Gives (.bpPcset t) s (res (setFld y 63 60 (bits k.toNat 3 0))) ∧
    Gives (.bpPbyte t) s (res (wordN (ptrAddr y / 8))) ∧
    Gives (.bpPfrom t) s (res (mkPtr (bits k.toNat 3 0) (bits k.toNat 6 4) y.toNat))

/-- Pointer checks write C0 to C6 at t+2, and naming C7 traps (R170, R171); elements of BP.v are read, sign-extended or
replaced, and an element beyond the value takes the illegal-operation trap (R172). Completes, for a condition register other
than C7 and an element inside the value: bpPchk, bpPmal, bpElget, bpElsgn, bpElins. -/
def Sys2Proof.Stmt.BpChecksAndElements : Prop :=
  ∀ (t : Trig) (s : State),
    let k := portOf t s pBPk
    let c := bits k.toNat 10 8
    let v := (s.core t.core).dup.wport pBPv
    let w := widthOf (bits k.toNat 6 4)
    let i := t.y.toNat
    let j := (portOf t s pBPa).toNat
    (c ≠ 7 →
      Gives (.bpPchk t) s (planned s t.core 2 (rC 2) (.creg c (!ptrMal t.y && chkAligned t.y (k.getLsbD 11)))) ∧
      Gives (.bpPmal t) s (planned s t.core 2 (rC 2) (.creg c (ptrMal t.y)))) ∧
    (c = 7 → Gives (.bpPchk t) s (takeTrap s t.core (trapIllegal t.slot)) ∧
      Gives (.bpPmal t) s (takeTrap s t.core (trapIllegal t.slot))) ∧
    (i < 1024 / w →
      Gives (.bpElget t) s (planned s t.core 2 rReg (.lat lBP (wordN (v.toNat / 2 ^ (i * w) % 2 ^ w)))) ∧
      Gives (.bpElsgn t) s (planned s t.core 2 rReg (.lat lBP (BitVec.ofInt 64 (sext (v.toNat / 2 ^ (i * w) % 2 ^ w) w))))) ∧
    (j < 1024 / w →
      Gives (.bpElins t) s (planned s t.core 3 rReg (.wlat lBPw (setFld v (j * w + w - 1) (j * w) t.y.toNat)))) ∧
    (1024 / w ≤ i → Gives (.bpElget t) s (takeTrap s t.core (trapIllegal t.slot)) ∧
      Gives (.bpElsgn t) s (takeTrap s t.core (trapIllegal t.slot))) ∧
    (1024 / w ≤ j → Gives (.bpElins t) s (takeTrap s t.core (trapIllegal t.slot)))

/-! ### Scratchpads and tag tables -/

namespace Sys2Proof.Stmt

/-- The value of y addresses `len` bits of the strand's own scratchpad, with the alignment of width `w`, in banks that no foreign
pin holds (R194). -/
def OwnSpad (t : Trig) (s : State) (len w : Nat) : Prop :=
  ptrMal t.y = false ∧ 0 < len ∧ ptrAddr t.y + len ≤ spadBits ∧ alignedW (ptrAddr t.y) w = true ∧
    pinBlocked s (peerCore s t.core (s.core t.core).tcore) (ptrAddr t.y) len = false

/-- The value of y addresses `len` bits at `o` of the scratchpad of team peer `k`, through that peer's window (R194). -/
def PeerSpad (t : Trig) (s : State) (k o len w : Nat) : Prop :=
  ptrMal t.y = false ∧ 0 < len ∧ k < 4 ∧ k < teamSize s t.core ∧ k ≠ (s.core t.core).tcore ∧
    ptrAddr t.y = (k + 1) * 2 ^ 22 + o ∧ o + len ≤ spadBits ∧ alignedW o w = true ∧
    pinBlocked s (peerCore s t.core k) o len = false

/-- No fence or acquire holds a local access of y's class behind an access that has yet to perform (R185, R196; log entry 56). -/
def NotHeld (t : Trig) (s : State) : Prop := heldLocal s t.core (ptrClass t.y) = false

/-- A local write at t+2, with its place among the strand's accesses (R191, R196). -/
def localWrite (t : Trig) (s : State) (fx : Fx) : State :=
  pushAcc (planned s t.core 2 (rLs t.copy) fx) t.core
    { accBase s t.core with cls := ptrClass t.y, op := .near ((s.core t.core).cyc + 2) }

/-- The state in which an operation that needs a checkpoint acts: in the handler it shields the strand (R159, R353). -/
def shielded (s : State) (c : Nat) : State :=
  if (s.core c).mode = .handler then s.onCore c (fun x => { x with shielded := true }) else s

/-- The spill form is not selected (R187). -/
def NoSpill (t : Trig) (s : State) : Prop := flag (portOf t s (pLSd t.copy)) 8 = false

end Sys2Proof.Stmt

/-- Loads and stores of the own scratchpad (R191, R194, R195): a load reads at t+1 and a store writes at t+2, at the address of y
and with the width of y; a wide form moves 1,024 bits; a write takes its place among the strand's accesses, nothing else
changes. Completes, on the own scratchpad: lsLd, lsLds, lsSt, lsLdv, lsStv, lsStm, lsZero. -/
def Sys2Proof.Stmt.LsOwnLoadsAndStores : Prop :=
  ∀ (t : Trig) (s : State),
    let c := t.core
    let o := ptrAddr t.y
    let w := ptrWidth t.y
    let a := portOf t s (pLSa t.copy)
    let wide := (s.core c).dup.wport (pLSw t.copy)
    NotHeld t s →
    (NoSpill t s → OwnSpad t s w w →
      Gives (.lsLd t) s (planned s c 1 rRead (.spRead t.copy o w false none)) ∧
      Gives (.lsLds t) s (planned s c 1 rRead (.spRead t.copy o w true none)) ∧
      Gives (.lsSt t) s (localWrite t s (.spWrite o w (BitVec.ofNat 1024 (a.toNat % 2 ^ w)) none))) ∧
    (OwnSpad t s 1024 64 →
      Gives (.lsLdv t) s (planned s c 1 rRead (.spReadV t.copy o)) ∧
      Gives (.lsStv t) s (localWrite t s (.spWrite o 1024 wide none)) ∧
      Gives (.lsStm t) s (localWrite t s (.spWrite o 1024 wide (some a)))) ∧
    (0 < a.toNat → a.toNat ≤ 1024 → OwnSpad t s a.toNat 1 →
      Gives (.lsZero t) s (localWrite t s (.spWrite o a.toNat 0 none))) ∧
    (a.toNat = 0 ∨ 1024 < a.toNat → Gives (.lsZero t) s (takeTrap s c (trapIllegal t.slot)))

/-- Read-modify-write of the scratchpad (R195): swap and bor with an effective checkpoint act at t+2; without one they take the
illegal-operation trap. Completes, beside an effective checkpoint: lsSwap, lsBor. -/
def Sys2Proof.Stmt.LsReadModifyWrite : Prop :=
  ∀ (t : Trig) (s : State),
    let c := t.core
    let o := ptrAddr t.y
    let w := ptrWidth t.y
    let u := shielded s c
    let a := portOf t s (pLSa t.copy)
    (t.ckpt = true → NotHeld t u → OwnSpad t s w w →
      Gives (.lsSwap t) s (localWrite t u (.spSwap t.copy o w (wordN (a.toNat % 2 ^ w)))) ∧
      Gives (.lsBor t) s (localWrite t u (.spBor o w a))) ∧
    (t.ckpt = false → Gives (.lsSwap t) s (takeTrap s c (trapIllegal t.slot)) ∧
      Gives (.lsBor t) s (takeTrap s c (trapIllegal t.slot)))

/-- Peer windows (R193, R194, R195): stores and ors to a team peer take a place among the core's accesses, and a load of one
empties its register until the reply; ldpr of the own scratchpad reads it at t+1. Completes, for a peer in the team: lsSt, lsStv,
lsStm, lsLdpr, lsLdprs, lsBor. -/
def Sys2Proof.Stmt.LsPeerForms : Prop :=
  ∀ (t : Trig) (s : State) (k o : Nat),
    let c := t.core
    let w := ptrWidth t.y
    let a := portOf t s (pLSa t.copy)
    let r := (portOf t s (pLSd t.copy)).toNat % 64
    let wide := (s.core c).dup.wport (pLSw t.copy)
    let at_ := fun (s : State) (op : AOp) (len : Nat) =>
      { accBase s c with cls := ptrClass t.y, op := op, addr := o, len := len, peer := peerCore s c k }
    (NoSpill t s → PeerSpad t s k o w w →
      Gives (.lsSt t) s (pushAcc s c { at_ s .peerSt w with data := BitVec.ofNat 1024 (a.toNat % 2 ^ w) })) ∧
    (PeerSpad t s k o 1024 64 →
      Gives (.lsStv t) s (pushAcc s c { at_ s .peerSt 1024 with data := wide }) ∧
      Gives (.lsStm t) s (pushAcc s c { at_ s .peerSt 1024 with data := wide, ben := some a })) ∧
    (PeerSpad t s k o w w → ((s.core c).dup.greg r).st ≠ .empty →
      Gives (.lsLdpr t) s (issueAcc s c { at_ s (.peerLd false) w with reg := r }) ∧
      Gives (.lsLdprs t) s (issueAcc s c { at_ s (.peerLd true) w with reg := r })) ∧
    (OwnSpad t s w w → NotHeld t s → ((s.core c).dup.greg r).st ≠ .empty →
      let u := s.onCore c (fun x => { x with dup := x.dup.emptyG r })
      Gives (.lsLdpr t) s (planned u c 1 rRead (.spRead t.copy (ptrAddr t.y) w false (some r))) ∧
      Gives (.lsLdprs t) s (planned u c 1 rRead (.spRead t.copy (ptrAddr t.y) w true (some r)))) ∧
    (t.ckpt = true → PeerSpad t s k o w w →
      Gives (.lsBor t) s (pushAcc (shielded s c) c { at_ (shielded s c) .peerBor w with data := a.zeroExtend 1024 }))

/-- A peer access that nothing holds back performs at the peer's scratchpad (R193, R238), once local writes ordered before it have
landed: a store of an element writes it there and leaves the list of accesses, a longer store writes its next 64-bit word; a load of
correctable words delivers the bits at its address, and no byte of memory changes. Completes: peerAccessPerform. -/
def Sys2Proof.Stmt.LsPeerPerforms : Prop :=
  ∀ (c id : Nat) (s : State) (a : Acc), findAcc (s.core c) id = some a → blocked s c a = false →
    let v := settle s c a
    (∀ sx, a.op = .peerLd sx → a.dead = false → a.err = none → spadErrs (v.core a.peer).spadBad a.addr a.len = [] →
      ∃ u, Gives (.peerAccessPerform c id) s u ∧ SameMemory v u ∧
        (u.core c).dup.greg a.reg = ⟨extend sx (spadGet (v.core a.peer).spad a.addr a.len) a.len, .full⟩) ∧
    (a.op = .peerSt → a.len ≤ 64 →
      Gives (.peerAccessPerform c id) s ((spStore v a.peer a.addr a.len a.data.toNat).onCore c (fun x => dropAcc x a.id))) ∧
    (∀ w, a.op = .peerSt → 64 < a.len →
      let ws := wordsOf a.addr a.len (match a.ben with | none => 2 ^ a.len - 1 | some k => stmBits k) a.data.toNat
      ws[a.got.length]? = some w →
      Gives (.peerAccessPerform c id) s ((storeWord v a.peer a.addr a.got.length w).onCore c (fun x =>
        if a.got.length + 1 < ws.length then putAcc x { a with got := Tab.put a.got.length none a.got } else dropAcc x a.id))) ∧
    (a.op = .peerBor →
      Gives (.peerAccessPerform c id) s
        ((spRmw v a.peer a.addr a.len (fun old => old ||| a.data.toNat % 2 ^ a.len)).1.onCore c (fun x => dropAcc x a.id)))

/-- Tag operations (R197, R198): lookups and reads act at t+1, writes and clears at t+2, over the entries that port .a names, in the
bank that port .d names; a range whose last entry lies before its first is illegal. A scout makes speculative reads only (R199).
Completes: lsTset, lsTget, lsTlook, lsTclr, lsTscout. -/
def Sys2Proof.Stmt.LsTagTables : Prop :=
  ∀ (t : Trig) (s : State),
    let c := t.core
    let a := portOf t s (pLSa t.copy)
    let bank := bits (portOf t s (pLSd t.copy)).toNat 13 10
    let first := bits a.toNat 25 16
    let last := bits a.toNat 9 0
    let i := bits t.y.toNat 9 0
    Gives (.lsTset t) s (planned s c 2 (rLs t.copy) (.tagSet bank i a)) ∧
    Gives (.lsTget t) s (planned s c 1 rRead (.tagGet t.copy bank i)) ∧
    (first ≤ last →
      Gives (.lsTlook t) s (planned s c 1 rRead (.tagLook t.copy bank first last (bits t.y.toNat 47 0))) ∧
      Gives (.lsTclr t) s (planned s c 2 (rLs t.copy) (.tagClr bank first last))) ∧
    (last < first → Gives (.lsTlook t) s (takeTrap s c (trapIllegal t.slot)) ∧
      Gives (.lsTclr t) s (takeTrap s c (trapIllegal t.slot))) ∧
    (0 < a.toNat → a.toNat ≤ 2 ^ 20 → 0 < region (ptrAddr t.y) → region (ptrAddr t.y) < 14 → ptrMal t.y = false →
      Gives (.lsTscout t) s (pushAcc s c { accBase s c with
        cls := ptrClass t.y, op := .scout, addr := ptrAddr t.y, len := a.toNat }))

/-- A lookup of the tag table (R192, R197, R198): the lowest index in the range whose entry is valid and holds the key; on a miss bit 63
is set and the word holds the lowest index with an invalid entry, or 0x400 when there is none. An uncorrectable entry counts as
invalid; with none in the range the lookup changes nothing. -/
def Sys2Proof.Stmt.TagLookup : Prop :=
  ∀ (s : State) (c b key first n : Nat),
    let bad := fun i => (s.core c).tagsBad.contains (1024 * b + i)
    let e := fun i => if bad i = true then 0 else Tab.get 0 (s.core c).tags (1024 * b + i)
    let hit := fun i => (e i).getLsbD 63 = true ∧ bits (e i).toNat 47 0 = key
    let r := tagLookup s c b key first n
    ((∀ i, first ≤ i → i < first + n → bad i = false) → r.1 = s) ∧
    (∀ i, first ≤ i → i < first + n → hit i → (∀ j, first ≤ j → j < i → ¬ hit j) → r.2 = wordN i) ∧
    ((∀ i, first ≤ i → i < first + n → ¬ hit i) →
      (∀ i, first ≤ i → i < first + n → i ≠ 0x400 → (e i).getLsbD 63 = false → (∀ j, first ≤ j → j < i → (e j).getLsbD 63 = true) →
        r.2 = wordN (2 ^ 63 + i)) ∧
      ((∀ i, first ≤ i → i < first + n → (e i).getLsbD 63 = true) → r.2 = wordN (2 ^ 63 + 0x400)))

/-- Where a scratchpad access traps instead (R33, R194, R348): a malformed pointer, an address beyond the windows, a window of no
team member, a foreign pin's bank, a misaligned element. -/
def Sys2Proof.Stmt.LsTargetTraps : Prop :=
  ∀ (t : Trig) (s : State),
    let c := t.core
    let a := ptrAddr t.y
    let w := ptrWidth t.y
    let traps := fun (tr : Trap) =>
      (NoSpill t s → Gives (.lsLd t) s (takeTrap s c tr) ∧ Gives (.lsLds t) s (takeTrap s c tr) ∧
        Gives (.lsSt t) s (takeTrap s c tr)) ∧
      Gives (.lsLdpr t) s (takeTrap s c tr) ∧ Gives (.lsLdprs t) s (takeTrap s c tr)
    (ptrMal t.y = true → traps (trapMal t.slot a)) ∧
    (ptrMal t.y = false → region a ≠ 0 → traps (trapAddr t.slot a eUnmapped)) ∧
    (ptrMal t.y = false → spadBits ≤ a → a < 2 ^ 22 → traps (trapAddr t.slot a eUnmapped)) ∧
    (ptrMal t.y = false → a < spadBits → spadBits < a + w → traps (trapAddr t.slot a eUnmapped)) ∧
    (∀ k, ptrMal t.y = false → k < 4 → teamSize s c ≤ k → a / 2 ^ 22 = k + 1 → a % 2 ^ 22 < spadBits →
      traps (trapAddr t.slot a ePeerwin)) ∧
    (ptrMal t.y = false → a + w ≤ spadBits → pinBlocked s (peerCore s c (s.core c).tcore) a w = true →
      traps (trapAddr t.slot a ePerm)) ∧
    (ptrMal t.y = false → a + w ≤ spadBits → pinBlocked s (peerCore s c (s.core c).tcore) a w = false →
      alignedW a w = false → traps (trapAlign t.slot a))

/-- Scratchpad bits (R7, R38, R190): a store of `n` bits leaves those bits at the stored value and every bit outside them as it was,
in every scratchpad; no byte of memory changes. -/
def Sys2Proof.Stmt.ScratchpadBits : Prop :=
  ∀ (s : State) (c o n v : Nat), (s.core c).spadBad = [] →
    let u := spStore s c o n v
    spadGet (u.core c).spad o n = v % 2 ^ n ∧
    (∀ p m, p + m ≤ o ∨ o + n ≤ p → spadGet (u.core c).spad p m = spadGet (s.core c).spad p m) ∧
    (∀ k, k ≠ c → u.core k = s.core k) ∧ SameMemory s u

namespace Sys2Proof.Stmt

/-- Of the state only core `c` changes, and of it only its registers, by `f`; and by the same change the checkpoint's registers, where
the effect was issued before the bundle after the checkpoint (R178). -/
def OnlyDup (s u : State) (c iss : Nat) (f : Dup → Dup) : Prop :=
  let x := s.core c
  (x.ck.cyc ≤ iss → u = s.setCore c { x with dup := f x.dup }) ∧
  (iss < x.ck.cyc → u = s.setCore c { x with dup := f x.dup, ck := { x.ck with dup := f x.ck.dup } })

/-- No word of the scratchpad of core `c` is uncorrectable, no local write has performed ahead of its cycle, and no write of an output
stream falls due: the scratchpad stands as it reads. -/
def PlainSpad (s : State) (c : Nat) : Prop :=
  (s.core c).spadBad = [] ∧ (s.core c).early = [] ∧ ∀ d ∈ (s.core c).due, (s.core c).cyc < d.at_

/-- Of the state only core `c` changes, and of it only the bits [o, o+n) of its scratchpad, which hold `v`. -/
def OnlySpad (s u : State) (c o n v : Nat) : Prop :=
  u = s.setCore c { s.core c with spad := (u.core c).spad } ∧ spadGet (u.core c).spad o n = v % 2 ^ n ∧
    ∀ p m, p + m ≤ o ∨ o + n ≤ p → spadGet (u.core c).spad p m = spadGet (s.core c).spad p m

end Sys2Proof.Stmt

/-- An effect in one of a core's result latches reaches its cycle (R158, R160, R178): that latch takes the value, in the registers
and, for an effect issued before the checkpoint's bundle, in the checkpoint; nothing else of the core, no other core and no byte of
memory changes. -/
def Sys2Proof.Stmt.LatchEffects : Prop :=
  ∀ (s : State) (c iss n : Nat) (v : Word),
    let x := s.core c
    let u := landFx s c iss (.lat n v)
    u = s.setCore c (u.core c) ∧
    (u.core c).dup = { x.dup with lat := (u.core c).dup.lat } ∧ (u.core c).dup.latch n = v ∧
    (∀ m, m ≠ n → (u.core c).dup.latch m = x.dup.latch m) ∧
    (x.ck.cyc ≤ iss → u.core c = { x with dup := (u.core c).dup }) ∧
    (iss < x.ck.cyc → u.core c = { x with dup := (u.core c).dup, ck := { x.ck with dup := x.ck.dup.setLatch n v } })

/-- What lands in the registers of a core (R158, R160, R164, R178, R268, R269): a wide latch, a condition register, a reply in a G
register, an operand descriptor, a format entry, and the level with its base. Each takes the value, in the registers and, for an
effect issued before the checkpoint, in the checkpoint too; every other register reads as before. -/
def Sys2Proof.Stmt.RegisterEffects : Prop :=
  (∀ (s : State) (c iss : Nat),
    (∀ n v, OnlyDup s (landFx s c iss (.wlat n v)) c iss (fun d => d.setWlatch n v)) ∧
    (∀ i b, OnlyDup s (landFx s c iss (.creg i b)) c iss (fun d => d.setC i b)) ∧
    (∀ r v, OnlyDup s (landFx s c iss (.gFull r v)) c iss (fun d => d.writeG r v)) ∧
    (∀ m r, OnlyDup s (landFx s c iss (.md m r)) c iss (fun d => d.setMd m r)) ∧
    (∀ k e, OnlyDup s (landFx s c iss (.fmtSet k e)) c iss (fun d => d.setFmt k e)) ∧
    (∀ l b, OnlyDup s (landFx s c iss (.fmtLvl l b)) c iss (fun d => { d with level := l, fbase := b }))) ∧
  (∀ (d : Dup) (n : Nat),
    (∀ v : Wide, d.setWlatch n v = { d with wlat := (d.setWlatch n v).wlat } ∧
      ∀ m, (d.setWlatch n v).wlatch m = if m = n then v else d.wlatch m) ∧
    (∀ b, n < 7 → d.setC n b = { d with c := (d.setC n b).c } ∧ ∀ m, m < 7 → (d.setC n b).creg m = if m = n then b else d.creg m) ∧
    (∀ v : Word, d.writeG n v = { d with g := (d.writeG n v).g } ∧
      ∀ m, (d.writeG n v).greg m = if m = n then ⟨v, .full⟩ else d.greg m) ∧
    (∀ r, d.setMd n r = { d with md := (d.setMd n r).md } ∧ ∀ m, (d.setMd n r).mdOf m = if m = n then r else d.mdOf m) ∧
    (∀ e, d.setFmt n e = { d with fmt := (d.setFmt n e).fmt } ∧ ∀ m, (d.setFmt n e).fmtOf m = if m = n then e else d.fmtOf m))

/-- What lands in a scratchpad and its tag table (R7, R160, R191, R195, R198), where every word is correctable: a read finds the bits of
its cycle and schedules them for its latch or register at t+3, a wide one at t+4; a write, masked or not, changes its bits alone; swap
and bor read and write as one step; a tag entry is written, read or made invalid, and no other entry changes. -/
def Sys2Proof.Stmt.ScratchpadEffects : Prop :=
  ∀ (s : State) (c iss o n : Nat) (copy : Bool), PlainSpad s c →
    let x := s.core c
    let at_ := fun (off : Nat) (fx : Fx) => x.schedAt iss off rReg fx
    let old := spadGet x.spad o n
    (∀ sx, landFx s c iss (.spRead copy o n sx none) = s.setCore c (at_ 3 (.lat (lLSr copy) (extend sx old n))) ∧
      ∀ r, landFx s c iss (.spRead copy o n sx (some r)) = s.setCore c (at_ 3 (.gFull r (extend sx old n)))) ∧
    landFx s c iss (.spReadV copy o) = s.setCore c (at_ 4 (.wlat (lLSv copy) (BitVec.ofNat 1024 (spadGet x.spad o 1024)))) ∧
    (∀ v : Wide, OnlySpad s (landFx s c iss (.spWrite o n v none)) c o n v.toNat) ∧
    (∀ (v : Wide) (m : Word), let u := landFx s c iss (.spWrite o 1024 v (some m))
      u = s.setCore c { x with spad := (u.core c).spad } ∧
      (∀ k, k < 64 → spadGet (u.core c).spad (o + 16 * k) 16 =
        if m.getLsbD k = true then v.toNat / 2 ^ (16 * k) % 2 ^ 16 else spadGet x.spad (o + 16 * k) 16) ∧
      ∀ p k, p + k ≤ o ∨ o + 1024 ≤ p → spadGet (u.core c).spad p k = spadGet x.spad p k) ∧
    (∀ v : Word, n ≤ 64 → ∃ u, OnlySpad s u c o n v.toNat ∧
      landFx s c iss (.spSwap copy o n v) = u.setCore c ((u.core c).schedAt iss 3 rReg (.lat (lLSr copy) (wordN old)))) ∧
    (∀ v : Word, OnlySpad s (landFx s c iss (.spBor o n v)) c o n (old ||| v.toNat % 2 ^ n)) ∧
    (∀ b i, x.tagsBad = [] → i < 1024 →
      let tag := fun (u : State) (k : Nat) => Tab.get 0 (u.core c).tags k
      landFx s c iss (.tagGet copy b i) = s.setCore c (at_ 3 (.lat (lLSt copy) (tag s (1024 * b + i)))) ∧
      (∀ v, let u := landFx s c iss (.tagSet b i v)
        u = s.setCore c { x with tags := (u.core c).tags } ∧
        ∀ k, tag u k = if k = 1024 * b + i then v else tag s k) ∧
      (∀ j, i ≤ j → let u := landFx s c iss (.tagClr b i j)
        u = s.setCore c { x with tags := (u.core c).tags } ∧
        ∀ k, tag u k = if 1024 * b + i ≤ k ∧ k ≤ 1024 * b + j then tag s k &&& 0x7FFFFFFFFFFFFFFF#64 else tag s k))

/-- What lands in the notify registers, the system registers and the link queues (R160, R311 to R313, R370, R375): nclr clears one count
and its bit and keeps the word, and forgets the consumptions withheld of it; swr sets its field; a binding stands, with the credits its
connect has brought; a freed queue is unbound, and keeps released rows until they are sent. -/
def Sys2Proof.Stmt.SystemEffects : Prop :=
  ∀ (s : State) (c iss n : Nat),
    let x := s.core c
    (∀ b j, let u := landFx s c iss (.nclr b j)
      (∀ k, notifyOf u k = if k = 256 * b + j then ⟨0, false, (notifyOf s k).word⟩ else notifyOf s k) ∧
      u.core c = { x with consume := x.consume.filter (fun e => e.1 != 256 * b + j) } ∧
      u = { s with cores := u.cores, sync := u.sync } ∧ (∀ k, k ≠ c → u.core k = s.core k)) ∧
    (∀ v, landFx s c iss (.srWrite 1 v) = s.setCore c (if 256 ≤ fld v 23 0 then { x with cdload := fld v 23 0 } else x)) ∧
    (∀ v, landFx s c iss (.srWrite 2 v) = s.setCore c { x with park := fld v 47 0 }) ∧
    (∀ v, landFx s c iss (.srWrite 3 v) = s.setCore c { x with tcount := fld v 31 0 }) ∧
    (∀ rlen key omask wn place, let q := (landFx s c iss (.lqBind n false rlen key omask wn place)).core c
      q = x.setLq n (q.lqOf n) ∧ (q.lqOf n).bound = true ∧ (q.lqOf n).out = false ∧ (q.lqOf n).rlen = rlen ∧
        (q.lqOf n).key = key ∧ (q.lqOf n).rows = (x.lqOf n).rows) ∧
    (∀ rlen key omask wn place w t, Machine.window s (ctxOf s c) wn = (t, .ok w) →
      let q := ((landFx s c iss (.lqBind n true rlen key omask wn place)).core c).lqOf n
      q.bound = true ∧ q.out = true ∧ q.rlen = rlen ∧ q.key = key ∧ q.omask = omask ∧ q.tdom = w.domain ∧ q.tmem = w.member ∧
        q.tctx = w.tctx ∧ q.credits = (x.lqOf n).credits ∧ q.failed = (x.lqOf n).failed) ∧
    (let u := landFx s c iss (.lqFree n)
     ((x.lqOf n).bound = false → u = s) ∧
     ((x.lqOf n).bound = true → ((u.core c).lqOf n).bound = false ∧
       ((x.lqOf n).out = true → ((u.core c).lqOf n).rows = (x.lqOf n).rows.filter (·.rel)) ∧
       ((x.lqOf n).out = false → findKey u (ctxOf s c) (x.lqOf n).key = none)))

/-- Scheduling an effect changes nothing but the list of effects that are due, on that core alone (R160): the frame of every
statement here whose next state is a planned effect. -/
def Sys2Proof.Stmt.PlannedFrame : Prop :=
  ∀ (s : State) (c off rank : Nat) (fx : Fx),
    OnlyDue s (planned s c off rank fx) c ∧ SameMemory s (planned s c off rank fx) ∧
    (∀ d, d ∈ ((planned s c off rank fx).core c).due ↔
      d ∈ (s.core c).due ∨ d = ⟨(s.core c).cyc + off, rank, (s.core c).cyc, fx⟩)

/-! ### Global memory -/

namespace Sys2Proof.Stmt

/-- The value of y is a well-formed address of regions 1 to 7 with `w` bits below bit address 2^55, and a request slot is free
(R216, R217). -/
def GmIn (t : Trig) (s : State) (w : Nat) : Prop :=
  ptrMal t.y = false ∧ 1 ≤ region (ptrAddr t.y) ∧ region (ptrAddr t.y) ≤ 7 ∧ ptrAddr t.y + w ≤ 2 ^ 55 ∧
    outstanding (s.core t.core) < 2048

/-- Port .d asks for acquire (bit 6) or release (bit 7) (R215). -/
def acquire (t : Trig) (s : State) : Bool := (portOf t s pGMd).getLsbD 6
def release_ (t : Trig) (s : State) : Bool := (portOf t s pGMd).getLsbD 7

/-- The scope of port .q is one of 0 to 5 (R216). -/
def ScopeOk (t : Trig) (s : State) : Prop := bits (portOf t s pGMq).toNat 18 16 < 6

/-- The class masks that acquire and release give an access: port .q where the qualifier is set, else none (R215, R232). -/
def acqMask (t : Trig) (s : State) : Nat := if acquire t s then bits (portOf t s pGMq).toNat 63 48 else 0
def relMask (t : Trig) (s : State) : Nat := if release_ t s then bits (portOf t s pGMq).toNat 47 32 else 0

/-- The scope of port .q (R215). -/
def gmScopeQ (t : Trig) (s : State) : Nat := bits (portOf t s pGMq).toNat 18 16

/-- The register that port .d names. -/
def gmDest (t : Trig) (s : State) : Nat := (portOf t s pGMd).toNat % 64

end Sys2Proof.Stmt

/-- Loads and stores of global memory (R215 to R222): a load empties its register and takes its place among the core's accesses;
a store enters the withholding buffer, and no byte of memory changes before a checkpoint releases it. Completes, for an aligned
element of regions 1 to 7 with a free slot: gmLd, gmLds, gmSt. -/
def Sys2Proof.Stmt.GmLoadsAndStores : Prop :=
  ∀ (t : Trig) (s : State),
    let c := t.core
    let a := ptrAddr t.y
    let w := ptrWidth t.y
    let r := gmDest t s
    let x := s.core c
    (GmIn t s w → alignedW a w = true → (acquire t s = false ∨ ScopeOk t s) → (x.dup.greg r).st ≠ .empty →
      let acc := { accBase s c with
        cls := ptrClass t.y, addr := a, len := w, reg := r, acq := acqMask t s, scope := gmScopeQ t s }
      Gives (.gmLd t) s (issueAcc s c { acc with op := .ld false }) ∧
      Gives (.gmLds t) s (issueAcc s c { acc with op := .ld true })) ∧
    (GmIn t s w → alignedW a w = true → (release_ t s = false ∨ ScopeOk t s) →
      x.wb.length + unsent x + wbNeeds x.wb (ptrClass t.y) a w ≤ 256 →
      ∃ u, Gives (.gmSt t) s u ∧ SameMemory s u ∧ u = s.setCore c { x with wb := (u.core c).wb, nextId := x.nextId + 1 } ∧
        (x.wb = [] → a % 256 + w ≤ 256 → (u.core c).wb =
          [⟨a / 256, ptrClass t.y,
            [⟨x.nextId, a, w, BitVec.ofNat 256 ((portOf t s pGMa).toNat % 2 ^ w), relMask t s, gmScopeQ t s⟩], true⟩])) ∧
    (∀ e ∈ [Instr.gmLd t, .gmLds t, .gmSt t],
      (acquire t s = false ∨ ScopeOk t s) → (release_ t s = false ∨ ScopeOk t s) →
      (ptrMal t.y = true → Gives e s (takeTrap s c (trapMal t.slot a))) ∧
      (ptrMal t.y = false → region a = 14 → x.privileged = false → Gives e s (takeTrap s c (trapPrivAddr t.slot a))) ∧
      (ptrMal t.y = false → (region a = 0 ∨ 8 ≤ region a) → region a ≠ 14 →
        Gives e s (takeTrap s c (trapAddr t.slot a eUnmapped))) ∧
      (ptrMal t.y = false → 1 ≤ region a → region a ≤ 7 → a + w ≤ 2 ^ 55 → alignedW a w = false →
        Gives e s (takeTrap s c (trapAlign t.slot a))))

/-- Atomics (R225 to R229), prefetches (R230) and device-register accesses (R231): where each issues. An atomic or a device access
needs an effective checkpoint and, for arithmetic, a naturally aligned element of 8, 16, 32 or 64 bits; the bitwise forms take any
bits inside one word. A device access needs privilege. Completes: gmCas, gmSwap, gmAdd, gmFadd, gmMin, gmMax, gmMinu,
gmMaxu, gmIncb, gmAnd, gmOr, gmXor, gmPref, gmDrd, gmDwr. -/
def Sys2Proof.Stmt.GmAtomicsAndDevice : Prop :=
  ∀ (t : Trig) (s : State),
    let c := t.core
    let u := shielded s c
    let a := ptrAddr t.y
    let w := ptrWidth t.y
    let r := gmDest t s
    let d := portOf t s pGMd
    let v := portOf t s pGMa
    let acc := { accBase u c with
      cls := ptrClass t.y, addr := a, reg := r, acq := acqMask t s, rel := relMask t s, scope := gmScopeQ t s }
    let at_ := fun (idx len : Nat) => issueAcc u c { acc with
      op := .atomic idx (bits d.toNat 12 8), len := len, data := v.zeroExtend 1024, cmp := portOf t s pGMb }
    let whole := fun (n : Nat) => (n = 8 ∨ n = 16 ∨ n = 32 ∨ n = 64) ∧ a % n = 0
    ((s.core c).dup.greg r).st ≠ .empty → ScopeOk t s →
    (t.ckpt = true → GmIn t s w → whole w →
      Gives (.gmCas t) s (at_ 3 w) ∧ Gives (.gmSwap t) s (at_ 4 w) ∧ Gives (.gmAdd t) s (at_ 5 w) ∧
      Gives (.gmMin t) s (at_ 7 w) ∧ Gives (.gmMax t) s (at_ 8 w) ∧ Gives (.gmMinu t) s (at_ 9 w) ∧
      Gives (.gmMaxu t) s (at_ 10 w) ∧ Gives (.gmIncb t) s (at_ 14 w)) ∧
    (∀ n, t.ckpt = true → n = (if bits d.toNat 12 8 = 0 then 32 else 16) → bits d.toNat 12 8 ≤ 2 → GmIn t s n → a % n = 0 →
      Gives (.gmFadd t) s (at_ 6 n)) ∧
    (∀ n, n = bits d.toNat 21 16 + 1 → t.ckpt = true → GmIn t s n → a % 64 + n ≤ 64 →
      Gives (.gmAnd t) s (at_ 11 n) ∧ Gives (.gmOr t) s (at_ 12 n) ∧ Gives (.gmXor t) s (at_ 13 n)) ∧
    (0 < v.toNat → v.toNat ≤ 2 ^ 20 → GmIn t s w →
      Gives (.gmPref t) s (pushAcc s c { accBase s c with cls := ptrClass t.y, op := .pref, addr := a, len := v.toNat })) ∧
    (t.ckpt = true → (s.core c).privileged = true → ptrMal t.y = false → region a = 14 → outstanding (s.core c) < 2048 →
      Gives (.gmDrd t) s (issueAcc u c { acc with op := .drd, rel := 0 }) ∧
      ((s.core c).wb.length + unsent (s.core c) < 256 →
        Gives (.gmDwr t) s (pushAcc u c { acc with op := .dwr, data := v.zeroExtend 1024, reg := 0, acq := 0 }))) ∧
    (t.ckpt = true → (s.core c).privileged = false → Gives (.gmDrd t) s (takeTrap s c (trapPriv t.slot)) ∧
      Gives (.gmDwr t) s (takeTrap s c (trapPriv t.slot))) ∧
    (t.ckpt = false → bits d.toNat 12 8 ≤ 2 →
      ∀ e ∈ [Instr.gmCas t, .gmSwap t, .gmAdd t, .gmFadd t, .gmMin t, .gmMax t, .gmMinu t, .gmMaxu t, .gmIncb t, .gmAnd t,
          .gmOr t, .gmXor t, .gmDrd t, .gmDwr t],
        Gives e s (takeTrap s c (trapIllegal t.slot)))

/-- What an atomic leaves in memory for the old element, its operand and its comparand, all of `w` bits: the new element and whether it
is written at all. Index 3 is cas, 4 swap, 5 add, 7 to 10 the minima and maxima (R225), 6 fadd, whose sum is exact and rounded once to
nearest even (R227), 11 to 13 and, or and xor (R228), 14 incb (R229). -/
def Sys2Proof.Stmt.AtomicValues : Prop :=
  ∀ (w old a b fmt : Nat), 0 < w → w ≤ 64 → old < 2 ^ w → a < 2 ^ w → b < 2 ^ w →
    let new := fun (idx : Nat) => atomicNew idx fmt old a b w
    (old = b → new 3 = (a, true)) ∧ (old ≠ b → (new 3).2 = false) ∧
    new 4 = (a, true) ∧ new 5 = ((old + a) % 2 ^ w, true) ∧
    (∀ f, fmt ≤ 2 → Fmt.ofCode fmt = some f → f.width = w →
      let x := floatVal f old
      let z := floatVal f a
      ((x.isNan = true ∨ z.isNan = true ∨ ∃ n, x = .inf n ∧ z = .inf (!n)) → new 6 = (f.nanCode, true)) ∧
      (∀ n, x = .inf n → z.isNan = false → z ≠ .inf (!n) → new 6 = (old, true)) ∧
      (∀ n, z = .inf n → x.isNan = false → x ≠ .inf (!n) → new 6 = (a, true)) ∧
      (new 6 = ((convert (addVal x z 0) f 0 false 0).code, true))) ∧
    new 7 = (if sext old w ≤ sext a w then old else a, true) ∧ new 8 = (if sext a w ≤ sext old w then old else a, true) ∧
    new 9 = (min old a, true) ∧ new 10 = (max old a, true) ∧
    new 11 = (old &&& a, true) ∧ new 12 = (old ||| a, true) ∧ new 13 = (old ^^^ a, true) ∧
    (old < a → new 14 = (old + 1, true)) ∧ (a ≤ old → (new 14).2 = false) ∧
    (∀ idx ∈ [3, 4, 5, 7, 8, 9, 10, 11, 12, 13, 14], (new idx).1 < 2 ^ w)

/-- An access of a core performs when nothing earlier holds it back and its address translates to a correctable sector (R218, R219,
R225, R231, R370, R371), once the local writes ordered before it have landed: a load inside one sector delivers the bits at its
physical address under the strand's own stores; an atomic delivers the old element and writes the new one; a device access reads or
writes the register; a wake and an arrival, from two issue cycles after their bundle (R160), and a consumption act on the notify register or
barrier. Completes: longLatencyReply. -/
def Sys2Proof.Stmt.AccessesPerform : Prop :=
  ∀ (c id : Nat) (s : State) (a : Acc),
    findAcc (s.core c) id = some a → blocked s c a = false → a.got = [] → a.parked = [] → a.err = none → a.dead = false →
    let s' := settle s c a
    (∀ sx v p, a.op = .ld sx → 0 < a.len → a.len ≤ 64 → a.addr % 256 + a.len ≤ 256 →
      Machine.translate s' a.ctx a.addr gStrand 0 false = (v, .ok p) → v.hbmBad.contains (p / 256) = false →
      ∃ u, Gives (.longLatencyReply c id 0) s u ∧ u.hbm = v.hbm ∧
        (ownSends (v.core c) a = [] → findAcc (u.core c) id = none) ∧
        (u.core c).dup.greg a.reg = ⟨extend sx
          ((ownSubs (v.core c) a.team a.pid).foldl (overlaySub a.addr a.len) (hbmBits v.hbm p a.len)) a.len, .full⟩) ∧
    (∀ idx fmt v p, a.op = .atomic idx fmt → Machine.translate s' a.ctx a.addr gStrand 2 false = (v, .ok p) →
      v.hbmBad.contains (p / 256) = false →
      let old := hbmBits v.hbm p a.len
      let new := atomicNew idx fmt old a.data.toNat a.cmp.toNat a.len
      ∃ u, Gives (.longLatencyReply c id 0) s u ∧ (u.core c).dup.greg a.reg = ⟨wordN old, .full⟩ ∧
        u.hbm = (if new.2 then (storePart v p a.len new.1).1 else v).hbm) ∧
    (∀ v, a.op = .drd → devRead s' a.addr = (v, none) →
      ∃ u, Gives (.longLatencyReply c id 0) s u ∧ (u.core c).dup.greg a.reg = ⟨v, .full⟩ ∧ SameMemory s' u) ∧
    (∀ u, a.op = .dwr →
      devWrite (s'.onCore c (fun x => dropAcc x id)) (.strand a.ctx c) a.addr (a.data.truncate 64) = (u, none) →
      Gives (.longLatencyReply c id 0) s u) ∧
    (a.op = .nsig → a.iss + 2 ≤ (s.core c).cyc → Gives (.longLatencyReply c id 0) s
      (wakeArrive (s'.onCore c (fun x => dropAcc x id)) a.addr (a.data.truncate 48))) ∧
    (a.op = .consume → ∃ u, Gives (.longLatencyReply c id 0) s u ∧
      notifyOf u a.addr = { notifyOf s' a.addr with cnt := (notifyOf s' a.addr).cnt - a.len } ∧ SameMemory s' u) ∧
    (a.op = .hbar → a.iss + 2 ≤ (s.core c).cyc → barOwned s' a.addr a.ctx = true → (s'.core c).team = some a.team →
      ∃ u, Gives (.longLatencyReply c id 0) s u ∧ barrierOf u a.addr = arriveAt (barrierOf s' a.addr) a.len ∧
        (u.core c).dup.arrival = some (a.addr, (barrierOf s' a.addr).gen) ∧ SameMemory s' u)

/-- A released store performs at its physical address, and only there (R223, R237, R39): an entry that holds one store inside its
sector leaves its bits at the stored value, and every other bit of memory as its translation left it. Completes: withheldEntrySend. -/
def Sys2Proof.Stmt.ReleasedStorePerforms : Prop :=
  ∀ (c id : Nat) (s v : State) (a : Acc) (e : WEnt) (w : WSub) (p : Nat),
    findAcc (s.core c) id = some a → blocked s c a = false → a.got = [] → a.parked = [] →
    a.op = .send e → e.subs = [w] → 0 < w.len → 256 * e.sector ≤ w.lo → w.lo + w.len ≤ 256 * (e.sector + 1) →
    Machine.translate (settle s c a) a.ctx w.lo gStrand (if w.lo % 8 = 0 ∧ w.len % 8 = 0 then 1 else 3) false = (v, .ok p) →
    v.hbmBad = [] →
    ∃ u, Gives (.withheldEntrySend c id) s u ∧
      hbmBits u.hbm p w.len = w.v.toNat % 2 ^ w.len ∧
      (∀ q n, q + n ≤ p ∨ p + w.len ≤ q → hbmBits u.hbm q n = hbmBits v.hbm q n) ∧
      findAcc (u.core c) id = none ∧ (∀ k, k ≠ c → u.core k = v.core k)

/-- Bits of memory (R7, R39): a write of `n` bits leaves those bits at the value written and every bit outside them as it was, and
keeps the canonical form. -/
def Sys2Proof.Stmt.MemoryBits : Prop :=
  ∀ (m : List Host.Cell) (p n v : Nat),
    hbmBits (hbmPut m p n v) p n = v % 2 ^ n ∧
    (∀ q k, q + k ≤ p ∨ p + n ≤ q → hbmBits (hbmPut m p n v) q k = hbmBits m q k) ∧
    (Memory.wf m = true → Memory.wf (hbmPut m p n v) = true)

/-- Translation (R110, R111, R115, R117): an access that translates lands at a physical address with the same offset in its page of
64 KiB; of memory, only the accessed and dirty bits (bits 6 and 5) of one leaf word can change, each from 0 to 1, and a speculative walk
changes no bit; canonical memory stays canonical. Outside regions 1 to 7 nothing translates. -/
def Obligations.TranslationLaws : Prop :=
  ∀ (s u : State) (ctx a g kind : Nat) (spec : Bool) (r : XRes), Machine.translate s ctx a g kind spec = (u, r) →
    (∀ p, r = .ok p → p % 2 ^ 19 = a % 2 ^ 19 ∧ 1 ≤ region a ∧ region a ≤ 7) ∧
    (spec = true → u.hbm = s.hbm) ∧
    (∃ q m, m ∈ [0, 0x20, 0x40, 0x60] ∧ hbmBits u.hbm q 64 = hbmBits s.hbm q 64 ||| m ∧
      ∀ r n, r + n ≤ q ∨ q + 64 ≤ r → hbmBits u.hbm r n = hbmBits s.hbm r n) ∧
    (Memory.wf s.hbm = true → Memory.wf u.hbm = true) ∧
    (region a = 0 ∨ 8 ≤ region a → u = s ∧ r = .err eUnmapped) ∧
    u.cores = s.cores ∧ u.fe = s.fe

/-! ### Streams -/

namespace Sys2Proof.Stmt

/-- Channel `k` of core `c` in the registers. -/
abbrev chan (s : State) (c k : Nat) : ChDup := (s.core c).dup.chanOf k

/-- The channel that port .k names. -/
def seChan (t : Trig) (s : State) : Nat := (portOf t s pSEk).toNat % 8

/-- No stream operation of the strand has yet to take effect, so the channels stand as the registers show them (R212). -/
def SeSettled (s : State) (c : Nat) : Prop := ∀ d ∈ (s.core c).due, isSeAct d = false

end Sys2Proof.Stmt

/-- Stream operations (R212, R213): each takes effect at t+2 on the channel that port .k names, in the states of the channel that
allow it; sstat gives the status word that the bundle finds at t+3; swait goes on once the items it asks for stand in the buffer, or nothing pushed is left to write. Completes, on a
channel in a state that allows it: seSstat, seSstop, seSfree, seSflush, seSskip, seSseek, seSstart, seSgrp, seSwait. -/
def Sys2Proof.Stmt.SeOperations : Prop :=
  ∀ (t : Trig) (s : State), SeSettled s t.core →
    let c := t.core
    let k := seChan t s
    let ch := chan s c k
    let x := s.core c
    let a := portOf t s pSEa
    let act := fun (op : Nat) (y a : Word) (d : BitVec 512) => planned s c 2 rSe (.seAct op k y a d x.nextId)
    (t.y.toNat < 4 → Gives (.seSstat t) s (planned s c 3 rReg (.lat lSE (statWord x k t.y.toNat)))) ∧
    (4 ≤ t.y.toNat → Gives (.seSstat t) s (takeTrap s c (trapIllegal t.slot))) ∧
    (ch.st ≠ .unbound →
      Gives (.seSstop t) s (act 3 0 0 0) ∧ Gives (.seSfree t) s (act 8 0 0 0) ∧
      (feedsRunning x k = false → Gives (.seSflush t) s (act 6 0 0 0) ∧ Gives (.seSskip t) s (act 7 t.y 0 0) ∧
        (vecLegal ch (vecOf t.y a) = true → Gives (.seSseek t) s (act 4 t.y a 0))) ∧
      (feedsRunning x k = true → Gives (.seSflush t) s (takeTrap s c (trapProg t.slot 8)) ∧
        Gives (.seSskip t) s (takeTrap s c (trapProg t.slot 8))) ∧
      (vecLegal ch (vecOf t.y a) = false → Gives (.seSseek t) s (takeTrap s c (trapIllegal t.slot))) ∧
      ((dMem ch.desc = 3 → lqStartable x k ch.desc = true) → (dIx ch.desc = true → indexStartable x k ch.desc = true) →
        Gives (.seSstart t) s (act 2 0 0 0)) ∧
      (ch.st = .idle → 3 ≤ dLev ch.desc → dIx ch.desc = false → 6 ≤ ptrWc t.y → ptrMal t.y = false →
        Gives (.seSgrp t) s (act 1 t.y 0 0)) ∧
      (dOut ch.desc = true → (x.chanRun k).resv = 0 → (x.chanRun k).flt = false → pendingOut x k = 0 → rowsWait x ch = false →
        Gives (.seSwait t) s s) ∧
      (dOut ch.desc = false → dMem ch.desc ≠ 3 → (x.chanRun k).flt = false → (∀ i ∈ (x.chanRun k).items, isHere i = true) →
        min (min t.y.toNat (itemsLeft x k)) (holdable ch) ≤ (x.chanRun k).items.length → Gives (.seSwait t) s s)) ∧
    (ch.st = .unbound → ∀ e ∈ [Instr.seSstop t, .seSfree t, .seSflush t, .seSskip t, .seSseek t, .seSstart t, .seSwait t],
      Gives e s (takeTrap s c (trapProg t.slot 8)))

/-- sbind (R201, R212): a legal descriptor of eight words in the own scratchpad, on a boundary of 512 bits, is bound to the channel at
t+2; an illegal one, or one off the boundary, is an illegal operation. Completes, for a legal descriptor: seSbind. -/
def Sys2Proof.Stmt.SeBind : Prop :=
  ∀ (t : Trig) (s : State),
    let c := t.core
    let o := ptrAddr t.y
    let d := BitVec.ofNat 512 (spadGet (s.core c).spad o 512)
    OwnSpad t s 512 1 → spadErrs (s.core c).spadBad o 512 = [] →
    (o % 512 = 0 → descLegal d = true → ptrMal (dWord d 0) = false →
      Gives (.seSbind t) s (planned s c 2 rSe (.seAct 0 (seChan t s) t.y 0 d (s.core c).nextId))) ∧
    (o % 512 ≠ 0 ∨ descLegal d = false → Gives (.seSbind t) s (takeTrap s c (trapIllegal t.slot)))

/-- What a stream operation does when it takes effect (R200, R212): binding makes the channel idle at the descriptor, start runs it
from its first item, seek from the vector given, skip passes items, stop leaves it idle and free unbound. -/
def Sys2Proof.Stmt.SeEffects : Prop :=
  ∀ (s : State) (c iss k : Nat) (y a : Word) (d : BitVec 512) (place : Nat),
    let ch := chan s c k
    let after := fun (op : Nat) => chan (landFx s c iss (.seAct op k y a d place)) c k
    after 0 = { ChDup.init with st := .idle, desc := d } ∧
    after 1 = { ch with grp := some y } ∧
    (dIx ch.desc = false →
      after 2 = { ch with st := if walkTotal ch = 0 then .done else .running, pos := Vec.zero, cons := 0, skip := 0 } ∧
      (after 4).st = .running ∧ (after 4).pos = vecOf y a ∧ (after 4).desc = ch.desc ∧ after 6 = ch ∧
      (ch.grp = none →
        let n := ch.cons + min y.toNat (walkTotal ch - ch.cons)
        (after 7).cons = n ∧ (after 7).pos = ordVec ch n ∧ (after 7).desc = ch.desc)) ∧
    (ch.st ≠ .unbound → after 3 = { ch with st := .idle }) ∧
    after 8 = { ch with st := .unbound }

/-- Items of streams (R202 to R204, R206, R246, R247). The address of an item of a plain walk is the base plus each index times its
stride. A channel of a strand with nothing read ahead begins the item at its position; the part of an item in one sector, when it is what is
left to do, reads the bits at its address; a returned item stands in the buffer; the oldest pushed item inside one sector is written
at its address, and nowhere else. Completes: streamReadIssue, streamItemArrival, streamOutputWrite. -/
def Sys2Proof.Stmt.StreamItems : Prop :=
  ∀ (c k : Nat) (s : State),
    let x := s.core c
    let ch := chan s c k
    let r := x.chanRun k
    let ctx := ctxOf s c
    (∀ i (v : Vec), ch.grp = none → dIx ch.desc = false →
      let a := (ptrAddr (dWord ch.desc 0) : Int) + v.i0 * dStride ch.desc 0 + v.i1 * dStride ch.desc 1 + v.i2 * dStride ch.desc 2
        + v.i3 * dStride ch.desc 3 + v.i4 * dStride ch.desc 4
      (itemFault ch.desc a = none → itemAt x k i v = .item a.toNat) ∧
      (∀ e, itemFault ch.desc a = some e → itemAt x k i v = .flt e (wrapw a 56) v)) ∧
    (∀ a, x.team ≠ none → ch.st = .running → dMem ch.desc = 0 → dOut ch.desc = false → ch.skip = 0 → r.flt = false → r.items = [] → r.offPark = none →
      vecEnd ch (posVec x k) = false → itemAt x k 0 (posVec x k) = .item a →
      ∃ w, Gives (.streamReadIssue c k) s w ∧ SameMemory s w ∧ chan w c k = ch ∧
        ((w.core c).chanRun k).items = [⟨posVec x k, a, .reading [] []⟩]) ∧
    (∀ s0 i it u q sec, x.team ≠ none → ch.st = .running → dMem ch.desc = 0 → choose s (streamActs s c k) = (s0, some (.part i sec)) →
      r.items[i]? = some it →
      it.st = .reading [] [] → sectors it.addr (dWidth ch.desc) = [sec] → it.addr % 256 + dWidth ch.desc ≤ 256 →
      let b := readAcc s0 c k it.vec it.addr (dWidth ch.desc) 0
      blocked s0 c b = false →
      Machine.translate (settle s0 c b) ctx it.addr gStream 0 (!decide (i < dueCount x k)) = (u, .ok q) →
      u.hbmBad.contains (q / 256) = false →
      ∃ w, Gives (.streamReadIssue c k) s w ∧ w.hbm = u.hbm ∧
        ((w.core c).chanRun k).items[i]? = some { it with st := .read (BitVec.ofNat 4096 (hbmBits u.hbm q (dWidth ch.desc))) none }) ∧
    (∀ i it v, r.items[i]? = some it → it.st = .read v none →
      ∃ w, Gives (.streamItemArrival c k i) s w ∧ SameMemory s w ∧ chan w c k = ch ∧
        ((w.core c).chanRun k).items = r.items.set i { it with st := .here v }) ∧
    (∀ a body vec p u sec, oldestOut x k = some a → a.op = .sout body k vec → a.parked = [] → a.sent = false → a.err = none →
      a.peer = 0 → a.got = [] → 0 < a.len → sectors a.addr a.len = [sec] → a.addr % 256 + a.len ≤ 256 → region a.addr < 8 →
      blocked s c a = false →
      Machine.translate (settle s c a) a.ctx a.addr gStream (storeKind a.addr a.len) false = (u, .ok p) → u.hbmBad = [] →
      ∃ w, Gives (.streamOutputWrite c k) s w ∧ hbmBits w.hbm p a.len = body.toNat % 2 ^ a.len ∧
        (∀ q n, q + n ≤ p ∨ p + a.len ≤ q → hbmBits w.hbm q n = hbmBits u.hbm q n) ∧ findAcc (w.core c) a.id = none)

/-! ### Vector units -/

namespace Sys2Proof.Stmt

/-- The event of a vector operation (R291): the first of its `n` lanes that has one posts it at the result's cycle, and with
none nothing is posted. -/
def Posted (t : WTrig) (s u : State) (off minor op n : Nat) (ev : Nat → Bool) : Prop :=
  ((∀ l, l < n → ev l = false) → u = s) ∧
  (∀ l, l < n → ev l = true → (∀ j, j < l → ev j = false) →
    u = planned s t.core off (rEvent minor) (.event (vecEvent (s.core t.core).dup op l)))

/-- VX answers `n` lanes of width `w`, lane `l` being `g l`, in its latch at t + `off`, with the event of its lanes. -/
def VxGives (i : Instr) (t : WTrig) (s : State) (op off w : Nat) (g : Nat → Nat × Bool) : Prop :=
  ∃ v u, Gives i s (planned u t.core off rReg (.wlat lVXr v)) ∧ (∀ l, l < 1024 / w → laneAt v w l = (g l).1 % 2 ^ w) ∧
    Posted t s u off 1 op (1024 / w) (fun l => (g l).2)

/-- VC answers the value `v` in its wide latch at t + `off`, with the event of its lanes. -/
def VcGives (i : Instr) (t : WTrig) (s : State) (op off n : Nat) (ev : Nat → Bool) (p : Wide → Prop) : Prop :=
  ∃ v u, Gives i s (planned u t.core off rReg (.wlat lVCr v)) ∧ p v ∧ Posted t s u off 2 (32 + op) n ev

/-- VC answers a word in its narrow latch at t + `off`. -/
def VcWord (i : Instr) (t : WTrig) (s : State) (off : Nat) (p : Word → Prop) : Prop :=
  ∃ v, Gives i s (planned s t.core off rReg (.lat lVCs v)) ∧ p v

/-- A step that takes the illegal-operation trap. -/
def Illegal (i : Instr) (t : WTrig) (s : State) : Prop := Gives i s (takeTrap s t.core (trapIllegal t.slot))

end Sys2Proof.Stmt

/-- Float lanes (R278 to R281): each lane of VX.r is the exact result rounded once into the format of VX.m, in its rounding mode and
saturation, at t+4 or, for exp2, rcp and rsq, t+6; minimum, maximum, absolute value and negation give an operand. Other formats
are illegal. Completes, for a float format: vxFadd, vxFsub, vxFmul, vxFma, vxFmin, vxFmax, vxFabs, vxFneg, vxExp2, vxRcp, vxRsq. -/
def Sys2Proof.Stmt.VxFloatLanes : Prop :=
  ∀ (t : WTrig) (s : State),
    let m := (s.core t.core).dup.port pVXm
    let ops := [Instr.vxFadd t, .vxFsub t, .vxFmul t, .vxFma t, .vxFmin t, .vxFmax t, .vxFabs t, .vxFneg t, .vxExp2 t, .vxRcp t,
      .vxRsq t]
    (∀ f, Fmt.ofCode (bits m.toNat 4 0) = some f → f.isF = true →
      let w := f.width
      let mode := bits m.toNat 6 5
      let A := fun (l : Nat) => floatVal f (laneAt ((s.core t.core).dup.wport pVXa) w l)
      let B := fun (l : Nat) => floatVal f (laneAt ((s.core t.core).dup.wport pVXb) w l)
      let Y := fun (l : Nat) => floatVal f (laneAt t.y w l)
      let a := fun (l : Nat) => laneAt ((s.core t.core).dup.wport pVXa) w l
      let y := fun (l : Nat) => laneAt t.y w l
      let rnd := fun (v : Val) => let r := convert v f mode (m.getLsbD 7) 0; (r.code, r.event)
      let nan := fun (l : Nat) => (A l).isNan || (Y l).isNan
      VxGives (.vxFadd t) t s 0 4 w (fun l => rnd (addVal (A l) (Y l) mode)) ∧
      VxGives (.vxFsub t) t s 1 4 w (fun l => rnd (addVal (A l) (Y l).negate mode)) ∧
      VxGives (.vxFmul t) t s 2 4 w (fun l => rnd (mulVal (A l) (Y l))) ∧
      VxGives (.vxFma t) t s 3 4 w (fun l => rnd (addVal (mulVal (A l) (B l)) (Y l) mode)) ∧
      VxGives (.vxFmin t) t s 4 4 w (fun l => (if nan l then f.nanCode else if valLt (Y l) (A l) then y l else a l, false)) ∧
      VxGives (.vxFmax t) t s 5 4 w (fun l => (if nan l then f.nanCode else if valLt (A l) (Y l) then y l else a l, false)) ∧
      VxGives (.vxFabs t) t s 6 4 w (fun l => (if (Y l).isNan then f.nanCode else y l % 2 ^ (w - 1), false)) ∧
      VxGives (.vxFneg t) t s 7 4 w (fun l => (if (Y l).isNan then f.nanCode else y l ^^^ 2 ^ (w - 1), false)) ∧
      VxGives (.vxExp2 t) t s 8 6 w (fun l => rnd (exp2Val (Y l))) ∧
      VxGives (.vxRcp t) t s 9 6 w (fun l => rnd (rcpVal (Y l))) ∧
      VxGives (.vxRsq t) t s 10 6 w (fun l => rnd (rsqVal (Y l)))) ∧
    ((∀ f, Fmt.ofCode (bits m.toNat 4 0) = some f → f.isF = false) → ∀ e ∈ ops, Illegal e t s)

/-- Integer lanes wrap, or clamp with an event (R284); compares write a mask of 16-bit granules (R282); sel, and and or act on bits
(R283). Completes, for a format of the operation: vxIadd, vxIsub, vxImul, vxCmpeq, vxCmplt, vxCmple; in every state: vxSel, vxAnd,
vxOr. -/
def Sys2Proof.Stmt.VxIntegersCompares : Prop :=
  ∀ (t : WTrig) (s : State),
    let m := (s.core t.core).dup.port pVXm
    let a := (s.core t.core).dup.wport pVXa
    let res := fun (i : Instr) (off : Nat) (p : Wide → Prop) => ∃ v, Gives i s (planned s t.core off rReg (.wlat lVXr v)) ∧ p v
    (∀ f, Fmt.ofCode (bits m.toNat 4 0) = some f → f.isInt = true →
      let w := f.width
      let x := fun (l : Nat) => laneInt f (laneAt a w l)
      let y := fun (l : Nat) => laneInt f (laneAt t.y w l)
      let fit := fun (v : Int) => if m.getLsbD 7 then
          (wrapw (max (intRange f).1 (min (intRange f).2 v)) w, decide (v < (intRange f).1 ∨ (intRange f).2 < v))
        else (wrapw v w, false)
      VxGives (.vxIadd t) t s 15 3 w (fun l => fit (x l + y l)) ∧
      VxGives (.vxIsub t) t s 16 3 w (fun l => fit (x l - y l)) ∧
      VxGives (.vxImul t) t s 17 3 w (fun l => fit (x l * y l))) ∧
    (∀ f, Fmt.ofCode (bits m.toNat 4 0) = some f → f.isF = true ∨ (f.isInt = true ∧ f.width ≠ 8) →
      let x := fun (j : Nat) => valueOf f (laneAt a f.width (16 * j / f.width)) 0
      let y := fun (j : Nat) => valueOf f (laneAt t.y f.width (16 * j / f.width)) 0
      let mask := fun (i : Instr) (rel : Val → Val → Bool) =>
        ∃ c : Word, Gives i s (planned s t.core 3 rReg (.lat lVXc c)) ∧ ∀ j, j < 64 → c.getLsbD j = rel (x j) (y j)
      mask (.vxCmpeq t) numEq ∧ mask (.vxCmplt t) numLt ∧ mask (.vxCmple t) (fun p q => numLt p q || numEq p q)) ∧
    res (.vxSel t) 2 (fun v => ∀ j, j < 1024 → v.getLsbD j = if m.getLsbD (j / 16) then a.getLsbD j else t.y.getLsbD j) ∧
    res (.vxAnd t) 3 (fun v => v = a &&& t.y) ∧ res (.vxOr t) 3 (fun v => v = a ||| t.y) ∧
    ((∀ f, Fmt.ofCode (bits m.toNat 4 0) = some f → f.isInt = false) → ∀ e ∈ [Instr.vxIadd t, .vxIsub t, .vxImul t], Illegal e t s) ∧
    ((∀ f, Fmt.ofCode (bits m.toNat 4 0) = some f → f.isF = false ∧ (f.isInt = false ∨ f.width = 8)) →
      ∀ e ∈ [Instr.vxCmpeq t, .vxCmplt t, .vxCmple t], Illegal e t s)

/-- Conversions of lanes (R285 to R288): cvt between unscaled formats, narrowing into part `h` of VC.a or widening part `h` of y; pack
into and unpk from a scaled format, each block of 32 lanes with its scale byte; packs computes scale bytes. Completes, for legal
formats: vcCvt, vcPack, vcUnpk, vcPacks. -/
def Sys2Proof.Stmt.VcConversions : Prop :=
  ∀ (t : WTrig) (s : State),
    let x := (s.core t.core).dup
    let m := (x.port pVCm).toNat
    let a := x.wport pVCa
    let b := x.wport pVCb
    let h := bits m 16 13
    let sb := bits m 23 17
    let mode := bits m 11 10
    let sat := (x.port pVCm).getLsbD 12
    ∀ f d, Fmt.ofCode (bits m 4 0) = some f → Fmt.ofCode (bits m 9 5) = some d →
    (f.isN = false → d.isN = false → h < max f.width d.width / min f.width d.width →
      let n := 1024 / max f.width d.width
      let r := fun (l : Nat) => convert (valueOf f (laneAt t.y f.width l) 0) d mode sat 0
      (d.width ≤ f.width → VcGives (.vcCvt t) t s 0 5 n (fun l => (r l).event) (fun v =>
        (∀ l, l < n → laneAt v d.width (h * n + l) = (r l).code % 2 ^ d.width) ∧
        (∀ j, j < 1024 → (j < h * n * d.width ∨ (h + 1) * n * d.width ≤ j) → v.getLsbD j = a.getLsbD j))) ∧
      (f.width < d.width → VcGives (.vcCvt t) t s 0 5 (h * n + n) (fun l => decide (h * n ≤ l) && (r l).event) (fun v =>
        ∀ l, l < n → laneAt v d.width l = (r (h * n + l)).code % 2 ^ d.width))) ∧
    (f.isN = true ∨ d.isN = true → Illegal (.vcCvt t) t s) ∧
    (packLegal (vcSet (x.port pVCm)) f d = true →
      let n := 1024 / f.width
      let r := fun (l : Nat) => convert (valueOf f (laneAt t.y f.width l) 0) d mode true (bits b.toNat (8 * (sb + l / 32) + 7) (8 * (sb + l / 32)))
      VcGives (.vcPack t) t s 1 5 n (fun l => (r l).event) (fun v =>
        (∀ l, l < n → bits v.toNat ((h * n + l) * d.width + d.width - 1) ((h * n + l) * d.width) = (r l).code % 2 ^ d.width) ∧
        (∀ j, j < 1024 → (j < h * n * d.width ∨ (h + 1) * n * d.width ≤ j) → v.getLsbD j = a.getLsbD j))) ∧
    (packLegal (vcSet (x.port pVCm)) d f = true →
      let n := 1024 / d.width
      let sc := fun (l : Nat) => bits b.toNat (8 * (sb + l / 32) + 7) (8 * (sb + l / 32))
      let r := fun (l : Nat) => convert
        (valueOf f (bits t.y.toNat ((h * n + l) * f.width + f.width - 1) ((h * n + l) * f.width)) (sc l)) d mode sat 0
      VcGives (.vcUnpk t) t s 3 5 n (fun l => (r l).event || reservedType f (bits (sc l) 7 6)) (fun v =>
        ∀ l, l < n → laneAt v d.width l = (r l).code % 2 ^ d.width)) ∧
    (f.isF = true → d.isN = true → reservedType d (bits m 25 24) = false → sb + 1024 / f.width / 32 ≤ 128 →
      VcGives (.vcPacks t) t s 2 5 0 (fun _ => false) (fun v =>
        (∀ k, k < 1024 / f.width / 32 → bits v.toNat (8 * (sb + k) + 7) (8 * (sb + k)) = 64 * bits m 25 24 +
          blockExp d (bits m 25 24) ((span (32 * k) 32).map (fun i => floatVal f (laneAt t.y f.width i)))) ∧
        (∀ j, j < 8 * sb ∨ 8 * (sb + 1024 / f.width / 32) ≤ j → j < 1024 → v.getLsbD j = a.getLsbD j)))

/-- Reductions and rearrangements of lanes (R289 to R291): sums, which wrap or saturate with an event, the extreme lane with the lowest
index among equals, −0 below +0, and lanes moved by index; a scaled format or a lane index out of range is illegal. Completes, for legal formats and lanes: vcMerge, vcShuf, vcBcast, vcRot, vcLane,
vcZip, vcUnzip, vcRsum, vcRmax, vcRmin. -/
def Sys2Proof.Stmt.VcReduceRearrange : Prop :=
  ∀ (t : WTrig) (s : State),
    let x := (s.core t.core).dup
    let m := (x.port pVCm).toNat
    let a := x.wport pVCa
    let b := x.wport pVCb
    let k := bits m 38 32
    let h := bits m 16 13
    let sat := (x.port pVCm).getLsbD 12
    VcGives (.vcMerge t) t s 13 3 0 (fun _ => false)
      (fun v => ∀ j, j < 1024 → v.getLsbD j = if b.getLsbD (j / 8) then t.y.getLsbD j else a.getLsbD j) ∧
    ∀ f, Fmt.ofCode (bits m 4 0) = some f →
    let w := f.width
    let n := 1024 / w
    let y := fun (l : Nat) => laneAt t.y w l
    let both := fun (l : Nat) => if l < n then laneAt t.y w l else laneAt b w (l - n)
    let lanes := fun (i : Instr) (op : Nat) (g : Nat → Nat) =>
      VcGives i t s op 3 0 (fun _ => false) (fun v => ∀ l, l < n → laneAt v w l = g l)
    (f.isN = false →
      lanes (.vcShuf t) 7 (fun l => both (laneAt a w l % (2 * n))) ∧
      (k < n → lanes (.vcBcast t) 8 (fun _ => y k) ∧ lanes (.vcRot t) 9 (fun l => y ((l + k) % n)) ∧
        VcWord (.vcLane t) t s 3 (fun v => v = if f.isS then BitVec.ofInt 64 (sext (y k) w) else BitVec.ofNat 64 (y k))) ∧
      (n ≤ k → Illegal (.vcBcast t) t s ∧ Illegal (.vcRot t) t s ∧ Illegal (.vcLane t) t s) ∧
      (h ≤ 1 →
        lanes (.vcZip t) 10 (fun l => let j := h * (n / 2) + l / 2; if l % 2 = 0 then y j else laneAt b w j) ∧
        lanes (.vcUnzip t) 11 (fun l => both (2 * l + h))) ∧
      (1 < h → Illegal (.vcZip t) t s ∧ Illegal (.vcUnzip t) t s)) ∧
    (f.isN = true → ∀ e ∈ [Instr.vcShuf t, .vcBcast t, .vcRot t, .vcZip t, .vcUnzip t, .vcLane t, .vcRsum t, .vcRmax t, .vcRmin t],
      Illegal e t s) ∧
    (f.isInt = true → sat = false →
      VcWord (.vcRsum t) t s 6 (fun v => v = BitVec.ofInt 64 (((span 0 n).map (fun l => laneInt f (y l))).sum))) ∧
    (f.isInt = true → sat = true →
      let v := ((span 0 n).map (fun l => laneInt f (y l))).sum
      let lo := if f.isS = true then -(2 ^ 63) else 0
      let hi := if f.isS = true then 2 ^ 63 - 1 else 2 ^ 64 - 1
      ∃ u, Gives (.vcRsum t) s (planned u t.core 6 rReg (.lat lVCs (BitVec.ofInt 64 (max lo (min hi v))))) ∧
        (lo ≤ v → v ≤ hi → u = s) ∧
        (v < lo ∨ hi < v → u = planned s t.core 6 (rEvent 2) (.event (vecEvent x 36 0)))) ∧
    (f.isF = true →
      let r := sumTree (bits m 11 10) sat 0 ((span 0 n).map (fun l => widen f (y l))) 8
      ∃ u, Gives (.vcRsum t) s (planned u t.core 6 rReg (.lat lVCs (wordN r.1))) ∧
        (r.2 = none → u = s) ∧
        (∀ l, r.2 = some l → u = planned s t.core 6 (rEvent 2) (.event (vecEvent x 36 l)))) ∧
    (f.isInt = true → w ≠ 64 →
      VcWord (.vcRmax t) t s 6 (fun v => ∃ i, i < n ∧ v = wordN (i * 2 ^ 32 + wrapw (laneInt f (y i)) 32) ∧
        (∀ j, j < n → laneInt f (y j) ≤ laneInt f (y i)) ∧ (∀ j, j < i → laneInt f (y j) < laneInt f (y i))) ∧
      VcWord (.vcRmin t) t s 6 (fun v => ∃ i, i < n ∧ v = wordN (i * 2 ^ 32 + wrapw (laneInt f (y i)) 32) ∧
        (∀ j, j < n → laneInt f (y i) ≤ laneInt f (y j)) ∧ (∀ j, j < i → laneInt f (y i) < laneInt f (y j)))) ∧
    (f.isF = true →
      (∀ i, i < n → (floatVal f (y i)).isNan = true → (∀ j, j < i → (floatVal f (y j)).isNan = false) →
        VcWord (.vcRmax t) t s 6 (fun v => v = wordN (i * 2 ^ 32 + 0x7FC00000)) ∧
        VcWord (.vcRmin t) t s 6 (fun v => v = wordN (i * 2 ^ 32 + 0x7FC00000))) ∧
      ((∀ j, j < n → (floatVal f (y j)).isNan = false) →
        (let less := fun (i j : Nat) => valLt (floatVal f (y i)) (floatVal f (y j))
         VcWord (.vcRmax t) t s 6 (fun v => ∃ i, i < n ∧ v = wordN (i * 2 ^ 32 + widen f (y i)) ∧
          (∀ j, j < n → less i j = false) ∧ (∀ j, j < i → less j i = true)) ∧
         VcWord (.vcRmin t) t s 6 (fun v => ∃ i, i < n ∧ v = wordN (i * 2 ^ 32 + widen f (y i)) ∧
          (∀ j, j < n → less j i = false) ∧ (∀ j, j < i → less i j = true)))))

/-! ### The matrix array -/

namespace Sys2Proof.Stmt

/-- The active format entry of a core (R255). -/
def activeEntry (s : State) (c : Nat) : BitVec 32 := (s.core c).dup.fmtOf (activeNo (s.core c).dup)

/-- A beat may start: its entry is legal, the strand is no handler, and no copy of the array runs (R254, R261, R273, R276). -/
def BeatReady (s : State) (b : Beat) : Prop :=
  entryLegal (activeEntry s b.core).toNat = true ∧ (s.core b.core).mode ≠ .handler ∧ (s.core b.core).mxBusy = 0

/-- Operand `opnd` of a beat gives the value `v` of `len` bits and leaves the state `u` (R257, R260): a group of vector registers, the
own scratchpad by a descriptor, the oldest row of an inbound link queue, which is then held, or the next item of a stream, of `item`
bits. -/
def Operand (s : State) (c opnd len item : Nat) (u : State) (v : BeatSrc) : Prop :=
  let x := s.core c
  let n := opnd % 8
  (24 ≤ opnd ∧ opnd < 32 ∧ u = s ∧ v = .val (BitVec.ofNat 4096 (vGroup x.dup n len))) ∨
  (∃ a, opnd < 8 ∧ mdAddr s c (x.dup.mdOf opnd) len = .ok a ∧ u = s ∧ v = .spad a len) ∨
  (∃ r rest, 8 ≤ opnd ∧ opnd < 16 ∧ lqTrap x n len false = none ∧ (x.lqOf n).rows = r :: rest ∧
    u = s.setCore c (x.setLq n { x.lqOf n with rows := rest, held := (x.lqOf n).held ++ [r] }) ∧ v = .val r.v) ∨
  (16 ≤ opnd ∧ opnd < 24 ∧ sAvail s c 0 n item 1 = .ready ∧ u = (sTake s c n).1 ∧ v = .val (BitVec.ofNat 4096 (sTake s c n).2))

/-- The `nb` scale bytes of a beat of core `c` (R259), found in the state `s` that its operand has left, give `w` and leave `u`: none for
an unscaled format, the own scratchpad by a descriptor, or items of a stream other than the operand's. In the state `s0` before the
operand they are no trap. -/
def Scale (s0 s : State) (c opnd : Nat) (e : BitVec 32) (nb : Nat) (u : State) (w : BeatSrc) : Prop :=
  let k := feSc e % 8
  (nb = 0 ∧ u = s ∧ w = .val 0) ∨
  (nb ≠ 0 ∧ (∀ tr, beatScale s0 c opnd e nb ≠ .bad tr) ∧
    ((∃ a, 24 ≤ feSc e ∧ mdAddr s c ((s.core c).dup.mdOf k) (8 * nb) = .ok a ∧ u = s ∧ w = .spad a (8 * nb)) ∨
     (feSc e < 24 ∧ opnd ≠ 16 + k ∧ sAvail s c 0 k 64 (nb / 8) = .ready ∧ u = (takeItems s c k (nb / 8)).1 ∧
       w = .val (BitVec.ofNat 4096 (takeItems s c k (nb / 8)).2))))

/-- The destination of a drain of `len` bits (R257, R260), whose slot the state `u` holds reserved: vector registers, the own scratchpad
by a descriptor, an outbound link queue with room, or an output stream with room. -/
def Dest (s : State) (c opnd len : Nat) (u : State) (d : DrainDst) : Prop :=
  let x := s.core c
  let n := opnd % 8
  (24 ≤ opnd ∧ opnd < 32 ∧ u = s ∧ d = .vreg (4 * n)) ∨
  (∃ a, opnd < 8 ∧ mdAddr s c (x.dup.mdOf opnd) len = .ok a ∧ u = s ∧ d = .spad a) ∨
  (8 ≤ opnd ∧ opnd < 16 ∧ lqTrap x n len true = none ∧ (x.lqOf n).rows.length + (x.lqOf n).resv < 16 ∧
    u = s.setCore c (x.setLq n { x.lqOf n with resv := (x.lqOf n).resv + 1 }) ∧ d = .lq n) ∨
  (16 ≤ opnd ∧ opnd < 24 ∧ sRoom s c 0 n 1024 = .ready ∧ u = reserveOut s c n ∧ d = .stream n)

/-- The array is free for an MX operation (R276). -/
def ArrayFree (s : State) (c : Nat) : Prop := (s.core c).mxBusy = 0

end Sys2Proof.Stmt

/-- Beats (R257 to R266): push, shift and acc take their operand and scale bytes, whatever their source, and read at t+1 under the
active entry; drain and drain-and-zero read their row at t+4; push, acc and drain-and-zero name their row in the undo region; an empty
matrix slot does nothing. A handler's beat or one under an illegal entry is illegal, and one during a copy of the array is a program
error. Completes, where a beat may start: mxNop, mxPush, mxShift, mxAcc, mxDrain, mxDrainz. -/
def Obligations.MxBeats : Prop :=
  ∀ (b : Beat) (s : State),
    let c := b.core
    let e := activeEntry s c
    let x := s.core c
    let row := beatRow x.dup b
    let named := fun (u : State) => u.onCore c (fun y => nameRows y [(b.bank, row)])
    let rec_ := beatRec s b
    Gives (.mxNop c) s s ∧
    (BeatReady s b →
      (∀ u z v w, Operand s c b.opnd (readLen e 1) 4096 u v → Scale s u c b.opnd e (scaleLen e 1) z w →
        undoFull x [(b.bank, row)] = false →
        Gives (.mxPush b) s (planned (named z) c 1 rLate (.beatIn (rec_ 1) v w))) ∧
      (∀ u z v w, Operand s c b.opnd (readLen e 2) 4096 u v → Scale s u c b.opnd e (scaleLen e 2) z w →
        Gives (.mxShift b) s (planned z c 1 rLate (.beatIn (rec_ 2) v w))) ∧
      (∀ u v, Operand s c b.opnd 1024 1024 u v → undoFull x [(b.bank, row)] = false →
        Gives (.mxAcc b) s (planned (named u) c 1 rLate (.beatIn (rec_ 3) v (.val 0)))) ∧
      (∀ u d, Dest s c b.opnd (32 * codeWidth (feD e)) u d →
        Gives (.mxDrain b) s (planned u c 4 rAcc (.accDrain (rec_ 4) false d)) ∧
        (undoFull x [(b.bank, row)] = false →
          Gives (.mxDrainz b) s (planned (named u) c 4 rAcc (.accDrain (rec_ 5) true d))))) ∧
    (x.mode = .handler ∨ entryLegal e.toNat = false → ∀ i ∈ [Instr.mxPush b, .mxShift b, .mxAcc b, .mxDrain b, .mxDrainz b],
      Gives i s (takeTrap s c (trapIllegal 0))) ∧
    (24 ≤ b.opnd → scaleLen e 1 = 0 → scaleLen e 2 = 0 → x.mode ≠ .handler → entryLegal e.toNat = true → x.mxBusy ≠ 0 →
      ∀ i ∈ [Instr.mxPush b, .mxShift b, .mxAcc b, .mxDrain b, .mxDrainz b], Gives i s (takeTrap s c (trapProg 0 0x0A)))

/-- What beats leave in the array (R262 to R265, R268): acc adds 32 elements to its row; push adds to element `n` of its row the
groups of the products of the operand with column `n`; shift puts the operand into the column that the fill pointer names and moves
the pointer on; drain-and-zero leaves its row zero and passes on what it held. -/
def Sys2Proof.Stmt.MxArrayEffects : Prop :=
  ∀ (s : State) (c iss : Nat) (b : BeatRec) (z : Col) (sc : BitVec 256) (dst : DrainDst),
    let x := s.core c
    let e := b.entry
    let old := x.accRow b.bank b.row
    let elem := fun (r : AccRow) (n : Nat) => bits r.v.toNat (32 * n + 31) (32 * n)
    let after := fun (fx : Fx) => (landFx s c iss fx).core c
    let drained := fun (zero : Bool) => after (.accDrain b zero dst)
    (b.kind ≠ 1 →
      let r := (after (.accAdd b z sc)).accRow b.bank b.row
      (∀ n, n < 32 → elem r n = (accAdd e (elem old n) (bits z.toNat (32 * n + 31) (32 * n))).1 % 2 ^ 32) ∧
      (r.f = true ↔ old.f = true ∨ ∃ n, n < 32 ∧ (accAdd e (elem old n) (bits z.toNat (32 * n + 31) (32 * n))).2 = true)) ∧
    (∀ fa fb, b.kind = 1 → Fmt.ofCode (feA e) = some fa → Fmt.ofCode (feB e) = some fb →
      let r := (after (.accAdd b z sc)).accRow b.bank b.row
      let k := kOf (feA e)
      ∀ n, n < 32 → ∃ f, elem r n = (accAll e (elem old n) f (pushCol e (rowVals fa z.toNat sc.toNat 0 k)
        (rowVals fb (Tab.get 0 b.cols.col n).toNat (Tab.get 0 b.cols.sc n).toNat 0 k) (k / 32))).1 % 2 ^ 32) ∧
    (let y := after (.shiftIn b z sc)
      let n := x.dup.fpOf b.latch
      Tab.get 0 (y.latchOf b.latch).col n = BitVec.ofNat 4096 (z.toNat % 2 ^ (kOf (feB e) * codeWidth (feB e))) ∧
      (∀ m, m ≠ n → Tab.get 0 (y.latchOf b.latch).col m = Tab.get 0 (x.latchOf b.latch).col m) ∧
      (∀ l, l ≠ b.latch → y.latchOf l = x.latchOf l) ∧ y.dup.fpOf b.latch = (n + 1) % 32) ∧
    (drained true).accRow b.bank b.row = AccRow.init ∧ (drained false).acc = x.acc ∧
    (∀ zero, ⟨iss + 6, rDrain, iss, .drainOut b old dst⟩ ∈ (drained zero).due)

/-- MX operations (R258, R270, R274, R276): what each sets, reads or copies while no copy runs; during a copy each is a program
error, and a descriptor, entry, level, image or row range that the rules forbid is illegal. Completes, while no copy runs:
mxMdset, mxFmtset, mxFmtget, mxFmtlvl, mxOvpop, mxOvstat, mxMxsave, mxMxload, mxAcczero, mxWzero. -/
def Sys2Proof.Stmt.MxOperations : Prop :=
  ∀ (t : Trig) (s : State),
    let c := t.core
    let x := s.core c
    let y := t.y
    let a := portOf t s pMXa
    let k := (portOf t s pMXk).toNat
    let first := bits y.toNat 15 8
    let last := bits y.toNat 7 0
    let rows := bankRows (bits y.toNat 16 16) first last
    let p := k % 8
    let trap := fun (i : Instr) (tr : Trap) => Gives i s (takeTrap s c tr)
    (ArrayFree s c →
      (bits a.toNat 63 61 ≠ 7 → bits a.toNat 60 58 ≠ 7 → bits a.toNat 55 48 = 0 → ptrMal y = false → ptrAddr y < spadBits →
        Gives (.mxMdset t) s (planned s c 2 rMx (.md (k % 8) ⟨y, a⟩))) ∧
      (entryLegal y.toNat = true → Gives (.mxFmtset t) s (planned s c 2 rMx (.fmtSet (k % 16) (BitVec.ofNat 32 y.toNat)))) ∧
      Gives (.mxFmtget t) s (planned s c 2 rReg (.lat lMX ((x.dup.fmtOf (y.toNat % 16)).zeroExtend 64))) ∧
      (bits y.toNat 6 4 ≠ 7 → Gives (.mxFmtlvl t) s (planned s c 2 rMx (.fmtLvl (bits y.toNat 6 4) (y.toNat % 16)))) ∧
      Gives (.mxOvpop t) s (planned s c 1 (rEvent 3) .ovPop) ∧
      Gives (.mxOvstat t) s (planned s c 1 (rEvent 3) (.ovStat (y.getLsbD 0))) ∧
      (p ≠ 7 → ptrAddr y % 1024 = 0 → OwnSpad t s (1024 * imageLen p) 1 →
        let s6 := if p = 6 then s.onCore c (fun z => { z with evCopy := some (z.cyc, z.dup.ovq, z.dup.ovLost) }) else s
        let busy := s6.onCore c (fun z => { z with mxBusy := z.cyc + 6 + imageLen p })
        Gives (.mxMxsave t) s (planned (planned busy c (6 + imageLen p) (rMx + 1) (.mxDone 7)) c
          (if p = 6 then 6 else 5) (if p = 6 then rEvent 3 else rAcc) (.mxSave p (ptrAddr y))) ∧
        ∃ u, Gives (.mxMxload t) s u ∧ (u.core c).mxBusy = x.cyc + 6 + imageLen p ∧
          ∀ j, j < imageLen p → ⟨x.cyc + 6 + j, rRead, x.cyc, .mxRead p j (ptrAddr y + 1024 * j)⟩ ∈ (u.core c).due) ∧
      (x.mode ≠ .handler → first ≤ last → undoFull x rows = false →
        Gives (.mxAcczero t) s (planned (s.setCore c (nameRows x rows)) c 6 rAcc (.accZero (bits y.toNat 16 16) first last))) ∧
      (x.mode ≠ .handler → Gives (.mxWzero t) s
        (planned (planned s c 2 (rEvent 3) (.wZero (y.toNat % 4))) c 3 (rEvent 3) (.wZero (y.toNat % 4))))) ∧
    (x.mxBusy ≠ 0 →
      (∀ i ∈ [Instr.mxFmtget t, .mxOvpop t, .mxOvstat t], trap i (trapProg t.slot 0x0A)) ∧
      (bits a.toNat 63 61 ≠ 7 → bits a.toNat 60 58 ≠ 7 → bits a.toNat 55 48 = 0 → trap (.mxMdset t) (trapProg t.slot 0x0A)) ∧
      (entryLegal y.toNat = true → trap (.mxFmtset t) (trapProg t.slot 0x0A)) ∧
      (bits y.toNat 6 4 ≠ 7 → trap (.mxFmtlvl t) (trapProg t.slot 0x0A)) ∧
      (p ≠ 7 → ptrAddr y % 1024 = 0 → trap (.mxMxsave t) (trapProg t.slot 0x0A) ∧ trap (.mxMxload t) (trapProg t.slot 0x0A)) ∧
      (x.mode ≠ .handler → trap (.mxWzero t) (trapProg t.slot 0x0A) ∧
        (first ≤ last → trap (.mxAcczero t) (trapProg t.slot 0x0A)))) ∧
    (bits a.toNat 63 61 = 7 ∨ bits a.toNat 60 58 = 7 ∨ bits a.toNat 55 48 ≠ 0 → trap (.mxMdset t) (trapIllegal t.slot)) ∧
    (entryLegal y.toNat = false → trap (.mxFmtset t) (trapIllegal t.slot)) ∧
    (bits y.toNat 6 4 = 7 → trap (.mxFmtlvl t) (trapIllegal t.slot)) ∧
    (p = 7 ∨ ptrAddr y % 1024 ≠ 0 → trap (.mxMxsave t) (trapIllegal t.slot) ∧ trap (.mxMxload t) (trapIllegal t.slot)) ∧
    (x.mode = .handler → trap (.mxAcczero t) (trapIllegal t.slot) ∧ trap (.mxWzero t) (trapIllegal t.slot)) ∧
    (last < first → trap (.mxAcczero t) (trapIllegal t.slot))

/-! ### Control -/

namespace Sys2Proof.Stmt

/-- Core `c` is at bundle `p`, with no next bundle named. -/
def jumpTo (s : State) (c : Nat) (p : Pc) : State := s.onCore c (fun x => { x with pc := p, sel := none })

/-- The image of the strand on core `c` has one segment only. -/
def OneSeg (s : State) (c : Nat) : Prop := multiSeg (imgOf s c) = false

end Sys2Proof.Stmt

/-- Jumps (R174): jump and call go to the index in the low 12 bits of y, call leaves its return word in CU.r at t+1, and ret goes
back if the segment last named for its half is still the one the word names; otherwise ret is a program error. Completes: cuJump, cuCall, cuRet. -/
def Sys2Proof.Stmt.CuJumps : Prop :=
  ∀ (t : Trig) (s : State),
    let c := t.core
    let x := s.core c
    let p : Pc := BitVec.ofNat 12 (t.y.toNat % 4096)
    Gives (.cuJump t) s (jumpTo s c p) ∧
    Gives (.cuCall t) s (jumpTo (planned s c 1 rReg (.lat lCU (wordN (segAt s c (x.pc + 1) * 4096 + (x.pc + 1).toNat)))) c p) ∧
    (OneSeg s c ∨ bits t.y.toNat 19 12 = retSeg s c p → Gives (.cuRet t) s (jumpTo s c p)) ∧
    (multiSeg (imgOf s c) = true → bits t.y.toNat 19 12 ≠ retSeg s c p → Gives (.cuRet t) s (takeTrap s c (trapProg t.slot 9)))

/-- Loops (R148, R149, R175, R176): loop pushes an entry and goes to the bundle after its own; a count of 0 goes on after the body;
lpop drops the innermost entries. At the last bundle of a loop the counter advances and control returns to its first bundle, until
the count is reached and the entry leaves the stack. Completes: cuLoop, cuLpop. -/
def Sys2Proof.Stmt.CuLoops : Prop :=
  ∀ (t : Trig) (s : State),
    let c := t.core
    let x := s.core c
    let ls := x.dup.loops
    let n := t.y.toNat
    let e : Pc := BitVec.ofNat 12 ((portOf t s pCUk).toNat % 4096)
    let with_ := fun (l : List LoopEnt) => { x.dup with loops := l }
    (n < 2 ^ 32 → (x.pc + 1).toNat ≤ e.toNat → OneSeg s c → ls.length < 6 → (∀ l ∈ ls, e.toNat ≤ l.stop.toNat ∧ l.stop ≠ x.pc) →
      (0 < n → Gives (.cuLoop t) s (s.setCore c { x with dup := with_ (ls ++ [⟨x.pc + 1, e, n, 0⟩]), pc := x.pc + 1, sel := none })) ∧
      (n = 0 → Gives (.cuLoop t) s
        (s.setCore c { x with dup := (stepLoops x.dup e).1, pc := (stepLoops x.dup e).2, sel := none }))) ∧
    (2 ^ 32 ≤ n ∨ e.toNat < (x.pc + 1).toNat → Gives (.cuLoop t) s (takeTrap s c (trapIllegal t.slot))) ∧
    (n < 2 ^ 32 → (x.pc + 1).toNat ≤ e.toNat → OneSeg s c → ls.length = 6 → Gives (.cuLoop t) s (takeTrap s c (trapProg t.slot 1))) ∧
    (1 ≤ n → n ≤ 6 → n ≤ ls.length → Gives (.cuLpop t) s (s.setCore c { x with dup := with_ (ls.take (ls.length - n)) })) ∧
    (1 ≤ n → n ≤ 6 → ls.length < n → Gives (.cuLpop t) s (takeTrap s c (trapProg t.slot 3))) ∧
    (n = 0 ∨ 6 < n → Gives (.cuLpop t) s (takeTrap s c (trapIllegal t.slot))) ∧
    (∀ (d : Dup) (p : Pc) (ls : List LoopEnt) (l : LoopEnt), d.loops = ls ++ [l] →
      (l.stop ≠ p → stepLoops d p = (d, p + 1)) ∧
      (l.stop = p → l.i + 1 < l.count → stepLoops d p = ({ d with loops := ls ++ [{ l with i := l.i + 1 }] }, l.start)) ∧
      (l.stop = p → l.count ≤ l.i + 1 → stepLoops d p = stepLoops { d with loops := ls } p))

/-- Entries of the withholding buffer as stores make them: none empty, and the parts of each in program order (R222). -/
def Sys2Proof.Stmt.WbSorted (wb : List WEnt) : Prop :=
  ∀ e ∈ wb, e.subs ≠ [] ∧ e.subs.Pairwise (fun u v => u.seq ≤ v.seq)

/-- The entry that a released store sends. -/
def Sys2Proof.Stmt.sentEntry (a : Acc) : Option WEnt := match a.op with | .send e => some e | _ => none

/-- A checkpoint outside the handler (R177, R178, R186, R222, R223): the withheld entries become sends, behind those already released:
the same parts, each in a send of its sector and class, and none sent behind a part that program order puts after it, which is one of
its class or of its bits, or one whose release selects its class; the withholding buffer and the undo region are then empty. The
registers are kept as the checkpoint state with the mode and the bundle that the loops select next as resume point; in the handler the
checkpoint state stays. No byte of memory changes at the checkpoint itself. Completes, in every state: cuCkpt. -/
def Sys2Proof.Stmt.CuCheckpoint : Prop :=
  ∀ (t : Trig) (s : State),
    let c := t.core
    let x := s.core c
    ∃ u, Gives (.cuCkpt t) s u ∧ SameMemory s u ∧ (u.core c).wb = [] ∧ (u.core c).consume = [] ∧ (u.core c).dup = x.dup ∧
      (u.core c).pc = x.pc ∧ (u.core c).mode = x.mode ∧ (∀ k, k ≠ c → u.core k = s.core k) ∧
      (∃ es : List WEnt, (u.core c).accs.filterMap sentEntry = x.accs.filterMap sentEntry ++ es ∧
        (WbSorted x.wb → (es.flatMap (·.subs)).Perm (x.wb.flatMap (·.subs)) ∧
          (∀ e ∈ es, ∃ w ∈ x.wb, e.sector = w.sector ∧ e.cls = w.cls ∧ ∀ p ∈ e.subs, p ∈ w.subs) ∧
          es.Pairwise (fun e f => ∀ p ∈ e.subs, ∀ q ∈ f.subs, storeBefore f e q p = false))) ∧
      (x.mode ≠ .handler → (u.core c).undo = [] ∧ (u.core c).named = [] ∧
        (u.core c).ck = ⟨(stepLoops x.dup x.pc).1, (stepLoops x.dup x.pc).2, x.mode, x.cyc + 1⟩) ∧
      (x.mode = .handler → (u.core c).ck = x.ck)

/-- Yield, exit, halt and spawn (R26, R27, R180 to R183, R186): each needs an effective checkpoint, and all but halt need no handler,
where they are illegal; a strand that yields with C7 raised has yielded; one that exits marks itself in its team, and with the last to
exit the team leaves its cores and the table, and its weight returns; a halt kills its team, in the handler too; a spawn hands half of
the team's weight to its children in shares of at least 1, and conserves the sum. Completes, beside an effective checkpoint outside the
handler: cuYield, cuExit, cuHalt, cuSpawn. -/
def Sys2Proof.Stmt.CuTeamControl : Prop :=
  ∀ (t : Trig) (s : State),
    let c := t.core
    let x := s.core c
    let y := t.y.toNat
    (t.ckpt = true → x.mode ≠ .handler →
      Gives (.cuYield t) s (s.onCore c (fun z => { z with run := if z.c7 then .yielded else z.run })) ∧
      (∀ tm, x.team = some tm → x.due = [] → popCount ((s.team tm).exited ||| 2 ^ x.tcore) 4 ≠ (s.team tm).n →
        ∃ u, Gives (.cuExit t) s u ∧ (u.core c).run = .exited ∧ (u.team tm).exited = (s.team tm).exited ||| 2 ^ x.tcore ∧
          SameMemory s u ∧ (∀ a ∈ (u.core c).accs, isProducer a = true → a.dead = true)) ∧
      (∀ tm, x.team = some tm → x.due = [] → popCount ((s.team tm).exited ||| 2 ^ x.tcore) 4 = (s.team tm).n →
        s.hasReq (s.team tm).tag = true →
        let r := s.req (s.team tm).tag
        ∃ u, Gives (.cuExit t) s u ∧ (u.fe.teams.any (fun e => e.1 == tm)) = false ∧
          (∀ k ∈ (s.team tm).cores, (u.core k).team = none) ∧
          (u.req (s.team tm).tag).d = r.d + (s.team tm).weight ∧ (u.req (s.team tm).tag).e = r.e ∧
          (r.d + (s.team tm).weight = r.e → (u.req (s.team tm).tag).st = 3)) ∧
      (∀ tm, x.team = some tm → Gives (.cuHalt t) s (killTeam s tm eHalt (bundleAddr s c x.pc) c t.y)) ∧
      (∀ tm words, x.team = some tm → s.hasReq (s.team tm).tag = true →
        spawnArgs x.dup ((portOf t s pCUa).toNat % 64) t.slot 6 = .ok words → 0 < y → y ≤ 4096 →
        bits (portOf t s pCUk).toNat 11 0 ≤ (segEntry (imgOf s c) 0).2 → (portOf t s pCUa).toNat % 64 ≤ 58 →
        s.fe.spawnRecs + y ≤ spawnMax → tm < s.fe.nextTeam →
        let w := (s.team tm).weight
        let g := if w / 2 < y then 2 ^ 40 else 0
        ∃ u, Gives (.cuSpawn t) s u ∧ SameMemory s u ∧ (u.req (s.team tm).tag).e = (s.req (s.team tm).tag).e + g ∧
          u.fe.spawnRecs = s.fe.spawnRecs + y ∧ (u.team tm).weight + (w + g) / 2 = w + g ∧
          ((span 0 y).map (spawnShare ((w + g) / 2) y)).sum = (w + g) / 2 ∧
          (∀ i, i < y → (let k := u.team (s.fe.nextTeam + i)
            k.weight = spawnShare ((w + g) / 2) y i ∧ 1 ≤ k.weight ∧ k.tag = (s.team tm).tag ∧ k.st = .ready ∧ k.index = i ∧
              k.args = wordN i :: wordN y :: words)))) ∧
    (t.ckpt = true → x.mode = .handler →
      (∀ tm, x.team = some tm → Gives (.cuHalt t) s (killTeam (shielded s c) tm eHalt (bundleAddr (shielded s c) c x.pc) c t.y)) ∧
      ∀ e ∈ [Instr.cuYield t, .cuExit t, .cuSpawn t], Gives e s (takeTrap s c (trapIllegal t.slot))) ∧
    (t.ckpt = false → ∀ e ∈ [Instr.cuYield t, .cuExit t, .cuHalt t, .cuSpawn t], Gives e s (takeTrap s c (trapIllegal t.slot)))

/-- Segments and fences (R184, R185): segnext names the segment of the other half, which starts to copy at t+2 unless it is there
already, and leaves that half empty if the image has no such segment; a fence with a mask takes its place among the accesses, and one without a mask does nothing; a scope beyond the strand's
own needs a checkpoint. Completes: cuSegnext, cuFence. -/
def Sys2Proof.Stmt.CuSegmentsFences : Prop :=
  ∀ (t : Trig) (s : State),
    let c := t.core
    let x := s.core c
    let k := t.y.toNat % 256
    let mask := t.y.toNat % 65536
    let scope := bits t.y.toNat 18 16
    (x.mode ≠ .handler → multiSeg (imgOf s c) = true → k % 2 ≠ x.pc.toNat / 2048 → k < (imgOf s c).nseg →
      ((x.half (k % 2)).seg ≠ some k → Gives (.cuSegnext t) s (planned s c 2 rReg (.segCopy k))) ∧
      ((x.half (k % 2)).seg = some k → (x.half (k % 2)).installed = true → Gives (.cuSegnext t) s s)) ∧
    (x.mode ≠ .handler → multiSeg (imgOf s c) = true → k % 2 ≠ x.pc.toNat / 2048 → (imgOf s c).nseg ≤ k →
      ∃ u, Gives (.cuSegnext t) s u ∧ (u.core c).half (k % 2) = ⟨some k, false, false, false⟩ ∧ SameMemory s u) ∧
    (x.mode ≠ .handler → OneSeg s c ∨ k % 2 = x.pc.toNat / 2048 → Gives (.cuSegnext t) s (takeTrap s c (trapProg t.slot 9))) ∧
    (scope = 0 ∨ (scope < 6 ∧ t.ckpt = true) →
      (mask = 0 → Gives (.cuFence t) s s) ∧
      (mask ≠ 0 → Gives (.cuFence t) s (pushAcc s c { accBase s c with op := .fence mask scope }))) ∧
    (6 ≤ scope ∨ (1 ≤ scope ∧ t.ckpt = false) → Gives (.cuFence t) s (takeTrap s c (trapIllegal t.slot)))

/-! ### Traps -/

/-- Taking a trap outside the handler with no effect due (R178, R349, R351, R374): the checkpoint state comes back, the cause holds the
trap, the trap count advances, the mode is the handler's with the interrupted mode kept, and the next bundle is index 0. What was
withheld is discarded. With no stream running at the checkpoint, no byte of memory changes but for the trap's own log record. -/
def Sys2Proof.Stmt.TrapEntry : Prop :=
  ∀ (s : State) (c : Nat) (tr : Trap),
    let x := s.core c
    x.mode ≠ .handler → x.due = [] → tr.log = none →
    (multiSeg (imgOf s c) = false ∨ x.half0.installed = true) →
    let u := takeTrap s c tr
    let z := u.core c
    z.mode = .handler ∧ z.tmode = x.mode ∧ z.pc = 0 ∧ z.tcount = (x.tcount + 1) % 2 ^ 32 ∧ z.shielded = false ∧
    z.cause = ⟨tr.code, tr.slot, tr.sub, tr.reg, x.pc, segAt s c x.pc, tr.addr⟩ ∧
    z.dup = x.ck.dup ∧ z.ck = x.ck ∧ z.wb = [] ∧ z.consume = [] ∧ z.spad = x.spad ∧
    ((∀ k, (x.ck.dup.chanOf k).st ≠ .running) → SameMemory s u ∧ (∀ k, k ≠ c → u.core k = s.core k))

/-- A trap in the handler is a double fault, which kills the team (R354). -/
def Sys2Proof.Stmt.DoubleFault : Prop :=
  ∀ (s : State) (c tm : Nat) (tr : Trap), (s.core c).mode = .handler → (s.core c).team = some tm → tr.log = none →
    takeTrap s c tr = killTeam s tm eDblfault (bundleAddr s c (s.core c).pc) c 0

/-! ### The system unit -/

/-- The handler's operations (R373, R374): rte restores the mode that y chooses, goes to the resume point and makes the current
registers the checkpoint state; tinfo reads the cause. In any other mode both take the privilege trap. Completes, in the
handler: syRte, syTinfo. -/
def Sys2Proof.Stmt.SyHandler : Prop :=
  ∀ (t : Trig) (s : State),
    let c := t.core
    let x := s.core c
    let rm := t.y.toNat % 4
    (x.mode = .handler →
      (∃ u, Gives (.syRte t) s u ∧ SameMemory s u ∧ (u.core c).pc = x.ck.pc ∧ (u.core c).ck.pc = x.ck.pc ∧ (u.core c).dup = x.dup ∧
        (u.core c).ck.dup = x.dup ∧ (u.core c).shielded = false ∧ (u.core c).wb = [] ∧
        (rm = 2 → (u.core c).mode = .user) ∧ (rm = 1 → ctxOf s c = 0 → (u.core c).mode = .priv) ∧
        (rm = 0 ∨ rm = 3 ∨ (rm = 1 ∧ ctxOf s c ≠ 0) → (u.core c).mode = x.tmode)) ∧
      Gives (.syTinfo t) s (planned s c 3 rReg (.lat lSY (tinfoWord s c (t.y.toNat % 256))))) ∧
    (x.mode ≠ .handler → Gives (.syRte t) s (takeTrap s c (trapPriv t.slot)) ∧
      Gives (.syTinfo t) s (takeTrap s c (trapPriv t.slot)))

/-- Notify registers (R363, R364, R369 to R371): in a block that the strand's context owns, nwait goes on while the count exceeds
what the strand has withheld, with the register's word at t+1 and one more consumption withheld, and otherwise stalls; nread
gives the word that its bundle finds, at t+3, and nclr acts at t+2; nsig takes its place among the accesses. A foreign block is an address trap. Completes, in an
owned block: syNwait, syNread, syNclr, syNsig. -/
def Sys2Proof.Stmt.SyNotify : Prop :=
  ∀ (t : Trig) (s : State),
    let c := t.core
    let b := (portOf t s pSYk).toNat % 256
    let j := t.y.toNat % 256
    let n := 256 * b + j
    let r := notifyOf s n
    let w := withheld (s.core c) n
    let u := shielded s c
    (nbOwned s b (ctxOf s c) = true →
      (w < r.cnt → Gives (.syNwait t) s
        ((planned s c 1 rReg (.lat lSY (notifyWord r w))).onCore c (fun x => addConsume x n))) ∧
      (r.cnt ≤ w → Gives (.syNwait t) s s) ∧
      Gives (.syNread t) s (planned s c 3 rReg (.lat lSY (notifyWord r w))) ∧ Gives (.syNclr t) s (planned s c 2 rReg (.nclr b j)) ∧
      (t.ckpt = true → Gives (.syNsig t) s (pushAcc u c { accBase u c with
        op := .nsig, addr := n, data := BitVec.ofNat 1024 ((portOf t s pSYa).toNat % 2 ^ 48) }))) ∧
    (nbOwned s b (ctxOf s c) = false → ∀ e ∈ [Instr.syNwait t, .syNread t, .syNclr t],
      Gives e s (takeTrap s c ⟨0x03, t.slot, 0, 0, 0xE0000001300000 + 64 * n, none⟩)) ∧
    (t.ckpt = false → Gives (.syNsig t) s (takeTrap s c (trapIllegal t.slot))) ∧
    (∀ x : BitVec 48, s.sync.gated = false → s.sync.capq = [] →
      notifyOf (wakeArrive s n x) n = (if r.cnt = 16383 then ⟨r.cnt, true, x⟩ else ⟨r.cnt + 1, r.coal, x⟩))

/-- Barriers (R367, R368, R372): an arrival of weight u takes its place among the accesses; hbwait stalls while the generation is that
of its arrival, then gives word 0 at t+1. At the barrier an arrival adds its weight, and each full need advances the generation. Completes:
syHbar, syHbwait. -/
def Sys2Proof.Stmt.SyBarriers : Prop :=
  ∀ (t : Trig) (s : State),
    let c := t.core
    let i := t.y.toNat % 4096
    let w := (portOf t s pSYa).toNat % 65536
    let u := shielded s c
    let x := s.core c
    (t.ckpt = true → 0 < w → barOwned s i (ctxOf s c) = true →
      Gives (.syHbar t) s (pushAcc u c { accBase u c with op := .hbar, addr := i, len := w })) ∧
    (t.ckpt = false ∨ w = 0 → Gives (.syHbar t) s (takeTrap s c (trapIllegal t.slot))) ∧
    (∀ g, hbarDue x = none → x.dup.arrival = some (i, g) →
      ((barrierOf s i).gen = g → Gives (.syHbwait t) s s) ∧
      ((barrierOf s i).gen ≠ g → Gives (.syHbwait t) s (planned s c 1 rReg (.lat lSY (barrierWord (barrierOf s i)))))) ∧
    (hbarDue x = none → x.dup.arrival = none → Gives (.syHbwait t) s (takeTrap s c (trapProg t.slot 0x0B))) ∧
    (∀ (b : Barrier) (k : Nat), 0 < b.need → b.have_ < b.need → b.gen < 65536 →
      (arriveAt b k).need = b.need ∧ (arriveAt b k).have_ < b.need ∧
      (b.have_ + k < b.need → arriveAt b k = { b with have_ := b.have_ + k }) ∧
      (b.have_ + k = b.need → arriveAt b k = { b with have_ := 0, gen := (b.gen + 1) % 65536 }))

/-- System registers (R9, R350, R375, R400): beside a checkpoint, a number other than the four is illegal, whatever the mode; without
privilege the trap is then the privilege trap. A privileged strand reads what its bundle finds, at t+3, and a write acts at t+2: it
writes the register's field and ignores its reserved bits, a value outside a field's range changes nothing, and register 0 is
read-only. Completes, for a privileged strand beside a checkpoint: sySrd, sySwr. -/
def Sys2Proof.Stmt.SySystemRegisters : Prop :=
  ∀ (t : Trig) (s : State),
    let c := t.core
    let i := t.y.toNat % 256
    let j := (portOf t s pSYk).toNat % 256
    let u := shielded s c
    (t.ckpt = true → (s.core c).privileged = true →
      (i < 4 → Gives (.sySrd t) s (planned u c 3 rReg (.lat lSY (srValue (s.core c) i)))) ∧
      (j < 4 → Gives (.sySwr t) s (planned u c 2 rReg (.srWrite j t.y)))) ∧
    (t.ckpt = true →
      (4 ≤ i → Gives (.sySrd t) s (takeTrap s c (trapIllegal t.slot))) ∧
      (4 ≤ j → Gives (.sySwr t) s (takeTrap s c (trapIllegal t.slot)))) ∧
    (t.ckpt = true → (s.core c).privileged = false →
      (i < 4 → Gives (.sySrd t) s (takeTrap s c (trapPriv t.slot))) ∧
      (j < 4 → Gives (.sySwr t) s (takeTrap s c (trapPriv t.slot)))) ∧
    (t.ckpt = false → Gives (.sySrd t) s (takeTrap s c (trapIllegal t.slot)) ∧
      Gives (.sySwr t) s (takeTrap s c (trapIllegal t.slot))) ∧
    (∀ (x : Core) (v : Word),
      (256 ≤ v.toNat % 2 ^ 24 → srPut x 1 v = { x with cdload := v.toNat % 2 ^ 24 }) ∧
      (v.toNat % 2 ^ 24 < 256 → srPut x 1 v = x) ∧
      srPut x 2 v = { x with park := v.toNat % 2 ^ 48 } ∧ srPut x 3 v = { x with tcount := v.toNat % 2 ^ 32 } ∧ srPut x 0 v = x ∧
      srValue x 0 = wordN (x.cdown + if x.cdRun = true then 2 ^ 24 else 0) ∧
      srValue x 1 = wordN x.cdload ∧ srValue x 2 = wordN x.park ∧ srValue x 3 = wordN x.tcount)

/-! ### Remote operations -/

namespace Sys2Proof.Stmt

/-- The value of y is a well-formed address in the windows, and `n` windows from its own on exist (R304). -/
def RmIn (t : Trig) (n : Nat) : Prop :=
  ptrMal t.y = false ∧ 8 ≤ region (ptrAddr t.y) ∧ region (ptrAddr t.y) ≤ 13 ∧ winNo (ptrAddr t.y) + n ≤ 24576

/-- The ports of a remote operation: a qualifier that is set has a scope of 0 to 5 (R303). -/
def RmScopeOk (t : Trig) (s : State) : Prop := bits (portOf t s pRMq).toNat 18 16 < 6

/-- The access that a remote operation adds, with its packet tier (R302, R303): class and address of y, with the class masks of the
qualifiers. -/
def remote (t : Trig) (s : State) (tier : Nat) (op : AOp) (len : Nat) : Acc :=
  { accBase s t.core with cls := ptrClass t.y, addr := ptrAddr t.y, op := op, len := len, cmp := rmHead t s tier }

/-- The same with the scope of port .q, which the qualifiers use (R303). -/
def remoteQ (t : Trig) (s : State) (tier : Nat) (op : AOp) (len : Nat) : Acc :=
  { remote t s tier op len with scope := bits (portOf t s pRMq).toNat 18 16 }

/-- The class mask of release: port .q where bit 7 of port .d is set, else none (R303). -/
def rmRel (t : Trig) (s : State) : Nat := if (portOf t s pRMd).getLsbD 7 then bits (portOf t s pRMq).toNat 47 32 else 0
def rmAcq (t : Trig) (s : State) : Nat := if (portOf t s pRMd).getLsbD 6 then bits (portOf t s pRMq).toNat 63 48 else 0

end Sys2Proof.Stmt

/-- Remote loads, stores, signals and barrier arrivals (R303 to R310): each takes its place among the accesses of the core; a load
empties its register and sets its deadline at the bundle of t+D; a multicast adds one store for each of its windows. Completes, beside a
checkpoint with a free slot: rmRld, rmRst, rmMcast, rmXsig, rmBar. -/
def Sys2Proof.Stmt.RmTransfers : Prop :=
  ∀ (t : Trig) (s : State), t.ckpt = true → outstanding (s.core t.core) < 2048 → RmScopeOk t s →
    let c := t.core
    let u := shielded s c
    let w := ptrWidth t.y
    let a := ptrAddr t.y
    let r := (portOf t s pRMd).toNat % 64
    let d := (portOf t s pRMq).toNat % 65536
    let v := portOf t s pRMa
    let n := bits (portOf t s pRMb).toNat 12 0
    let tier := if (portOf t s pRMq).getLsbD 20 then 2 else 1
    let elem := BitVec.ofNat 1024 (v.toNat % 2 ^ w)
    (RmIn t 1 → alignedW a w = true →
      (d ≠ 0 → ((s.core c).dup.greg r).st ≠ .empty →
        Gives (.rmRld t) s (issueAcc (planned u c d rPush (.rld (s.core c).nextId)) c
          { remoteQ t u 0 (.rld d) w with reg := r, acq := rmAcq t s })) ∧
      Gives (.rmRst t) s (pushAcc u c { remoteQ t u tier .rst w with data := elem, rel := rmRel t s })) ∧
    (RmIn t n → alignedW a w = true → 0 < n → n ≤ 4096 →
      ∃ z, Gives (.rmMcast t) s z ∧ SameMemory s z ∧ (z.core c).accs = (s.core c).accs ++
        (span 0 n).map (fun j => { remoteQ t u tier .rst w with
          id := (s.core c).nextId + j, addr := a + j * 2 ^ 40, data := elem, rel := rmRel t s, reg := 1 })) ∧
    (RmIn t 1 → (w = 8 ∨ w = 16 ∨ w = 32 ∨ w = 64) → a % w = 0 →
      Gives (.rmXsig t) s (pushAcc u c { remoteQ t u 0 .xsig w with data := elem, rel := rmRel t s })) ∧
    (RmIn t 1 → winOff a < 4096 → 0 < v.toNat → v.toNat < 65536 →
      Gives (.rmBar t) s (pushAcc u c { remoteQ t u 0 .bar 64 with data := BitVec.ofNat 1024 v.toNat, rel := rmRel t s }))

/-- Operations on reduction groups and the permutation collective (R317 to R322, R327, R328): a contribution keeps its record and reads
its row at t+1, a withdrawal and a retirement are sent, a setting or clearing answers its status at t+3, and an xperm takes its
descriptor with it. Completes, beside a checkpoint with a free slot: rmRred, rmGrpset, rmGrpclr, rmGrpretire. -/
def Sys2Proof.Stmt.RmGroups : Prop :=
  ∀ (t : Trig) (s : State), t.ckpt = true → outstanding (s.core t.core) < 2048 → RmIn t 1 →
    let c := t.core
    let u := shielded s c
    let a := ptrAddr t.y
    let b := portOf t s pRMb
    let d := portOf t s pRMd
    let grp := bits b.toNat 11 0
    let rank := wordN (bits b.toNat 27 16)
    let src := portOf t s pRMa
    let inSpad := fun (len w : Nat) => ptrMal src = false ∧ 0 < len ∧ ptrAddr src + len ≤ spadBits ∧ alignedW (ptrAddr src) w = true ∧
      pinBlocked u (peerCore u c (u.core c).tcore) (ptrAddr src) len = false
    let status := fun (z : State) (v : Nat) => planned z c 3 rReg (.lat lRM (wordN v))
    (b.getLsbD 31 = true → Gives (.rmRred t) s (pushAcc u c (grpAcc t u 1 kWithdraw grp rank 0 0))) ∧
    (∀ f n win tgt z, b.getLsbD 31 = false → n = bits d.toNat 19 8 + 1 → grpFmt (bits d.toNat 24 20) = some f → n * f.width ≤ 4096 →
      inSpad (n * f.width) f.width → winOff a % f.width = 0 → windowFor u (ctxOf u c) a .red = (z, .ok (win, tgt)) →
      s.fe.contribs.length < contribMax →
      ∃ q, Gives (.rmRred t) s q ∧ SameMemory s q ∧
        (∃ rec_ ∈ q.fe.contribs, rec_.home = 2048 * win.domain + win.member ∧ rec_.ctx = win.tctx ∧ rec_.grp = grp ∧
          rec_.rank = bits b.toNat 27 16) ∧
        (q.core c).accs = (s.core c).accs ++ [{ grpAcc t u 1 kContrib grp rank (wordN (bits d.toNat 24 20 + n * 256)) 0 with
          parked := [0], peer := 1 + 2048 * win.domain + win.member, cmp := wordN (1 + win.tctx * 2 ^ 16) }] ∧
        ⟨(s.core c).cyc + 1, rRead, (s.core c).cyc, .rredRead (ptrAddr src) (n * f.width) (s.core c).nextId⟩ ∈ (q.core c).due) ∧
    Gives (.rmGrpretire t) s (pushAcc u c { grpAcc t u 0 kGrpretire grp 0 0 0 with addr := a / 2 ^ 40 * 2 ^ 40 }) ∧
    (∀ z e, windowFor u (ctxOf u c) (a / 2 ^ 40 * 2 ^ 40) .red = (z, .error e) → Gives (.rmGrpclr t) s (status z 6)) ∧
    (∀ z w, windowFor u (ctxOf u c) (a / 2 ^ 40 * 2 ^ 40) .red = (z, .ok w) → Gives (.rmGrpclr t) s
      (pushAcc (status z 0) c { grpAcc t z 0 kGrpclr grp 0 0 0 with addr := a / 2 ^ 40 * 2 ^ 40 })) ∧
    (inSpad 512 1 → ptrAddr src % 512 = 0 → spadErrs (s.core c).spadBad (ptrAddr src) 512 = [] →
      let v := spadGet (s.core c).spad (ptrAddr src) 512
      (grpLegal (words8 v) = false → Gives (.rmGrpset t) s (status u 5)) ∧
      (∀ z e, grpLegal (words8 v) = true → windowFor u (ctxOf u c) a .red = (z, .error e) →
        Gives (.rmGrpset t) s (status z 6)) ∧
      (∀ z w, grpLegal (words8 v) = true → windowFor u (ctxOf u c) a .red = (z, .ok w) →
        Gives (.rmGrpset t) s (pushAcc (status z 0) c (grpAcc t z 0 kGrpset grp 0 0 (BitVec.ofNat 4096 v)))))

/-- xperm, and the binding of link queues (R312, R313, R328): xperm reads its descriptor in the own scratchpad; an inbound binding
registers its key, an outbound one sends its connect, both at once with status 0 and the binding at t+3; a queue or key in use
answers its status and changes nothing else. Completes, beside a checkpoint: rmXperm, rmLqbind, rmLqfree. -/
def Sys2Proof.Stmt.RmFlows : Prop :=
  ∀ (t : Trig) (s : State), t.ckpt = true → outstanding (s.core t.core) < 2048 →
    let c := t.core
    let u := shielded s c
    let x := s.core c
    let b := portOf t s pRMb
    let n := bits b.toNat 2 0
    let m := bits t.y.toNat 2 0
    let rlen := bits b.toNat 6 4
    let key := bits t.y.toNat 31 0
    let status := fun (z : State) (v : Nat) => planned z c 3 rReg (.lat lRM (wordN v))
    (OwnSpad t s 512 1 → ptrAddr t.y % 512 = 0 → spadErrs x.spadBad (ptrAddr t.y) 512 = [] → Gives (.rmXperm t) s (pushAcc u c
      { grpAcc t u 2 kXperm 0 0 0 (BitVec.ofNat 4096 (spadGet x.spad (ptrAddr t.y) 512)) with cls := 15 })) ∧
    (rlen < 5 → b.getLsbD 3 = false → bits t.y.toNat 63 32 = 0 →
      (lqTaken x n = true → Gives (.rmLqbind t) s (status u 2)) ∧
      (lqTaken x n = false → keyBound s (ctxOf s c) key = true → Gives (.rmLqbind t) s (status u 1)) ∧
      (lqTaken x n = false → keyBound s (ctxOf s c) key = false → Gives (.rmLqbind t) s
        (planned (status (registerKey u (ctxOf s c) key (x.team.getD 0) x.tcore n) 0) c 3 rReg
          (.lqBind n false rlen key 0 0 x.nextId)))) ∧
    (∀ z w, rlen < 5 → b.getLsbD 3 = true → RmIn t 1 → winOff (ptrAddr t.y) < 2 ^ 32 → lqTaken x n = false →
      windowFor u (ctxOf s c) (ptrAddr t.y) .wr = (z, .ok w) →
      ∃ q, Gives (.rmLqbind t) s q ∧ SameMemory s q ∧ (q.core c).accs = x.accs ++
          [{ remote t z 0 (.connect z.fab.nextRid) 64 with data := BitVec.ofNat 1024 (winOff (ptrAddr t.y) % 2 ^ 32) }] ∧
        ⟨x.cyc + 3, rReg, x.cyc, .lqBind n true rlen (winOff (ptrAddr t.y) % 2 ^ 32) (bits b.toNat 31 16) (winNo (ptrAddr t.y))
          x.nextId⟩ ∈ (q.core c).due) ∧
    (5 ≤ rlen → Gives (.rmLqbind t) s (takeTrap s c (trapIllegal t.slot))) ∧
    ((∀ j, j < 8 → ¬ ((x.dup.chanOf j).st = .running ∧ dMem (x.dup.chanOf j).desc = 3 ∧ dLq (x.dup.chanOf j).desc = m)) →
      ((x.lqOf m).bound = true → Gives (.rmLqfree t) s (planned (status u 0) c 3 rReg (.lqFree m))) ∧
      ((x.lqOf m).bound = false → lqPending x m = false → Gives (.rmLqfree t) s (status u 3)))

/-- Every operation of RM needs an effective checkpoint (R159), and one on a malformed or misplaced pointer traps (R304). -/
def Sys2Proof.Stmt.RmTraps : Prop :=
  ∀ (t : Trig) (s : State),
    let c := t.core
    let a := ptrAddr t.y
    (t.ckpt = false → ∀ e ∈ [Instr.rmRld t, .rmRst t, .rmRred t, .rmMcast t, .rmXsig t, .rmBar t, .rmGrpset t, .rmGrpclr t,
        .rmGrpretire t, .rmXperm t, .rmLqbind t, .rmLqfree t], Gives e s (takeTrap s c (trapIllegal t.slot))) ∧
    (t.ckpt = true → ∀ e ∈ [Instr.rmRld t, .rmRst t, .rmMcast t, .rmXsig t, .rmBar t, .rmRred t, .rmGrpset t, .rmGrpclr t, .rmGrpretire t],
      (ptrMal t.y = true → Gives e s (takeTrap s c (trapMal t.slot a))) ∧
      (ptrMal t.y = false → region a < 8 ∨ 13 < region a → Gives e s (takeTrap s c (trapAddr t.slot a eUnmapped))))

/-! ### Packets -/

namespace Sys2Proof.Stmt

/-- Packet `p` has left toward its package: it waits for the package itself, or for a port, with what its route has fixed (R297). -/
def SentTo (s u : State) (p : Packet) : Prop :=
  (toHere s p = true ∧ u.fab.loop = s.fab.loop ++ [p] ∧ u.fab.outq = s.fab.outq) ∨
  (toHere s p = false ∧ u.fab.loop = s.fab.loop ∧
    ∃ q z, u.fab.outq = s.fab.outq ++ [(q, z)] ∧ z = { p with via := z.via, gate := z.gate })

/-- The answer to `p` from this package: operation, data, in the tier and with the tag of the request (R298, R300). -/
def answerOf (s : State) (p : Packet) (op : Nat) (data : Word) : Packet :=
  { blankPacket s with tier := p.tier, resp := true, op := op, tdom := p.sdom, tmem := p.smem, score := p.score, tag := p.tag,
                       nc := p.nc, data := data }

/-- A packet of another package for this one reaches it as operation `op` (R297, R300). -/
def Reaches (s : State) (p : Packet) (op : Nat) : Prop :=
  fabOn s = true ∧ p.tier ≠ 3 ∧ p.tdom = fabDom s ∧ p.tmem = fabMem s ∧ p.op = op

/-- A sound request whose turn has come (R302), with none of memory waiting before it and no other store in its packet. -/
def ReachesFirst (s : State) (p : Packet) (op : Nat) : Prop :=
  Reaches s p op ∧ inTurn s p = true ∧ s.fab.remote = [] ∧ requestFault p = none ∧ isSpec p = false ∧ p.x5 = 0

/-- The state in which such a request performs: it has passed its sequence and waits alone. -/
def accepted (s : State) (p : Packet) : State :=
  { passSeq s p with fab := { (passSeq s p).fab with
      remote := [(s.fab.nextRid, { RemoteReq.init with pkt := p })], nextRid := s.fab.nextRid + 1 } }

/-- The packet is refused with an error response of code `e`, which this package logs (R12, R72, R301). -/
def Refused (i : Instr) (s : State) (p : Packet) (e : Nat) : Prop :=
  ∃ u q, Gives i s u ∧ u.hbm = (logFabric (passSeq s p) e p.addr p.tctx).hbm ∧ SentTo s u q ∧ q.op = kErr ∧ q.resp = true ∧ q.data = wordN e ∧ q.tdom = p.sdom ∧
    q.tmem = p.smem ∧ q.tag = p.tag ∧ q.addr = p.addr % 2 ^ 56

end Sys2Proof.Stmt

/-- Requests of memory at their target (R301, R305, R307, R309): inside one sector, where the address translates, a load is answered
with the bits at its physical address, a store is written there and acknowledged, and an add is one step. Every other bit of memory
is as the translation left it. Completes: loadRequest, storeRequest, addRequest. -/
def Obligations.RequestsOfMemory : Prop :=
  ∀ (s v : State) (p : Packet) (q : Nat), 1 ≤ region p.addr → 0 < p.len → p.len ≤ 64 → p.addr % 256 + p.len ≤ 256 → v.hbmBad = [] →
    (ReachesFirst s p kLoad → Machine.translate (accepted s p) p.tctx p.addr gRemote 0 false = (v, .ok q) →
      ∃ u, Gives (.loadRequest (.ext p)) s u ∧ u.hbm = v.hbm ∧ u.fab.remote = [] ∧
        SentTo s u (answerOf s p kReply (wordN (hbmBits v.hbm q p.len)))) ∧
    (∀ i op kind, (i, op, kind) ∈ [(Instr.storeRequest (.ext p), kStore, storeKind p.addr p.len), (.addRequest (.ext p), kAdd, 2)] →
      ReachesFirst s p op → Machine.translate (accepted s p) p.tctx p.addr gRemote kind false = (v, .ok q) →
      ∃ u, Gives i s u ∧ u.fab.remote = [] ∧ SentTo s u (answerOf s p kAck 0) ∧
        hbmBits u.hbm q p.len = (if op = kStore then p.data.toNat else hbmBits v.hbm q p.len + p.data.toNat) % 2 ^ p.len ∧
        (∀ r n, r + n ≤ q ∨ q + p.len ≤ r → hbmBits u.hbm r n = hbmBits v.hbm r n))

/-- Flows (R33, R310 to R314): an arrival at a barrier of the request's context counts there and is acknowledged, and one at another
context's is refused; a row joins the queue of its key; a connect gets 16 credits unless another sender holds the key, when it is
refused; a malformed address is refused; credits reach the sending queue; a released row leaves for its package and takes a credit.
Completes: barrierArrival, linkRow, connect, credit, linkRowSend. -/
def Obligations.FlowPackets : Prop :=
  ∀ (s : State) (p : Packet),
    let key := p.data.toNat % 2 ^ 32
    let i := bits p.addr 11 0
    let who := (p.sdom, p.smem, bits p.x7.toNat 63 33)
    (Reaches s p kBar → inTurn s p = true → p.addr < 2 ^ 56 → barOwned s i p.tctx = true →
      ∃ u, Gives (.barrierArrival (.ext p)) s u ∧ barrierOf u i = arriveAt (barrierOf s i) (p.data.toNat % 2 ^ 16) ∧ SameMemory s u ∧
        SentTo s u (answerOf s p kAck 0)) ∧
    (∀ k c, Reaches s p kLink → inTurn s p = true → findKey s p.tctx key = some k → k.lq ≠ unboundLq → (s.team k.team).slot = none →
      (s.team k.team).cores[k.tcore]? = some c →
      ∃ u, Gives (.linkRow (.ext p)) s u ∧ SameMemory s u ∧
        ((u.core c).lqOf k.lq).rows = ((s.core c).lqOf k.lq).rows ++ [⟨p.body, true, (s.core c).nextId⟩]) ∧
    (∀ k, Reaches s p kConnect → inTurn s p = true → p.addr < 2 ^ 56 → findKey s p.tctx key = some k → k.lq ≠ unboundLq →
      (k.sender = none ∨ ∃ h, k.sender = some (who.1, who.2.1, who.2.2, h)) →
      ∃ u q, Gives (.connect (.ext p)) s u ∧ SameMemory s u ∧ SentTo s u q ∧ q.op = kCredit ∧ q.tdom = p.sdom ∧ q.tmem = p.smem ∧
        q.data = 16 ∧ flowHandle q = some ((flowHandle p).getD 0 % 2 ^ 32)) ∧
    (∀ c n h, Reaches s p kCredit → flowHandle p = some h → connectCore s h = none → handleQueue s h = some (c, n) →
      ∃ u, Gives (.credit (.ext p)) s u ∧ SameMemory s u ∧
        (u.core c).lqOf n = { (s.core c).lqOf n with credits := ((s.core c).lqOf n).credits + p.data.toNat % 32 }) ∧
    (inTurn s p = true →
      (∀ k d m w h, Reaches s p kConnect → p.addr < 2 ^ 56 → findKey s p.tctx key = some k → k.lq ≠ unboundLq →
        k.sender = some (d, m, w, h) → (d, m, w) ≠ who → Refused (.connect (.ext p)) s p eFlow) ∧
      (Reaches s p kBar → p.addr < 2 ^ 56 → barOwned s i p.tctx = false → Refused (.barrierArrival (.ext p)) s p ePerm) ∧
      (2 ^ 56 ≤ p.addr → (Reaches s p kBar → Refused (.barrierArrival (.ext p)) s p eMalformed) ∧
        (Reaches s p kConnect → Refused (.connect (.ext p)) s p eMalformed))) ∧
    (∀ c n r rest, let q := (s.core c).lqOf n
      fabOn s = true → q.rows = r :: rest → q.out = true → q.failed = false → q.drain = false → r.rel = true → 0 < q.credits →
      omaskWaits (s.core c) q.omask r.place = false →
      ∃ u z, Gives (.linkRowSend c n) s u ∧ SameMemory s u ∧ (u.core c).lqOf n = { q with rows := rest, credits := q.credits - 1 } ∧
        SentTo s u z ∧ z.op = kLink ∧ z.tdom = q.tdom ∧ z.tmem = q.tmem ∧ z.tctx = q.tctx ∧ z.data = wordN q.key ∧ z.body = r.v)

/-- Answers at their source (R301, R305, R307): a reply in time fills the register of its load; an acknowledgement ends its request; a
park notice suspends its time-out; an error response or a time-out poisons a load's register with its code; a passed deadline
poisons it without cause when its bundle issues, while the access stays outstanding, and not while that bundle stalls. Completes: reply, acknowledgement, parkNotice, errorResponse, fabtimeout, rldDeadline. -/
def Obligations.AnswersAtSource : Prop :=
  ∀ (s : State) (p : Packet) (a : Acc) (d : Nat), p.nc = false → taggedAcc (s.core p.score) p.tag = some a → a.dead = false →
    a.err = none →
    (a.op = .rld d →
      (Reaches s p kReply → ∃ u, Gives (.reply (.ext p)) s u ∧ SameMemory s u ∧
        (u.core p.score).dup.greg a.reg = ⟨wordN (p.data.toNat % 2 ^ a.len), .full⟩ ∧ findAcc (u.core p.score) a.id = none) ∧
      (Reaches s p kErr → p.data.toNat % 256 ≠ eEcc → ∃ u, Gives (.errorResponse (.ext p)) s u ∧
        ((u.core p.score).dup.greg a.reg).st = .poison (p.data.toNat % 256) ∧ findAcc (u.core p.score) a.id = none) ∧
      (findAcc (s.core p.score) a.id = some a → timedOut s a = true → ∃ u, Gives (.fabtimeout p.score a.id) s u ∧
        ((u.core p.score).dup.greg a.reg).st = .poison eFabtimeout ∧ findAcc (u.core p.score) a.id = none) ∧
      (∀ due rest w, findAcc (s.core p.score) a.id = some a → (s.core p.score).due = due :: rest → due.fx = .rld a.id →
        due.at_ ≤ (s.core p.score).cyc → (∀ e ∈ rest, (s.core p.score).cyc < e.at_) → fetchAt s p.score = .ok w →
        (stallsAt s p.score w = true → Gives (.rldDeadline p.score) s s) ∧
        (stallsAt s p.score w = false → ∃ u, Gives (.rldDeadline p.score) s u ∧ SameMemory s u ∧ ((u.core p.score).dup.greg a.reg).st = .poison 0 ∧
          (u.core p.score).due = rest ∧ outstanding (u.core p.score) = outstanding (s.core p.score)))) ∧
    (a.op = .rst → Reaches s p kAck → ∃ u, Gives (.acknowledgement (.ext p)) s u ∧ SameMemory s u ∧
      findAcc (u.core p.score) a.id = none) ∧
    (Reaches s p kPark → Gives (.parkNotice (.ext p)) s (s.onCore p.score (fun x => putAcc x { a with held := true })))

/-- Ports (R295, R297, R299): a port with packets waiting sends one of the tier it serves, before which no other of that tier leaves; a
packet without a route is dropped and counted. A port that goes down or is trained changes its bit of FAB_PORTSTAT and no other, but
for the port that FAB_PORTMAP replaces, which stays down. Completes: packetForward, fabricPortDown, fabricPortTrained. -/
def Obligations.PortsAndRoutes : Prop :=
  ∀ (s : State),
    (∀ k q p rest, takeNth k s.fab.outq = some ((some q, p), rest) → fabOn s = true →
      ∃ u z, Gives (.packetForward k) s u ∧ SameMemory s u ∧ z ∈ portQueue s q ∧ z.tier = (servedTier s q (portQueue s q)).1 ∧
        (∀ y ∈ portQueue s q, y.tier = z.tier → leavesFirst y z = false) ∧
        u.fab.wire = s.fab.wire ++ [(q, z)] ∧ u.fab.outq = s.fab.outq.erase (some q, z)) ∧
    (∀ k p rest, takeNth k s.fab.outq = some ((none, p), rest) → p.resp = true →
      ∃ u, Gives (.packetForward k) s u ∧ u.fab.drop = s.fab.drop + 1 ∧ u.fab.outq = rest ∧ u.fab.wire = s.fab.wire) ∧
    (∀ port, port < 48 → ∃ u v, Gives (.fabricPortDown port) s u ∧ Gives (.fabricPortTrained port) s v ∧
      (∀ n, n < 48 →
        bit u.fab.up n = (bit s.fab.up n && decide (n ≠ port ∧ replacedPort s ≠ some n)) ∧
        bit v.fab.up n = ((bit s.fab.up n || decide (n = port)) && decide (replacedPort s ≠ some n))))

/-! ### Reduction groups and permutation collectives at their home -/

/-- Group packets at their home (R317 to R322, R325, R327): setting an unset group opens generation 1; a contribution or withdrawal that
leaves its generation open is taken and acknowledged with the generation, its row written to staging in modes 1 and 2; clearing an incomplete group makes it idle; retiring a
group without an open generation retires it, one with an open generation waits, and a retired one is acknowledged. A live group that
is set again answers its error, and a malformed address is refused (R33). A notice frees the records of its generation and no others. Completes: groupSetPacket, contribution,
withdrawal, groupClearPacket, groupRetirePacket, completionNotice. -/
def Sys2Proof.Stmt.GroupPackets : Prop :=
  ∀ (s : State) (p : Packet), inTurn s p = true →
    let k := pktGroup p
    let g := s.group k
    let r := pktRank p
    let n := bits p.x6.toNat 47 32
    let mine := fun (e : RedRec) => e.home = 2048 * p.sdom + p.smem ∧ e.grp = k ∧ e.ctx = p.tctx
    let acked := fun (u : State) =>
      SentTo s u { answerOf s p kAck 0 with addr := g.retAddr, x6 := wordN (g.gen * 2 ^ 32 + g.elems * g.fmt.width) }
    (2 ^ 56 ≤ p.addr → g.work = none → ∀ i op, (i, op) ∈ [(Instr.groupSetPacket (.ext p), kGrpset), (.contribution (.ext p), kContrib),
      (.withdrawal (.ext p), kWithdraw), (.groupClearPacket (.ext p), kGrpclr), (.groupRetirePacket (.ext p), kGrpretire)] →
      Reaches s p op → Refused i s p eMalformed ∧ ∀ u, Gives i s u → u.group k = g) ∧
    (g.work = none → p.addr < 2 ^ 56 →
      (Reaches s p kGrpset → g.st = .unset ∨ (g.st = .retired ∧ g.ctx = p.tctx) →
        ∃ u, Gives (.groupSetPacket (.ext p)) s u ∧ SameMemory s u ∧
          u.group k = { Group.init with st := .idle, ctx := p.tctx, desc := words8 p.body.toNat, rbase := p.addr, gen := 1 } ∧
          SentTo s u (answerOf s p kAck 0)) ∧
      (Reaches s p kGrpset → g.st = .idle ∨ g.st = .opened ∨ g.st = .incomplete ∨ g.st = .retiring →
        ∃ u, Gives (.groupSetPacket (.ext p)) s u ∧ u.group k = g ∧
          SentTo s u { answerOf s p kErr (wordN eLivegroup) with addr := p.addr % 2 ^ 56 }) ∧
      (∀ i n, Reaches s p kContrib → g.st = .opened → g.ctx = p.tctx → r < g.ranks → g.mode = 0 → contribSpan g p = some (i, n) →
        contribDup g r i n = false →
        (∃ q, q < g.ranks ∧ q ≠ r ∧ g.wdn.contains q = false ∧ delivered g q < g.elems) →
        ∃ u, Gives (.contribution (.ext p)) s u ∧ SameMemory s u ∧ (u.group k).st = .opened ∧
          (u.group k).rows = g.rows ++ [⟨r, i, unpackCodes p.body.toNat g.fmt.width n⟩] ∧ acked u) ∧
      (∀ i n v x es, Reaches s p kContrib → g.st = .opened → g.ctx = p.tctx → r < g.ranks → g.mode ≠ 0 → contribSpan g p = some (i, n) →
        contribDup g r i n = false →
        (∃ q, q < g.ranks ∧ q ≠ r ∧ g.wdn.contains q = false ∧ delivered g q < g.elems) →
        whoWrite ((passSeq s p).setGroup k (takePacket (passSeq s p) g p)) (.group k) g.ctx gRemote
          (g.sbase + (r * g.elems + i) * g.fmt.width) (n * g.fmt.width) p.body.toNat = (v, ⟨x, none, false, es⟩) →
        ∃ u, Gives (.contribution (.ext p)) s u ∧ u.hbm = v.hbm ∧ (u.group k).st = .opened ∧
          (u.group k).rows = g.rows ++ [⟨r, i, unpackCodes p.body.toNat g.fmt.width n⟩] ∧ acked u) ∧
      (Reaches s p kWithdraw → g.st = .opened → g.ctx = p.tctx → r < g.ranks → g.wdn.contains r = false →
        (∃ q, q < g.ranks ∧ q ≠ r ∧ g.wdn.contains q = false ∧ delivered g q < g.elems) →
        ∃ u, Gives (.withdrawal (.ext p)) s u ∧ SameMemory s u ∧ (u.group k).wdn = g.wdn ++ [r] ∧ (u.group k).rows = g.rows ∧
          acked u) ∧
      (Reaches s p kGrpclr → g.st = .incomplete → g.ctx = p.tctx → ∃ u, Gives (.groupClearPacket (.ext p)) s u ∧ SameMemory s u ∧
        u.group k = { g with st := .idle } ∧ SentTo s u (answerOf s p kAck 0)) ∧
      (Reaches s p kGrpretire →
        (g.ctx = p.tctx → g.st = .idle ∨ g.st = .incomplete → ∃ u, Gives (.groupRetirePacket (.ext p)) s u ∧ SameMemory s u ∧
          u.group k = { g with st := .retired } ∧ SentTo s u (answerOf s p kAck 0)) ∧
        (g.ctx = p.tctx → g.st = .opened → ∃ u, Gives (.groupRetirePacket (.ext p)) s u ∧ SameMemory s u ∧
          u.group k = { g with st := .retiring, ret := g.ret ++ [p] } ∧ SentTo s u (answerOf s p kPark 0)) ∧
        (g.st = .retired → ∃ u, Gives (.groupRetirePacket (.ext p)) s u ∧ SameMemory s u ∧ u.group k = g ∧
          SentTo s u (answerOf s p kAck 0)))) ∧
    (Reaches s p kNotice → ∃ u, Gives (.completionNotice (.ext p)) s u ∧ SameMemory s u ∧ SentTo s u (answerOf s p kAck 0) ∧
      (∀ e ∈ s.fe.contribs, ¬ mine e → e ∈ u.fe.contribs) ∧
      (∀ e ∈ s.fe.contribs, mine e → e.pend = 0 → (e.gen = n ∨ e.gen = 0) → e ∉ u.fe.contribs))

/-- The packet `q` is on its way. -/
def Sys2Proof.Stmt.OnItsWay (u : State) (q : Packet) : Prop := q ∈ u.fab.loop ∨ ∃ o, (o, q) ∈ u.fab.outq

/-- The end of a generation (R317, R318, R325, R326): a generation that has been open for its time-out ends incomplete once its results
are written, the rows read from staging in modes 1 and 2; a row that cannot be read counts as withdrawn, and a write that fails is
logged and the ending goes on. The next generation is one more modulo 65,535 and starts with no contribution; every contributor gets
the status word and a notice. While one of these accesses is parked the ending waits; before its time nothing happens. Completes:
groupTimeout. -/
def Sys2Proof.Stmt.GenerationEnds : Prop :=
  ∀ (s : State) (k : Nat),
    let g := s.group k
    g.work = none →
    (genLate s g = false → Gives (.groupTimeout k) s s) ∧
    let st := if g.mode = 0 then (s, []) else stagedRows s k g (included g)
    let waits := st.2.any (fun e => e.2.wait)
    let g' := { g with wdn := g.wdn ++ (st.2.filter (fun e => e.2.err.isSome)).map (·.1) }
    let h := if g.mode = 0 then g' else { g' with rows := rowsRead g st.2 }
    let res := results h (included h)
    let put := homeWrites (logRows st.1 g st.2) k g.ctx (payloads g.rbase (g.elems * g.fmt.width) res.1)
    (genLate s g = true → waits = true ∨ put.2.1 = true →
      ∃ u, Gives (.groupTimeout k) s u ∧ (u.group k).work = some (.ending 2) ∧ (u.group k).rows = g.rows ∧ (u.group k).gen = g.gen) ∧
    (genLate s g = true → waits = false → put.2.1 = false → ∃ u, Gives (.groupTimeout k) s u ∧
      u.hbm = (put.2.2.foldl (fun s e => logFabric s e.1 e.2 g.ctx) put.1).hbm ∧
      (u.group k).rows = [] ∧ (u.group k).wdn = [] ∧ (u.group k).gen = g.gen % 65535 + 1 ∧ (u.group k).work = none ∧
      (u.group k).st = (if g.st = .retiring then .retired else .incomplete) ∧
      ∀ d ∈ g.from_,
        (∃ q, OnItsWay u q ∧ q.op = kNotice ∧ q.tdom = d.1 ∧ q.tmem = d.2.1 ∧ q.x4 = wordN k ∧ q.x6 = wordN (g.gen * 2 ^ 32)) ∧
        (g.sigAddr ≠ 0 → ∃ q, OnItsWay u q ∧ q.op = kStore ∧ q.tdom = d.1 ∧ q.tmem = d.2.1 ∧ q.tctx = d.2.2 ∧ q.addr = g.sigAddr ∧
          q.len = 64 ∧ q.data = statusWord g' 2 (included h) res.2))

/-- Permutation collectives (R328, R329): data for a partition in memory is stored and counted under its key; a collective that has
all its data copies its bounce area, and one that ends writes its done word and performs its access; one whose time has passed fails
with fabtimeout. Completes: xpermData, xpermCopy, xpermTimeout. -/
def Sys2Proof.Stmt.XpermSteps : Prop :=
  ∀ (s : State) (k : Nat),
    let x := s.xpermOf k
    (∀ (v : State) (p : Packet) (q : Nat), ReachesFirst s p kXperm → 1 ≤ region p.addr → 0 < p.len → p.len ≤ 64 →
      p.addr % 256 + p.len ≤ 256 → v.hbmBad = [] →
      Machine.translate (accepted s p) p.tctx p.addr gRemote (storeKind p.addr p.len) false = (v, .ok q) →
      ∃ u, Gives (.xpermData (.ext p)) s u ∧ hbmBits u.hbm q p.len = p.data.toNat % 2 ^ p.len ∧
        (∀ r n, r + n ≤ q ∨ q + p.len ≤ r → hbmBits u.hbm r n = hbmBits v.hbm r n) ∧
        arrivedBits u p.tctx p.x4.toNat = arrivedBits s p.tctx p.x4.toNat + p.len) ∧
    (∀ v y es, s.hasXperm k = true → x.phase = 4 →
      whoWrite (s.setXperm k x) (.xperm k) x.ctx gRemote x.doneAddr 64
        ((if x.fail = 0 then 2 ^ 62 else 2 ^ 63 + x.fail * 2 ^ 48) + arrivedBits s x.ctx x.key % 2 ^ 48) = (v, ⟨y, none, false, es⟩) →
      ∃ u, Gives (.xpermCopy k) s u ∧ u.hbm = v.hbm ∧ u.hasXperm k = false ∧ findAcc (u.core x.core) x.id = none) ∧
    (∀ v w val y es, let s' := s.setXperm k { x with phase := 3 }
      s.hasXperm k = true → x.phase = 2 → xpermReady s x = true →
      whoRead s' (.xperm k) x.ctx gRemote x.bounce (x.newLen * x.width) = (v, ⟨val, none, false, []⟩) →
      whoWrite v (.xperm k) x.ctx gRemote x.buf (x.newLen * x.width) val = (w, ⟨y, none, false, es⟩) →
      Gives (.xpermCopy k) s (xpermEnd (clearParts w (.xperm k)) k)) ∧
    (s.hasXperm k = true → x.phase ≤ 2 → xpermLate s x = true →
      Gives (.xpermTimeout k) s (xpermLost s k eFabtimeout x.buf)) ∧
    (xpermLate s x = false → Gives (.xpermTimeout k) s s)

/-! ### Experts -/

namespace Sys2Proof.Stmt

/-- Room in the queue of the die of core `c` (R331). -/
def XpRoom (s : State) (c : Nat) : Prop := queueUse s (dieOf c) < 32

/-- The queue of the die of core `c`. -/
def xpQueue (s : State) (c : Nat) : List XpCmd := Tab.get [] s.xp.cmds (dieOf c)

/-- The state after a command `cmd` of core `c` has joined its queue, with status `v` at t+3 and a place in model order (R330 to R332). -/
def Queued (s u : State) (c : Nat) (cmd : XpCmd) : Prop :=
  xpQueue u c = xpQueue s c ++ [cmd] ∧ (u.core c).nextId = (s.core c).nextId + 1 ∧
    ⟨(s.core c).cyc + 3, rReg, (s.core c).cyc, .lat lXP 0⟩ ∈ (u.core c).due ∧ SameMemory s u

end Sys2Proof.Stmt

/-- Commands of XP (R330, R331, R334, R336, R345, R346): with a checkpoint and room in the die's queue each joins it with status 0; topk
and walk read their descriptor at t+1; resq empties its register; an unlock of nothing and a bias with an illegal operand answer
status 1 alone. A full queue stalls, and without a checkpoint each is illegal. Completes, beside a checkpoint with
room in the queue: xpPageFetch, xpPageLock, xpPageUnlock, xpPageEvict, xpResarmRetry, xpResarmDrop, xpResq, xpTopk, xpWalk, xpBias. -/
def Sys2Proof.Stmt.XpCommands : Prop :=
  ∀ (t : Trig) (s : State),
    let c := t.core
    let u := shielded s c
    let e := wordN (t.y.toNat % 65536)
    let n := (portOf t s pXPb).toNat % 65536
    let r := (portOf t s pXPd).toNat % 64
    let cmd := fun (op : Nat) (ws : List Word) => { xpCmd t u op ws with seq := s.xp.nextJob }
    let one := fun (i : Instr) (op : Nat) (ws : List Word) => ∃ z, Gives i s z ∧ Queued s z c (cmd op ws)
    (t.ckpt = true → XpRoom u c →
      one (.xpPageFetch t) 3 [e] ∧ one (.xpPageLock t) 4 [e] ∧ one (.xpPageEvict t) 6 [e] ∧ one (.xpResarmRetry t) 8 [e] ∧
      one (.xpResarmDrop t) 9 [e] ∧ (n ≠ 0 → one (.xpPageUnlock t) 5 [e, wordN n]) ∧
      (n = 0 → Gives (.xpPageUnlock t) s (planned u c 3 rReg (.lat lXP 1))) ∧
      (((s.core c).dup.greg r).st ≠ .empty → outstanding (s.core c) < 2048 → ∃ z, Gives (.xpResq t) s z ∧
        Queued s z c (cmd 7 [e, wordN (s.core c).nextId]) ∧ ((z.core c).dup.greg r).st = .empty) ∧
      (OwnSpad t s 512 1 → ptrAddr t.y % 512 = 0 → ∀ i op, (i, op) ∈ [(Instr.xpTopk t, 0), (.xpWalk t, 1)] →
        Gives i s ((planned u c 1 rRead (.xpDesc (ptrAddr t.y) (dieOf c) (xpCmd t u op []))).onCore c (fun x => { x with nextId := x.nextId + 1 }))) ∧
      (∀ a q k, a = portOf t s pXPa → q = portOf t s pXPq → k = bits (portOf t s pXPb).toNat 16 0 →
        ptrMal t.y = false → ptrMal a = false → ptrMal q = false →
        (0 < k → k ≤ 65536 → biasPtr t.y 32 = true → biasPtr a 32 = true → biasPtr q 64 = true → one (.xpBias t) 2 [t.y, a, wordN k, q]) ∧
        (k = 0 → Gives (.xpBias t) s (planned u c 3 rReg (.lat lXP 1))))) ∧
    (t.ckpt = true → ¬ XpRoom u c → ∀ i ∈ [Instr.xpPageFetch t, .xpPageLock t, .xpPageUnlock t, .xpPageEvict t, .xpResq t, .xpResarmRetry t,
      .xpResarmDrop t], Gives i s s) ∧
    (t.ckpt = false → ∀ i ∈ [Instr.xpTopk t, .xpWalk t, .xpPageFetch t, .xpPageLock t, .xpPageUnlock t, .xpPageEvict t, .xpResq t,
      .xpResarmRetry t, .xpResarmDrop t, .xpBias t], Gives i s (takeTrap s c (trapIllegal t.slot)))

/-- Expert tables (R331, R342 to R346). A page command that heads its queue, with every earlier access performed, acts on an entry of
its context: a lock counts, an eviction makes an unlocked resident entry absent. A fetch whose weights fit and whose accesses
succeed makes its entry resident; a source that fails, or a time-out, makes it failed. A walk that has done its experts writes its
done word and leaves its walker; a walker with no job changes nothing. Completes: xpCommandAccept, walkResume, expertFetchComplete, expertFetchFail, expertFetchTimeout. -/
def Sys2Proof.Stmt.ExpertTables : Prop :=
  ∀ (s : State) (d e : Nat),
    let r := resid s e
    (∀ cmd rest, Tab.get [] s.xp.cmds d = cmd :: rest → cmdReady s cmd = true → walkBefore s cmd = false → cmd.expert = e → residOwned s e cmd.ctx = true →
      (cmd.op = 4 → r.st = 2 → r.lock < 65535 → s.xp.locks = [] → s.xp.waits = [] →
        ∃ u, Gives (.xpCommandAccept d 0) s u ∧ SameMemory s u ∧ resid u e = { r with lock := r.lock + 1 } ∧ Tab.get [] u.xp.cmds d = rest) ∧
      (cmd.op = 6 → r.st = 2 → r.lock = 0 → s.xp.fq = [] →
        ∃ u, Gives (.xpCommandAccept d 0) s u ∧ SameMemory s u ∧ resid u e = { r with st := 0 } ∧ Tab.get [] u.xp.cmds d = rest)) ∧
    (s.xp.jobs = [] → Gives (.walkResume d) s s) ∧
    (∀ j v x b, s.xp.jobs = [(d, [j])] → j.kind = 1 → jobParked s j.id = false → j.cur = none → j.pend = none → j.ended = false →
      bits (j.word 0).toNat 15 0 < j.x → s.xp.waits = [] →
      whoWrite (clearParts s (.engine j.id)) (.engine j.id) j.ctx gWalker (ptrAddr (j.word 5)) 64 (doneWord j) =
        (v, ⟨x, none, false, b⟩) →
      ∃ u, Gives (.walkResume d) s u ∧ u.hbm = v.hbm ∧ u.xp.jobs = []) ∧
    (∀ u, r.st = 1 → r.claimed = true → bits (catWord s e 0).toNat 62 61 ≠ 1 → fetchFits s e = true →
      fetchData s e = .done u → u.xp = s.xp → s.xp.waits = [] → s.xp.locks = [] → s.xp.jobs = [] → s.xp.fq = [] →
      Gives (.expertFetchComplete e) s (setResid (clearParts u (.fetch e)) e { r with st := 2, claimed := false })) ∧
    (r.st = 1 → r.claimed = true →
      (bits (catWord s e 0).toNat 62 61 ≠ 1 → fetchFits s e = false → Gives (.expertFetchFail e) s (failFetch s e)) ∧
      (s.xp.tmo ≠ 0 → 1000000 * s.xp.tmo ≤ (s.fe.time - r.t0).toNat → Gives (.expertFetchTimeout e) s (failFetch s e))) ∧
    (r.st ≠ 1 → ∀ i ∈ [Instr.expertFetchComplete e, .expertFetchFail e, .expertFetchTimeout e], Gives i s s) ∧
    (s.xp.fq = [] → (resid (failFetch s e) e).st = 3)

/-! ### Device registers -/

/-- Device registers (R8, R9, R43, R58, R60, R73, R106, R127, R128, R316, R367, R384, R387): where a write by an agent that may
write lands, each field masked to its place; an address that is not aligned to 64 bits, one without a register, a read-only
register and a write that the agent may not make are dropped with their record; a management core that is held in reset writes
nothing (R77). Completes: registerWrite. -/
def Sys2Proof.Stmt.RegisterWrites : Prop :=
  ∀ (s : State) (ag : Agent) (v : Word), agentRuns s ag = true →
    let wr := fun (off : Nat) => Gives (.registerWrite ag (0xE0000000000000 + off) v) s
    let bad := fun (off code : Nat) => wr off (logAgent s ag code (0xE0000000000000 + off))
    (∀ q, q < 16384 → wr (64 * q) { s with fe := { s.fe with widx := Tab.set 0 q (fld v 31 0) s.fe.widx } }) ∧
    (∀ q, q < 16384 → fld v 55 0 % 64 = 0 → wr (0x100000 + 512 * q + 128) (s.setQueue q { s.queue q with param := fld v 55 0 })) ∧
    (∀ q, q < 16384 → fld v 55 0 % 64 ≠ 0 → bad (0x100000 + 512 * q + 128) eResvwrite) ∧
    (asSystem ag = true → wr 0x900000 { s with fe := { s.fe with time := v } }) ∧
    (asSystem ag = false → bad 0x900000 ePerm) ∧
    (ag = .root → fld v 55 0 % 256 = 0 → wr 0x900040 { s with fe := { s.fe with elogBase := fld v 55 0 } }) ∧
    (ag ≠ .root → bad 0x900040 ePerm) ∧
    wr 0x900080 { s with fe := { s.fe with elogRp := fld v 15 0 } } ∧
    (∀ d, d < 4 → asSystem ag = true →
      wr (0xC00000 + 0x10000 * d) (s.setDie d { s.die d with age := wordN (fld v 47 0) }) ∧
      wr (0xC00040 + 0x10000 * d) (s.setDie d { s.die d with cldis := fld v 15 0 }) ∧
      wr (0xC00080 + 0x10000 * d) s) ∧
    (∀ m, m < 8 → ag = .root → fld v 41 0 % 256 = 0 →
      wr (0xD00000 + 0x10000 * m) (s.setMtu m { s.mtu m with fqbase := fld v 41 0 })) ∧
    (∀ m, m < 8 → asFirmware ag = true → wr (0xD00040 + 0x10000 * m) (s.setMtu m { s.mtu m with rp := fld v 14 0 })) ∧
    (ag = .root →
      (fld v 41 0 % 512 = 0 → wr 0xE00000 { s with xl := { s.xl with ctxbase := fld v 41 0 } }) ∧
      (fld v 41 0 % 512 ≠ 0 → bad 0xE00000 eResvwrite) ∧
      (fld v 55 0 % 2 ^ 24 = 0 → wr 0xE001C0 { s with xl := { s.xl with framebase := fld v 55 0 } }) ∧
      (fld v 20 11 ≤ 767 → fld v 10 0 ≤ 1057 → wr 0xF00000 { s with fab := { s.fab with id := v &&& 0x80000000001FFFFF#64 } }) ∧
      (fld v 15 0 ≠ 0 → wr 0xF00040 { s with fab := { s.fab with ctl := v &&& 0x3FFFFFFFF#64 } }) ∧
      (∀ m, m < 1058 → fld v 5 0 ≤ 46 →
        wr (0x1000000 + 64 * m) { s with fab := { s.fab with dom := Tab.set 0 m (v &&& 0x7F#64) s.fab.dom } }) ∧
      (∀ m, m < 1058 → 46 < fld v 5 0 → bad (0x1000000 + 64 * m) eResvwrite) ∧
      wr 0x1A00000 { s with hl := { s.hl with ctx := fld v 15 0 } } ∧
      wr 0x1A00040 { s with hl := { s.hl with ready := flag v 0 } }) ∧
    (∀ b, b < 256 → ag = .root →
      wr (0x1900000 + 64 * b) { s with sync := { s.sync with nb := Tab.set 0 b (v &&& 0xC00000000000FFFF#64) s.sync.nb } }) ∧
    (asSystem ag = true → 600 ≤ fld v 11 0 → fld v 11 0 ≤ 2400 →
      wr 0x1B00000 { s with pow := { s.pow with cap := fld v 11 0 } }) ∧
    (asSystem ag = true → fld v 11 0 < 600 ∨ 2400 < fld v 11 0 → bad 0x1B00000 eResvwrite) ∧
    bad 0x1B00040 ePerm ∧
    (∀ off, off < 2 ^ 52 → off % 64 ≠ 0 → bad off eDevreg) ∧
    (∀ off, 0x1C00000 ≤ off → off < 2 ^ 52 → off % 64 = 0 → bad off eUnmapped)

/-- Firmware and memory (R75, R77): a management core that is held in reset writes nothing; root firmware writes a 64-bit word of
memory at any address, management firmware one that the walk of an unresolved fault record reads, unless the entry there or the one
written is a leaf with nf set (R126); a write elsewhere and an address
that is not aligned are dropped with their record, and a host's or a strand's write of a physical address reaches no register.
Completes: registerWrite. -/
def Sys2Proof.Stmt.FirmwareWritesMemory : Prop :=
  ∀ (s : State) (ag : Agent) (a : Nat) (v : Word),
    let frame := fun (w : Word) => bits w.toNat 1 0 = 2 ∧ w.getLsbD 7 = true
    let mayPage := servicesFault s a = true ∧ ¬ frame v ∧ ¬ frame ((physWord s a).getD 0)
    (agentRuns s ag = false → Gives (.registerWrite ag a v) s s) ∧
    (a < 2 ^ 42 → agentRuns s ag = true → asFirmware ag = true →
      (a % 64 ≠ 0 → Gives (.registerWrite ag a v) s (logAgent s ag eAlignment a)) ∧
      (a % 64 = 0 → ag = .root ∨ mayPage → Gives (.registerWrite ag a v) s (physPut s a v)) ∧
      (a % 64 = 0 → ag ≠ .root → ¬ mayPage → Gives (.registerWrite ag a v) s (logAgent s ag ePerm a))) ∧
    (a < 2 ^ 42 → asFirmware ag = false → Gives (.registerWrite ag a v) s (logAgent s ag eDevreg a))

/-- Queue descriptors (R60, R62, R69): 01 maps a queue with a legal size and a valid context, or resumes it; 11 halts a running
queue and 00 unmaps it, at once between packets and after the packet in progress otherwise; QD1 and QD3 name the program, which must
be checked for the queue's parameter words. A ring base that is not a multiple of 1,024 drops any write of QD0 (the model's choice,
log entry 15). Completes: qdStateRunning, qdStateHalted, qdStateUnmapped, qd1Write, qd3Write. -/
def Obligations.QueueDescriptors : Prop :=
  ∀ (s : State) (ag : Agent) (q : Nat) (v : Word), q < 16384 → agentRuns s ag = true →
    let x := s.queue q
    let y := { x with lsize := fld v 61 57, ring := fld v 55 0 }
    let drop := fun (i : Instr) (k code : Nat) => Gives i s (logAgent s ag code (0xE0000000100000 + 512 * q + 64 * k))
    let left := fun (z : Queue) => { s.setQueue q z with
      fe := { (s.setQueue q z).fe with waitq := s.fe.waitq.filter (· != q) } }
    let sized := 4 ≤ y.lsize ∧ y.lsize ≤ 16
    let even := y.ring % 1024 = 0
    (x.st = 0 → even → sized → (ctxValid s x.ctx).2 = true → Gives (.qdStateRunning ag q v) s ((ctxValid s x.ctx).1.setQueue q
      { y with st := 1, ival := 0, next := (ctxValid s x.ctx).1.fe.time.toNat, want := none, scratch := [] })) ∧
    (x.st ≠ 0 → x.st ≠ 1 → even → sized → Gives (.qdStateRunning ag q v) s (s.setQueue q
      { y with st := 1, ival := 0, next := s.fe.time.toNat, want := none })) ∧
    (x.st = 1 ∨ ¬sized ∨ ¬even ∨ x.st = 0 ∧ (ctxValid s x.ctx).2 = false → drop (.qdStateRunning ag q v) 0 eResvwrite) ∧
    (¬even → drop (.qdStateHalted ag q v) 0 eResvwrite ∧ drop (.qdStateUnmapped ag q v) 0 eResvwrite) ∧
    (x.st = 1 → even → holderOf s q = none →
      Gives (.qdStateHalted ag q v) s (left { y with st := 3, want := none })) ∧
    (∀ k, x.st = 1 → even → holderOf s q = some k → (s.interp k).busy = true →
      Gives (.qdStateHalted ag q v) s (s.setQueue q { y with want := some 3 })) ∧
    (x.st ≠ 1 → drop (.qdStateHalted ag q v) 0 eResvwrite) ∧
    (even → holderOf s q = none →
      Gives (.qdStateUnmapped ag q v) s (left { y with st := 0, ridx := 0, pemit := 0, want := none })) ∧
    (∀ k, even → holderOf s q = some k → (s.interp k).busy = true →
      Gives (.qdStateUnmapped ag q v) s (s.setQueue q { y with want := some 0 })) ∧
    (∀ k, even → holderOf s q = some k → (s.interp k).busy = false →
      Gives (.qdStateUnmapped ag q v) s (releaseInterp (s.setQueue q { y with want := some 0 }) k)) ∧
    (fld v 63 48 = x.ctx ∨ ag = .root →
      (fld v 47 32 < 256 → mayName s (fld v 47 32) x.plen = true →
        Gives (.qd1Write ag q v) s (s.setQueue q { x with ctx := fld v 63 48, prog := fld v 47 32 })) ∧
      (fld v 47 32 < 256 → mayName s (fld v 47 32) x.plen = false → drop (.qd1Write ag q v) 1 eLerantload) ∧
      (256 ≤ fld v 47 32 → drop (.qd1Write ag q v) 1 eResvwrite)) ∧
    (fld v 63 48 ≠ x.ctx → ag ≠ .root → drop (.qd1Write ag q v) 1 ePerm) ∧
    (fld v 55 0 % 256 = 0 → mayName s x.prog (fld v 61 56) = true →
      Gives (.qd3Write ag q v) s (s.setQueue q { x with plen := fld v 61 56, err := fld v 55 0 })) ∧
    (fld v 55 0 % 256 = 0 → mayName s x.prog (fld v 61 56) = false → drop (.qd3Write ag q v) 3 eLerantload) ∧
    (fld v 55 0 % 256 ≠ 0 → drop (.qd3Write ag q v) 3 eResvwrite)

/-- The program store and its checker (R66, R69, R73): a word is stored under its handle unless the handle is checked; a check starts
and ends with its result, and an accepted program makes the handle checked; a release is refused with result 9 while a queue names
the handle. FE_CLRLOST clears the count of lost records. Completes: programStoreWrite, fePctlCheck, fePctlRelease, clrlost,
programCheckComplete. -/
def Sys2Proof.Stmt.ProgramStore : Prop :=
  ∀ (s : State) (ag : Agent) (h : Nat), 1 ≤ h → h < 256 → agentRuns s ag = true →
    (∀ j v, j < 128 → (s.fe.checked.any (fun e => e.1 == h)) = false →
      Gives (.programStoreWrite ag h j v) s { s with fe := { s.fe with store := Tab.set 0 (128 * h + j) v s.fe.store } }) ∧
    (∀ j v, j < 128 → (s.fe.checked.any (fun e => e.1 == h)) = true →
      Gives (.programStoreWrite ag h j v) s (logAgent s ag ePerm (0xE0000000A00000 + 8192 * h + 64 * j))) ∧
    (∀ j v, j < 128 → Gives (.programStoreWrite ag 0 j v) s s) ∧
    (∀ len, len < 256 → ag = .root → Gives (.fePctlCheck ag h len) s
      { s with fe := { s.fe with check := some (h, len), pctl := 256 * h + len } }) ∧
    (∀ len, len < 256 → ag ≠ .root → Gives (.fePctlCheck ag h len) s (logAgent s ag ePerm 0xE0000000900100)) ∧
    (ag = .root → isNamed s h = true → Gives (.fePctlRelease ag h) s
      { s with fe := { s.fe with pstat := wordN (9 <<< 48 + h <<< 40), pctl := 256 * h } }) ∧
    (ag = .root → isNamed s h = false → Gives (.fePctlRelease ag h) s
      { s with fe := { s.fe with checked := Tab.drop h s.fe.checked, pstat := wordN (h <<< 40), pctl := 256 * h } }) ∧
    Gives (.clrlost ag) s { s with fe := { s.fe with elogLost := 0 } } ∧
    (∀ len, s.fe.check = some (h, len) → ∃ u, Gives .programCheckComplete s u ∧ u.fe.check = none ∧
      (let r := checkCode (storedCode s h (len + 1))
       u.fe.pstat = wordN (r.1 <<< 48 + h <<< 40 + r.2.1 <<< 32 + r.2.2) ∧
       (r.1 = 0 → u.fe.checked.any (fun e => e.1 == h) = true) ∧
       (r.1 ≠ 0 → u.fe.checked = s.fe.checked) ∧ u.fe.store = s.fe.store ∧ u.fe.q = s.fe.q ∧ SameMemory s u)) ∧
    (s.fe.check = none → Gives .programCheckComplete s s)

/-- The checker (R69): a program that it accepts has only opcodes 00 to 17, no field error, no name out of range, no branch by 0 or
past its end, at most 512 steps and 4 emits in its worst case, and a last bytecode that ends the packet. -/
def Sys2Proof.Stmt.CheckerAccepts : Prop :=
  ∀ (code : List Nat), (checkCode code).1 = 0 →
    worstSteps code ≤ 512 ∧ worstEmits code ≤ 4 ∧ (checkCode code).2.2 = worstSteps code ∧
    (∀ i w, code[i]? = some w → opOf w ≤ 0x17 ∧ fieldsBad w = false ∧ namesBad w = false ∧ repBad code i w = false ∧
      (isBranch w = true → bits w 7 0 ≠ 0 ∧ i + bits w 7 0 < code.length) ∧
      (i + 1 = code.length → opOf w = 0x00 ∨ opOf w = 0x15 ∨ opOf w = 0x16))

/-- Invalidations (R122, R127): root firmware starts one while none is busy; when it is complete no cached entry matches it, every other
entry stays and busy is clear, and that waits for each request sent through a window it removes. A second one, and one by another
agent, are dropped. Completes: xlInvEntry, xlInvContext, xlInvAll, invalidationComplete. -/
def Sys2Proof.Stmt.Invalidations : Prop :=
  ∀ (s : State) (ag : Agent) (tgt : Bool) (size : Nat), size < 4 → agentRuns s ag = true →
    let with_ := fun (v : Inval) => { s with xl := { s.xl with inv := some v } }
    (ag = .root → s.xl.inv = none →
      (tgt = true ∨ size ≠ 3 → Gives (.xlInvEntry ag tgt size) s (with_ ⟨1, tgt, size, s.xl.invctx, s.xl.invaddr⟩)) ∧
      Gives (.xlInvContext ag) s (with_ ⟨2, false, 0, s.xl.invctx, s.xl.invaddr⟩) ∧
      Gives (.xlInvAll ag) s (with_ ⟨3, false, 0, s.xl.invctx, s.xl.invaddr⟩)) ∧
    (∀ e ∈ [Instr.xlInvEntry ag tgt size, .xlInvContext ag, .xlInvAll ag],
      (ag = .root → s.xl.inv ≠ none → Gives e s (logAgent s ag eResvwrite 0xE0000000E00080)) ∧
      (ag ≠ .root → Gives e s (logAgent s ag ePerm 0xE0000000E00080))) ∧
    (∀ v, s.xl.inv = some v → viaWindow s (removesWin v) = true → Gives .invalidationComplete s s) ∧
    (∀ v, s.xl.inv = some v → viaWindow s (removesWin v) = false → Gives .invalidationComplete s
      { s with xl := { s.xl with inv := none, cache := s.xl.cache.filter (fun e => !removes v e) } }) ∧
    (s.xl.inv = none → Gives .invalidationComplete s s)

/-- Fault records (R119, R120, R128): a record takes the slot that the write pointer names, with every park of its granule, unless
the queue is full; firmware resolves an unresolved record, which frees it and its parks, and names the record by its slot: a retried
load performs where its page is now mapped, and a refused atomic poisons its register with unmapped. A record
that is not unresolved, and an agent that is not firmware, are refused. Completes: mtuResolveRetry, mtuResolveRefuse,
faultRecordWrite. -/
def Sys2Proof.Stmt.FaultRecords : Prop :=
  ∀ (s : State) (ag : Agent) (m i : Nat), m < 8 → i < 16384 → agentRuns s ag = true →
    let mine := s.xl.parks.filter (heldBy m i)
    let freed := ({ s with xl := { s.xl with parks := s.xl.parks.filter (fun p => !heldBy m i p) } }).setMtu m
      { s.mtu m with opened := (s.mtu m).opened.filter (fun r => r.slot != i) }
    (asFirmware ag = true → isOpened s m i = true →
      Gives (.mtuResolveRetry ag m i) s (mine.foldl retryPark freed) ∧
      Gives (.mtuResolveRefuse ag m i) s (mine.foldl refusePark freed)) ∧
    (asFirmware ag = true → isOpened s m i = true → ∀ p c id k a idx f, mine = [p] → p.who = .acc c id k →
      findAcc (s.core c) id = some a → a.op = .atomic idx f → a.dead = false →
      ∃ u, Gives (.mtuResolveRefuse ag m i) s u ∧ ((u.core c).dup.greg a.reg).st = .poison eUnmapped ∧ findAcc (u.core c) id = none) ∧
    (asFirmware ag = true → isOpened s m i = true → ∀ p c id k a, mine = [p] → p.who = .acc c id k → findAcc (s.core c) id = some a →
      a.op = .ld false → k < (sectors a.addr a.len).length → (∀ z q, Machine.translate (freed.onCore c (fun x => putAcc x { a with parked := a.parked.filter (· != k) }))
        a.ctx (sectorPart a.addr a.len ((sectors a.addr a.len).getD k 0)).1 gStrand 0 false = (z, .ok q) → z.hbmBad = [] →
        ∃ u, Gives (.mtuResolveRetry ag m i) s u ∧ u.hbm = z.hbm ∧ u.xl.parks = freed.xl.parks)) ∧
    (∀ e ∈ [Instr.mtuResolveRetry ag m i, .mtuResolveRefuse ag m i],
      (asFirmware ag = true → isOpened s m i = false → Gives e s (logAgent s ag eResvwrite (0xE0000000D00080 + 0x10000 * m))) ∧
      (asFirmware ag = false → Gives e s (logAgent s ag ePerm (0xE0000000D00080 + 0x10000 * m)))) ∧
    (∀ p, s.xl.parks.find? (fun p => p.mtu == m && p.slot.isNone) = some p → faultFull (s.mtu m) = false →
      ∃ u, Gives (.faultRecordWrite m) s u ∧ (u.mtu m).wp = ((s.mtu m).wp + 1) % 32768 ∧
        (u.mtu m).opened = (s.mtu m).opened ++ [⟨(s.mtu m).wp % 16384, p.ctx, p.addr, p.g, p.time⟩] ∧
        u.xl.parks = s.xl.parks.map (fun r => if joins m p r then { r with slot := some ((s.mtu m).wp % 16384) } else r)) ∧
    (faultFull (s.mtu m) = true ∨ s.xl.parks.find? (fun p => p.mtu == m && p.slot.isNone) = none →
      Gives (.faultRecordWrite m) s s)

/-- A catalogue load (R347): the time-out is set, and unless an entry is fetching or locked or a wait entry is in use every expert
starts absent with its fields from the catalogue; otherwise it is dropped with its record. Completes: xrCtlLoad. -/
def Sys2Proof.Stmt.CatalogueLoad : Prop :=
  ∀ (s : State) (ag : Agent) (tmo : Nat), asSystem ag = true →
    (loadBusy s = false → ∃ u, Gives (.xrCtlLoad ag tmo) s u ∧ u.xp.tmo = tmo % 65536 ∧ SameMemory s u ∧ u.fe = s.fe ∧
      u.cores = s.cores ∧ u.xp.cat = s.xp.cat ∧ u.xp.catn = s.xp.catn ∧
      (let s' := { s with xp := { s.xp with tmo := tmo % 65536 } }
       ∀ e, e < s.xp.catn → Tab.get Resid.init u.xp.res e =
        ⟨rAbsent, fld (catWord s' e 0) 31 16, 0, catLegal s' e, fld (catWord s' e 0) 47 32, false, 0, 0, 0, false⟩)) ∧
    (loadBusy s = true → Gives (.xrCtlLoad ag tmo) s (logAgent s ag eResvwrite 0xE0000001200100))

/-- Wakes and barrier words (R363, R364, R365, R367, R368): a wake adds one and keeps the newest word, or waits while the aperture is
gated, in the capture queue or, when that is full, as the merge bit of its register; a host write needs its block's enable. The system context sets a barrier's need, and an arrival adds its weight; a weight of 0
does nothing. Completes: notifyWake, barrierNeedWrite, barrierArrive. -/
def Sys2Proof.Stmt.WakesAndBarriers : Prop :=
  ∀ (s : State) (ag : Agent) (b j i n : Nat) (w : BitVec 48), b < 256 → j < 256 → i < 4096 → agentRuns s ag = true →
    let r := notifyOf s (256 * b + j)
    let may := ∀ p, ag = .host p → flag (nbWord s b) 63 = true ∧ flag (nbWord s b) 62 = true
    (may → s.sync.gated = false → s.sync.capq = [] → Gives (.notifyWake ag b j w) s (setNotify s (256 * b + j)
      (if r.cnt = 16383 then { r with coal := true, word := w } else { r with cnt := r.cnt + 1, word := w }))) ∧
    (may → s.sync.gated = true ∨ s.sync.capq ≠ [] →
      (s.sync.capq.length < 64 → Gives (.notifyWake ag b j w) s
        { s with sync := { s.sync with capq := s.sync.capq ++ [(256 * b + j, w)] } }) ∧
      (64 ≤ s.sync.capq.length → ∃ u, Gives (.notifyWake ag b j w) s u ∧ u = { s with sync := { s.sync with merge := u.sync.merge } } ∧
        (∀ n, n ∈ u.sync.merge ↔ n ∈ s.sync.merge ∨ n = 256 * b + j) ∧ (256 * b + j ∈ s.sync.merge → u.sync.merge = s.sync.merge))) ∧
    (∀ p, ag = .host p → flag (nbWord s b) 63 = false ∨ flag (nbWord s b) 62 = false →
      Gives (.notifyWake ag b j w) s (logAgent s ag ePerm (0xE0000001300000 + 64 * (256 * b + j)))) ∧
    (asSystem ag = true → 0 < n → n < 2 ^ 24 →
      Gives (.barrierNeedWrite ag i n) s (setBarrier s i { barrierOf s i with need := n, have_ := 0 })) ∧
    (asSystem ag = true → n % 2 ^ 24 = 0 →
      Gives (.barrierNeedWrite ag i n) s (logAgent s ag eResvwrite (0xE0000001800000 + 128 * i))) ∧
    (asSystem ag = false → Gives (.barrierNeedWrite ag i n) s (logAgent s ag ePerm (0xE0000001800000 + 128 * i))) ∧
    (0 < n → n < 65536 → Gives (.barrierArrive ag i n) s (setBarrier s i (arriveAt (barrierOf s i) n))) ∧
    (n % 65536 = 0 → Gives (.barrierArrive ag i n) s s)

/-! ### Lerant -/

/-- Interpreter `cur` after a bytecode that writes register `a` and goes on at the next index. -/
def Sys2Proof.Stmt.put (s : State) (a : BitVec 3) (v : Word) : State :=
  let x := s.interp s.cur
  s.setInterp s.cur (goTo { x with a := Tab.set 0 a.toNat v x.a } (x.pc + 1))

/-- The request that an emit of interpreter `k` makes. -/
def Sys2Proof.Stmt.request (s : State) (k q kind : Nat) : Req :=
  let x := s.interp k
  { Req.init with tag := q * 2 ^ 34 + x.emits * 2 ^ 32 + (s.queue q).ridx, kind := kind, queue := q, ctx := (s.queue q).ctx,
                  draft := x.draft }

/-- A record address that an emit accepts: none, or one in regions 1 to 7 with alignment `m`. -/
def Sys2Proof.Stmt.RecordOk (x : Interp) (m : Nat) : Prop :=
  draftNat x 20 = 0 ∨ (draftNat x 20 % m = 0 ∧ draftNat x 20 < 2 ^ 56 ∧ isMem (draftNat x 20) = true)

/-- The end of the packet of interpreter `k`, whose queue then reads `y`. -/
def Sys2Proof.Stmt.packetDone (s : State) (k q : Nat) (y : Queue) : State :=
  let u := ((clearParts s (.interp k)).setQueue q y).setInterp k
    { s.interp k with busy := false, pend := none, done := (s.interp k).done + 1 }
  if bindingOver u k q then releaseInterp u k else u

/-- Bytecodes on registers (R67): each writes its one register or draft field and goes on at the next bytecode.
Completes: ldpk, ldi, shin, lerantMov, lerantAdd, lerantSub, lerantAnd, lerantOr, ext, addi, lerantTime, setf. -/
def Sys2Proof.Stmt.LerantRegisters : Prop :=
  ∀ (s : State) (a b : BitVec 3) (v : BitVec 20) (k : BitVec 4) (h l : BitVec 6) (f : BitVec 5),
    let x := s.interp s.cur
    let A := fun (i : BitVec 3) => Tab.get 0 x.a i.toNat
    Gives (.ldpk a k) s (put s a (Tab.get 0 x.pkt k.toNat)) ∧
    Gives (.ldi a v) s (put s a (v.signExtend 64)) ∧
    Gives (.shin a v) s (put s a ((A a <<< 20) ||| v.zeroExtend 64)) ∧
    Gives (.lerantMov a b) s (put s a (A b)) ∧
    Gives (.lerantAdd a b) s (put s a (A a + A b)) ∧
    Gives (.lerantSub a b) s (put s a (A a - A b)) ∧
    Gives (.lerantAnd a b) s (put s a (A a &&& A b)) ∧
    Gives (.lerantOr a b) s (put s a (A a ||| A b)) ∧
    Gives (.ext a b h l) s (put s a (wordN (fld (A b) h.toNat l.toNat))) ∧
    Gives (.addi a v) s (put s a (A a + v.signExtend 64)) ∧
    Gives (.lerantTime a) s (put s a s.fe.time) ∧
    Gives (.setf a f) s (s.setInterp s.cur (goTo { x with draft := Tab.set 0 f.toNat (A a) x.draft } (x.pc + 1)))

/-- Branches and bodies (R67): a branch goes on at pc + d when it holds, else at pc + 1; `rep` opens a body of k + 1 bytecodes that
runs n + 1 times with its register counting from 0; at the end of a body comes its next pass or the bytecode after it.
Completes: bz, bnz, beq, bltu, rep. -/
def Sys2Proof.Stmt.LerantControl : Prop :=
  ∀ (s : State) (a b : BitVec 3) (d : BitVec 8) (n : BitVec 6) (k : BitVec 5),
    let x := s.interp s.cur
    let A := fun (i : BitVec 3) => Tab.get 0 x.a i.toNat
    let br := fun (c : Prop) [Decidable c] => s.setInterp s.cur (goTo x (if c then x.pc + d.toNat else x.pc + 1))
    Gives (.bz a d) s (br (A a = 0)) ∧ Gives (.bnz a d) s (br (A a ≠ 0)) ∧ Gives (.beq a b d) s (br (A a = A b)) ∧
    Gives (.bltu a b d) s (br ((A a).toNat < (A b).toNat)) ∧
    Gives (.rep a n k) s (s.setInterp s.cur { x with
      a := Tab.set 0 a.toNat 0 x.a, pc := x.pc + 1,
      reps := ⟨a.toNat, x.pc + 1, x.pc + 1 + k.toNat, 0, n.toNat + 1⟩ :: x.reps }) ∧
    (∀ (y : Interp) (p : Nat), y.reps = [] → goTo y p = { y with pc := p }) ∧
    (∀ (y : Interp) (p : Nat) (e : RepFrame) (r : List RepFrame), y.reps = e :: r →
      (p ≠ e.last + 1 → goTo y p = { y with pc := p }) ∧
      (p = e.last + 1 → e.i + 1 < e.n → goTo y p =
        { y with pc := e.first, reps := { e with i := e.i + 1 } :: r, a := Tab.set 0 e.reg (wordN (e.i + 1)) y.a }) ∧
      (p = e.last + 1 → e.n ≤ e.i + 1 → goTo y p = goTo { y with reps := r } p))

/-- Scratch words and parameter words (R57, R65, R67): they belong to the queue that the interpreter holds; a parameter word is read
as group host in the queue's context, with zeros and a record for an uncorrectable sector, waits when it parks, and puts the queue into error state when it fails.
Completes: ldsc, stsc, ldpa. -/
def Sys2Proof.Stmt.LerantQueueWords : Prop :=
  ∀ (s t : State) (a : BitVec 3) (f : BitVec 5) (k : BitVec 6) (q v : Nat), (s.interp s.cur).queue = some q →
    let x := s.interp s.cur
    let y := s.queue q
    let rd := whoRead s (.interp s.cur) y.ctx gHost (y.param + 64 * k.toNat) 64
    Gives (.ldsc a f) s (put s a (Tab.get 0 y.scratch f.toNat)) ∧
    Gives (.stsc a f) s ((s.setQueue q { y with scratch := Tab.set 0 f.toNat (Tab.get 0 x.a a.toNat) y.scratch }).setInterp s.cur
      (goTo x (x.pc + 1))) ∧
    (∀ e, rd = (t, ⟨v, none, false, e⟩) → Gives (.ldpa a k) s (put (queueEcc (clearParts t (.interp s.cur)) q e) a (wordN v))) ∧
    (∀ c lo e, rd = (t, ⟨v, some (c, lo), false, e⟩) → Gives (.ldpa a k) s (endPacket (queueFault t q c lo) t.cur false)) ∧
    (∀ c e, rd = (t, ⟨v, c, true, e⟩) → Gives (.ldpa a k) s t)

/-- The end of a packet (R62, R64, R67, R68, R70): halt advances ridx; `rej` does so after its record; `stop` writes its record and
leaves ridx and pemit, with the queue in error state. A binding ends with a waiting state write, a queue that no longer runs, the
eighth packet or an empty ring; the interpreter then takes the queue that waits longest.
Completes: lerantHalt, lerantRej, lerantStop. -/
def Sys2Proof.Stmt.PacketEnds : Prop :=
  (∀ (s : State) (q : Nat) (v : BitVec 16), (s.interp s.cur).queue = some q →
    let k := s.cur
    let y := s.queue q
    let t := fun (code : Nat) => packetErr s q code (wordN v.toNat)
    Gives .lerantHalt s (packetDone s k q { y with ridx := (y.ridx + 1) % 2 ^ 32, pemit := 0 }) ∧
    Gives (.lerantRej v) s (endPacket (t eRej) k true) ∧
    Gives (.lerantStop v) s (endPacket ((t eStop).setQueue q { (t eStop).queue q with st := 2 }) (t eStop).cur false)) ∧
  (∀ (s : State) (k q : Nat), (s.interp k).queue = some q →
    let y := s.queue q
    endPacket s k true = packetDone s k q { y with ridx := (y.ridx + 1) % 2 ^ 32, pemit := 0 } ∧
    (y.st ≠ 1 → endPacket s k false = releaseInterp ((clearParts s (.interp k)).setInterp k { s.interp k with
      busy := false, pend := none, done := (s.interp k).done + 1 }) k) ∧
    (bindingOver s k q = true ↔ y.want.isSome = true ∨ y.st ≠ 1 ∨ 8 ≤ (s.interp k).done ∨ backlog s q = 0) ∧
    (let z := match y.want with | some st => applyState y st | none => y
     let u := ((clearParts s (.interp k)).setInterp k Interp.init).setQueue q { z with next := s.fe.time.toNat + 50 }
     (s.fe.waitq = [] → releaseInterp s k = u) ∧
     (∀ p r, s.fe.waitq = p :: r → releaseInterp s k = bindQueue { u with fe := { u.fe with waitq := r } } p)))

/-- The scanner (R61, R63, R64): the due queue that comes next after the last polled one is polled; an empty ring doubles its interval
up to 51,200 ns, a ring with more packets than slots is an overflow, and otherwise the lowest free interpreter takes the queue, or
it waits for one. A queue that is not next is not polled, and no queue is due in recovery, nor, while the management cores are held,
one outside the system context (R77). Completes: queuePoll. -/
def Sys2Proof.Stmt.QueuePolls : Prop :=
  ∀ (s : State) (q : Nat), q < 16384 →
    let x := s.queue q
    let n := backlog s q
    let u := { s with fe := { s.fe with lastPoll := q } }
    let y := { x with seen := widxOf s q }
    (isPollTurn s q = true → n = 0 → Gives (.queuePoll q) s
      (u.setQueue q { y with ival := min (x.ival + 1) 10, next := s.fe.time.toNat + 50 * 2 ^ min (x.ival + 1) 10 })) ∧
    (isPollTurn s q = true → 0 < n → n ≤ 2 ^ x.lsize → Gives (.queuePoll q) s (bindQueue (u.setQueue q { y with ival := 0 }) q)) ∧
    (isPollTurn s q = true → 2 ^ x.lsize < n → Gives (.queuePoll q) s (queueOverflow (u.setQueue q y) q)) ∧
    (isPollTurn s q = false → Gives (.queuePoll q) s s) ∧
    (∀ k, k < 16 → (s.interp k).queue = none → (∀ j, j < k → (s.interp j).queue ≠ none) →
      bindQueue s q = s.setInterp k { Interp.init with queue := some q }) ∧
    ((∀ k, k < 16 → (s.interp k).queue ≠ none) → bindQueue s q = { s with fe := { s.fe with waitq := s.fe.waitq ++ [q] } }) ∧
    (isDue s q = true → x.st = 1 ∧ x.next ≤ s.fe.time.toNat ∧ s.firm.recovery = false ∧ (s.firm.mgmtHeld = true → x.ctx = 0))

/-- The run of a packet (R64, R65, R71): interpreter `k` starts the next packet of its queue with fresh registers and the draft's start
values, or releases a queue that is empty, overflows, faults or no longer runs, and runs the bytecodes of the packet one after the other,
each as its own step runs it, until the packet ends or one of its accesses is parked. Completes: packetRun. -/
def Sys2Proof.Stmt.PacketRuns : Prop :=
  (∀ (s : State) (k q : Nat), (s.interp k).queue = some q →
    let t := { s with cur := k }
    let x := s.queue q
    let slot := x.ring + 1024 * (x.ridx % 2 ^ x.lsize)
    ((s.interp k).busy = false → x.st ≠ 1 ∨ backlog s q = 0 →
      Gives (.packetRun k) s (releaseInterp t k)) ∧
    ((s.interp k).busy = true →
      Gives (.packetRun k) s (runSteps t k (s.interp k).done 600)) ∧
    ((s.interp k).busy = false → x.st = 1 → 2 ^ x.lsize < backlog s q → Gives (.packetRun k) s (releaseInterp (queueOverflow t q) k)) ∧
    (∀ u, (s.interp k).busy = false → x.st = 1 → 0 < backlog s q → backlog s q ≤ 2 ^ x.lsize →
      (feRead t k q slot 1024 = .park u → Gives (.packetRun k) s u) ∧
      (∀ code a, feRead t k q slot 1024 = .bad u code a → Gives (.packetRun k) s (releaseInterp (queueFault u q code a) k))) ∧
    (∀ u v, (s.interp k).busy = false → x.st = 1 → 0 < backlog s q →
      backlog s q ≤ 2 ^ x.lsize →
      feRead t k q slot 1024 = .ok u v →
      (let w := (clearParts u (.interp k)).setInterp k
        { Interp.init with queue := (u.interp k).queue, done := (u.interp k).done, busy := true, prog := x.prog,
                           pkt := Tab.setList 0 0 ((span 0 16).map (wordAt v)) [] }
       Gives (.packetRun k) s (runSteps w k (w.interp k).done 600)))) ∧
  (∀ (s : State) (k n f : Nat) (i : Instr), canStep s k = true → (s.interp k).done = n → (s.interp k).prog ≠ 0 →
    decodeLerant (fetchBytecode s k) = some i → runSteps s k n (f + 1) =
      if isParked (lerantStep i s) (.interp k) = true then lerantStep i s else runSteps (lerantStep i s) k n f) ∧
  (∀ (s : State) (k n f : Nat), canStep s k = true → (s.interp k).done = n → (s.interp k).prog = 0 →
    runSteps s k n (f + 1) = if isParked (nativeStep s) (.interp k) = true then nativeStep s else runSteps (nativeStep s) k n f) ∧
  (∀ (s : State) (k n f : Nat), canStep s k = false → runSteps s k n f = s) ∧
  (∀ (s : State) (w : Nat) (i : Instr), decodeLerant w = some i → Gives i s (lerantStep i s))

/-- Native packets (R71): kind 0 is a no-op, a kind above 6 is rejected with detail 32, a reserved bit with 32 + its word, and the others
make the one emit of their kind from the fields of the packet. -/
def Sys2Proof.Stmt.NativePackets : Prop :=
  ∀ (s : State) (q : Nat), (s.interp s.cur).queue = some q → (s.interp s.cur).emits = 0 →
    let k := s.cur
    let x := s.interp k
    let kind := fld (Tab.get 0 x.pkt 0) 63 56
    let bad := (span 0 16).find? (fun w => nativeRest kind w (Tab.get 0 x.pkt w) != 0)
    let t := s.setInterp k { x with draft := nativeDraft kind x.pkt }
    (kind = 0 → nativeStep s = endPacket s k true) ∧
    (6 < kind → nativeStep s = rejectPacket s k q eDraft 32) ∧
    (0 < kind → kind ≤ 6 → ∀ w, bad = some w → nativeStep s = rejectPacket s k q eDraft (wordN (32 + w))) ∧
    (bad = none →
      (kind = 1 → Gives .emitLaunch t (nativeStep s)) ∧ (kind = 2 → Gives .emitTransfer t (nativeStep s)) ∧
      (kind = 3 → Gives .emitPinControl t (nativeStep s)) ∧ (kind = 4 → Gives .emitResynchronise t (nativeStep s)) ∧
      (kind = 5 → Gives .emitAttest t (nativeStep s)) ∧ (kind = 6 → Gives .emitCommitMinVersion t (nativeStep s)))

/-- The emits of transfer, pin control, resynchronise and commit (R70, R74, R79, R82, R86, R89, R379): a draft in range makes a request
with its tag, which is submitted; a create takes its scoreboard entries where they are free; a pin request, noted for those that
come after it until it retires, is refused with status 4 where its handle may not be created or released. An emit that the packet made before a stop is skipped.
Completes: emitTransfer, emitPinControl, emitResynchronise, emitCommitMinVersion. -/
def Sys2Proof.Stmt.EmitsSubmit : Prop :=
  ∀ (s : State) (q : Nat), (s.interp s.cur).queue = some q →
    let k := s.cur
    let x := s.interp k
    let y := s.queue q
    let src := draftNat x 21
    let dst := draftNat x 22
    let n := draftNat x 23
    let w := draftAt x 24
    let h := draftNat x 5
    let r := request s k q
    let c := clearParts s (.interp k)
    let pinOk := 0 < h ∧ h < 2 ^ 16 ∧ RecordOk x 256
    (y.pemit ≤ x.emits →
      (depsBad s q x = none → RecordOk x 256 → 2 ^ 52 ≤ src → src + n ≤ 14 * 2 ^ 52 → 2 ^ 52 ≤ dst → dst + n ≤ 14 * 2 ^ 52 →
        0 < n → n ≤ 2 ^ 40 → (src + n ≤ dst ∨ dst + n ≤ src) → Gives .emitTransfer s (submitReq c k q (r 1))) ∧
      (pinOk → fld w 63 62 = 0 → fld w 61 9 = 0 → 0 < fld w 4 0 → fld w 8 5 + fld w 4 0 ≤ 16 →
        (let t := enterCreate (submitReq { c with fe := { c.fe with creates := c.fe.creates ++ [(h, y.ctx, (r 2).tag)] } } k q (r 2)) (r 2).tag
         (createRefused s h (r 2).tag = false → Gives .emitPinControl s t) ∧
         (createRefused s h (r 2).tag = true → Gives .emitPinControl s (refuseCreate t (r 2).tag)))) ∧
      (pinOk → w = BitVec.ofNat 64 (2 ^ 62) →
        (let t := submitReq { c with fe := { c.fe with releases := c.fe.releases ++ [(h, (r 2).tag)] } } k q (r 2)
         (releaseRefused s y.ctx h (r 2).tag = false → Gives .emitPinControl s t) ∧
         (releaseRefused s y.ctx h (r 2).tag = true → Gives .emitPinControl s (refusePin t (r 2))))) ∧
      (∀ tag, createRefused s h tag = true ↔ s.hasPin h = true ∨ 1024 ≤ s.fe.pins.length ∨
        ∃ e ∈ s.fe.creates.takeWhile (fun e => e.2.2 != tag), e.1 = h) ∧
      (draftNat x 20 = 0 → Gives .emitResynchronise s (submitReq c k q { r 3 with st := 3 })) ∧
      (∀ t z, draftNat x 20 ≠ 0 → RecordOk x 4096 → keptWrite s k (draftNat x 20) = none →
        feWrite (keepWrite s k (draftNat x 20) (summary s q n).1 (summary s q n).2) k q (draftNat x 20) (summary s q n).1 (summary s q n).2
          = .ok t z →
        Gives .emitResynchronise s (submitReq (clearParts t (.interp k)) k q { r 3 with st := 3 })) ∧
      (y.ctx = 0 → draftNat x 9 ≤ s.firm.rootVer → RecordOk x 256 → Gives .emitCommitMinVersion s (submitReq
        { c with firm := { s.firm with minVer := max s.firm.minVer (draftNat x 9) } } k q { r 5 with st := 3 })) ∧
      (y.ctx = 0 → s.firm.rootVer < draftNat x 9 → Gives .emitCommitMinVersion s (rejectPacket s k q eDraft 9)) ∧
      (y.ctx ≠ 0 → Gives .emitCommitMinVersion s (rejectPacket s k q ePerm 5) ∧ Gives .emitAttest s (rejectPacket s k q ePerm 4)) ∧
      (n = 0 → depsBad s q x = none → RecordOk x 256 → 2 ^ 52 ≤ src → src < 14 * 2 ^ 52 → 2 ^ 52 ≤ dst → dst < 14 * 2 ^ 52 →
        Gives .emitTransfer s (rejectPacket s k q eDraft 23))) ∧
    (x.emits < y.pemit → ∀ e ∈ [Instr.emitLaunch, .emitTransfer, .emitPinControl, .emitResynchronise, .emitAttest,
        .emitCommitMinVersion],
      Gives e s (s.setInterp k (goTo { x with emits := x.emits + 1, draft := draftInit } (x.pc + 1))))

/-- Launch and attest (R20 to R23, R70, R81, R90, R91, R101, R380): a launch that its checks accept is submitted with its whole weight
issued, or waits for a root counter; what the checks accept is in range. An attest without a record leaves the firmware state as it
is. Completes: emitLaunch, emitAttest, rootCounterWaitEnd. -/
def Sys2Proof.Stmt.LaunchAndAttest : Prop :=
  ∀ (s t : State) (q : Nat), (s.interp s.cur).queue = some q → (s.queue q).pemit ≤ (s.interp s.cur).emits →
    let k := s.cur
    let x := s.interp k
    let c := checkLaunch s k q x
    (∀ r, c = .ok t r → countersUsed t < 4096 → Gives .emitLaunch s (submitReq (clearParts t (.interp k)) k q r)) ∧
    (∀ r, c = .ok t r → 4096 ≤ countersUsed t → Gives .emitLaunch s ((clearParts t (.interp k)).setInterp k { t.interp k with pend := some r })) ∧
    (c = .park t → Gives .emitLaunch s t) ∧
    (∀ r, c = .ok t r →
      r.kind = 0 ∧ r.e = 2 ^ 63 ∧ r.counter = true ∧ r.draft = x.draft ∧ r.st = Req.init.st ∧
      draftNat x 0 % 4096 = 0 ∧ 1 ≤ draftNat x 1 ∧ draftNat x 1 ≤ 2 ^ 20 ∧ draftNat x 2 ≤ 1 ∧ draftNat x 3 ≤ 3 ∧
      (draftNat x 2 = 1 → draftNat x 1 ≤ 64 ∧ draftNat x 1 * r.img.n ≤ 256) ∧ draftNat x 5 < 2 ^ 16 ∧ draftNat x 6 ≤ 1 ∧
      256 ≤ draftNat x 7 ∧ draftNat x 7 ≤ 16777215 ∧ draftNat x 8 < 2 ^ 40 ∧ 1 ≤ r.img.n ∧ r.img.n ≤ 4 ∧ r.ins.length ≤ 8) ∧
    (draftNat x 0 % 4096 ≠ 0 → Gives .emitLaunch s (rejectPacket s k q eDraft 0)) ∧
    (∀ v, (s.queue q).ctx = 0 → draftNat x 20 = 0 → feRead s k q (draftNat x 21) 256 = .ok t v →
      Gives .emitAttest s (submitReq (clearParts t (.interp k)) k q { request s k q 4 with st := 3 })) ∧
    (∀ r j p, (s.interp j).queue = some p → (s.interp j).pend = some r → countersUsed s < 4096 →
      Gives (.rootCounterWaitEnd j) s (submitReq s j p r)) ∧
    (∀ j, 4096 ≤ countersUsed s → Gives (.rootCounterWaitEnd j) s s)

/-! ### Requests -/

/-- The scoreboards (R86 to R88): the held request whose dependences became met first enters, a transfer on the lowest die with a free
entry and every other request on all four; otherwise nothing happens. Its aging begins then (R96).
Completes: requestEnterScoreboard. -/
def Sys2Proof.Stmt.RequestsEnter : Prop :=
  ∀ (s : State) (tag : Nat),
    let r := s.req tag
    let n := s.fe.order
    let u := fun (d : Nat) => s.setReq r.tag { r with st := 1, entered := n + 1, die := d, since := s.fe.time }
    let enter := fun (d : Nat) => { u d with fe := { (u d).fe with order := n + 1 } }
    (s.hasReq tag = true → isNextHeld s r = true →
      (r.kind ≠ 1 → (∀ d, d < 4 → scoreUsed s d < 256) → Gives (.requestEnterScoreboard tag) s (enter 0)) ∧
      (r.kind ≠ 1 → (∃ d, d < 4 ∧ 256 ≤ scoreUsed s d) → Gives (.requestEnterScoreboard tag) s s) ∧
      (∀ d, r.kind = 1 → d < 4 → scoreUsed s d < 256 → (∀ j, j < d → 256 ≤ scoreUsed s j) →
        Gives (.requestEnterScoreboard tag) s (enter d))) ∧
    (s.hasReq tag = false ∨ isNextHeld s r = false → Gives (.requestEnterScoreboard tag) s s) ∧
    (∀ e ∈ s.fe.reqs, isNextHeld s r = true → e.2.st = 0 → ∀ m m', e.2.met = some m → r.met = some m' →
      m' < m ∨ (m' = m ∧ r.tag ≤ e.2.tag))

/-- Dependences (R83 to R85): met or failed once the request they name has retired, by its result and the condition code; unmet while
it is in the front end. A request with a failed one is cancelled with status 2, and one whose dependences are all met takes its number. -/
def Sys2Proof.Stmt.RequestDependences : Prop :=
  ∀ (s : State) (r : Req) (n tag cond : Nat),
    (s.hasReq tag = true → judgeDep s cond tag = none) ∧
    (∀ clean, s.hasReq tag = false → s.fe.retired.find? (fun e => e.1 == tag) = some (tag, clean) →
      judgeDep s cond tag = some (clean || cond == 1)) ∧
    (isHeld r = false → judgeReq s n r = r) ∧
    (isHeld r = true → (∃ d ∈ depsOf r, judgeDep s d.1 d.2 = some false) → judgeReq s n r = { r with status := 2, st := 3 }) ∧
    (isHeld r = true → (∀ d ∈ depsOf r, judgeDep s d.1 d.2 = some true) → judgeReq s n r = { r with met := some n }) ∧
    (isHeld r = true → (∃ d ∈ depsOf r, judgeDep s d.1 d.2 = none) → (∀ d ∈ depsOf r, judgeDep s d.1 d.2 ≠ some false) →
      judgeReq s n r = r)

/-- Retirement (R376 to R378): a request in state 11 whose effects have all performed writes its record, if it names one, and is gone,
its tag remembered with whether it ended well; a record that faults is logged, with its queue's error area, and the request retires all
the same; one that waits for a translation leaves it there. The record of a transfer, a pin request and a commit stands at field 20.
Completes: requestRetire. -/
def Sys2Proof.Stmt.RequestsRetire : Prop :=
  ∀ (s : State) (tag : Nat),
    let r := s.req tag
    let ready := s.hasReq tag = true ∧ r.st = 3 ∧ (r.status = 2 ∨ effectsLeft s r = false)
    (ready → recordAddr r = none → Gives (.requestRetire tag) s (forgetReq s r)) ∧
    (∀ a t v e, ready → recordAddr r = some a →
      whoWrite s (.xfer r.tag) r.ctx gHost a 256 (recordWord s r) = (t, ⟨v, none, false, e⟩) →
      Gives (.requestRetire tag) s (forgetReq (clearParts t (.xfer r.tag)) r)) ∧
    (∀ a t v e code lo, ready → recordAddr r = some a →
      whoWrite s (.xfer r.tag) r.ctx gHost a 256 (recordWord s r) = (t, ⟨v, some (code, lo), false, e⟩) →
      (let u := queueErr (logErr (clearParts t (.xfer r.tag)) code lo r.ctx 0 r.queue 0) r.queue code lo 0 r.queue 0
       Gives (.requestRetire tag) s (forgetReq u r))) ∧
    (∀ a t v x e, ready → recordAddr r = some a →
      whoWrite s (.xfer r.tag) r.ctx gHost a 256 (recordWord s r) = (t, ⟨v, x, true, e⟩) → Gives (.requestRetire tag) s t) ∧
    (¬ready → Gives (.requestRetire tag) s s) ∧
    (∀ t : State, (forgetReq t r).hasReq r.tag = false ∧
      (forgetReq t r).fe.retired.head? = some (r.tag, recordStatus r == 0) ∧
      (forgetReq t r).fe.retired.length ≤ 65536 ∧ SameMemory t (forgetReq t r)) ∧
    (draftOf r 20 = 0 → recordAddr r = none) ∧
    (draftOf r 20 ≠ 0 → r.kind ≤ 2 ∨ r.kind = 5 → recordAddr r = some (draftOf r 20).toNat) ∧
    (r.kind = 0 → r.status ≠ 2 → recordStatus r = if r.killed = 0 then 0 else 1) ∧
    (∀ k, k < 64 → (recordWord s r).testBit (64 + k) = (r.tag.testBit k))

/-- Transfers (R89, R298, R376): one step moves one piece, which ends with a 256-bit sector of its destination; it is copied when its
read and its write succeed, a bad sector as zeros with a record, and the request completes after the last. A piece from or to a window
is asked for or sent through it, in tier 2, and lies in one source window. A failure ends the request with status 3, the pieces before
it copied; what waits for a translation stays where it is.
Completes: transferRun. -/
def Sys2Proof.Stmt.TransfersRun : Prop :=
  ∀ (s : State) (tag : Nat),
    let s1 := s.updReq tag (fun r => { r with st := 2 })
    let r := s1.req tag
    let a := (draftOf r 21).toNat + r.copied
    let b := (draftOf r 22).toNat + r.copied
    let len := (draftOf r 23).toNat
    let whole := min (len - r.copied) (256 - b % 256)
    let m := if isWin a = true then min whole (2 ^ 40 - a % 2 ^ 40) else whole
    let got := fun (t : State) (v : Nat) => ∃ e u, whoRead s1 (.xfer tag) r.ctx gHost a m = (u, ⟨v, none, false, e⟩) ∧ t = xferEcc u r e
    let goes := fun (t : State) => Gives (.transferRun tag) s t
    let step := fun (r : Req) => { r with copied := r.copied + m, st := if (draftOf r 23).toNat ≤ r.copied + m then 3 else 2 }
    let fails := fun (t : State) (c lo : Nat) =>
      goes ((reqErr (clearParts t (.xfer tag)) (t.req tag) c lo).updReq tag (fun r => { r with status := 3, st := 3, asked := none }))
    (xferReady s tag = true → isMem a = true →
      (∀ t v, got t v → isMem b = true →
        (∀ w x e, whoWrite t (.xfer tag) (t.req tag).ctx gHost b m v = (w, ⟨x, none, false, e⟩) →
          goes ((clearParts w (.xfer tag)).updReq tag step)) ∧
        (∀ w x e c lo, whoWrite t (.xfer tag) (t.req tag).ctx gHost b m v = (w, ⟨x, some (c, lo), false, e⟩) → fails w c lo) ∧
        (∀ w x y e, whoWrite t (.xfer tag) (t.req tag).ctx gHost b m v = (w, ⟨x, y, true, e⟩) → goes w)) ∧
      (∀ t v, got t v → isWin b = true →
        (∀ w x c, windowFor t (t.req tag).ctx b .wr = (w, .ok (x, c)) → fabOn w = true →
          goes (((clearParts (xferSend w x c kStore tag (t.req tag).copied m v (winNo b)) (.xfer tag)).updReq tag step).updReq tag
            (fun r => { r with out := r.out + 1 }))) ∧
        (∀ w c, windowFor t (t.req tag).ctx b .wr = (w, .error c) → fails w c b)) ∧
      (∀ t v c lo e, whoRead s1 (.xfer tag) r.ctx gHost a m = (t, ⟨v, some (c, lo), false, e⟩) → fails (xferEcc t r e) c lo) ∧
      (∀ t v y e, whoRead s1 (.xfer tag) r.ctx gHost a m = (t, ⟨v, y, true, e⟩) → goes t)) ∧
    (xferReady s tag = true → isWin a = true →
      (∀ w x c, windowFor s1 r.ctx a .rd = (w, .ok (x, c)) → fabOn w = true →
        goes ((xferSend w x c kLoad tag r.copied m 0 (winNo a)).updReq tag
          (fun y => { y with asked := some r.copied }))) ∧
      (∀ w c, windowFor s1 r.ctx a .rd = (w, .error c) → fails w c a)) ∧
    (xferReady s tag = false → Gives (.transferRun tag) s s)

/-- Pins (R97, R379): a create that is the first candidate that fits on a die that may place makes its pin on its cluster, with its banks
zero; a release whose pin no request names any more removes the pin. A request that may not is refused with status 4.
Completes: pinCreate, pinRelease. -/
def Sys2Proof.Stmt.PinRequests : Prop :=
  ∀ (s : State) (tag : Nat),
    let r := s.req tag
    let h := pinHandle r
    let here := s.hasReq tag = true ∧ r.kind = 2
    let turn := (span 0 4).findSome? (fun d => (firstFit s d).filter (fun p => p.1.create && p.1.tag == tag && mayPlace s d))
    (here → pinOp r = 0 → r.st = 1 → r.status = 4 ∨ createRefused s h tag = true → Gives (.pinCreate tag) s (refusePin s r)) ∧
    (here → pinOp r = 0 → r.st = 1 → r.status ≠ 4 → createRefused s h tag = false →
      (∀ c cl, turn = some (c, cl) → Gives (.pinCreate tag) s (dispPlaced (tookTurn (makePin s r cl) (clusterDie cl) r) c cl)) ∧
      (turn = none → Gives (.pinCreate tag) s (topCare s 0))) ∧
    (∀ cl, (makePin s r cl).pin h = ⟨r.ctx, cl, pinFirst r, pinBanks r, 0, 0, none, r.tag⟩ ∧ SameMemory s (makePin s r cl) ∧
      ∀ i w, i < 4 → pinFirst r ≤ w / 2560 → w / 2560 < pinFirst r + pinBanks r →
        Tab.get 0 ((makePin s r cl).core (4 * cl + i)).spad w = 0) ∧
    (here → pinOp r = 1 → r.st = 0 → pinInUse s h = false → (s.fe.creates.any (fun c => c.1 == h)) = false →
      (releaseRefused s r.ctx h tag = true → Gives (.pinRelease tag) s (refusePin s r)) ∧
      (releaseRefused s r.ctx h tag = false →
        (let left := s.fe.unpinned.filter (fun e => inHandling s e.1)
         let u := { s with fe := { s.fe with pins := Tab.drop h s.fe.pins, unpinned := left ++ [(tag, h, s.pin h)] } }
         Gives (.pinRelease tag) s (u.setReq tag { r with
          st := 3, status := 0, detail := pinDetail h (s.pin h).home (s.pin h).first (s.pin h).count })))) ∧
    (pinInUse s h = true → Gives (.pinRelease tag) s s)

/-! ### Dispatch -/

/-- Aging (R96, R106): one full period without a placement lowers the launch's class on that die by one, down to 0.
Completes: classAging. -/
def Sys2Proof.Stmt.ClassesAge : Prop :=
  ∀ (s : State) (d tag : Nat), d < 4 →
    let r := s.req tag
    let n := Tab.get 0 r.aged d
    let p := agePeriod s d (draftOf r 3).toNat
    let due := s.hasReq tag = true ∧ hasReadyTeam s r = true ∧ p ≠ 0 ∧ (n + 1) * p ≤ s.fe.time.toNat - r.since.toNat ∧
      n < (draftOf r 3).toNat
    (due → Gives (.classAging d tag) s (s.setReq tag { r with aged := Tab.set 0 d (n + 1) r.aged }) ∧
      effClass { r with aged := Tab.set 0 d (n + 1) r.aged } d = effClass r d - 1) ∧
    (¬due → Gives (.classAging d tag) s s)

/-- Placement (R15, R18, R97, R98): at most once in eight cycles a die places the first candidate in rank that fits it, on a cluster that
can take it, on the lowest free cores, or begins the move of the partition of the first in rank. A new team's strands then stand at
their entries with their argument words in G0, G1, … and all else clear but the banks and tags of pins. Completes: teamPlacement. -/
def Sys2Proof.Stmt.TeamsArePlaced : Prop :=
  ∀ (s : State) (d : Nat), d < 4 →
    let t := topCare s d
    (mayPlace s d = false → Gives (.teamPlacement d) s s) ∧
    (∀ c cl, mayPlace s d = true → moveFor t d = some (c, cl) → Gives (.teamPlacement d) s (startMove t c cl)) ∧
    (mayPlace s d = true → moveFor t d = none → firstFit t d = none → Gives (.teamPlacement d) s t) ∧
    (∀ c cl, mayPlace s d = true → moveFor t d = none → firstFit t d = some (c, cl) → c.create = true ∨ claimLate t c d = true →
      Gives (.teamPlacement d) s t) ∧
    (∀ c cl, mayPlace s d = true → moveFor t d = none → firstFit t d = some (c, cl) → c.create = false → claimLate t c d = false →
      ∃ u, Gives (.teamPlacement d) s u ∧
      SameMemory t u ∧ (u.die (clusterDie cl)).lastPlace = some t.pow.pulse ∧
      (let n := match c.team with | some k => k | none => t.fe.nextTeam
       let old := t.team n
       (u.team n).cluster = cl ∧ (u.team n).cores = (freeCores t cl).take c.n ∧
       (∀ k, c.team = some k → (u.team n).st = if old.slot = none then .placed else .restoring) ∧
       (c.team = none → (u.team n).st = .placed) ∧
       (∀ k ∈ (freeCores t cl).take c.n, (u.core k).team = some n ∧ (u.core k).run = .waiting))) ∧
    (∀ (k n i : Nat), i < 64 →
      let x := startCore s k n i
      let tm := s.team n
      x.pc = BitVec.ofNat 12 ((tm.entries[i]?).getD 0) ∧ x.mode = .user ∧ x.cyc = 0 ∧ x.c7 = false ∧ x.due = [] ∧ x.wb = [] ∧
      x.dup.loops = [] ∧ x.dup.c = 0 ∧ (∀ p, x.dup.port p = 0) ∧ (∀ p, x.dup.vreg p = 0) ∧ (∀ p, x.dup.latch p = 0) ∧
      (∀ j, j < 64 → (x.dup.greg j).val = (tm.args[j]?).getD 0) ∧ x.ck.pc = x.pc ∧ x.ck.dup = x.dup ∧
      (∀ w, pinnedBank s (k / 4) (w / 2560) = false → Tab.get 0 x.spad w = 0) ∧ x.tcount = 0 ∧
      (∀ w, pinnedBank s (k / 4) (w / 2560) = true → Tab.get 0 x.spad w = Tab.get 0 (s.core k).spad w) ∧
      (∀ j, Tab.get 0 x.tags j = if pinnedBank s (k / 4) (j / 1024) then Tab.get 0 (s.core k).tags j else 0))

/-- A move of a partition (R98): its banks stand on the new cluster as they stood on the old one, the rest of the new cluster's
scratchpads as before, and the new cluster is the home. Completes: partitionMoveComplete. -/
def Sys2Proof.Stmt.PartitionsMove : Prop :=
  (∀ (s : State) (h : Nat), s.hasPin h = true → (s.pin h).st = 1 →
    let p := s.pin h
    let t := (span 0 4).foldl (fun s i =>
      s.setCore (4 * p.moveTo + i) (copyBanks (s.core (4 * p.moveTo + i)) (s.core (4 * p.home + i)) p.first p.count)) s
    Gives (.partitionMoveComplete h) s (remoteKick (t.setPin h { p with home := p.moveTo, st := 0 }))) ∧
  (∀ (s : State) (h : Nat), s.hasPin h = false ∨ (s.pin h).st ≠ 1 → Gives (.partitionMoveComplete h) s s) ∧
  (∀ (x y : Core) (a n w : Nat),
    Tab.get 0 (copyBanks x y a n).spad w = (if a ≤ w / 2560 ∧ w / 2560 < a + n then Tab.get 0 y.spad w else Tab.get 0 x.spad w) ∧
    Tab.get 0 (copyBanks x y a n).tags w = (if a ≤ w / 1024 ∧ w / 1024 < a + n then Tab.get 0 y.tags w else Tab.get 0 x.tags w) ∧
    (copyBanks x y a n).dup = x.dup ∧ (copyBanks x y a n).accs = x.accs)

/-! ### Teams -/

/-- Input streams (R90 to R92): the fills of a placed team come piece by piece from each entry's address for its team and core, and land
at the same distance from its start; when all have landed the team is filled; an error kills it, a piece that waits for a translation
stays the next, and a fill that waits while the threshold passes gives the cores up. A piece from a window is asked for with the class
of its source pointer. Completes: inputStreamFill, fillParkTimeout. -/
def Sys2Proof.Stmt.InputStreamsFill : Prop :=
  ∀ (s : State) (n : Nat),
    let tm := s.team n
    let open_ := tm.st = .placed ∧ tm.filled = false ∧ tm.asked = false
    let ctx := (s.req tm.tag).ctx
    let left := (fillUnits s n).drop tm.fillAt
    (open_ → left = [] → Gives (.inputStreamFill n) s (s.updTeam n (fun x => { x with filled := true }))) ∧
    (∀ u r t, open_ → left = u :: r → fillPiece s n ctx u = (t, true) → Gives (.inputStreamFill n) s (fillList t n ctx r)) ∧
    (∀ u r t, open_ → left = u :: r → fillPiece s n ctx u = (t, false) → Gives (.inputStreamFill n) s t) ∧
    (¬open_ → Gives (.inputStreamFill n) s s) ∧
    (∀ (u : FillUnit), u.bad = false → isMem u.a = true →
      let rd := whoRead s (.fill n) ctx gStream u.a u.n
      (∀ t v e, rd = (t, ⟨v, none, false, e⟩) → fillPiece s n ctx u =
        ((spStore (fillEcc (clearParts t (.fill n)) ctx u.core e) u.core u.dst u.n v).updTeam n
          (fun x => { x with fillAt := x.fillAt + 1, asked := false }), true)) ∧
      (∀ t v y e, rd = (t, ⟨v, y, true, e⟩) → fillPiece s n ctx u = (t, false)) ∧
      (∀ t v c lo e, rd = (t, ⟨v, some (c, lo), false, e⟩) →
        fillPiece s n ctx u = (killTeam (clearParts t (.fill n)) n c lo u.core 0, false))) ∧
    (∀ (u : FillUnit), u.bad = false → isMem u.a = false → isWin u.a = true →
      (∀ t w x, windowFor s ctx u.a .rd = (t, .ok (w, x)) → fabOn t = true → fillPiece s n ctx u =
        ((sendFuller t (.fill n u.core (t.team n).fillAt u.n) (some (ctx, winNo u.a))
          { windowPacket t w x with tier := 1, op := kLoad, cls := u.cls, len := u.n }).updTeam n (fun x => { x with asked := true }),
          false)) ∧
      (∀ t c, windowFor s ctx u.a .rd = (t, .error c) →
        fillPiece s n ctx u = (killTeam (clearParts t (.fill n)) n c u.a u.core 0, false))) ∧
    (∀ (e : InStream) (j k c : Nat), ∀ u ∈ entryUnits e j k c, u.core = c ∧ (u.bad = false →
      u.cls = ptrClass e.src ∧
      (u.a : Int) = (ptrAddr e.src : Int) + j * e.tstride + k * e.cstride + (u.dst - e.dst) ∧
      e.dst ≤ u.dst ∧ u.dst + u.n ≤ e.dst + e.len ∧ 0 < u.n ∧ u.a % 256 + u.n ≤ 256)) ∧
    (let late := tm.st = .placed ∧ fillWaits s n = true ∧ parkThreshold s (s.req tm.tag) ≠ 0 ∧
        parkThreshold s (s.req tm.tag) < tm.clock
     (late → ∃ u, Gives (.fillParkTimeout n) s u ∧ (u.team n).st = .ready ∧ (u.team n).cores = [] ∧ (u.team n).filled = false ∧
        SameMemory s u ∧ (∀ c ∈ tm.cores, (u.core c).team = none)) ∧
     (¬late → Gives (.fillParkTimeout n) s s))

/-- The first bundle (R24, R88, R93, R101): a placed team with its fills and segments issues; the teams of a gang start in one step, when
all are placed and ready to. Exited strands stay exited, and with its first team the launch runs.
Completes: teamFirstIssue, gangStart. -/
def Sys2Proof.Stmt.TeamsStart : Prop :=
  (∀ (s : State) (n : Nat), teamSet s n = true → (s.team n).gang = false → Gives (.teamFirstIssue n) s (startTeam s n)) ∧
  (∀ (s : State) (n : Nat), teamSet s n = false ∨ (s.team n).gang = true → Gives (.teamFirstIssue n) s s) ∧
  (∀ (s : State) (n : Nat),
    ((startTeam s n).team n).st = .running ∧ SameMemory s (startTeam s n) ∧
    (s.hasReq (s.team n).tag = true → (s.req (s.team n).tag).st = 1 → ((startTeam s n).req (s.team n).tag).st = 2) ∧
    (∀ c, c ∉ (s.team n).cores → (startTeam s n).core c = s.core c) ∧
    (∀ c ∈ (s.team n).cores, (startTeam s n).core c =
      { s.core c with run := if (s.core c).run = .exited then .exited else .running })) ∧
  (∀ (s : State) (tag : Nat), let ts := gangTeams s tag
    (ts ≠ [] → (s.req tag).claimed = teamCount (s.req tag) → (∀ n ∈ ts, teamSet s n = true) →
      Gives (.gangStart tag) s (ts.foldl startTeam s)) ∧
    (ts = [] ∨ (s.req tag).claimed ≠ teamCount (s.req tag) ∨ (∃ n ∈ ts, teamSet s n = false) → Gives (.gangStart tag) s s))

/-- Segment copies (R103, R104, R184): a copy reads its segment as group host and installs its bundles at the half's first index; a
failure leaves the half empty with its record, each bad sector with one of its own, and what waits for a translation stays.
Completes: segmentCopyComplete. -/
def Sys2Proof.Stmt.SegmentsCopy : Prop :=
  ∀ (s : State) (c h k : Nat), h < 2 → ((s.core c).half h).copying = true → ((s.core c).half h).seg = some k →
    let i := imgOf s c
    let e := segEntry i k
    let rd := whoRead s (.copy c h) (ctxOf s c) gHost (i.base + e.1) (192 * (e.2 + 1))
    let first := if 2 ≤ i.nseg then 2048 * (k % 2) else 0
    let fails := fun (t : State) (code lo : Nat) => Gives (.segmentCopyComplete c h) s
      ((logErr (clearParts t (.copy c h)) code lo (ctxOf s c) 1 c 0).onCore c (fun x => x.setHalf h Half.init))
    (∀ t v, rd = (t, ⟨v, none, false, []⟩) →
      Gives (.segmentCopyComplete c h) s ((clearParts t (.copy c h)).onCore c (fun x => installSeg x h k first (e.2 + 1) v))) ∧
    (∀ t v code lo, rd = (t, ⟨v, some (code, lo), false, []⟩) → fails t code lo) ∧
    (∀ t v y a as, rd = (t, ⟨v, y, false, a :: as⟩) → fails (logBads t (ctxOf s c) 1 c (as.map sectorBase)) eEcc (sectorBase a)) ∧
    (∀ t v y as, rd = (t, ⟨v, y, true, as⟩) → Gives (.segmentCopyComplete c h) s t) ∧
    (∀ (x : Core) (n v j : Nat), j < n →
      Tab.get 0 (installSeg x h k first n v).imem (first + j) = BitVec.ofNat 192 (v >>> (192 * j)) ∧
      ((installSeg x h k first n v).half h).installed = true ∧ ((installSeg x h k first n v).half h).copying = false)

/-- Forced leaves (R121, R353, R355, R356): a running strand whose countdown has run out goes back to its last checkpoint and counts as
yielded, unless a shielded handler or a parked atomic keeps it; a team parked for longer than its threshold is switched out with its
gang. Completes: countdownExpiry, parkSwitch. -/
def Sys2Proof.Stmt.ForcedLeaves : Prop :=
  (∀ (s : State) (c : Nat),
    let x := s.core c
    let late := x.c7 = true ∧ x.cdRun = true ∧ x.cdown = 0 ∧ x.run = .running ∧ ¬(x.mode = .handler ∧ x.shielded = true) ∧
      atomicParked x = false
    (late → Gives (.countdownExpiry c) s (forceStrand s c)) ∧
    (x.due = [] → let y := (forceStrand s c).core c
      y.run = .yielded ∧ y.pc = x.ck.pc ∧ y.mode = x.ck.mode ∧ y.dup = x.ck.dup ∧ y.wb = [] ∧ y.team = x.team) ∧
    (¬late → Gives (.countdownExpiry c) s s)) ∧
  (∀ (s : State) (n : Nat),
    let ts := n :: gangMates s n
    let due := (s.team n).st = .running ∧ parkedLong s n = true ∧ (∀ t ∈ ts, (s.team t).st = .running) ∧
      ∀ t ∈ ts, switchWaits s t = false
    (due → Gives (.parkSwitch n) s (ts.foldl switchOut s)) ∧ (¬due → Gives (.parkSwitch n) s s)) ∧
  (∀ (s : State) (n : Nat), ((switchOut s n).team n).st = .forcing ∧ ((switchOut s n).team n).reason = 2)

/-- Saves and restores (R24, R126, R357 to R362): a team that is out is saved into a free slot of the frame pool and leaves its cores; it
is ready again once nothing of it is left behind; a placed team with a frame reads it back and waits for its segments. A frame that
cannot be written or read, or that is not the team's, kills the team. Completes: teamSave, teamReady, teamRestore. -/
def Sys2Proof.Stmt.TeamsSaveAndRestore : Prop :=
  ∀ (s : State) (n : Nat),
    let tm := s.team n
    (∀ k x r, canSave s n = true → freeSlots s = k :: x :: r →
      (let s1 := tm.cores.foldl (fun s c => s.onCore c atCkpt) (tm.cores.foldl logTags s)
       let rows := teamRows s1 0 tm.cores
       let grown := decide (16384 < 32 + rows.length + growth s1 tm.cores)
       (∀ t, writeFrame s1 n k x tm.reason grown rows = (t, none) → ∃ u, Gives (.teamSave n) s u ∧ SameMemory t u ∧
          (u.team n).outq = tm.cores.flatMap (fun c => sentLater (t.core c)) ∧
          (u.team n).st = .saved ∧ (u.team n).cores = [] ∧ (u.team n).slot = some k ∧
          (u.team n).ext = (if grown = true then some x else none) ∧ (∀ c ∈ tm.cores, (u.core c).team = none)) ∧
       (∀ t a, writeFrame s1 n k x tm.reason grown rows = (t, some a) →
          Gives (.teamSave n) s (killTeam t n eFramefault a (firstCore t n) 0)))) ∧
    (canSave s n = false → Gives (.teamSave n) s s) ∧
    (let ts := inIndexOrder s (n :: gangMates s n)
     ((∀ t ∈ ts, reasonClear s t = true) → (∀ t ∈ ts, homeBusy s t = false) →
        Gives (.teamReady n) s (ts.foldl makeReady s)) ∧
     ((∀ t ∈ ts, reasonClear s t = true) → (∃ t ∈ ts, homeBusy s t = true) →
        Gives (.teamReady n) s (ts.foldl (fun s t => if homeBusy s t = true ∧ (s.team t).reason ≠ 3 then stayHome s t else s) s)) ∧
     ((∃ t ∈ ts, reasonClear s t = false) → Gives (.teamReady n) s s)) ∧
    ((makeReady s n).team n).st = .ready ∧
    (let go := tm.st = .restoring ∧ pinHere s n = true ∧ leftBehind s n = false ∧ poolOpen s = true
     let rd := readFrame s (slotOf tm) (extOf tm) tm.n
     (∀ t h rows, go → rd = (t, .ok (h, rows)) → headerOk t n h = true → ∃ u, Gives (.teamRestore n) s u ∧
        (u.team n).st = .placed ∧ (u.team n).slot = none ∧ (u.team n).ext = none ∧ (u.team n).cores = tm.cores) ∧
     (∀ t h rows, go → rd = (t, .ok (h, rows)) → headerOk t n h = false →
        Gives (.teamRestore n) s (killTeam t n eFramefault (frameAddr t (slotOf tm) (extOf tm) 0) (firstCore t n) 0)) ∧
     (∀ t a, go → rd = (t, .error a) → Gives (.teamRestore n) s (killTeam t n eFramefault a (firstCore t n) 0)) ∧
     (¬go → Gives (.teamRestore n) s s))

/-! ### Moves and bundles -/

/-- The value that source `n` of core `c` gives for a read that finds it at once, by the classes of the source field (R134, R135):
G registers when full, result latches, condition registers, loop counters, the special sources, vector and overflow registers. -/
def Sys2Proof.Stmt.Holds (s : State) (c n : Nat) (v : MvVal) : Prop :=
  let x := s.core c
  (n < 0x80 ∧ (x.dup.greg (n % 64)).st = .full ∧ v = .narrow (x.dup.greg (n % 64)).val) ∨
  (0x80 ≤ n ∧ n < 0x95 ∧ n ∉ wideLatches ∧ v = .narrow (x.dup.latch n)) ∨
  (n ∈ wideLatches ∧ v = .wide (x.dup.wlatch n)) ∨
  (0xC8 ≤ n ∧ n < 0xD0 ∧ v = .narrow (if condBit x (n - 0xC8) = true then 1 else 0)) ∨
  (0xD0 ≤ n ∧ n < 0xD6 ∧ v = .narrow (wordN (x.dup.ctr (n - 0xD0)))) ∨
  (n = 0xD6 ∧ v = .narrow (wordN x.cyc)) ∨ (n = 0xD7 ∧ v = .narrow (wordN x.tcore)) ∨
  (n = 0xD8 ∧ v = .narrow (wordN (teamSize s c))) ∨ (n = 0xD9 ∧ v = .narrow (wordN x.dup.loops.length)) ∨
  (n = 0xDA ∧ v = .narrow s.fe.time) ∨ (n = 0xDB ∧ v = .narrow (wordN (segsWord s c))) ∨
  (n = 0xDC ∧ x.privileged = true ∧ v = .narrow (wordN c)) ∨
  (n = 0xDD ∧ v = .narrow (wordN (match x.mode with | .user => 0 | .priv => 1 | .handler => 2))) ∨
  (n = 0xDE ∧ v = .narrow 0) ∨ (0xE0 ≤ n ∧ n < 0x100 ∧ v = .wide (x.dup.vreg (n - 0xE0))) ∨
  (0x100 ≤ n ∧ n < 0x200 ∧ v = .narrow (x.dup.spillReg (n - 0x100)))

/-- What a destination other than a trigger and a stream holds after value `v` (R136). -/
def Sys2Proof.Stmt.stored (d : Dup) (n : Nat) (v : MvVal) : Dup :=
  if n < 0x40 then d.writeG n v.word
  else if n < 0x69 then (if n ∈ widePorts then d.setWport n v.row else d.setPort n v.word)
  else if n < 0x2A0 then d.setV (n - 0x280) v.row
  else if n < 0x2AF then d.setC (n - 0x2A8) (v.word.getLsbD 0)
  else d.setSpill (n - 0x300) v.word

/-- Destinations that are neither triggers nor streams. -/
def Sys2Proof.Stmt.Plain (n : Nat) : Prop :=
  n < 0x69 ∨ (0x280 ≤ n ∧ n < 0x2A0) ∨ (0x2A8 ≤ n ∧ n < 0x2AF) ∨ (0x300 ≤ n ∧ n < 0x400)

/-- Moves and immediate moves (R132 to R137, R141 to R143): the value of the source lands in the destination, everything else unchanged;
a read of a register that is empty waits at 00 to 3F and traps at 40 to 7F, a poisoned one traps, an empty destination waits; widths
that differ, and reserved numbers, are illegal. The word with both fields 0 is the empty move.
Completes: move, immediateMove. -/
def Sys2Proof.Stmt.MovesAsSteps : Prop :=
  ∀ (s : State) (c k : Nat) (src : BitVec 9) (dst : BitVec 10) (imm : Word) (v : MvVal),
    let x := s.core c
    let n := src.toNat
    let d := dst.toNat
    let after := fun (v : MvVal) => s.onCore c (fun x => { x with dup := stored x.dup d v })
    let free := d < 0x40 → (x.dup.greg d).st ≠ .empty
    let nonzero := ¬(n = 0 ∧ d = 0)
    Gives (.move c k 0 0) s s ∧
    (nonzero → mvLegal k (.reg n) d = true → Holds s c n v → Plain d → free → Gives (.move c k src dst) s (after v)) ∧
    (mvLegal k (.imm imm) d = true → Plain d → free → Gives (.immediateMove c k imm dst) s (after (.narrow imm))) ∧
    (nonzero → mvLegal k (.reg n) d = false → Gives (.move c k src dst) s (takeTrap s c (trapIllegal k))) ∧
    (mvLegal k (.imm imm) d = false → Gives (.immediateMove c k imm dst) s (takeTrap s c (trapIllegal k))) ∧
    (d < 0x40 → (x.dup.greg d).st = .empty → Gives (.immediateMove c k imm dst) s s) ∧
    (nonzero → mvLegal k (.reg n) d = true →
      (n < 0x40 → (x.dup.greg n).st = .empty → Gives (.move c k src dst) s s) ∧
      (0x40 ≤ n → n < 0x80 → (x.dup.greg (n - 0x40)).st = .empty →
        Gives (.move c k src dst) s (takeTrap s c (trapEmpty k (n - 0x40)))) ∧
      (∀ j, n < 0x80 → (x.dup.greg (n % 64)).st = .poison j →
        Gives (.move c k src dst) s (takeTrap s c (trapPoison k (n % 64) j))) ∧
      (n = 0xDC → x.privileged = false → Gives (.move c k src dst) s (takeTrap s c (trapPriv k)))) ∧
    (∀ u, mvLegal k (.imm imm) d = true → isTrig d = true → runTrig s c k d false (.narrow imm) = .done u →
      Gives (.immediateMove c k imm dst) s (u.onCore c takeSel)) ∧
    (∀ t, mvLegal k (.imm imm) d = true → isTrig d = true → runTrig s c k d false (.narrow imm) = .trap t →
      Gives (.immediateMove c k imm dst) s (takeTrap s c t))

/-- Condition trees (R145 to R147, R149): the first test that holds chooses its leaf, whose offset is added to the index; with none, leaf
5 is taken when e is set, and otherwise the next bundle is as without a tree. A malformed tree, its unused offsets among the causes, is
illegal in slot 6 (R151, R350).
Completes: conditionTree. -/
def Sys2Proof.Stmt.ConditionTrees : Prop :=
  ∀ (s : State) (c : Nat) (h w : BitVec 24),
    let x := s.core c
    let tests := fieldAt h.toNat 18 17 + 1
    let holds := fun (k : Nat) => testHolds x h.toNat k
    let legal := fieldAt h.toNat 20 19 = 3 ∧ treeHeadOk h.toNat = true ∧ treeOffsOk h.toNat w.toNat = true
    let off := fun (k : Nat) => x.pc + BitVec.ofInt 12 (signOf (fieldAt w.toNat (23 - 6 * k) (18 - 6 * k)) 6)
    (∀ k, legal → k < tests → holds k = true → (∀ j, j < k → holds j = false) →
      Gives (.conditionTree c h w) s (s.onCore c (fun x => { x with leaf := (k + 1, some (off k)), pc := off k }))) ∧
    (legal → (∀ j, j < tests → holds j = false) → fieldAt h.toNat 0 0 = 1 →
      Gives (.conditionTree c h w) s (s.onCore c (fun x => { x with leaf := (5, some (off 3)), pc := off 3 }))) ∧
    (legal → (∀ j, j < tests → holds j = false) → fieldAt h.toNat 0 0 = 0 →
      Gives (.conditionTree c h w) s (s.onCore c (fun x =>
        { x with leaf := (5, none), dup := (stepLoops x.dup x.pc).1, pc := (stepLoops x.dup x.pc).2 }))) ∧
    (¬ legal → Gives (.conditionTree c h w) s (takeTrap s c (trapIllegal 6))) ∧
    (∀ k, k < 4 → (holds k = true ↔
      (condBit x (fieldAt h.toNat (16 - 4 * k) (14 - 4 * k)) = true ↔ fieldAt h.toNat (13 - 4 * k) (13 - 4 * k) = 0)))

/-- The state in which core `c` makes the attempt that it has in the present pulse (R102): the pulse has begun, and the attempt is
spent. -/
def Sys2Proof.Stmt.inPulse (s : State) (c : Nat) : State :=
  let b := beginPulse s
  { b with pow := { b.pow with todo := b.pow.todo.map (fun l => l.erase c) } }

/-- Issue of a bundle (R102, R104, R130, R138, R144, R151, R305, R350, R356): a core has one attempt in each pulse, and none in a pulse
that its level swallows, which takes effect at the pulse itself, after its countdown has run out, or while its strand does not run.
A fetch that waits leaves the state; a bundle that traps has no effect but its trap, which is left to the force where the countdown has
run out; one that stalls keeps its issue cycle; one that meets nothing issues, its waits for items before everything else.
Completes: bundleIssue. -/
def Sys2Proof.Stmt.BundlesIssue : Prop :=
  ∀ (s : State) (c : Nat) (w : BitVec 192),
    let b := beginPulse s
    let z := inPulse s c
    let y := passInIssue z c w
    let x := y.core c
    let l := look y c w
    let rs := meetAll y c l
    let out := fun (x : Core) => x.c7 = true ∧ x.cdRun = true ∧ x.cdown = 0 ∧ ¬(x.mode = .handler ∧ x.shielded = true)
    let runs := mayIssue b c = true
    (s.pow.todo = none → (runs ↔ (s.core c).run = .running ∧ (s.core c).team.isSome = true ∧ s.pow.tripped = false ∧
      (∃ e ∈ s.cores, e.1 = c) ∧ swallowed (applyLevels s s.pow.pulse) s.pow.pulse c = false ∧ ¬ out (s.core c))) ∧
    (∀ q, s.pow.todo = some q → c ∉ q → Gives (.bundleIssue c) s s) ∧
    (¬runs → Gives (.bundleIssue c) s s) ∧
    (runs → fetchAt z c = .wait → Gives (.bundleIssue c) s z) ∧
    (runs → fetchAt z c = .ecc → Gives (.bundleIssue c) s (eccFetch z c)) ∧
    (∀ t, runs → fetchAt z c = .bad t → Gives (.bundleIssue c) s (if out (z.core c) then z else takeTrap z c t)) ∧
    (∀ t, runs → fetchAt z c = .ok w → bundleTrap y c l rs = some t → Gives (.bundleIssue c) s (if out x then y else takeTrap y c t)) ∧
    (runs → fetchAt z c = .ok w → bundleTrap y c l rs = none → rs ≠ [] → ∃ u, Gives (.bundleIssue c) s u ∧
      (u.core c).cyc = x.cyc ∧ (u.core c).pc = x.pc ∧ (u.core c).dup = x.dup ∧ SameMemory y u) ∧
    (runs → fetchAt z c = .ok w → bundleTrap y c l rs = none → rs = [] → Gives (.bundleIssue c) s (issueBundle y c l)) ∧
    (∀ u, applyAll c x.dup.g (bundleOps (withPorts y c l.effs) c l) (withPorts y c l.effs) = .done u →
      issueBundle y c l = endBundle u c l x.pc x.cyc)

/-- A bundle of moves into G registers (R138, R139, R149): each register holds what its source held at the start of the bundle, whatever
the order of the slots, every other register is unchanged, one issue cycle passes and the next index follows.
Completes: bundleIssue. -/
def Obligations.MovesTakeEffectTogether : Prop :=
  ∀ (s : State) (c : Nat) (w : BitVec 192),
    let z := inPulse s c
    let x := z.core c
    let l := look z c w
    mayIssue (beginPulse s) c = true → fetchAt z c = .ok w → bundleTrap z c l (meetAll z c l) = none →
    meetAll z c l = [] → x.due = [] → x.dup.loops = [] → x.sel = none → l.leaf.2 = none → l.beat = .mxNop c →
    (∀ e ∈ l.effs, e.dst < 0x40 ∧ e.stream = none) → (l.effs.map (·.dst)).Nodup →
    ∃ u, Gives (.bundleIssue c) s u ∧ (u.core c).cyc = x.cyc + 1 ∧ (u.core c).pc = x.pc + 1 ∧ SameMemory s u ∧
      (∀ e ∈ l.effs, ∀ v, e.val = .ok v → (u.core c).dup.greg e.dst = ⟨v.word, .full⟩) ∧
      (∀ r, r ∉ l.effs.map (·.dst) → (u.core c).dup.greg r = x.dup.greg r) ∧
      (∀ k, k ≠ c → u.core k = z.core k) ∧ (u.core c).ck = x.ck ∧ (u.core c).spad = x.spad

/-- The fetch (R104, R130): the installed bundle at the index, or its uncorrectable error, or the copy is
awaited, or a fetch trap outside the segment or in an empty half, at the table entry last named beyond the last segment or else entry 1. -/
def Sys2Proof.Stmt.Fetches : Prop :=
  ∀ (s : State) (c : Nat),
    let x := s.core c
    let i := imgOf s c
    (i.nseg < 2 →
      (x.half0.copying = true → fetchAt s c = .wait) ∧
      (x.half0.copying = false → x.half0.installed = true → x.pc.toNat ≤ (segEntry i 0).2 → x.imemBad.contains x.pc.toNat = false →
        fetchAt s c = .ok (Tab.get 0 x.imem x.pc.toNat)) ∧
      (x.half0.copying = false → x.half0.installed = true → x.pc.toNat ≤ (segEntry i 0).2 → x.imemBad.contains x.pc.toNat = true →
        fetchAt s c = .ecc) ∧
      (x.half0.copying = false → x.half0.installed = true → (segEntry i 0).2 < x.pc.toNat →
        fetchAt s c = .bad ⟨0x0B, 0xFF, 0, 0, i.base + (segEntry i 0).1 + 192 * x.pc.toNat, some eFetchrange⟩)) ∧
    (2 ≤ i.nseg →
      (let h := x.half (x.pc.toNat / 2048)
       (h.copying = true → fetchAt s c = .wait) ∧
       (∀ k, h.copying = false → h.installed = true → h.seg = some k → x.pc.toNat % 2048 ≤ (segEntry i k).2 →
          x.imemBad.contains x.pc.toNat = false → fetchAt s c = .ok (Tab.get 0 x.imem x.pc.toNat)) ∧
       (h.copying = false → h.installed = false → (∀ k, h.seg = some k → k < i.nseg) →
          fetchAt s c = .bad ⟨0x0B, 0xFF, 0, 0, i.base + i.segtab + 128, some eFetchrange⟩) ∧
       (∀ k, h.copying = false → h.installed = false → h.seg = some k → i.nseg ≤ k →
          fetchAt s c = .bad ⟨0x0B, 0xFF, 0, 0, i.base + i.segtab + 128 * k, some eFetchrange⟩)))

/-! ### The package -/

/-- Resets and boot (R77, R78, R80, R385): a cold reset leaves the reset state but for the fuses; the boot runs with the next nanosecond;
in recovery mode an image that verifies starts the root firmware. A link reset clears its port only; a trained port shows its values.
Completes: coldReset, recoveryImage, linkReset, hostPortTrained. -/
def Obligations.ResetsAndPorts : Prop :=
  ∀ (s : State) (img : FwImage) (p wd gen : Nat) (cxl : Bool),
    (∃ u, Gives .coldReset s u ∧ u.hbm = [] ∧ u.fe = State.reset.fe ∧ u.cores = State.reset.cores ∧ u.xl = State.reset.xl ∧
      u.fab = State.reset.fab ∧ u.ful = State.reset.ful ∧ u.xp = State.reset.xp ∧ u.sync = State.reset.sync ∧ u.hl = State.reset.hl ∧
      u.pow = State.reset.pow ∧ u.firm.minVer = s.firm.minVer ∧ u.firm.idBits = s.firm.idBits ∧
      u.firm.keyRevoked = s.firm.keyRevoked ∧ u.firm.up = false ∧ mustBoot u = true) ∧
    (s.firm.recovery = true → ∃ u, Gives (.recoveryImage img) s u ∧ u = { s with firm := u.firm } ∧
      (if accepts s.firm true img = true then
        u.firm.up = true ∧ u.firm.recovery = false ∧ u.firm.rootVer = img.version ∧ u.firm.minVer = s.firm.minVer
      else u = s)) ∧
    (s.firm.recovery = false → Gives (.recoveryImage img) s s) ∧
    (img.root = false ∨ img.version < s.firm.minVer ∨ img.sig.length ≠ 2820 → accepts s.firm true img = false) ∧
    (let put := fun (x : HPort) => { s with hl := { s.hl with port := Tab.set HPort.init p x s.hl.port } }
     Gives (.linkReset p) s (put HPort.init) ∧
     (wd < 32 → gen < 8 → Gives (.hostPortTrained p wd gen cxl) s
       (put { portOf' s p with up := true, cxl := cxl, width := wd, gen := gen })))

/-- The state with one more completion on port `p`. -/
def Sys2Proof.Stmt.completed (s : State) (p : Nat) (d : Cpl) : State :=
  { s with hl := { s.hl with port := Tab.set HPort.init p { portOf' s p with out := (portOf' s p).out ++ [d] } s.hl.port } }

/-- Configuration requests and BAR0 (R381, R382, R385): Request Retry Status until the root firmware runs; a 64-bit access of BAR0 is one
of the register, another is refused with its record; before HL_CTL ready reads are aborted and writes dropped.
Completes: configRequest, bar0Access. -/
def Sys2Proof.Stmt.ConfigAndRegisters : Prop :=
  ∀ (s : State) (a : HostAcc), (portOf' s a.port).up = true →
    (s.firm.up = false → Gives (.configRequest a) s (completed s a.port ⟨2, 0, false⟩)) ∧
    (s.firm.up = true → a.wr = true → Gives (.configRequest a) s (completed s a.port ⟨0, 0, false⟩)) ∧
    (s.firm.up = true → a.wr = false → ∃ t v, Gives (.configRequest a) s (completed t a.port ⟨0, v, false⟩) ∧
      t = { s with fresh := t.fresh } ∧ v < 2 ^ (8 * a.len)) ∧
    (a.off + a.len ≤ 2 ^ 26 →
      (let at_ := 0xE0000000000000 + 8 * a.off
       let no := fun (t : State) => if a.wr = true then t else completed t a.port ⟨4, 0, false⟩
       (s.hl.ready = false → Gives (.bar0Access a) s (no s)) ∧
       (s.hl.ready = true → a.len = 8 → a.wr = true →
         Gives (.bar0Access a) s (agentWrite s (.host a.port) at_ (wordN a.data))) ∧
       (s.hl.ready = true → a.len = 8 → a.wr = false → (devRead s at_).2 = none →
         Gives (.bar0Access a) s (completed s a.port ⟨0, (devRead s at_).1.toNat, false⟩)) ∧
       (s.hl.ready = true → a.len ≠ 8 → Gives (.bar0Access a) s (no (logErr s eDevreg at_ 0 5 0 0))))) ∧
    (2 ^ 26 < a.off + a.len → Gives (.bar0Access a) s s)

/-- Memory through the host ports (R382 to R384): BAR2 is an access of context HL_CTX as group host at 2^52 and up, whose refusal is
logged and aborted, and which waits while its MTU has no slot (R118); an access inside one sector writes or reads the bits there;
parts of earlier host writes perform before it (R61); BAR4 is physical memory inside a P2P range; CXL.mem is the same window, on a port where CXL is active, and lists the
lines that the host has read. Completes: bar2Access, bar4Access, cxlMemAccess. -/
def Sys2Proof.Stmt.HostMemory : Prop :=
  ∀ (s : State) (a : HostAcc), (portOf' s a.port).up = true → s.hl.ready = true → a.off + a.len ≤ 2 ^ 39 →
    let at_ := 2 ^ 52 + 8 * a.off
    let n := 8 * a.len
    let z := landHost s
    let hp := hostParts z s.hl.ctx at_ n (if a.wr = true then 1 else 0) (sectors at_ n)
    let no := fun (t : State) => if a.wr = true then t else completed t a.port ⟨4, 0, false⟩
    let p := 8 * a.off
    let ps := physParts p n
    (∀ t ps, hp = (t, .inl ps) →
      (a.wr = true → Gives (.bar2Access a) s (writePhys t at_ t.hl.ctx a.data (ps.length == 1) ps)) ∧
      ((portOf' s a.port).cxl = true → a.wr = true →
        Gives (.cxlMemAccess a) s (writePhys (forgetLines t ps) at_ t.hl.ctx a.data (ps.length == 1) ps)) ∧
      (a.wr = false → (let r := readPhys t at_ t.hl.ctx ps
        Gives (.bar2Access a) s (completed r.1 a.port ⟨0, r.2.1, r.2.2⟩))) ∧
      ((portOf' s a.port).cxl = true → a.wr = false → (let r := readPhys t at_ t.hl.ctx ps
        Gives (.cxlMemAccess a) s (completed (holdLines r.1 ps) a.port ⟨0, r.2.1, r.2.2⟩)))) ∧
    (∀ t q lo len, hp = (t, .inl [(q, lo, len)]) → t.hbmBad = [] →
      (a.wr = true → ∃ u, Gives (.bar2Access a) s u ∧ hbmBits u.hbm q len = (a.data >>> (lo - at_)) % 2 ^ len ∧
        (∀ r k, r + k ≤ q ∨ q + len ≤ r → hbmBits u.hbm r k = hbmBits t.hbm r k)) ∧
      (a.wr = false → Gives (.bar2Access a) s (completed t a.port ⟨0, hbmBits t.hbm q len * 2 ^ (lo - at_), false⟩))) ∧
    (∀ t, hp = (t, .inr none) → Gives (.bar2Access a) s s) ∧
    (∀ t code lo, hp = (t, .inr (some (code, lo))) → Gives (.bar2Access a) s (no (logErr t code lo t.hl.ctx 5 0 0)) ∧
      ((portOf' s a.port).cxl = true → Gives (.cxlMemAccess a) s (no (logErr t code lo t.hl.ctx 5 0 0)))) ∧
    ((portOf' s a.port).cxl = false → Gives (.cxlMemAccess a) s s) ∧
    (inP2p s p n = true → a.wr = true → Gives (.bar4Access a) s (writePhys z p 0 a.data (ps.length == 1) ps)) ∧
    (inP2p s p n = true → a.wr = false →
      Gives (.bar4Access a) s (completed (readPhys z p 0 ps).1 a.port ⟨0, (readPhys z p 0 ps).2.1, (readPhys z p 0 ps).2.2⟩)) ∧
    (inP2p s p n = false → ∃ code, Gives (.bar4Access a) s (no (logErr (draw s).1 code p 0 5 0 0)))

/-- The power controller (R386): samples every microsecond, of which the last thousand count; levels rise by one every 10 µs above the cap,
fall by one every 100 µs more than 50 W below it, and never below a die's thermal floor; a die above the trip temperature takes all to 48,
and after 10 ms of it the device trips.
Completes: powerSample, levelRaiseTick, levelLowerTick, thermalFloorTick, thermtrip. -/
def Obligations.PowerControl : Prop :=
  ∀ (s : State) (w t0 t1 t2 t3 d : Nat), d < 4 →
    let now := s.fe.time.toNat
    let x := s.die d
    (s.pow.sampled.toNat + 1000 ≤ now → ∃ u, Gives (.powerSample w t0 t1 t2 t3) s u ∧
      u.pow.samples = (w :: s.pow.samples).take 1000 ∧ u.pow.sampled = s.fe.time ∧ SameMemory s u ∧
      (u.die 0).temp = t0 ∧ (u.die 1).temp = t1 ∧ (u.die 2).temp = t2 ∧ (u.die 3).temp = t3 ∧
      (ttrip s < t0 ∨ ttrip s < t1 ∨ ttrip s < t2 ∨ ttrip s < t3 → (u.die d).want = 48 ∧ u.pow.hot.isSome = true) ∧
      (t0 ≤ ttrip s → t1 ≤ ttrip s → t2 ≤ ttrip s → t3 ≤ ttrip s → (u.die d).want = x.want ∧ u.pow.hot = none)) ∧
    (now < s.pow.sampled.toNat + 1000 → Gives (.powerSample w t0 t1 t2 t3) s s) ∧
    (isAboveCap s = true → s.pow.lastUp.toNat + 10000 ≤ now → ∃ u, Gives .levelRaiseTick s u ∧
      (u.die d).want = min 48 (x.want + 1) ∧ u.pow.lastUp = s.fe.time ∧ (u.die d).level = x.level) ∧
    (isAboveCap s = false ∨ now < s.pow.lastUp.toNat + 10000 → Gives .levelRaiseTick s s) ∧
    (isBelowCap s = true → s.pow.hot = none → s.pow.lastDown.toNat + 100000 ≤ now → ∃ u, Gives .levelLowerTick s u ∧
      (u.die d).want = max x.floor (x.want - 1) ∧ u.pow.lastDown = s.fe.time) ∧
    (isBelowCap s = false ∨ s.pow.hot ≠ none ∨ now < s.pow.lastDown.toNat + 100000 → Gives .levelLowerTick s s) ∧
    (tthrot s < x.temp → x.floorAt.toNat + 10000 ≤ now → Gives (.thermalFloorTick d) s (s.setDie d { x with
      floor := min 48 (x.floor + 1), want := max x.want (min 48 (x.floor + 1)), floorAt := s.fe.time })) ∧
    (x.temp + 5 < tthrot s → x.floorAt.toNat + 100000 ≤ now →
      Gives (.thermalFloorTick d) s (s.setDie d { x with floor := x.floor - 1, floorAt := s.fe.time })) ∧
    (x.temp ≤ tthrot s → tthrot s ≤ x.temp + 5 → Gives (.thermalFloorTick d) s s) ∧
    (∀ t, s.pow.hot = some t → s.pow.tripped = false → t.toNat + 10000000 ≤ now →
      ∃ u, Gives .thermtrip s u ∧ u.pow.tripped = true ∧ u.cores = s.cores) ∧
    (s.pow.hot = none ∨ s.pow.tripped = true → Gives .thermtrip s s)

/-- The gate of the notify aperture (R365): it closes when no strand is stalled in nwait; opening it applies the queued wakes in order, each
as a wake at its register, and then one wake of its own word to each merged register, whose coalesced bit it sets. Completes: notifyGate, notifyUngate. -/
def Sys2Proof.Stmt.NotifyGate : Prop :=
  ∀ (s : State),
    (s.sync.gated = false → (∀ e ∈ s.cores, stalledInNwait s e.1 = false) →
      Gives .notifyGate s { s with sync := { s.sync with gated := true } }) ∧
    (s.sync.gated = true ∨ (∃ e ∈ s.cores, stalledInNwait s e.1 = true) → Gives .notifyGate s s) ∧
    (s.sync.gated = false → Gives .notifyUngate s s) ∧
    (s.sync.gated = true → ∃ u, Gives .notifyUngate s u ∧ u.sync.gated = false ∧ u.sync.capq = [] ∧ u.sync.merge = [] ∧
      u = { s with sync := u.sync } ∧
      (∀ n x rest, s.sync.capq = (n, x) :: rest →
        let r := notifyOf s n
        let t := setNotify s n (if r.cnt = 16383 then { r with word := x, coal := true } else { r with word := x, cnt := r.cnt + 1 })
        Gives .notifyUngate { t with sync := { t.sync with capq := rest } } u) ∧
      (∀ n rest, s.sync.capq = [] → s.sync.merge = n :: rest →
        let r := notifyOf s n
        let t := setNotify s n { r with cnt := min 16383 (r.cnt + 1), coal := true }
        r.cnt ≤ 16383 → Gives .notifyUngate { t with sync := { t.sync with merge := rest } } u) ∧
      (s.sync.capq = [] → s.sync.merge = [] → u.sync.reg = s.sync.reg))

/-- The clocks (R5, R73, R102, R301, R386): a pulse advances the pulse count, and no core issues after a trip; a nanosecond advances
device time and nothing else where no request of the Fuller is on its way, none waits at this package, no part of a host write is on its way, the boot is done and no
management firmware runs, and the whole boot runs within the nanosecond in which it begins (the model's reading, log entry 21,
DEDUCED). At the first pulse of each 64 the levels that the controller has set take effect. -/
def Sys2Proof.Stmt.ClocksAdvance : Prop :=
  ∀ (s : State),
    (s.pow.tripped = true → s.pow.todo = none → pulse s = { s with pow := { s.pow with pulse := s.pow.pulse + 1 } }) ∧
    (s.cores = [] → s.pow.tripped = false → s.pow.todo = none → (pulse s).pow.pulse = s.pow.pulse + 1 ∧ SameMemory s (pulse s) ∧
      (∀ d, d < 4 → ((pulse s).die d).level = if s.pow.pulse % 64 = 0 then (s.die d).want else (s.die d).level)) ∧
    (mustBoot s = false → s.fab.flights = [] → s.fab.remote = [] → s.hl.late = [] → s.firm.mgmtHeld = true →
      nano s = { s with fe := { s.fe with time := s.fe.time + 1 } }) ∧
    (nano s).fe.time = s.fe.time + 1 ∧
    (mustBoot s = true → s.fab.flights = [] → s.fab.remote = [] → s.hl.late = [] →
      nano s = boot { s with fe := { s.fe with time := s.fe.time + 1 } })

/-! ### Weights and arrivals -/

/-- R25: at launch E is 2^63 and D is 0, and initial team `j` of `T` receives pow2(63) / T, plus one for the first pow2(63) % T teams;
so the weights of the T initial teams are together 2^63. -/
def Obligations.LaunchWeights : Prop :=
  (∀ (s t : State) (k q : Nat) (x : Interp) (r : Req), checkLaunch s k q x = .ok t r → r.e = 2 ^ 63 ∧ r.d = 0) ∧
  (∀ (r : Req), let T := (draftOf r 1).toNat
    let j := r.claimed
    (initialTeam r).weight = 2 ^ 63 / T + (if j < 2 ^ 63 % T then 1 else 0)) ∧
  (∀ T, 0 < T → ((List.range T).map (fun j => 2 ^ 63 / T + (if j < 2 ^ 63 % T then 1 else 0))).sum = 2 ^ 63)

/-- R368: an arrival of weight u at a barrier whose need is set is one step: the counts of all arrivals since the need was set go on,
each full need takes it off and advances the generation modulo 65,536, and the arrival falls into the generation before the step. A
host write, SY.hbar and RM.bar arrive by this same step. Completes: barrierArrive, longLatencyReply, barrierArrival. -/
def Obligations.BarrierArrivals : Prop :=
  (∀ (s : State) (i u : Nat), (barrierArriveAt s i u).2 = (barrierOf s i).gen ∧
    (barrierArriveAt s i u).1 = setBarrier s i (arriveAt (barrierOf s i) u)) ∧
  (∀ (b : Barrier) (u : Nat), 0 < b.need → b.gen < 65536 →
    arriveAt b u = { b with have_ := (b.have_ + u) % b.need, gen := (b.gen + (b.have_ + u) / b.need) % 65536 }) ∧
  (∀ (s : State) (ag : Agent) (i u : Nat), agentRuns s ag = true → i < 4096 → 0 < u → u < 65536 →
    Gives (.barrierArrive ag i u) s (barrierArriveAt s i u).1) ∧
  (∀ (s : State) (c id : Nat) (a : Acc), findAcc (s.core c) id = some a → a.iss + 2 ≤ (s.core c).cyc → blocked s c a = false → a.got = [] →
    a.parked = [] → a.err = none → a.dead = false → a.op = .hbar → barOwned s a.addr a.ctx = true → (s.core c).team = some a.team →
    ∃ u, Gives (.longLatencyReply c id 0) s u ∧ u.sync = (barrierArriveAt s a.addr a.len).1.sync ∧
      (u.core c).dup.arrival = some (a.addr, (barrierArriveAt s a.addr a.len).2)) ∧
  (∀ (s : State) (p : Packet), Reaches s p kBar → inTurn s p = true → p.addr < 2 ^ 56 → barOwned s (bits p.addr 11 0) p.tctx = true →
    ∃ u, Gives (.barrierArrival (.ext p)) s u ∧
      u.sync = (barrierArriveAt s (bits p.addr 11 0) (p.data.toNat % 2 ^ 16)).1.sync)

/-! ### What every step keeps -/

/-- Every step keeps the canonical form of memory (log entry 5: listed bytes in rising order, none of them 0), whatever it does. -/
def Obligations.StepKeepsMemoryCanonical : Prop :=
  ∀ (s u : State), MemoryOk s → step s = .next u → MemoryOk u

/-! ### Statements of several parts -/

/-- A step runs the turn that is due, and a decoded bytecode runs as its own step: StepRunsInstr; StepRunsBytecode;
StepRunsClocks; ClocksAdvance, each as its own definition says. -/
def Obligations.StepsRunTurns : Prop :=
  Stmt.StepRunsInstr ∧ Stmt.StepRunsBytecode ∧ Stmt.StepRunsClocks ∧ Stmt.ClocksAdvance

/-- Every bytecode decodes from its word, and no two words stand for one bytecode: LerantRoundTrip; LerantWordsUnique, each
as its own definition says. -/
def Obligations.LerantEncoding : Prop :=
  Stmt.LerantRoundTrip ∧ Stmt.LerantWordsUnique

/-- Beats, immediates of any value and moves decode from their slots: BeatRoundTrip; ImmediateRoundTrip; MoveRoundTrip, each
as its own definition says. -/
def Obligations.SlotEncoding : Prop :=
  Stmt.BeatRoundTrip ∧ Stmt.ImmediateRoundTrip ∧ Stmt.MoveRoundTrip

/-- Integer operations and compares give their results at t+2: IaResults; IaCompares, each as its own definition says.
Completes: iaAdd, iaSub, iaAnd, iaOr, iaXor, iaAndn, iaShl, iaShr, iaSar, iaRol, iaMin, iaMax, iaMinu, iaMaxu, iaNeg,
iaAbs, iaClz, iaCtz, iaPopc, iaSxt, iaSel, iaCmpeq, iaCmpne, iaCmplt, iaCmple, iaCmpltu, iaCmpleu, iaTst. -/
def Obligations.IntegerUnit : Prop :=
  Stmt.IaResults ∧ Stmt.IaCompares

/-- Products, quotients and remainders, and the reply of the divider: ImProducts; ImDivides; DivideReply, each as its own
definition says. Completes: imMul, imMulh, imMulhu, imMulhsu, imDiv, imDivu, imRem, imRemu, divideReply. -/
def Obligations.MultiplyDivide : Prop :=
  Stmt.ImProducts ∧ Stmt.ImDivides ∧ Stmt.DivideReply

/-- Pointers, checks and elements: BpPointers; BpChecksAndElements, each as its own definition says. Completes: bpPadd,
bpPsub, bpPdiff, bpPwset, bpPcset, bpPbyte, bpPfrom, bpPchk, bpPmal, bpElget, bpElsgn, bpElins. -/
def Obligations.PointerUnit : Prop :=
  Stmt.BpPointers ∧ Stmt.BpChecksAndElements

/-- Loads and stores of the own scratchpad, and their target traps: LsOwnLoadsAndStores; LsReadModifyWrite; LsTargetTraps,
each as its own definition says. Completes: lsLd, lsLds, lsSt, lsLdv, lsStv, lsStm, lsZero, lsSwap, lsBor. -/
def Obligations.LocalMemory : Prop :=
  Stmt.LsOwnLoadsAndStores ∧ Stmt.LsReadModifyWrite ∧ Stmt.LsTargetTraps

/-- Accesses to team peers issue and perform: LsPeerForms; LsPeerPerforms, each as its own definition says. Completes: lsSt,
lsStv, lsStm, lsLdpr, lsLdprs, lsBor, peerAccessPerform. -/
def Obligations.PeerMemory : Prop :=
  Stmt.LsPeerForms ∧ Stmt.LsPeerPerforms

/-- Tag tables: lookup, set, clear, read and scout: LsTagTables; TagLookup, each as its own definition says. Completes:
lsTset, lsTget, lsTlook, lsTclr, lsTscout. -/
def Obligations.TagTables : Prop :=
  Stmt.LsTagTables ∧ Stmt.TagLookup

/-- A write of bits changes those bits and no other, in the scratchpad and in memory: ScratchpadBits; MemoryBits, each as
its own definition says. -/
def Obligations.StoresOfBits : Prop :=
  Stmt.ScratchpadBits ∧ Stmt.MemoryBits

/-- What a unit operation changes: its latch, register, scratchpad bits or entry at its cycle, and nothing else:
LatchEffects; RegisterEffects; ScratchpadEffects; SystemEffects; PlannedFrame, each as its own definition says. -/
def Obligations.EffectsLand : Prop :=
  Stmt.LatchEffects ∧ Stmt.RegisterEffects ∧ Stmt.ScratchpadEffects ∧ Stmt.SystemEffects ∧ Stmt.PlannedFrame

/-- Global loads, stores, atomics and device accesses issue: GmLoadsAndStores; GmAtomicsAndDevice; AtomicValues, each as its
own definition says. Completes: gmLd, gmLds, gmSt, gmCas, gmSwap, gmAdd, gmFadd, gmMin, gmMax, gmMinu, gmMaxu, gmIncb,
gmAnd, gmOr, gmXor, gmPref, gmDrd, gmDwr. -/
def Obligations.GlobalMemory : Prop :=
  Stmt.GmLoadsAndStores ∧ Stmt.GmAtomicsAndDevice ∧ Stmt.AtomicValues

/-- Accesses and released stores perform at their physical address: AccessesPerform; ReleasedStorePerforms, each as its own
definition says. Completes: longLatencyReply, withheldEntrySend. -/
def Obligations.AccessesPerform : Prop :=
  Stmt.AccessesPerform ∧ Stmt.ReleasedStorePerforms

/-- Stream operations issue and bind channels: SeOperations; SeBind, each as its own definition says. Completes: seSstat,
seSstop, seSfree, seSflush, seSskip, seSseek, seSstart, seSgrp, seSwait, seSbind. -/
def Obligations.StreamOperations : Prop :=
  Stmt.SeOperations ∧ Stmt.SeBind

/-- Stream operations take effect, and items are read, arrive and are written: SeEffects; StreamItems, each as its own
definition says. Completes: streamReadIssue, streamItemArrival, streamOutputWrite. -/
def Obligations.StreamEffects : Prop :=
  Stmt.SeEffects ∧ Stmt.StreamItems

/-- Vector arithmetic lane by lane: VxFloatLanes; VxIntegersCompares, each as its own definition says. Completes: vxFadd,
vxFsub, vxFmul, vxFma, vxFmin, vxFmax, vxFabs, vxFneg, vxExp2, vxRcp, vxRsq, vxIadd, vxIsub, vxImul, vxCmpeq, vxCmplt,
vxCmple, vxSel, vxAnd, vxOr. -/
def Obligations.VectorArithmetic : Prop :=
  Stmt.VxFloatLanes ∧ Stmt.VxIntegersCompares

/-- Conversions, reductions and rearrangements: VcConversions; VcReduceRearrange, each as its own definition says.
Completes: vcCvt, vcPack, vcUnpk, vcPacks, vcMerge, vcShuf, vcBcast, vcRot, vcLane, vcZip, vcUnzip, vcRsum, vcRmax,
vcRmin. -/
def Obligations.VectorConversions : Prop :=
  Stmt.VcConversions ∧ Stmt.VcReduceRearrange

/-- Matrix operations and what lands in the array: MxArrayEffects; MxOperations, each as its own definition says. Completes:
mxMdset, mxFmtset, mxFmtget, mxFmtlvl, mxOvpop, mxOvstat, mxMxsave, mxMxload, mxAcczero, mxWzero. -/
def Obligations.MatrixOperations : Prop :=
  Stmt.MxArrayEffects ∧ Stmt.MxOperations

/-- Jumps, calls, loops, segments and fences: CuJumps; CuLoops; CuSegmentsFences, each as its own definition says.
Completes: cuJump, cuCall, cuRet, cuLoop, cuLpop, cuSegnext, cuFence. -/
def Obligations.ControlFlow : Prop :=
  Stmt.CuJumps ∧ Stmt.CuLoops ∧ Stmt.CuSegmentsFences

/-- Checkpoints, yield, exit, halt and spawn: CuCheckpoint; CuTeamControl, each as its own definition says. Completes:
cuCkpt, cuYield, cuExit, cuHalt, cuSpawn. -/
def Obligations.CheckpointsAndTeams : Prop :=
  Stmt.CuCheckpoint ∧ Stmt.CuTeamControl

/-- Taking a trap: what is saved, the mode, and where the core goes: TrapEntry; DoubleFault, each as its own definition
says. -/
def Obligations.TakingTraps : Prop :=
  Stmt.TrapEntry ∧ Stmt.DoubleFault

/-- Return from the handler, cause, and the privileged system registers: SyHandler; SySystemRegisters, each as its own
definition says. Completes: syRte, syTinfo, sySrd, sySwr. -/
def Obligations.SystemUnit : Prop :=
  Stmt.SyHandler ∧ Stmt.SySystemRegisters

/-- Notify registers and barriers as strands use them: SyNotify; SyBarriers, each as its own definition says. Completes:
syNwait, syNread, syNclr, syNsig, syHbar, syHbwait. -/
def Obligations.NotifyAndBarriers : Prop :=
  Stmt.SyNotify ∧ Stmt.SyBarriers

/-- Remote loads, stores, reductions and signals issue, or trap: RmTransfers; RmTraps, each as its own definition says.
Completes: rmRld, rmRst, rmMcast, rmXsig, rmBar. -/
def Obligations.RemoteTransfers : Prop :=
  Stmt.RmTransfers ∧ Stmt.RmTraps

/-- Groups, permutes and link queues of strands: RmGroups; RmFlows, each as its own definition says. Completes: rmRred,
rmGrpset, rmGrpclr, rmGrpretire, rmXperm, rmLqbind, rmLqfree. -/
def Obligations.RemoteGroupsAndFlows : Prop :=
  Stmt.RmGroups ∧ Stmt.RmFlows

/-- Group and permute packets at their home: GroupPackets; GenerationEnds; XpermSteps, each as its own definition says.
Completes: groupSetPacket, contribution, withdrawal, groupClearPacket, groupRetirePacket, completionNotice,
groupTimeout, xpermData, xpermCopy, xpermTimeout. -/
def Obligations.FullerPackets : Prop :=
  Stmt.GroupPackets ∧ Stmt.GenerationEnds ∧ Stmt.XpermSteps

/-- Expert commands and what the engines do with them: XpCommands; ExpertTables, each as its own definition says. Completes:
xpPageFetch, xpPageLock, xpPageUnlock, xpPageEvict, xpResarmRetry, xpResarmDrop, xpResq, xpTopk, xpWalk, xpBias,
xpCommandAccept, walkResume, expertFetchComplete, expertFetchFail, expertFetchTimeout. -/
def Obligations.ExpertEngines : Prop :=
  Stmt.XpCommands ∧ Stmt.ExpertTables

/-- Device registers: where a write lands and which writes are dropped: RegisterWrites; FirmwareWritesMemory, each as its
own definition says. Completes: registerWrite. -/
def Obligations.RegisterWrites : Prop :=
  Stmt.RegisterWrites ∧ Stmt.FirmwareWritesMemory

/-- The program store and what its checker accepts: ProgramStore; CheckerAccepts, each as its own definition says.
Completes: programStoreWrite, fePctlCheck, fePctlRelease, clrlost, programCheckComplete. -/
def Obligations.ProgramStore : Prop :=
  Stmt.ProgramStore ∧ Stmt.CheckerAccepts

/-- Invalidations and fault records: Invalidations; FaultRecords, each as its own definition says. Completes: xlInvEntry,
xlInvContext, xlInvAll, invalidationComplete, mtuResolveRetry, mtuResolveRefuse, faultRecordWrite. -/
def Obligations.InvalidationsAndFaults : Prop :=
  Stmt.Invalidations ∧ Stmt.FaultRecords

/-- Catalogue loads, wakes, barrier words and the notify gate: CatalogueLoad; WakesAndBarriers; NotifyGate, each as its own
definition says. Completes: xrCtlLoad, notifyWake, barrierNeedWrite, barrierArrive, notifyGate, notifyUngate. -/
def Obligations.SystemSetup : Prop :=
  Stmt.CatalogueLoad ∧ Stmt.WakesAndBarriers ∧ Stmt.NotifyGate

/-- What each bytecode does to its interpreter: LerantRegisters; LerantControl; LerantQueueWords, each as its own definition
says. Completes: ldpk, ldi, shin, lerantMov, lerantAdd, lerantSub, lerantAnd, lerantOr, ext, addi, lerantTime, setf, bz,
bnz, beq, bltu, rep, ldsc, stsc, ldpa. -/
def Obligations.LerantBytecodes : Prop :=
  Stmt.LerantRegisters ∧ Stmt.LerantControl ∧ Stmt.LerantQueueWords

/-- How packets end and how queues are polled: PacketEnds; QueuePolls, each as its own definition says. Completes:
lerantHalt, lerantRej, lerantStop, queuePoll. -/
def Obligations.PacketsAndPolls : Prop :=
  Stmt.PacketEnds ∧ Stmt.QueuePolls

/-- The run of a packet, bytecode by bytecode or native: PacketRuns; NativePackets, each as its own definition says.
Completes: packetRun. -/
def Obligations.PacketRuns : Prop :=
  Stmt.PacketRuns ∧ Stmt.NativePackets

/-- The six emits: EmitsSubmit; LaunchAndAttest, each as its own definition says. Completes: emitTransfer, emitPinControl,
emitResynchronise, emitCommitMinVersion, emitLaunch, emitAttest, rootCounterWaitEnd. -/
def Obligations.Emits : Prop :=
  Stmt.EmitsSubmit ∧ Stmt.LaunchAndAttest

/-- Dependences and the scoreboards: RequestsEnter; RequestDependences, each as its own definition says. Completes:
requestEnterScoreboard. -/
def Obligations.RequestsEnter : Prop :=
  Stmt.RequestsEnter ∧ Stmt.RequestDependences

/-- Transfers and retirement: RequestsRetire; TransfersRun, each as its own definition says. Completes: requestRetire,
transferRun. -/
def Obligations.RequestsEnd : Prop :=
  Stmt.RequestsRetire ∧ Stmt.TransfersRun

/-- Pins are created, released and moved: PinRequests; PartitionsMove, each as its own definition says. Completes:
pinCreate, pinRelease, partitionMoveComplete. -/
def Obligations.PinsAndPartitions : Prop :=
  Stmt.PinRequests ∧ Stmt.PartitionsMove

/-- Aging and placement: ClassesAge; TeamsArePlaced, each as its own definition says. Completes: classAging, teamPlacement. -/
def Obligations.Dispatch : Prop :=
  Stmt.ClassesAge ∧ Stmt.TeamsArePlaced

/-- Fills, segment copies and the first bundle: InputStreamsFill; TeamsStart; SegmentsCopy, each as its own definition says.
Completes: inputStreamFill, fillParkTimeout, teamFirstIssue, gangStart, segmentCopyComplete. -/
def Obligations.TeamsBegin : Prop :=
  Stmt.InputStreamsFill ∧ Stmt.TeamsStart ∧ Stmt.SegmentsCopy

/-- Forced leaves, saves, readiness and restores: ForcedLeaves; TeamsSaveAndRestore, each as its own definition says.
Completes: countdownExpiry, parkSwitch, teamSave, teamReady, teamRestore. -/
def Obligations.TeamsLeaveAndReturn : Prop :=
  Stmt.ForcedLeaves ∧ Stmt.TeamsSaveAndRestore

/-- Moves, immediate moves and condition trees as steps: MovesAsSteps; ConditionTrees, each as its own definition says.
Completes: move, immediateMove, conditionTree. -/
def Obligations.MovesAndTrees : Prop :=
  Stmt.MovesAsSteps ∧ Stmt.ConditionTrees

/-- The fetch and the issue of a bundle: BundlesIssue; Fetches, each as its own definition says. Completes: bundleIssue. -/
def Obligations.BundlesIssue : Prop :=
  Stmt.BundlesIssue ∧ Stmt.Fetches

/-- Host accesses to configuration, registers and memory: ConfigAndRegisters; HostMemory, each as its own definition says.
Completes: configRequest, bar0Access, bar2Access, bar4Access, cxlMemAccess. -/
def Obligations.HostAccesses : Prop :=
  Stmt.ConfigAndRegisters ∧ Stmt.HostMemory
end

