-- ==== Sys2Proof/Laws/Tab.lean ====
section
/-!
SUPPORT. Laws of sparse tables: a read after a write, and the canonical form that every write keeps.
-/
namespace Sys2Proof.Laws

open Sys2Proof.Machine

variable {α : Type}

@[simp] theorem tab_get_nil (d : α) (k : Nat) : Tab.get d ([] : Tab α) k = d := rfl

theorem tab_get_cons (d : α) (j : Nat) (v : α) (r : Tab α) (k : Nat) :
    Tab.get d ((j, v) :: r) k = if j = k then v else Tab.get d r k := rfl

/-- A read after an entry is put. -/
theorem tab_get_put (d : α) (k : Nat) (v : α) (t : Tab α) (j : Nat) :
    Tab.get d (Tab.put k v t) j = if j = k then v else Tab.get d t j := by
  induction t with
  | nil => simp [Tab.put, Tab.get, eq_comm]
  | cons e r ih =>
    obtain ⟨i, w⟩ := e
    by_cases h1 : k < i
    · rw [Tab.put, if_pos h1, tab_get_cons]; simp [eq_comm]
    · by_cases h2 : k = i
      · subst h2; rw [Tab.put, if_neg h1, if_pos rfl, tab_get_cons, tab_get_cons]
        simp only [eq_comm (a := k) (b := j)]; split <;> rfl
      · rw [Tab.put, if_neg h1, if_neg h2, tab_get_cons, ih, tab_get_cons]
        by_cases h : i = j
        · subst h; simp [Ne.symm h2]
        · simp [h]

/-- A read after an index is dropped. -/
theorem tab_get_drop (d : α) (k : Nat) (t : Tab α) (j : Nat) :
    Tab.get d (Tab.drop k t) j = if j = k then d else Tab.get d t j := by
  induction t with
  | nil => simp [Tab.drop]
  | cons e r ih =>
    obtain ⟨i, w⟩ := e
    by_cases h1 : i = k
    · subst h1; rw [Tab.drop, if_pos rfl, ih, tab_get_cons]
      simp only [eq_comm (a := i) (b := j)]; split <;> rfl
    · rw [Tab.drop, if_neg h1, tab_get_cons, ih, tab_get_cons]
      by_cases h : i = j
      · subst h; simp [h1]
      · simp [h]

/-- A read of the entries that a predicate on indices keeps. -/
theorem tab_get_keep (d : α) (p : Nat → Bool) (t : Tab α) (j : Nat) :
    Tab.get d (Tab.keep p t) j = if p j then Tab.get d t j else d := by
  induction t with
  | nil => simp [Tab.keep]
  | cons e r ih =>
    obtain ⟨i, w⟩ := e
    unfold Tab.keep at ih ⊢
    by_cases hp : p i
    · rw [List.filter_cons_of_pos (by simpa using hp), tab_get_cons, tab_get_cons, ih]
      by_cases h : i = j
      · subst h; simp [hp]
      · simp [h]
    · rw [List.filter_cons_of_neg (by simpa using hp), ih, tab_get_cons]
      by_cases h : i = j
      · subst h; simp [hp]
      · simp [h]

/-! ### The canonical form -/

theorem tab_sorted_mono (m n : Nat) (h : m ≤ n) (t : Tab α) (hs : Tab.sortedFrom n t = true) : Tab.sortedFrom m t = true := by
  cases t with
  | nil => rfl
  | cons e r =>
    obtain ⟨i, w⟩ := e
    simp only [Tab.sortedFrom, Bool.and_eq_true, decide_eq_true_eq] at hs ⊢
    exact ⟨le_trans h hs.1, hs.2⟩

theorem tab_sorted_put (n k : Nat) (v : α) (t : Tab α) (hk : n ≤ k) (hs : Tab.sortedFrom n t = true) :
    Tab.sortedFrom n (Tab.put k v t) = true := by
  induction t generalizing n with
  | nil => simp [Tab.put, Tab.sortedFrom, hk]
  | cons e r ih =>
    obtain ⟨i, w⟩ := e
    simp only [Tab.sortedFrom, Bool.and_eq_true, decide_eq_true_eq] at hs
    unfold Tab.put
    split_ifs with h1 h2
    · simp [Tab.sortedFrom, hk, hs.2]; omega
    · subst h2; simp [Tab.sortedFrom, hk, hs.2]
    · simp only [Tab.sortedFrom, Bool.and_eq_true, decide_eq_true_eq]
      exact ⟨hs.1, ih (i + 1) (by omega) hs.2⟩

theorem tab_sorted_drop (n k : Nat) (t : Tab α) (hs : Tab.sortedFrom n t = true) : Tab.sortedFrom n (Tab.drop k t) = true := by
  induction t generalizing n with
  | nil => rfl
  | cons e r ih =>
    obtain ⟨i, w⟩ := e
    simp only [Tab.sortedFrom, Bool.and_eq_true, decide_eq_true_eq] at hs
    unfold Tab.drop
    split_ifs with h1
    · exact tab_sorted_mono n (i + 1) (by omega) _ (ih (i + 1) hs.2)
    · simp only [Tab.sortedFrom, Bool.and_eq_true, decide_eq_true_eq]
      exact ⟨hs.1, ih (i + 1) hs.2⟩

theorem tab_all_put (p : Nat × α → Bool) (k : Nat) (v : α) (t : Tab α) (hv : p (k, v) = true) (ht : t.all p = true) :
    (Tab.put k v t).all p = true := by
  induction t with
  | nil => simp [Tab.put, hv]
  | cons e r ih =>
    obtain ⟨i, w⟩ := e
    simp only [List.all_cons, Bool.and_eq_true] at ht
    unfold Tab.put
    split_ifs with h1 h2
    · simp only [List.all_cons, Bool.and_eq_true]; exact ⟨hv, ht⟩
    · simp only [List.all_cons, Bool.and_eq_true]; exact ⟨hv, ht.2⟩
    · simp only [List.all_cons, Bool.and_eq_true]; exact ⟨ht.1, ih ht.2⟩

theorem tab_all_drop (p : Nat × α → Bool) (k : Nat) (t : Tab α) (ht : t.all p = true) : (Tab.drop k t).all p = true := by
  induction t with
  | nil => rfl
  | cons e r ih =>
    obtain ⟨i, w⟩ := e
    simp only [List.all_cons, Bool.and_eq_true] at ht
    unfold Tab.drop
    split_ifs with h1
    · exact ih ht.2
    · simp only [List.all_cons, Bool.and_eq_true]; exact ⟨ht.1, ih ht.2⟩

variable [DecidableEq α]

/-- A read after a write: the value written at its index, and what stood there anywhere else. -/
@[simp] theorem tab_get_set (d : α) (k : Nat) (v : α) (t : Tab α) (j : Nat) :
    Tab.get d (Tab.set d k v t) j = if j = k then v else Tab.get d t j := by
  unfold Tab.set
  by_cases h1 : v = d
  · rw [if_pos h1, tab_get_drop, h1]
  · rw [if_neg h1, tab_get_put]

theorem tab_get_set_self (d : α) (k : Nat) (v : α) (t : Tab α) : Tab.get d (Tab.set d k v t) k = v := by simp

theorem tab_get_set_ne (d : α) (k : Nat) (v : α) (t : Tab α) (j : Nat) (h : j ≠ k) :
    Tab.get d (Tab.set d k v t) j = Tab.get d t j := by simp [h]

/-- A write keeps the canonical form. -/
theorem tab_wf_set (d : α) (k : Nat) (v : α) (t : Tab α) (h : Tab.wf d t = true) : Tab.wf d (Tab.set d k v t) = true := by
  simp only [Tab.wf, Bool.and_eq_true] at h ⊢
  unfold Tab.set
  split_ifs with hv
  · exact ⟨tab_sorted_drop 0 k t h.1, tab_all_drop _ k t h.2⟩
  · exact ⟨tab_sorted_put 0 k v t (Nat.zero_le k) h.1, tab_all_put _ k v t (by simpa using hv) h.2⟩

end Sys2Proof.Laws
end

