-- ==== Sys2Proof/Laws/Mem.lean ====
section
/-!
SUPPORT. Laws of memory: every memory operation keeps the canonical form, reset memory has it, and a byte reads what was
last written to it.
-/
namespace Sys2Proof.Laws

open Sys2Proof.Machine

/-- A byte after a write of a byte. -/
theorem readByte_writeByte (m : List Host.Cell) (b c : Nat) (v : Byte) :
    readByte (writeByte m b v) c = if c = b then v else readByte m c := tab_get_set 0 b v m c

theorem wf_writeByte (m : List Host.Cell) (b : Nat) (v : Byte) (h : Memory.wf m = true) :
    Memory.wf (writeByte m b v) = true := tab_wf_set 0 b v m h

theorem wf_writeBytes (n : Nat) (b x : Nat) (m : List Host.Cell) (h : Memory.wf m = true) :
    Memory.wf (writeBytes b x n m) = true := by
  induction n generalizing b x m with
  | zero => exact h
  | succ n ih => exact ih (b + 1) (x / 256) _ (wf_writeByte m b _ h)

/-- A byte outside the bytes written reads as before. -/
theorem readByte_writeBytes_ne (n : Nat) (b x : Nat) (m : List Host.Cell) (c : Nat) (h : c < b ∨ b + n ≤ c) :
    readByte (writeBytes b x n m) c = readByte m c := by
  induction n generalizing b x m with
  | zero => rfl
  | succ n ih =>
    have h1 : c < b + 1 ∨ b + 1 + n ≤ c := by omega
    have h2 : c ≠ b := by omega
    rw [show writeBytes b x (n + 1) m = writeBytes (b + 1) (x / 256) n (writeByte m b (BitVec.ofNat 8 x)) from rfl,
      ih (b + 1) (x / 256) _ h1, readByte_writeByte, if_neg h2]

/-- Byte `k` of the bytes written reads its byte of the value. -/
theorem readByte_writeBytes (n : Nat) (b x : Nat) (m : List Host.Cell) (k : Nat) (h : k < n) :
    readByte (writeBytes b x n m) (b + k) = BitVec.ofNat 8 (x / 256 ^ k) := by
  induction n generalizing b x m k with
  | zero => omega
  | succ n ih =>
    rw [show writeBytes b x (n + 1) m = writeBytes (b + 1) (x / 256) n (writeByte m b (BitVec.ofNat 8 x)) from rfl]
    cases k with
    | zero => rw [readByte_writeBytes_ne _ _ _ _ _ (by omega), readByte_writeByte]; simp
    | succ k =>
      rw [show b + (k + 1) = b + 1 + k by omega, ih (b + 1) (x / 256) _ k (by omega), Nat.div_div_eq_div_mul, Nat.pow_succ,
        Nat.mul_comm]

theorem wf_hbmPut (m : List Host.Cell) (p n v : Nat) (h : Memory.wf m = true) : Memory.wf (hbmPut m p n v) = true :=
  wf_writeBytes _ _ _ m h

/-- A byte that the bits written do not touch reads as before. -/
theorem readByte_hbmPut_ne (m : List Host.Cell) (p n v c : Nat) (h : c < p / 8 ∨ p / 8 + (p % 8 + n + 7) / 8 ≤ c) :
    readByte (hbmPut m p n v) c = readByte m c := readByte_writeBytes_ne _ _ _ m c h

@[simp] theorem backInvalidate_hbm (s : State) (p : Nat) : (backInvalidate s p).hbm = s.hbm := by
  unfold backInvalidate; split <;> rfl

/-- What a store at its controller can do: nothing, when it is not whole bytes and its sector is uncorrectable; else the bits
are written and memory keeps its canonical form. -/
theorem storePart_cases (s : State) (p n v : Nat) :
    (storePart s p n v = (s, false)) ∨
      ((storePart s p n v).2 = true ∧ (storePart s p n v).1.hbm = hbmPut s.hbm p n v) := by
  unfold storePart
  by_cases h : (!(p % 8 == 0 && n % 8 == 0) && s.hbmBad.contains (p / 256)) = true
  · exact .inl (if_pos h)
  · right; dsimp only; rw [if_neg h]; simp

theorem wf_storePart (s : State) (p n v : Nat) (h : Memory.wf s.hbm = true) : Memory.wf (storePart s p n v).1.hbm = true := by
  rcases storePart_cases s p n v with e | ⟨_, e⟩
  · rw [e]; exact h
  · rw [e]; exact wf_hbmPut _ _ _ _ h

theorem wf_physPut (s : State) (p : Nat) (v : Word) (h : Memory.wf s.hbm = true) : Memory.wf (physPut s p v).hbm = true :=
  wf_storePart s p 64 v.toNat h

/-- Reset memory has the canonical form: it lists nothing. -/
theorem reset_hbm : State.reset.hbm = [] := rfl

end Sys2Proof.Laws
end

