-- ==== Sys2Proof/Laws/Access.lean ====
section
/-!
SUPPORT. What a translation and an engine's read or write can do to the state: free values are drawn, caches are filled,
accessed bits and the written bytes change memory, and nothing else changes; memory keeps its canonical form.
-/
namespace Sys2Proof.Laws

open Sys2Proof.Machine

/-- `u` is `s` but for free values drawn, cached translations, memory and the host's lines; memory stays canonical. -/
structure Touched (s u : State) : Prop where
  eq : u = { s with fresh := u.fresh, xl := { s.xl with cache := u.xl.cache }, hbm := u.hbm, hbmBad := u.hbmBad, hl := u.hl }
  wf : Memory.wf s.hbm = true → Memory.wf u.hbm = true

namespace Touched

theorem refl (s : State) : Touched s s := ⟨rfl, id⟩

theorem trans {s t u : State} (h1 : Touched s t) (h2 : Touched t u) : Touched s u :=
  ⟨by rw [h2.eq, h1.eq], fun h => h2.wf (h1.wf h)⟩

variable {s u : State} (h : Touched s u)
include h

theorem turns : u.turns = s.turns := by rw [h.eq]
theorem tick : u.tick = s.tick := by rw [h.eq]
theorem cur : u.cur = s.cur := by rw [h.eq]
theorem cores : u.cores = s.cores := by rw [h.eq]
theorem fe : u.fe = s.fe := by rw [h.eq]
theorem disp : u.disp = s.disp := by rw [h.eq]
theorem fab : u.fab = s.fab := by rw [h.eq]
theorem ful : u.ful = s.ful := by rw [h.eq]
theorem xp : u.xp = s.xp := by rw [h.eq]
theorem sync : u.sync = s.sync := by rw [h.eq]
theorem firm : u.firm = s.firm := by rw [h.eq]
theorem pow : u.pow = s.pow := by rw [h.eq]
theorem parks : u.xl.parks = s.xl.parks := by rw [h.eq]
theorem mtu : u.xl.mtu = s.xl.mtu := by rw [h.eq]
theorem core (c : Nat) : u.core c = s.core c := by rw [State.core, State.core, h.cores]
theorem queue (q : Nat) : u.queue q = s.queue q := by rw [State.queue, State.queue, h.fe]
theorem interp (k : Nat) : u.interp k = s.interp k := by rw [State.interp, State.interp, h.fe]
theorem team (t : Nat) : u.team t = s.team t := by rw [State.team, State.team, h.fe]
theorem req (t : Nat) : u.req t = s.req t := by rw [State.req, State.req, h.fe]
theorem pin (t : Nat) : u.pin t = s.pin t := by rw [State.pin, State.pin, h.fe]

end Touched

theorem touched_draw (s : State) : Touched s (draw s).1 := ⟨rfl, id⟩

theorem touched_cachePut (s : State) (e : CacheEnt) : Touched s (cachePut s e) := ⟨rfl, id⟩

theorem backInvalidate_eq (s : State) (p : Nat) : backInvalidate s p = { s with hl := (backInvalidate s p).hl } := by
  unfold backInvalidate; split <;> rfl

theorem touched_storePart (s : State) (p n v : Nat) : Touched s (storePart s p n v).1 := by
  refine ⟨?_, wf_storePart s p n v⟩
  unfold storePart
  by_cases h : (!(p % 8 == 0 && n % 8 == 0) && s.hbmBad.contains (p / 256)) = true
  · dsimp only; rw [if_pos h]
  · dsimp only; rw [if_neg h, backInvalidate_eq]

theorem touched_touchLeaf (s : State) (p : Nat) (e : Word) (wr : Bool) : Touched s (touchLeaf s p e wr) := by
  unfold touchLeaf
  extract_lets need
  generalize need = n
  split
  · exact .refl s
  · split
    · exact touched_storePart _ _ _ _
    · exact .refl s

theorem touched_viaCache (s : State) (kind ctx key : Nat) (now : List Word) : Touched s (viaCache s kind ctx key now).1 := by
  unfold viaCache
  split
  · exact .refl s
  · split
    · exact .refl s
    · dsimp only; split <;> exact touched_draw s

theorem touched_descriptor (s : State) (c : Nat) : Touched s (descriptor s c).1 := by
  unfold descriptor
  split
  · exact .refl s
  · dsimp only
    split
    · exact (touched_viaCache _ _ _ _ _).trans (touched_cachePut _ _)
    · exact touched_viaCache _ _ _ _ _

theorem touched_readPt (s : State) (c a l p : Nat) : Touched s (readPt s c a l p).1 := by
  unfold readPt
  dsimp only
  split
  · exact .refl s
  · split
    · split
      · exact .refl s
      · split <;> exact touched_draw s
    · exact .refl s

theorem touched_walkPt (n : Nat) (s : State) (c a t l : Nat) : Touched s (walkPt s c a t l n).1 := by
  induction n generalizing s t l with
  | zero => exact .refl s
  | succ n ih =>
    unfold walkPt
    dsimp only
    have h := touched_readPt s c a l (t + 64 * ptIndex a l)
    generalize readPt s c a l (t + 64 * ptIndex a l) = r at h
    obtain ⟨s1, w⟩ := r
    cases w with
    | none => exact h
    | some e =>
      dsimp only
      split
      · exact h
      · split
        · exact h
        · split
          · exact h.trans (ih s1 _ _)
          · exact h

theorem touched_findLeaf (s : State) (d : Desc) (c a g : Nat) (spec : Bool) : Touched s (findLeaf s d c a g spec).1 := by
  unfold findLeaf
  dsimp only
  have hw := touched_walkPt 4 s c a (d.root * 2 ^ 18) 0
  generalize walkPt s c a (d.root * 2 ^ 18) 0 4 = r at hw
  obtain ⟨s1, w, ps⟩ := r
  generalize (findCache s 0 c (homeMtu a) a).bind heldLeaf = held
  split
  · cases held
    · exact .refl s
    · exact touched_draw s
  · cases held with
    | none => exact hw
    | some h =>
      dsimp only
      split
      · exact hw
      · exact hw.trans (touched_draw s1)

theorem touched_cachePuts (es : List CacheEnt) (s : State) : Touched s (es.foldl cachePut s) := by
  induction es generalizing s with
  | nil => exact .refl s
  | cons e es ih => exact (touched_cachePut s e).trans (ih _)

theorem touched_pageXlate (s : State) (d : Desc) (c a g kind : Nat) (spec : Bool) :
    Touched s (pageXlate s d c a g kind spec).1 := by
  unfold pageXlate
  have h1 := touched_findLeaf s d c a g spec
  generalize findLeaf s d c a g spec = r at h1
  obtain ⟨s1, w⟩ := r
  match w, h1 with
  | none, h1 => exact h1
  | some (.absent l, _), h1 => exact h1
  | some (.bad code, _), h1 => exact h1
  | some (.leaf e l p, ps), h1 =>
    refine h1.trans ?_
    dsimp only
    split
    · exact .refl _
    · split
      · split
        · exact touched_cachePuts _ _
        · exact .refl _
      · exact (touched_touchLeaf _ _ _ _).trans (touched_cachePuts _ _)

/-- What a translation can do to the state (R110 to R117). -/
theorem touched_translate (s : State) (c a g kind : Nat) (spec : Bool) : Touched s (translate s c a g kind spec).1 := by
  unfold Machine.translate
  have hd := touched_descriptor s c
  split
  · exact .refl s
  · generalize descriptor s c = r at hd
    obtain ⟨s1, d⟩ := r
    cases d with
    | none => exact hd
    | some d =>
      dsimp only
      split
      · split
        · exact hd
        · split <;> exact hd
      · exact hd.trans (touched_pageXlate _ _ _ _ _ _ _)

/-- What a look at the window table can do (R123). -/
theorem touched_window (s : State) (c w : Nat) : Touched s (window s c w).1 := by
  unfold window
  have hd := touched_descriptor s c
  generalize descriptor s c = r at hd
  obtain ⟨s1, d⟩ := r
  cases d with
  | none => exact hd
  | some d =>
    dsimp only
    split
    · exact hd
    · split
      · exact (hd.trans (touched_viaCache _ _ _ _ _)).trans (touched_cachePut _ _)
      · exact hd.trans (touched_viaCache _ _ _ _ _)

/-! ### Reads and writes by engines -/

/-- `u` is `s` but for what an engine's access changes: what a translation touches, parked accesses, and the parts that have
ended. -/
structure Worked (s u : State) : Prop where
  eq : u = { s with
    fresh := u.fresh, hbm := u.hbm, hbmBad := u.hbmBad, hl := u.hl,
    xl := { s.xl with cache := u.xl.cache, parks := u.xl.parks, parts := u.xl.parts } }
  wf : Memory.wf s.hbm = true → Memory.wf u.hbm = true

namespace Worked

theorem refl (s : State) : Worked s s := ⟨rfl, id⟩

theorem trans {s t u : State} (h1 : Worked s t) (h2 : Worked t u) : Worked s u :=
  ⟨by rw [h2.eq, h1.eq], fun h => h2.wf (h1.wf h)⟩

theorem of_touched {s u : State} (h : Touched s u) : Worked s u := ⟨by rw [h.eq], h.wf⟩

end Worked

theorem worked_addPark (s : State) (c a g kind l : Nat) (w : Who) : Worked s ((addPark s c a g kind l w).getD s) := by
  unfold addPark
  dsimp only
  split
  · exact .refl s
  · exact ⟨rfl, id⟩

theorem worked_keepParts (s : State) (w : Who) (wr : Bool) (ps : List (Nat × Nat × Option PartEnd)) :
    Worked s (keepParts s w wr ps) := ⟨rfl, id⟩

theorem worked_clearParts (s : State) (w : Who) : Worked s (clearParts s w) := ⟨rfl, id⟩

theorem worked_readPart (s : State) (w : Who) (c g : Nat) (mine : List Part) (lo n : Nat) :
    Worked s (readPart s w c g mine lo n).1 := by
  unfold readPart
  split
  · exact .refl s
  · split
    · exact .refl s
    · have h := Worked.of_touched (touched_translate s c lo g 0 false)
      generalize translate s c lo g 0 false = r at h
      obtain ⟨s1, x⟩ := r
      cases x with
      | err code => exact h
      | park l => exact h.trans (worked_addPark _ _ _ _ _ _ _)
      | ok p => exact h

theorem worked_writePart (s : State) (w : Who) (c g : Nat) (mine : List Part) (lo n v : Nat) :
    Worked s (writePart s w c g mine lo n v).1 := by
  unfold writePart
  split
  · exact .refl s
  · split
    · exact .refl s
    · have h := Worked.of_touched (touched_translate s c lo g (storeKind lo n) false)
      generalize translate s c lo g (storeKind lo n) false = r at h
      obtain ⟨s1, x⟩ := r
      cases x with
      | err code => exact h
      | park l => exact h.trans (worked_addPark _ _ _ _ _ _ _)
      | ok p =>
        dsimp only
        have hs := Worked.of_touched (touched_storePart s1 p n v)
        generalize storePart s1 p n v = r at hs
        obtain ⟨s2, b⟩ := r
        cases b <;> exact h.trans hs

theorem worked_readGo (ks : List Nat) (s : State) (w : Who) (c g a n : Nat) (mine : List Part) :
    Worked s (readGo s w c g a n mine ks).1 := by
  induction ks generalizing s with
  | nil => exact .refl s
  | cons k ks ih =>
    unfold readGo
    dsimp only
    have h := worked_readPart s w c g mine (sectorPart a n k).1 (sectorPart a n k).2
    generalize readPart s w c g mine (sectorPart a n k).1 (sectorPart a n k).2 = r at h
    obtain ⟨s1, x⟩ := r
    match x, h with
    | some (.err code), h => exact h
    | some (.ok v), h => exact h.trans (ih s1)
    | some .bad, h => exact h.trans (ih s1)
    | none, h => exact h.trans (ih s1)

theorem worked_writeGo (ks : List Nat) (s : State) (w : Who) (c g a n v : Nat) (mine : List Part) :
    Worked s (writeGo s w c g a n v mine ks).1 := by
  induction ks generalizing s with
  | nil => exact .refl s
  | cons k ks ih =>
    unfold writeGo
    exact (worked_writePart _ _ _ _ _ _ _ _).trans (ih _)

/-- What an engine's read can do (R39, R118). -/
theorem worked_whoRead (s : State) (w : Who) (c g a n : Nat) : Worked s (whoRead s w c g a n).1 := by
  unfold whoRead
  extract_lets mine
  split
  · exact .refl s
  · split
    · exact .refl s
    · have h := worked_readGo (sectors a n) s w c g a n mine
      generalize readGo s w c g a n mine (sectors a n) = r at h
      obtain ⟨s1, ps⟩ := r
      dsimp only
      split
      · exact h.trans (worked_keepParts _ _ _ _)
      · split
        · exact h
        · exact h.trans (worked_keepParts _ _ _ _)

/-- What an engine's write can do: bytes of memory, beside what a read can do (R39, R118). -/
theorem worked_whoWrite (s : State) (w : Who) (c g a n v : Nat) : Worked s (whoWrite s w c g a n v).1 := by
  unfold whoWrite
  extract_lets mine
  split
  · exact .refl s
  · exact (worked_writeGo _ _ _ _ _ _ _ _ _).trans (worked_keepParts _ _ _ _)

/-! ### Error records -/

/-- `u` is `s` but for what a record in the error log or an error area changes: the log's pointers and waiting records, the queues,
messages to the host, and what its write touches. -/
structure Logged (s u : State) : Prop where
  eq : u = { s with
    fresh := u.fresh, hbm := u.hbm, hbmBad := u.hbmBad, hl := u.hl,
    xl := { s.xl with cache := u.xl.cache, parks := u.xl.parks, parts := u.xl.parts }
    fe := { s.fe with elogWp := u.fe.elogWp, elogLost := u.fe.elogLost, elogLate := u.fe.elogLate, q := u.fe.q } }
  wf : Memory.wf s.hbm = true → Memory.wf u.hbm = true

namespace Logged

theorem refl (s : State) : Logged s s := ⟨rfl, id⟩

theorem trans {s t u : State} (h1 : Logged s t) (h2 : Logged t u) : Logged s u :=
  ⟨by rw [h2.eq, h1.eq], fun h => h2.wf (h1.wf h)⟩

theorem of_worked {s u : State} (h : Worked s u) : Logged s u := ⟨by rw [h.eq], h.wf⟩

variable {s u : State} (h : Logged s u)
include h

theorem turns : u.turns = s.turns := by rw [h.eq]
theorem cur : u.cur = s.cur := by rw [h.eq]
theorem cores : u.cores = s.cores := by rw [h.eq]
theorem disp : u.disp = s.disp := by rw [h.eq]
theorem fab : u.fab = s.fab := by rw [h.eq]
theorem ful : u.ful = s.ful := by rw [h.eq]
theorem xp : u.xp = s.xp := by rw [h.eq]
theorem sync : u.sync = s.sync := by rw [h.eq]
theorem firm : u.firm = s.firm := by rw [h.eq]
theorem pow : u.pow = s.pow := by rw [h.eq]
theorem mtu : u.xl.mtu = s.xl.mtu := by rw [h.eq]
theorem core (c : Nat) : u.core c = s.core c := by rw [State.core, State.core, h.cores]
theorem interp (k : Nat) : u.interp k = s.interp k := by rw [State.interp, State.interp, h.eq]
theorem team (t : Nat) : u.team t = s.team t := by rw [State.team, State.team, h.eq]
theorem req (t : Nat) : u.req t = s.req t := by rw [State.req, State.req, h.eq]

end Logged

theorem logged_tellHost (s : State) (m : HostMsg) : Logged s (tellHost s m) := ⟨rfl, id⟩

theorem logged_clearParts (s : State) (w : Who) : Logged s (clearParts s w) := .of_worked (worked_clearParts s w)

theorem logged_writeLog (rs : List Nat) (s : State) : Logged s (writeLog s rs) := by
  induction rs generalizing s with
  | nil => exact ⟨rfl, id⟩
  | cons r rs ih =>
    have h := Logged.of_worked (worked_whoWrite s .elog 0 gHost (s.fe.elogBase + 256 * s.fe.elogWp) 256 r)
    unfold writeLog
    generalize whoWrite s .elog 0 gHost (s.fe.elogBase + 256 * s.fe.elogWp) 256 r = q at h
    obtain ⟨s1, v, e, w, bs⟩ := q
    cases w
    · dsimp only
      refine (h.trans (logged_clearParts s1 .elog)).trans (.trans ?_ (ih _))
      exact ⟨rfl, id⟩
    · exact h.trans ⟨rfl, id⟩

/-- What a record in the error log can do (R72). -/
theorem logged_logErr (s : State) (code a ctx kind num : Nat) (d : Word) : Logged s (logErr s code a ctx kind num d) := by
  unfold logErr
  split
  · exact ⟨rfl, id⟩
  · exact logged_writeLog _ _

/-- A record of one queue leaves every other queue as it is. -/
theorem logged_setQueue (s : State) (q : Nat) (x : Queue) : Logged s (s.setQueue q x) := ⟨rfl, id⟩

theorem logged_writeErrs (rs : List Nat) (s : State) (q : Nat) : Logged s (writeErrs s q rs) := by
  induction rs generalizing s with
  | nil => exact logged_setQueue _ _ _
  | cons r rs ih =>
    have h := Logged.of_worked
      (worked_whoWrite s (.qerr q) (s.queue q).ctx gHost ((s.queue q).err + 256 * ((s.queue q).errseq % 64)) 256 r)
    unfold writeErrs
    extract_lets x at_
    change Logged s (whoWrite s (.qerr q) x.ctx gHost at_ 256 r).1 at h
    generalize whoWrite s (.qerr q) x.ctx gHost at_ 256 r = p at h
    obtain ⟨s1, v, e, w, bs⟩ := p
    cases w
    · cases e with
      | none => exact (h.trans ((logged_clearParts s1 (.qerr q)).trans (logged_setQueue _ _ _))).trans (ih _)
      | some e =>
        refine (h.trans (logged_clearParts s1 (.qerr q))).trans (.trans ?_ (ih _))
        split
        · exact (logged_setQueue _ _ _).trans (logged_logErr _ _ _ _ _ _ _)
        · exact .refl _
    · exact h.trans (logged_setQueue _ _ _)

/-- What a record in a queue's error area can do (R62, R72). -/
theorem logged_queueErr (s : State) (q code a kind num : Nat) (d : Word) : Logged s (queueErr s q code a kind num d) :=
  logged_writeErrs _ _ _

theorem logged_queueFault (s : State) (q code a : Nat) : Logged s (queueFault s q code a) := by
  unfold queueFault
  dsimp only
  split
  · exact ((logged_setQueue _ _ _).trans (logged_logErr _ _ _ _ _ _ _)).trans (logged_queueErr _ _ _ _ _ _ _)
  · exact .refl s

theorem logged_logCore (s : State) (c code a : Nat) : Logged s (logCore s c code a) := logged_logErr _ _ _ _ _ _ _

theorem logged_logCoreQ (s : State) (c code a : Nat) : Logged s (logCoreQ s c code a) :=
  (logged_logCore s c code a).trans (logged_queueErr _ _ _ _ _ _ _)

end Sys2Proof.Laws
end

