-- ==== Sys2Proof/Laws/State.lean ====
section
/-!
SUPPORT. One lemma per field per update of the state, of a core and of its registers: what each update changes, and that it
changes nothing else.
-/
namespace Sys2Proof.Laws

open Sys2Proof.Machine

@[simp] theorem setCore_turns (s : State) (c : Nat) (x : Core) :
    (s.setCore c x).turns = s.turns := rfl
@[simp] theorem setCore_tick (s : State) (c : Nat) (x : Core) :
    (s.setCore c x).tick = s.tick := rfl
@[simp] theorem setCore_cur (s : State) (c : Nat) (x : Core) :
    (s.setCore c x).cur = s.cur := rfl
@[simp] theorem setCore_fresh (s : State) (c : Nat) (x : Core) :
    (s.setCore c x).fresh = s.fresh := rfl
@[simp] theorem setCore_fe (s : State) (c : Nat) (x : Core) :
    (s.setCore c x).fe = s.fe := rfl
@[simp] theorem setCore_disp (s : State) (c : Nat) (x : Core) :
    (s.setCore c x).disp = s.disp := rfl
@[simp] theorem setCore_xl (s : State) (c : Nat) (x : Core) :
    (s.setCore c x).xl = s.xl := rfl
@[simp] theorem setCore_hbm (s : State) (c : Nat) (x : Core) :
    (s.setCore c x).hbm = s.hbm := rfl
@[simp] theorem setCore_hbmBad (s : State) (c : Nat) (x : Core) :
    (s.setCore c x).hbmBad = s.hbmBad := rfl
@[simp] theorem setCore_fab (s : State) (c : Nat) (x : Core) :
    (s.setCore c x).fab = s.fab := rfl
@[simp] theorem setCore_ful (s : State) (c : Nat) (x : Core) :
    (s.setCore c x).ful = s.ful := rfl
@[simp] theorem setCore_xp (s : State) (c : Nat) (x : Core) :
    (s.setCore c x).xp = s.xp := rfl
@[simp] theorem setCore_sync (s : State) (c : Nat) (x : Core) :
    (s.setCore c x).sync = s.sync := rfl
@[simp] theorem setCore_hl (s : State) (c : Nat) (x : Core) :
    (s.setCore c x).hl = s.hl := rfl
@[simp] theorem setCore_firm (s : State) (c : Nat) (x : Core) :
    (s.setCore c x).firm = s.firm := rfl
@[simp] theorem setCore_pow (s : State) (c : Nat) (x : Core) :
    (s.setCore c x).pow = s.pow := rfl
@[simp] theorem setCore_queue_of (s : State) (c : Nat) (x : Core) (k : Nat) :
    (s.setCore c x).queue k = s.queue k := rfl
@[simp] theorem setCore_interp_of (s : State) (c : Nat) (x : Core) (k : Nat) :
    (s.setCore c x).interp k = s.interp k := rfl
@[simp] theorem setCore_team_of (s : State) (c : Nat) (x : Core) (k : Nat) :
    (s.setCore c x).team k = s.team k := rfl
@[simp] theorem setCore_pin_of (s : State) (c : Nat) (x : Core) (k : Nat) :
    (s.setCore c x).pin k = s.pin k := rfl
@[simp] theorem setCore_die_of (s : State) (c : Nat) (x : Core) (k : Nat) :
    (s.setCore c x).die k = s.die k := rfl
@[simp] theorem setCore_mtu_of (s : State) (c : Nat) (x : Core) (k : Nat) :
    (s.setCore c x).mtu k = s.mtu k := rfl
@[simp] theorem setCore_group_of (s : State) (c : Nat) (x : Core) (k : Nat) :
    (s.setCore c x).group k = s.group k := rfl
@[simp] theorem setCore_core_get (s : State) (c : Nat) (x : Core) (k : Nat) :
    (s.setCore c x).core k = if k = c then x else s.core k := tab_get_set _ _ _ _ _
@[simp] theorem setCore_req_of (s : State) (c : Nat) (x : Core) (k : Nat) :
    (s.setCore c x).req k = s.req k := rfl
@[simp] theorem setCore_hasReq_of (s : State) (c : Nat) (x : Core) (k : Nat) :
    (s.setCore c x).hasReq k = s.hasReq k := rfl
@[simp] theorem onCore_turns (s : State) (c : Nat) (f : Core → Core) :
    (s.onCore c f).turns = s.turns := rfl
@[simp] theorem onCore_tick (s : State) (c : Nat) (f : Core → Core) :
    (s.onCore c f).tick = s.tick := rfl
@[simp] theorem onCore_cur (s : State) (c : Nat) (f : Core → Core) :
    (s.onCore c f).cur = s.cur := rfl
@[simp] theorem onCore_fresh (s : State) (c : Nat) (f : Core → Core) :
    (s.onCore c f).fresh = s.fresh := rfl
@[simp] theorem onCore_fe (s : State) (c : Nat) (f : Core → Core) :
    (s.onCore c f).fe = s.fe := rfl
@[simp] theorem onCore_disp (s : State) (c : Nat) (f : Core → Core) :
    (s.onCore c f).disp = s.disp := rfl
@[simp] theorem onCore_xl (s : State) (c : Nat) (f : Core → Core) :
    (s.onCore c f).xl = s.xl := rfl
@[simp] theorem onCore_hbm (s : State) (c : Nat) (f : Core → Core) :
    (s.onCore c f).hbm = s.hbm := rfl
@[simp] theorem onCore_hbmBad (s : State) (c : Nat) (f : Core → Core) :
    (s.onCore c f).hbmBad = s.hbmBad := rfl
@[simp] theorem onCore_fab (s : State) (c : Nat) (f : Core → Core) :
    (s.onCore c f).fab = s.fab := rfl
@[simp] theorem onCore_ful (s : State) (c : Nat) (f : Core → Core) :
    (s.onCore c f).ful = s.ful := rfl
@[simp] theorem onCore_xp (s : State) (c : Nat) (f : Core → Core) :
    (s.onCore c f).xp = s.xp := rfl
@[simp] theorem onCore_sync (s : State) (c : Nat) (f : Core → Core) :
    (s.onCore c f).sync = s.sync := rfl
@[simp] theorem onCore_hl (s : State) (c : Nat) (f : Core → Core) :
    (s.onCore c f).hl = s.hl := rfl
@[simp] theorem onCore_firm (s : State) (c : Nat) (f : Core → Core) :
    (s.onCore c f).firm = s.firm := rfl
@[simp] theorem onCore_pow (s : State) (c : Nat) (f : Core → Core) :
    (s.onCore c f).pow = s.pow := rfl
@[simp] theorem onCore_queue_of (s : State) (c : Nat) (f : Core → Core) (k : Nat) :
    (s.onCore c f).queue k = s.queue k := rfl
@[simp] theorem onCore_interp_of (s : State) (c : Nat) (f : Core → Core) (k : Nat) :
    (s.onCore c f).interp k = s.interp k := rfl
@[simp] theorem onCore_team_of (s : State) (c : Nat) (f : Core → Core) (k : Nat) :
    (s.onCore c f).team k = s.team k := rfl
@[simp] theorem onCore_pin_of (s : State) (c : Nat) (f : Core → Core) (k : Nat) :
    (s.onCore c f).pin k = s.pin k := rfl
@[simp] theorem onCore_die_of (s : State) (c : Nat) (f : Core → Core) (k : Nat) :
    (s.onCore c f).die k = s.die k := rfl
@[simp] theorem onCore_mtu_of (s : State) (c : Nat) (f : Core → Core) (k : Nat) :
    (s.onCore c f).mtu k = s.mtu k := rfl
@[simp] theorem onCore_group_of (s : State) (c : Nat) (f : Core → Core) (k : Nat) :
    (s.onCore c f).group k = s.group k := rfl
@[simp] theorem onCore_core_get (s : State) (c : Nat) (f : Core → Core) (k : Nat) :
    (s.onCore c f).core k = if k = c then f (s.core c) else s.core k := tab_get_set _ _ _ _ _
@[simp] theorem onCore_req_of (s : State) (c : Nat) (f : Core → Core) (k : Nat) :
    (s.onCore c f).req k = s.req k := rfl
@[simp] theorem onCore_hasReq_of (s : State) (c : Nat) (f : Core → Core) (k : Nat) :
    (s.onCore c f).hasReq k = s.hasReq k := rfl
@[simp] theorem setQueue_turns (s : State) (c : Nat) (x : Queue) :
    (s.setQueue c x).turns = s.turns := rfl
@[simp] theorem setQueue_tick (s : State) (c : Nat) (x : Queue) :
    (s.setQueue c x).tick = s.tick := rfl
@[simp] theorem setQueue_cur (s : State) (c : Nat) (x : Queue) :
    (s.setQueue c x).cur = s.cur := rfl
@[simp] theorem setQueue_fresh (s : State) (c : Nat) (x : Queue) :
    (s.setQueue c x).fresh = s.fresh := rfl
@[simp] theorem setQueue_cores (s : State) (c : Nat) (x : Queue) :
    (s.setQueue c x).cores = s.cores := rfl
@[simp] theorem setQueue_disp (s : State) (c : Nat) (x : Queue) :
    (s.setQueue c x).disp = s.disp := rfl
@[simp] theorem setQueue_xl (s : State) (c : Nat) (x : Queue) :
    (s.setQueue c x).xl = s.xl := rfl
@[simp] theorem setQueue_hbm (s : State) (c : Nat) (x : Queue) :
    (s.setQueue c x).hbm = s.hbm := rfl
@[simp] theorem setQueue_hbmBad (s : State) (c : Nat) (x : Queue) :
    (s.setQueue c x).hbmBad = s.hbmBad := rfl
@[simp] theorem setQueue_fab (s : State) (c : Nat) (x : Queue) :
    (s.setQueue c x).fab = s.fab := rfl
@[simp] theorem setQueue_ful (s : State) (c : Nat) (x : Queue) :
    (s.setQueue c x).ful = s.ful := rfl
@[simp] theorem setQueue_xp (s : State) (c : Nat) (x : Queue) :
    (s.setQueue c x).xp = s.xp := rfl
@[simp] theorem setQueue_sync (s : State) (c : Nat) (x : Queue) :
    (s.setQueue c x).sync = s.sync := rfl
@[simp] theorem setQueue_hl (s : State) (c : Nat) (x : Queue) :
    (s.setQueue c x).hl = s.hl := rfl
@[simp] theorem setQueue_firm (s : State) (c : Nat) (x : Queue) :
    (s.setQueue c x).firm = s.firm := rfl
@[simp] theorem setQueue_pow (s : State) (c : Nat) (x : Queue) :
    (s.setQueue c x).pow = s.pow := rfl
@[simp] theorem setQueue_fe_time (s : State) (c : Nat) (x : Queue) :
    (s.setQueue c x).fe.time = s.fe.time := rfl
@[simp] theorem setQueue_fe_elogBase (s : State) (c : Nat) (x : Queue) :
    (s.setQueue c x).fe.elogBase = s.fe.elogBase := rfl
@[simp] theorem setQueue_fe_elogLost (s : State) (c : Nat) (x : Queue) :
    (s.setQueue c x).fe.elogLost = s.fe.elogLost := rfl
@[simp] theorem setQueue_fe_elogWp (s : State) (c : Nat) (x : Queue) :
    (s.setQueue c x).fe.elogWp = s.fe.elogWp := rfl
@[simp] theorem setQueue_fe_elogRp (s : State) (c : Nat) (x : Queue) :
    (s.setQueue c x).fe.elogRp = s.fe.elogRp := rfl
@[simp] theorem setQueue_fe_elogLate (s : State) (c : Nat) (x : Queue) :
    (s.setQueue c x).fe.elogLate = s.fe.elogLate := rfl
@[simp] theorem setQueue_fe_widx (s : State) (c : Nat) (x : Queue) :
    (s.setQueue c x).fe.widx = s.fe.widx := rfl
@[simp] theorem setQueue_fe_ip (s : State) (c : Nat) (x : Queue) :
    (s.setQueue c x).fe.ip = s.fe.ip := rfl
@[simp] theorem setQueue_fe_store (s : State) (c : Nat) (x : Queue) :
    (s.setQueue c x).fe.store = s.fe.store := rfl
@[simp] theorem setQueue_fe_checked (s : State) (c : Nat) (x : Queue) :
    (s.setQueue c x).fe.checked = s.fe.checked := rfl
@[simp] theorem setQueue_fe_pstat (s : State) (c : Nat) (x : Queue) :
    (s.setQueue c x).fe.pstat = s.fe.pstat := rfl
@[simp] theorem setQueue_fe_check (s : State) (c : Nat) (x : Queue) :
    (s.setQueue c x).fe.check = s.fe.check := rfl
@[simp] theorem setQueue_fe_pctl (s : State) (c : Nat) (x : Queue) :
    (s.setQueue c x).fe.pctl = s.fe.pctl := rfl
@[simp] theorem setQueue_fe_reqs (s : State) (c : Nat) (x : Queue) :
    (s.setQueue c x).fe.reqs = s.fe.reqs := rfl
@[simp] theorem setQueue_fe_retired (s : State) (c : Nat) (x : Queue) :
    (s.setQueue c x).fe.retired = s.fe.retired := rfl
@[simp] theorem setQueue_fe_lastPoll (s : State) (c : Nat) (x : Queue) :
    (s.setQueue c x).fe.lastPoll = s.fe.lastPoll := rfl
@[simp] theorem setQueue_fe_waitq (s : State) (c : Nat) (x : Queue) :
    (s.setQueue c x).fe.waitq = s.fe.waitq := rfl
@[simp] theorem setQueue_fe_order (s : State) (c : Nat) (x : Queue) :
    (s.setQueue c x).fe.order = s.fe.order := rfl
@[simp] theorem setQueue_fe_nextTeam (s : State) (c : Nat) (x : Queue) :
    (s.setQueue c x).fe.nextTeam = s.fe.nextTeam := rfl
@[simp] theorem setQueue_fe_teams (s : State) (c : Nat) (x : Queue) :
    (s.setQueue c x).fe.teams = s.fe.teams := rfl
@[simp] theorem setQueue_fe_pins (s : State) (c : Nat) (x : Queue) :
    (s.setQueue c x).fe.pins = s.fe.pins := rfl
@[simp] theorem setQueue_fe_unpinned (s : State) (c : Nat) (x : Queue) :
    (s.setQueue c x).fe.unpinned = s.fe.unpinned := rfl
@[simp] theorem setQueue_fe_creates (s : State) (c : Nat) (x : Queue) :
    (s.setQueue c x).fe.creates = s.fe.creates := rfl
@[simp] theorem setQueue_fe_releases (s : State) (c : Nat) (x : Queue) :
    (s.setQueue c x).fe.releases = s.fe.releases := rfl
@[simp] theorem setQueue_fe_rot (s : State) (c : Nat) (x : Queue) :
    (s.setQueue c x).fe.rot = s.fe.rot := rfl
@[simp] theorem setQueue_fe_gang (s : State) (c : Nat) (x : Queue) :
    (s.setQueue c x).fe.gang = s.fe.gang := rfl
@[simp] theorem setQueue_fe_gres (s : State) (c : Nat) (x : Queue) :
    (s.setQueue c x).fe.gres = s.fe.gres := rfl
@[simp] theorem setQueue_fe_spawnRecs (s : State) (c : Nat) (x : Queue) :
    (s.setQueue c x).fe.spawnRecs = s.fe.spawnRecs := rfl
@[simp] theorem setQueue_fe_contribs (s : State) (c : Nat) (x : Queue) :
    (s.setQueue c x).fe.contribs = s.fe.contribs := rfl
@[simp] theorem setQueue_core_of (s : State) (c : Nat) (x : Queue) (k : Nat) :
    (s.setQueue c x).core k = s.core k := rfl
@[simp] theorem setQueue_interp_of (s : State) (c : Nat) (x : Queue) (k : Nat) :
    (s.setQueue c x).interp k = s.interp k := rfl
@[simp] theorem setQueue_team_of (s : State) (c : Nat) (x : Queue) (k : Nat) :
    (s.setQueue c x).team k = s.team k := rfl
@[simp] theorem setQueue_pin_of (s : State) (c : Nat) (x : Queue) (k : Nat) :
    (s.setQueue c x).pin k = s.pin k := rfl
@[simp] theorem setQueue_die_of (s : State) (c : Nat) (x : Queue) (k : Nat) :
    (s.setQueue c x).die k = s.die k := rfl
@[simp] theorem setQueue_mtu_of (s : State) (c : Nat) (x : Queue) (k : Nat) :
    (s.setQueue c x).mtu k = s.mtu k := rfl
@[simp] theorem setQueue_group_of (s : State) (c : Nat) (x : Queue) (k : Nat) :
    (s.setQueue c x).group k = s.group k := rfl
@[simp] theorem setQueue_queue_get (s : State) (c : Nat) (x : Queue) (k : Nat) :
    (s.setQueue c x).queue k = if k = c then x else s.queue k := tab_get_set _ _ _ _ _
@[simp] theorem setQueue_req_of (s : State) (c : Nat) (x : Queue) (k : Nat) :
    (s.setQueue c x).req k = s.req k := rfl
@[simp] theorem setQueue_hasReq_of (s : State) (c : Nat) (x : Queue) (k : Nat) :
    (s.setQueue c x).hasReq k = s.hasReq k := rfl
@[simp] theorem setInterp_turns (s : State) (c : Nat) (x : Interp) :
    (s.setInterp c x).turns = s.turns := rfl
@[simp] theorem setInterp_tick (s : State) (c : Nat) (x : Interp) :
    (s.setInterp c x).tick = s.tick := rfl
@[simp] theorem setInterp_cur (s : State) (c : Nat) (x : Interp) :
    (s.setInterp c x).cur = s.cur := rfl
@[simp] theorem setInterp_fresh (s : State) (c : Nat) (x : Interp) :
    (s.setInterp c x).fresh = s.fresh := rfl
@[simp] theorem setInterp_cores (s : State) (c : Nat) (x : Interp) :
    (s.setInterp c x).cores = s.cores := rfl
@[simp] theorem setInterp_disp (s : State) (c : Nat) (x : Interp) :
    (s.setInterp c x).disp = s.disp := rfl
@[simp] theorem setInterp_xl (s : State) (c : Nat) (x : Interp) :
    (s.setInterp c x).xl = s.xl := rfl
@[simp] theorem setInterp_hbm (s : State) (c : Nat) (x : Interp) :
    (s.setInterp c x).hbm = s.hbm := rfl
@[simp] theorem setInterp_hbmBad (s : State) (c : Nat) (x : Interp) :
    (s.setInterp c x).hbmBad = s.hbmBad := rfl
@[simp] theorem setInterp_fab (s : State) (c : Nat) (x : Interp) :
    (s.setInterp c x).fab = s.fab := rfl
@[simp] theorem setInterp_ful (s : State) (c : Nat) (x : Interp) :
    (s.setInterp c x).ful = s.ful := rfl
@[simp] theorem setInterp_xp (s : State) (c : Nat) (x : Interp) :
    (s.setInterp c x).xp = s.xp := rfl
@[simp] theorem setInterp_sync (s : State) (c : Nat) (x : Interp) :
    (s.setInterp c x).sync = s.sync := rfl
@[simp] theorem setInterp_hl (s : State) (c : Nat) (x : Interp) :
    (s.setInterp c x).hl = s.hl := rfl
@[simp] theorem setInterp_firm (s : State) (c : Nat) (x : Interp) :
    (s.setInterp c x).firm = s.firm := rfl
@[simp] theorem setInterp_pow (s : State) (c : Nat) (x : Interp) :
    (s.setInterp c x).pow = s.pow := rfl
@[simp] theorem setInterp_fe_time (s : State) (c : Nat) (x : Interp) :
    (s.setInterp c x).fe.time = s.fe.time := rfl
@[simp] theorem setInterp_fe_elogBase (s : State) (c : Nat) (x : Interp) :
    (s.setInterp c x).fe.elogBase = s.fe.elogBase := rfl
@[simp] theorem setInterp_fe_elogLost (s : State) (c : Nat) (x : Interp) :
    (s.setInterp c x).fe.elogLost = s.fe.elogLost := rfl
@[simp] theorem setInterp_fe_elogWp (s : State) (c : Nat) (x : Interp) :
    (s.setInterp c x).fe.elogWp = s.fe.elogWp := rfl
@[simp] theorem setInterp_fe_elogRp (s : State) (c : Nat) (x : Interp) :
    (s.setInterp c x).fe.elogRp = s.fe.elogRp := rfl
@[simp] theorem setInterp_fe_elogLate (s : State) (c : Nat) (x : Interp) :
    (s.setInterp c x).fe.elogLate = s.fe.elogLate := rfl
@[simp] theorem setInterp_fe_widx (s : State) (c : Nat) (x : Interp) :
    (s.setInterp c x).fe.widx = s.fe.widx := rfl
@[simp] theorem setInterp_fe_q (s : State) (c : Nat) (x : Interp) :
    (s.setInterp c x).fe.q = s.fe.q := rfl
@[simp] theorem setInterp_fe_store (s : State) (c : Nat) (x : Interp) :
    (s.setInterp c x).fe.store = s.fe.store := rfl
@[simp] theorem setInterp_fe_checked (s : State) (c : Nat) (x : Interp) :
    (s.setInterp c x).fe.checked = s.fe.checked := rfl
@[simp] theorem setInterp_fe_pstat (s : State) (c : Nat) (x : Interp) :
    (s.setInterp c x).fe.pstat = s.fe.pstat := rfl
@[simp] theorem setInterp_fe_check (s : State) (c : Nat) (x : Interp) :
    (s.setInterp c x).fe.check = s.fe.check := rfl
@[simp] theorem setInterp_fe_pctl (s : State) (c : Nat) (x : Interp) :
    (s.setInterp c x).fe.pctl = s.fe.pctl := rfl
@[simp] theorem setInterp_fe_reqs (s : State) (c : Nat) (x : Interp) :
    (s.setInterp c x).fe.reqs = s.fe.reqs := rfl
@[simp] theorem setInterp_fe_retired (s : State) (c : Nat) (x : Interp) :
    (s.setInterp c x).fe.retired = s.fe.retired := rfl
@[simp] theorem setInterp_fe_lastPoll (s : State) (c : Nat) (x : Interp) :
    (s.setInterp c x).fe.lastPoll = s.fe.lastPoll := rfl
@[simp] theorem setInterp_fe_waitq (s : State) (c : Nat) (x : Interp) :
    (s.setInterp c x).fe.waitq = s.fe.waitq := rfl
@[simp] theorem setInterp_fe_order (s : State) (c : Nat) (x : Interp) :
    (s.setInterp c x).fe.order = s.fe.order := rfl
@[simp] theorem setInterp_fe_nextTeam (s : State) (c : Nat) (x : Interp) :
    (s.setInterp c x).fe.nextTeam = s.fe.nextTeam := rfl
@[simp] theorem setInterp_fe_teams (s : State) (c : Nat) (x : Interp) :
    (s.setInterp c x).fe.teams = s.fe.teams := rfl
@[simp] theorem setInterp_fe_pins (s : State) (c : Nat) (x : Interp) :
    (s.setInterp c x).fe.pins = s.fe.pins := rfl
@[simp] theorem setInterp_fe_unpinned (s : State) (c : Nat) (x : Interp) :
    (s.setInterp c x).fe.unpinned = s.fe.unpinned := rfl
@[simp] theorem setInterp_fe_creates (s : State) (c : Nat) (x : Interp) :
    (s.setInterp c x).fe.creates = s.fe.creates := rfl
@[simp] theorem setInterp_fe_releases (s : State) (c : Nat) (x : Interp) :
    (s.setInterp c x).fe.releases = s.fe.releases := rfl
@[simp] theorem setInterp_fe_rot (s : State) (c : Nat) (x : Interp) :
    (s.setInterp c x).fe.rot = s.fe.rot := rfl
@[simp] theorem setInterp_fe_gang (s : State) (c : Nat) (x : Interp) :
    (s.setInterp c x).fe.gang = s.fe.gang := rfl
@[simp] theorem setInterp_fe_gres (s : State) (c : Nat) (x : Interp) :
    (s.setInterp c x).fe.gres = s.fe.gres := rfl
@[simp] theorem setInterp_fe_spawnRecs (s : State) (c : Nat) (x : Interp) :
    (s.setInterp c x).fe.spawnRecs = s.fe.spawnRecs := rfl
@[simp] theorem setInterp_fe_contribs (s : State) (c : Nat) (x : Interp) :
    (s.setInterp c x).fe.contribs = s.fe.contribs := rfl
@[simp] theorem setInterp_core_of (s : State) (c : Nat) (x : Interp) (k : Nat) :
    (s.setInterp c x).core k = s.core k := rfl
@[simp] theorem setInterp_queue_of (s : State) (c : Nat) (x : Interp) (k : Nat) :
    (s.setInterp c x).queue k = s.queue k := rfl
@[simp] theorem setInterp_team_of (s : State) (c : Nat) (x : Interp) (k : Nat) :
    (s.setInterp c x).team k = s.team k := rfl
@[simp] theorem setInterp_pin_of (s : State) (c : Nat) (x : Interp) (k : Nat) :
    (s.setInterp c x).pin k = s.pin k := rfl
@[simp] theorem setInterp_die_of (s : State) (c : Nat) (x : Interp) (k : Nat) :
    (s.setInterp c x).die k = s.die k := rfl
@[simp] theorem setInterp_mtu_of (s : State) (c : Nat) (x : Interp) (k : Nat) :
    (s.setInterp c x).mtu k = s.mtu k := rfl
@[simp] theorem setInterp_group_of (s : State) (c : Nat) (x : Interp) (k : Nat) :
    (s.setInterp c x).group k = s.group k := rfl
@[simp] theorem setInterp_interp_get (s : State) (c : Nat) (x : Interp) (k : Nat) :
    (s.setInterp c x).interp k = if k = c then x else s.interp k := tab_get_set _ _ _ _ _
@[simp] theorem setInterp_req_of (s : State) (c : Nat) (x : Interp) (k : Nat) :
    (s.setInterp c x).req k = s.req k := rfl
@[simp] theorem setInterp_hasReq_of (s : State) (c : Nat) (x : Interp) (k : Nat) :
    (s.setInterp c x).hasReq k = s.hasReq k := rfl
@[simp] theorem setTeam_turns (s : State) (c : Nat) (x : Team) :
    (s.setTeam c x).turns = s.turns := rfl
@[simp] theorem setTeam_tick (s : State) (c : Nat) (x : Team) :
    (s.setTeam c x).tick = s.tick := rfl
@[simp] theorem setTeam_cur (s : State) (c : Nat) (x : Team) :
    (s.setTeam c x).cur = s.cur := rfl
@[simp] theorem setTeam_fresh (s : State) (c : Nat) (x : Team) :
    (s.setTeam c x).fresh = s.fresh := rfl
@[simp] theorem setTeam_cores (s : State) (c : Nat) (x : Team) :
    (s.setTeam c x).cores = s.cores := rfl
@[simp] theorem setTeam_disp (s : State) (c : Nat) (x : Team) :
    (s.setTeam c x).disp = s.disp := rfl
@[simp] theorem setTeam_xl (s : State) (c : Nat) (x : Team) :
    (s.setTeam c x).xl = s.xl := rfl
@[simp] theorem setTeam_hbm (s : State) (c : Nat) (x : Team) :
    (s.setTeam c x).hbm = s.hbm := rfl
@[simp] theorem setTeam_hbmBad (s : State) (c : Nat) (x : Team) :
    (s.setTeam c x).hbmBad = s.hbmBad := rfl
@[simp] theorem setTeam_fab (s : State) (c : Nat) (x : Team) :
    (s.setTeam c x).fab = s.fab := rfl
@[simp] theorem setTeam_ful (s : State) (c : Nat) (x : Team) :
    (s.setTeam c x).ful = s.ful := rfl
@[simp] theorem setTeam_xp (s : State) (c : Nat) (x : Team) :
    (s.setTeam c x).xp = s.xp := rfl
@[simp] theorem setTeam_sync (s : State) (c : Nat) (x : Team) :
    (s.setTeam c x).sync = s.sync := rfl
@[simp] theorem setTeam_hl (s : State) (c : Nat) (x : Team) :
    (s.setTeam c x).hl = s.hl := rfl
@[simp] theorem setTeam_firm (s : State) (c : Nat) (x : Team) :
    (s.setTeam c x).firm = s.firm := rfl
@[simp] theorem setTeam_pow (s : State) (c : Nat) (x : Team) :
    (s.setTeam c x).pow = s.pow := rfl
@[simp] theorem setTeam_fe_time (s : State) (c : Nat) (x : Team) :
    (s.setTeam c x).fe.time = s.fe.time := rfl
@[simp] theorem setTeam_fe_elogBase (s : State) (c : Nat) (x : Team) :
    (s.setTeam c x).fe.elogBase = s.fe.elogBase := rfl
@[simp] theorem setTeam_fe_elogLost (s : State) (c : Nat) (x : Team) :
    (s.setTeam c x).fe.elogLost = s.fe.elogLost := rfl
@[simp] theorem setTeam_fe_elogWp (s : State) (c : Nat) (x : Team) :
    (s.setTeam c x).fe.elogWp = s.fe.elogWp := rfl
@[simp] theorem setTeam_fe_elogRp (s : State) (c : Nat) (x : Team) :
    (s.setTeam c x).fe.elogRp = s.fe.elogRp := rfl
@[simp] theorem setTeam_fe_elogLate (s : State) (c : Nat) (x : Team) :
    (s.setTeam c x).fe.elogLate = s.fe.elogLate := rfl
@[simp] theorem setTeam_fe_widx (s : State) (c : Nat) (x : Team) :
    (s.setTeam c x).fe.widx = s.fe.widx := rfl
@[simp] theorem setTeam_fe_q (s : State) (c : Nat) (x : Team) :
    (s.setTeam c x).fe.q = s.fe.q := rfl
@[simp] theorem setTeam_fe_ip (s : State) (c : Nat) (x : Team) :
    (s.setTeam c x).fe.ip = s.fe.ip := rfl
@[simp] theorem setTeam_fe_store (s : State) (c : Nat) (x : Team) :
    (s.setTeam c x).fe.store = s.fe.store := rfl
@[simp] theorem setTeam_fe_checked (s : State) (c : Nat) (x : Team) :
    (s.setTeam c x).fe.checked = s.fe.checked := rfl
@[simp] theorem setTeam_fe_pstat (s : State) (c : Nat) (x : Team) :
    (s.setTeam c x).fe.pstat = s.fe.pstat := rfl
@[simp] theorem setTeam_fe_check (s : State) (c : Nat) (x : Team) :
    (s.setTeam c x).fe.check = s.fe.check := rfl
@[simp] theorem setTeam_fe_pctl (s : State) (c : Nat) (x : Team) :
    (s.setTeam c x).fe.pctl = s.fe.pctl := rfl
@[simp] theorem setTeam_fe_reqs (s : State) (c : Nat) (x : Team) :
    (s.setTeam c x).fe.reqs = s.fe.reqs := rfl
@[simp] theorem setTeam_fe_retired (s : State) (c : Nat) (x : Team) :
    (s.setTeam c x).fe.retired = s.fe.retired := rfl
@[simp] theorem setTeam_fe_lastPoll (s : State) (c : Nat) (x : Team) :
    (s.setTeam c x).fe.lastPoll = s.fe.lastPoll := rfl
@[simp] theorem setTeam_fe_waitq (s : State) (c : Nat) (x : Team) :
    (s.setTeam c x).fe.waitq = s.fe.waitq := rfl
@[simp] theorem setTeam_fe_order (s : State) (c : Nat) (x : Team) :
    (s.setTeam c x).fe.order = s.fe.order := rfl
@[simp] theorem setTeam_fe_nextTeam (s : State) (c : Nat) (x : Team) :
    (s.setTeam c x).fe.nextTeam = s.fe.nextTeam := rfl
@[simp] theorem setTeam_fe_pins (s : State) (c : Nat) (x : Team) :
    (s.setTeam c x).fe.pins = s.fe.pins := rfl
@[simp] theorem setTeam_fe_unpinned (s : State) (c : Nat) (x : Team) :
    (s.setTeam c x).fe.unpinned = s.fe.unpinned := rfl
@[simp] theorem setTeam_fe_creates (s : State) (c : Nat) (x : Team) :
    (s.setTeam c x).fe.creates = s.fe.creates := rfl
@[simp] theorem setTeam_fe_releases (s : State) (c : Nat) (x : Team) :
    (s.setTeam c x).fe.releases = s.fe.releases := rfl
@[simp] theorem setTeam_fe_rot (s : State) (c : Nat) (x : Team) :
    (s.setTeam c x).fe.rot = s.fe.rot := rfl
@[simp] theorem setTeam_fe_gang (s : State) (c : Nat) (x : Team) :
    (s.setTeam c x).fe.gang = s.fe.gang := rfl
@[simp] theorem setTeam_fe_gres (s : State) (c : Nat) (x : Team) :
    (s.setTeam c x).fe.gres = s.fe.gres := rfl
@[simp] theorem setTeam_fe_spawnRecs (s : State) (c : Nat) (x : Team) :
    (s.setTeam c x).fe.spawnRecs = s.fe.spawnRecs := rfl
@[simp] theorem setTeam_fe_contribs (s : State) (c : Nat) (x : Team) :
    (s.setTeam c x).fe.contribs = s.fe.contribs := rfl
@[simp] theorem setTeam_core_of (s : State) (c : Nat) (x : Team) (k : Nat) :
    (s.setTeam c x).core k = s.core k := rfl
@[simp] theorem setTeam_queue_of (s : State) (c : Nat) (x : Team) (k : Nat) :
    (s.setTeam c x).queue k = s.queue k := rfl
@[simp] theorem setTeam_interp_of (s : State) (c : Nat) (x : Team) (k : Nat) :
    (s.setTeam c x).interp k = s.interp k := rfl
@[simp] theorem setTeam_pin_of (s : State) (c : Nat) (x : Team) (k : Nat) :
    (s.setTeam c x).pin k = s.pin k := rfl
@[simp] theorem setTeam_die_of (s : State) (c : Nat) (x : Team) (k : Nat) :
    (s.setTeam c x).die k = s.die k := rfl
@[simp] theorem setTeam_mtu_of (s : State) (c : Nat) (x : Team) (k : Nat) :
    (s.setTeam c x).mtu k = s.mtu k := rfl
@[simp] theorem setTeam_group_of (s : State) (c : Nat) (x : Team) (k : Nat) :
    (s.setTeam c x).group k = s.group k := rfl
@[simp] theorem setTeam_team_get (s : State) (c : Nat) (x : Team) (k : Nat) :
    (s.setTeam c x).team k = if k = c then x else s.team k := tab_get_set _ _ _ _ _
@[simp] theorem setTeam_req_of (s : State) (c : Nat) (x : Team) (k : Nat) :
    (s.setTeam c x).req k = s.req k := rfl
@[simp] theorem setTeam_hasReq_of (s : State) (c : Nat) (x : Team) (k : Nat) :
    (s.setTeam c x).hasReq k = s.hasReq k := rfl
@[simp] theorem setReq_turns (s : State) (c : Nat) (x : Req) :
    (s.setReq c x).turns = s.turns := rfl
@[simp] theorem setReq_tick (s : State) (c : Nat) (x : Req) :
    (s.setReq c x).tick = s.tick := rfl
@[simp] theorem setReq_cur (s : State) (c : Nat) (x : Req) :
    (s.setReq c x).cur = s.cur := rfl
@[simp] theorem setReq_fresh (s : State) (c : Nat) (x : Req) :
    (s.setReq c x).fresh = s.fresh := rfl
@[simp] theorem setReq_cores (s : State) (c : Nat) (x : Req) :
    (s.setReq c x).cores = s.cores := rfl
@[simp] theorem setReq_disp (s : State) (c : Nat) (x : Req) :
    (s.setReq c x).disp = s.disp := rfl
@[simp] theorem setReq_xl (s : State) (c : Nat) (x : Req) :
    (s.setReq c x).xl = s.xl := rfl
@[simp] theorem setReq_hbm (s : State) (c : Nat) (x : Req) :
    (s.setReq c x).hbm = s.hbm := rfl
@[simp] theorem setReq_hbmBad (s : State) (c : Nat) (x : Req) :
    (s.setReq c x).hbmBad = s.hbmBad := rfl
@[simp] theorem setReq_fab (s : State) (c : Nat) (x : Req) :
    (s.setReq c x).fab = s.fab := rfl
@[simp] theorem setReq_ful (s : State) (c : Nat) (x : Req) :
    (s.setReq c x).ful = s.ful := rfl
@[simp] theorem setReq_xp (s : State) (c : Nat) (x : Req) :
    (s.setReq c x).xp = s.xp := rfl
@[simp] theorem setReq_sync (s : State) (c : Nat) (x : Req) :
    (s.setReq c x).sync = s.sync := rfl
@[simp] theorem setReq_hl (s : State) (c : Nat) (x : Req) :
    (s.setReq c x).hl = s.hl := rfl
@[simp] theorem setReq_firm (s : State) (c : Nat) (x : Req) :
    (s.setReq c x).firm = s.firm := rfl
@[simp] theorem setReq_pow (s : State) (c : Nat) (x : Req) :
    (s.setReq c x).pow = s.pow := rfl
@[simp] theorem setReq_fe_time (s : State) (c : Nat) (x : Req) :
    (s.setReq c x).fe.time = s.fe.time := rfl
@[simp] theorem setReq_fe_elogBase (s : State) (c : Nat) (x : Req) :
    (s.setReq c x).fe.elogBase = s.fe.elogBase := rfl
@[simp] theorem setReq_fe_elogLost (s : State) (c : Nat) (x : Req) :
    (s.setReq c x).fe.elogLost = s.fe.elogLost := rfl
@[simp] theorem setReq_fe_elogWp (s : State) (c : Nat) (x : Req) :
    (s.setReq c x).fe.elogWp = s.fe.elogWp := rfl
@[simp] theorem setReq_fe_elogRp (s : State) (c : Nat) (x : Req) :
    (s.setReq c x).fe.elogRp = s.fe.elogRp := rfl
@[simp] theorem setReq_fe_elogLate (s : State) (c : Nat) (x : Req) :
    (s.setReq c x).fe.elogLate = s.fe.elogLate := rfl
@[simp] theorem setReq_fe_widx (s : State) (c : Nat) (x : Req) :
    (s.setReq c x).fe.widx = s.fe.widx := rfl
@[simp] theorem setReq_fe_q (s : State) (c : Nat) (x : Req) :
    (s.setReq c x).fe.q = s.fe.q := rfl
@[simp] theorem setReq_fe_ip (s : State) (c : Nat) (x : Req) :
    (s.setReq c x).fe.ip = s.fe.ip := rfl
@[simp] theorem setReq_fe_store (s : State) (c : Nat) (x : Req) :
    (s.setReq c x).fe.store = s.fe.store := rfl
@[simp] theorem setReq_fe_checked (s : State) (c : Nat) (x : Req) :
    (s.setReq c x).fe.checked = s.fe.checked := rfl
@[simp] theorem setReq_fe_pstat (s : State) (c : Nat) (x : Req) :
    (s.setReq c x).fe.pstat = s.fe.pstat := rfl
@[simp] theorem setReq_fe_check (s : State) (c : Nat) (x : Req) :
    (s.setReq c x).fe.check = s.fe.check := rfl
@[simp] theorem setReq_fe_pctl (s : State) (c : Nat) (x : Req) :
    (s.setReq c x).fe.pctl = s.fe.pctl := rfl
@[simp] theorem setReq_fe_retired (s : State) (c : Nat) (x : Req) :
    (s.setReq c x).fe.retired = s.fe.retired := rfl
@[simp] theorem setReq_fe_lastPoll (s : State) (c : Nat) (x : Req) :
    (s.setReq c x).fe.lastPoll = s.fe.lastPoll := rfl
@[simp] theorem setReq_fe_waitq (s : State) (c : Nat) (x : Req) :
    (s.setReq c x).fe.waitq = s.fe.waitq := rfl
@[simp] theorem setReq_fe_order (s : State) (c : Nat) (x : Req) :
    (s.setReq c x).fe.order = s.fe.order := rfl
@[simp] theorem setReq_fe_nextTeam (s : State) (c : Nat) (x : Req) :
    (s.setReq c x).fe.nextTeam = s.fe.nextTeam := rfl
@[simp] theorem setReq_fe_teams (s : State) (c : Nat) (x : Req) :
    (s.setReq c x).fe.teams = s.fe.teams := rfl
@[simp] theorem setReq_fe_pins (s : State) (c : Nat) (x : Req) :
    (s.setReq c x).fe.pins = s.fe.pins := rfl
@[simp] theorem setReq_fe_unpinned (s : State) (c : Nat) (x : Req) :
    (s.setReq c x).fe.unpinned = s.fe.unpinned := rfl
@[simp] theorem setReq_fe_creates (s : State) (c : Nat) (x : Req) :
    (s.setReq c x).fe.creates = s.fe.creates := rfl
@[simp] theorem setReq_fe_releases (s : State) (c : Nat) (x : Req) :
    (s.setReq c x).fe.releases = s.fe.releases := rfl
@[simp] theorem setReq_fe_rot (s : State) (c : Nat) (x : Req) :
    (s.setReq c x).fe.rot = s.fe.rot := rfl
@[simp] theorem setReq_fe_gang (s : State) (c : Nat) (x : Req) :
    (s.setReq c x).fe.gang = s.fe.gang := rfl
@[simp] theorem setReq_fe_gres (s : State) (c : Nat) (x : Req) :
    (s.setReq c x).fe.gres = s.fe.gres := rfl
@[simp] theorem setReq_fe_spawnRecs (s : State) (c : Nat) (x : Req) :
    (s.setReq c x).fe.spawnRecs = s.fe.spawnRecs := rfl
@[simp] theorem setReq_fe_contribs (s : State) (c : Nat) (x : Req) :
    (s.setReq c x).fe.contribs = s.fe.contribs := rfl
@[simp] theorem setReq_core_of (s : State) (c : Nat) (x : Req) (k : Nat) :
    (s.setReq c x).core k = s.core k := rfl
@[simp] theorem setReq_queue_of (s : State) (c : Nat) (x : Req) (k : Nat) :
    (s.setReq c x).queue k = s.queue k := rfl
@[simp] theorem setReq_interp_of (s : State) (c : Nat) (x : Req) (k : Nat) :
    (s.setReq c x).interp k = s.interp k := rfl
@[simp] theorem setReq_team_of (s : State) (c : Nat) (x : Req) (k : Nat) :
    (s.setReq c x).team k = s.team k := rfl
@[simp] theorem setReq_pin_of (s : State) (c : Nat) (x : Req) (k : Nat) :
    (s.setReq c x).pin k = s.pin k := rfl
@[simp] theorem setReq_die_of (s : State) (c : Nat) (x : Req) (k : Nat) :
    (s.setReq c x).die k = s.die k := rfl
@[simp] theorem setReq_mtu_of (s : State) (c : Nat) (x : Req) (k : Nat) :
    (s.setReq c x).mtu k = s.mtu k := rfl
@[simp] theorem setReq_group_of (s : State) (c : Nat) (x : Req) (k : Nat) :
    (s.setReq c x).group k = s.group k := rfl
@[simp] theorem setPin_turns (s : State) (c : Nat) (x : Pin) :
    (s.setPin c x).turns = s.turns := rfl
@[simp] theorem setPin_tick (s : State) (c : Nat) (x : Pin) :
    (s.setPin c x).tick = s.tick := rfl
@[simp] theorem setPin_cur (s : State) (c : Nat) (x : Pin) :
    (s.setPin c x).cur = s.cur := rfl
@[simp] theorem setPin_fresh (s : State) (c : Nat) (x : Pin) :
    (s.setPin c x).fresh = s.fresh := rfl
@[simp] theorem setPin_cores (s : State) (c : Nat) (x : Pin) :
    (s.setPin c x).cores = s.cores := rfl
@[simp] theorem setPin_disp (s : State) (c : Nat) (x : Pin) :
    (s.setPin c x).disp = s.disp := rfl
@[simp] theorem setPin_xl (s : State) (c : Nat) (x : Pin) :
    (s.setPin c x).xl = s.xl := rfl
@[simp] theorem setPin_hbm (s : State) (c : Nat) (x : Pin) :
    (s.setPin c x).hbm = s.hbm := rfl
@[simp] theorem setPin_hbmBad (s : State) (c : Nat) (x : Pin) :
    (s.setPin c x).hbmBad = s.hbmBad := rfl
@[simp] theorem setPin_fab (s : State) (c : Nat) (x : Pin) :
    (s.setPin c x).fab = s.fab := rfl
@[simp] theorem setPin_ful (s : State) (c : Nat) (x : Pin) :
    (s.setPin c x).ful = s.ful := rfl
@[simp] theorem setPin_xp (s : State) (c : Nat) (x : Pin) :
    (s.setPin c x).xp = s.xp := rfl
@[simp] theorem setPin_sync (s : State) (c : Nat) (x : Pin) :
    (s.setPin c x).sync = s.sync := rfl
@[simp] theorem setPin_hl (s : State) (c : Nat) (x : Pin) :
    (s.setPin c x).hl = s.hl := rfl
@[simp] theorem setPin_firm (s : State) (c : Nat) (x : Pin) :
    (s.setPin c x).firm = s.firm := rfl
@[simp] theorem setPin_pow (s : State) (c : Nat) (x : Pin) :
    (s.setPin c x).pow = s.pow := rfl
@[simp] theorem setPin_fe_time (s : State) (c : Nat) (x : Pin) :
    (s.setPin c x).fe.time = s.fe.time := rfl
@[simp] theorem setPin_fe_elogBase (s : State) (c : Nat) (x : Pin) :
    (s.setPin c x).fe.elogBase = s.fe.elogBase := rfl
@[simp] theorem setPin_fe_elogLost (s : State) (c : Nat) (x : Pin) :
    (s.setPin c x).fe.elogLost = s.fe.elogLost := rfl
@[simp] theorem setPin_fe_elogWp (s : State) (c : Nat) (x : Pin) :
    (s.setPin c x).fe.elogWp = s.fe.elogWp := rfl
@[simp] theorem setPin_fe_elogRp (s : State) (c : Nat) (x : Pin) :
    (s.setPin c x).fe.elogRp = s.fe.elogRp := rfl
@[simp] theorem setPin_fe_elogLate (s : State) (c : Nat) (x : Pin) :
    (s.setPin c x).fe.elogLate = s.fe.elogLate := rfl
@[simp] theorem setPin_fe_widx (s : State) (c : Nat) (x : Pin) :
    (s.setPin c x).fe.widx = s.fe.widx := rfl
@[simp] theorem setPin_fe_q (s : State) (c : Nat) (x : Pin) :
    (s.setPin c x).fe.q = s.fe.q := rfl
@[simp] theorem setPin_fe_ip (s : State) (c : Nat) (x : Pin) :
    (s.setPin c x).fe.ip = s.fe.ip := rfl
@[simp] theorem setPin_fe_store (s : State) (c : Nat) (x : Pin) :
    (s.setPin c x).fe.store = s.fe.store := rfl
@[simp] theorem setPin_fe_checked (s : State) (c : Nat) (x : Pin) :
    (s.setPin c x).fe.checked = s.fe.checked := rfl
@[simp] theorem setPin_fe_pstat (s : State) (c : Nat) (x : Pin) :
    (s.setPin c x).fe.pstat = s.fe.pstat := rfl
@[simp] theorem setPin_fe_check (s : State) (c : Nat) (x : Pin) :
    (s.setPin c x).fe.check = s.fe.check := rfl
@[simp] theorem setPin_fe_pctl (s : State) (c : Nat) (x : Pin) :
    (s.setPin c x).fe.pctl = s.fe.pctl := rfl
@[simp] theorem setPin_fe_reqs (s : State) (c : Nat) (x : Pin) :
    (s.setPin c x).fe.reqs = s.fe.reqs := rfl
@[simp] theorem setPin_fe_retired (s : State) (c : Nat) (x : Pin) :
    (s.setPin c x).fe.retired = s.fe.retired := rfl
@[simp] theorem setPin_fe_lastPoll (s : State) (c : Nat) (x : Pin) :
    (s.setPin c x).fe.lastPoll = s.fe.lastPoll := rfl
@[simp] theorem setPin_fe_waitq (s : State) (c : Nat) (x : Pin) :
    (s.setPin c x).fe.waitq = s.fe.waitq := rfl
@[simp] theorem setPin_fe_order (s : State) (c : Nat) (x : Pin) :
    (s.setPin c x).fe.order = s.fe.order := rfl
@[simp] theorem setPin_fe_nextTeam (s : State) (c : Nat) (x : Pin) :
    (s.setPin c x).fe.nextTeam = s.fe.nextTeam := rfl
@[simp] theorem setPin_fe_teams (s : State) (c : Nat) (x : Pin) :
    (s.setPin c x).fe.teams = s.fe.teams := rfl
@[simp] theorem setPin_fe_unpinned (s : State) (c : Nat) (x : Pin) :
    (s.setPin c x).fe.unpinned = s.fe.unpinned := rfl
@[simp] theorem setPin_fe_creates (s : State) (c : Nat) (x : Pin) :
    (s.setPin c x).fe.creates = s.fe.creates := rfl
@[simp] theorem setPin_fe_releases (s : State) (c : Nat) (x : Pin) :
    (s.setPin c x).fe.releases = s.fe.releases := rfl
@[simp] theorem setPin_fe_rot (s : State) (c : Nat) (x : Pin) :
    (s.setPin c x).fe.rot = s.fe.rot := rfl
@[simp] theorem setPin_fe_gang (s : State) (c : Nat) (x : Pin) :
    (s.setPin c x).fe.gang = s.fe.gang := rfl
@[simp] theorem setPin_fe_gres (s : State) (c : Nat) (x : Pin) :
    (s.setPin c x).fe.gres = s.fe.gres := rfl
@[simp] theorem setPin_fe_spawnRecs (s : State) (c : Nat) (x : Pin) :
    (s.setPin c x).fe.spawnRecs = s.fe.spawnRecs := rfl
@[simp] theorem setPin_fe_contribs (s : State) (c : Nat) (x : Pin) :
    (s.setPin c x).fe.contribs = s.fe.contribs := rfl
@[simp] theorem setPin_core_of (s : State) (c : Nat) (x : Pin) (k : Nat) :
    (s.setPin c x).core k = s.core k := rfl
@[simp] theorem setPin_queue_of (s : State) (c : Nat) (x : Pin) (k : Nat) :
    (s.setPin c x).queue k = s.queue k := rfl
@[simp] theorem setPin_interp_of (s : State) (c : Nat) (x : Pin) (k : Nat) :
    (s.setPin c x).interp k = s.interp k := rfl
@[simp] theorem setPin_team_of (s : State) (c : Nat) (x : Pin) (k : Nat) :
    (s.setPin c x).team k = s.team k := rfl
@[simp] theorem setPin_die_of (s : State) (c : Nat) (x : Pin) (k : Nat) :
    (s.setPin c x).die k = s.die k := rfl
@[simp] theorem setPin_mtu_of (s : State) (c : Nat) (x : Pin) (k : Nat) :
    (s.setPin c x).mtu k = s.mtu k := rfl
@[simp] theorem setPin_group_of (s : State) (c : Nat) (x : Pin) (k : Nat) :
    (s.setPin c x).group k = s.group k := rfl
@[simp] theorem setPin_pin_get (s : State) (c : Nat) (x : Pin) (k : Nat) :
    (s.setPin c x).pin k = if k = c then x else s.pin k := tab_get_put _ _ _ _ _
@[simp] theorem setPin_req_of (s : State) (c : Nat) (x : Pin) (k : Nat) :
    (s.setPin c x).req k = s.req k := rfl
@[simp] theorem setPin_hasReq_of (s : State) (c : Nat) (x : Pin) (k : Nat) :
    (s.setPin c x).hasReq k = s.hasReq k := rfl
@[simp] theorem setDie_turns (s : State) (c : Nat) (x : Disp) :
    (s.setDie c x).turns = s.turns := rfl
@[simp] theorem setDie_tick (s : State) (c : Nat) (x : Disp) :
    (s.setDie c x).tick = s.tick := rfl
@[simp] theorem setDie_cur (s : State) (c : Nat) (x : Disp) :
    (s.setDie c x).cur = s.cur := rfl
@[simp] theorem setDie_fresh (s : State) (c : Nat) (x : Disp) :
    (s.setDie c x).fresh = s.fresh := rfl
@[simp] theorem setDie_cores (s : State) (c : Nat) (x : Disp) :
    (s.setDie c x).cores = s.cores := rfl
@[simp] theorem setDie_fe (s : State) (c : Nat) (x : Disp) :
    (s.setDie c x).fe = s.fe := rfl
@[simp] theorem setDie_xl (s : State) (c : Nat) (x : Disp) :
    (s.setDie c x).xl = s.xl := rfl
@[simp] theorem setDie_hbm (s : State) (c : Nat) (x : Disp) :
    (s.setDie c x).hbm = s.hbm := rfl
@[simp] theorem setDie_hbmBad (s : State) (c : Nat) (x : Disp) :
    (s.setDie c x).hbmBad = s.hbmBad := rfl
@[simp] theorem setDie_fab (s : State) (c : Nat) (x : Disp) :
    (s.setDie c x).fab = s.fab := rfl
@[simp] theorem setDie_ful (s : State) (c : Nat) (x : Disp) :
    (s.setDie c x).ful = s.ful := rfl
@[simp] theorem setDie_xp (s : State) (c : Nat) (x : Disp) :
    (s.setDie c x).xp = s.xp := rfl
@[simp] theorem setDie_sync (s : State) (c : Nat) (x : Disp) :
    (s.setDie c x).sync = s.sync := rfl
@[simp] theorem setDie_hl (s : State) (c : Nat) (x : Disp) :
    (s.setDie c x).hl = s.hl := rfl
@[simp] theorem setDie_firm (s : State) (c : Nat) (x : Disp) :
    (s.setDie c x).firm = s.firm := rfl
@[simp] theorem setDie_pow (s : State) (c : Nat) (x : Disp) :
    (s.setDie c x).pow = s.pow := rfl
@[simp] theorem setDie_core_of (s : State) (c : Nat) (x : Disp) (k : Nat) :
    (s.setDie c x).core k = s.core k := rfl
@[simp] theorem setDie_queue_of (s : State) (c : Nat) (x : Disp) (k : Nat) :
    (s.setDie c x).queue k = s.queue k := rfl
@[simp] theorem setDie_interp_of (s : State) (c : Nat) (x : Disp) (k : Nat) :
    (s.setDie c x).interp k = s.interp k := rfl
@[simp] theorem setDie_team_of (s : State) (c : Nat) (x : Disp) (k : Nat) :
    (s.setDie c x).team k = s.team k := rfl
@[simp] theorem setDie_pin_of (s : State) (c : Nat) (x : Disp) (k : Nat) :
    (s.setDie c x).pin k = s.pin k := rfl
@[simp] theorem setDie_mtu_of (s : State) (c : Nat) (x : Disp) (k : Nat) :
    (s.setDie c x).mtu k = s.mtu k := rfl
@[simp] theorem setDie_group_of (s : State) (c : Nat) (x : Disp) (k : Nat) :
    (s.setDie c x).group k = s.group k := rfl
@[simp] theorem setDie_die_get (s : State) (c : Nat) (x : Disp) (k : Nat) :
    (s.setDie c x).die k = if k = c then x else s.die k := tab_get_set _ _ _ _ _
@[simp] theorem setDie_req_of (s : State) (c : Nat) (x : Disp) (k : Nat) :
    (s.setDie c x).req k = s.req k := rfl
@[simp] theorem setDie_hasReq_of (s : State) (c : Nat) (x : Disp) (k : Nat) :
    (s.setDie c x).hasReq k = s.hasReq k := rfl
@[simp] theorem setMtu_turns (s : State) (c : Nat) (x : Mtu) :
    (s.setMtu c x).turns = s.turns := rfl
@[simp] theorem setMtu_tick (s : State) (c : Nat) (x : Mtu) :
    (s.setMtu c x).tick = s.tick := rfl
@[simp] theorem setMtu_cur (s : State) (c : Nat) (x : Mtu) :
    (s.setMtu c x).cur = s.cur := rfl
@[simp] theorem setMtu_fresh (s : State) (c : Nat) (x : Mtu) :
    (s.setMtu c x).fresh = s.fresh := rfl
@[simp] theorem setMtu_cores (s : State) (c : Nat) (x : Mtu) :
    (s.setMtu c x).cores = s.cores := rfl
@[simp] theorem setMtu_fe (s : State) (c : Nat) (x : Mtu) :
    (s.setMtu c x).fe = s.fe := rfl
@[simp] theorem setMtu_disp (s : State) (c : Nat) (x : Mtu) :
    (s.setMtu c x).disp = s.disp := rfl
@[simp] theorem setMtu_hbm (s : State) (c : Nat) (x : Mtu) :
    (s.setMtu c x).hbm = s.hbm := rfl
@[simp] theorem setMtu_hbmBad (s : State) (c : Nat) (x : Mtu) :
    (s.setMtu c x).hbmBad = s.hbmBad := rfl
@[simp] theorem setMtu_fab (s : State) (c : Nat) (x : Mtu) :
    (s.setMtu c x).fab = s.fab := rfl
@[simp] theorem setMtu_ful (s : State) (c : Nat) (x : Mtu) :
    (s.setMtu c x).ful = s.ful := rfl
@[simp] theorem setMtu_xp (s : State) (c : Nat) (x : Mtu) :
    (s.setMtu c x).xp = s.xp := rfl
@[simp] theorem setMtu_sync (s : State) (c : Nat) (x : Mtu) :
    (s.setMtu c x).sync = s.sync := rfl
@[simp] theorem setMtu_hl (s : State) (c : Nat) (x : Mtu) :
    (s.setMtu c x).hl = s.hl := rfl
@[simp] theorem setMtu_firm (s : State) (c : Nat) (x : Mtu) :
    (s.setMtu c x).firm = s.firm := rfl
@[simp] theorem setMtu_pow (s : State) (c : Nat) (x : Mtu) :
    (s.setMtu c x).pow = s.pow := rfl
@[simp] theorem setMtu_xl_ctxbase (s : State) (c : Nat) (x : Mtu) :
    (s.setMtu c x).xl.ctxbase = s.xl.ctxbase := rfl
@[simp] theorem setMtu_xl_ctxlen (s : State) (c : Nat) (x : Mtu) :
    (s.setMtu c x).xl.ctxlen = s.xl.ctxlen := rfl
@[simp] theorem setMtu_xl_invctx (s : State) (c : Nat) (x : Mtu) :
    (s.setMtu c x).xl.invctx = s.xl.invctx := rfl
@[simp] theorem setMtu_xl_invaddr (s : State) (c : Nat) (x : Mtu) :
    (s.setMtu c x).xl.invaddr = s.xl.invaddr := rfl
@[simp] theorem setMtu_xl_inv (s : State) (c : Nat) (x : Mtu) :
    (s.setMtu c x).xl.inv = s.xl.inv := rfl
@[simp] theorem setMtu_xl_drop (s : State) (c : Nat) (x : Mtu) :
    (s.setMtu c x).xl.drop = s.xl.drop := rfl
@[simp] theorem setMtu_xl_framebase (s : State) (c : Nat) (x : Mtu) :
    (s.setMtu c x).xl.framebase = s.xl.framebase := rfl
@[simp] theorem setMtu_xl_framelen (s : State) (c : Nat) (x : Mtu) :
    (s.setMtu c x).xl.framelen = s.xl.framelen := rfl
@[simp] theorem setMtu_xl_cache (s : State) (c : Nat) (x : Mtu) :
    (s.setMtu c x).xl.cache = s.xl.cache := rfl
@[simp] theorem setMtu_xl_parks (s : State) (c : Nat) (x : Mtu) :
    (s.setMtu c x).xl.parks = s.xl.parks := rfl
@[simp] theorem setMtu_xl_parts (s : State) (c : Nat) (x : Mtu) :
    (s.setMtu c x).xl.parts = s.xl.parts := rfl
@[simp] theorem setMtu_xl_refused (s : State) (c : Nat) (x : Mtu) :
    (s.setMtu c x).xl.refused = s.xl.refused := rfl
@[simp] theorem setMtu_core_of (s : State) (c : Nat) (x : Mtu) (k : Nat) :
    (s.setMtu c x).core k = s.core k := rfl
@[simp] theorem setMtu_queue_of (s : State) (c : Nat) (x : Mtu) (k : Nat) :
    (s.setMtu c x).queue k = s.queue k := rfl
@[simp] theorem setMtu_interp_of (s : State) (c : Nat) (x : Mtu) (k : Nat) :
    (s.setMtu c x).interp k = s.interp k := rfl
@[simp] theorem setMtu_team_of (s : State) (c : Nat) (x : Mtu) (k : Nat) :
    (s.setMtu c x).team k = s.team k := rfl
@[simp] theorem setMtu_pin_of (s : State) (c : Nat) (x : Mtu) (k : Nat) :
    (s.setMtu c x).pin k = s.pin k := rfl
@[simp] theorem setMtu_die_of (s : State) (c : Nat) (x : Mtu) (k : Nat) :
    (s.setMtu c x).die k = s.die k := rfl
@[simp] theorem setMtu_group_of (s : State) (c : Nat) (x : Mtu) (k : Nat) :
    (s.setMtu c x).group k = s.group k := rfl
@[simp] theorem setMtu_mtu_get (s : State) (c : Nat) (x : Mtu) (k : Nat) :
    (s.setMtu c x).mtu k = if k = c then x else s.mtu k := tab_get_set _ _ _ _ _
@[simp] theorem setMtu_req_of (s : State) (c : Nat) (x : Mtu) (k : Nat) :
    (s.setMtu c x).req k = s.req k := rfl
@[simp] theorem setMtu_hasReq_of (s : State) (c : Nat) (x : Mtu) (k : Nat) :
    (s.setMtu c x).hasReq k = s.hasReq k := rfl
@[simp] theorem setGroup_turns (s : State) (c : Nat) (x : Group) :
    (s.setGroup c x).turns = s.turns := rfl
@[simp] theorem setGroup_tick (s : State) (c : Nat) (x : Group) :
    (s.setGroup c x).tick = s.tick := rfl
@[simp] theorem setGroup_cur (s : State) (c : Nat) (x : Group) :
    (s.setGroup c x).cur = s.cur := rfl
@[simp] theorem setGroup_fresh (s : State) (c : Nat) (x : Group) :
    (s.setGroup c x).fresh = s.fresh := rfl
@[simp] theorem setGroup_cores (s : State) (c : Nat) (x : Group) :
    (s.setGroup c x).cores = s.cores := rfl
@[simp] theorem setGroup_fe (s : State) (c : Nat) (x : Group) :
    (s.setGroup c x).fe = s.fe := rfl
@[simp] theorem setGroup_disp (s : State) (c : Nat) (x : Group) :
    (s.setGroup c x).disp = s.disp := rfl
@[simp] theorem setGroup_xl (s : State) (c : Nat) (x : Group) :
    (s.setGroup c x).xl = s.xl := rfl
@[simp] theorem setGroup_hbm (s : State) (c : Nat) (x : Group) :
    (s.setGroup c x).hbm = s.hbm := rfl
@[simp] theorem setGroup_hbmBad (s : State) (c : Nat) (x : Group) :
    (s.setGroup c x).hbmBad = s.hbmBad := rfl
@[simp] theorem setGroup_fab (s : State) (c : Nat) (x : Group) :
    (s.setGroup c x).fab = s.fab := rfl
@[simp] theorem setGroup_xp (s : State) (c : Nat) (x : Group) :
    (s.setGroup c x).xp = s.xp := rfl
@[simp] theorem setGroup_sync (s : State) (c : Nat) (x : Group) :
    (s.setGroup c x).sync = s.sync := rfl
@[simp] theorem setGroup_hl (s : State) (c : Nat) (x : Group) :
    (s.setGroup c x).hl = s.hl := rfl
@[simp] theorem setGroup_firm (s : State) (c : Nat) (x : Group) :
    (s.setGroup c x).firm = s.firm := rfl
@[simp] theorem setGroup_pow (s : State) (c : Nat) (x : Group) :
    (s.setGroup c x).pow = s.pow := rfl
@[simp] theorem setGroup_core_of (s : State) (c : Nat) (x : Group) (k : Nat) :
    (s.setGroup c x).core k = s.core k := rfl
@[simp] theorem setGroup_queue_of (s : State) (c : Nat) (x : Group) (k : Nat) :
    (s.setGroup c x).queue k = s.queue k := rfl
@[simp] theorem setGroup_interp_of (s : State) (c : Nat) (x : Group) (k : Nat) :
    (s.setGroup c x).interp k = s.interp k := rfl
@[simp] theorem setGroup_team_of (s : State) (c : Nat) (x : Group) (k : Nat) :
    (s.setGroup c x).team k = s.team k := rfl
@[simp] theorem setGroup_pin_of (s : State) (c : Nat) (x : Group) (k : Nat) :
    (s.setGroup c x).pin k = s.pin k := rfl
@[simp] theorem setGroup_die_of (s : State) (c : Nat) (x : Group) (k : Nat) :
    (s.setGroup c x).die k = s.die k := rfl
@[simp] theorem setGroup_mtu_of (s : State) (c : Nat) (x : Group) (k : Nat) :
    (s.setGroup c x).mtu k = s.mtu k := rfl
@[simp] theorem setGroup_group_get (s : State) (c : Nat) (x : Group) (k : Nat) :
    (s.setGroup c x).group k = if k = c then x else s.group k := tab_get_set _ _ _ _ _
@[simp] theorem setGroup_req_of (s : State) (c : Nat) (x : Group) (k : Nat) :
    (s.setGroup c x).req k = s.req k := rfl
@[simp] theorem setGroup_hasReq_of (s : State) (c : Nat) (x : Group) (k : Nat) :
    (s.setGroup c x).hasReq k = s.hasReq k := rfl
@[simp] theorem setReq_req_get (s : State) (c : Nat) (x : Req) (k : Nat) :
    (s.setReq c x).req k = if k = c then x else s.req k := by
  simp [State.req, State.setReq, tab_get_put]

/-- A change of a request leaves every part of the state but the list of requests. -/
theorem updReq_cases (s : State) (c : Nat) (f : Req → Req) :
    s.updReq c f = s ∨ s.updReq c f = s.setReq c (f (s.req c)) := by
  unfold State.updReq; split
  · exact .inr rfl
  · exact .inl rfl
@[simp] theorem updReq_turns (s : State) (c : Nat) (f : Req → Req) :
    (s.updReq c f).turns = s.turns := by
  rcases updReq_cases s c f with h | h
  · rw [h]
  · rw [h]; rfl
@[simp] theorem updReq_tick (s : State) (c : Nat) (f : Req → Req) :
    (s.updReq c f).tick = s.tick := by
  rcases updReq_cases s c f with h | h
  · rw [h]
  · rw [h]; rfl
@[simp] theorem updReq_cur (s : State) (c : Nat) (f : Req → Req) :
    (s.updReq c f).cur = s.cur := by
  rcases updReq_cases s c f with h | h
  · rw [h]
  · rw [h]; rfl
@[simp] theorem updReq_fresh (s : State) (c : Nat) (f : Req → Req) :
    (s.updReq c f).fresh = s.fresh := by
  rcases updReq_cases s c f with h | h
  · rw [h]
  · rw [h]; rfl
@[simp] theorem updReq_cores (s : State) (c : Nat) (f : Req → Req) :
    (s.updReq c f).cores = s.cores := by
  rcases updReq_cases s c f with h | h
  · rw [h]
  · rw [h]; rfl
@[simp] theorem updReq_disp (s : State) (c : Nat) (f : Req → Req) :
    (s.updReq c f).disp = s.disp := by
  rcases updReq_cases s c f with h | h
  · rw [h]
  · rw [h]; rfl
@[simp] theorem updReq_xl (s : State) (c : Nat) (f : Req → Req) :
    (s.updReq c f).xl = s.xl := by
  rcases updReq_cases s c f with h | h
  · rw [h]
  · rw [h]; rfl
@[simp] theorem updReq_hbm (s : State) (c : Nat) (f : Req → Req) :
    (s.updReq c f).hbm = s.hbm := by
  rcases updReq_cases s c f with h | h
  · rw [h]
  · rw [h]; rfl
@[simp] theorem updReq_hbmBad (s : State) (c : Nat) (f : Req → Req) :
    (s.updReq c f).hbmBad = s.hbmBad := by
  rcases updReq_cases s c f with h | h
  · rw [h]
  · rw [h]; rfl
@[simp] theorem updReq_fab (s : State) (c : Nat) (f : Req → Req) :
    (s.updReq c f).fab = s.fab := by
  rcases updReq_cases s c f with h | h
  · rw [h]
  · rw [h]; rfl
@[simp] theorem updReq_ful (s : State) (c : Nat) (f : Req → Req) :
    (s.updReq c f).ful = s.ful := by
  rcases updReq_cases s c f with h | h
  · rw [h]
  · rw [h]; rfl
@[simp] theorem updReq_xp (s : State) (c : Nat) (f : Req → Req) :
    (s.updReq c f).xp = s.xp := by
  rcases updReq_cases s c f with h | h
  · rw [h]
  · rw [h]; rfl
@[simp] theorem updReq_sync (s : State) (c : Nat) (f : Req → Req) :
    (s.updReq c f).sync = s.sync := by
  rcases updReq_cases s c f with h | h
  · rw [h]
  · rw [h]; rfl
@[simp] theorem updReq_hl (s : State) (c : Nat) (f : Req → Req) :
    (s.updReq c f).hl = s.hl := by
  rcases updReq_cases s c f with h | h
  · rw [h]
  · rw [h]; rfl
@[simp] theorem updReq_firm (s : State) (c : Nat) (f : Req → Req) :
    (s.updReq c f).firm = s.firm := by
  rcases updReq_cases s c f with h | h
  · rw [h]
  · rw [h]; rfl
@[simp] theorem updReq_pow (s : State) (c : Nat) (f : Req → Req) :
    (s.updReq c f).pow = s.pow := by
  rcases updReq_cases s c f with h | h
  · rw [h]
  · rw [h]; rfl
@[simp] theorem updReq_core_of (s : State) (c : Nat) (f : Req → Req) (k : Nat) :
    (s.updReq c f).core k = s.core k := by
  rcases updReq_cases s c f with h | h
  · rw [h]
  · rw [h]; rfl
@[simp] theorem updReq_queue_of (s : State) (c : Nat) (f : Req → Req) (k : Nat) :
    (s.updReq c f).queue k = s.queue k := by
  rcases updReq_cases s c f with h | h
  · rw [h]
  · rw [h]; rfl
@[simp] theorem updReq_interp_of (s : State) (c : Nat) (f : Req → Req) (k : Nat) :
    (s.updReq c f).interp k = s.interp k := by
  rcases updReq_cases s c f with h | h
  · rw [h]
  · rw [h]; rfl
@[simp] theorem updReq_team_of (s : State) (c : Nat) (f : Req → Req) (k : Nat) :
    (s.updReq c f).team k = s.team k := by
  rcases updReq_cases s c f with h | h
  · rw [h]
  · rw [h]; rfl
@[simp] theorem updReq_pin_of (s : State) (c : Nat) (f : Req → Req) (k : Nat) :
    (s.updReq c f).pin k = s.pin k := by
  rcases updReq_cases s c f with h | h
  · rw [h]
  · rw [h]; rfl
@[simp] theorem updReq_die_of (s : State) (c : Nat) (f : Req → Req) (k : Nat) :
    (s.updReq c f).die k = s.die k := by
  rcases updReq_cases s c f with h | h
  · rw [h]
  · rw [h]; rfl
@[simp] theorem updReq_mtu_of (s : State) (c : Nat) (f : Req → Req) (k : Nat) :
    (s.updReq c f).mtu k = s.mtu k := by
  rcases updReq_cases s c f with h | h
  · rw [h]
  · rw [h]; rfl
@[simp] theorem updReq_group_of (s : State) (c : Nat) (f : Req → Req) (k : Nat) :
    (s.updReq c f).group k = s.group k := by
  rcases updReq_cases s c f with h | h
  · rw [h]
  · rw [h]; rfl
@[simp] theorem writeG_c (d : Dup) (n : Nat) (v : Word) :
    (d.writeG n v).c = d.c := rfl
@[simp] theorem writeG_loops (d : Dup) (n : Nat) (v : Word) :
    (d.writeG n v).loops = d.loops := rfl
@[simp] theorem writeG_v (d : Dup) (n : Nat) (v : Word) :
    (d.writeG n v).v = d.v := rfl
@[simp] theorem writeG_spill (d : Dup) (n : Nat) (v : Word) :
    (d.writeG n v).spill = d.spill := rfl
@[simp] theorem writeG_ports (d : Dup) (n : Nat) (v : Word) :
    (d.writeG n v).ports = d.ports := rfl
@[simp] theorem writeG_wports (d : Dup) (n : Nat) (v : Word) :
    (d.writeG n v).wports = d.wports := rfl
@[simp] theorem writeG_lat (d : Dup) (n : Nat) (v : Word) :
    (d.writeG n v).lat = d.lat := rfl
@[simp] theorem writeG_wlat (d : Dup) (n : Nat) (v : Word) :
    (d.writeG n v).wlat = d.wlat := rfl
@[simp] theorem writeG_chan (d : Dup) (n : Nat) (v : Word) :
    (d.writeG n v).chan = d.chan := rfl
@[simp] theorem writeG_md (d : Dup) (n : Nat) (v : Word) :
    (d.writeG n v).md = d.md := rfl
@[simp] theorem writeG_fmt (d : Dup) (n : Nat) (v : Word) :
    (d.writeG n v).fmt = d.fmt := rfl
@[simp] theorem writeG_fbase (d : Dup) (n : Nat) (v : Word) :
    (d.writeG n v).fbase = d.fbase := rfl
@[simp] theorem writeG_level (d : Dup) (n : Nat) (v : Word) :
    (d.writeG n v).level = d.level := rfl
@[simp] theorem writeG_fp (d : Dup) (n : Nat) (v : Word) :
    (d.writeG n v).fp = d.fp := rfl
@[simp] theorem writeG_ovq (d : Dup) (n : Nat) (v : Word) :
    (d.writeG n v).ovq = d.ovq := rfl
@[simp] theorem writeG_ovLost (d : Dup) (n : Nat) (v : Word) :
    (d.writeG n v).ovLost = d.ovLost := rfl
@[simp] theorem writeG_arrival (d : Dup) (n : Nat) (v : Word) :
    (d.writeG n v).arrival = d.arrival := rfl
@[simp] theorem writeG_port_of (d : Dup) (n : Nat) (v : Word) (k : Nat) :
    (d.writeG n v).port k = d.port k := rfl
@[simp] theorem writeG_wport_of (d : Dup) (n : Nat) (v : Word) (k : Nat) :
    (d.writeG n v).wport k = d.wport k := rfl
@[simp] theorem writeG_latch_of (d : Dup) (n : Nat) (v : Word) (k : Nat) :
    (d.writeG n v).latch k = d.latch k := rfl
@[simp] theorem writeG_wlatch_of (d : Dup) (n : Nat) (v : Word) (k : Nat) :
    (d.writeG n v).wlatch k = d.wlatch k := rfl
@[simp] theorem writeG_vreg_of (d : Dup) (n : Nat) (v : Word) (k : Nat) :
    (d.writeG n v).vreg k = d.vreg k := rfl
@[simp] theorem writeG_spillReg_of (d : Dup) (n : Nat) (v : Word) (k : Nat) :
    (d.writeG n v).spillReg k = d.spillReg k := rfl
@[simp] theorem writeG_chanOf_of (d : Dup) (n : Nat) (v : Word) (k : Nat) :
    (d.writeG n v).chanOf k = d.chanOf k := rfl
@[simp] theorem writeG_mdOf_of (d : Dup) (n : Nat) (v : Word) (k : Nat) :
    (d.writeG n v).mdOf k = d.mdOf k := rfl
@[simp] theorem writeG_fmtOf_of (d : Dup) (n : Nat) (v : Word) (k : Nat) :
    (d.writeG n v).fmtOf k = d.fmtOf k := rfl
@[simp] theorem writeG_fpOf_of (d : Dup) (n : Nat) (v : Word) (k : Nat) :
    (d.writeG n v).fpOf k = d.fpOf k := rfl
@[simp] theorem writeG_greg_get (d : Dup) (n : Nat) (v : Word) (k : Nat) :
    (d.writeG n v).greg k = if k = n then ⟨v, .full⟩ else d.greg k := tab_get_set _ _ _ _ _
@[simp] theorem emptyG_c (d : Dup) (n : Nat) :
    (d.emptyG n).c = d.c := rfl
@[simp] theorem emptyG_loops (d : Dup) (n : Nat) :
    (d.emptyG n).loops = d.loops := rfl
@[simp] theorem emptyG_v (d : Dup) (n : Nat) :
    (d.emptyG n).v = d.v := rfl
@[simp] theorem emptyG_spill (d : Dup) (n : Nat) :
    (d.emptyG n).spill = d.spill := rfl
@[simp] theorem emptyG_ports (d : Dup) (n : Nat) :
    (d.emptyG n).ports = d.ports := rfl
@[simp] theorem emptyG_wports (d : Dup) (n : Nat) :
    (d.emptyG n).wports = d.wports := rfl
@[simp] theorem emptyG_lat (d : Dup) (n : Nat) :
    (d.emptyG n).lat = d.lat := rfl
@[simp] theorem emptyG_wlat (d : Dup) (n : Nat) :
    (d.emptyG n).wlat = d.wlat := rfl
@[simp] theorem emptyG_chan (d : Dup) (n : Nat) :
    (d.emptyG n).chan = d.chan := rfl
@[simp] theorem emptyG_md (d : Dup) (n : Nat) :
    (d.emptyG n).md = d.md := rfl
@[simp] theorem emptyG_fmt (d : Dup) (n : Nat) :
    (d.emptyG n).fmt = d.fmt := rfl
@[simp] theorem emptyG_fbase (d : Dup) (n : Nat) :
    (d.emptyG n).fbase = d.fbase := rfl
@[simp] theorem emptyG_level (d : Dup) (n : Nat) :
    (d.emptyG n).level = d.level := rfl
@[simp] theorem emptyG_fp (d : Dup) (n : Nat) :
    (d.emptyG n).fp = d.fp := rfl
@[simp] theorem emptyG_ovq (d : Dup) (n : Nat) :
    (d.emptyG n).ovq = d.ovq := rfl
@[simp] theorem emptyG_ovLost (d : Dup) (n : Nat) :
    (d.emptyG n).ovLost = d.ovLost := rfl
@[simp] theorem emptyG_arrival (d : Dup) (n : Nat) :
    (d.emptyG n).arrival = d.arrival := rfl
@[simp] theorem emptyG_port_of (d : Dup) (n : Nat) (k : Nat) :
    (d.emptyG n).port k = d.port k := rfl
@[simp] theorem emptyG_wport_of (d : Dup) (n : Nat) (k : Nat) :
    (d.emptyG n).wport k = d.wport k := rfl
@[simp] theorem emptyG_latch_of (d : Dup) (n : Nat) (k : Nat) :
    (d.emptyG n).latch k = d.latch k := rfl
@[simp] theorem emptyG_wlatch_of (d : Dup) (n : Nat) (k : Nat) :
    (d.emptyG n).wlatch k = d.wlatch k := rfl
@[simp] theorem emptyG_vreg_of (d : Dup) (n : Nat) (k : Nat) :
    (d.emptyG n).vreg k = d.vreg k := rfl
@[simp] theorem emptyG_spillReg_of (d : Dup) (n : Nat) (k : Nat) :
    (d.emptyG n).spillReg k = d.spillReg k := rfl
@[simp] theorem emptyG_chanOf_of (d : Dup) (n : Nat) (k : Nat) :
    (d.emptyG n).chanOf k = d.chanOf k := rfl
@[simp] theorem emptyG_mdOf_of (d : Dup) (n : Nat) (k : Nat) :
    (d.emptyG n).mdOf k = d.mdOf k := rfl
@[simp] theorem emptyG_fmtOf_of (d : Dup) (n : Nat) (k : Nat) :
    (d.emptyG n).fmtOf k = d.fmtOf k := rfl
@[simp] theorem emptyG_fpOf_of (d : Dup) (n : Nat) (k : Nat) :
    (d.emptyG n).fpOf k = d.fpOf k := rfl
@[simp] theorem emptyG_greg_get (d : Dup) (n : Nat) (k : Nat) :
    (d.emptyG n).greg k = if k = n then ⟨(d.greg n).val, .empty⟩ else d.greg k := tab_get_set _ _ _ _ _
@[simp] theorem poisonG_c (d : Dup) (n c : Nat) :
    (d.poisonG n c).c = d.c := rfl
@[simp] theorem poisonG_loops (d : Dup) (n c : Nat) :
    (d.poisonG n c).loops = d.loops := rfl
@[simp] theorem poisonG_v (d : Dup) (n c : Nat) :
    (d.poisonG n c).v = d.v := rfl
@[simp] theorem poisonG_spill (d : Dup) (n c : Nat) :
    (d.poisonG n c).spill = d.spill := rfl
@[simp] theorem poisonG_ports (d : Dup) (n c : Nat) :
    (d.poisonG n c).ports = d.ports := rfl
@[simp] theorem poisonG_wports (d : Dup) (n c : Nat) :
    (d.poisonG n c).wports = d.wports := rfl
@[simp] theorem poisonG_lat (d : Dup) (n c : Nat) :
    (d.poisonG n c).lat = d.lat := rfl
@[simp] theorem poisonG_wlat (d : Dup) (n c : Nat) :
    (d.poisonG n c).wlat = d.wlat := rfl
@[simp] theorem poisonG_chan (d : Dup) (n c : Nat) :
    (d.poisonG n c).chan = d.chan := rfl
@[simp] theorem poisonG_md (d : Dup) (n c : Nat) :
    (d.poisonG n c).md = d.md := rfl
@[simp] theorem poisonG_fmt (d : Dup) (n c : Nat) :
    (d.poisonG n c).fmt = d.fmt := rfl
@[simp] theorem poisonG_fbase (d : Dup) (n c : Nat) :
    (d.poisonG n c).fbase = d.fbase := rfl
@[simp] theorem poisonG_level (d : Dup) (n c : Nat) :
    (d.poisonG n c).level = d.level := rfl
@[simp] theorem poisonG_fp (d : Dup) (n c : Nat) :
    (d.poisonG n c).fp = d.fp := rfl
@[simp] theorem poisonG_ovq (d : Dup) (n c : Nat) :
    (d.poisonG n c).ovq = d.ovq := rfl
@[simp] theorem poisonG_ovLost (d : Dup) (n c : Nat) :
    (d.poisonG n c).ovLost = d.ovLost := rfl
@[simp] theorem poisonG_arrival (d : Dup) (n c : Nat) :
    (d.poisonG n c).arrival = d.arrival := rfl
@[simp] theorem poisonG_port_of (d : Dup) (n c : Nat) (k : Nat) :
    (d.poisonG n c).port k = d.port k := rfl
@[simp] theorem poisonG_wport_of (d : Dup) (n c : Nat) (k : Nat) :
    (d.poisonG n c).wport k = d.wport k := rfl
@[simp] theorem poisonG_latch_of (d : Dup) (n c : Nat) (k : Nat) :
    (d.poisonG n c).latch k = d.latch k := rfl
@[simp] theorem poisonG_wlatch_of (d : Dup) (n c : Nat) (k : Nat) :
    (d.poisonG n c).wlatch k = d.wlatch k := rfl
@[simp] theorem poisonG_vreg_of (d : Dup) (n c : Nat) (k : Nat) :
    (d.poisonG n c).vreg k = d.vreg k := rfl
@[simp] theorem poisonG_spillReg_of (d : Dup) (n c : Nat) (k : Nat) :
    (d.poisonG n c).spillReg k = d.spillReg k := rfl
@[simp] theorem poisonG_chanOf_of (d : Dup) (n c : Nat) (k : Nat) :
    (d.poisonG n c).chanOf k = d.chanOf k := rfl
@[simp] theorem poisonG_mdOf_of (d : Dup) (n c : Nat) (k : Nat) :
    (d.poisonG n c).mdOf k = d.mdOf k := rfl
@[simp] theorem poisonG_fmtOf_of (d : Dup) (n c : Nat) (k : Nat) :
    (d.poisonG n c).fmtOf k = d.fmtOf k := rfl
@[simp] theorem poisonG_fpOf_of (d : Dup) (n c : Nat) (k : Nat) :
    (d.poisonG n c).fpOf k = d.fpOf k := rfl
@[simp] theorem poisonG_greg_get (d : Dup) (n c : Nat) (k : Nat) :
    (d.poisonG n c).greg k = if k = n then ⟨(d.greg n).val, .poison c⟩ else d.greg k := tab_get_set _ _ _ _ _
@[simp] theorem setPort_g (d : Dup) (n : Nat) (v : Word) :
    (d.setPort n v).g = d.g := rfl
@[simp] theorem setPort_c (d : Dup) (n : Nat) (v : Word) :
    (d.setPort n v).c = d.c := rfl
@[simp] theorem setPort_loops (d : Dup) (n : Nat) (v : Word) :
    (d.setPort n v).loops = d.loops := rfl
@[simp] theorem setPort_v (d : Dup) (n : Nat) (v : Word) :
    (d.setPort n v).v = d.v := rfl
@[simp] theorem setPort_spill (d : Dup) (n : Nat) (v : Word) :
    (d.setPort n v).spill = d.spill := rfl
@[simp] theorem setPort_wports (d : Dup) (n : Nat) (v : Word) :
    (d.setPort n v).wports = d.wports := rfl
@[simp] theorem setPort_lat (d : Dup) (n : Nat) (v : Word) :
    (d.setPort n v).lat = d.lat := rfl
@[simp] theorem setPort_wlat (d : Dup) (n : Nat) (v : Word) :
    (d.setPort n v).wlat = d.wlat := rfl
@[simp] theorem setPort_chan (d : Dup) (n : Nat) (v : Word) :
    (d.setPort n v).chan = d.chan := rfl
@[simp] theorem setPort_md (d : Dup) (n : Nat) (v : Word) :
    (d.setPort n v).md = d.md := rfl
@[simp] theorem setPort_fmt (d : Dup) (n : Nat) (v : Word) :
    (d.setPort n v).fmt = d.fmt := rfl
@[simp] theorem setPort_fbase (d : Dup) (n : Nat) (v : Word) :
    (d.setPort n v).fbase = d.fbase := rfl
@[simp] theorem setPort_level (d : Dup) (n : Nat) (v : Word) :
    (d.setPort n v).level = d.level := rfl
@[simp] theorem setPort_fp (d : Dup) (n : Nat) (v : Word) :
    (d.setPort n v).fp = d.fp := rfl
@[simp] theorem setPort_ovq (d : Dup) (n : Nat) (v : Word) :
    (d.setPort n v).ovq = d.ovq := rfl
@[simp] theorem setPort_ovLost (d : Dup) (n : Nat) (v : Word) :
    (d.setPort n v).ovLost = d.ovLost := rfl
@[simp] theorem setPort_arrival (d : Dup) (n : Nat) (v : Word) :
    (d.setPort n v).arrival = d.arrival := rfl
@[simp] theorem setPort_greg_of (d : Dup) (n : Nat) (v : Word) (k : Nat) :
    (d.setPort n v).greg k = d.greg k := rfl
@[simp] theorem setPort_wport_of (d : Dup) (n : Nat) (v : Word) (k : Nat) :
    (d.setPort n v).wport k = d.wport k := rfl
@[simp] theorem setPort_latch_of (d : Dup) (n : Nat) (v : Word) (k : Nat) :
    (d.setPort n v).latch k = d.latch k := rfl
@[simp] theorem setPort_wlatch_of (d : Dup) (n : Nat) (v : Word) (k : Nat) :
    (d.setPort n v).wlatch k = d.wlatch k := rfl
@[simp] theorem setPort_vreg_of (d : Dup) (n : Nat) (v : Word) (k : Nat) :
    (d.setPort n v).vreg k = d.vreg k := rfl
@[simp] theorem setPort_spillReg_of (d : Dup) (n : Nat) (v : Word) (k : Nat) :
    (d.setPort n v).spillReg k = d.spillReg k := rfl
@[simp] theorem setPort_chanOf_of (d : Dup) (n : Nat) (v : Word) (k : Nat) :
    (d.setPort n v).chanOf k = d.chanOf k := rfl
@[simp] theorem setPort_mdOf_of (d : Dup) (n : Nat) (v : Word) (k : Nat) :
    (d.setPort n v).mdOf k = d.mdOf k := rfl
@[simp] theorem setPort_fmtOf_of (d : Dup) (n : Nat) (v : Word) (k : Nat) :
    (d.setPort n v).fmtOf k = d.fmtOf k := rfl
@[simp] theorem setPort_fpOf_of (d : Dup) (n : Nat) (v : Word) (k : Nat) :
    (d.setPort n v).fpOf k = d.fpOf k := rfl
@[simp] theorem setPort_port_get (d : Dup) (n : Nat) (v : Word) (k : Nat) :
    (d.setPort n v).port k = if k = n then v else d.port k := tab_get_set _ _ _ _ _
@[simp] theorem setWport_g (d : Dup) (n : Nat) (v : Wide) :
    (d.setWport n v).g = d.g := rfl
@[simp] theorem setWport_c (d : Dup) (n : Nat) (v : Wide) :
    (d.setWport n v).c = d.c := rfl
@[simp] theorem setWport_loops (d : Dup) (n : Nat) (v : Wide) :
    (d.setWport n v).loops = d.loops := rfl
@[simp] theorem setWport_v (d : Dup) (n : Nat) (v : Wide) :
    (d.setWport n v).v = d.v := rfl
@[simp] theorem setWport_spill (d : Dup) (n : Nat) (v : Wide) :
    (d.setWport n v).spill = d.spill := rfl
@[simp] theorem setWport_ports (d : Dup) (n : Nat) (v : Wide) :
    (d.setWport n v).ports = d.ports := rfl
@[simp] theorem setWport_lat (d : Dup) (n : Nat) (v : Wide) :
    (d.setWport n v).lat = d.lat := rfl
@[simp] theorem setWport_wlat (d : Dup) (n : Nat) (v : Wide) :
    (d.setWport n v).wlat = d.wlat := rfl
@[simp] theorem setWport_chan (d : Dup) (n : Nat) (v : Wide) :
    (d.setWport n v).chan = d.chan := rfl
@[simp] theorem setWport_md (d : Dup) (n : Nat) (v : Wide) :
    (d.setWport n v).md = d.md := rfl
@[simp] theorem setWport_fmt (d : Dup) (n : Nat) (v : Wide) :
    (d.setWport n v).fmt = d.fmt := rfl
@[simp] theorem setWport_fbase (d : Dup) (n : Nat) (v : Wide) :
    (d.setWport n v).fbase = d.fbase := rfl
@[simp] theorem setWport_level (d : Dup) (n : Nat) (v : Wide) :
    (d.setWport n v).level = d.level := rfl
@[simp] theorem setWport_fp (d : Dup) (n : Nat) (v : Wide) :
    (d.setWport n v).fp = d.fp := rfl
@[simp] theorem setWport_ovq (d : Dup) (n : Nat) (v : Wide) :
    (d.setWport n v).ovq = d.ovq := rfl
@[simp] theorem setWport_ovLost (d : Dup) (n : Nat) (v : Wide) :
    (d.setWport n v).ovLost = d.ovLost := rfl
@[simp] theorem setWport_arrival (d : Dup) (n : Nat) (v : Wide) :
    (d.setWport n v).arrival = d.arrival := rfl
@[simp] theorem setWport_greg_of (d : Dup) (n : Nat) (v : Wide) (k : Nat) :
    (d.setWport n v).greg k = d.greg k := rfl
@[simp] theorem setWport_port_of (d : Dup) (n : Nat) (v : Wide) (k : Nat) :
    (d.setWport n v).port k = d.port k := rfl
@[simp] theorem setWport_latch_of (d : Dup) (n : Nat) (v : Wide) (k : Nat) :
    (d.setWport n v).latch k = d.latch k := rfl
@[simp] theorem setWport_wlatch_of (d : Dup) (n : Nat) (v : Wide) (k : Nat) :
    (d.setWport n v).wlatch k = d.wlatch k := rfl
@[simp] theorem setWport_vreg_of (d : Dup) (n : Nat) (v : Wide) (k : Nat) :
    (d.setWport n v).vreg k = d.vreg k := rfl
@[simp] theorem setWport_spillReg_of (d : Dup) (n : Nat) (v : Wide) (k : Nat) :
    (d.setWport n v).spillReg k = d.spillReg k := rfl
@[simp] theorem setWport_chanOf_of (d : Dup) (n : Nat) (v : Wide) (k : Nat) :
    (d.setWport n v).chanOf k = d.chanOf k := rfl
@[simp] theorem setWport_mdOf_of (d : Dup) (n : Nat) (v : Wide) (k : Nat) :
    (d.setWport n v).mdOf k = d.mdOf k := rfl
@[simp] theorem setWport_fmtOf_of (d : Dup) (n : Nat) (v : Wide) (k : Nat) :
    (d.setWport n v).fmtOf k = d.fmtOf k := rfl
@[simp] theorem setWport_fpOf_of (d : Dup) (n : Nat) (v : Wide) (k : Nat) :
    (d.setWport n v).fpOf k = d.fpOf k := rfl
@[simp] theorem setWport_wport_get (d : Dup) (n : Nat) (v : Wide) (k : Nat) :
    (d.setWport n v).wport k = if k = n then v else d.wport k := tab_get_set _ _ _ _ _
@[simp] theorem setLatch_g (d : Dup) (n : Nat) (v : Word) :
    (d.setLatch n v).g = d.g := rfl
@[simp] theorem setLatch_c (d : Dup) (n : Nat) (v : Word) :
    (d.setLatch n v).c = d.c := rfl
@[simp] theorem setLatch_loops (d : Dup) (n : Nat) (v : Word) :
    (d.setLatch n v).loops = d.loops := rfl
@[simp] theorem setLatch_v (d : Dup) (n : Nat) (v : Word) :
    (d.setLatch n v).v = d.v := rfl
@[simp] theorem setLatch_spill (d : Dup) (n : Nat) (v : Word) :
    (d.setLatch n v).spill = d.spill := rfl
@[simp] theorem setLatch_ports (d : Dup) (n : Nat) (v : Word) :
    (d.setLatch n v).ports = d.ports := rfl
@[simp] theorem setLatch_wports (d : Dup) (n : Nat) (v : Word) :
    (d.setLatch n v).wports = d.wports := rfl
@[simp] theorem setLatch_wlat (d : Dup) (n : Nat) (v : Word) :
    (d.setLatch n v).wlat = d.wlat := rfl
@[simp] theorem setLatch_chan (d : Dup) (n : Nat) (v : Word) :
    (d.setLatch n v).chan = d.chan := rfl
@[simp] theorem setLatch_md (d : Dup) (n : Nat) (v : Word) :
    (d.setLatch n v).md = d.md := rfl
@[simp] theorem setLatch_fmt (d : Dup) (n : Nat) (v : Word) :
    (d.setLatch n v).fmt = d.fmt := rfl
@[simp] theorem setLatch_fbase (d : Dup) (n : Nat) (v : Word) :
    (d.setLatch n v).fbase = d.fbase := rfl
@[simp] theorem setLatch_level (d : Dup) (n : Nat) (v : Word) :
    (d.setLatch n v).level = d.level := rfl
@[simp] theorem setLatch_fp (d : Dup) (n : Nat) (v : Word) :
    (d.setLatch n v).fp = d.fp := rfl
@[simp] theorem setLatch_ovq (d : Dup) (n : Nat) (v : Word) :
    (d.setLatch n v).ovq = d.ovq := rfl
@[simp] theorem setLatch_ovLost (d : Dup) (n : Nat) (v : Word) :
    (d.setLatch n v).ovLost = d.ovLost := rfl
@[simp] theorem setLatch_arrival (d : Dup) (n : Nat) (v : Word) :
    (d.setLatch n v).arrival = d.arrival := rfl
@[simp] theorem setLatch_greg_of (d : Dup) (n : Nat) (v : Word) (k : Nat) :
    (d.setLatch n v).greg k = d.greg k := rfl
@[simp] theorem setLatch_port_of (d : Dup) (n : Nat) (v : Word) (k : Nat) :
    (d.setLatch n v).port k = d.port k := rfl
@[simp] theorem setLatch_wport_of (d : Dup) (n : Nat) (v : Word) (k : Nat) :
    (d.setLatch n v).wport k = d.wport k := rfl
@[simp] theorem setLatch_wlatch_of (d : Dup) (n : Nat) (v : Word) (k : Nat) :
    (d.setLatch n v).wlatch k = d.wlatch k := rfl
@[simp] theorem setLatch_vreg_of (d : Dup) (n : Nat) (v : Word) (k : Nat) :
    (d.setLatch n v).vreg k = d.vreg k := rfl
@[simp] theorem setLatch_spillReg_of (d : Dup) (n : Nat) (v : Word) (k : Nat) :
    (d.setLatch n v).spillReg k = d.spillReg k := rfl
@[simp] theorem setLatch_chanOf_of (d : Dup) (n : Nat) (v : Word) (k : Nat) :
    (d.setLatch n v).chanOf k = d.chanOf k := rfl
@[simp] theorem setLatch_mdOf_of (d : Dup) (n : Nat) (v : Word) (k : Nat) :
    (d.setLatch n v).mdOf k = d.mdOf k := rfl
@[simp] theorem setLatch_fmtOf_of (d : Dup) (n : Nat) (v : Word) (k : Nat) :
    (d.setLatch n v).fmtOf k = d.fmtOf k := rfl
@[simp] theorem setLatch_fpOf_of (d : Dup) (n : Nat) (v : Word) (k : Nat) :
    (d.setLatch n v).fpOf k = d.fpOf k := rfl
@[simp] theorem setLatch_latch_get (d : Dup) (n : Nat) (v : Word) (k : Nat) :
    (d.setLatch n v).latch k = if k = n then v else d.latch k := tab_get_set _ _ _ _ _
@[simp] theorem setWlatch_g (d : Dup) (n : Nat) (v : Wide) :
    (d.setWlatch n v).g = d.g := rfl
@[simp] theorem setWlatch_c (d : Dup) (n : Nat) (v : Wide) :
    (d.setWlatch n v).c = d.c := rfl
@[simp] theorem setWlatch_loops (d : Dup) (n : Nat) (v : Wide) :
    (d.setWlatch n v).loops = d.loops := rfl
@[simp] theorem setWlatch_v (d : Dup) (n : Nat) (v : Wide) :
    (d.setWlatch n v).v = d.v := rfl
@[simp] theorem setWlatch_spill (d : Dup) (n : Nat) (v : Wide) :
    (d.setWlatch n v).spill = d.spill := rfl
@[simp] theorem setWlatch_ports (d : Dup) (n : Nat) (v : Wide) :
    (d.setWlatch n v).ports = d.ports := rfl
@[simp] theorem setWlatch_wports (d : Dup) (n : Nat) (v : Wide) :
    (d.setWlatch n v).wports = d.wports := rfl
@[simp] theorem setWlatch_lat (d : Dup) (n : Nat) (v : Wide) :
    (d.setWlatch n v).lat = d.lat := rfl
@[simp] theorem setWlatch_chan (d : Dup) (n : Nat) (v : Wide) :
    (d.setWlatch n v).chan = d.chan := rfl
@[simp] theorem setWlatch_md (d : Dup) (n : Nat) (v : Wide) :
    (d.setWlatch n v).md = d.md := rfl
@[simp] theorem setWlatch_fmt (d : Dup) (n : Nat) (v : Wide) :
    (d.setWlatch n v).fmt = d.fmt := rfl
@[simp] theorem setWlatch_fbase (d : Dup) (n : Nat) (v : Wide) :
    (d.setWlatch n v).fbase = d.fbase := rfl
@[simp] theorem setWlatch_level (d : Dup) (n : Nat) (v : Wide) :
    (d.setWlatch n v).level = d.level := rfl
@[simp] theorem setWlatch_fp (d : Dup) (n : Nat) (v : Wide) :
    (d.setWlatch n v).fp = d.fp := rfl
@[simp] theorem setWlatch_ovq (d : Dup) (n : Nat) (v : Wide) :
    (d.setWlatch n v).ovq = d.ovq := rfl
@[simp] theorem setWlatch_ovLost (d : Dup) (n : Nat) (v : Wide) :
    (d.setWlatch n v).ovLost = d.ovLost := rfl
@[simp] theorem setWlatch_arrival (d : Dup) (n : Nat) (v : Wide) :
    (d.setWlatch n v).arrival = d.arrival := rfl
@[simp] theorem setWlatch_greg_of (d : Dup) (n : Nat) (v : Wide) (k : Nat) :
    (d.setWlatch n v).greg k = d.greg k := rfl
@[simp] theorem setWlatch_port_of (d : Dup) (n : Nat) (v : Wide) (k : Nat) :
    (d.setWlatch n v).port k = d.port k := rfl
@[simp] theorem setWlatch_wport_of (d : Dup) (n : Nat) (v : Wide) (k : Nat) :
    (d.setWlatch n v).wport k = d.wport k := rfl
@[simp] theorem setWlatch_latch_of (d : Dup) (n : Nat) (v : Wide) (k : Nat) :
    (d.setWlatch n v).latch k = d.latch k := rfl
@[simp] theorem setWlatch_vreg_of (d : Dup) (n : Nat) (v : Wide) (k : Nat) :
    (d.setWlatch n v).vreg k = d.vreg k := rfl
@[simp] theorem setWlatch_spillReg_of (d : Dup) (n : Nat) (v : Wide) (k : Nat) :
    (d.setWlatch n v).spillReg k = d.spillReg k := rfl
@[simp] theorem setWlatch_chanOf_of (d : Dup) (n : Nat) (v : Wide) (k : Nat) :
    (d.setWlatch n v).chanOf k = d.chanOf k := rfl
@[simp] theorem setWlatch_mdOf_of (d : Dup) (n : Nat) (v : Wide) (k : Nat) :
    (d.setWlatch n v).mdOf k = d.mdOf k := rfl
@[simp] theorem setWlatch_fmtOf_of (d : Dup) (n : Nat) (v : Wide) (k : Nat) :
    (d.setWlatch n v).fmtOf k = d.fmtOf k := rfl
@[simp] theorem setWlatch_fpOf_of (d : Dup) (n : Nat) (v : Wide) (k : Nat) :
    (d.setWlatch n v).fpOf k = d.fpOf k := rfl
@[simp] theorem setWlatch_wlatch_get (d : Dup) (n : Nat) (v : Wide) (k : Nat) :
    (d.setWlatch n v).wlatch k = if k = n then v else d.wlatch k := tab_get_set _ _ _ _ _
@[simp] theorem setV_g (d : Dup) (n : Nat) (v : Wide) :
    (d.setV n v).g = d.g := rfl
@[simp] theorem setV_c (d : Dup) (n : Nat) (v : Wide) :
    (d.setV n v).c = d.c := rfl
@[simp] theorem setV_loops (d : Dup) (n : Nat) (v : Wide) :
    (d.setV n v).loops = d.loops := rfl
@[simp] theorem setV_spill (d : Dup) (n : Nat) (v : Wide) :
    (d.setV n v).spill = d.spill := rfl
@[simp] theorem setV_ports (d : Dup) (n : Nat) (v : Wide) :
    (d.setV n v).ports = d.ports := rfl
@[simp] theorem setV_wports (d : Dup) (n : Nat) (v : Wide) :
    (d.setV n v).wports = d.wports := rfl
@[simp] theorem setV_lat (d : Dup) (n : Nat) (v : Wide) :
    (d.setV n v).lat = d.lat := rfl
@[simp] theorem setV_wlat (d : Dup) (n : Nat) (v : Wide) :
    (d.setV n v).wlat = d.wlat := rfl
@[simp] theorem setV_chan (d : Dup) (n : Nat) (v : Wide) :
    (d.setV n v).chan = d.chan := rfl
@[simp] theorem setV_md (d : Dup) (n : Nat) (v : Wide) :
    (d.setV n v).md = d.md := rfl
@[simp] theorem setV_fmt (d : Dup) (n : Nat) (v : Wide) :
    (d.setV n v).fmt = d.fmt := rfl
@[simp] theorem setV_fbase (d : Dup) (n : Nat) (v : Wide) :
    (d.setV n v).fbase = d.fbase := rfl
@[simp] theorem setV_level (d : Dup) (n : Nat) (v : Wide) :
    (d.setV n v).level = d.level := rfl
@[simp] theorem setV_fp (d : Dup) (n : Nat) (v : Wide) :
    (d.setV n v).fp = d.fp := rfl
@[simp] theorem setV_ovq (d : Dup) (n : Nat) (v : Wide) :
    (d.setV n v).ovq = d.ovq := rfl
@[simp] theorem setV_ovLost (d : Dup) (n : Nat) (v : Wide) :
    (d.setV n v).ovLost = d.ovLost := rfl
@[simp] theorem setV_arrival (d : Dup) (n : Nat) (v : Wide) :
    (d.setV n v).arrival = d.arrival := rfl
@[simp] theorem setV_greg_of (d : Dup) (n : Nat) (v : Wide) (k : Nat) :
    (d.setV n v).greg k = d.greg k := rfl
@[simp] theorem setV_port_of (d : Dup) (n : Nat) (v : Wide) (k : Nat) :
    (d.setV n v).port k = d.port k := rfl
@[simp] theorem setV_wport_of (d : Dup) (n : Nat) (v : Wide) (k : Nat) :
    (d.setV n v).wport k = d.wport k := rfl
@[simp] theorem setV_latch_of (d : Dup) (n : Nat) (v : Wide) (k : Nat) :
    (d.setV n v).latch k = d.latch k := rfl
@[simp] theorem setV_wlatch_of (d : Dup) (n : Nat) (v : Wide) (k : Nat) :
    (d.setV n v).wlatch k = d.wlatch k := rfl
@[simp] theorem setV_spillReg_of (d : Dup) (n : Nat) (v : Wide) (k : Nat) :
    (d.setV n v).spillReg k = d.spillReg k := rfl
@[simp] theorem setV_chanOf_of (d : Dup) (n : Nat) (v : Wide) (k : Nat) :
    (d.setV n v).chanOf k = d.chanOf k := rfl
@[simp] theorem setV_mdOf_of (d : Dup) (n : Nat) (v : Wide) (k : Nat) :
    (d.setV n v).mdOf k = d.mdOf k := rfl
@[simp] theorem setV_fmtOf_of (d : Dup) (n : Nat) (v : Wide) (k : Nat) :
    (d.setV n v).fmtOf k = d.fmtOf k := rfl
@[simp] theorem setV_fpOf_of (d : Dup) (n : Nat) (v : Wide) (k : Nat) :
    (d.setV n v).fpOf k = d.fpOf k := rfl
@[simp] theorem setV_vreg_get (d : Dup) (n : Nat) (v : Wide) (k : Nat) :
    (d.setV n v).vreg k = if k = n then v else d.vreg k := tab_get_set _ _ _ _ _
@[simp] theorem setSpill_g (d : Dup) (n : Nat) (v : Word) :
    (d.setSpill n v).g = d.g := rfl
@[simp] theorem setSpill_c (d : Dup) (n : Nat) (v : Word) :
    (d.setSpill n v).c = d.c := rfl
@[simp] theorem setSpill_loops (d : Dup) (n : Nat) (v : Word) :
    (d.setSpill n v).loops = d.loops := rfl
@[simp] theorem setSpill_v (d : Dup) (n : Nat) (v : Word) :
    (d.setSpill n v).v = d.v := rfl
@[simp] theorem setSpill_ports (d : Dup) (n : Nat) (v : Word) :
    (d.setSpill n v).ports = d.ports := rfl
@[simp] theorem setSpill_wports (d : Dup) (n : Nat) (v : Word) :
    (d.setSpill n v).wports = d.wports := rfl
@[simp] theorem setSpill_lat (d : Dup) (n : Nat) (v : Word) :
    (d.setSpill n v).lat = d.lat := rfl
@[simp] theorem setSpill_wlat (d : Dup) (n : Nat) (v : Word) :
    (d.setSpill n v).wlat = d.wlat := rfl
@[simp] theorem setSpill_chan (d : Dup) (n : Nat) (v : Word) :
    (d.setSpill n v).chan = d.chan := rfl
@[simp] theorem setSpill_md (d : Dup) (n : Nat) (v : Word) :
    (d.setSpill n v).md = d.md := rfl
@[simp] theorem setSpill_fmt (d : Dup) (n : Nat) (v : Word) :
    (d.setSpill n v).fmt = d.fmt := rfl
@[simp] theorem setSpill_fbase (d : Dup) (n : Nat) (v : Word) :
    (d.setSpill n v).fbase = d.fbase := rfl
@[simp] theorem setSpill_level (d : Dup) (n : Nat) (v : Word) :
    (d.setSpill n v).level = d.level := rfl
@[simp] theorem setSpill_fp (d : Dup) (n : Nat) (v : Word) :
    (d.setSpill n v).fp = d.fp := rfl
@[simp] theorem setSpill_ovq (d : Dup) (n : Nat) (v : Word) :
    (d.setSpill n v).ovq = d.ovq := rfl
@[simp] theorem setSpill_ovLost (d : Dup) (n : Nat) (v : Word) :
    (d.setSpill n v).ovLost = d.ovLost := rfl
@[simp] theorem setSpill_arrival (d : Dup) (n : Nat) (v : Word) :
    (d.setSpill n v).arrival = d.arrival := rfl
@[simp] theorem setSpill_greg_of (d : Dup) (n : Nat) (v : Word) (k : Nat) :
    (d.setSpill n v).greg k = d.greg k := rfl
@[simp] theorem setSpill_port_of (d : Dup) (n : Nat) (v : Word) (k : Nat) :
    (d.setSpill n v).port k = d.port k := rfl
@[simp] theorem setSpill_wport_of (d : Dup) (n : Nat) (v : Word) (k : Nat) :
    (d.setSpill n v).wport k = d.wport k := rfl
@[simp] theorem setSpill_latch_of (d : Dup) (n : Nat) (v : Word) (k : Nat) :
    (d.setSpill n v).latch k = d.latch k := rfl
@[simp] theorem setSpill_wlatch_of (d : Dup) (n : Nat) (v : Word) (k : Nat) :
    (d.setSpill n v).wlatch k = d.wlatch k := rfl
@[simp] theorem setSpill_vreg_of (d : Dup) (n : Nat) (v : Word) (k : Nat) :
    (d.setSpill n v).vreg k = d.vreg k := rfl
@[simp] theorem setSpill_chanOf_of (d : Dup) (n : Nat) (v : Word) (k : Nat) :
    (d.setSpill n v).chanOf k = d.chanOf k := rfl
@[simp] theorem setSpill_mdOf_of (d : Dup) (n : Nat) (v : Word) (k : Nat) :
    (d.setSpill n v).mdOf k = d.mdOf k := rfl
@[simp] theorem setSpill_fmtOf_of (d : Dup) (n : Nat) (v : Word) (k : Nat) :
    (d.setSpill n v).fmtOf k = d.fmtOf k := rfl
@[simp] theorem setSpill_fpOf_of (d : Dup) (n : Nat) (v : Word) (k : Nat) :
    (d.setSpill n v).fpOf k = d.fpOf k := rfl
@[simp] theorem setSpill_spillReg_get (d : Dup) (n : Nat) (v : Word) (k : Nat) :
    (d.setSpill n v).spillReg k = if k = n then v else d.spillReg k := tab_get_set _ _ _ _ _
@[simp] theorem setC_g (d : Dup) (n : Nat) (b : Bool) :
    (d.setC n b).g = d.g := rfl
@[simp] theorem setC_loops (d : Dup) (n : Nat) (b : Bool) :
    (d.setC n b).loops = d.loops := rfl
@[simp] theorem setC_v (d : Dup) (n : Nat) (b : Bool) :
    (d.setC n b).v = d.v := rfl
@[simp] theorem setC_spill (d : Dup) (n : Nat) (b : Bool) :
    (d.setC n b).spill = d.spill := rfl
@[simp] theorem setC_ports (d : Dup) (n : Nat) (b : Bool) :
    (d.setC n b).ports = d.ports := rfl
@[simp] theorem setC_wports (d : Dup) (n : Nat) (b : Bool) :
    (d.setC n b).wports = d.wports := rfl
@[simp] theorem setC_lat (d : Dup) (n : Nat) (b : Bool) :
    (d.setC n b).lat = d.lat := rfl
@[simp] theorem setC_wlat (d : Dup) (n : Nat) (b : Bool) :
    (d.setC n b).wlat = d.wlat := rfl
@[simp] theorem setC_chan (d : Dup) (n : Nat) (b : Bool) :
    (d.setC n b).chan = d.chan := rfl
@[simp] theorem setC_md (d : Dup) (n : Nat) (b : Bool) :
    (d.setC n b).md = d.md := rfl
@[simp] theorem setC_fmt (d : Dup) (n : Nat) (b : Bool) :
    (d.setC n b).fmt = d.fmt := rfl
@[simp] theorem setC_fbase (d : Dup) (n : Nat) (b : Bool) :
    (d.setC n b).fbase = d.fbase := rfl
@[simp] theorem setC_level (d : Dup) (n : Nat) (b : Bool) :
    (d.setC n b).level = d.level := rfl
@[simp] theorem setC_fp (d : Dup) (n : Nat) (b : Bool) :
    (d.setC n b).fp = d.fp := rfl
@[simp] theorem setC_ovq (d : Dup) (n : Nat) (b : Bool) :
    (d.setC n b).ovq = d.ovq := rfl
@[simp] theorem setC_ovLost (d : Dup) (n : Nat) (b : Bool) :
    (d.setC n b).ovLost = d.ovLost := rfl
@[simp] theorem setC_arrival (d : Dup) (n : Nat) (b : Bool) :
    (d.setC n b).arrival = d.arrival := rfl
@[simp] theorem setC_greg_of (d : Dup) (n : Nat) (b : Bool) (k : Nat) :
    (d.setC n b).greg k = d.greg k := rfl
@[simp] theorem setC_port_of (d : Dup) (n : Nat) (b : Bool) (k : Nat) :
    (d.setC n b).port k = d.port k := rfl
@[simp] theorem setC_wport_of (d : Dup) (n : Nat) (b : Bool) (k : Nat) :
    (d.setC n b).wport k = d.wport k := rfl
@[simp] theorem setC_latch_of (d : Dup) (n : Nat) (b : Bool) (k : Nat) :
    (d.setC n b).latch k = d.latch k := rfl
@[simp] theorem setC_wlatch_of (d : Dup) (n : Nat) (b : Bool) (k : Nat) :
    (d.setC n b).wlatch k = d.wlatch k := rfl
@[simp] theorem setC_vreg_of (d : Dup) (n : Nat) (b : Bool) (k : Nat) :
    (d.setC n b).vreg k = d.vreg k := rfl
@[simp] theorem setC_spillReg_of (d : Dup) (n : Nat) (b : Bool) (k : Nat) :
    (d.setC n b).spillReg k = d.spillReg k := rfl
@[simp] theorem setC_chanOf_of (d : Dup) (n : Nat) (b : Bool) (k : Nat) :
    (d.setC n b).chanOf k = d.chanOf k := rfl
@[simp] theorem setC_mdOf_of (d : Dup) (n : Nat) (b : Bool) (k : Nat) :
    (d.setC n b).mdOf k = d.mdOf k := rfl
@[simp] theorem setC_fmtOf_of (d : Dup) (n : Nat) (b : Bool) (k : Nat) :
    (d.setC n b).fmtOf k = d.fmtOf k := rfl
@[simp] theorem setC_fpOf_of (d : Dup) (n : Nat) (b : Bool) (k : Nat) :
    (d.setC n b).fpOf k = d.fpOf k := rfl
@[simp] theorem setChan_g (d : Dup) (n : Nat) (v : ChDup) :
    (d.setChan n v).g = d.g := rfl
@[simp] theorem setChan_c (d : Dup) (n : Nat) (v : ChDup) :
    (d.setChan n v).c = d.c := rfl
@[simp] theorem setChan_loops (d : Dup) (n : Nat) (v : ChDup) :
    (d.setChan n v).loops = d.loops := rfl
@[simp] theorem setChan_v (d : Dup) (n : Nat) (v : ChDup) :
    (d.setChan n v).v = d.v := rfl
@[simp] theorem setChan_spill (d : Dup) (n : Nat) (v : ChDup) :
    (d.setChan n v).spill = d.spill := rfl
@[simp] theorem setChan_ports (d : Dup) (n : Nat) (v : ChDup) :
    (d.setChan n v).ports = d.ports := rfl
@[simp] theorem setChan_wports (d : Dup) (n : Nat) (v : ChDup) :
    (d.setChan n v).wports = d.wports := rfl
@[simp] theorem setChan_lat (d : Dup) (n : Nat) (v : ChDup) :
    (d.setChan n v).lat = d.lat := rfl
@[simp] theorem setChan_wlat (d : Dup) (n : Nat) (v : ChDup) :
    (d.setChan n v).wlat = d.wlat := rfl
@[simp] theorem setChan_md (d : Dup) (n : Nat) (v : ChDup) :
    (d.setChan n v).md = d.md := rfl
@[simp] theorem setChan_fmt (d : Dup) (n : Nat) (v : ChDup) :
    (d.setChan n v).fmt = d.fmt := rfl
@[simp] theorem setChan_fbase (d : Dup) (n : Nat) (v : ChDup) :
    (d.setChan n v).fbase = d.fbase := rfl
@[simp] theorem setChan_level (d : Dup) (n : Nat) (v : ChDup) :
    (d.setChan n v).level = d.level := rfl
@[simp] theorem setChan_fp (d : Dup) (n : Nat) (v : ChDup) :
    (d.setChan n v).fp = d.fp := rfl
@[simp] theorem setChan_ovq (d : Dup) (n : Nat) (v : ChDup) :
    (d.setChan n v).ovq = d.ovq := rfl
@[simp] theorem setChan_ovLost (d : Dup) (n : Nat) (v : ChDup) :
    (d.setChan n v).ovLost = d.ovLost := rfl
@[simp] theorem setChan_arrival (d : Dup) (n : Nat) (v : ChDup) :
    (d.setChan n v).arrival = d.arrival := rfl
@[simp] theorem setChan_greg_of (d : Dup) (n : Nat) (v : ChDup) (k : Nat) :
    (d.setChan n v).greg k = d.greg k := rfl
@[simp] theorem setChan_port_of (d : Dup) (n : Nat) (v : ChDup) (k : Nat) :
    (d.setChan n v).port k = d.port k := rfl
@[simp] theorem setChan_wport_of (d : Dup) (n : Nat) (v : ChDup) (k : Nat) :
    (d.setChan n v).wport k = d.wport k := rfl
@[simp] theorem setChan_latch_of (d : Dup) (n : Nat) (v : ChDup) (k : Nat) :
    (d.setChan n v).latch k = d.latch k := rfl
@[simp] theorem setChan_wlatch_of (d : Dup) (n : Nat) (v : ChDup) (k : Nat) :
    (d.setChan n v).wlatch k = d.wlatch k := rfl
@[simp] theorem setChan_vreg_of (d : Dup) (n : Nat) (v : ChDup) (k : Nat) :
    (d.setChan n v).vreg k = d.vreg k := rfl
@[simp] theorem setChan_spillReg_of (d : Dup) (n : Nat) (v : ChDup) (k : Nat) :
    (d.setChan n v).spillReg k = d.spillReg k := rfl
@[simp] theorem setChan_mdOf_of (d : Dup) (n : Nat) (v : ChDup) (k : Nat) :
    (d.setChan n v).mdOf k = d.mdOf k := rfl
@[simp] theorem setChan_fmtOf_of (d : Dup) (n : Nat) (v : ChDup) (k : Nat) :
    (d.setChan n v).fmtOf k = d.fmtOf k := rfl
@[simp] theorem setChan_fpOf_of (d : Dup) (n : Nat) (v : ChDup) (k : Nat) :
    (d.setChan n v).fpOf k = d.fpOf k := rfl
@[simp] theorem setChan_chanOf_get (d : Dup) (n : Nat) (v : ChDup) (k : Nat) :
    (d.setChan n v).chanOf k = if k = n then v else d.chanOf k := tab_get_set _ _ _ _ _
@[simp] theorem setMd_g (d : Dup) (n : Nat) (v : MdReg) :
    (d.setMd n v).g = d.g := rfl
@[simp] theorem setMd_c (d : Dup) (n : Nat) (v : MdReg) :
    (d.setMd n v).c = d.c := rfl
@[simp] theorem setMd_loops (d : Dup) (n : Nat) (v : MdReg) :
    (d.setMd n v).loops = d.loops := rfl
@[simp] theorem setMd_v (d : Dup) (n : Nat) (v : MdReg) :
    (d.setMd n v).v = d.v := rfl
@[simp] theorem setMd_spill (d : Dup) (n : Nat) (v : MdReg) :
    (d.setMd n v).spill = d.spill := rfl
@[simp] theorem setMd_ports (d : Dup) (n : Nat) (v : MdReg) :
    (d.setMd n v).ports = d.ports := rfl
@[simp] theorem setMd_wports (d : Dup) (n : Nat) (v : MdReg) :
    (d.setMd n v).wports = d.wports := rfl
@[simp] theorem setMd_lat (d : Dup) (n : Nat) (v : MdReg) :
    (d.setMd n v).lat = d.lat := rfl
@[simp] theorem setMd_wlat (d : Dup) (n : Nat) (v : MdReg) :
    (d.setMd n v).wlat = d.wlat := rfl
@[simp] theorem setMd_chan (d : Dup) (n : Nat) (v : MdReg) :
    (d.setMd n v).chan = d.chan := rfl
@[simp] theorem setMd_fmt (d : Dup) (n : Nat) (v : MdReg) :
    (d.setMd n v).fmt = d.fmt := rfl
@[simp] theorem setMd_fbase (d : Dup) (n : Nat) (v : MdReg) :
    (d.setMd n v).fbase = d.fbase := rfl
@[simp] theorem setMd_level (d : Dup) (n : Nat) (v : MdReg) :
    (d.setMd n v).level = d.level := rfl
@[simp] theorem setMd_fp (d : Dup) (n : Nat) (v : MdReg) :
    (d.setMd n v).fp = d.fp := rfl
@[simp] theorem setMd_ovq (d : Dup) (n : Nat) (v : MdReg) :
    (d.setMd n v).ovq = d.ovq := rfl
@[simp] theorem setMd_ovLost (d : Dup) (n : Nat) (v : MdReg) :
    (d.setMd n v).ovLost = d.ovLost := rfl
@[simp] theorem setMd_arrival (d : Dup) (n : Nat) (v : MdReg) :
    (d.setMd n v).arrival = d.arrival := rfl
@[simp] theorem setMd_greg_of (d : Dup) (n : Nat) (v : MdReg) (k : Nat) :
    (d.setMd n v).greg k = d.greg k := rfl
@[simp] theorem setMd_port_of (d : Dup) (n : Nat) (v : MdReg) (k : Nat) :
    (d.setMd n v).port k = d.port k := rfl
@[simp] theorem setMd_wport_of (d : Dup) (n : Nat) (v : MdReg) (k : Nat) :
    (d.setMd n v).wport k = d.wport k := rfl
@[simp] theorem setMd_latch_of (d : Dup) (n : Nat) (v : MdReg) (k : Nat) :
    (d.setMd n v).latch k = d.latch k := rfl
@[simp] theorem setMd_wlatch_of (d : Dup) (n : Nat) (v : MdReg) (k : Nat) :
    (d.setMd n v).wlatch k = d.wlatch k := rfl
@[simp] theorem setMd_vreg_of (d : Dup) (n : Nat) (v : MdReg) (k : Nat) :
    (d.setMd n v).vreg k = d.vreg k := rfl
@[simp] theorem setMd_spillReg_of (d : Dup) (n : Nat) (v : MdReg) (k : Nat) :
    (d.setMd n v).spillReg k = d.spillReg k := rfl
@[simp] theorem setMd_chanOf_of (d : Dup) (n : Nat) (v : MdReg) (k : Nat) :
    (d.setMd n v).chanOf k = d.chanOf k := rfl
@[simp] theorem setMd_fmtOf_of (d : Dup) (n : Nat) (v : MdReg) (k : Nat) :
    (d.setMd n v).fmtOf k = d.fmtOf k := rfl
@[simp] theorem setMd_fpOf_of (d : Dup) (n : Nat) (v : MdReg) (k : Nat) :
    (d.setMd n v).fpOf k = d.fpOf k := rfl
@[simp] theorem setMd_mdOf_get (d : Dup) (n : Nat) (v : MdReg) (k : Nat) :
    (d.setMd n v).mdOf k = if k = n then v else d.mdOf k := tab_get_set _ _ _ _ _
@[simp] theorem setFmt_g (d : Dup) (n : Nat) (v : BitVec 32) :
    (d.setFmt n v).g = d.g := rfl
@[simp] theorem setFmt_c (d : Dup) (n : Nat) (v : BitVec 32) :
    (d.setFmt n v).c = d.c := rfl
@[simp] theorem setFmt_loops (d : Dup) (n : Nat) (v : BitVec 32) :
    (d.setFmt n v).loops = d.loops := rfl
@[simp] theorem setFmt_v (d : Dup) (n : Nat) (v : BitVec 32) :
    (d.setFmt n v).v = d.v := rfl
@[simp] theorem setFmt_spill (d : Dup) (n : Nat) (v : BitVec 32) :
    (d.setFmt n v).spill = d.spill := rfl
@[simp] theorem setFmt_ports (d : Dup) (n : Nat) (v : BitVec 32) :
    (d.setFmt n v).ports = d.ports := rfl
@[simp] theorem setFmt_wports (d : Dup) (n : Nat) (v : BitVec 32) :
    (d.setFmt n v).wports = d.wports := rfl
@[simp] theorem setFmt_lat (d : Dup) (n : Nat) (v : BitVec 32) :
    (d.setFmt n v).lat = d.lat := rfl
@[simp] theorem setFmt_wlat (d : Dup) (n : Nat) (v : BitVec 32) :
    (d.setFmt n v).wlat = d.wlat := rfl
@[simp] theorem setFmt_chan (d : Dup) (n : Nat) (v : BitVec 32) :
    (d.setFmt n v).chan = d.chan := rfl
@[simp] theorem setFmt_md (d : Dup) (n : Nat) (v : BitVec 32) :
    (d.setFmt n v).md = d.md := rfl
@[simp] theorem setFmt_fbase (d : Dup) (n : Nat) (v : BitVec 32) :
    (d.setFmt n v).fbase = d.fbase := rfl
@[simp] theorem setFmt_level (d : Dup) (n : Nat) (v : BitVec 32) :
    (d.setFmt n v).level = d.level := rfl
@[simp] theorem setFmt_fp (d : Dup) (n : Nat) (v : BitVec 32) :
    (d.setFmt n v).fp = d.fp := rfl
@[simp] theorem setFmt_ovq (d : Dup) (n : Nat) (v : BitVec 32) :
    (d.setFmt n v).ovq = d.ovq := rfl
@[simp] theorem setFmt_ovLost (d : Dup) (n : Nat) (v : BitVec 32) :
    (d.setFmt n v).ovLost = d.ovLost := rfl
@[simp] theorem setFmt_arrival (d : Dup) (n : Nat) (v : BitVec 32) :
    (d.setFmt n v).arrival = d.arrival := rfl
@[simp] theorem setFmt_greg_of (d : Dup) (n : Nat) (v : BitVec 32) (k : Nat) :
    (d.setFmt n v).greg k = d.greg k := rfl
@[simp] theorem setFmt_port_of (d : Dup) (n : Nat) (v : BitVec 32) (k : Nat) :
    (d.setFmt n v).port k = d.port k := rfl
@[simp] theorem setFmt_wport_of (d : Dup) (n : Nat) (v : BitVec 32) (k : Nat) :
    (d.setFmt n v).wport k = d.wport k := rfl
@[simp] theorem setFmt_latch_of (d : Dup) (n : Nat) (v : BitVec 32) (k : Nat) :
    (d.setFmt n v).latch k = d.latch k := rfl
@[simp] theorem setFmt_wlatch_of (d : Dup) (n : Nat) (v : BitVec 32) (k : Nat) :
    (d.setFmt n v).wlatch k = d.wlatch k := rfl
@[simp] theorem setFmt_vreg_of (d : Dup) (n : Nat) (v : BitVec 32) (k : Nat) :
    (d.setFmt n v).vreg k = d.vreg k := rfl
@[simp] theorem setFmt_spillReg_of (d : Dup) (n : Nat) (v : BitVec 32) (k : Nat) :
    (d.setFmt n v).spillReg k = d.spillReg k := rfl
@[simp] theorem setFmt_chanOf_of (d : Dup) (n : Nat) (v : BitVec 32) (k : Nat) :
    (d.setFmt n v).chanOf k = d.chanOf k := rfl
@[simp] theorem setFmt_mdOf_of (d : Dup) (n : Nat) (v : BitVec 32) (k : Nat) :
    (d.setFmt n v).mdOf k = d.mdOf k := rfl
@[simp] theorem setFmt_fpOf_of (d : Dup) (n : Nat) (v : BitVec 32) (k : Nat) :
    (d.setFmt n v).fpOf k = d.fpOf k := rfl
@[simp] theorem setFmt_fmtOf_get (d : Dup) (n : Nat) (v : BitVec 32) (k : Nat) :
    (d.setFmt n v).fmtOf k = if k = n then v else d.fmtOf k := tab_get_set _ _ _ _ _
@[simp] theorem setFp_g (d : Dup) (n v : Nat) :
    (d.setFp n v).g = d.g := rfl
@[simp] theorem setFp_c (d : Dup) (n v : Nat) :
    (d.setFp n v).c = d.c := rfl
@[simp] theorem setFp_loops (d : Dup) (n v : Nat) :
    (d.setFp n v).loops = d.loops := rfl
@[simp] theorem setFp_v (d : Dup) (n v : Nat) :
    (d.setFp n v).v = d.v := rfl
@[simp] theorem setFp_spill (d : Dup) (n v : Nat) :
    (d.setFp n v).spill = d.spill := rfl
@[simp] theorem setFp_ports (d : Dup) (n v : Nat) :
    (d.setFp n v).ports = d.ports := rfl
@[simp] theorem setFp_wports (d : Dup) (n v : Nat) :
    (d.setFp n v).wports = d.wports := rfl
@[simp] theorem setFp_lat (d : Dup) (n v : Nat) :
    (d.setFp n v).lat = d.lat := rfl
@[simp] theorem setFp_wlat (d : Dup) (n v : Nat) :
    (d.setFp n v).wlat = d.wlat := rfl
@[simp] theorem setFp_chan (d : Dup) (n v : Nat) :
    (d.setFp n v).chan = d.chan := rfl
@[simp] theorem setFp_md (d : Dup) (n v : Nat) :
    (d.setFp n v).md = d.md := rfl
@[simp] theorem setFp_fmt (d : Dup) (n v : Nat) :
    (d.setFp n v).fmt = d.fmt := rfl
@[simp] theorem setFp_fbase (d : Dup) (n v : Nat) :
    (d.setFp n v).fbase = d.fbase := rfl
@[simp] theorem setFp_level (d : Dup) (n v : Nat) :
    (d.setFp n v).level = d.level := rfl
@[simp] theorem setFp_ovq (d : Dup) (n v : Nat) :
    (d.setFp n v).ovq = d.ovq := rfl
@[simp] theorem setFp_ovLost (d : Dup) (n v : Nat) :
    (d.setFp n v).ovLost = d.ovLost := rfl
@[simp] theorem setFp_arrival (d : Dup) (n v : Nat) :
    (d.setFp n v).arrival = d.arrival := rfl
@[simp] theorem setFp_greg_of (d : Dup) (n v : Nat) (k : Nat) :
    (d.setFp n v).greg k = d.greg k := rfl
@[simp] theorem setFp_port_of (d : Dup) (n v : Nat) (k : Nat) :
    (d.setFp n v).port k = d.port k := rfl
@[simp] theorem setFp_wport_of (d : Dup) (n v : Nat) (k : Nat) :
    (d.setFp n v).wport k = d.wport k := rfl
@[simp] theorem setFp_latch_of (d : Dup) (n v : Nat) (k : Nat) :
    (d.setFp n v).latch k = d.latch k := rfl
@[simp] theorem setFp_wlatch_of (d : Dup) (n v : Nat) (k : Nat) :
    (d.setFp n v).wlatch k = d.wlatch k := rfl
@[simp] theorem setFp_vreg_of (d : Dup) (n v : Nat) (k : Nat) :
    (d.setFp n v).vreg k = d.vreg k := rfl
@[simp] theorem setFp_spillReg_of (d : Dup) (n v : Nat) (k : Nat) :
    (d.setFp n v).spillReg k = d.spillReg k := rfl
@[simp] theorem setFp_chanOf_of (d : Dup) (n v : Nat) (k : Nat) :
    (d.setFp n v).chanOf k = d.chanOf k := rfl
@[simp] theorem setFp_mdOf_of (d : Dup) (n v : Nat) (k : Nat) :
    (d.setFp n v).mdOf k = d.mdOf k := rfl
@[simp] theorem setFp_fmtOf_of (d : Dup) (n v : Nat) (k : Nat) :
    (d.setFp n v).fmtOf k = d.fmtOf k := rfl
@[simp] theorem setFp_fpOf_get (d : Dup) (n v : Nat) (k : Nat) :
    (d.setFp n v).fpOf k = if k = n then v else d.fpOf k := tab_get_set _ _ _ _ _
@[simp] theorem setChanRun_team (x : Core) (k : Nat) (r : ChRun) :
    (x.setChanRun k r).team = x.team := rfl
@[simp] theorem setChanRun_tcore (x : Core) (k : Nat) (r : ChRun) :
    (x.setChanRun k r).tcore = x.tcore := rfl
@[simp] theorem setChanRun_run (x : Core) (k : Nat) (r : ChRun) :
    (x.setChanRun k r).run = x.run := rfl
@[simp] theorem setChanRun_pc (x : Core) (k : Nat) (r : ChRun) :
    (x.setChanRun k r).pc = x.pc := rfl
@[simp] theorem setChanRun_mode (x : Core) (k : Nat) (r : ChRun) :
    (x.setChanRun k r).mode = x.mode := rfl
@[simp] theorem setChanRun_tmode (x : Core) (k : Nat) (r : ChRun) :
    (x.setChanRun k r).tmode = x.tmode := rfl
@[simp] theorem setChanRun_cause (x : Core) (k : Nat) (r : ChRun) :
    (x.setChanRun k r).cause = x.cause := rfl
@[simp] theorem setChanRun_dup (x : Core) (k : Nat) (r : ChRun) :
    (x.setChanRun k r).dup = x.dup := rfl
@[simp] theorem setChanRun_ck (x : Core) (k : Nat) (r : ChRun) :
    (x.setChanRun k r).ck = x.ck := rfl
@[simp] theorem setChanRun_undo (x : Core) (k : Nat) (r : ChRun) :
    (x.setChanRun k r).undo = x.undo := rfl
@[simp] theorem setChanRun_named (x : Core) (k : Nat) (r : ChRun) :
    (x.setChanRun k r).named = x.named := rfl
@[simp] theorem setChanRun_cyc (x : Core) (k : Nat) (r : ChRun) :
    (x.setChanRun k r).cyc = x.cyc := rfl
@[simp] theorem setChanRun_due (x : Core) (k : Nat) (r : ChRun) :
    (x.setChanRun k r).due = x.due := rfl
@[simp] theorem setChanRun_spad (x : Core) (k : Nat) (r : ChRun) :
    (x.setChanRun k r).spad = x.spad := rfl
@[simp] theorem setChanRun_spadBad (x : Core) (k : Nat) (r : ChRun) :
    (x.setChanRun k r).spadBad = x.spadBad := rfl
@[simp] theorem setChanRun_tags (x : Core) (k : Nat) (r : ChRun) :
    (x.setChanRun k r).tags = x.tags := rfl
@[simp] theorem setChanRun_tagsBad (x : Core) (k : Nat) (r : ChRun) :
    (x.setChanRun k r).tagsBad = x.tagsBad := rfl
@[simp] theorem setChanRun_latch (x : Core) (k : Nat) (r : ChRun) :
    (x.setChanRun k r).latch = x.latch := rfl
@[simp] theorem setChanRun_acc (x : Core) (k : Nat) (r : ChRun) :
    (x.setChanRun k r).acc = x.acc := rfl
@[simp] theorem setChanRun_lq (x : Core) (k : Nat) (r : ChRun) :
    (x.setChanRun k r).lq = x.lq := rfl
@[simp] theorem setChanRun_wb (x : Core) (k : Nat) (r : ChRun) :
    (x.setChanRun k r).wb = x.wb := rfl
@[simp] theorem setChanRun_accs (x : Core) (k : Nat) (r : ChRun) :
    (x.setChanRun k r).accs = x.accs := rfl
@[simp] theorem setChanRun_nextId (x : Core) (k : Nat) (r : ChRun) :
    (x.setChanRun k r).nextId = x.nextId := rfl
@[simp] theorem setChanRun_imem (x : Core) (k : Nat) (r : ChRun) :
    (x.setChanRun k r).imem = x.imem := rfl
@[simp] theorem setChanRun_imemBad (x : Core) (k : Nat) (r : ChRun) :
    (x.setChanRun k r).imemBad = x.imemBad := rfl
@[simp] theorem setChanRun_half0 (x : Core) (k : Nat) (r : ChRun) :
    (x.setChanRun k r).half0 = x.half0 := rfl
@[simp] theorem setChanRun_half1 (x : Core) (k : Nat) (r : ChRun) :
    (x.setChanRun k r).half1 = x.half1 := rfl
@[simp] theorem setChanRun_refetch (x : Core) (k : Nat) (r : ChRun) :
    (x.setChanRun k r).refetch = x.refetch := rfl
@[simp] theorem setChanRun_divide (x : Core) (k : Nat) (r : ChRun) :
    (x.setChanRun k r).divide = x.divide := rfl
@[simp] theorem setChanRun_mxBusy (x : Core) (k : Nat) (r : ChRun) :
    (x.setChanRun k r).mxBusy = x.mxBusy := rfl
@[simp] theorem setChanRun_c7 (x : Core) (k : Nat) (r : ChRun) :
    (x.setChanRun k r).c7 = x.c7 := rfl
@[simp] theorem setChanRun_cdown (x : Core) (k : Nat) (r : ChRun) :
    (x.setChanRun k r).cdown = x.cdown := rfl
@[simp] theorem setChanRun_cdRun (x : Core) (k : Nat) (r : ChRun) :
    (x.setChanRun k r).cdRun = x.cdRun := rfl
@[simp] theorem setChanRun_cdload (x : Core) (k : Nat) (r : ChRun) :
    (x.setChanRun k r).cdload = x.cdload := rfl
@[simp] theorem setChanRun_park (x : Core) (k : Nat) (r : ChRun) :
    (x.setChanRun k r).park = x.park := rfl
@[simp] theorem setChanRun_tcount (x : Core) (k : Nat) (r : ChRun) :
    (x.setChanRun k r).tcount = x.tcount := rfl
@[simp] theorem setChanRun_shielded (x : Core) (k : Nat) (r : ChRun) :
    (x.setChanRun k r).shielded = x.shielded := rfl
@[simp] theorem setChanRun_consume (x : Core) (k : Nat) (r : ChRun) :
    (x.setChanRun k r).consume = x.consume := rfl
@[simp] theorem setChanRun_sel (x : Core) (k : Nat) (r : ChRun) :
    (x.setChanRun k r).sel = x.sel := rfl
@[simp] theorem setChanRun_leaf (x : Core) (k : Nat) (r : ChRun) :
    (x.setChanRun k r).leaf = x.leaf := rfl
@[simp] theorem setChanRun_early (x : Core) (k : Nat) (r : ChRun) :
    (x.setChanRun k r).early = x.early := rfl
@[simp] theorem setChanRun_stalled (x : Core) (k : Nat) (r : ChRun) :
    (x.setChanRun k r).stalled = x.stalled := rfl
@[simp] theorem setChanRun_evCopy (x : Core) (k : Nat) (r : ChRun) :
    (x.setChanRun k r).evCopy = x.evCopy := rfl
@[simp] theorem setLq_team (x : Core) (k : Nat) (r : LinkQ) :
    (x.setLq k r).team = x.team := rfl
@[simp] theorem setLq_tcore (x : Core) (k : Nat) (r : LinkQ) :
    (x.setLq k r).tcore = x.tcore := rfl
@[simp] theorem setLq_run (x : Core) (k : Nat) (r : LinkQ) :
    (x.setLq k r).run = x.run := rfl
@[simp] theorem setLq_pc (x : Core) (k : Nat) (r : LinkQ) :
    (x.setLq k r).pc = x.pc := rfl
@[simp] theorem setLq_mode (x : Core) (k : Nat) (r : LinkQ) :
    (x.setLq k r).mode = x.mode := rfl
@[simp] theorem setLq_tmode (x : Core) (k : Nat) (r : LinkQ) :
    (x.setLq k r).tmode = x.tmode := rfl
@[simp] theorem setLq_cause (x : Core) (k : Nat) (r : LinkQ) :
    (x.setLq k r).cause = x.cause := rfl
@[simp] theorem setLq_dup (x : Core) (k : Nat) (r : LinkQ) :
    (x.setLq k r).dup = x.dup := rfl
@[simp] theorem setLq_ck (x : Core) (k : Nat) (r : LinkQ) :
    (x.setLq k r).ck = x.ck := rfl
@[simp] theorem setLq_undo (x : Core) (k : Nat) (r : LinkQ) :
    (x.setLq k r).undo = x.undo := rfl
@[simp] theorem setLq_named (x : Core) (k : Nat) (r : LinkQ) :
    (x.setLq k r).named = x.named := rfl
@[simp] theorem setLq_cyc (x : Core) (k : Nat) (r : LinkQ) :
    (x.setLq k r).cyc = x.cyc := rfl
@[simp] theorem setLq_due (x : Core) (k : Nat) (r : LinkQ) :
    (x.setLq k r).due = x.due := rfl
@[simp] theorem setLq_spad (x : Core) (k : Nat) (r : LinkQ) :
    (x.setLq k r).spad = x.spad := rfl
@[simp] theorem setLq_spadBad (x : Core) (k : Nat) (r : LinkQ) :
    (x.setLq k r).spadBad = x.spadBad := rfl
@[simp] theorem setLq_tags (x : Core) (k : Nat) (r : LinkQ) :
    (x.setLq k r).tags = x.tags := rfl
@[simp] theorem setLq_tagsBad (x : Core) (k : Nat) (r : LinkQ) :
    (x.setLq k r).tagsBad = x.tagsBad := rfl
@[simp] theorem setLq_latch (x : Core) (k : Nat) (r : LinkQ) :
    (x.setLq k r).latch = x.latch := rfl
@[simp] theorem setLq_acc (x : Core) (k : Nat) (r : LinkQ) :
    (x.setLq k r).acc = x.acc := rfl
@[simp] theorem setLq_chan (x : Core) (k : Nat) (r : LinkQ) :
    (x.setLq k r).chan = x.chan := rfl
@[simp] theorem setLq_wb (x : Core) (k : Nat) (r : LinkQ) :
    (x.setLq k r).wb = x.wb := rfl
@[simp] theorem setLq_accs (x : Core) (k : Nat) (r : LinkQ) :
    (x.setLq k r).accs = x.accs := rfl
@[simp] theorem setLq_nextId (x : Core) (k : Nat) (r : LinkQ) :
    (x.setLq k r).nextId = x.nextId := rfl
@[simp] theorem setLq_imem (x : Core) (k : Nat) (r : LinkQ) :
    (x.setLq k r).imem = x.imem := rfl
@[simp] theorem setLq_imemBad (x : Core) (k : Nat) (r : LinkQ) :
    (x.setLq k r).imemBad = x.imemBad := rfl
@[simp] theorem setLq_half0 (x : Core) (k : Nat) (r : LinkQ) :
    (x.setLq k r).half0 = x.half0 := rfl
@[simp] theorem setLq_half1 (x : Core) (k : Nat) (r : LinkQ) :
    (x.setLq k r).half1 = x.half1 := rfl
@[simp] theorem setLq_refetch (x : Core) (k : Nat) (r : LinkQ) :
    (x.setLq k r).refetch = x.refetch := rfl
@[simp] theorem setLq_divide (x : Core) (k : Nat) (r : LinkQ) :
    (x.setLq k r).divide = x.divide := rfl
@[simp] theorem setLq_mxBusy (x : Core) (k : Nat) (r : LinkQ) :
    (x.setLq k r).mxBusy = x.mxBusy := rfl
@[simp] theorem setLq_c7 (x : Core) (k : Nat) (r : LinkQ) :
    (x.setLq k r).c7 = x.c7 := rfl
@[simp] theorem setLq_cdown (x : Core) (k : Nat) (r : LinkQ) :
    (x.setLq k r).cdown = x.cdown := rfl
@[simp] theorem setLq_cdRun (x : Core) (k : Nat) (r : LinkQ) :
    (x.setLq k r).cdRun = x.cdRun := rfl
@[simp] theorem setLq_cdload (x : Core) (k : Nat) (r : LinkQ) :
    (x.setLq k r).cdload = x.cdload := rfl
@[simp] theorem setLq_park (x : Core) (k : Nat) (r : LinkQ) :
    (x.setLq k r).park = x.park := rfl
@[simp] theorem setLq_tcount (x : Core) (k : Nat) (r : LinkQ) :
    (x.setLq k r).tcount = x.tcount := rfl
@[simp] theorem setLq_shielded (x : Core) (k : Nat) (r : LinkQ) :
    (x.setLq k r).shielded = x.shielded := rfl
@[simp] theorem setLq_consume (x : Core) (k : Nat) (r : LinkQ) :
    (x.setLq k r).consume = x.consume := rfl
@[simp] theorem setLq_sel (x : Core) (k : Nat) (r : LinkQ) :
    (x.setLq k r).sel = x.sel := rfl
@[simp] theorem setLq_leaf (x : Core) (k : Nat) (r : LinkQ) :
    (x.setLq k r).leaf = x.leaf := rfl
@[simp] theorem setLq_early (x : Core) (k : Nat) (r : LinkQ) :
    (x.setLq k r).early = x.early := rfl
@[simp] theorem setLq_stalled (x : Core) (k : Nat) (r : LinkQ) :
    (x.setLq k r).stalled = x.stalled := rfl
@[simp] theorem setLq_evCopy (x : Core) (k : Nat) (r : LinkQ) :
    (x.setLq k r).evCopy = x.evCopy := rfl
@[simp] theorem setLatchW_team (x : Core) (k : Nat) (r : Latch) :
    (x.setLatchW k r).team = x.team := rfl
@[simp] theorem setLatchW_tcore (x : Core) (k : Nat) (r : Latch) :
    (x.setLatchW k r).tcore = x.tcore := rfl
@[simp] theorem setLatchW_run (x : Core) (k : Nat) (r : Latch) :
    (x.setLatchW k r).run = x.run := rfl
@[simp] theorem setLatchW_pc (x : Core) (k : Nat) (r : Latch) :
    (x.setLatchW k r).pc = x.pc := rfl
@[simp] theorem setLatchW_mode (x : Core) (k : Nat) (r : Latch) :
    (x.setLatchW k r).mode = x.mode := rfl
@[simp] theorem setLatchW_tmode (x : Core) (k : Nat) (r : Latch) :
    (x.setLatchW k r).tmode = x.tmode := rfl
@[simp] theorem setLatchW_cause (x : Core) (k : Nat) (r : Latch) :
    (x.setLatchW k r).cause = x.cause := rfl
@[simp] theorem setLatchW_dup (x : Core) (k : Nat) (r : Latch) :
    (x.setLatchW k r).dup = x.dup := rfl
@[simp] theorem setLatchW_ck (x : Core) (k : Nat) (r : Latch) :
    (x.setLatchW k r).ck = x.ck := rfl
@[simp] theorem setLatchW_undo (x : Core) (k : Nat) (r : Latch) :
    (x.setLatchW k r).undo = x.undo := rfl
@[simp] theorem setLatchW_named (x : Core) (k : Nat) (r : Latch) :
    (x.setLatchW k r).named = x.named := rfl
@[simp] theorem setLatchW_cyc (x : Core) (k : Nat) (r : Latch) :
    (x.setLatchW k r).cyc = x.cyc := rfl
@[simp] theorem setLatchW_due (x : Core) (k : Nat) (r : Latch) :
    (x.setLatchW k r).due = x.due := rfl
@[simp] theorem setLatchW_spad (x : Core) (k : Nat) (r : Latch) :
    (x.setLatchW k r).spad = x.spad := rfl
@[simp] theorem setLatchW_spadBad (x : Core) (k : Nat) (r : Latch) :
    (x.setLatchW k r).spadBad = x.spadBad := rfl
@[simp] theorem setLatchW_tags (x : Core) (k : Nat) (r : Latch) :
    (x.setLatchW k r).tags = x.tags := rfl
@[simp] theorem setLatchW_tagsBad (x : Core) (k : Nat) (r : Latch) :
    (x.setLatchW k r).tagsBad = x.tagsBad := rfl
@[simp] theorem setLatchW_acc (x : Core) (k : Nat) (r : Latch) :
    (x.setLatchW k r).acc = x.acc := rfl
@[simp] theorem setLatchW_chan (x : Core) (k : Nat) (r : Latch) :
    (x.setLatchW k r).chan = x.chan := rfl
@[simp] theorem setLatchW_lq (x : Core) (k : Nat) (r : Latch) :
    (x.setLatchW k r).lq = x.lq := rfl
@[simp] theorem setLatchW_wb (x : Core) (k : Nat) (r : Latch) :
    (x.setLatchW k r).wb = x.wb := rfl
@[simp] theorem setLatchW_accs (x : Core) (k : Nat) (r : Latch) :
    (x.setLatchW k r).accs = x.accs := rfl
@[simp] theorem setLatchW_nextId (x : Core) (k : Nat) (r : Latch) :
    (x.setLatchW k r).nextId = x.nextId := rfl
@[simp] theorem setLatchW_imem (x : Core) (k : Nat) (r : Latch) :
    (x.setLatchW k r).imem = x.imem := rfl
@[simp] theorem setLatchW_imemBad (x : Core) (k : Nat) (r : Latch) :
    (x.setLatchW k r).imemBad = x.imemBad := rfl
@[simp] theorem setLatchW_half0 (x : Core) (k : Nat) (r : Latch) :
    (x.setLatchW k r).half0 = x.half0 := rfl
@[simp] theorem setLatchW_half1 (x : Core) (k : Nat) (r : Latch) :
    (x.setLatchW k r).half1 = x.half1 := rfl
@[simp] theorem setLatchW_refetch (x : Core) (k : Nat) (r : Latch) :
    (x.setLatchW k r).refetch = x.refetch := rfl
@[simp] theorem setLatchW_divide (x : Core) (k : Nat) (r : Latch) :
    (x.setLatchW k r).divide = x.divide := rfl
@[simp] theorem setLatchW_mxBusy (x : Core) (k : Nat) (r : Latch) :
    (x.setLatchW k r).mxBusy = x.mxBusy := rfl
@[simp] theorem setLatchW_c7 (x : Core) (k : Nat) (r : Latch) :
    (x.setLatchW k r).c7 = x.c7 := rfl
@[simp] theorem setLatchW_cdown (x : Core) (k : Nat) (r : Latch) :
    (x.setLatchW k r).cdown = x.cdown := rfl
@[simp] theorem setLatchW_cdRun (x : Core) (k : Nat) (r : Latch) :
    (x.setLatchW k r).cdRun = x.cdRun := rfl
@[simp] theorem setLatchW_cdload (x : Core) (k : Nat) (r : Latch) :
    (x.setLatchW k r).cdload = x.cdload := rfl
@[simp] theorem setLatchW_park (x : Core) (k : Nat) (r : Latch) :
    (x.setLatchW k r).park = x.park := rfl
@[simp] theorem setLatchW_tcount (x : Core) (k : Nat) (r : Latch) :
    (x.setLatchW k r).tcount = x.tcount := rfl
@[simp] theorem setLatchW_shielded (x : Core) (k : Nat) (r : Latch) :
    (x.setLatchW k r).shielded = x.shielded := rfl
@[simp] theorem setLatchW_consume (x : Core) (k : Nat) (r : Latch) :
    (x.setLatchW k r).consume = x.consume := rfl
@[simp] theorem setLatchW_sel (x : Core) (k : Nat) (r : Latch) :
    (x.setLatchW k r).sel = x.sel := rfl
@[simp] theorem setLatchW_leaf (x : Core) (k : Nat) (r : Latch) :
    (x.setLatchW k r).leaf = x.leaf := rfl
@[simp] theorem setLatchW_early (x : Core) (k : Nat) (r : Latch) :
    (x.setLatchW k r).early = x.early := rfl
@[simp] theorem setLatchW_stalled (x : Core) (k : Nat) (r : Latch) :
    (x.setLatchW k r).stalled = x.stalled := rfl
@[simp] theorem setLatchW_evCopy (x : Core) (k : Nat) (r : Latch) :
    (x.setLatchW k r).evCopy = x.evCopy := rfl
@[simp] theorem setAccRow_team (x : Core) (b k : Nat) (r : AccRow) :
    (x.setAccRow b k r).team = x.team := rfl
@[simp] theorem setAccRow_tcore (x : Core) (b k : Nat) (r : AccRow) :
    (x.setAccRow b k r).tcore = x.tcore := rfl
@[simp] theorem setAccRow_run (x : Core) (b k : Nat) (r : AccRow) :
    (x.setAccRow b k r).run = x.run := rfl
@[simp] theorem setAccRow_pc (x : Core) (b k : Nat) (r : AccRow) :
    (x.setAccRow b k r).pc = x.pc := rfl
@[simp] theorem setAccRow_mode (x : Core) (b k : Nat) (r : AccRow) :
    (x.setAccRow b k r).mode = x.mode := rfl
@[simp] theorem setAccRow_tmode (x : Core) (b k : Nat) (r : AccRow) :
    (x.setAccRow b k r).tmode = x.tmode := rfl
@[simp] theorem setAccRow_cause (x : Core) (b k : Nat) (r : AccRow) :
    (x.setAccRow b k r).cause = x.cause := rfl
@[simp] theorem setAccRow_dup (x : Core) (b k : Nat) (r : AccRow) :
    (x.setAccRow b k r).dup = x.dup := rfl
@[simp] theorem setAccRow_ck (x : Core) (b k : Nat) (r : AccRow) :
    (x.setAccRow b k r).ck = x.ck := rfl
@[simp] theorem setAccRow_undo (x : Core) (b k : Nat) (r : AccRow) :
    (x.setAccRow b k r).undo = x.undo := rfl
@[simp] theorem setAccRow_named (x : Core) (b k : Nat) (r : AccRow) :
    (x.setAccRow b k r).named = x.named := rfl
@[simp] theorem setAccRow_cyc (x : Core) (b k : Nat) (r : AccRow) :
    (x.setAccRow b k r).cyc = x.cyc := rfl
@[simp] theorem setAccRow_due (x : Core) (b k : Nat) (r : AccRow) :
    (x.setAccRow b k r).due = x.due := rfl
@[simp] theorem setAccRow_spad (x : Core) (b k : Nat) (r : AccRow) :
    (x.setAccRow b k r).spad = x.spad := rfl
@[simp] theorem setAccRow_spadBad (x : Core) (b k : Nat) (r : AccRow) :
    (x.setAccRow b k r).spadBad = x.spadBad := rfl
@[simp] theorem setAccRow_tags (x : Core) (b k : Nat) (r : AccRow) :
    (x.setAccRow b k r).tags = x.tags := rfl
@[simp] theorem setAccRow_tagsBad (x : Core) (b k : Nat) (r : AccRow) :
    (x.setAccRow b k r).tagsBad = x.tagsBad := rfl
@[simp] theorem setAccRow_latch (x : Core) (b k : Nat) (r : AccRow) :
    (x.setAccRow b k r).latch = x.latch := rfl
@[simp] theorem setAccRow_chan (x : Core) (b k : Nat) (r : AccRow) :
    (x.setAccRow b k r).chan = x.chan := rfl
@[simp] theorem setAccRow_lq (x : Core) (b k : Nat) (r : AccRow) :
    (x.setAccRow b k r).lq = x.lq := rfl
@[simp] theorem setAccRow_wb (x : Core) (b k : Nat) (r : AccRow) :
    (x.setAccRow b k r).wb = x.wb := rfl
@[simp] theorem setAccRow_accs (x : Core) (b k : Nat) (r : AccRow) :
    (x.setAccRow b k r).accs = x.accs := rfl
@[simp] theorem setAccRow_nextId (x : Core) (b k : Nat) (r : AccRow) :
    (x.setAccRow b k r).nextId = x.nextId := rfl
@[simp] theorem setAccRow_imem (x : Core) (b k : Nat) (r : AccRow) :
    (x.setAccRow b k r).imem = x.imem := rfl
@[simp] theorem setAccRow_imemBad (x : Core) (b k : Nat) (r : AccRow) :
    (x.setAccRow b k r).imemBad = x.imemBad := rfl
@[simp] theorem setAccRow_half0 (x : Core) (b k : Nat) (r : AccRow) :
    (x.setAccRow b k r).half0 = x.half0 := rfl
@[simp] theorem setAccRow_half1 (x : Core) (b k : Nat) (r : AccRow) :
    (x.setAccRow b k r).half1 = x.half1 := rfl
@[simp] theorem setAccRow_refetch (x : Core) (b k : Nat) (r : AccRow) :
    (x.setAccRow b k r).refetch = x.refetch := rfl
@[simp] theorem setAccRow_divide (x : Core) (b k : Nat) (r : AccRow) :
    (x.setAccRow b k r).divide = x.divide := rfl
@[simp] theorem setAccRow_mxBusy (x : Core) (b k : Nat) (r : AccRow) :
    (x.setAccRow b k r).mxBusy = x.mxBusy := rfl
@[simp] theorem setAccRow_c7 (x : Core) (b k : Nat) (r : AccRow) :
    (x.setAccRow b k r).c7 = x.c7 := rfl
@[simp] theorem setAccRow_cdown (x : Core) (b k : Nat) (r : AccRow) :
    (x.setAccRow b k r).cdown = x.cdown := rfl
@[simp] theorem setAccRow_cdRun (x : Core) (b k : Nat) (r : AccRow) :
    (x.setAccRow b k r).cdRun = x.cdRun := rfl
@[simp] theorem setAccRow_cdload (x : Core) (b k : Nat) (r : AccRow) :
    (x.setAccRow b k r).cdload = x.cdload := rfl
@[simp] theorem setAccRow_park (x : Core) (b k : Nat) (r : AccRow) :
    (x.setAccRow b k r).park = x.park := rfl
@[simp] theorem setAccRow_tcount (x : Core) (b k : Nat) (r : AccRow) :
    (x.setAccRow b k r).tcount = x.tcount := rfl
@[simp] theorem setAccRow_shielded (x : Core) (b k : Nat) (r : AccRow) :
    (x.setAccRow b k r).shielded = x.shielded := rfl
@[simp] theorem setAccRow_consume (x : Core) (b k : Nat) (r : AccRow) :
    (x.setAccRow b k r).consume = x.consume := rfl
@[simp] theorem setAccRow_sel (x : Core) (b k : Nat) (r : AccRow) :
    (x.setAccRow b k r).sel = x.sel := rfl
@[simp] theorem setAccRow_leaf (x : Core) (b k : Nat) (r : AccRow) :
    (x.setAccRow b k r).leaf = x.leaf := rfl
@[simp] theorem setAccRow_early (x : Core) (b k : Nat) (r : AccRow) :
    (x.setAccRow b k r).early = x.early := rfl
@[simp] theorem setAccRow_stalled (x : Core) (b k : Nat) (r : AccRow) :
    (x.setAccRow b k r).stalled = x.stalled := rfl
@[simp] theorem setAccRow_evCopy (x : Core) (b k : Nat) (r : AccRow) :
    (x.setAccRow b k r).evCopy = x.evCopy := rfl
@[simp] theorem sched_team (x : Core) (off rank : Nat) (fx : Fx) :
    (x.sched off rank fx).team = x.team := rfl
@[simp] theorem sched_tcore (x : Core) (off rank : Nat) (fx : Fx) :
    (x.sched off rank fx).tcore = x.tcore := rfl
@[simp] theorem sched_run (x : Core) (off rank : Nat) (fx : Fx) :
    (x.sched off rank fx).run = x.run := rfl
@[simp] theorem sched_pc (x : Core) (off rank : Nat) (fx : Fx) :
    (x.sched off rank fx).pc = x.pc := rfl
@[simp] theorem sched_mode (x : Core) (off rank : Nat) (fx : Fx) :
    (x.sched off rank fx).mode = x.mode := rfl
@[simp] theorem sched_tmode (x : Core) (off rank : Nat) (fx : Fx) :
    (x.sched off rank fx).tmode = x.tmode := rfl
@[simp] theorem sched_cause (x : Core) (off rank : Nat) (fx : Fx) :
    (x.sched off rank fx).cause = x.cause := rfl
@[simp] theorem sched_dup (x : Core) (off rank : Nat) (fx : Fx) :
    (x.sched off rank fx).dup = x.dup := rfl
@[simp] theorem sched_ck (x : Core) (off rank : Nat) (fx : Fx) :
    (x.sched off rank fx).ck = x.ck := rfl
@[simp] theorem sched_undo (x : Core) (off rank : Nat) (fx : Fx) :
    (x.sched off rank fx).undo = x.undo := rfl
@[simp] theorem sched_named (x : Core) (off rank : Nat) (fx : Fx) :
    (x.sched off rank fx).named = x.named := rfl
@[simp] theorem sched_cyc (x : Core) (off rank : Nat) (fx : Fx) :
    (x.sched off rank fx).cyc = x.cyc := rfl
@[simp] theorem sched_spad (x : Core) (off rank : Nat) (fx : Fx) :
    (x.sched off rank fx).spad = x.spad := rfl
@[simp] theorem sched_spadBad (x : Core) (off rank : Nat) (fx : Fx) :
    (x.sched off rank fx).spadBad = x.spadBad := rfl
@[simp] theorem sched_tags (x : Core) (off rank : Nat) (fx : Fx) :
    (x.sched off rank fx).tags = x.tags := rfl
@[simp] theorem sched_tagsBad (x : Core) (off rank : Nat) (fx : Fx) :
    (x.sched off rank fx).tagsBad = x.tagsBad := rfl
@[simp] theorem sched_latch (x : Core) (off rank : Nat) (fx : Fx) :
    (x.sched off rank fx).latch = x.latch := rfl
@[simp] theorem sched_acc (x : Core) (off rank : Nat) (fx : Fx) :
    (x.sched off rank fx).acc = x.acc := rfl
@[simp] theorem sched_chan (x : Core) (off rank : Nat) (fx : Fx) :
    (x.sched off rank fx).chan = x.chan := rfl
@[simp] theorem sched_lq (x : Core) (off rank : Nat) (fx : Fx) :
    (x.sched off rank fx).lq = x.lq := rfl
@[simp] theorem sched_wb (x : Core) (off rank : Nat) (fx : Fx) :
    (x.sched off rank fx).wb = x.wb := rfl
@[simp] theorem sched_accs (x : Core) (off rank : Nat) (fx : Fx) :
    (x.sched off rank fx).accs = x.accs := rfl
@[simp] theorem sched_nextId (x : Core) (off rank : Nat) (fx : Fx) :
    (x.sched off rank fx).nextId = x.nextId := rfl
@[simp] theorem sched_imem (x : Core) (off rank : Nat) (fx : Fx) :
    (x.sched off rank fx).imem = x.imem := rfl
@[simp] theorem sched_imemBad (x : Core) (off rank : Nat) (fx : Fx) :
    (x.sched off rank fx).imemBad = x.imemBad := rfl
@[simp] theorem sched_half0 (x : Core) (off rank : Nat) (fx : Fx) :
    (x.sched off rank fx).half0 = x.half0 := rfl
@[simp] theorem sched_half1 (x : Core) (off rank : Nat) (fx : Fx) :
    (x.sched off rank fx).half1 = x.half1 := rfl
@[simp] theorem sched_refetch (x : Core) (off rank : Nat) (fx : Fx) :
    (x.sched off rank fx).refetch = x.refetch := rfl
@[simp] theorem sched_divide (x : Core) (off rank : Nat) (fx : Fx) :
    (x.sched off rank fx).divide = x.divide := rfl
@[simp] theorem sched_mxBusy (x : Core) (off rank : Nat) (fx : Fx) :
    (x.sched off rank fx).mxBusy = x.mxBusy := rfl
@[simp] theorem sched_c7 (x : Core) (off rank : Nat) (fx : Fx) :
    (x.sched off rank fx).c7 = x.c7 := rfl
@[simp] theorem sched_cdown (x : Core) (off rank : Nat) (fx : Fx) :
    (x.sched off rank fx).cdown = x.cdown := rfl
@[simp] theorem sched_cdRun (x : Core) (off rank : Nat) (fx : Fx) :
    (x.sched off rank fx).cdRun = x.cdRun := rfl
@[simp] theorem sched_cdload (x : Core) (off rank : Nat) (fx : Fx) :
    (x.sched off rank fx).cdload = x.cdload := rfl
@[simp] theorem sched_park (x : Core) (off rank : Nat) (fx : Fx) :
    (x.sched off rank fx).park = x.park := rfl
@[simp] theorem sched_tcount (x : Core) (off rank : Nat) (fx : Fx) :
    (x.sched off rank fx).tcount = x.tcount := rfl
@[simp] theorem sched_shielded (x : Core) (off rank : Nat) (fx : Fx) :
    (x.sched off rank fx).shielded = x.shielded := rfl
@[simp] theorem sched_consume (x : Core) (off rank : Nat) (fx : Fx) :
    (x.sched off rank fx).consume = x.consume := rfl
@[simp] theorem sched_sel (x : Core) (off rank : Nat) (fx : Fx) :
    (x.sched off rank fx).sel = x.sel := rfl
@[simp] theorem sched_leaf (x : Core) (off rank : Nat) (fx : Fx) :
    (x.sched off rank fx).leaf = x.leaf := rfl
@[simp] theorem sched_early (x : Core) (off rank : Nat) (fx : Fx) :
    (x.sched off rank fx).early = x.early := rfl
@[simp] theorem sched_stalled (x : Core) (off rank : Nat) (fx : Fx) :
    (x.sched off rank fx).stalled = x.stalled := rfl
@[simp] theorem sched_evCopy (x : Core) (off rank : Nat) (fx : Fx) :
    (x.sched off rank fx).evCopy = x.evCopy := rfl
@[simp] theorem setChanRun_get (x : Core) (k : Nat) (r : ChRun) (j : Nat) :
    (x.setChanRun k r).chanRun j = if j = k then r else x.chanRun j := tab_get_set _ _ _ _ _
@[simp] theorem setLq_get (x : Core) (k : Nat) (r : LinkQ) (j : Nat) :
    (x.setLq k r).lqOf j = if j = k then r else x.lqOf j := tab_get_set _ _ _ _ _
@[simp] theorem setLatchW_get (x : Core) (k : Nat) (r : Latch) (j : Nat) :
    (x.setLatchW k r).latchOf j = if j = k then r else x.latchOf j := tab_get_set _ _ _ _ _

/-- Landing an effect changes the registers, and of the checkpoint only its registers, when the effect was issued before it. -/
theorem landDup_cases (x : Core) (iss : Nat) (f : Dup → Dup) :
    x.landDup iss f = { x with dup := f x.dup, ck := { x.ck with dup := if iss < x.ck.cyc then f x.ck.dup else x.ck.dup } } := by
  unfold Core.landDup; dsimp only; split <;> rfl
@[simp] theorem landDup_dup (x : Core) (iss : Nat) (f : Dup → Dup) :
    (x.landDup iss f).dup = f x.dup := by
  rw [landDup_cases]
@[simp] theorem landDup_team (x : Core) (iss : Nat) (f : Dup → Dup) :
    (x.landDup iss f).team = x.team := by
  rw [landDup_cases]
@[simp] theorem landDup_tcore (x : Core) (iss : Nat) (f : Dup → Dup) :
    (x.landDup iss f).tcore = x.tcore := by
  rw [landDup_cases]
@[simp] theorem landDup_run (x : Core) (iss : Nat) (f : Dup → Dup) :
    (x.landDup iss f).run = x.run := by
  rw [landDup_cases]
@[simp] theorem landDup_pc (x : Core) (iss : Nat) (f : Dup → Dup) :
    (x.landDup iss f).pc = x.pc := by
  rw [landDup_cases]
@[simp] theorem landDup_mode (x : Core) (iss : Nat) (f : Dup → Dup) :
    (x.landDup iss f).mode = x.mode := by
  rw [landDup_cases]
@[simp] theorem landDup_tmode (x : Core) (iss : Nat) (f : Dup → Dup) :
    (x.landDup iss f).tmode = x.tmode := by
  rw [landDup_cases]
@[simp] theorem landDup_cause (x : Core) (iss : Nat) (f : Dup → Dup) :
    (x.landDup iss f).cause = x.cause := by
  rw [landDup_cases]
@[simp] theorem landDup_undo (x : Core) (iss : Nat) (f : Dup → Dup) :
    (x.landDup iss f).undo = x.undo := by
  rw [landDup_cases]
@[simp] theorem landDup_named (x : Core) (iss : Nat) (f : Dup → Dup) :
    (x.landDup iss f).named = x.named := by
  rw [landDup_cases]
@[simp] theorem landDup_cyc (x : Core) (iss : Nat) (f : Dup → Dup) :
    (x.landDup iss f).cyc = x.cyc := by
  rw [landDup_cases]
@[simp] theorem landDup_due (x : Core) (iss : Nat) (f : Dup → Dup) :
    (x.landDup iss f).due = x.due := by
  rw [landDup_cases]
@[simp] theorem landDup_spad (x : Core) (iss : Nat) (f : Dup → Dup) :
    (x.landDup iss f).spad = x.spad := by
  rw [landDup_cases]
@[simp] theorem landDup_spadBad (x : Core) (iss : Nat) (f : Dup → Dup) :
    (x.landDup iss f).spadBad = x.spadBad := by
  rw [landDup_cases]
@[simp] theorem landDup_tags (x : Core) (iss : Nat) (f : Dup → Dup) :
    (x.landDup iss f).tags = x.tags := by
  rw [landDup_cases]
@[simp] theorem landDup_tagsBad (x : Core) (iss : Nat) (f : Dup → Dup) :
    (x.landDup iss f).tagsBad = x.tagsBad := by
  rw [landDup_cases]
@[simp] theorem landDup_latch (x : Core) (iss : Nat) (f : Dup → Dup) :
    (x.landDup iss f).latch = x.latch := by
  rw [landDup_cases]
@[simp] theorem landDup_acc (x : Core) (iss : Nat) (f : Dup → Dup) :
    (x.landDup iss f).acc = x.acc := by
  rw [landDup_cases]
@[simp] theorem landDup_chan (x : Core) (iss : Nat) (f : Dup → Dup) :
    (x.landDup iss f).chan = x.chan := by
  rw [landDup_cases]
@[simp] theorem landDup_lq (x : Core) (iss : Nat) (f : Dup → Dup) :
    (x.landDup iss f).lq = x.lq := by
  rw [landDup_cases]
@[simp] theorem landDup_wb (x : Core) (iss : Nat) (f : Dup → Dup) :
    (x.landDup iss f).wb = x.wb := by
  rw [landDup_cases]
@[simp] theorem landDup_accs (x : Core) (iss : Nat) (f : Dup → Dup) :
    (x.landDup iss f).accs = x.accs := by
  rw [landDup_cases]
@[simp] theorem landDup_nextId (x : Core) (iss : Nat) (f : Dup → Dup) :
    (x.landDup iss f).nextId = x.nextId := by
  rw [landDup_cases]
@[simp] theorem landDup_imem (x : Core) (iss : Nat) (f : Dup → Dup) :
    (x.landDup iss f).imem = x.imem := by
  rw [landDup_cases]
@[simp] theorem landDup_imemBad (x : Core) (iss : Nat) (f : Dup → Dup) :
    (x.landDup iss f).imemBad = x.imemBad := by
  rw [landDup_cases]
@[simp] theorem landDup_half0 (x : Core) (iss : Nat) (f : Dup → Dup) :
    (x.landDup iss f).half0 = x.half0 := by
  rw [landDup_cases]
@[simp] theorem landDup_half1 (x : Core) (iss : Nat) (f : Dup → Dup) :
    (x.landDup iss f).half1 = x.half1 := by
  rw [landDup_cases]
@[simp] theorem landDup_refetch (x : Core) (iss : Nat) (f : Dup → Dup) :
    (x.landDup iss f).refetch = x.refetch := by
  rw [landDup_cases]
@[simp] theorem landDup_divide (x : Core) (iss : Nat) (f : Dup → Dup) :
    (x.landDup iss f).divide = x.divide := by
  rw [landDup_cases]
@[simp] theorem landDup_mxBusy (x : Core) (iss : Nat) (f : Dup → Dup) :
    (x.landDup iss f).mxBusy = x.mxBusy := by
  rw [landDup_cases]
@[simp] theorem landDup_c7 (x : Core) (iss : Nat) (f : Dup → Dup) :
    (x.landDup iss f).c7 = x.c7 := by
  rw [landDup_cases]
@[simp] theorem landDup_cdown (x : Core) (iss : Nat) (f : Dup → Dup) :
    (x.landDup iss f).cdown = x.cdown := by
  rw [landDup_cases]
@[simp] theorem landDup_cdRun (x : Core) (iss : Nat) (f : Dup → Dup) :
    (x.landDup iss f).cdRun = x.cdRun := by
  rw [landDup_cases]
@[simp] theorem landDup_cdload (x : Core) (iss : Nat) (f : Dup → Dup) :
    (x.landDup iss f).cdload = x.cdload := by
  rw [landDup_cases]
@[simp] theorem landDup_park (x : Core) (iss : Nat) (f : Dup → Dup) :
    (x.landDup iss f).park = x.park := by
  rw [landDup_cases]
@[simp] theorem landDup_tcount (x : Core) (iss : Nat) (f : Dup → Dup) :
    (x.landDup iss f).tcount = x.tcount := by
  rw [landDup_cases]
@[simp] theorem landDup_shielded (x : Core) (iss : Nat) (f : Dup → Dup) :
    (x.landDup iss f).shielded = x.shielded := by
  rw [landDup_cases]
@[simp] theorem landDup_consume (x : Core) (iss : Nat) (f : Dup → Dup) :
    (x.landDup iss f).consume = x.consume := by
  rw [landDup_cases]
@[simp] theorem landDup_sel (x : Core) (iss : Nat) (f : Dup → Dup) :
    (x.landDup iss f).sel = x.sel := by
  rw [landDup_cases]
@[simp] theorem landDup_leaf (x : Core) (iss : Nat) (f : Dup → Dup) :
    (x.landDup iss f).leaf = x.leaf := by
  rw [landDup_cases]
@[simp] theorem landDup_early (x : Core) (iss : Nat) (f : Dup → Dup) :
    (x.landDup iss f).early = x.early := by
  rw [landDup_cases]
@[simp] theorem landDup_stalled (x : Core) (iss : Nat) (f : Dup → Dup) :
    (x.landDup iss f).stalled = x.stalled := by
  rw [landDup_cases]
@[simp] theorem landDup_evCopy (x : Core) (iss : Nat) (f : Dup → Dup) :
    (x.landDup iss f).evCopy = x.evCopy := by
  rw [landDup_cases]

end Sys2Proof.Laws
end

