-- ==== Sys2Proof/Laws/Ops.lean ====
section
/-!
SUPPORT. What each shared operation can do, said once: how an operation ends, what it waits for, what it schedules, and
what taking a trap, binding a queue and ending a packet do.
-/
namespace Sys2Proof.Laws

open Sys2Proof.Machine

/-! ### How a step of a unit ends -/

@[simp] theorem finish_done (s : State) (c : Nat) (u : State) : finish s c (.done u) = .next u := rfl
@[simp] theorem finish_stall (s : State) (c : Nat) : finish s c .stall = .next s := rfl
@[simp] theorem finish_trap (s : State) (c : Nat) (t : Trap) : finish s c (.trap t) = .next (takeTrap s c t) := rfl
@[simp] theorem finish_fetch (s : State) (c : Nat) (a : Acc) : finish s c (.fetch a) = .next (pushAcc s c a) := rfl
@[simp] theorem finish_await (s : State) (c k n : Nat) :
    finish s c (.await k n) = .next (s.onCore c (fun x => needItems x k n)) := rfl

/-- A unit's step always answers a next state. -/
theorem finish_next (s : State) (c : Nat) (r : Res) : ∃ u, finish s c r = .next u := by
  cases r <;> exact ⟨_, rfl⟩

/-! ### Guards -/

/-- An operation that needs a checkpoint: illegal without one; in the handler it shields; otherwise it goes on. -/
theorem withCkpt_cases (t : Trig) (s : State) (k : State → Res) :
    (t.ckpt = false ∧ withCkpt t s k = .trap (trapIllegal t.slot)) ∨
    (t.ckpt = true ∧ (s.core t.core).mode = .handler ∧
      withCkpt t s k = k (s.onCore t.core (fun x => { x with shielded := true }))) ∨
    (t.ckpt = true ∧ (s.core t.core).mode ≠ .handler ∧ withCkpt t s k = k s) := by
  unfold withCkpt
  by_cases h : t.ckpt = true
  · by_cases h2 : (s.core t.core).mode = .handler <;> simp [h, h2]
  · simp [h]

/-- A privileged operation: it goes on, or takes the privilege trap. -/
theorem withPriv_cases (t : Trig) (s : State) (k : State → Res) :
    ((s.core t.core).privileged = true ∧ withPriv t s k = k s) ∨
    ((s.core t.core).privileged = false ∧ withPriv t s k = .trap (trapPriv t.slot)) := by
  unfold withPriv
  by_cases h : (s.core t.core).privileged = true <;> simp [h]

theorem withReg_cases (s : State) (c r : Nat) (k : Unit → Res) :
    (((s.core c).dup.greg r).st = .empty ∧ withReg s c r k = .stall) ∨
    (((s.core c).dup.greg r).st ≠ .empty ∧ withReg s c r k = k ()) := by
  unfold withReg
  by_cases h : ((s.core c).dup.greg r).st = .empty <;> simp [h]

theorem withSlot_cases (s : State) (c : Nat) (k : Unit → Res) :
    (2048 ≤ outstanding (s.core c) ∧ withSlot s c k = .stall) ∨
    (outstanding (s.core c) < 2048 ∧ withSlot s c k = k ()) := by
  unfold withSlot
  by_cases h : 2048 ≤ outstanding (s.core c)
  · simp [h]
  · simp [h, Nat.lt_of_not_le h]

/-! ### Scheduling -/

/-- A scheduled effect joins the effects that are due on its core, and changes nothing else. -/
theorem plan_core (s : State) (c off rank : Nat) (fx : Fx) (k : Nat) :
    (plan s c off rank fx).core k = if k = c then (s.core c).sched off rank fx else s.core k := by
  unfold plan; simp

@[simp] theorem plan_hbm (s : State) (c off rank : Nat) (fx : Fx) : (plan s c off rank fx).hbm = s.hbm := rfl
@[simp] theorem plan_fe (s : State) (c off rank : Nat) (fx : Fx) : (plan s c off rank fx).fe = s.fe := rfl

/-- An access takes its place at the end of its core's accesses, and changes nothing else. -/
theorem pushAcc_core (s : State) (c : Nat) (a : Acc) (k : Nat) :
    (pushAcc s c a).core k =
      if k = c then { s.core c with accs := (s.core c).accs ++ [a], nextId := (s.core c).nextId + 1 } else s.core k := by
  unfold pushAcc; simp

@[simp] theorem pushAcc_hbm (s : State) (c : Nat) (a : Acc) : (pushAcc s c a).hbm = s.hbm := rfl
@[simp] theorem pushAcc_fe (s : State) (c : Nat) (a : Acc) : (pushAcc s c a).fe = s.fe := rfl

/-- A long-latency access empties its register and takes its place. -/
theorem issueAcc_core (s : State) (c : Nat) (a : Acc) (k : Nat) :
    (issueAcc s c a).core k =
      if k = c then { s.core c with
        dup := (s.core c).dup.emptyG a.reg, accs := (s.core c).accs ++ [a], nextId := (s.core c).nextId + 1 }
      else s.core k := by
  unfold issueAcc
  rw [pushAcc_core]
  by_cases h : k = c <;> simp [h]

/-! ### Traps -/

/-- Outside the handler, with half 0 present after the rollback, a trap enters the handler on the core that the rollback
leaves. -/
theorem takeTrap_enters (s : State) (c : Nat) (t : Trap) (hm : (s.core c).mode ≠ .handler) (hl : t.log = none)
    (h0 : emptyHalf0 ((rollbackCore s c).onCore c (fun x => enterHandler x (causeOf s c t) (s.core c).mode)) c = false) :
    takeTrap s c t = (rollbackCore s c).onCore c (fun x => enterHandler x (causeOf s c t) (s.core c).mode) := by
  unfold takeTrap
  simp [hl, hm, h0]

/-- In the handler a trap is a double fault. -/
theorem takeTrap_double (s : State) (c : Nat) (t : Trap) (hm : (s.core c).mode = .handler) (hl : t.log = none) :
    takeTrap s c t = doubleFault s c := by
  unfold takeTrap
  simp [hl, hm]

/-! ### Queues and packets -/

/-- A queue is bound to the lowest free interpreter, or waits for one. -/
theorem bindQueue_cases (s : State) (q : Nat) :
    (∃ k, (s.interp k).queue = none ∧ bindQueue s q = s.setInterp k { Interp.init with queue := some q }) ∨
    bindQueue s q = { s with fe := { s.fe with waitq := s.fe.waitq ++ [q] } } := by
  unfold bindQueue
  split
  · rename_i k hk
    exact .inl ⟨k, by simpa using List.find?_some hk, rfl⟩
  · exact .inr rfl

/-- Reading the bytecode that follows: a change of the interpreter alone. -/
theorem onIp_eq (s : State) (f : Interp → Interp) : onIp s f = s.setInterp s.cur (f (s.interp s.cur)) := rfl

/-- A register write by an agent that runs either takes effect or is dropped with its record. -/
theorem agentWrite_cases (s : State) (ag : Agent) (a : Nat) (v : Word) (hr : agentRuns s ag = true) (hp : isPhys ag a = false) :
    (∃ t, devWrite s ag a v = (t, none) ∧ agentWrite s ag a v = t) ∨
    (∃ t code, devWrite s ag a v = (t, some code) ∧ agentWrite s ag a v = logAgent t ag code a) := by
  unfold agentWrite
  rw [hr, hp, if_neg (by decide), if_neg (by decide)]
  generalize devWrite s ag a v = r
  obtain ⟨t, o⟩ := r
  cases o with
  | none => exact .inl ⟨t, rfl, rfl⟩
  | some code => exact .inr ⟨t, code, rfl, rfl⟩

/-- A held core of management firmware writes nothing (R77). -/
theorem agentWrite_held (s : State) (ag : Agent) (a : Nat) (v : Word) (hr : agentRuns s ag = false) : agentWrite s ag a v = s := by
  unfold agentWrite
  rw [hr]
  rfl

/-- A record of a refused access touches only the log and what its write touches. -/
theorem logged_logAgent (s : State) (ag : Agent) (code a : Nat) : Logged s (logAgent s ag code a) := by
  unfold logAgent
  cases ag <;> exact logged_logErr _ _ _ _ _ _ _

/-! ### Steps -/

/-- The head of the schedule is the next turn. -/
theorem nextTurn_cons (s : State) (t : Turn) (r : List Turn) (h : s.turns = t :: r) :
    nextTurn s = (t, { s with turns := r }) := by
  unfold nextTurn; rw [h]

/-- An empty schedule continues with a free turn. -/
theorem nextTurn_nil (s : State) (h : s.turns = []) :
    nextTurn s = (Config.turn s.tick, { s with tick := s.tick + 1 }) := by
  unfold nextTurn; rw [h]

end Sys2Proof.Laws
end

