-- ==== Sys2Proof/Laws/PerInstr.lean ====
section
/-!
SUPPORT. Families of statements about instructions as syntax, one lemma for each constructor: the word of a bytecode has 32 bits.
-/
namespace Sys2Proof.Laws.WordFits

/-- The word of a bytecode has 32 bits (R67); a step that is no bytecode has none. -/
def Statement (i : Instr) : Prop := ∀ w, encodeLerant i = some w → w < 2 ^ 32

theorem lt_of_fields (op a b v : Nat) (h1 : op < 64) (h2 : a < 8) (h3 : b < 8) (h4 : v < 2 ^ 20) : lerantWord op a b v < 2 ^ 32 := by
  unfold lerantWord; omega

theorem of_some {i : Instr} {x : Nat} (h : encodeLerant i = some x) (hx : x < 2 ^ 32) : Statement i := fun w hw => by
  rw [h] at hw; injection hw with hw; rw [← hw]; exact hx

theorem of_none {i : Instr} (h : encodeLerant i = none) : Statement i := fun w hw => by rw [h] at hw; cases hw

theorem coldReset : Statement .coldReset := of_none rfl
theorem recoveryImage (x1 : FwImage) : Statement (.recoveryImage x1) := of_none rfl
theorem linkReset (x1 : Nat) : Statement (.linkReset x1) := of_none rfl
theorem configRequest (x1 : HostAcc) : Statement (.configRequest x1) := of_none rfl
theorem bar0Access (x1 : HostAcc) : Statement (.bar0Access x1) := of_none rfl
theorem bar2Access (x1 : HostAcc) : Statement (.bar2Access x1) := of_none rfl
theorem bar4Access (x1 : HostAcc) : Statement (.bar4Access x1) := of_none rfl
theorem cxlMemAccess (x1 : HostAcc) : Statement (.cxlMemAccess x1) := of_none rfl
theorem powerSample (x1 x2 x3 x4 x5 : Nat) : Statement (.powerSample x1 x2 x3 x4 x5) := of_none rfl
theorem levelRaiseTick : Statement .levelRaiseTick := of_none rfl
theorem levelLowerTick : Statement .levelLowerTick := of_none rfl
theorem thermalFloorTick (x1 : Nat) : Statement (.thermalFloorTick x1) := of_none rfl
theorem thermtrip : Statement .thermtrip := of_none rfl
theorem notifyGate : Statement .notifyGate := of_none rfl
theorem notifyUngate : Statement .notifyUngate := of_none rfl
theorem registerWrite (x1 : Agent) (x2 : Nat) (x3 : Word) : Statement (.registerWrite x1 x2 x3) := of_none rfl
theorem qdStateRunning (x1 : Agent) (x2 : Nat) (x3 : Word) : Statement (.qdStateRunning x1 x2 x3) := of_none rfl
theorem qdStateHalted (x1 : Agent) (x2 : Nat) (x3 : Word) : Statement (.qdStateHalted x1 x2 x3) := of_none rfl
theorem qdStateUnmapped (x1 : Agent) (x2 : Nat) (x3 : Word) : Statement (.qdStateUnmapped x1 x2 x3) := of_none rfl
theorem qd1Write (x1 : Agent) (x2 : Nat) (x3 : Word) : Statement (.qd1Write x1 x2 x3) := of_none rfl
theorem qd3Write (x1 : Agent) (x2 : Nat) (x3 : Word) : Statement (.qd3Write x1 x2 x3) := of_none rfl
theorem programStoreWrite (x1 : Agent) (x2 x3 : Nat) (x4 : Word) : Statement (.programStoreWrite x1 x2 x3 x4) := of_none rfl
theorem fePctlCheck (x1 : Agent) (x2 x3 : Nat) : Statement (.fePctlCheck x1 x2 x3) := of_none rfl
theorem fePctlRelease (x1 : Agent) (x2 : Nat) : Statement (.fePctlRelease x1 x2) := of_none rfl
theorem clrlost (x1 : Agent) : Statement (.clrlost x1) := of_none rfl
theorem xlInvEntry (x1 : Agent) (x2 : Bool) (x3 : Nat) : Statement (.xlInvEntry x1 x2 x3) := of_none rfl
theorem xlInvContext (x1 : Agent) : Statement (.xlInvContext x1) := of_none rfl
theorem xlInvAll (x1 : Agent) : Statement (.xlInvAll x1) := of_none rfl
theorem invalidationComplete : Statement .invalidationComplete := of_none rfl
theorem mtuResolveRetry (x1 : Agent) (x2 x3 : Nat) : Statement (.mtuResolveRetry x1 x2 x3) := of_none rfl
theorem mtuResolveRefuse (x1 : Agent) (x2 x3 : Nat) : Statement (.mtuResolveRefuse x1 x2 x3) := of_none rfl
theorem xrCtlLoad (x1 : Agent) (x2 : Nat) : Statement (.xrCtlLoad x1 x2) := of_none rfl
theorem notifyWake (x1 : Agent) (x2 x3 : Nat) (x4 : BitVec 48) : Statement (.notifyWake x1 x2 x3 x4) := of_none rfl
theorem barrierNeedWrite (x1 : Agent) (x2 x3 : Nat) : Statement (.barrierNeedWrite x1 x2 x3) := of_none rfl
theorem barrierArrive (x1 : Agent) (x2 x3 : Nat) : Statement (.barrierArrive x1 x2 x3) := of_none rfl
theorem queuePoll (x1 : Nat) : Statement (.queuePoll x1) := of_none rfl
theorem packetRun (x1 : Nat) : Statement (.packetRun x1) := of_none rfl
theorem rootCounterWaitEnd (x1 : Nat) : Statement (.rootCounterWaitEnd x1) := of_none rfl
theorem lerantHalt : Statement .lerantHalt :=
  of_some rfl (lt_of_fields _ _ _ _ (by decide) (by decide) (by decide) (by decide))
theorem ldpk (x1 : BitVec 3) (x2 : BitVec 4) : Statement (.ldpk x1 x2) :=
  of_some rfl (lt_of_fields _ _ _ _ (by decide) x1.isLt (by decide) (by have := x1.isLt; have := x2.isLt; omega))
theorem ldi (x1 : BitVec 3) (x2 : BitVec 20) : Statement (.ldi x1 x2) :=
  of_some rfl (lt_of_fields _ _ _ _ (by decide) x1.isLt (by decide) (by have := x1.isLt; have := x2.isLt; omega))
theorem shin (x1 : BitVec 3) (x2 : BitVec 20) : Statement (.shin x1 x2) :=
  of_some rfl (lt_of_fields _ _ _ _ (by decide) x1.isLt (by decide) (by have := x1.isLt; have := x2.isLt; omega))
theorem lerantMov (x1 x2 : BitVec 3) : Statement (.lerantMov x1 x2) :=
  of_some rfl (lt_of_fields _ _ _ _ (by decide) x1.isLt x2.isLt (by decide))
theorem lerantAdd (x1 x2 : BitVec 3) : Statement (.lerantAdd x1 x2) :=
  of_some rfl (lt_of_fields _ _ _ _ (by decide) x1.isLt x2.isLt (by decide))
theorem lerantSub (x1 x2 : BitVec 3) : Statement (.lerantSub x1 x2) :=
  of_some rfl (lt_of_fields _ _ _ _ (by decide) x1.isLt x2.isLt (by decide))
theorem lerantAnd (x1 x2 : BitVec 3) : Statement (.lerantAnd x1 x2) :=
  of_some rfl (lt_of_fields _ _ _ _ (by decide) x1.isLt x2.isLt (by decide))
theorem lerantOr (x1 x2 : BitVec 3) : Statement (.lerantOr x1 x2) :=
  of_some rfl (lt_of_fields _ _ _ _ (by decide) x1.isLt x2.isLt (by decide))
theorem ext (x1 x2 : BitVec 3) (x3 x4 : BitVec 6) : Statement (.ext x1 x2 x3 x4) :=
  of_some rfl (lt_of_fields _ _ _ _ (by decide) x1.isLt x2.isLt (by have := x1.isLt; have := x2.isLt; have := x3.isLt; have := x4.isLt; omega))
theorem addi (x1 : BitVec 3) (x2 : BitVec 20) : Statement (.addi x1 x2) :=
  of_some rfl (lt_of_fields _ _ _ _ (by decide) x1.isLt (by decide) (by have := x1.isLt; have := x2.isLt; omega))
theorem bz (x1 : BitVec 3) (x2 : BitVec 8) : Statement (.bz x1 x2) :=
  of_some rfl (lt_of_fields _ _ _ _ (by decide) x1.isLt (by decide) (by have := x1.isLt; have := x2.isLt; omega))
theorem bnz (x1 : BitVec 3) (x2 : BitVec 8) : Statement (.bnz x1 x2) :=
  of_some rfl (lt_of_fields _ _ _ _ (by decide) x1.isLt (by decide) (by have := x1.isLt; have := x2.isLt; omega))
theorem beq (x1 x2 : BitVec 3) (x3 : BitVec 8) : Statement (.beq x1 x2 x3) :=
  of_some rfl (lt_of_fields _ _ _ _ (by decide) x1.isLt x2.isLt (by have := x1.isLt; have := x2.isLt; have := x3.isLt; omega))
theorem bltu (x1 x2 : BitVec 3) (x3 : BitVec 8) : Statement (.bltu x1 x2 x3) :=
  of_some rfl (lt_of_fields _ _ _ _ (by decide) x1.isLt x2.isLt (by have := x1.isLt; have := x2.isLt; have := x3.isLt; omega))
theorem rep (x1 : BitVec 3) (x2 : BitVec 6) (x3 : BitVec 5) : Statement (.rep x1 x2 x3) :=
  of_some rfl (lt_of_fields _ _ _ _ (by decide) x1.isLt (by decide) (by have := x1.isLt; have := x2.isLt; have := x3.isLt; omega))
theorem ldsc (x1 : BitVec 3) (x2 : BitVec 5) : Statement (.ldsc x1 x2) :=
  of_some rfl (lt_of_fields _ _ _ _ (by decide) x1.isLt (by decide) (by have := x1.isLt; have := x2.isLt; omega))
theorem stsc (x1 : BitVec 3) (x2 : BitVec 5) : Statement (.stsc x1 x2) :=
  of_some rfl (lt_of_fields _ _ _ _ (by decide) x1.isLt (by decide) (by have := x1.isLt; have := x2.isLt; omega))
theorem ldpa (x1 : BitVec 3) (x2 : BitVec 6) : Statement (.ldpa x1 x2) :=
  of_some rfl (lt_of_fields _ _ _ _ (by decide) x1.isLt (by decide) (by have := x1.isLt; have := x2.isLt; omega))
theorem setf (x1 : BitVec 3) (x2 : BitVec 5) : Statement (.setf x1 x2) :=
  of_some rfl (lt_of_fields _ _ _ _ (by decide) x1.isLt (by decide) (by have := x1.isLt; have := x2.isLt; omega))
theorem emitLaunch : Statement .emitLaunch :=
  of_some rfl (lt_of_fields _ _ _ _ (by decide) (by decide) (by decide) (by decide))
theorem emitTransfer : Statement .emitTransfer :=
  of_some rfl (lt_of_fields _ _ _ _ (by decide) (by decide) (by decide) (by decide))
theorem emitPinControl : Statement .emitPinControl :=
  of_some rfl (lt_of_fields _ _ _ _ (by decide) (by decide) (by decide) (by decide))
theorem emitResynchronise : Statement .emitResynchronise :=
  of_some rfl (lt_of_fields _ _ _ _ (by decide) (by decide) (by decide) (by decide))
theorem emitAttest : Statement .emitAttest :=
  of_some rfl (lt_of_fields _ _ _ _ (by decide) (by decide) (by decide) (by decide))
theorem emitCommitMinVersion : Statement .emitCommitMinVersion :=
  of_some rfl (lt_of_fields _ _ _ _ (by decide) (by decide) (by decide) (by decide))
theorem lerantRej (x1 : BitVec 16) : Statement (.lerantRej x1) :=
  of_some rfl (lt_of_fields _ _ _ _ (by decide) (by decide) (by decide) (by have := x1.isLt; omega))
theorem lerantStop (x1 : BitVec 16) : Statement (.lerantStop x1) :=
  of_some rfl (lt_of_fields _ _ _ _ (by decide) (by decide) (by decide) (by have := x1.isLt; omega))
theorem lerantTime (x1 : BitVec 3) : Statement (.lerantTime x1) :=
  of_some rfl (lt_of_fields _ _ _ _ (by decide) x1.isLt (by decide) (by decide))
theorem requestEnterScoreboard (x1 : Nat) : Statement (.requestEnterScoreboard x1) := of_none rfl
theorem requestRetire (x1 : Nat) : Statement (.requestRetire x1) := of_none rfl
theorem transferRun (x1 : Nat) : Statement (.transferRun x1) := of_none rfl
theorem pinCreate (x1 : Nat) : Statement (.pinCreate x1) := of_none rfl
theorem pinRelease (x1 : Nat) : Statement (.pinRelease x1) := of_none rfl
theorem classAging (x1 x2 : Nat) : Statement (.classAging x1 x2) := of_none rfl
theorem teamPlacement (x1 : Nat) : Statement (.teamPlacement x1) := of_none rfl
theorem partitionMoveComplete (x1 : Nat) : Statement (.partitionMoveComplete x1) := of_none rfl
theorem inputStreamFill (x1 : Nat) : Statement (.inputStreamFill x1) := of_none rfl
theorem fillParkTimeout (x1 : Nat) : Statement (.fillParkTimeout x1) := of_none rfl
theorem teamFirstIssue (x1 : Nat) : Statement (.teamFirstIssue x1) := of_none rfl
theorem gangStart (x1 : Nat) : Statement (.gangStart x1) := of_none rfl
theorem segmentCopyComplete (x1 x2 : Nat) : Statement (.segmentCopyComplete x1 x2) := of_none rfl
theorem countdownExpiry (x1 : Nat) : Statement (.countdownExpiry x1) := of_none rfl
theorem parkSwitch (x1 : Nat) : Statement (.parkSwitch x1) := of_none rfl
theorem teamSave (x1 : Nat) : Statement (.teamSave x1) := of_none rfl
theorem teamReady (x1 : Nat) : Statement (.teamReady x1) := of_none rfl
theorem teamRestore (x1 : Nat) : Statement (.teamRestore x1) := of_none rfl
theorem bundleIssue (x1 : Nat) : Statement (.bundleIssue x1) := of_none rfl
theorem move (x1 x2 : Nat) (x3 : BitVec 9) (x4 : BitVec 10) : Statement (.move x1 x2 x3 x4) := of_none rfl
theorem immediateMove (x1 x2 : Nat) (x3 : Word) (x4 : BitVec 10) : Statement (.immediateMove x1 x2 x3 x4) := of_none rfl
theorem conditionTree (x1 : Nat) (x2 x3 : BitVec 24) : Statement (.conditionTree x1 x2 x3) := of_none rfl
theorem mxNop (x1 : Nat) : Statement (.mxNop x1) := of_none rfl
theorem mxPush (x1 : Beat) : Statement (.mxPush x1) := of_none rfl
theorem mxShift (x1 : Beat) : Statement (.mxShift x1) := of_none rfl
theorem mxAcc (x1 : Beat) : Statement (.mxAcc x1) := of_none rfl
theorem mxDrain (x1 : Beat) : Statement (.mxDrain x1) := of_none rfl
theorem mxDrainz (x1 : Beat) : Statement (.mxDrainz x1) := of_none rfl
theorem iaAdd (x1 : Trig) : Statement (.iaAdd x1) := of_none rfl
theorem iaSub (x1 : Trig) : Statement (.iaSub x1) := of_none rfl
theorem iaAnd (x1 : Trig) : Statement (.iaAnd x1) := of_none rfl
theorem iaOr (x1 : Trig) : Statement (.iaOr x1) := of_none rfl
theorem iaXor (x1 : Trig) : Statement (.iaXor x1) := of_none rfl
theorem iaAndn (x1 : Trig) : Statement (.iaAndn x1) := of_none rfl
theorem iaShl (x1 : Trig) : Statement (.iaShl x1) := of_none rfl
theorem iaShr (x1 : Trig) : Statement (.iaShr x1) := of_none rfl
theorem iaSar (x1 : Trig) : Statement (.iaSar x1) := of_none rfl
theorem iaRol (x1 : Trig) : Statement (.iaRol x1) := of_none rfl
theorem iaMin (x1 : Trig) : Statement (.iaMin x1) := of_none rfl
theorem iaMax (x1 : Trig) : Statement (.iaMax x1) := of_none rfl
theorem iaMinu (x1 : Trig) : Statement (.iaMinu x1) := of_none rfl
theorem iaMaxu (x1 : Trig) : Statement (.iaMaxu x1) := of_none rfl
theorem iaNeg (x1 : Trig) : Statement (.iaNeg x1) := of_none rfl
theorem iaAbs (x1 : Trig) : Statement (.iaAbs x1) := of_none rfl
theorem iaClz (x1 : Trig) : Statement (.iaClz x1) := of_none rfl
theorem iaCtz (x1 : Trig) : Statement (.iaCtz x1) := of_none rfl
theorem iaPopc (x1 : Trig) : Statement (.iaPopc x1) := of_none rfl
theorem iaSxt (x1 : Trig) : Statement (.iaSxt x1) := of_none rfl
theorem iaSel (x1 : Trig) : Statement (.iaSel x1) := of_none rfl
theorem iaCmpeq (x1 : Trig) : Statement (.iaCmpeq x1) := of_none rfl
theorem iaCmpne (x1 : Trig) : Statement (.iaCmpne x1) := of_none rfl
theorem iaCmplt (x1 : Trig) : Statement (.iaCmplt x1) := of_none rfl
theorem iaCmple (x1 : Trig) : Statement (.iaCmple x1) := of_none rfl
theorem iaCmpltu (x1 : Trig) : Statement (.iaCmpltu x1) := of_none rfl
theorem iaCmpleu (x1 : Trig) : Statement (.iaCmpleu x1) := of_none rfl
theorem iaTst (x1 : Trig) : Statement (.iaTst x1) := of_none rfl
theorem imMul (x1 : Trig) : Statement (.imMul x1) := of_none rfl
theorem imMulh (x1 : Trig) : Statement (.imMulh x1) := of_none rfl
theorem imMulhu (x1 : Trig) : Statement (.imMulhu x1) := of_none rfl
theorem imMulhsu (x1 : Trig) : Statement (.imMulhsu x1) := of_none rfl
theorem imDiv (x1 : Trig) : Statement (.imDiv x1) := of_none rfl
theorem imDivu (x1 : Trig) : Statement (.imDivu x1) := of_none rfl
theorem imRem (x1 : Trig) : Statement (.imRem x1) := of_none rfl
theorem imRemu (x1 : Trig) : Statement (.imRemu x1) := of_none rfl
theorem divideReply (x1 : Nat) : Statement (.divideReply x1) := of_none rfl
theorem bpPadd (x1 : Trig) : Statement (.bpPadd x1) := of_none rfl
theorem bpPsub (x1 : Trig) : Statement (.bpPsub x1) := of_none rfl
theorem bpPdiff (x1 : Trig) : Statement (.bpPdiff x1) := of_none rfl
theorem bpPwset (x1 : Trig) : Statement (.bpPwset x1) := of_none rfl
theorem bpPcset (x1 : Trig) : Statement (.bpPcset x1) := of_none rfl
theorem bpPchk (x1 : Trig) : Statement (.bpPchk x1) := of_none rfl
theorem bpPmal (x1 : Trig) : Statement (.bpPmal x1) := of_none rfl
theorem bpPbyte (x1 : Trig) : Statement (.bpPbyte x1) := of_none rfl
theorem bpPfrom (x1 : Trig) : Statement (.bpPfrom x1) := of_none rfl
theorem bpElget (x1 : Trig) : Statement (.bpElget x1) := of_none rfl
theorem bpElsgn (x1 : Trig) : Statement (.bpElsgn x1) := of_none rfl
theorem bpElins (x1 : Trig) : Statement (.bpElins x1) := of_none rfl
theorem lsLd (x1 : Trig) : Statement (.lsLd x1) := of_none rfl
theorem lsLds (x1 : Trig) : Statement (.lsLds x1) := of_none rfl
theorem lsSt (x1 : Trig) : Statement (.lsSt x1) := of_none rfl
theorem lsLdv (x1 : Trig) : Statement (.lsLdv x1) := of_none rfl
theorem lsStv (x1 : Trig) : Statement (.lsStv x1) := of_none rfl
theorem lsLdpr (x1 : Trig) : Statement (.lsLdpr x1) := of_none rfl
theorem lsLdprs (x1 : Trig) : Statement (.lsLdprs x1) := of_none rfl
theorem lsStm (x1 : Trig) : Statement (.lsStm x1) := of_none rfl
theorem lsTlook (x1 : Trig) : Statement (.lsTlook x1) := of_none rfl
theorem lsTset (x1 : Trig) : Statement (.lsTset x1) := of_none rfl
theorem lsTclr (x1 : Trig) : Statement (.lsTclr x1) := of_none rfl
theorem lsTget (x1 : Trig) : Statement (.lsTget x1) := of_none rfl
theorem lsTscout (x1 : Trig) : Statement (.lsTscout x1) := of_none rfl
theorem lsSwap (x1 : Trig) : Statement (.lsSwap x1) := of_none rfl
theorem lsBor (x1 : Trig) : Statement (.lsBor x1) := of_none rfl
theorem lsZero (x1 : Trig) : Statement (.lsZero x1) := of_none rfl
theorem peerAccessPerform (x1 x2 : Nat) : Statement (.peerAccessPerform x1 x2) := of_none rfl
theorem gmLd (x1 : Trig) : Statement (.gmLd x1) := of_none rfl
theorem gmLds (x1 : Trig) : Statement (.gmLds x1) := of_none rfl
theorem gmSt (x1 : Trig) : Statement (.gmSt x1) := of_none rfl
theorem gmCas (x1 : Trig) : Statement (.gmCas x1) := of_none rfl
theorem gmSwap (x1 : Trig) : Statement (.gmSwap x1) := of_none rfl
theorem gmAdd (x1 : Trig) : Statement (.gmAdd x1) := of_none rfl
theorem gmFadd (x1 : Trig) : Statement (.gmFadd x1) := of_none rfl
theorem gmMin (x1 : Trig) : Statement (.gmMin x1) := of_none rfl
theorem gmMax (x1 : Trig) : Statement (.gmMax x1) := of_none rfl
theorem gmMinu (x1 : Trig) : Statement (.gmMinu x1) := of_none rfl
theorem gmMaxu (x1 : Trig) : Statement (.gmMaxu x1) := of_none rfl
theorem gmAnd (x1 : Trig) : Statement (.gmAnd x1) := of_none rfl
theorem gmOr (x1 : Trig) : Statement (.gmOr x1) := of_none rfl
theorem gmXor (x1 : Trig) : Statement (.gmXor x1) := of_none rfl
theorem gmIncb (x1 : Trig) : Statement (.gmIncb x1) := of_none rfl
theorem gmPref (x1 : Trig) : Statement (.gmPref x1) := of_none rfl
theorem gmDrd (x1 : Trig) : Statement (.gmDrd x1) := of_none rfl
theorem gmDwr (x1 : Trig) : Statement (.gmDwr x1) := of_none rfl
theorem longLatencyReply (x1 x2 x3 : Nat) : Statement (.longLatencyReply x1 x2 x3) := of_none rfl
theorem withheldEntrySend (x1 x2 : Nat) : Statement (.withheldEntrySend x1 x2) := of_none rfl
theorem faultRecordWrite (x1 : Nat) : Statement (.faultRecordWrite x1) := of_none rfl
theorem rmRld (x1 : Trig) : Statement (.rmRld x1) := of_none rfl
theorem rmRst (x1 : Trig) : Statement (.rmRst x1) := of_none rfl
theorem rmRred (x1 : Trig) : Statement (.rmRred x1) := of_none rfl
theorem rmMcast (x1 : Trig) : Statement (.rmMcast x1) := of_none rfl
theorem rmXsig (x1 : Trig) : Statement (.rmXsig x1) := of_none rfl
theorem rmBar (x1 : Trig) : Statement (.rmBar x1) := of_none rfl
theorem rmGrpset (x1 : Trig) : Statement (.rmGrpset x1) := of_none rfl
theorem rmGrpclr (x1 : Trig) : Statement (.rmGrpclr x1) := of_none rfl
theorem rmGrpretire (x1 : Trig) : Statement (.rmGrpretire x1) := of_none rfl
theorem rmXperm (x1 : Trig) : Statement (.rmXperm x1) := of_none rfl
theorem rmLqbind (x1 : Trig) : Statement (.rmLqbind x1) := of_none rfl
theorem rmLqfree (x1 : Trig) : Statement (.rmLqfree x1) := of_none rfl
theorem rldDeadline (x1 : Nat) : Statement (.rldDeadline x1) := of_none rfl
theorem fabtimeout (x1 x2 : Nat) : Statement (.fabtimeout x1 x2) := of_none rfl
theorem fabricPortDown (x1 : Nat) : Statement (.fabricPortDown x1) := of_none rfl
theorem packetForward (x1 : Nat) : Statement (.packetForward x1) := of_none rfl
theorem loadRequest (x1 : Arrival) : Statement (.loadRequest x1) := of_none rfl
theorem storeRequest (x1 : Arrival) : Statement (.storeRequest x1) := of_none rfl
theorem addRequest (x1 : Arrival) : Statement (.addRequest x1) := of_none rfl
theorem barrierArrival (x1 : Arrival) : Statement (.barrierArrival x1) := of_none rfl
theorem linkRow (x1 : Arrival) : Statement (.linkRow x1) := of_none rfl
theorem connect (x1 : Arrival) : Statement (.connect x1) := of_none rfl
theorem credit (x1 : Arrival) : Statement (.credit x1) := of_none rfl
theorem linkRowSend (x1 x2 : Nat) : Statement (.linkRowSend x1 x2) := of_none rfl
theorem reply (x1 : Arrival) : Statement (.reply x1) := of_none rfl
theorem acknowledgement (x1 : Arrival) : Statement (.acknowledgement x1) := of_none rfl
theorem parkNotice (x1 : Arrival) : Statement (.parkNotice x1) := of_none rfl
theorem errorResponse (x1 : Arrival) : Statement (.errorResponse x1) := of_none rfl
theorem contribution (x1 : Arrival) : Statement (.contribution x1) := of_none rfl
theorem withdrawal (x1 : Arrival) : Statement (.withdrawal x1) := of_none rfl
theorem groupSetPacket (x1 : Arrival) : Statement (.groupSetPacket x1) := of_none rfl
theorem groupClearPacket (x1 : Arrival) : Statement (.groupClearPacket x1) := of_none rfl
theorem groupRetirePacket (x1 : Arrival) : Statement (.groupRetirePacket x1) := of_none rfl
theorem groupTimeout (x1 : Nat) : Statement (.groupTimeout x1) := of_none rfl
theorem completionNotice (x1 : Arrival) : Statement (.completionNotice x1) := of_none rfl
theorem xpermData (x1 : Arrival) : Statement (.xpermData x1) := of_none rfl
theorem xpermCopy (x1 : Nat) : Statement (.xpermCopy x1) := of_none rfl
theorem xpermTimeout (x1 : Nat) : Statement (.xpermTimeout x1) := of_none rfl
theorem seSbind (x1 : Trig) : Statement (.seSbind x1) := of_none rfl
theorem seSgrp (x1 : Trig) : Statement (.seSgrp x1) := of_none rfl
theorem seSstart (x1 : Trig) : Statement (.seSstart x1) := of_none rfl
theorem seSstop (x1 : Trig) : Statement (.seSstop x1) := of_none rfl
theorem seSseek (x1 : Trig) : Statement (.seSseek x1) := of_none rfl
theorem seSstat (x1 : Trig) : Statement (.seSstat x1) := of_none rfl
theorem seSflush (x1 : Trig) : Statement (.seSflush x1) := of_none rfl
theorem seSskip (x1 : Trig) : Statement (.seSskip x1) := of_none rfl
theorem seSfree (x1 : Trig) : Statement (.seSfree x1) := of_none rfl
theorem seSwait (x1 : Trig) : Statement (.seSwait x1) := of_none rfl
theorem streamReadIssue (x1 x2 : Nat) : Statement (.streamReadIssue x1 x2) := of_none rfl
theorem streamItemArrival (x1 x2 x3 : Nat) : Statement (.streamItemArrival x1 x2 x3) := of_none rfl
theorem streamOutputWrite (x1 x2 : Nat) : Statement (.streamOutputWrite x1 x2) := of_none rfl
theorem vxFadd (x1 : WTrig) : Statement (.vxFadd x1) := of_none rfl
theorem vxFsub (x1 : WTrig) : Statement (.vxFsub x1) := of_none rfl
theorem vxFmul (x1 : WTrig) : Statement (.vxFmul x1) := of_none rfl
theorem vxFma (x1 : WTrig) : Statement (.vxFma x1) := of_none rfl
theorem vxFmin (x1 : WTrig) : Statement (.vxFmin x1) := of_none rfl
theorem vxFmax (x1 : WTrig) : Statement (.vxFmax x1) := of_none rfl
theorem vxFabs (x1 : WTrig) : Statement (.vxFabs x1) := of_none rfl
theorem vxFneg (x1 : WTrig) : Statement (.vxFneg x1) := of_none rfl
theorem vxExp2 (x1 : WTrig) : Statement (.vxExp2 x1) := of_none rfl
theorem vxRcp (x1 : WTrig) : Statement (.vxRcp x1) := of_none rfl
theorem vxRsq (x1 : WTrig) : Statement (.vxRsq x1) := of_none rfl
theorem vxCmpeq (x1 : WTrig) : Statement (.vxCmpeq x1) := of_none rfl
theorem vxCmplt (x1 : WTrig) : Statement (.vxCmplt x1) := of_none rfl
theorem vxCmple (x1 : WTrig) : Statement (.vxCmple x1) := of_none rfl
theorem vxSel (x1 : WTrig) : Statement (.vxSel x1) := of_none rfl
theorem vxIadd (x1 : WTrig) : Statement (.vxIadd x1) := of_none rfl
theorem vxIsub (x1 : WTrig) : Statement (.vxIsub x1) := of_none rfl
theorem vxImul (x1 : WTrig) : Statement (.vxImul x1) := of_none rfl
theorem vxAnd (x1 : WTrig) : Statement (.vxAnd x1) := of_none rfl
theorem vxOr (x1 : WTrig) : Statement (.vxOr x1) := of_none rfl
theorem vcCvt (x1 : WTrig) : Statement (.vcCvt x1) := of_none rfl
theorem vcPack (x1 : WTrig) : Statement (.vcPack x1) := of_none rfl
theorem vcPacks (x1 : WTrig) : Statement (.vcPacks x1) := of_none rfl
theorem vcUnpk (x1 : WTrig) : Statement (.vcUnpk x1) := of_none rfl
theorem vcRsum (x1 : WTrig) : Statement (.vcRsum x1) := of_none rfl
theorem vcRmax (x1 : WTrig) : Statement (.vcRmax x1) := of_none rfl
theorem vcRmin (x1 : WTrig) : Statement (.vcRmin x1) := of_none rfl
theorem vcShuf (x1 : WTrig) : Statement (.vcShuf x1) := of_none rfl
theorem vcBcast (x1 : WTrig) : Statement (.vcBcast x1) := of_none rfl
theorem vcRot (x1 : WTrig) : Statement (.vcRot x1) := of_none rfl
theorem vcZip (x1 : WTrig) : Statement (.vcZip x1) := of_none rfl
theorem vcUnzip (x1 : WTrig) : Statement (.vcUnzip x1) := of_none rfl
theorem vcLane (x1 : WTrig) : Statement (.vcLane x1) := of_none rfl
theorem vcMerge (x1 : WTrig) : Statement (.vcMerge x1) := of_none rfl
theorem mxMdset (x1 : Trig) : Statement (.mxMdset x1) := of_none rfl
theorem mxFmtset (x1 : Trig) : Statement (.mxFmtset x1) := of_none rfl
theorem mxFmtget (x1 : Trig) : Statement (.mxFmtget x1) := of_none rfl
theorem mxFmtlvl (x1 : Trig) : Statement (.mxFmtlvl x1) := of_none rfl
theorem mxOvpop (x1 : Trig) : Statement (.mxOvpop x1) := of_none rfl
theorem mxOvstat (x1 : Trig) : Statement (.mxOvstat x1) := of_none rfl
theorem mxMxsave (x1 : Trig) : Statement (.mxMxsave x1) := of_none rfl
theorem mxMxload (x1 : Trig) : Statement (.mxMxload x1) := of_none rfl
theorem mxAcczero (x1 : Trig) : Statement (.mxAcczero x1) := of_none rfl
theorem mxWzero (x1 : Trig) : Statement (.mxWzero x1) := of_none rfl
theorem cuLoop (x1 : Trig) : Statement (.cuLoop x1) := of_none rfl
theorem cuJump (x1 : Trig) : Statement (.cuJump x1) := of_none rfl
theorem cuCall (x1 : Trig) : Statement (.cuCall x1) := of_none rfl
theorem cuRet (x1 : Trig) : Statement (.cuRet x1) := of_none rfl
theorem cuCkpt (x1 : Trig) : Statement (.cuCkpt x1) := of_none rfl
theorem cuYield (x1 : Trig) : Statement (.cuYield x1) := of_none rfl
theorem cuSpawn (x1 : Trig) : Statement (.cuSpawn x1) := of_none rfl
theorem cuExit (x1 : Trig) : Statement (.cuExit x1) := of_none rfl
theorem cuSegnext (x1 : Trig) : Statement (.cuSegnext x1) := of_none rfl
theorem cuHalt (x1 : Trig) : Statement (.cuHalt x1) := of_none rfl
theorem cuFence (x1 : Trig) : Statement (.cuFence x1) := of_none rfl
theorem cuLpop (x1 : Trig) : Statement (.cuLpop x1) := of_none rfl
theorem syNwait (x1 : Trig) : Statement (.syNwait x1) := of_none rfl
theorem syNread (x1 : Trig) : Statement (.syNread x1) := of_none rfl
theorem syNclr (x1 : Trig) : Statement (.syNclr x1) := of_none rfl
theorem syNsig (x1 : Trig) : Statement (.syNsig x1) := of_none rfl
theorem syHbar (x1 : Trig) : Statement (.syHbar x1) := of_none rfl
theorem syHbwait (x1 : Trig) : Statement (.syHbwait x1) := of_none rfl
theorem syRte (x1 : Trig) : Statement (.syRte x1) := of_none rfl
theorem syTinfo (x1 : Trig) : Statement (.syTinfo x1) := of_none rfl
theorem sySrd (x1 : Trig) : Statement (.sySrd x1) := of_none rfl
theorem sySwr (x1 : Trig) : Statement (.sySwr x1) := of_none rfl
theorem xpTopk (x1 : Trig) : Statement (.xpTopk x1) := of_none rfl
theorem xpWalk (x1 : Trig) : Statement (.xpWalk x1) := of_none rfl
theorem xpPageFetch (x1 : Trig) : Statement (.xpPageFetch x1) := of_none rfl
theorem xpPageLock (x1 : Trig) : Statement (.xpPageLock x1) := of_none rfl
theorem xpPageUnlock (x1 : Trig) : Statement (.xpPageUnlock x1) := of_none rfl
theorem xpPageEvict (x1 : Trig) : Statement (.xpPageEvict x1) := of_none rfl
theorem xpResq (x1 : Trig) : Statement (.xpResq x1) := of_none rfl
theorem xpResarmRetry (x1 : Trig) : Statement (.xpResarmRetry x1) := of_none rfl
theorem xpResarmDrop (x1 : Trig) : Statement (.xpResarmDrop x1) := of_none rfl
theorem xpBias (x1 : Trig) : Statement (.xpBias x1) := of_none rfl
theorem xpCommandAccept (x1 x2 : Nat) : Statement (.xpCommandAccept x1 x2) := of_none rfl
theorem walkResume (x1 : Nat) : Statement (.walkResume x1) := of_none rfl
theorem expertFetchComplete (x1 : Nat) : Statement (.expertFetchComplete x1) := of_none rfl
theorem expertFetchFail (x1 : Nat) : Statement (.expertFetchFail x1) := of_none rfl
theorem expertFetchTimeout (x1 : Nat) : Statement (.expertFetchTimeout x1) := of_none rfl
theorem fabricPortTrained (x1 : Nat) : Statement (.fabricPortTrained x1) := of_none rfl
theorem hostPortTrained (x1 x2 x3 : Nat) (x4 : Bool) : Statement (.hostPortTrained x1 x2 x3 x4) := of_none rfl
theorem programCheckComplete : Statement .programCheckComplete := of_none rfl

end Sys2Proof.Laws.WordFits
end

