-- ==== Sys2Proof/Tests/Slice0.lean ====
section
/-!
SUPPORT. The model's own tests: operands out of range are refused, words of the spec's encodings decode to the steps they
stand for, one step of each family gives the values that the rules give, and for every statement with hypotheses a state that
meets them.
-/
open Sys2Proof Sys2Proof.Machine Sys2Proof.Stmt

namespace Sys2Proof.Tests

set_option Elab.async false

/-! ### Ill-formed operands, one for each check -/

def beat0 : Beat := ⟨0, 0, 0, 0, 0, 0⟩
def pkt0 : Packet := RemoteReq.init.pkt

theorem test_wf_cores : (Instr.divideReply 256).wf = false ∧ (Instr.divideReply 255).wf = true
    ∧ (Instr.bundleIssue 256).wf = false ∧ (Instr.countdownExpiry 256).wf = false ∧ (Instr.mxNop 256).wf = false
    ∧ (Instr.rldDeadline 256).wf = false ∧ (Instr.fabtimeout 256 0).wf = false ∧ (Instr.peerAccessPerform 256 0).wf = false
    ∧ (Instr.longLatencyReply 256 0 0).wf = false ∧ (Instr.withheldEntrySend 256 0).wf = false
    ∧ (Instr.conditionTree 256 0 0).wf = false := by decide

theorem test_wf_triggers : (Instr.iaAdd ⟨0, 0, false, false, 0⟩).wf = false ∧ (Instr.iaAdd ⟨0, 8, false, false, 0⟩).wf = false
    ∧ (Instr.iaAdd ⟨256, 1, false, false, 0⟩).wf = false ∧ (Instr.iaAdd ⟨255, 7, true, false, 0⟩).wf = true
    ∧ (Instr.imMul ⟨0, 1, true, false, 0⟩).wf = false ∧ (Instr.imMul ⟨0, 1, false, false, 0⟩).wf = true
    ∧ (Instr.vxFadd ⟨0, 3, 0⟩).wf = false ∧ (Instr.vxFadd ⟨0, 0, 0⟩).wf = false ∧ (Instr.vxFadd ⟨0, 2, 0⟩).wf = true
    ∧ (Instr.vxFadd ⟨256, 1, 0⟩).wf = false := by decide

theorem test_wf_agents : (Instr.clrlost (.mgmt 3)).wf = false ∧ (Instr.clrlost (.mgmt 2)).wf = true
    ∧ (Instr.clrlost (.host 2)).wf = false ∧ (Instr.clrlost (.strand 65536 0)).wf = false
    ∧ (Instr.clrlost (.strand 65535 256)).wf = false ∧ (Instr.clrlost (.strand 65535 255)).wf = true := by decide

theorem test_wf_queues : (Instr.queuePoll 16384).wf = false ∧ (Instr.queuePoll 16383).wf = true
    ∧ (Instr.qdStateRunning .root 16384 0).wf = false ∧ (Instr.qdStateHalted .root 16384 0).wf = false
    ∧ (Instr.qdStateUnmapped .root 16384 0).wf = false ∧ (Instr.qd1Write .root 16384 0).wf = false
    ∧ (Instr.qd3Write .root 16384 0).wf = false := by decide

theorem test_wf_registers : (Instr.registerWrite .root (2 ^ 56) 0).wf = false
    ∧ (Instr.programStoreWrite .root 256 0 0).wf = false ∧ (Instr.programStoreWrite .root 1 128 0).wf = false
    ∧ (Instr.fePctlCheck .root 0 1).wf = false ∧ (Instr.fePctlCheck .root 256 1).wf = false
    ∧ (Instr.fePctlCheck .root 255 256).wf = false ∧ (Instr.fePctlCheck .root 255 255).wf = true
    ∧ (Instr.fePctlRelease .root 0).wf = false ∧ (Instr.xlInvEntry .root false 4).wf = false
    ∧ (Instr.mtuResolveRetry .root 8 0).wf = false ∧ (Instr.mtuResolveRefuse .root 7 16384).wf = false
    ∧ (Instr.notifyWake .root 256 0 0).wf = false ∧ (Instr.notifyWake .root 255 256 0).wf = false
    ∧ (Instr.barrierNeedWrite .root 4096 1).wf = false ∧ (Instr.barrierArrive .root 4096 1).wf = false
    ∧ (Instr.faultRecordWrite 8).wf = false := by decide

theorem test_wf_package : (Instr.linkReset 2).wf = false ∧ (Instr.thermalFloorTick 4).wf = false
    ∧ (Instr.bar0Access ⟨0, true, 0, 0, 0⟩).wf = false ∧ (Instr.bar0Access ⟨0, true, 0, 65, 0⟩).wf = false
    ∧ (Instr.bar0Access ⟨2, true, 0, 8, 0⟩).wf = false ∧ (Instr.bar0Access ⟨1, true, 0, 64, 0⟩).wf = true
    ∧ (Instr.fabricPortTrained 48).wf = false ∧ (Instr.fabricPortDown 48).wf = false
    ∧ (Instr.hostPortTrained 2 16 6 true).wf = false := by decide

theorem test_wf_frontEnd : (Instr.packetRun 16).wf = false ∧ (Instr.rootCounterWaitEnd 16).wf = false
    ∧ (Instr.ext 0 0 3 4).wf = false ∧ (Instr.ext 0 0 4 4).wf = true ∧ (Instr.requestRetire (2 ^ 64)).wf = false
    ∧ (Instr.requestEnterScoreboard (2 ^ 64)).wf = false ∧ (Instr.transferRun (2 ^ 64)).wf = false
    ∧ (Instr.pinCreate (2 ^ 64)).wf = false ∧ (Instr.pinRelease (2 ^ 64)).wf = false ∧ (Instr.gangStart (2 ^ 64)).wf = false
    ∧ (Instr.classAging 4 0).wf = false ∧ (Instr.classAging 3 (2 ^ 64)).wf = false ∧ (Instr.teamPlacement 4).wf = false
    ∧ (Instr.segmentCopyComplete 0 2).wf = false ∧ (Instr.segmentCopyComplete 256 0).wf = false := by decide

theorem test_wf_bundles : (Instr.move 0 8 0 0).wf = false ∧ (Instr.move 0 0 0 0).wf = false ∧ (Instr.move 256 1 0 0).wf = false
    ∧ (Instr.immediateMove 0 8 0 0).wf = false ∧ (Instr.immediateMove 0 7 0 0).wf = true := by decide

theorem test_wf_beats : (Instr.mxPush { beat0 with opnd := 32 }).wf = false ∧ (Instr.mxPush { beat0 with latch := 4 }).wf = false
    ∧ (Instr.mxPush { beat0 with bank := 2 }).wf = false ∧ (Instr.mxPush { beat0 with row := 256 }).wf = false
    ∧ (Instr.mxPush { beat0 with rmode := 2 }).wf = false ∧ (Instr.mxPush { beat0 with core := 256 }).wf = false
    ∧ (Instr.mxShift { beat0 with row := 1 }).wf = false ∧ (Instr.mxAcc { beat0 with latch := 1 }).wf = false
    ∧ (Instr.mxDrain { beat0 with latch := 1 }).wf = false ∧ (Instr.mxDrainz { beat0 with latch := 1 }).wf = false
    ∧ (Instr.mxPush ⟨255, 31, 3, 1, 255, 1⟩).wf = true := by decide

theorem test_wf_channels : (Instr.streamReadIssue 0 8).wf = false ∧ (Instr.streamOutputWrite 0 8).wf = false
    ∧ (Instr.streamItemArrival 0 8 0).wf = false ∧ (Instr.linkRowSend 256 0).wf = false ∧ (Instr.linkRowSend 255 7).wf = true
    ∧ (Instr.groupTimeout 4096).wf = false ∧ (Instr.walkResume 4).wf = false ∧ (Instr.xpCommandAccept 4 0).wf = false := by
  decide

theorem test_wf_packets : (Instr.reply (.ext { pkt0 with tier := 4 })).wf = false
    ∧ (Instr.reply (.ext { pkt0 with hop := 8 })).wf = false ∧ (Instr.reply (.ext { pkt0 with tdom := 1024 })).wf = false
    ∧ (Instr.reply (.ext { pkt0 with tmem := 2048 })).wf = false ∧ (Instr.reply (.ext { pkt0 with sdom := 1024 })).wf = false
    ∧ (Instr.reply (.ext { pkt0 with smem := 2048 })).wf = false ∧ (Instr.reply (.ext { pkt0 with op := 32 })).wf = false
    ∧ (Instr.reply (.ext { pkt0 with cls := 16 })).wf = false ∧ (Instr.reply (.ext { pkt0 with tctx := 65536 })).wf = false
    ∧ (Instr.reply (.ext { pkt0 with score := 256 })).wf = false ∧ (Instr.reply (.ext { pkt0 with addr := 2 ^ 57 })).wf = false
    ∧ (Instr.reply (.ext pkt0)).wf = true ∧ (Instr.reply (.loop 9)).wf = true := by decide

/-- A step whose operands are out of range is refused by name. -/
theorem test_step_refuses : step { State.reset with turns := [.instr (.divideReply 256)] } = .refused .illFormed :=
  rfl

/-! ### Words written out from the spec's encodings -/

/-- R67: op [31:26], a [25:23], b [22:20], v [19:0]. -/
theorem test_lerant_words :
    decodeLerant 0b000001_010_000_00000000000000000111 = some (.ldpk 2 7)
    ∧ decodeLerant 0b000010_001_000_11111111111111111111 = some (.ldi 1 0xFFFFF)
    ∧ decodeLerant 0b000011_001_000_00000000000000000001 = some (.shin 1 1)
    ∧ decodeLerant 0b000100_111_110_00000000000000000000 = some (.lerantMov 7 6)
    ∧ decodeLerant 0b000101_000_001_00000000000000000000 = some (.lerantAdd 0 1)
    ∧ decodeLerant 0b000110_000_001_00000000000000000000 = some (.lerantSub 0 1)
    ∧ decodeLerant 0b000111_000_001_00000000000000000000 = some (.lerantAnd 0 1)
    ∧ decodeLerant 0b001000_000_001_00000000000000000000 = some (.lerantOr 0 1)
    ∧ decodeLerant 0b001001_001_000_00000000_001111_000000 = some (.ext 1 0 15 0)
    ∧ decodeLerant 0b001010_011_000_00000000000000000101 = some (.addi 3 5)
    ∧ decodeLerant 0b001011_001_000_00000000000000010010 = some (.bz 1 18)
    ∧ decodeLerant 0b001100_001_000_00000000000011111111 = some (.bnz 1 255) := by decide

theorem test_lerant_words_more :
    decodeLerant 0b001101_001_010_00000000000000000011 = some (.beq 1 2 3)
    ∧ decodeLerant 0b001110_001_010_00000000000000000011 = some (.bltu 1 2 3)
    ∧ decodeLerant 0b001111_100_000_000000_111111_000_00010 = some (.rep 4 63 2)
    ∧ decodeLerant 0b010000_001_000_00000000000000011111 = some (.ldsc 1 31)
    ∧ decodeLerant 0b010001_001_000_00000000000000011111 = some (.stsc 1 31)
    ∧ decodeLerant 0b010010_001_000_00000000000000111111 = some (.ldpa 1 63)
    ∧ decodeLerant 0b010011_101_000_00000000000000010101 = some (.setf 5 21)
    ∧ decodeLerant 0b010100_000_000_00000000000000000000 = some .emitLaunch
    ∧ decodeLerant 0b010100_000_000_00000000000000000101 = some .emitCommitMinVersion
    ∧ decodeLerant 0b010101_000_000_00001000000000000001 = some (.lerantRej 0x8001)
    ∧ decodeLerant 0b010110_000_000_00001000000000000001 = some (.lerantStop 0x8001)
    ∧ decodeLerant 0b010111_110_000_00000000000000000000 = some (.lerantTime 6) := by decide

/-- Reserved op codes, a nonzero unused field, `hi < lo` and a reserved kind of emit decode to nothing. -/
theorem test_lerant_reserved :
    decodeLerant 0b011000_000_000_00000000000000000000 = none ∧ decodeLerant 0b000000_001_000_00000000000000000000 = none
    ∧ decodeLerant 0b001001_001_000_00000000_000011_000100 = none ∧ decodeLerant 0b010100_000_000_00000000000000000110 = none
    ∧ decodeLerant 0b001111_100_000_000000_111111_001_00010 = none ∧ decodeLerant 0b000001_000_000_00000000000000010000 = none := by
  decide

/-- The table's word is the bytecode, its low byte first. -/
theorem test_table_word : decodeTableWord 32 0x248003C0 = some (.ext 1 0 15 0) := by decide

/-- The host's question: the word placed at the fetch runs as the first instruction after reset (LDI a1 := 5). -/
theorem test_fetch_word :
    (match step (State.reset.withFetchWord 32 0b000010_001_000_00000000000000000101) with
      | .next s => (s.interp 0).a.get 0 1 | _ => 0) = 5 := by decide +kernel

/-- The matrix slot of R150: tag [23:21], beat [20:18], operand [17:13], latch [12:11], bank [10], row [9:2], mode [1:0]. -/
theorem test_beat_words :
    decodeBeat 3 0b000_001_00101_10_1_00000111_01 = some (0, .mxPush ⟨3, 5, 2, 1, 7, 1⟩)
    ∧ decodeBeat 3 0b001_010_00101_10_0_00000000_00 = some (1, .mxShift ⟨3, 5, 2, 0, 0, 0⟩)
    ∧ decodeBeat 3 0b000_011_00101_00_1_00000111_00 = some (0, .mxAcc ⟨3, 5, 0, 1, 7, 0⟩)
    ∧ decodeBeat 3 0b000_100_00101_00_1_00000111_00 = some (0, .mxDrain ⟨3, 5, 0, 1, 7, 0⟩)
    ∧ decodeBeat 3 0b000_101_00101_00_1_00000111_00 = some (0, .mxDrainz ⟨3, 5, 0, 1, 7, 0⟩)
    ∧ decodeBeat 3 0 = some (0, .mxNop 3) ∧ decodeBeat 3 0b000_110_00000_00_0_00000000_00 = none
    ∧ decodeBeat 3 0b000_001_00000_00_0_00000000_10 = none := by decide

/-- Trigger codes of R156: unit block times 32 after 0x080, one for each family. -/
theorem test_trigger_codes :
    trigNumber (.iaAdd ⟨0, 1, true, false, 0⟩) = some 0x0A0 ∧ trigNumber (.imDiv ⟨0, 1, false, false, 0⟩) = some 0x0C4
    ∧ trigNumber (.bpPchk ⟨0, 1, false, false, 0⟩) = some 0x0E5 ∧ trigNumber (.lsSt ⟨0, 1, true, false, 0⟩) = some 0x122
    ∧ trigNumber (.gmCas ⟨0, 1, false, false, 0⟩) = some 0x143 ∧ trigNumber (.rmXperm ⟨0, 1, false, false, 0⟩) = some 0x169
    ∧ trigNumber (.seSwait ⟨0, 1, false, false, 0⟩) = some 0x189 ∧ trigNumber (.vxFma ⟨0, 1, 0⟩) = some 0x1A3
    ∧ trigNumber (.vcRsum ⟨0, 1, 0⟩) = some 0x1C4 ∧ trigNumber (.mxOvpop ⟨0, 1, false, false, 0⟩) = some 0x1E4
    ∧ trigNumber (.cuCkpt ⟨0, 1, false, false, 0⟩) = some 0x204 ∧ trigNumber (.syRte ⟨0, 1, false, false, 0⟩) = some 0x226
    ∧ trigNumber (.xpBias ⟨0, 1, false, false, 0⟩) = some 0x245 := by decide

/-! ### Small states -/

/-- A trigger of core 0 in slot 1. -/
def trg (y : Word) : Trig := ⟨0, 1, false, false, y⟩
/-- The same beside an effective CU.ckpt. -/
def ctrg (y : Word) : Trig := ⟨0, 1, false, true, y⟩
/-- Reset with core 0 changed. -/
def core0 (f : Core → Core) : State := State.reset.setCore 0 (f Core.init)
/-- Core 0 with one operand port set. -/
def ported (p : Nat) (v : Word) : State := core0 (fun x => { x with dup := x.dup.setPort p v })
/-- Core 0 with two operand ports set. -/
def ported2 (p : Nat) (v : Word) (q : Nat) (w : Word) : State :=
  core0 (fun x => { x with dup := (x.dup.setPort p v).setPort q w })
/-- A team of two strands on cores 0 and 1; `f` changes core 0. -/
def duo (f : Core → Core) : State :=
  let s := State.reset.setTeam 0 { Team.init with st := .running, n := 2, cores := [0, 1] }
  (s.setCore 0 (f { Core.init with team := some 0, run := .running })).setCore 1
    { Core.init with team := some 0, tcore := 1, run := .running }
/-- Interpreter 0 in a packet, with `w` as its next bytecode. -/
def fetching (w : Nat) : State := State.reset.withFetchWord 32 w
/-- A pointer of class `cls`, width code `wc` and address `a`. -/
def ptr (cls wc a : Nat) : Word := mkPtr cls wc a

/-! ### Premises of the statements that can be met: turns, decoding, scalar units -/

theorem witness_StepRunsInstr :
    { State.reset with turns := [.instr .coldReset] }.turns = .instr .coldReset :: [] ∧ Instr.coldReset.wf = true ∧
    { State.reset with turns := [.instr (.linkReset 2), .pulse] }.turns = .instr (.linkReset 2) :: [.pulse] ∧
    (Instr.linkReset 2).wf = false := by decide

theorem witness_StepRunsBytecode :
    (fetching 0).turns = .bytecode 0 :: [] ∧ canStep { fetching 0 with turns := [], cur := 0 } 0 = true ∧
    (State.interp { fetching 0 with turns := [], cur := 0 } 0).prog ≠ 0 ∧
    decodeLerant (fetchBytecode { fetching 0 with turns := [], cur := 0 } 0) = some .lerantHalt ∧
    canStep { fetching 1 with turns := [], cur := 0 } 0 = true ∧
    decodeLerant (fetchBytecode { fetching 1 with turns := [], cur := 0 } 0) = none ∧
    canStep { State.reset with turns := [], cur := 15 } 15 = false := by decide +kernel

theorem witness_StepRunsClocks : { State.reset with turns := [.pulse] }.turns = .pulse :: [] ∧
    { State.reset with turns := [.nano] }.turns = .nano :: [] := by decide

theorem witness_LerantRoundTrip : (Instr.ext 7 7 63 63).wf = true ∧ encodeLerant (.ext 7 7 63 63) = some 0x27F00FFF ∧
    decodeLerant 0x27F00FFF = some (.ext 7 7 63 63) := by decide

theorem witness_BeatRoundTrip : (⟨255, 31, 3, 1, 255, 1⟩ : Beat).fits = true ∧
    encodeBeat 7 (.mxPush ⟨255, 31, 3, 1, 255, 1⟩) = some 0xE7FFFD ∧
    Beat.noRow ⟨0, 31, 3, 0, 0, 0⟩ = true ∧ encodeBeat 0 (.mxShift ⟨0, 31, 3, 0, 0, 0⟩) = some 0x0BF800 ∧
    Beat.noLatch ⟨0, 1, 0, 1, 2, 1⟩ = true ∧ encodeBeat 0 (.mxAcc ⟨0, 1, 0, 1, 2, 1⟩) = some 0x0C2409 ∧
    encodeBeat 0 (.mxDrain ⟨0, 1, 0, 1, 2, 1⟩) = some 0x102409 ∧
    encodeBeat 0 (.mxDrainz ⟨0, 1, 0, 1, 2, 1⟩) = some 0x142409 := by decide

theorem witness_ImmediateRoundTrip : dstWide 0x3FF = some false ∧ dstWide 0 = some false := by decide

theorem witness_MoveRoundTrip : srcWide 0x1FF = some false ∧ dstWide 0x3FF = some false ∧ srcWide 0x0E0 = some true
    ∧ dstWide 0x280 = some true ∧ srcWide 0 = some false ∧ dstWide 0x040 = some false := by decide

theorem witness_IaCompares : (portOf (trg 0) (ported (pIAk false) 6) (pIAk false)).toNat % 8 ≠ 7 ∧
    (portOf (trg 0) (ported (pIAk false) 15) (pIAk false)).toNat % 8 = 7 := by decide +kernel

theorem witness_ImDivides :
    (State.reset.core 0).divide = none ∧ ((State.reset.core 0).dup.greg 63).st ≠ .empty ∧ (trg 0).y = 0 ∧ (trg 3).y ≠ 0 ∧
    ((core0 (fun x => { x with divide := some ⟨1, 5, 3, 0, false⟩ })).core 0).divide ≠ none := by decide +kernel

theorem witness_DivideReply :
    ((core0 (fun x => { x with divide := some ⟨1, 5, 3, 0, false⟩ })).core 0).divide = some ⟨1, 5, 3, 0, false⟩ ∧
    ((core0 (fun x => { x with divide := some ⟨63, 5, 0, 0, false⟩ })).core 0).divide = some ⟨63, 5, 0, 0, false⟩ := by
  decide +kernel

theorem witness_BpChecksAndElements :
    bits (portOf (trg 0) (ported pBPk 0x670) pBPk).toNat 10 8 = 6 ∧ bits (portOf (trg 0) (ported pBPk 0x770) pBPk).toNat 10 8 = 7 ∧
    widthOf (bits (portOf (trg 15) (ported pBPk 0x670) pBPk).toNat 6 4) = 64 ∧ (trg 15).y.toNat < 1024 / 64 ∧
    1024 / 64 ≤ (trg 16).y.toNat ∧ (portOf (trg 0) (ported2 pBPk 0x70 pBPa 15) pBPa).toNat < 1024 / 64 ∧
    1024 / 64 ≤ (portOf (trg 0) (ported2 pBPk 0x70 pBPa 16) pBPa).toNat := by decide +kernel

/-! ### Scratchpads and tag tables -/

theorem witness_OwnSpad : OwnSpad (trg (ptr 0 7 0)) State.reset 64 64 ∧ OwnSpad (trg (ptr 0 7 (spadBits - 64))) State.reset 64 64 ∧
    OwnSpad (trg (ptr 0 1 1)) State.reset 3 3 ∧ OwnSpad (trg (ptr 0 7 (spadBits - 1024))) State.reset 1024 64 ∧
    OwnSpad (trg (ptr 0 0 (spadBits - 1))) State.reset 1 1 ∧ NoSpill (trg (ptr 0 7 0)) State.reset := by
  unfold OwnSpad NoSpill; decide +kernel

theorem witness_PeerSpad : PeerSpad (trg (ptr 0 7 (2 * 2 ^ 22))) (duo id) 1 0 64 64 ∧
    PeerSpad (trg (ptr 0 7 (2 * 2 ^ 22 + spadBits - 1024))) (duo id) 1 (spadBits - 1024) 1024 64 ∧
    NoSpill (trg (ptr 0 7 (2 * 2 ^ 22))) (duo id) ∧ (((duo id).core 0).dup.greg 0).st ≠ .empty := by
  unfold PeerSpad NoSpill; decide +kernel

theorem witness_LsOwnLoadsAndStores :
    OwnSpad (trg (ptr 0 7 0)) (ported (pLSa false) 1024) (portOf (trg (ptr 0 7 0)) (ported (pLSa false) 1024) (pLSa false)).toNat 1 ∧
    NotHeld (trg (ptr 0 7 0)) State.reset ∧ (portOf (trg 0) State.reset (pLSa false)).toNat = 0 ∧ 1024 < (portOf (trg 0) (ported (pLSa false) 1025) (pLSa false)).toNat := by
  unfold OwnSpad NotHeld; decide +kernel

theorem witness_LsReadModifyWrite : (ctrg (ptr 0 7 64)).ckpt = true ∧ OwnSpad (ctrg (ptr 0 7 64)) State.reset 64 64 ∧
    NotHeld (ctrg (ptr 0 7 64)) (shielded State.reset 0) ∧ (trg 0).ckpt = false := by unfold OwnSpad NotHeld; decide +kernel

/-- A core with one access in its list. -/
def holding (a : Acc) : State := core0 (fun x => { x with accs := [a], nextId := 1 })
def acc0 : Acc := accBase State.reset 0

theorem witness_LsPeerPerforms :
    findAcc ((holding { acc0 with op := .peerLd true, peer := 1 }).core 0) 0 = some { acc0 with op := .peerLd true, peer := 1 } ∧
    blocked (holding { acc0 with op := .peerLd true, peer := 1 }) 0 { acc0 with op := .peerLd true, peer := 1 } = false ∧
    spadErrs ((settle (holding { acc0 with op := .peerLd true, peer := 1 }) 0 { acc0 with op := .peerLd true, peer := 1 }).core 1).spadBad
      0 64 = [] ∧
    (wordsOf 0 1024 (2 ^ 1024 - 1) 0)[0]?.isSome = true ∧ (wordsOf 8 1024 (stmBits 5) 0)[1]?.isSome = true ∧
    findAcc ((holding { acc0 with op := .peerSt, peer := 1 }).core 0) 0 = some { acc0 with op := .peerSt, peer := 1 } ∧
    blocked (holding { acc0 with op := .peerSt, peer := 1 }) 0 { acc0 with op := .peerSt, peer := 1 } = false ∧
    findAcc ((holding { acc0 with op := .peerBor, peer := 1 }).core 0) 0 = some { acc0 with op := .peerBor, peer := 1 } ∧
    blocked (holding { acc0 with op := .peerBor, peer := 1 }) 0 { acc0 with op := .peerBor, peer := 1 } = false := by
  decide +kernel

theorem witness_LsTagTables :
    bits (portOf (trg 0) (ported (pLSa false) 0x03FF03FF) (pLSa false)).toNat 25 16
      ≤ bits (portOf (trg 0) (ported (pLSa false) 0x03FF03FF) (pLSa false)).toNat 9 0 ∧
    bits (portOf (trg 0) (ported (pLSa false) 0x00010000) (pLSa false)).toNat 9 0
      < bits (portOf (trg 0) (ported (pLSa false) 0x00010000) (pLSa false)).toNat 25 16 ∧
    0 < (portOf (trg 0) (ported (pLSa false) 0x00100000) (pLSa false)).toNat ∧
    (portOf (trg 0) (ported (pLSa false) 0x00100000) (pLSa false)).toNat ≤ 2 ^ 20 ∧
    0 < region (ptrAddr (ptr 0 7 (13 * 2 ^ 52))) ∧ region (ptrAddr (ptr 0 7 (13 * 2 ^ 52))) < 14 ∧
    ptrMal (ptr 0 7 (13 * 2 ^ 52)) = false := by decide +kernel

/-- A tag table whose entries 0 and 2 hold keys. -/
def tagged : State := core0 (fun x => { x with tags := [(0, 0x8000000000000005#64), (2, 0x8000000000000007#64)] })

theorem witness_TagLookup : (∀ i, i < 3 → (tagged.core 0).tagsBad.contains (1024 * 0 + (0 + i)) = false) ∧
    (Tab.get 0 (tagged.core 0).tags 2).getLsbD 63 = true ∧ bits (Tab.get 0 (tagged.core 0).tags 2).toNat 47 0 = 7 ∧
    (Tab.get 0 (tagged.core 0).tags 1).getLsbD 63 = false := by decide +kernel

/-- A pin with one bank of cluster 0. -/
def pinned : State := { State.reset with fe := { FrontEnd.init with pins := [(1, { Pin.init with home := 0, first := 0, count := 1 })] } }

theorem witness_LsTargetTraps :
    ptrMal (malform (ptr 0 7 0)) = true ∧
    ptrMal (ptr 0 7 (2 ^ 52)) = false ∧ region (ptrAddr (ptr 0 7 (2 ^ 52))) ≠ 0 ∧
    spadBits ≤ ptrAddr (ptr 0 7 spadBits) ∧ ptrAddr (ptr 0 7 spadBits) < 2 ^ 22 ∧
    ptrAddr (ptr 0 7 (spadBits - 1)) < spadBits ∧ spadBits < ptrAddr (ptr 0 7 (spadBits - 1)) + ptrWidth (ptr 0 7 (spadBits - 1)) ∧
    teamSize State.reset 0 ≤ 3 ∧ ptrAddr (ptr 0 7 (4 * 2 ^ 22)) / 2 ^ 22 = 3 + 1 ∧ ptrAddr (ptr 0 7 (4 * 2 ^ 22)) % 2 ^ 22 < spadBits ∧
    pinBlocked pinned (peerCore pinned 0 (pinned.core 0).tcore) (ptrAddr (ptr 0 7 0)) 64 = true ∧
    pinBlocked State.reset (peerCore State.reset 0 (State.reset.core 0).tcore) (ptrAddr (ptr 0 7 1)) 64 = false ∧
    alignedW (ptrAddr (ptr 0 7 1)) (ptrWidth (ptr 0 7 1)) = false := by decide +kernel

theorem witness_ScratchpadBits : (State.reset.core 0).spadBad = [] := by decide

theorem witness_RegisterEffects : (State.reset.core 0).ck.cyc ≤ 0 ∧
    0 < ((core0 (fun x => { x with ck := { Ckpt.init with cyc := 1 } })).core 0).ck.cyc ∧ (6 : Nat) < 7 := by decide +kernel

theorem witness_ScratchpadEffects :
    PlainSpad State.reset 0 ∧ PlainSpad (core0 (fun x => { x with due := [⟨1, rReg, 0, .lat 0 0⟩] })) 0 ∧ (64 : Nat) ≤ 64 ∧
    (State.reset.core 0).tagsBad = [] ∧ (1023 : Nat) < 1024 ∧ (5 : Nat) ≤ 1023 := by unfold PlainSpad; decide +kernel

theorem witness_LatchEffects : (State.reset.core 0).ck.cyc ≤ 0 ∧
    0 < ((core0 (fun x => { x with ck := { Ckpt.init with cyc := 1 } })).core 0).ck.cyc := by decide +kernel

/-! ### Global memory -/

/-- Context 0 maps the first 64 KiB page of region 1, by its heap, to physical byte 2^21. -/
def mapped (s : State) : State :=
  { s with hbm := [(7, 0x80), (14, 0x10), (18, 0x08), (22, 0x10), (27, 0x01), (30, 0xF0), (31, 0xFF), (38, 0xFF),
    (39, 0xFF), (2 ^ 21, 0x2A)] }
/-- The first address of that page, with 64-bit elements. -/
def heapPtr : Word := ptr 3 7 (2 ^ 52)
/-- A device register: the device time. -/
def devPtr : Word := ptr 0 7 (14 * 2 ^ 52)
/-- A memory access of context 0 on core 0. -/
def heapAcc (op : AOp) : Acc := { acc0 with op := op, addr := 2 ^ 52, len := 64, reg := 5 }
/-- A core that holds it. -/
def heapHolding (op : AOp) : State := mapped (holding (heapAcc op))
def heapHolds (op : AOp) (s : State) : Prop :=
  findAcc (s.core 0) 0 = some (heapAcc op) ∧ blocked s 0 (heapAcc op) = false

theorem test_translate_heap : (Machine.translate (mapped State.reset) 0 (2 ^ 52) gStrand 0 false).2 = .ok (2 ^ 24) := by
  decide +kernel

theorem witness_GmLoadsAndStores :
    GmIn (trg heapPtr) State.reset 64 ∧ alignedW (ptrAddr heapPtr) 64 = true ∧ acquire (trg heapPtr) State.reset = false ∧
    acquire (trg heapPtr) (ported pGMd 0xC0) = true ∧ release_ (trg heapPtr) (ported pGMd 0xC0) = true ∧
    ScopeOk (trg heapPtr) (ported2 pGMd 0xC0 pGMq 0x50000) ∧ ((State.reset.core 0).dup.greg 0).st ≠ .empty ∧
    (State.reset.core 0).wb.length + unsent (State.reset.core 0) + wbNeeds (State.reset.core 0).wb 3 (2 ^ 52) 64 ≤ 256 ∧
    ptrAddr heapPtr % 256 + 64 ≤ 256 ∧ ptrMal (malform heapPtr) = true ∧ region (ptrAddr devPtr) = 14 ∧
    (State.reset.core 0).privileged = false ∧ 8 ≤ region (ptrAddr (ptr 0 7 (8 * 2 ^ 52))) ∧
    alignedW (ptrAddr (ptr 0 7 (7 * 2 ^ 52 + 1))) 64 = false ∧ ptrAddr (ptr 0 7 (7 * 2 ^ 52 + 1)) + 64 ≤ 2 ^ 55 := by
  unfold GmIn ScopeOk; decide +kernel

theorem witness_GmAtomicsAndDevice :
    ((State.reset.core 0).dup.greg 0).st ≠ .empty ∧ ScopeOk (ctrg heapPtr) State.reset ∧ GmIn (ctrg heapPtr) State.reset 64 ∧
    ptrAddr heapPtr % 64 = 0 ∧ bits (portOf (ctrg heapPtr) (ported pGMd 0x200) pGMd).toNat 12 8 = 2 ∧
    GmIn (ctrg heapPtr) (ported pGMd 0x200) 16 ∧ GmIn (ctrg heapPtr) State.reset 1 ∧
    bits (portOf (ctrg heapPtr) (ported pGMd 0x3F0000) pGMd).toNat 21 16 + 1 = 64 ∧
    (portOf (trg heapPtr) (ported pGMa 0x100000) pGMa).toNat = 2 ^ 20 ∧
    ((core0 (fun x => { x with mode := .priv })).core 0).privileged = true ∧ region (ptrAddr devPtr) = 14 ∧
    outstanding ((core0 (fun x => { x with mode := .priv })).core 0) < 2048 ∧
    bits (portOf (trg heapPtr) State.reset pGMd).toNat 12 8 ≤ 2 := by
  unfold GmIn ScopeOk; decide +kernel

theorem witness_AtomicValues : (0 : Nat) < 64 ∧ 64 ≤ 64 ∧ 2 ^ 64 - 1 < 2 ^ 64 ∧ (5 : Nat) < 2 ^ 3 ∧
    Fmt.ofCode 0 = some .f32 ∧ Fmt.f32.width = 32 ∧ Fmt.ofCode 2 = some .f16 ∧ Fmt.f16.width = 16 ∧
    (floatVal .f32 0x7FC00000).isNan = true ∧ floatVal .f16 0x7C00 = .inf false ∧ floatVal .f16 0xFC00 = .inf (!false) ∧
    (floatVal .f16 0x3C00).isNan = false ∧ floatVal .f16 0x3C00 ≠ .inf true := by decide +kernel

theorem witness_AccessesPerform_loads :
    heapHolds (.ld true) (heapHolding (.ld true)) ∧ heapHolds (.atomic 5 0) (heapHolding (.atomic 5 0)) ∧
    (heapAcc (.ld true)).addr % 256 + 64 ≤ 256 ∧
    (Machine.translate (settle (heapHolding (.ld true)) 0 (heapAcc (.ld true))) 0 (2 ^ 52) gStrand 0 false).2 = .ok (2 ^ 24) ∧
    (Machine.translate (settle (heapHolding (.atomic 5 0)) 0 (heapAcc (.atomic 5 0))) 0 (2 ^ 52) gStrand 2 false).2 = .ok (2 ^ 24) ∧
    (Machine.translate (settle (heapHolding (.ld true)) 0 (heapAcc (.ld true))) 0 (2 ^ 52) gStrand 0 false).1.hbmBad.contains (2 ^ 24 / 256) = false := by
  unfold heapHolds; decide +kernel

/-- An access to the register at byte address `r`, or to the notify register or barrier `r`. -/
def regAcc (op : AOp) (r : Nat) : Acc := { acc0 with op := op, addr := r, len := 1, reg := 5 }
/-- A strand of team 0 whose core holds it; context 0 owns every barrier of the first block. -/
def regHolding (op : AOp) (r : Nat) : State :=
  core0 (fun x => { x with team := some 0, cyc := 2, accs := [regAcc op r], nextId := 1 })

theorem witness_AccessesPerform_registers :
    findAcc ((regHolding .drd (14 * 2 ^ 52)).core 0) 0 = some (regAcc .drd (14 * 2 ^ 52)) ∧
    blocked (regHolding .drd (14 * 2 ^ 52)) 0 (regAcc .drd (14 * 2 ^ 52)) = false ∧
    (devRead (regHolding .drd (14 * 2 ^ 52)) (14 * 2 ^ 52)).2 = none ∧
    blocked (regHolding .nsig 3) 0 (regAcc .nsig 3) = false ∧ (regAcc .nsig 3).iss + 2 ≤ ((regHolding .nsig 3).core 0).cyc ∧
    blocked (regHolding .consume 3) 0 (regAcc .consume 3) = false ∧
    (let s := { regHolding .hbar 3 with sync := { Sync.init with barCtx := [(3, 0x8000000000000000#64)] } }
     blocked s 0 (regAcc .hbar 3) = false ∧ (regAcc .hbar 3).iss + 2 ≤ (s.core 0).cyc ∧
     barOwned (settle s 0 (regAcc .hbar 3)) 3 0 = true ∧ ((settle s 0 (regAcc .hbar 3)).core 0).team = some 0) := by decide +kernel

/-- A released entry with one store of 16 bits. -/
def sendEnt : WEnt := ⟨2 ^ 44, 3, [⟨0, 2 ^ 52 + 16, 16, 0xABCD, 0, 0⟩], true⟩

theorem witness_ReleasedStorePerforms :
    heapHolds (.send sendEnt) (heapHolding (.send sendEnt)) ∧ 256 * sendEnt.sector ≤ 2 ^ 52 + 16 ∧
    2 ^ 52 + 16 + 16 ≤ 256 * (sendEnt.sector + 1) ∧
    (Machine.translate (settle (heapHolding (.send sendEnt)) 0 (heapAcc (.send sendEnt))) 0 (2 ^ 52 + 16) gStrand 1 false).2 = .ok (2 ^ 24 + 16) ∧
    (Machine.translate (settle (heapHolding (.send sendEnt)) 0 (heapAcc (.send sendEnt))) 0 (2 ^ 52 + 16) gStrand 1 false).1.hbmBad = [] := by
  unfold heapHolds; decide +kernel

theorem witness_TranslationLaws :
    (Machine.translate (mapped State.reset) 0 (2 ^ 52) gStrand 0 true).2 = .ok (2 ^ 24) ∧ region 0 = 0 ∧
    Memory.wf (mapped State.reset).hbm = true ∧ 8 ≤ region (8 * 2 ^ 52) := by decide +kernel

/-! ### Streams -/

/-- A descriptor of one level: memory, direction, item kind, base, count and stride. -/
def desc1 (mem out item : Nat) (base : Word) (count stride : Nat) : BitVec 512 :=
  BitVec.ofNat 512 (base.toNat + (mem * 2 ^ 62 + out * 2 ^ 61 + item * 2 ^ 56) * 2 ^ 64 + (count * 2 ^ 40 + stride) * 2 ^ 128)
/-- Three levels, for grouped walks. -/
def desc3 (base : Word) (n0 n1 n2 : Nat) : BitVec 512 :=
  BitVec.ofNat 512 (base.toNat + 2 * 2 ^ 58 * 2 ^ 64 + (n0 * 2 ^ 40 + 64) * 2 ^ 128 + (n1 * 2 ^ 40 + 64) * 2 ^ 192 + (n2 * 2 ^ 40) * 2 ^ 256)
def memDesc : BitVec 512 := desc1 0 0 0 heapPtr 3 64
def outDesc : BitVec 512 := desc1 0 1 0 heapPtr 3 64
def spadDesc : BitVec 512 := desc1 2 0 0 (ptr 0 7 0) 3 64
/-- Core 0 with channel 0 in a state. -/
def chanOn (st : ChState) (d : BitVec 512) (f : ChRun → ChRun) : State :=
  core0 (fun x => { (x.setChanRun 0 (f ChRun.init)) with dup := x.dup.setChan 0 { ChDup.init with st := st, desc := d } })
def hereItem (i a : Nat) : Item := ⟨⟨i, 0, 0, 0, 0⟩, a, .here 7⟩

theorem witness_SeSettled : SeSettled State.reset 0 := by unfold SeSettled; decide

theorem witness_SeOperations :
    (trg 3).y.toNat < 4 ∧ 4 ≤ (trg 4).y.toNat ∧ (chan State.reset 0 0).st = .unbound ∧
    (chan (chanOn .idle memDesc id) 0 (seChan (trg 0) (chanOn .idle memDesc id))).st ≠ .unbound ∧
    feedsRunning ((chanOn .idle memDesc id).core 0) 0 = false ∧ vecLegal (chan (chanOn .idle memDesc id) 0 0) (vecOf 2 0) = true ∧
    vecLegal (chan (chanOn .idle memDesc id) 0 0) (vecOf 3 0) = false ∧ dMem memDesc ≠ 3 ∧ dIx memDesc = false ∧
    (chan (chanOn .idle (desc3 heapPtr 2 2 2) id) 0 0).st = .idle ∧ 3 ≤ dLev (desc3 heapPtr 2 2 2) ∧
    dIx (desc3 heapPtr 2 2 2) = false ∧ 6 ≤ ptrWc (ptr 0 6 (2 ^ 52)) ∧ ptrMal (ptr 0 6 (2 ^ 52)) = false ∧
    dOut outDesc = true ∧ pendingOut ((chanOn .running outDesc id).core 0) 0 = 0 ∧
    (((chanOn .running outDesc id).core 0).chanRun 0).resv = 0 ∧ (((chanOn .running outDesc id).core 0).chanRun 0).flt = false ∧
    rowsWait ((chanOn .running outDesc id).core 0) (chan (chanOn .running outDesc id) 0 0) = false := by decide +kernel

/-- Channel 1 runs with channel 0 as its index channel. -/
def feeds : State :=
  let d := Dup.init.setChan 0 { ChDup.init with st := .idle, desc := memDesc }
  core0 (fun x => { x with dup := d.setChan 1 { ChDup.init with st := .running, desc := memDesc ||| BitVec.ofNat 512 (2 ^ 119) } })

theorem witness_SeOperations_feeds : feedsRunning (feeds.core 0) 0 = true := by decide +kernel

theorem witness_SeOperations_swait :
    let s := chanOn .running memDesc (fun r => { r with items := [hereItem 0 (2 ^ 52)] })
    (chan s 0 0).st ≠ .unbound ∧ dOut (chan s 0 0).desc = false ∧ dMem (chan s 0 0).desc ≠ 3 ∧
    (((s.core 0).chanRun 0).items.all isHere) = true ∧
    min (min (trg 1).y.toNat (itemsLeft (s.core 0) 0)) (holdable (chan s 0 0)) ≤ ((s.core 0).chanRun 0).items.length := by
  decide +kernel

/-- A legal descriptor in the own scratchpad at bit 0. -/
def descInSpad : State := core0 (fun x => { x with spad := [(0, heapPtr), (2, 0x0000030000000040#64)] })

theorem witness_SeBind :
    OwnSpad (trg (ptr 0 7 0)) descInSpad 512 1 ∧ spadErrs (descInSpad.core 0).spadBad 0 512 = [] ∧
    descLegal (BitVec.ofNat 512 (spadGet (descInSpad.core 0).spad 0 512)) = true ∧
    ptrMal (dWord (BitVec.ofNat 512 (spadGet (descInSpad.core 0).spad 0 512)) 0) = false ∧
    OwnSpad (trg (ptr 0 7 64)) descInSpad 512 1 ∧ ptrAddr (ptr 0 7 64) % 512 ≠ 0 ∧
    descLegal (BitVec.ofNat 512 (spadGet (State.reset.core 0).spad 0 512)) = false := by
  unfold OwnSpad; decide +kernel

theorem witness_SeEffects : dIx (chan (chanOn .idle memDesc id) 0 0).desc = false ∧ (chan (chanOn .idle memDesc id) 0 0).grp = none ∧
    (chan (chanOn .idle memDesc id) 0 0).st ≠ .unbound := by decide +kernel

/-- A running input channel of mapped memory. -/
def reading : State := mapped ((chanOn .running memDesc id).onCore 0 (fun x => { x with team := some 0 }))

theorem witness_StreamItems_read : (reading.core 0).team ≠ none ∧ ((reading.core 0).chanRun 0).items = [] ∧
    ((reading.core 0).chanRun 0).flt = false ∧ (chan reading 0 0).skip = 0 ∧ ((reading.core 0).chanRun 0).offPark = none ∧
    (chan reading 0 0).grp = none ∧ itemFault memDesc (2 ^ 52 + 64) = none ∧ itemFault memDesc (2 ^ 52 + 1) = some eAlignment ∧
    (chan reading 0 0).st = .running ∧ dMem (chan reading 0 0).desc = 0 ∧ dOut (chan reading 0 0).desc = false ∧
    vecEnd (chan reading 0 0) (posVec (reading.core 0) 0) = false ∧
    itemAt (reading.core 0) 0 0 (posVec (reading.core 0) 0) = .item (2 ^ 52) ∧
    (((chanOn .running memDesc (fun r => { r with items := [⟨Vec.zero, 2 ^ 52, .read 9 none⟩] })).core 0).chanRun 0).items[0]?
      = some ⟨Vec.zero, 2 ^ 52, .read 9 none⟩ := by decide +kernel

/-- The same with the read of its item begun, which may run ahead by this item alone. -/
def begun : State :=
  mapped ((chanOn .running (memDesc ||| BitVec.ofNat 512 (2 ^ 96)) (fun r => { r with items := [⟨Vec.zero, 2 ^ 52, .reading [] []⟩] })).onCore 0
    (fun x => { x with team := some 0 }))

theorem witness_StreamItems_part :
    let b := readAcc begun 0 0 Vec.zero (2 ^ 52) 64 0
    (begun.core 0).team ≠ none ∧ choose begun (streamActs begun 0 0) = (begun, some (.part 0 (2 ^ 44))) ∧
    dWidth memDesc = 64 ∧ sectors (2 ^ 52) 64 = [2 ^ 44] ∧ blocked begun 0 b = false ∧
    decide (0 < dueCount (begun.core 0) 0) = true ∧
    (Machine.translate (settle begun 0 b) (ctxOf begun 0) (2 ^ 52) gStream 0 false).2 = .ok (2 ^ 24) ∧
    (Machine.translate (settle begun 0 b) (ctxOf begun 0) (2 ^ 52) gStream 0 false).1.hbmBad.contains (2 ^ 24 / 256) = false := by
  decide +kernel

/-- An item pushed to channel 0 and not yet written. -/
def pushed : Acc := { acc0 with op := .sout 0xABCD 0 Vec.zero, addr := 2 ^ 52, len := 64 }

theorem witness_StreamItems_write :
    oldestOut ((mapped (holding pushed)).core 0) 0 = some pushed ∧ region pushed.addr < 8 ∧
    blocked (mapped (holding pushed)) 0 pushed = false ∧ sectors pushed.addr pushed.len = [2 ^ 44] ∧
    (Machine.translate (settle (mapped (holding pushed)) 0 pushed) 0 (2 ^ 52) gStream 1 false).2 = .ok (2 ^ 24) ∧
    (Machine.translate (settle (mapped (holding pushed)) 0 pushed) 0 (2 ^ 52) gStream 1 false).1.hbmBad = [] := by decide +kernel

/-! ### Vector units -/

def wtrg (y : Wide) : WTrig := ⟨0, 1, y⟩
/-- Core 0 with one mode port and the two wide ports of VX or VC set. -/
def vported (p : Nat) (m : Word) (pa pb : Nat) (a b : Wide) : State :=
  core0 (fun x => { x with dup := ((x.dup.setPort p m).setWport pa a).setWport pb b })

theorem witness_VxFormats :
    Fmt.ofCode (bits (portOf (trg 0) (ported pVXm 2) pVXm).toNat 4 0) = some .f16 ∧ Fmt.f16.isF = true ∧
    Fmt.ofCode (bits (portOf (trg 0) (ported pVXm 8) pVXm).toNat 4 0) = some .s8 ∧ Fmt.s8.isInt = true ∧ Fmt.s8.isF = false ∧
    Fmt.s8.width = 8 ∧ Fmt.ofCode (bits (portOf (trg 0) (ported pVXm 15) pVXm).toNat 4 0) = some .w64 ∧ Fmt.w64.width ≠ 8 ∧
    Fmt.ofCode (bits (portOf (trg 0) (ported pVXm 16) pVXm).toNat 4 0) = none := by decide +kernel

theorem witness_VcConversions :
    Fmt.f32.isN = false ∧ Fmt.w8.isN = false ∧ 3 < max Fmt.f32.width Fmt.w8.width / min Fmt.f32.width Fmt.w8.width ∧
    Fmt.w8.width ≤ Fmt.f32.width ∧ Fmt.bf16.width < Fmt.f32.width ∧ Fmt.n6.isN = true ∧
    packLegal (vcSet 0x00C0) .f32 .n6 = true ∧ packLegal (vcSet 0x5) .f32 .n6 = true ∧ Fmt.f32.isF = true ∧
    reservedType .n6 3 = true ∧ reservedType .n6 0 = false ∧ 127 + 1024 / Fmt.f32.width / 32 ≤ 128 := by decide +kernel

theorem witness_VcReduceRearrange :
    Fmt.s32.isInt = true ∧ Fmt.s32.width ≠ 64 ∧ Fmt.s32.isN = false ∧ (31 : Nat) < 1024 / Fmt.s32.width ∧
    1024 / Fmt.s32.width ≤ 32 ∧ bits 0x2000 16 13 = 1 ∧ bits 0x4000 16 13 = 2 ∧ Fmt.n3.isN = true ∧
    (floatVal .f32 0x7FC00000).isNan = true ∧ (floatVal .f32 0x3F800000).isNan = false ∧
    (0x1000 : Word).getLsbD 12 = true ∧ Fmt.w64.isInt = true ∧ Fmt.w64.isS = false ∧
    2 ^ 64 - 1 < ((span 0 16).map (fun l => laneInt .w64 (laneAt (BitVec.allOnes 1024) 64 l))).sum := by decide +kernel

/-- R278, R280: bf16 lanes, 1.0 + 2.0 = 3.0 in lane 0 of VX.r at t+4. -/
theorem test_vx_fadd :
    (match exec (.vxFadd (wtrg 0x4000)) (vported pVXm 1 pVXa pVXb 0x3F80 0) with
      | .next s => (s.core 0).due.map (fun d => (d.at_, match d.fx with | .wlat n v => (n, bits v.toNat 15 0) | _ => (0, 0)))
      | _ => []) = [(4, lVXr, 0x4040)] := by decide +kernel

/-- R284: s8 lanes, 127 + 1 wraps to −128. -/
theorem test_vx_iadd :
    (match exec (.vxIadd (wtrg 1)) (vported pVXm 8 pVXa pVXb 127 0) with
      | .next s => (s.core 0).due.map (fun d => (d.at_, match d.fx with | .wlat n v => (n, bits v.toNat 7 0) | _ => (0, 0)))
      | _ => []) = [(3, lVXr, 0x80)] := by decide +kernel

/-! ### The matrix array -/

/-- Format entry 0 holds `e`. -/
def formatted (e : BitVec 32) (f : Core → Core) : State :=
  core0 (fun x => f { x with dup := x.dup.setFmt 0 e })
/-- s8 by s8 into s32, drained as s32. -/
def entryS8 : BitVec 32 := 0x42140000#32 ||| 0xA000#32
def vbeat : Beat := ⟨0, 24, 0, 0, 255, 0⟩
def mbeat : Beat := ⟨0, 7, 3, 1, 0, 0⟩

theorem witness_MxBeats :
    BeatReady State.reset vbeat ∧ BeatReady (formatted entryS8 id) mbeat ∧
    Operand State.reset 0 24 (readLen (activeEntry State.reset 0) 1) 4096 State.reset
      (.val (BitVec.ofNat 4096 (vGroup (State.reset.core 0).dup 0 4096))) ∧
    Scale State.reset State.reset 0 24 (activeEntry State.reset 0) (scaleLen (activeEntry State.reset 0) 1) State.reset (.val 0) ∧
    Dest State.reset 0 24 1024 State.reset (.vreg 0) ∧
    scaleLen (activeEntry State.reset 0) 1 = 0 ∧ scaleLen (activeEntry State.reset 0) 2 = 0 ∧
    undoFull (State.reset.core 0) [(0, 255)] = false ∧ 24 ≤ vbeat.opnd := by
  refine ⟨⟨?_, ?_, ?_⟩, ⟨?_, ?_, ?_⟩, .inl ⟨?_, ?_, rfl, ?_⟩, .inl ⟨?_, rfl, rfl⟩, .inl ⟨?_, ?_, rfl, ?_⟩, ?_⟩ <;> decide +kernel

/-- Core 0 with link queue 0 bound, of row code `rlen`. -/
def rowQueue (out : Bool) (rlen : Nat) (rows : List LqRow) : State :=
  core0 (fun x => x.setLq 0 { LinkQ.init with bound := true, out := out, rlen := rlen, rows := rows })

theorem witness_MxBeats_queues :
    lqTrap ((rowQueue false 4 [⟨7, true, 0⟩]).core 0) 0 4096 false = none ∧
    (((rowQueue false 4 [⟨7, true, 0⟩]).core 0).lqOf 0).rows = ⟨7, true, 0⟩ :: [] ∧
    lqTrap ((rowQueue true 2 []).core 0) 0 1024 true = none ∧
    (((rowQueue true 2 []).core 0).lqOf 0).rows.length + (((rowQueue true 2 []).core 0).lqOf 0).resv < 16 := by decide +kernel

/-- Is a stream register ready? -/
def isReady : SUse → Bool | .ready => true | _ => false
def rowsOf (out item n : Nat) : State :=
  chanOn .running (desc1 0 out item heapPtr 8 4096) (fun r => { r with items := (span 0 n).map (fun i => hereItem i (2 ^ 52 + 4096 * i)) })
/-- Format entry 0 of 4-bit floats with 32 scale bytes, from source `sc`. -/
def entryN4 (sc : Nat) : BitVec 32 := BitVec.ofNat 32 (6 * 2 ^ 27 + 6 * 2 ^ 22 + sc * 2 ^ 7)
def notBad {α : Type} : Take α → Bool | .bad _ => false | _ => true

theorem witness_MxBeats_streams :
    isReady (sAvail (rowsOf 0 2 1) 0 0 0 4096 1) = true ∧ isReady (sRoom (rowsOf 1 1 0) 0 0 0 1024) = true ∧
    entryLegal (entryN4 16).toNat = true ∧ scaleLen (entryN4 16) 1 = 32 ∧ feSc (entryN4 16) < 24 ∧
    isReady (sAvail (rowsOf 0 0 4) 0 0 0 64 (32 / 8)) = true ∧ notBad (beatScale (rowsOf 0 0 4) 0 24 (entryN4 16) 32) = true ∧
    entryLegal (entryN4 31).toNat = true ∧ 24 ≤ feSc (entryN4 31) ∧
    (mdAddr State.reset 0 ((State.reset.core 0).dup.mdOf 7) (8 * 32)).toOption = some 0 ∧
    notBad (beatScale State.reset 0 24 (entryN4 31) 32) = true := by decide +kernel

theorem witness_MxBeats_spad :
    (mdAddr State.reset 0 ((State.reset.core 0).dup.mdOf 7) 1024).toOption = some 0 ∧ mbeat.opnd < 8 ∧
    ((core0 (fun x => { x with mode := .handler })).core 0).mode = .handler ∧
    entryLegal (activeEntry (formatted 0 id) 0).toNat = false ∧
    ((core0 (fun x => { x with mxBusy := 3 })).core 0).mxBusy ≠ 0 := by decide +kernel

/-- A push of bf16 rows as issue resolves it, and a beat of another kind. -/
def rec1 : BeatRec := beatRec State.reset vbeat 1
def rec3 : BeatRec := beatRec State.reset vbeat 3

theorem witness_MxArrayEffects : rec3.kind ≠ 1 ∧ rec1.kind = 1 ∧ Fmt.ofCode (feA rec1.entry) = some .bf16 ∧
    Fmt.ofCode (feB rec1.entry) = some .bf16 := by decide +kernel

theorem witness_MxOperations :
    ArrayFree State.reset 0 ∧ bits (portOf (trg 0) State.reset pMXa).toNat 63 61 ≠ 7 ∧ ptrAddr (ptr 0 7 (spadBits - 1)) < spadBits ∧
    entryLegal fmtDefault.toNat = true ∧ bits (0x60 : Word).toNat 6 4 ≠ 7 ∧
    OwnSpad (trg (ptr 0 7 (spadBits - 1024 * 256))) (ported pMXk 4) (1024 * imageLen 4) 1 ∧
    ptrAddr (ptr 0 7 (spadBits - 1024 * 256)) % 1024 = 0 ∧ (portOf (trg 0) (ported pMXk 6) pMXk).toNat % 8 ≠ 7 ∧
    undoFull (State.reset.core 0) (bankRows 1 255 255) = false ∧ (State.reset.core 0).mode ≠ .handler := by
  unfold ArrayFree OwnSpad; decide +kernel

theorem witness_MxOperations_traps :
    bits (portOf (trg 0) (ported pMXa 0xE000000000000000#64) pMXa).toNat 63 61 = 7 ∧ entryLegal (1 : Word).toNat = false ∧
    bits (0x70 : Word).toNat 6 4 = 7 ∧ (portOf (trg 0) (ported pMXk 7) pMXk).toNat % 8 = 7 ∧
    bits (0x0100 : Word).toNat 7 0 < bits (0x0100 : Word).toNat 15 8 := by decide +kernel

/-! ### Control -/

/-- Request 0 with an image of `n` segments, entry bundles 0 to 99. -/
def withImg (n : Nat) (s : State) : State :=
  let r := { Req.init with st := 2, e := 2 ^ 40, img := { Img.init with nseg := n, segs := List.replicate n (0, 99) } }
  { s with fe := { s.fe with reqs := [(1, r)], nextTeam := 1 } }
/-- Team 0 of one strand on core 0, with weight `w`; `f` changes the core. -/
def solo (w : Nat) (f : Core → Core) : State :=
  let s := State.reset.setTeam 0 { Team.init with st := .running, n := 1, cores := [0], weight := w }
  withImg 1 (s.setCore 0 (f { Core.init with team := some 0, run := .running }))
/-- The same in an image of four segments. -/
def segmented (f : Core → Core) : State := withImg 4 (solo 8 f)
def loop0 (start stop : Pc) (n i : Nat) : LoopEnt := ⟨start, stop, n, i⟩
def looping (ls : List LoopEnt) : State := core0 (fun x => { x with dup := { x.dup with loops := ls } })

theorem witness_CuJumps : OneSeg State.reset 0 ∧ multiSeg (imgOf (segmented id) 0) = true ∧
    bits (0x2000 : Word).toNat 19 12 = retSeg (segmented (fun x => { x with half0 := ⟨some 2, true, false, false⟩ })) 0 0 ∧
    bits (0 : Word).toNat 19 12 ≠ retSeg (segmented (fun x => { x with half0 := ⟨some 2, true, false, false⟩ })) 0 0 := by
  unfold OneSeg; decide +kernel

theorem witness_CuLoops :
    (2 ^ 32 - 1 : Nat) < 2 ^ 32 ∧ ((State.reset.core 0).pc + 1).toNat ≤ (1 : Pc).toNat ∧ OneSeg State.reset 0 ∧
    ((looping (List.replicate 5 (loop0 1 9 3 0))).core 0).dup.loops.length < 6 ∧
    (∀ l ∈ List.replicate 5 (loop0 1 9 3 0), (9 : Pc).toNat ≤ l.stop.toNat ∧ l.stop ≠ 0) ∧
    ((looping (List.replicate 6 (loop0 1 9 3 0))).core 0).dup.loops.length = 6 ∧ (0 : Pc).toNat < ((State.reset.core 0).pc + 1).toNat := by
  unfold OneSeg; decide +kernel

theorem witness_CuLoops_stack :
    ({ Dup.init with loops := [loop0 1 9 3 1] }).loops = [] ++ [loop0 1 9 3 1] ∧ (loop0 1 9 3 1).i + 1 < (loop0 1 9 3 1).count ∧
    (loop0 1 9 3 2).count ≤ (loop0 1 9 3 2).i + 1 := by decide

theorem witness_CuCheckpoint : WbSorted [⟨5, 3, [⟨0, 1280, 8, 1, 0, 0⟩, ⟨1, 1288, 8, 2, 0, 0⟩], true⟩] ∧ (State.reset.core 0).mode ≠ .handler ∧
    ((core0 (fun x => { x with mode := .handler })).core 0).mode = .handler := by unfold WbSorted; decide +kernel

theorem witness_CuTeamControl_last :
    popCount (((solo 8 id).team 0).exited ||| 2 ^ ((solo 8 id).core 0).tcore) 4 = ((solo 8 id).team 0).n ∧
    ((solo 8 id).core 0).due = [] ∧ ((solo (2 ^ 40) id).req ((solo (2 ^ 40) id).team 0).tag).d + ((solo (2 ^ 40) id).team 0).weight
      = ((solo (2 ^ 40) id).req ((solo (2 ^ 40) id).team 0).tag).e ∧
    ((solo 8 (fun x => { x with mode := .handler })).core 0).mode = .handler ∧ ((solo 8 (fun x => { x with mode := .handler })).core 0).team = some 0 := by
  decide +kernel

theorem witness_CuTeamControl :
    (ctrg 0).ckpt = true ∧ ((duo id).core 0).mode ≠ .handler ∧ ((duo id).core 0).team = some 0 ∧ ((duo id).core 0).due = [] ∧
    popCount (((duo id).team 0).exited ||| 2 ^ ((duo id).core 0).tcore) 4 ≠ ((duo id).team 0).n ∧
    (solo 8 id).hasReq ((solo 8 id).team 0).tag = true ∧
    (spawnArgs ((solo 8 id).core 0).dup ((portOf (ctrg 4096) (solo 8 id) pCUa).toNat % 64) 1 6).toOption = some [0, 0, 0, 0, 0, 0] ∧
    bits (portOf (ctrg 4096) (solo 8 id) pCUk).toNat 11 0 ≤ (segEntry (imgOf (solo 8 id) 0) 0).2 ∧
    (solo 8 id).fe.spawnRecs + 4096 ≤ spawnMax ∧ 0 < (solo 8 id).fe.nextTeam ∧ (trg 0).ckpt = false := by decide +kernel

theorem witness_CuSegmentsFences :
    ((segmented id).core 0).mode ≠ .handler ∧ multiSeg (imgOf (segmented id) 0) = true ∧ 3 % 2 ≠ ((segmented id).core 0).pc.toNat / 2048 ∧
    3 < (imgOf (segmented id) 0).nseg ∧ (((segmented id).core 0).half 1).seg ≠ some 3 ∧
    (((segmented (fun x => { x with half1 := ⟨some 3, true, false, false⟩ })).core 0).half 1).seg = some 3 ∧
    (imgOf (segmented id) 0).nseg ≤ 255 ∧ 255 % 2 ≠ ((segmented id).core 0).pc.toNat / 2048 ∧
    OneSeg (solo 8 id) 0 ∧ bits (0x50001 : Word).toNat 18 16 = 5 ∧ bits (0x60001 : Word).toNat 18 16 = 6 := by
  unfold OneSeg; decide +kernel

/-! ### Traps and the system unit -/

theorem witness_TrapEntry :
    ((solo 8 id).core 0).mode ≠ .handler ∧ ((solo 8 id).core 0).due = [] ∧ (trapIllegal 7).log = none ∧
    multiSeg (imgOf (solo 8 id) 0) = false ∧
    ((segmented (fun x => { x with half0 := ⟨some 0, true, false, false⟩ })).core 0).half0.installed = true ∧
    (∀ k < 8, (((solo 8 id).core 0).ck.dup.chanOf k).st ≠ .running) := by decide +kernel

theorem witness_DoubleFault : ((solo 8 (fun x => { x with mode := .handler })).core 0).mode = .handler ∧
    ((solo 8 (fun x => { x with mode := .handler })).core 0).team = some 0 := by decide +kernel

/-- R349: an illegal operation in slot 7 in user mode enters the handler at index 0 and counts the trap. -/
theorem test_trap_entry : (match exec (.sySrd ⟨0, 7, false, true, 0⟩) (solo 8 (fun x => { x with pc := 55 })) with
    | .next s => ((s.core 0).mode, (s.core 0).pc, (s.core 0).tcount, (s.core 0).cause.slot, (s.core 0).cause.pc)
    | _ => (.user, 0, 0, 0, 0)) = (.handler, 0, 1, 7, 55) := by decide +kernel

/-- Block 255 and barrier 4095 of context 0. -/
def owned (f : Sync → Sync) (s : State) : State :=
  { s with sync := f { s.sync with nb := [(255, 0x8000000000000000#64)], barCtx := [(4095, 0x8000000000000000#64)] } }

theorem witness_SyNotify :
    let s := owned (fun y => { y with reg := [(65535, ⟨2, false, 7⟩)] }) (ported pSYk 255)
    nbOwned s ((portOf (trg 255) s pSYk).toNat % 256) (ctxOf s 0) = true ∧ withheld (s.core 0) 65535 < (notifyOf s 65535).cnt ∧
    (notifyOf s 65534).cnt ≤ withheld (s.core 0) 65534 ∧ nbOwned State.reset 0 (ctxOf State.reset 0) = false ∧
    s.sync.gated = false ∧ s.sync.capq = [] := by decide +kernel

theorem witness_SyBarriers :
    barOwned (owned id (ported pSYa 65535)) 4095 (ctxOf (owned id (ported pSYa 65535)) 0) = true ∧
    (portOf (ctrg 4095) (owned id (ported pSYa 65535)) pSYa).toNat % 65536 = 65535 ∧ hbarDue (State.reset.core 0) = none ∧
    (State.reset.core 0).dup.arrival = none ∧
    ((core0 (fun x => { x with dup := { x.dup with arrival := some (4095, 0) } })).core 0).dup.arrival = some (4095, 0) ∧
    (barrierOf State.reset 4095).gen = 0 ∧ (barrierOf (owned (fun y => { y with bar := [(4095, ⟨65535, 2, 1⟩)] }) State.reset) 4095).gen ≠ 0 ∧
    (1 : Nat) < 2 ∧ 1 + 1 = 2 ∧ 65535 < 65536 := by decide +kernel

theorem witness_SyHandler :
    ((core0 (fun x => { x with mode := .handler, tmode := .priv })).core 0).mode = .handler ∧ ctxOf State.reset 0 = 0 ∧
    (trg 2).y.toNat % 4 = 2 ∧ (State.reset.core 0).mode ≠ .handler := by decide +kernel

theorem witness_SySystemRegisters :
    ((core0 (fun x => { x with mode := .priv })).core 0).privileged = true ∧ (ctrg 3).y.toNat % 256 = 3 ∧
    (portOf (ctrg 0) (ported pSYk 4) pSYk).toNat % 256 = 4 ∧ (State.reset.core 0).privileged = false ∧
    (256 : Nat) ≤ (0xFFFFFF : Word).toNat ∧ (0xFFFFFF : Word).toNat < 2 ^ 24 ∧ (0xFF : Word).toNat < 256 := by decide +kernel

/-! ### Remote operations -/

/-- Context 0 has two windows on memory of package (1, 2), and this package is (5, 6). -/
def windowed (s : State) : State :=
  { s with
    fab := { s.fab with id := 0x8000000000002806#64 }
    hbm := [(7, 0x80), (14, 0x10), (18, 0x08), (22, 0x10), (27, 0x01), (30, 0xF0), (31, 0xFF), (38, 0xFF), (39, 0xFF), (41, 0x10),
      (48, 0x02), (518, 0x10), (519, 0x9E), (520, 0x02), (521, 0x08), (534, 0x10), (535, 0x9E), (536, 0x02), (537, 0x08),
      (2 ^ 21, 0x2A)] }
/-- The first address of window 0. -/
def winPtr : Word := ptr 3 7 (2 ^ 55)

theorem test_window : ((windowFor (windowed State.reset) 0 (2 ^ 55) .red).2.toOption.map (fun e => (e.1.domain, e.1.member, e.2)))
    = some (1, 2, 2 ^ 52) := by decide +kernel

theorem witness_RmTransfers :
    (ctrg winPtr).ckpt = true ∧ outstanding (State.reset.core 0) < 2048 ∧ RmScopeOk (ctrg winPtr) State.reset ∧ RmIn (ctrg winPtr) 1 ∧
    RmIn (ctrg (ptr 3 7 (2 ^ 55 + 24575 * 2 ^ 40))) 1 ∧ RmIn (ctrg winPtr) 4096 ∧ alignedW (ptrAddr winPtr) 64 = true ∧
    (portOf (ctrg 0) (ported pRMq 0x5FFFF) pRMq).toNat % 65536 ≠ 0 ∧ RmScopeOk (ctrg 0) (ported pRMq 0x5FFFF) ∧
    ((State.reset.core 0).dup.greg 0).st ≠ .empty ∧ bits (portOf (ctrg 0) (ported pRMb 4096) pRMb).toNat 12 0 = 4096 ∧
    winOff (ptrAddr (ptr 3 7 (2 ^ 55 + 4095))) < 4096 ∧ (portOf (ctrg 0) (ported pRMa 65535) pRMa).toNat < 65536 := by
  unfold RmIn RmScopeOk; decide +kernel

/-- A group descriptor in the own scratchpad at bit 0: mode 0, sum of f32, two ranks, four elements. -/
def grpSpad (f : Core → Core) : State := core0 (fun x => f { x with spad := [(0, 0x0000010000000000#64), (1, 3)] })

theorem witness_RmGroups :
    (portOf (ctrg winPtr) (ported pRMb 0x80000000) pRMb).getLsbD 31 = true ∧ (portOf (ctrg winPtr) State.reset pRMb).getLsbD 31 = false ∧
    grpFmt (bits (portOf (ctrg winPtr) State.reset pRMd).toNat 24 20) = some .f32 ∧ 1 * Fmt.f32.width ≤ 4096 ∧
    grpFmt (bits (portOf (ctrg winPtr) (ported pRMd 0xB03F00) pRMd).toNat 24 20) = some .s64 ∧ 64 * Fmt.s64.width ≤ 4096 ∧
    (windowFor (windowed State.reset) (ctxOf State.reset 0) (2 ^ 55) .red).2.toOption.isSome = true ∧
    (windowFor State.reset (ctxOf State.reset 0) (2 ^ 55) .red).2.toOption.isNone = true ∧ State.reset.fe.contribs.length < contribMax ∧
    grpLegal (words8 (spadGet ((grpSpad id).core 0).spad 0 512)) = true ∧ winOff (2 ^ 55) % 32 = 0 ∧
    grpLegal (words8 (spadGet ((core0 (fun x => { x with spad := [(7, 1)] })).core 0).spad 0 512)) = false ∧
    spadErrs ((grpSpad id).core 0).spadBad 0 512 = [] ∧ ptrAddr (portOf (ctrg winPtr) State.reset pRMa) % 512 = 0 := by
  decide +kernel

/-- An inbound flow key of context 0 for queue `lq` of the strand on core 0. -/
def keyed (lq : Nat) (s : State) : State :=
  { s with fab := { s.fab with keys := [{ ctx := 0, key := 9, team := 0, tcore := 0, lq := lq, sender := none, waiting := [] }] } }

theorem witness_RmFlows :
    OwnSpad (ctrg (ptr 0 7 512)) State.reset 512 1 ∧ bits (portOf (ctrg 9) (ported pRMb 0x47) pRMb).toNat 6 4 = 4 ∧
    (portOf (ctrg 9) (ported pRMb 0x47) pRMb).getLsbD 3 = false ∧ bits (9 : Word).toNat 63 32 = 0 ∧
    lqTaken ((core0 (fun x => x.setLq 7 { LinkQ.init with bound := true })).core 0) 7 = true ∧ lqTaken (State.reset.core 0) 7 = false ∧
    keyBound (keyed 3 State.reset) 0 9 = true ∧ keyBound State.reset 0 9 = false ∧
    (portOf (ctrg winPtr) (ported pRMb 0x8) pRMb).getLsbD 3 = true ∧ winOff (ptrAddr winPtr) < 2 ^ 32 ∧
    (windowFor (windowed State.reset) (ctxOf State.reset 0) (ptrAddr winPtr) .wr).2.toOption.isSome = true ∧
    bits (portOf (ctrg 9) (ported pRMb 0x50) pRMb).toNat 6 4 = 5 ∧
    (∀ j < 8, ((State.reset.core 0).dup.chanOf j).st ≠ .running) ∧ lqPending (State.reset.core 0) 7 = false := by
  unfold OwnSpad; decide +kernel

theorem witness_SystemEffects :
    (Machine.window (windowed State.reset) (ctxOf (windowed State.reset) 0) 0).2.toOption.isSome = true ∧
    256 ≤ fld (0xFFFFFF : Word) 23 0 ∧ (((rowQueue false 4 []).core 0).lqOf 0).bound = true ∧
    (((rowQueue false 4 []).core 0).lqOf 0).out = false ∧ (((rowQueue true 2 []).core 0).lqOf 0).out = true ∧
    ((State.reset.core 0).lqOf 0).bound = false := by decide +kernel

theorem witness_RmTraps : ptrMal (malform winPtr) = true ∧ region (ptrAddr heapPtr) < 8 ∧ 13 < region (ptrAddr devPtr) := by
  decide +kernel

/-! ### Packets -/

/-- A packet from package (1, 2) to this one. -/
def inPkt (op : Nat) : Packet :=
  { pkt0 with tier := 1, sdom := 1, smem := 2, tdom := 5, tmem := 6, op := op, addr := 2 ^ 52, len := 16, data := 0xABCD }

theorem witness_RequestsOfMemory :
    ReachesFirst (windowed State.reset) (inPkt kLoad) kLoad ∧ ReachesFirst (windowed State.reset) (inPkt kStore) kStore ∧
    ReachesFirst (windowed State.reset) (inPkt kAdd) kAdd ∧ 1 ≤ region (2 ^ 52) ∧ (2 ^ 52) % 256 + 16 ≤ 256 ∧ (accepted (windowed State.reset) (inPkt kLoad)).hbmBad = [] ∧
    (Machine.translate (accepted (windowed State.reset) (inPkt kLoad)) 0 (2 ^ 52) gRemote 0 false).2 = .ok (2 ^ 24) ∧
    (Machine.translate (accepted (windowed State.reset) (inPkt kStore)) 0 (2 ^ 52) gRemote 1 false).2 = .ok (2 ^ 24) ∧
    (Machine.translate (accepted (windowed State.reset) (inPkt kAdd)) 0 (2 ^ 52) gRemote 2 false).2 = .ok (2 ^ 24) := by
  unfold ReachesFirst Reaches; decide +kernel

/-- A credit or connect names flow handle `h` in word 7. -/
def flowPkt (op h : Nat) : Packet := { inPkt op with data := 9, x7 := flowWord h }
/-- Core 0 with outbound queue 2 of handle 4, which holds one released row and one credit. -/
def sending : State :=
  core0 (fun x => x.setLq 2 { LinkQ.init with bound := true, out := true, seq := 4, credits := 1, rows := [⟨77, true, 0⟩] })

/-- The key of that flow has a sender. -/
def keyFrom (who : Nat × Nat × Nat × Nat) : State :=
  let s := windowed State.reset
  { s with fab := { s.fab with keys := [{ ctx := 0, key := 9, team := 0, tcore := 0, lq := 3, sender := some who, waiting := [] }] } }

theorem witness_FlowPackets_refused :
    Reaches (keyFrom (3, 4, 0, 1)) (flowPkt kConnect 4) kConnect ∧ inTurn (keyFrom (3, 4, 0, 1)) (flowPkt kConnect 4) = true ∧
    findKey (keyFrom (3, 4, 0, 1)) 0 9 = some ⟨0, 9, 0, 0, 3, some (3, 4, 0, 1), []⟩ ∧
    (3, 4, 0) ≠ ((flowPkt kConnect 4).sdom, (flowPkt kConnect 4).smem, bits (flowPkt kConnect 4).x7.toNat 63 33) ∧
    findKey (keyFrom (1, 2, bits (flowPkt kConnect 4).x7.toNat 63 33, 1)) 0 9 =
      some ⟨0, 9, 0, 0, 3, some ((flowPkt kConnect 4).sdom, (flowPkt kConnect 4).smem, bits (flowPkt kConnect 4).x7.toNat 63 33, 1), []⟩ ∧
    barOwned (windowed State.reset) 0 0 = false ∧ Reaches (windowed State.reset) { inPkt kBar with addr := 2 ^ 56 } kBar ∧
    inTurn (windowed State.reset) { inPkt kBar with addr := 2 ^ 56 } = true ∧
    Reaches (windowed State.reset) { inPkt kConnect with addr := 2 ^ 56 } kConnect := by
  unfold Reaches; decide +kernel

theorem witness_FlowPackets :
    Reaches (windowed State.reset) (inPkt kBar) kBar ∧ inTurn (windowed State.reset) (inPkt kBar) = true ∧
    barOwned (owned id State.reset) 4095 0 = true ∧ Reaches (windowed State.reset) (flowPkt kLink 0) kLink ∧
    findKey (keyed 3 (solo 8 id)) 0 9 = some ⟨0, 9, 0, 0, 3, none, []⟩ ∧ 3 ≠ unboundLq ∧
    ((keyed 3 (solo 8 id)).team 0).slot = none ∧ ((keyed 3 (solo 8 id)).team 0).cores[0]? = some 0 ∧
    Reaches (windowed State.reset) (flowPkt kConnect 4) kConnect ∧ Reaches (windowed State.reset) (flowPkt kCredit 4) kCredit ∧
    flowHandle (flowPkt kCredit 4) = some 4 ∧ connectCore sending 4 = none ∧ handleQueue sending 4 = some (0, 2) ∧
    ((sending.core 0).lqOf 2).rows = ⟨77, true, 0⟩ :: [] ∧ 0 < ((sending.core 0).lqOf 2).credits ∧
    omaskWaits (sending.core 0) 0 0 = false ∧ fabOn (windowed sending) = true ∧ ((sending.core 0).lqOf 2).failed = false ∧
    ((sending.core 0).lqOf 2).drain = false := by
  unfold Reaches; decide +kernel

/-- A remote access that has been sent under tag 0. -/
def sentAcc (op : AOp) : Acc := { acc0 with op := op, addr := 2 ^ 55, len := 16, reg := 5, sent := true, peer := pkgNo 1 2 }
def sentState (op : AOp) : State := windowed (holding (sentAcc op))

theorem witness_AnswersAtSource :
    taggedAcc ((sentState (.rld 9)).core 0) 0 = some (sentAcc (.rld 9)) ∧ (sentAcc (.rld 9)).dead = false ∧ (inPkt kReply).nc = false ∧ (sentAcc (.rld 9)).err = none ∧
    Reaches (sentState (.rld 9)) (inPkt kReply) kReply ∧ Reaches (sentState (.rld 9)) (inPkt kErr) kErr ∧
    (inPkt kErr).data.toNat % 256 ≠ eEcc ∧ findAcc ((sentState (.rld 9)).core 0) 0 = some (sentAcc (.rld 9)) ∧
    timedOut { sentState (.rld 9) with fe := { FrontEnd.init with time := 1000000 } } (sentAcc (.rld 9)) = true ∧
    taggedAcc ((sentState .rst).core 0) 0 = some (sentAcc .rst) ∧ Reaches (sentState .rst) (inPkt kAck) kAck ∧
    Reaches (sentState .rst) (inPkt kPark) kPark ∧
    ((core0 (fun x => { x with accs := [sentAcc (.rld 9)], cyc := 9, due := [⟨9, 0, 0, .rld 0⟩] })).core 0).due = ⟨9, 0, 0, .rld 0⟩ :: [] ∧
    (inPkt kReply).addr < 2 ^ 56 := by
  unfold Reaches; decide +kernel

/-- One packet waits; member 3 of the own domain is reached through port 47. -/
def routed (q : Option Nat) (p : Packet) : State :=
  { windowed State.reset with
    fab := { (windowed State.reset).fab with outq := [(q, p)], up := 2 ^ 47, dom := [(3, 0x6F)] } }

theorem witness_PortsAndRoutes :
    takeNth 0 (routed (some 47) (inPkt kLoad)).fab.outq = some ((some 47, inPkt kLoad), []) ∧
    fabOn (routed (some 47) (inPkt kLoad)) = true ∧
    (routeOf (routed none { inPkt kLoad with tier := 0, tmem := 3 }) { inPkt kLoad with tier := 0, tmem := 3 }).2.1 = some 47 ∧
    (routeOf (routed none { inPkt kReply with tmem := 4 }) { inPkt kReply with tmem := 4 }).2.1 = none ∧
    takeNth 0 (routed none { inPkt kReply with resp := true }).fab.outq = some ((none, { inPkt kReply with resp := true }), []) := by
  decide +kernel

/-! ### Groups, collectives and experts -/

/-- A packet for group 3. -/
def grpPkt (op : Nat) : Packet := { inPkt op with x4 := 3, x6 := 0x400 }
/-- Group 3 in state `st`: mode 0, sum of f32, two ranks, four elements, a time-out of 1 µs, results at the heap. -/
def group3 (st : GrpSt) : Group :=
  { Group.init with st := st, desc := [0x0000010000000001#64, 3], rbase := 2 ^ 52, gen := 1 }
def grouped (st : GrpSt) : State :=
  let s := windowed State.reset
  { s with ful := { s.ful with grp := [(3, group3 st)] }, fe := { s.fe with time := 1000 } }

/-- The open group with its results at `a`. -/
def groupedAt (a : Nat) : State :=
  let s := windowed State.reset
  { s with ful := { s.ful with grp := [(3, { group3 .opened with rbase := a })] }, fe := { s.fe with time := 1000 } }

theorem witness_GroupPackets :
    inTurn (windowed State.reset) (grpPkt kGrpset) = true ∧ Reaches (windowed State.reset) (grpPkt kGrpset) kGrpset ∧
    ((windowed State.reset).group 3).st = .unset ∧ pktGroup (grpPkt kContrib) = 3 ∧
    Reaches (grouped .opened) (grpPkt kContrib) kContrib ∧ (group3 .opened).mode = 0 ∧
    contribSpan (group3 .opened) (grpPkt kContrib) = some (0, 4) ∧
    contribSpan (group3 .opened) { grpPkt kContrib with addr := 2 ^ 52 + 96, x6 := 0x100 } = some (3, 1) ∧
    contribSpan (group3 .opened) { grpPkt kContrib with addr := 2 ^ 52 + 96, x6 := 0x200 } = none ∧
    contribDup (group3 .opened) 0 0 4 = false ∧ pktRank (grpPkt kContrib) < (group3 .opened).ranks ∧
    ((1 < (group3 .opened).ranks ∧ 1 ≠ pktRank (grpPkt kContrib) ∧ (group3 .opened).wdn.contains 1 = false ∧
      delivered (group3 .opened) 1 < (group3 .opened).elems)) ∧
    Reaches (grouped .opened) (grpPkt kWithdraw) kWithdraw ∧ Reaches (grouped .incomplete) (grpPkt kGrpclr) kGrpclr ∧
    Reaches (grouped .idle) (grpPkt kGrpretire) kGrpretire ∧ Reaches (grouped .opened) (grpPkt kGrpretire) kGrpretire ∧
    Reaches (grouped .idle) (grpPkt kNotice) kNotice := by
  unfold Reaches; decide +kernel

/-- The same group in mode 1, with rank 0 already complete and its staging at the heap. -/
def group3m (st : GrpSt) : Group :=
  { group3 st with desc := [0x4000010000000001#64, 3, 0x10000000000000#64], rows := [⟨0, 0, [1, 2, 3, 4]⟩] }
def groupedm (a : Nat) : State :=
  let s := grouped .opened
  { s with ful := { s.ful with grp := [(3, { group3m .opened with rbase := a })] } }

theorem witness_GroupPackets_staged :
    (group3m .opened).mode ≠ 0 ∧ (group3m .opened).elems = 4 ∧ (group3m .opened).fmt.width = 32 ∧
    (whoWrite ((passSeq (groupedm (2 ^ 52)) (grpPkt kContrib)).setGroup 3 (takePacket (passSeq (groupedm (2 ^ 52)) (grpPkt kContrib))
      (group3m .opened) (grpPkt kContrib))) (.group 3) 0 gRemote (2 ^ 52) 128 (grpPkt kContrib).body.toNat).2 = ⟨0, none, false, []⟩ ∧
    Reaches (windowed State.reset) { grpPkt kGrpset with addr := 2 ^ 56 } kGrpset ∧
    Reaches (windowed State.reset) { grpPkt kWithdraw with addr := 2 ^ 56 } kWithdraw := by
  unfold Reaches; decide +kernel

theorem witness_GenerationEnds :
    let st := stagedRows (groupedm (2 ^ 52)) 3 (group3m .opened) (included (group3m .opened))
    genLate (grouped .opened) ((grouped .opened).group 3) = true ∧ genLate (grouped .idle) ((grouped .idle).group 3) = false ∧
    (homeWrites (grouped .opened) 3 0 (payloads (2 ^ 52) 128 (results (group3 .opened) []).1)).2.1 = false ∧
    (homeWrites (groupedAt (2 ^ 54)) 3 0 (payloads (2 ^ 54) 128 (results (group3 .opened) []).1)).2.1 = true ∧
    genLate (groupedAt (2 ^ 54)) ((groupedAt (2 ^ 54)).group 3) = true ∧ (group3 .opened).work = none ∧
    included (group3m .opened) = [0] ∧ st.2.any (fun e => e.2.wait) = false ∧ st.2.length = 1 := by decide +kernel

/-- Collective 0 of one participant with 64-bit elements, a time-out of 1 µs and one element to come. -/
def xperm1 (fail : Nat) : Xperm :=
  { Xperm.init with
    desc := [0xE000000000000001#64, 0x0010000000000000#64, 0x0010000000000040#64, 0, 0, 0, 0x0010000000000080#64], new := [1],
    fail := fail }
/-- In phase `ph` it has received `n` bits. -/
def permuting (ph fail n : Nat) : State :=
  let s := windowed State.reset
  { s with ful := { s.ful with xp := [(0, { xperm1 fail with phase := ph })], arrived := [(0, 0, n)] }, fe := { s.fe with time := 1000 } }

theorem witness_XpermSteps :
    let s := permuting 2 0 64
    let s' := s.setXperm 0 { xperm1 0 with phase := 3 }
    let p := inPkt kXperm
    ReachesFirst (permuting 2 0 0) p kXperm ∧ p.addr % 256 + p.len ≤ 256 ∧ (accepted (permuting 2 0 0) p).hbmBad = [] ∧
    (Machine.translate (accepted (permuting 2 0 0) p) 0 p.addr gRemote (storeKind p.addr p.len) false).2 = .ok (2 ^ 24) ∧
    (permuting 4 0x24 0).hasXperm 0 = true ∧
    (whoWrite (permuting 4 0x24 0) (.xperm 0) 0 gRemote (xperm1 0x24).doneAddr 64 (2 ^ 63 + 0x24 * 2 ^ 48)).2 = ⟨0, none, false, []⟩ ∧
    (whoWrite (permuting 4 0 0) (.xperm 0) 0 gRemote (xperm1 0).doneAddr 64 (2 ^ 62)).2 = ⟨0, none, false, []⟩ ∧
    xpermReady s (s.xpermOf 0) = true ∧ (xperm1 0).newLen * (xperm1 0).width = 64 ∧
    (whoRead s' (.xperm 0) 0 gRemote (xperm1 0).bounce 64).2 = ⟨0, none, false, []⟩ ∧
    (whoWrite (whoRead s' (.xperm 0) 0 gRemote (xperm1 0).bounce 64).1 (.xperm 0) 0 gRemote (xperm1 0).buf 64 0).2
      = ⟨0, none, false, []⟩ ∧
    xpermLate (permuting 2 0 0) (xperm1 0) = true ∧ xpermLate s (xperm1 0) = false := by
  unfold ReachesFirst Reaches; decide +kernel

/-- The bias ports of XP. -/
def biased (n : Nat) : State :=
  core0 (fun x => { x with dup := ((x.dup.setPort pXPa heapPtr).setPort pXPq heapPtr).setPort pXPb (wordN n) })
def xpCmd0 (op : Nat) : XpCmd := ⟨op, 0, 0, 0, 0, 0, 0, 0, [4, 1]⟩
/-- A walk that has done its one expert; its done word lies in the heap. -/
def walked : XpJob := { XpJob.init with kind := 1, words := [0, 0, 0, 0, 0, heapPtr], x := 1 }
/-- Die 0 has `n` commands of kind `op` for expert 4 in its queue. -/
def xpQueued (op n : Nat) (s : State) : State :=
  { s with xp := { s.xp with cmds := [(0, List.replicate n (xpCmd0 op))] } }

theorem witness_XpCommands :
    (ctrg 5).ckpt = true ∧ XpRoom (shielded State.reset 0) 0 ∧ XpRoom (xpQueued 4 31 State.reset) 0 ∧ ¬ XpRoom (xpQueued 4 32 State.reset) 0 ∧
    ((State.reset.core 0).dup.greg 0).st ≠ .empty ∧ outstanding (State.reset.core 0) < 2048 ∧
    OwnSpad (ctrg (ptr 0 7 512)) State.reset 512 1 ∧ ptrAddr (ptr 0 7 512) % 512 = 0 ∧
    bits (portOf (ctrg heapPtr) (biased 65536) pXPb).toNat 16 0 = 65536 ∧ biasPtr heapPtr 32 = true ∧
    biasPtr (portOf (ctrg heapPtr) (biased 1) pXPa) 32 = true ∧ biasPtr (portOf (ctrg heapPtr) (biased 1) pXPq) 64 = true ∧
    ptrMal heapPtr = false ∧ (portOf (ctrg 5) (biased 65536) pXPb).toNat % 65536 = 0 ∧ (trg 5).ckpt = false := by
  unfold OwnSpad XpRoom; decide +kernel

/-- Expert 4 in residency state `st` with its entries at byte 2^22: 64 bits of weights at the heap, a slot of `cap` bits beside it. -/
def experts (st cap : Nat) : State :=
  let s := windowed State.reset
  { s with
    hbm := s.hbm.filter (fun x => x.1 ≤ 2 ^ 21) ++
      [(2 ^ 22 + 135, 0xC0), (2 ^ 22 + 142, 0x10), (2 ^ 22 + 144, 0x40), (2 ^ 23 + 1, 0x10), (2 ^ 23 + 6, 0x10),
       (2 ^ 23 + 8, BitVec.ofNat 8 cap)]
    fe := { s.fe with time := 1000000000 }
    xp := { s.xp with cat := 2 ^ 25, catn := 5, slot := 2 ^ 26, slotn := 1,
                      res := [(4, { Resid.init with st := st, valid := true, claimed := st == 1 })] } }

theorem witness_ExpertTables :
    (whoWrite (clearParts { windowed State.reset with xp := { State.reset.xp with jobs := [(0, [walked])] } } (.engine 0)) (.engine 0) 0
      gWalker (ptrAddr (walked.word 5)) 64 (doneWord walked)).2 = ⟨0, none, false, []⟩ ∧ walked.id = 0 ∧ walked.ended = false ∧ bits (walked.word 0).toNat 15 0 < walked.x ∧
    walkBefore (xpQueued 4 1 (experts 2 64)) (xpCmd0 4) = false ∧
    cmdReady (xpQueued 4 1 (experts 2 64)) (xpCmd0 4) = true ∧ (xpCmd0 4).expert = 4 ∧
    residOwned (xpQueued 4 1 (experts 2 64)) 4 0 = true ∧ (resid (experts 2 64) 4).st = 2 ∧ (resid (experts 2 64) 4).lock = 0 ∧
    (resid (experts 1 64) 4).st = 1 ∧ (resid (experts 1 64) 4).claimed = true ∧ fetchFits (experts 1 64) 4 = true ∧
    (experts 2 64).xp.locks = [] ∧ (experts 2 64).xp.waits = [] ∧ (experts 1 64).xp.fq = [] ∧
    (match fetchData (experts 1 64) 4 with | .done u => decide (u.xp = (experts 1 64).xp) | _ => false) = true ∧
    fetchFits (experts 1 63) 4 = false ∧ (experts 1 64).xp.tmo ≠ 0 ∧
    1000000 * (experts 1 64).xp.tmo ≤ ((experts 1 64).fe.time - (resid (experts 1 64) 4).t0).toNat := by decide +kernel

/-! ### Device registers -/

theorem witness_RegisterWrites :
    (16383 : Nat) < 16384 ∧ bits (0x40 : Word).toNat 55 0 % 64 = 0 ∧ bits (0x41 : Word).toNat 55 0 % 64 ≠ 0 ∧
    asSystem .root = true ∧ asSystem (.strand 0 255) = true ∧ asSystem (.strand 1 0) = false ∧ asSystem (.mgmt 2) = false ∧
    Agent.mgmt 0 ≠ .root ∧ asFirmware (.mgmt 2) = true ∧ bits (0x100 : Word).toNat 55 0 % 256 = 0 ∧
    bits (0x200 : Word).toNat 41 0 % 512 = 0 ∧ bits (0x100 : Word).toNat 41 0 % 512 ≠ 0 ∧
    bits (0x1000000 : Word).toNat 55 0 % 2 ^ 24 = 0 ∧ bits (0x17FC21 : Word).toNat 20 11 = 767 ∧ bits (0x17FC21 : Word).toNat 10 0 = 1057 ∧
    bits (0x6E : Word).toNat 5 0 = 46 ∧ bits (0x6F : Word).toNat 5 0 = 47 ∧ bits (600 : Word).toNat 11 0 = 600 ∧
    bits (2400 : Word).toNat 11 0 = 2400 ∧ bits (2401 : Word).toNat 11 0 = 2401 ∧ bits (599 : Word).toNat 11 0 = 599 ∧
    (0x1C00000 : Nat) % 64 = 0 ∧ (2 ^ 52 - 1) % 64 ≠ 0 := by decide

/-- A fault record of context 0 for the heap waits. -/
def faulted : State := (mapped State.reset).setMtu 0 { Mtu.init with opened := [⟨0, 0, 2 ^ 52, gStrand, 0⟩] }

theorem witness_FirmwareWritesMemory :
    agentRuns State.reset (.mgmt 0) = false ∧ agentRuns State.reset .root = true ∧ agentRuns State.reset (.strand 1 0) = true ∧
    agentRuns { faulted with firm := { faulted.firm with mgmtHeld := false } } (.mgmt 0) = true ∧ asFirmware (.mgmt 0) = true ∧
    asFirmware (.host 0) = false ∧ servicesFault faulted (2 ^ 14) = true ∧ servicesFault faulted (2 ^ 14 + 64) = false ∧
    servicesFault State.reset (2 ^ 14) = false ∧ (2 ^ 14 : Nat) % 64 = 0 ∧
    ¬ (bits (0x82 : Word).toNat 1 0 = 2 ∧ (0x82 : Word).getLsbD 7 = false) ∧ ¬ (bits (0x81 : Word).toNat 1 0 = 2 ∧ (0x81 : Word).getLsbD 7 = true) ∧
    ¬ (bits ((physWord faulted (2 ^ 14)).getD 0).toNat 1 0 = 2 ∧ ((physWord faulted (2 ^ 14)).getD 0).getLsbD 7 = true) := by decide +kernel

/-- Queue 16383 in state `st`, checked handle 1 with parameters 0 to 3. -/
def queued (st : Nat) : State :=
  let s := windowed State.reset
  let s := s.setQueue 16383 { Queue.init with st := st, plen := 4, prog := 1 }
  { s with fe := { s.fe with checked := [(1, ⟨1, some 3, 1⟩)] } }
/-- Interpreter 15 is bound to it. -/
def bound (busy : Bool) : State := (queued 1).setInterp 15 { Interp.init with queue := some 16383, busy := busy }

theorem witness_QueueDescriptors :
    ((queued 0).queue 16383).st ≠ 1 ∧ bits (0x0800000000000400 : Word).toNat 61 57 = 4 ∧
    bits (0x2000000000000400 : Word).toNat 61 57 = 16 ∧ bits (0x0800000000000400 : Word).toNat 55 0 % 1024 = 0 ∧
    (ctxValid (queued 0) 0).2 = true ∧ holderOf (queued 1) 16383 = none ∧ holderOf (bound true) 16383 = some 15 ∧
    ((bound true).interp 15).busy = true ∧ ((bound false).interp 15).busy = false ∧
    bits (0x0000000100000000 : Word).toNat 63 48 = ((queued 1).queue 16383).ctx ∧
    mayName (queued 1) (bits (0x0000000100000000 : Word).toNat 47 32) 4 = true ∧ mayName (queued 1) 1 3 = false ∧
    256 ≤ bits (0x0000010000000000 : Word).toNat 47 32 ∧ bits (0x0001000000000000 : Word).toNat 63 48 ≠ ((queued 1).queue 16383).ctx ∧
    mayName (queued 1) 1 (bits (0x3F00000000000100 : Word).toNat 61 56) = true ∧
    mayName (queued 1) 1 (bits (0x0300000000000100 : Word).toNat 61 56) = false ∧
    bits (0x3F00000000000080 : Word).toNat 55 0 % 256 ≠ 0 := by decide +kernel

/-- Handle 255 holds LDI a1 := 5 and a halt; its check is under way. -/
def checking : State :=
  { State.reset with fe := { FrontEnd.init with store := [(128 * 255, 0x0000000008800005#64)], check := some (255, 1) } }

theorem witness_ProgramStore :
    (queued 0).fe.checked.any (fun e => e.1 == 1) = true ∧ State.reset.fe.checked.any (fun e => e.1 == 1) = false ∧
    isNamed (queued 0) 1 = true ∧ isNamed State.reset 1 = false ∧ checking.fe.check = some (255, 1) ∧
    (checkCode (storedCode checking 255 2)).1 = 0 ∧ (checkCode (storedCode checking 255 1)).1 ≠ 0 := by decide +kernel

theorem witness_CheckerAccepts :
    (checkCode [0x08800005, 0]).1 = 0 ∧ (checkCode [0x2C800001, 0]).1 = 0 ∧ (checkCode [0x3E000FC1, 0x50000000, 0]).1 ≠ 0 := by
  decide +kernel

theorem witness_Invalidations :
    State.reset.xl.inv = none ∧ Agent.host 1 ≠ .root ∧
    { State.reset with xl := { Xlate.init with inv := some ⟨1, true, 0, 0, 0⟩ } }.xl.inv = some ⟨1, true, 0, 0, 0⟩ ∧
    removes ⟨1, false, 0, 0, 2 ^ 52⟩ ⟨0, 0, 7, 2 ^ 52, 19, []⟩ = true ∧ removes ⟨1, false, 0, 1, 2 ^ 52⟩ ⟨0, 0, 7, 2 ^ 52, 19, []⟩ = false ∧
    viaWindow State.reset (removesWin ⟨1, true, 0, 0, 5⟩) = false ∧
    viaWindow { State.reset with fab := { State.reset.fab with flights := [⟨0, .note, 0, 0, some (0, 5), 0, false⟩] } }
      (removesWin ⟨1, true, 0, 0, 5⟩) = true ∧
    viaWindow { State.reset with fab := { State.reset.fab with flights := [⟨0, .note, 0, 0, some (0, 5), 0, false⟩] } }
      (removesWin ⟨1, true, 0, 0, 6⟩) = false := by
  decide

/-- A parked load of core 0 in MTU 7, named by record `slot`. -/
def park7 (slot : Option Nat) : Park := ⟨7, slot, .acc 0 0 0, 0, 2 ^ 52, gStrand, 0, 1, 5, 0⟩
def parkedOp (op : AOp) (slot : Option Nat) : State :=
  let s := mapped (holding (heapAcc op))
  let s := { s with xl := { s.xl with parks := [park7 slot] } }
  s.setMtu 7 { Mtu.init with wp := 16384 + 16383, rp := 16383 + 1, opened := (slot.map (fun k => ⟨k, 0, 2 ^ 52, gStrand, 5⟩)).toList }
def parkedIn (slot : Option Nat) : State := parkedOp (.ld true) slot

theorem witness_FaultRecords_parks :
    let s := parkedOp (.ld false) (some 16382)
    let freed := ({ s with xl := { s.xl with parks := s.xl.parks.filter (fun p => !heldBy 7 16382 p) } }).setMtu 7
      { s.mtu 7 with opened := (s.mtu 7).opened.filter (fun r => r.slot != 16382) }
    s.xl.parks.filter (heldBy 7 16382) = [park7 (some 16382)] ∧ (park7 (some 16382)).who = .acc 0 0 0 ∧
    findAcc (s.core 0) 0 = some (heapAcc (.ld false)) ∧ 0 < (sectors (heapAcc (.ld false)).addr (heapAcc (.ld false)).len).length ∧
    (Machine.translate (freed.onCore 0 (fun x => putAcc x (heapAcc (.ld false)))) 0 (2 ^ 52) gStrand 0 false).2 = .ok (2 ^ 24) ∧
    (Machine.translate (freed.onCore 0 (fun x => putAcc x (heapAcc (.ld false)))) 0 (2 ^ 52) gStrand 0 false).1.hbmBad = [] ∧
    findAcc ((parkedOp (.atomic 5 0) (some 16382)).core 0) 0 = some (heapAcc (.atomic 5 0)) ∧ (heapAcc (.atomic 5 0)).dead = false ∧
    (parkedOp (.atomic 5 0) (some 16382)).xl.parks.filter (heldBy 7 16382) = [park7 (some 16382)] := by decide +kernel

theorem witness_FaultRecords :
    asFirmware (.mgmt 0) = true ∧ isOpened (parkedIn (some 16382)) 7 16382 = true ∧ isOpened (parkedIn none) 7 16382 = false ∧
    asFirmware (.host 0) = false ∧
    (parkedIn none).xl.parks.find? (fun p => p.mtu == 7 && p.slot.isNone) = some (park7 none) ∧
    faultFull ((parkedIn none).mtu 7) = false ∧ faultFull { Mtu.init with wp := 16384 } = true ∧
    (parkedIn (some 16382)).xl.parks.filter (heldBy 7 16382) = [park7 (some 16382)] := by decide +kernel

theorem witness_CatalogueLoad : asSystem .root = true ∧ loadBusy (experts 2 64) = false ∧ loadBusy (experts 1 64) = true ∧
    4 < (experts 2 64).xp.catn ∧ catLegal (experts 2 64) 4 = false := by decide +kernel

theorem witness_WakesAndBarriers :
    (flag (nbWord (owned id State.reset) 255) 63 && flag (nbWord (owned id State.reset) 255) 62) = false ∧
    State.reset.sync.gated = false ∧ State.reset.sync.capq = [] ∧ asSystem (.mgmt 0) = false ∧
    (2 ^ 24 - 1 : Nat) < 2 ^ 24 ∧ 2 ^ 24 % 2 ^ 24 = 0 ∧ (65535 : Nat) < 65536 ∧ 65536 % 65536 = 0 ∧
    (owned (fun y => { y with gated := true }) State.reset).sync.gated = true ∧
    (notifyOf (owned (fun y => { y with reg := [(65535, ⟨16383, false, 7⟩)] }) State.reset) (256 * 255 + 255)).cnt = 16383 ∧
    64 ≤ (owned (fun y => { y with gated := true, capq := List.replicate 64 (0, 0) }) State.reset).sync.capq.length ∧
    (owned (fun y => { y with gated := true }) State.reset).sync.capq.length < 64 ∧ flag (0xC000000000000000#64) 63 = true ∧ flag (0xC000000000000000#64) 62 = true := by decide +kernel

/-! ### Lerant and the emits -/

/-- Interpreter 0 runs a native packet of queue 0, whose ring of 16 slots at the heap holds two packets; `f` changes the interpreter. -/
def held (f : Interp → Interp) : State :=
  let s := windowed State.reset
  let s := s.setQueue 0 { Queue.init with st := 1, lsize := 4, ring := 2 ^ 52, param := 2 ^ 52 }
  let s := s.setInterp 0 (f { Interp.init with queue := some 0, busy := true })
  { s with fe := { s.fe with widx := [(0, 2)] } }
/-- It has set draft fields. -/
def drafted (d : List (Nat × Word)) : State := held (fun x => { x with draft := d })
/-- Pin handle `h` with pin word `w`. -/
def pinDraft (h : Nat) (w : Word) : State := drafted [(5, wordN h), (24, w)]

theorem witness_LerantControl :
    Interp.init.reps = [] ∧ { Interp.init with reps := [⟨3, 5, 6, 0, 2⟩] }.reps = ⟨3, 5, 6, 0, 2⟩ :: [] ∧
    (7 : Nat) = (⟨3, 5, 6, 0, 2⟩ : RepFrame).last + 1 ∧ (⟨3, 5, 6, 0, 2⟩ : RepFrame).i + 1 < 2 ∧
    (⟨3, 5, 6, 1, 2⟩ : RepFrame).n ≤ 1 + 1 ∧ (6 : Nat) ≠ (⟨3, 5, 6, 0, 2⟩ : RepFrame).last + 1 := by decide

theorem witness_LerantQueueWords :
    ((held id).interp (held id).cur).queue = some 0 ∧
    (whoRead (held id) (.interp 0) 0 gHost (2 ^ 52 + 64 * 63) 64).2 = ⟨0, none, false, []⟩ ∧
    (whoRead (held id) (.interp 0) 0 gHost 0 64).2 = ⟨0, some (eUnmapped, 0), false, []⟩ ∧
    (whoRead (held id) (.interp 0) 0 gHost (2 ^ 52 + 2 ^ 19) 64).2.wait = true := by decide +kernel

theorem witness_PacketEnds :
    ((held id).interp (held id).cur).queue = some 0 ∧ (State.queue (held id) 0).st = 1 ∧
    (State.queue ((held id).setQueue 0 { Queue.init with st := 2 }) 0).st ≠ 1 ∧ (held id).fe.waitq = [] := by decide +kernel

/-- Queue 16383 has `n` packets and is due. -/
def polled (n : Nat) : State :=
  let s := State.reset.setQueue 16383 { Queue.init with st := 1, lsize := 4 }
  { s with fe := { s.fe with widx := [(16383, n)] } }

theorem witness_QueuePolls :
    isPollTurn (polled 0) 16383 = true ∧ backlog (polled 0) 16383 = 0 ∧ isPollTurn (polled 16) 16383 = true ∧
    backlog (polled 16) 16383 = 2 ^ 4 ∧ isPollTurn (polled 17) 16383 = true ∧ 2 ^ 4 < backlog (polled 17) 16383 ∧
    isPollTurn (polled 0) 0 = false ∧ isDue (polled 0) 16383 = true ∧
    (∀ k < 16, (State.interp { polled 1 with fe := { (polled 1).fe with
      ip := (span 0 16).map (fun k => (k, { Interp.init with queue := some k })) } } k).queue ≠ none) := by decide +kernel

theorem witness_PacketRuns :
    isParked (held id) (.interp 0) = false ∧ ((held (fun x => { x with busy := false })).interp 0).busy = false ∧
    backlog (held id) 0 = 2 ∧ (State.queue (held id) 0).st = 1 ∧ backlog (held id) 0 ≤ 2 ^ (State.queue (held id) 0).lsize ∧ (match feRead (held id) 0 0 (2 ^ 52) 1024 with | .ok _ v => v | _ => 1) = 0x2A ∧
    canStep (held id) 0 = true ∧ ((held id).interp 0).prog = 0 ∧ ((held id).interp 0).done = 0 ∧
    ((fetching 0).interp 0).prog ≠ 0 ∧ decodeLerant (fetchBytecode (fetching 0) 0) = some .lerantHalt := by decide +kernel

/-- A native packet of `kind` with word `w` set. -/
def nativeOf (kind w : Nat) (v : Word) : State := held (fun x => { x with pkt := [(0, wordN (kind * 2 ^ 56)), (w, v)] })

theorem witness_NativePackets :
    ((nativeOf 1 1 0).interp 0).emits = 0 ∧ bits (Tab.get 0 ((nativeOf 7 1 0).interp 0).pkt 0).toNat 63 56 = 7 ∧
    (span 0 16).find? (fun w => nativeRest 6 w (Tab.get 0 ((nativeOf 6 2 1).interp 0).pkt w) != 0) = some 2 ∧
    (span 0 16).find? (fun w => nativeRest 6 w (Tab.get 0 ((nativeOf 6 1 1).interp 0).pkt w) != 0) = none ∧
    (span 0 16).find? (fun w => nativeRest 2 w (Tab.get 0 ((nativeOf 2 3 (-1)).interp 0).pkt w) != 0) = none := by decide +kernel

/-- A transfer of 64 bits within the heap. -/
def copying (n : Nat) : State := drafted [(21, 0x0010000000000000#64), (22, 0x0010000000000040#64), (23, wordN n)]

theorem witness_EmitsSubmit :
    depsBad (copying 64) 0 ((copying 64).interp 0) = none ∧ RecordOk ((copying 64).interp 0) 256 ∧
    draftNat ((copying 64).interp 0) 21 + 64 ≤ draftNat ((copying 64).interp 0) 22 ∧ (2 ^ 40 : Nat) ≤ 2 ^ 40 ∧
    RecordOk ((drafted [(20, 0x0010000000001000#64)]).interp 0) 4096 ∧
    bits (0x1EF : Word).toNat 8 5 + bits (0x1EF : Word).toNat 4 0 ≤ 15 + 15 ∧ bits (0x1E1 : Word).toNat 8 5 + bits (0x1E1 : Word).toNat 4 0 ≤ 16 ∧
    createRefused (pinDraft 65535 0x1E1) 65535 0 = false ∧
    createRefused { pinDraft 1 0x1E1 with fe := { (pinDraft 1 0x1E1).fe with pins := [(1, Pin.init)] } } 1 0 = true ∧ releaseRefused (pinDraft 1 0) 0 1 0 = true ∧
    releaseRefused { pinDraft 1 0 with fe := { (pinDraft 1 0).fe with pins := [(1, Pin.init)] } } 0 1 0 = false ∧
    (match feWrite (drafted [(20, 0x0010000000001000#64)]) 0 0 0x10000000001000 64 5 with | .ok _ _ => true | _ => false) = true ∧
    draftNat ((drafted [(9, 1)]).interp 0) 9 = 1 ∧ (drafted [(9, 1)]).firm.rootVer < 1 ∧ ((drafted [(9, 1)]).queue 0).ctx = 0 ∧
    (State.queue ((held id).setQueue 0 { Queue.init with ctx := 1 }) 0).ctx ≠ 0 ∧
    ((held (fun x => { x with emits := 1 })).interp 0).emits = 1 ∧
    (State.queue ((held id).setQueue 0 { Queue.init with pemit := 2 }) 0).pemit = 2 := by
  unfold RecordOk; decide +kernel

/-- An image at the heap's second 4,096 bits: one segment of one bundle and one entry; the draft `d` launches it. -/
def launching (d : List (Nat × Word)) : State :=
  let s := drafted ((0, 0x0010000000001000#64) :: d)
  { s with
    hbm := s.hbm ++ [(2097666, 0x01), (2097667, 0x01), (2097668, 0x31), (2097669, 0x4B), (2097670, 0x58), (2097671, 0x57),
      (2097678, 0x01), (2097681, 0x01), (2097696, 0x80), (2097697, 0x01)] }

theorem witness_LaunchAndAttest :
    (match checkLaunch (launching draftInit) 0 0 ((launching draftInit).interp 0) with
      | .ok t r => (r.e, r.img.n, r.ins.length, countersUsed t) | _ => (0, 0, 0, 0)) = (2 ^ 63, 1, 0, 0) ∧
    draftNat ((drafted [(0, 1)]).interp 0) 0 % 4096 ≠ 0 ∧
    (match checkLaunch (drafted [(0, 0x0010000000080000#64)]) 0 0 ((drafted [(0, 0x0010000000080000#64)]).interp 0) with
      | .park _ => true | _ => false) = true ∧
    (match feRead (drafted [(21, 0x0010000000000000#64)]) 0 0 (2 ^ 52) 256 with | .ok _ _ => true | _ => false) = true ∧
    ((held (fun x => { x with pend := some Req.init })).interp 0).pend = some Req.init ∧ countersUsed (held id) < 4096 := by
  decide +kernel

theorem witness_countersUsed (s : State) (h : s.fe.reqs = (span 0 4096).map (fun k => (k, { Req.init with counter := true }))) :
    4096 ≤ countersUsed s := by
  unfold countersUsed; rw [h]; decide +kernel

/-! ### Requests and dispatch -/

/-- Requests in the front end. -/
def asking (rs : List Req) : State :=
  let s := windowed State.reset
  { s with fe := { s.fe with reqs := rs.map (fun r => (r.tag + 1, r)), order := 9 } }
/-- Request `tag` of a kind in a state. -/
def reqOf (tag kind st : Nat) (d : List (Nat × Word)) : Req := { Req.init with tag := tag, kind := kind, st := st, draft := d }
def metReq (kind : Nat) : Req := { reqOf 300 kind 0 [] with met := some 3 }
/-- 256 requests of kind `kind` hold entries. -/
def crowd (kind : Nat) : List Req := (span 0 256).map (fun k => { reqOf k kind 2 [] with entered := 1 })

theorem witness_RequestsEnter :
    (asking [metReq 0]).hasReq 300 = true ∧ isNextHeld (asking [metReq 0]) (metReq 0) = true ∧
    (∀ d < 4, scoreUsed (asking [metReq 0]) d < 256) ∧ 256 ≤ scoreUsed (asking (crowd 0 ++ [metReq 0])) 3 ∧
    256 ≤ scoreUsed (asking (crowd 1 ++ [metReq 1])) 0 ∧ scoreUsed (asking (crowd 1 ++ [metReq 1])) 1 < 256 ∧
    isNextHeld (asking (crowd 1 ++ [metReq 1])) (metReq 1) = true ∧ (metReq 0).met = some 3 := by decide +kernel

/-- It depends on request 5 with condition code `c`. -/
def depending (c : Nat) : Req := reqOf 7 0 0 [(15, wordN (c * 2 ^ 62 + 5))]
def ended (clean : Bool) (s : State) : State := { s with fe := { s.fe with retired := [(5, clean)] } }

theorem witness_RequestDependences :
    (asking [reqOf 5 0 2 []]).hasReq 5 = true ∧ (ended false (asking [])).hasReq 5 = false ∧
    (ended false (asking [])).fe.retired.find? (fun e => e.1 == 5) = some (5, false) ∧ isHeld (depending 2) = true ∧
    isHeld (reqOf 7 0 1 []) = false ∧ depsOf (depending 2) = [(2, 5)] ∧ judgeDep (ended false (asking [])) 2 5 = some false ∧
    judgeDep (ended false (asking [])) 1 5 = some true ∧ judgeDep (asking [reqOf 5 0 2 []]) 2 5 = none := by decide +kernel

/-- Request 300 ends with its record at `a`. -/
def ending (a : Word) : State := asking [reqOf 300 0 3 [(20, a)]]

theorem witness_RequestsRetire :
    (ending 0).hasReq 300 = true ∧ ((ending 0).req 300).st = 3 ∧
    effectsLeft (ending 0) ((ending 0).req 300) = false ∧ recordAddr ((ending 0).req 300) = none ∧
    recordAddr ((ending 0x0010000000000000#64).req 300) = some (2 ^ 52) ∧
    (whoWrite (ending 0) (.xfer 300) 0 gHost (2 ^ 52) 256 (recordWord (ending 0) (reqOf 300 0 3 []))).2 = ⟨0, none, false, []⟩ ∧
    (whoWrite (ending 0) (.xfer 300) 0 gHost (2 ^ 52 + 2 ^ 19) 256 0).2.wait = true ∧
    (whoWrite (ending 256) (.xfer 300) 0 gHost 256 256 0).2 = ⟨0, some (eUnmapped, 256), false, []⟩ ∧
    recordAddr ((ending 256).req 300) = some 256 := by decide +kernel

/-- Pages from 2^53 on map the second GiB of memory for every group, frames among them; the entry of 513 · 2^44 is malformed. -/
def paged (s : State) : State :=
  { s with
    hbm := (2, 0x04) :: (windowed s).hbm.filter (fun x => x.1 < 2 ^ 10) ++ [(36864, 0x01), (36866, 0x08), (36872, 0x03),
      (65536, 0xE2), (65540, 0x02), (65542, 0xFF), (65543, 0xFF), (2 ^ 21, 0x2A), (2 ^ 30 + 3, 0x01), (2 ^ 30 + 4, 0x4D), (2 ^ 30 + 5, 0x52),
      (2 ^ 30 + 6, 0x46), (2 ^ 30 + 7, 0x57)]
    xl := { s.xl with framebase := 2 ^ 53, framelen := 2 ^ 25 } }
/-- A transfer of 64 bits from `a` to `b`. -/
def moving (a b : Nat) : State := paged (asking [reqOf 300 1 1 [(21, wordN a), (22, wordN b), (23, 64)]])

theorem witness_TransfersRun :
    xferReady (moving (2 ^ 52) (2 ^ 52 + 192)) 300 = true ∧ isMem (2 ^ 52) = true ∧ xferReady (asking [reqOf 300 1 3 []]) 300 = false ∧
    (whoRead (moving (2 ^ 52) (2 ^ 52 + 192)) (.xfer 300) 0 gHost (2 ^ 52) 64).2 = ⟨0x2A, none, false, []⟩ ∧
    (whoWrite (moving (2 ^ 52) (2 ^ 52 + 192)) (.xfer 300) 0 gHost (2 ^ 52 + 192) 64 0x2A).2 = ⟨0, none, false, []⟩ ∧
    (whoWrite (moving (2 ^ 52) (2 ^ 54)) (.xfer 300) 0 gHost (2 ^ 54) 64 0x2A).2.wait = true ∧ isMem (2 ^ 54) = true ∧
    (whoRead (moving (513 * 2 ^ 44) (2 ^ 52)) (.xfer 300) 0 gHost (513 * 2 ^ 44) 64).2.err.isSome = true ∧
    isMem (513 * 2 ^ 44) = true ∧ (whoWrite (moving (2 ^ 52) (513 * 2 ^ 44)) (.xfer 300) 0 gHost (513 * 2 ^ 44) 64 0x2A).2.err.isSome = true ∧
    (whoRead (moving (2 ^ 54) (2 ^ 52)) (.xfer 300) 0 gHost (2 ^ 54) 64).2.wait = true := by decide +kernel

theorem witness_TransfersRun_windows :
    let s := moving (2 ^ 52) (2 ^ 55)
    let r := moving (2 ^ 55) (2 ^ 52)
    xferReady s 300 = true ∧ isWin (2 ^ 55) = true ∧ fabOn s = true ∧
    (windowFor s 0 (2 ^ 55) .wr).2.toOption.isSome = true ∧ (windowFor s 0 (2 ^ 55 + 9 * 2 ^ 40) .wr).2.toOption.isNone = true ∧
    xferReady r 300 = true ∧ (windowFor r 0 (2 ^ 55) .rd).2.toOption.isSome = true ∧
    (windowFor r 0 (2 ^ 55 + 9 * 2 ^ 40) .rd).2.toOption.isNone = true := by decide +kernel

/-- A pin request for handle 1: banks 15 to 15, in a state. -/
def pinReq (op st : Nat) : Req := reqOf 300 2 st [(5, 1), (24, wordN (op * 2 ^ 62 + 0x1E1))]
def pinAsked (op st : Nat) (ps : List (Nat × Pin)) : State :=
  let s := asking [pinReq op st]
  { s with fe := { s.fe with pins := ps } }

/-- Every die has placed within eight cycles. -/
def crowdedPin (tag : Nat) : State :=
  let s := asking [{ pinReq 0 1 with tag := tag }]
  (span 0 4).foldl (fun s d => s.setDie d { s.die d with lastPlace := some 0 }) s

theorem witness_PinRequests :
    (pinAsked 0 1 []).hasReq 300 = true ∧ ((pinAsked 0 1 []).req 300).kind = 2 ∧ pinOp ((pinAsked 0 1 []).req 300) = 0 ∧
    createRefused (pinAsked 0 1 [(1, Pin.init)]) 1 300 = true ∧ createRefused (pinAsked 0 1 []) 1 300 = false ∧
    ((span 0 4).findSome? (fun d => (firstFit (pinAsked 0 1 []) d).filter (fun p => p.1.create && p.1.tag == 300))).isSome = true ∧
    (firstFit (pinAsked 0 1 []) 0).isSome = true ∧ mayPlace (pinAsked 0 1 []) 0 = true ∧ ((pinAsked 0 1 []).req 300).st = 1 ∧
    ((pinAsked 0 1 []).req 300).status ≠ 4 ∧
    (span 0 4).findSome? (fun d => (firstFit (crowdedPin 300) d).filter (fun p => p.1.create && p.1.tag == 300 && mayPlace (crowdedPin 300) d)) = none ∧
    pinOp ((pinAsked 1 0 [(1, Pin.init)]).req 300) = 1 ∧ (pinAsked 1 0 [(1, Pin.init)]).fe.creates = [] ∧ pinInUse (pinAsked 1 0 [(1, Pin.init)]) 1 = false ∧
    releaseRefused (pinAsked 1 0 [(1, Pin.init)]) 0 1 300 = false ∧ releaseRefused (pinAsked 1 0 []) 0 1 300 = true ∧
    pinInUse (asking [reqOf 1 0 2 [(5, 1)]]) 1 = true := by decide +kernel

/-- Launch 5 in state `st` for `n` teams of one strand, of class 3, at 50 ms. -/
def launched (st n : Nat) : State :=
  let r := { reqOf 5 0 st [(1, wordN n), (3, 3)] with img := { Img.init with nseg := 1, segs := [(0, 0)], entries := [0] }, entered := 1 }
  let s := asking [r]
  { s with fe := { s.fe with time := 50000000 } }
/-- Its team 0 waits for placement, with or without a frame. -/
def readied (slot : Option Nat) : State :=
  (launched 2 0).setTeam 0 { Team.init with tag := 5, st := .ready, n := 1, entries := [0], args := [3, 4], slot := slot }

theorem witness_ClassesAge :
    (launched 1 1).hasReq 5 = true ∧ hasReadyTeam (launched 1 1) ((launched 1 1).req 5) = true ∧ agePeriod (launched 1 1) 3 3 = 50000000 ∧
    (0 + 1) * 50000000 ≤ (launched 1 1).fe.time.toNat - ((launched 1 1).req 5).since.toNat ∧
    hasReadyTeam (launched 3 1) ((launched 3 1).req 5) = false := by decide +kernel

theorem witness_TeamsArePlaced :
    mayPlace (launched 1 1) 3 = true ∧ firstFit (topCare (launched 1 0) 3) 3 = none ∧
    ((firstFit (topCare (launched 1 1) 3) 3).map (fun x => (x.1.create, x.1.team, x.2))) = some (false, none, 48) ∧
    ((firstFit (topCare (readied none) 0) 0).map (fun x => (x.1.create, x.1.team, x.2))) = some (false, some 0, 0) ∧
    ((firstFit (topCare (readied (some 1)) 0) 0).map (fun x => (x.1.create, x.1.team, x.2))) = some (false, some 0, 0) ∧
    ((firstFit (topCare (pinAsked 0 1 []) 0) 0).map (fun x => (x.1.create, x.2))) = some (true, 0) ∧
    mayPlace ((launched 1 1).setDie 3 { Disp.init with lastPlace := some 0 }) 3 = false ∧ moveFor (topCare (launched 1 1) 3) 3 = none ∧
    claimLate (topCare (launched 1 1) 3) ⟨5, none, 1, 0, 0, false⟩ 3 = false := by decide +kernel

/-- Launch 5 for pin 1, whose home cluster is full. -/
def crowded : State :=
  let s := (launched 1 1).updReq 5 (fun r => { r with draft := [(1, 1), (3, 3), (5, 1)] })
  (span 0 4).foldl (fun s c => s.onCore c (fun x => { x with team := some 9 })) (s.setPin 1 { Pin.init with count := 1 })

theorem witness_TeamsArePlaced_moves :
    ((moveFor (topCare crowded 0) 0).map (fun x => (x.1.pin, x.2))) = some (1, 1) ∧ mayPlace crowded 0 = true ∧
    claimLate ((launched 1 1).updReq 5 (fun r => { r with claimAt := some ((launched 1 1).pow.pulse, 3) })) ⟨5, none, 1, 0, 0, false⟩ 0
      = true := by decide +kernel

theorem witness_PartitionsMove : (pinAsked 1 0 [(1, { Pin.init with st := 1, moveTo := 63 })]).hasPin 1 = true ∧
    (State.pin (pinAsked 1 0 [(1, { Pin.init with st := 1, moveTo := 63 })]) 1).st = 1 ∧
    (State.pin (pinAsked 1 0 [(1, Pin.init)]) 1).st ≠ 1 := by decide +kernel

/-! ### Teams -/

/-- Team 0 is placed on core 0 with an input stream of 64 bits from `a`; `f` changes the team. -/
def filling (a : Nat) (f : Team → Team) : State :=
  let s := paged (launched 2 0)
  let s := s.updReq 5 (fun r => { r with draft := [(8, 1)], ins := [⟨wordN a, 0, 15, 0, 64, 0⟩], img := { r.img with base := 2 ^ 52 } })
  let s := s.setTeam 0 (f { Team.init with tag := 5, st := .placed, n := 1, cores := [0] })
  s.setCore 0 { Core.init with team := some 0, park := 1, half0 := ⟨some 0, false, true, false⟩ }
/-- How the first piece of its fill comes out: it lands, it waits, or the team is killed. -/
def fillOf (s : State) : Nat :=
  match fillUnits s 0 with
  | u :: _ => let (t, on) := fillPiece s 0 (s.req 5).ctx u; if on then 0 else if isParked t (.fill 0) then 1 else 2
  | [] => 3
/-- The fill or a copy of the team waits. -/
def waits (w : Who) (s : State) : State := { s with xl := { s.xl with parks := [⟨0, none, w, 0, 2 ^ 54, gStream, 0, 1, 5, 2⟩] } }

theorem witness_InputStreamsFill :
    ((filling (2 ^ 52) id).team 0).st = .placed ∧ ((filling (2 ^ 52) id).team 0).filled = false ∧
    fillOf (filling (2 ^ 52) id) = 0 ∧ fillOf (filling (2 ^ 54) id) = 1 ∧
    fillOf (filling 0 id) = 2 ∧ (whoRead (filling (2 ^ 52) id) (.fill 0) 0 gStream (2 ^ 52) 64).2 = ⟨0x2A, none, false, []⟩ ∧
    isParked (waits (.fill 0) (filling (2 ^ 54) id)) (.fill 0) = true ∧
    parkThreshold (filling (2 ^ 54) id) ((filling (2 ^ 54) id).req 5) = 1 ∧
    1 < ((filling (2 ^ 54) (fun t => { t with clock := 2 })).team 0).clock ∧ ((filling (2 ^ 52) id).team 0).asked = false ∧
    fillUnits (filling (2 ^ 52) id) 0 = [⟨0, 2 ^ 52, 64, 0, 0, false⟩] ∧ isMem (2 ^ 52) = true ∧
    (fillUnits (filling (2 ^ 52) id) 0).drop (({ Team.init with fillAt := 1 }).fillAt) = [] ∧
    fillWaits (waits (.fill 0) (filling (2 ^ 54) id)) 0 = true ∧
    (entryUnits ⟨wordN (2 ^ 52 + 200), 0, 15, 64, 128, 64⟩ 1 0 0).map (fun u => (u.a, u.n, u.dst)) =
      [(2 ^ 52 + 264, 128, 64)] ∧
    (entryUnits ⟨wordN (2 ^ 52 + 200), 0, 15, 64, 128, 0⟩ 0 0 0).map (fun u => (u.a, u.n, u.dst)) =
      [(2 ^ 52 + 200, 56, 64), (2 ^ 52 + 256, 72, 120)] ∧
    isMem (2 ^ 55) = false ∧ isWin (2 ^ 55) = true ∧ (windowFor (filling (2 ^ 55) id) 0 (2 ^ 55) .rd).2.toOption.isSome = true ∧
    fabOn (filling (2 ^ 55) id) = true ∧ (windowFor (filling (2 ^ 55) id) 0 (2 ^ 55 + 9 * 2 ^ 40) .rd).2.toOption.isNone = true := by
  decide +kernel

/-- The team is set: filled, its segment in place. -/
def set0 (f : Team → Team) : State :=
  (filling (2 ^ 52) (fun t => f { t with filled := true })).onCore 0 (fun x => { x with half0 := ⟨some 0, true, false, false⟩ })

theorem witness_TeamsStart :
    teamSet (set0 id) 0 = true ∧ ((set0 id).team 0).gang = false ∧ teamSet (filling (2 ^ 52) id) 0 = false ∧
    gangTeams (set0 (fun t => { t with gang := true })) 5 = [0] ∧ ((set0 id).req 5).claimed = teamCount ((set0 id).req 5) ∧
    teamSet (set0 (fun t => { t with gang := true })) 0 = true ∧ gangTeams (set0 id) 5 = [] := by decide +kernel

theorem witness_SegmentsCopy :
    (((filling (2 ^ 52) id).core 0).half 0).copying = true ∧ (((filling (2 ^ 52) id).core 0).half 0).seg = some 0 ∧
    (imgOf (filling (2 ^ 52) id) 0).base = 2 ^ 52 ∧ segEntry (imgOf (filling (2 ^ 52) id) 0) 0 = (0, 0) ∧
    (whoRead (filling (2 ^ 52) id) (.copy 0 0) 0 gHost (2 ^ 52) 192).2 = ⟨0x2A, none, false, []⟩ ∧
    (whoRead (filling (2 ^ 52) id) (.copy 0 0) 0 gHost (2 ^ 54) 192).2.wait = true ∧
    (whoRead (filling (2 ^ 52) id) (.copy 0 0) 0 gHost 0 192).2 = ⟨0, some (eUnmapped, 0), false, []⟩ ∧
    (whoRead { filling (2 ^ 52) id with hbmBad := [2 ^ 24 / 256] } (.copy 0 0) 0 gHost (2 ^ 52) 192).2.ecc = [2 ^ 52] := by
  decide +kernel

/-- Team 0 runs, or has state `st`, on core 0; `f` changes the core. -/
def teamed (st : TeamSt) (f : Core → Core) : State := (set0 (fun t => { t with st := st })).onCore 0 (fun x => f { x with run := .running })
/-- It has a parked load. -/
def stuck : State := waits (.acc 0 0 0) (teamed .running (fun x => { x with accs := [heapAcc (.ld true)] }))

theorem witness_ForcedLeaves :
    (((teamed .running (fun x => { x with c7 := true, cdRun := true })).core 0).cdown = 0) ∧
    atomicParked ((teamed .running id).core 0) = false ∧ ((teamed .running id).core 0).due = [] ∧
    parkedLong stuck 0 = true ∧ gangMates stuck 0 = [] ∧ switchWaits stuck 0 = false ∧ parkedLong (teamed .running id) 0 = false := by
  decide +kernel

theorem witness_TeamsSave :
    canSave (teamed .requested (fun x => { x with run := .yielded })) 0 = true ∧
    freeSlots (teamed .requested (fun x => { x with run := .yielded })) = [0, 1] ∧ canSave (teamed .running id) 0 = false ∧
    (writeFrame (launched 1 1) 0 0 1 0 false []).2 = some 0 ∧
    reasonClear (teamed .saved id) 0 = true ∧ homeBusy (teamed .saved id) 0 = false ∧ reasonClear (teamed .running id) 0 = false := by
  decide +kernel

/-- Memory with the frame pool alone; a frame in slot 0 bears tag 0. -/
def framed (s : State) : State :=
  { s with hbm := [(2, 0x04), (7, 0x80), (14, 0x10), (22, 0x10), (36864, 0x01), (36866, 0x08), (65536, 0xE2), (65540, 0x02), (65542, 0xFF),
    (65543, 0xFF), (2 ^ 30 + 3, 0x01), (2 ^ 30 + 4, 0x4D), (2 ^ 30 + 5, 0x52), (2 ^ 30 + 6, 0x46), (2 ^ 30 + 7, 0x57)] }

theorem witness_TeamsSave_written : (writeFrame (framed (teamed .requested id)) 0 0 1 0 false []).2 = none := by
  decide +kernel

/-- Team 0 comes back from slot 0. -/
def restoring (tag : Nat) : State :=
  (framed (teamed .restoring id)).setTeam 0 { Team.init with tag := tag, st := .restoring, cores := [0], slot := some 0 }

theorem witness_TeamsRestore :
    ((restoring 0).team 0).st = .restoring ∧ pinHere (restoring 0) 0 = true ∧ leftBehind (restoring 0) 0 = false ∧
    (match (readFrame { restoring 0 with xl := { (restoring 0).xl with framebase := 2 ^ 54 } } 0 0 1).2 with
      | .error _ => true | _ => false) = true := by decide +kernel

theorem witness_TeamsRestore_header :
    (match (readFrame (restoring 0) 0 0 1).2 with
      | .ok (h, _) => headerOk (restoring 0) 0 h && !headerOk (restoring 5) 0 h
      | .error _ => false) = true := by decide +kernel

/-! ### Moves and bundles -/

theorem witness_MovesAsSteps_holds :
    Holds State.reset 0 0x00 (.narrow 0) ∧ Holds State.reset 0 0x7F (.narrow 0) ∧ Holds State.reset 0 0x94 (.narrow 0) ∧
    Holds State.reset 0 0x84 (.wide 0) ∧ Holds State.reset 0 0xCF (.narrow 0) := by
  refine ⟨?_, ?_, ?_, ?_, ?_⟩ <;> unfold Holds <;> dsimp only <;> decide +kernel

theorem witness_MovesAsSteps_ports :
    Holds State.reset 0 0xD5 (.narrow 0) ∧
    Holds State.reset 0 0xD8 (.narrow 1) ∧ Holds State.reset 0 0xDE (.narrow 0) ∧ Holds State.reset 0 0xE0 (.wide 0) ∧
    Holds State.reset 0 0x1FF (.narrow 0) ∧ Holds (core0 (fun x => { x with mode := .priv })) 0 0xDC (.narrow 0) := by
  refine ⟨?_, ?_, ?_, ?_, ?_, ?_⟩ <;> unfold Holds <;> dsimp only <;> decide +kernel

theorem witness_MovesAsSteps :
    Plain 0 ∧ Plain 0x3F ∧ Plain 0x68 ∧ Plain 0x29F ∧ Plain 0x2AE ∧ Plain 0x3FF ∧
    mvLegal 7 (.reg 0x1FF) 0x3FF = true ∧ mvLegal 2 (.reg 0xFF) 0x29F = true ∧ mvLegal 3 (.reg 0xFF) 0x29F = false ∧
    mvLegal 1 (.reg 0xE0) 0x3F = false ∧ mvLegal 1 (.imm 5) 0x29F = false ∧ mvLegal 1 (.imm 5) 0x3F = true ∧
    (State.reset.core 0).privileged = false := by
  unfold Plain; decide +kernel

/-- G63 of core 0 is empty or poisoned. -/
def gAs (st : GSt) : State := core0 (fun x => { x with dup := x.dup.setG 63 ⟨9, st⟩ })

theorem witness_MovesAsSteps_full :
    (((gAs .empty).core 0).dup.greg 63).st = .empty ∧ (((gAs (.poison 8)).core 0).dup.greg (0x7F % 64)).st = .poison 8 ∧
    isTrig 0x0A0 = true ∧ (match runTrig State.reset 0 1 0x0A0 false (.narrow 5) with | .done _ => true | _ => false) = true ∧
    mvLegal 1 (.imm 5) 0x143 = true ∧ isTrig 0x143 = true ∧
    (match runTrig State.reset 0 1 0x143 false (.narrow 5) with | .trap _ => true | _ => false) = true := by decide +kernel

theorem witness_ConditionTrees :
    let x := (State.reset.core 0)
    fieldAt 0x182000 20 19 = 3 ∧ treeHeadOk 0x182000 = true ∧ treeOffsOk 0x182000 0x040000 = true ∧ testHolds x 0x182000 0 = true ∧
    testHolds x 0x180001 0 = false ∧ treeHeadOk 0x180001 = true ∧ fieldAt 0x180001 0 0 = 1 ∧ treeOffsOk 0x180001 0x04003F = true ∧
    testHolds x 0x1A0200 0 = false ∧ testHolds x 0x1A0200 1 = true ∧ treeHeadOk 0x1A0200 = true ∧
    treeOffsOk 0x180000 0x040000 = true ∧ fieldAt 0x180000 0 0 = 0 ∧ treeHeadOk 0x980000 = false ∧ treeHeadOk 0x1E0001 = false ∧
    treeOffsOk 0x180000 0x041000 = false := by decide +kernel

/-- A bundle of eight slots. -/
def bundle (ws : List Nat) : BitVec 192 := BitVec.ofNat 192 (packList 24 ws)
/-- Team 0 runs, with that bundle at index 0 of core 0. -/
def ready (ws : List Nat) (f : Core → Core) : State := teamed .running (fun x => f { x with imem := [(0, bundle ws)] })
/-- The state in which the bundle at index 0 of core 0 is judged, and what it meets. -/
def judged (s : State) (ws : List Nat) : State := passInIssue (inPulse s 0) 0 (bundle ws)
def meets0 (s : State) (ws : List Nat) : List Res := meetAll (judged s ws) 0 (look (judged s ws) 0 (bundle ws))
def traps0 (s : State) (ws : List Nat) : Option Trap := bundleTrap (judged s ws) 0 (look (judged s ws) 0 (bundle ws)) (meets0 s ws)
/-- The fetch of core 0 in the present pulse. -/
def fetch0 (s : State) : IFetch := fetchAt (inPulse s 0) 0
/-- A swap of G1 and G2. -/
def swap12 : List Nat := [0, moveWord 0 0 2 1, moveWord 0 0 1 2]
/-- A read of G3, which may be empty. -/
def read3 : List Nat := [0, moveWord 0 0 3 1]
def empty3 (x : Core) : Core := { x with dup := x.dup.setG 3 ⟨0, .empty⟩ }
/-- A wide source and a narrow destination. -/
def badMove : List Nat := [0, moveWord 0 0 0xE0 1]

theorem witness_BundlesIssue :
    ((ready swap12 id).core 0).run = .running ∧ ((ready swap12 id).core 0).team.isSome = true ∧ (ready swap12 id).pow.tripped = false ∧
    (State.reset.core 0).run ≠ .running ∧ fetch0 (ready swap12 (fun x => { x with half0 := ⟨some 0, false, true, false⟩ })) = .wait ∧
    fetch0 (ready swap12 (fun x => { x with pc := 1 })) = .bad ⟨0x0B, 0xFF, 0, 0, 2 ^ 52 + 192, some eFetchrange⟩ ∧
    (cdDone ((ready swap12 id).core 0) && !isShielded ((ready swap12 id).core 0)) = false ∧
    fetch0 (ready swap12 id) = .ok (bundle swap12) ∧ traps0 (ready swap12 id) swap12 = none ∧ meets0 (ready swap12 id) swap12 = [] ∧
    traps0 (ready badMove id) badMove = some (trapIllegal 1) ∧ fetch0 (ready badMove id) = .ok (bundle badMove) ∧
    traps0 (ready read3 empty3) read3 = none ∧ meets0 (ready read3 empty3) read3 = [.stall] ∧
    fetch0 (ready read3 empty3) = .ok (bundle read3) ∧ mayIssue (beginPulse (ready swap12 id)) 0 = true ∧
    mayIssue (beginPulse (ready badMove id)) 0 = true ∧ mayIssue (beginPulse (ready read3 empty3)) 0 = true ∧
    (ready swap12 id).pow.todo = none ∧ (inPulse (ready swap12 id) 0).pow.todo = some [] ∧
    fetch0 (ready swap12 (fun x => { x with imemBad := [0] })) = .ecc := by decide +kernel

theorem witness_BundlesIssue_issued :
    let y := judged (ready swap12 id) swap12
    let l := look y 0 (bundle swap12)
    (match applyAll 0 (y.core 0).dup.g (bundleOps (withPorts y 0 l.effs) 0 l) (withPorts y 0 l.effs) with
      | .done _ => true
      | _ => false) = true := by decide +kernel

theorem witness_MovesTakeEffectTogether :
    let z := inPulse (ready swap12 id) 0
    let l := look z 0 (bundle swap12)
    (z.core 0).due = [] ∧ (z.core 0).dup.loops = [] ∧ (z.core 0).sel = none ∧ bundleTrap z 0 l (meetAll z 0 l) = none ∧ meetAll z 0 l = [] ∧
    l.leaf.2 = none ∧ l.beat = .mxNop 0 ∧ (l.effs.all (fun e => decide (e.dst < 0x40) && e.stream.isNone)) = true ∧
    l.effs.map (·.dst) = [1, 2] ∧ (l.effs.map (·.dst)).Nodup := by decide +kernel

/-- R138: a swap of two registers in one bundle. -/
theorem test_swap : (match exec (.bundleIssue 0) (ready swap12 (fun x => { x with dup := (x.dup.writeG 1 7).writeG 2 9 })) with
    | .next s => (((s.core 0).dup.greg 1).val, ((s.core 0).dup.greg 2).val, (s.core 0).pc)
    | _ => (0, 0, 0)) = (9, 7, 1) := by decide +kernel

theorem witness_Fetches :
    (imgOf (ready swap12 id) 0).nseg < 2 ∧ ((ready swap12 id).core 0).half0.installed = true ∧
    ((ready swap12 id).core 0).pc.toNat ≤ (segEntry (imgOf (ready swap12 id) 0) 0).2 ∧
    ((ready swap12 id).core 0).imemBad.contains 0 = false ∧ 2 ≤ (imgOf (segmented id) 0).nseg ∧
    ((segmented (fun x => { x with half1 := ⟨some 3, true, false, false⟩, pc := 2147 })).core 0).half (2147 / 2048) =
      ⟨some 3, true, false, false⟩ ∧ 2147 % 2048 ≤ (segEntry (imgOf (segmented id) 0) 3).2 ∧
    ((ready swap12 (fun x => { x with imemBad := [0] })).core 0).imemBad.contains 0 = true ∧
    (segEntry (imgOf (ready swap12 id) 0) 0).2 < ((ready swap12 (fun x => { x with pc := 1 })).core 0).pc.toNat ∧
    ((segmented (fun x => { x with half0 := ⟨none, false, false, false⟩ })).core 0).half 0 = ⟨none, false, false, false⟩ ∧
    (imgOf (segmented (fun x => { x with half0 := ⟨some 200, false, false, false⟩ })) 0).nseg ≤ 200 := by decide +kernel

/-- Core 0 with a passed deadline of its load, before a bundle that issues or one that waits for G3. -/
def passed (ws : List Nat) : State :=
  windowed (ready ws (fun x => { (empty3 x) with accs := [sentAcc (.rld 9)], nextId := 1, cyc := 9, due := [⟨9, rPush, 0, .rld 0⟩] }))

theorem witness_AnswersAtSource_deadline :
    ((passed swap12).core 0).due = [⟨9, rPush, 0, .rld 0⟩] ∧ fetchAt (passed swap12) 0 = .ok (bundle swap12) ∧
    stallsAt (passed swap12) 0 (bundle swap12) = false ∧ fetchAt (passed read3) 0 = .ok (bundle read3) ∧
    stallsAt (passed read3) 0 (bundle read3) = true ∧ findAcc ((passed read3).core 0) 0 = some (sentAcc (.rld 9)) ∧
    taggedAcc ((passed read3).core 0) 0 = some (sentAcc (.rld 9)) := by decide +kernel

/-! ### The package -/

def img0 (v : Nat) : FwImage := ⟨true, v, [], []⟩

theorem witness_ResetsAndPorts :
    { State.reset with firm := { Firm.init with recovery := true } }.firm.recovery = true ∧ State.reset.firm.recovery = false ∧
    (img0 0).version < 1 ∧ (⟨false, 0, [], []⟩ : FwImage).root = false ∧ (img0 0).sig.length ≠ 2820 := by decide

/-- Port 0 is up, HL_CTL ready is set, and a P2P range is the 64 bytes from 2^21. -/
def hosted (up ready cxl : Bool) : State :=
  let s := mapped State.reset
  { s with
    firm := { s.firm with up := up }
    hl := { s.hl with ready := ready, port := [(0, { HPort.init with up := true, cxl := cxl })], p2p := [(0, 2 ^ 24), (1, 2 ^ 24 + 512)] } }
def hostAt (wr : Bool) (off len : Nat) : HostAcc := ⟨0, wr, off, len, 0xAB⟩

theorem witness_ConfigAndRegisters :
    (portOf' (hosted false false false) 0).up = true ∧ (hosted false false false).firm.up = false ∧ (hosted true true false).firm.up = true ∧
    (hostAt false (2 ^ 26 - 8) 8).off + 8 ≤ 2 ^ 26 ∧ (hosted true true false).hl.ready = true ∧
    (devRead (hosted true true false) (0xE0000000000000 + 8 * 0x120000)).2 = none ∧ 2 ^ 26 < (hostAt false (2 ^ 26 - 7) 8).off + 8 := by
  decide +kernel

/-- How the parts of a host access come out. -/
def partsAt (s : State) (off len : Nat) : Bool :=
  match (hostParts s s.hl.ctx (2 ^ 52 + 8 * off) (8 * len) 0 (sectors (2 ^ 52 + 8 * off) (8 * len))).2 with
  | .inl _ => true
  | .inr _ => false

/-- Every park slot of MTU 1 is taken. -/
def slotless (s : State) : State :=
  { s with xl := { s.xl with parks := List.replicate 16384 ⟨1, none, .elog, 0, 0, gHost, 0, 1, 0, 0⟩ } }

theorem witness_HostMemory :
    (portOf' (hosted true true true) 0).cxl = true ∧ (portOf' (hosted true true false) 0).cxl = false ∧
    partsAt (hosted true true true) 0 8 = true ∧ partsAt (hosted true true true) 65536 8 = false ∧
    (hostParts (hosted true true true) 0 (2 ^ 52) 64 1 (sectors (2 ^ 52) 64)).2 = .inl [(2 ^ 24, 2 ^ 52, 64)] ∧
    (hostParts (hosted true true true) 0 (2 ^ 52) 64 1 (sectors (2 ^ 52) 64)).1.hbmBad = [] ∧
    landHost (hosted true true true) = hosted true true true ∧
    inP2p (hosted true true true) (8 * (2 ^ 21 + 56)) 64 = true ∧ inP2p (hosted true true true) (8 * (2 ^ 21 + 57)) 64 = false ∧
    (2 ^ 39 - 8) + 8 ≤ 2 ^ 39 := by decide +kernel

theorem witness_HostMemory_waits :
    (hostParts (slotless (hosted true true true)) 0 (2 ^ 52 + 2 ^ 19) 64 0 (sectors (2 ^ 52 + 2 ^ 19) 64)).2 = .inr none := by
  decide +kernel

/-- The power controller at 10 ms, with one sample of `w` W. -/
def powered (w : Nat) (f : Power → Power) : State :=
  { State.reset with fe := { FrontEnd.init with time := 10000000 }, pow := f { Power.init with samples := [w] } }

theorem witness_PowerControl :
    (powered 0 id).pow.sampled.toNat + 1000 ≤ (powered 0 id).fe.time.toNat ∧ isAboveCap (powered 2401 id) = true ∧
    isAboveCap (powered 2400 id) = false ∧ isBelowCap (powered 2349 id) = true ∧ isBelowCap (powered 2350 id) = false ∧
    (powered 0 id).pow.lastUp.toNat + 10000 ≤ 10000000 ∧ (powered 0 id).pow.hot = none ∧ ttrip State.reset = 115 ∧
    tthrot State.reset = 100 ∧ (State.reset.fe.time.toNat < State.reset.pow.sampled.toNat + 1000) ∧
    (powered 0 (fun p => { p with hot := some 0 })).pow.hot = some 0 ∧ (powered 0 id).pow.tripped = false ∧
    ((powered 0 id).setDie 3 { Disp.init with temp := 101 }).fe.time = 10000000 := by decide +kernel

theorem witness_NotifyGate :
    State.reset.sync.gated = false ∧ State.reset.cores = [] ∧
    { State.reset with sync := { Sync.init with gated := true, capq := [(65535, 7)] } }.sync.capq = [(65535, 7)] ∧
    { State.reset with sync := { Sync.init with gated := true } }.sync.merge = [] ∧
    { State.reset with sync := { Sync.init with gated := true, merge := [65535] } }.sync.merge = 65535 :: [] ∧
    (notifyOf State.reset 65535).cnt ≤ 16383 := by decide

theorem witness_ClocksAdvance :
    { State.reset with pow := { Power.init with tripped := true } }.pow.tripped = true ∧ State.reset.cores = [] ∧
    State.reset.pow.tripped = false ∧ State.reset.fab.flights = [] ∧ State.reset.fab.remote = [] ∧
    State.reset.hl.late = [] ∧ State.reset.pow.todo = none ∧ State.reset.firm.mgmtHeld = true ∧ mustBoot State.reset = true ∧ mustBoot { State.reset with firm := { Firm.init with up := true } } = false := by decide

theorem witness_LaunchWeights : (2 ^ 63 / 3 + 1) + (2 ^ 63 / 3 + 1) + 2 ^ 63 / 3 = 2 ^ 63 := by decide

/-- R368: 65,535 arrivals of one at a need of 2 from generation 65,535. -/
theorem test_barrier : arriveAt ⟨65535, 2, 1⟩ 65535 = ⟨(65535 + 65536 / 2) % 65536, 2, 0⟩ := by decide +kernel

theorem witness_BarrierArrivals :
    0 < Barrier.init.need ∧ agentRuns State.reset (.host 3) = true ∧ Barrier.init.gen < 65536 ∧
    (let s := owned id (regHolding .hbar 4095)
     findAcc (s.core 0) 0 = some (regAcc .hbar 4095) ∧ blocked s 0 (regAcc .hbar 4095) = false ∧ (regAcc .hbar 4095).got = [] ∧
     (regAcc .hbar 4095).iss + 2 ≤ (s.core 0).cyc ∧ (regAcc .hbar 4095).parked = [] ∧ (regAcc .hbar 4095).dead = false ∧ barOwned s 4095 0 = true ∧ (s.core 0).team = some 0) ∧
    Reaches (owned id (windowed State.reset)) { inPkt kBar with addr := 2 ^ 52 + 4095 } kBar ∧
    barOwned (owned id (windowed State.reset)) (bits (2 ^ 52 + 4095) 11 0) 0 = true := by
  unfold Reaches; decide +kernel

theorem witness_StepKeepsMemoryCanonical : MemoryOk (mapped State.reset) ∧
    (match step { mapped State.reset with turns := [.nano] } with | .next _ => true | _ => false) = true := by
  unfold MemoryOk
  constructor
  · decide
  · rfl

end Sys2Proof.Tests
end

section
/-!
PROOFS. Stores addressed by bit: what a read of bits returns after a write of bits, once for memory and the scratchpad (O13).
-/
namespace Sys2Proof.Proofs

open Sys2Proof.Machine Sys2Proof.Laws

/-! ### Stores addressed by bit (R7, R38, R39)

Memory and the scratchpad hold bits in units of `w` bits (bytes and 64-bit words). The facts about bit ranges are proved
once, for a function `get` from unit numbers to the values of units. -/

/-- Bit `a` of a store whose unit `k` of `w` bits has the value `get k` (R7). -/
def storeBit (get : Nat → Nat) (w a : Nat) : Bool := (get (a / w)).testBit (a % w)

/-- The `n` bits from bit `p` of a store. -/
def storeBits (get : Nat → Nat) (w p n : Nat) : Nat :=
  gather get w (p / w) ((p % w + n + (w - 1)) / w) >>> (p % w) % 2 ^ n

/-- `get'` is `get` with the `k` units from unit `first` replaced by those of `x`, low unit first. -/
def UnitsPut (get get' : Nat → Nat) (w first k x : Nat) : Prop :=
  ∀ b, get' b = if first ≤ b ∧ b < first + k then x / 2 ^ (w * (b - first)) % 2 ^ w else get b

/-- `get'` is `get` with the `n` bits from bit `p` replaced by the low bits of `v`. -/
def BitsPut (get get' : Nat → Nat) (w p n v : Nat) : Prop :=
  UnitsPut get get' w (p / w) ((p % w + n + (w - 1)) / w)
    (putBits (gather get w (p / w) ((p % w + n + (w - 1)) / w)) (p % w) n v)

theorem testBit_putBits (x lo len v i : Nat) :
    (putBits x lo len v).testBit i = if lo ≤ i ∧ i < lo + len then v.testBit (i - lo) else x.testBit i := by
  have hlow : x % 2 ^ lo < 2 ^ lo := Nat.mod_lt _ (Nat.two_pow_pos lo)
  have hsplit : putBits x lo len v = 2 ^ lo * (2 ^ len * (x >>> (lo + len)) + v % 2 ^ len) + x % 2 ^ lo := by
    simp only [putBits, Nat.shiftLeft_eq, pow_add]; ring
  rw [hsplit, Nat.testBit_two_pow_mul_add _ hlow,
    Nat.testBit_two_pow_mul_add _ (Nat.mod_lt _ (Nat.two_pow_pos len)), Nat.testBit_mod_two_pow,
    Nat.testBit_mod_two_pow, Nat.testBit_shiftRight]
  by_cases h1 : i < lo
  · simp [h1, Nat.not_le.mpr h1]
  · by_cases h2 : i - lo < len
    · simp [h1, h2, Nat.not_lt.mp h1, show i < lo + len by omega]
    · simp [h1, h2, show ¬ i < lo + len by omega, show lo + len + (i - lo - len) = i by omega]

theorem testBit_gather (get : Nat → Nat) (w first n i : Nat) (hw : 0 < w) :
    (gather get w first n).testBit i = (decide (i < w * n) && storeBit get w (w * first + i)) := by
  induction n generalizing first i with
  | zero => simp [gather]
  | succ n ih =>
    rw [gather, Nat.add_comm, Nat.shiftLeft_eq, Nat.mul_comm,
      Nat.testBit_two_pow_mul_add _ (Nat.mod_lt _ (Nat.two_pow_pos w)), Nat.testBit_mod_two_pow, ih]
    by_cases h : i < w
    · have hin : i < w * (n + 1) := by rw [Nat.mul_succ]; omega
      simp [h, hin, storeBit, Nat.mul_add_div hw, Nat.div_eq_of_lt h, Nat.mod_eq_of_lt h]
    · have haddr : w * (first + 1) + (i - w) = w * first + i := by rw [Nat.mul_succ]; omega
      have hin : i - w < w * n ↔ i < w * (n + 1) := by rw [Nat.mul_succ]; omega
      simp only [if_neg h, haddr, hin]

/-- The units that an access of `n` bits at `p` takes hold all its bits. -/
theorem access_fits (w p n : Nat) (hw : 0 < w) : p % w + n ≤ w * ((p % w + n + (w - 1)) / w) := by
  have := Nat.lt_mul_div_succ (p % w + n + (w - 1)) hw
  rw [Nat.mul_succ] at this
  omega

theorem testBit_storeBits (get : Nat → Nat) (w p n i : Nat) (hw : 0 < w) :
    (storeBits get w p n).testBit i = (decide (i < n) && storeBit get w (p + i)) := by
  have hfit := access_fits w p n hw
  have haddr : w * (p / w) + (p % w + i) = p + i := by rw [← Nat.add_assoc, Nat.div_add_mod]
  rw [storeBits, Nat.testBit_mod_two_pow, Nat.testBit_shiftRight, testBit_gather get w _ _ _ hw, haddr]
  by_cases h : i < n
  · simp [h, show p % w + i < w * ((p % w + n + (w - 1)) / w) by omega]
  · simp [h]

/-- A bit after units are put: the bit of the value in those units, and what stood there anywhere else. -/
theorem UnitsPut.storeBit_eq {get get' : Nat → Nat} {w first k x : Nat} (h : UnitsPut get get' w first k x) (hw : 0 < w) (a : Nat) :
    storeBit get' w a =
      if w * first ≤ a ∧ a < w * first + w * k then x.testBit (a - w * first) else storeBit get w a := by
  have hin : (w * first ≤ a ∧ a < w * first + w * k) ↔ first ≤ a / w ∧ a / w < first + k := by
    rw [← Nat.mul_add, Nat.le_div_iff_mul_le hw, Nat.div_lt_iff_lt_mul hw, Nat.mul_comm first, Nat.mul_comm (first + k)]
  unfold storeBit
  rw [h (a / w)]
  by_cases hb : first ≤ a / w ∧ a / w < first + k
  · have hidx : w * (a / w - first) + a % w = a - w * first := by
      have := Nat.div_add_mod a w
      have := Nat.mul_le_mul_left w hb.1
      rw [Nat.mul_sub]; omega
    rw [if_pos hb, if_pos (hin.mpr hb), Nat.testBit_mod_two_pow, Nat.testBit_div_two_pow, Nat.add_comm, hidx]
    simp [Nat.mod_lt a hw]
  · rw [if_neg hb, if_neg (mt hin.mp hb)]

/-- A bit after bits are put: the bit of the value in the range written, and what stood there anywhere else. -/
theorem BitsPut.storeBit_eq {get get' : Nat → Nat} {w p n v : Nat} (h : BitsPut get get' w p n v) (hw : 0 < w) (a : Nat) :
    storeBit get' w a = if p ≤ a ∧ a < p + n then v.testBit (a - p) else storeBit get w a := by
  have hfit := access_fits w p n hw
  have hp := Nat.div_add_mod p w
  rw [UnitsPut.storeBit_eq h hw]
  generalize (p % w + n + (w - 1)) / w = k at hfit ⊢
  by_cases hin : w * (p / w) ≤ a ∧ a < w * (p / w) + w * k
  · have haddr : w * (p / w) + (a - w * (p / w)) = a := by omega
    rw [if_pos hin, testBit_putBits, testBit_gather get w _ _ _ hw, haddr]
    by_cases ha : p ≤ a ∧ a < p + n
    · rw [if_pos ha, if_pos (by omega)]; congr 1; omega
    · rw [if_neg ha, if_neg (by omega)]
      simp [show a - w * (p / w) < w * k by omega]
  · rw [if_neg hin, if_neg (by omega)]

theorem BitsPut.storeBits_self {get get' : Nat → Nat} {w p n v : Nat} (h : BitsPut get get' w p n v) (hw : 0 < w) :
    storeBits get' w p n = v % 2 ^ n := by
  refine Nat.eq_of_testBit_eq fun i => ?_
  rw [testBit_storeBits _ _ _ _ _ hw, h.storeBit_eq hw, Nat.testBit_mod_two_pow]
  by_cases hi : i < n <;> simp [hi]

theorem BitsPut.storeBits_disjoint {get get' : Nat → Nat} {w p n v : Nat} (h : BitsPut get get' w p n v) (hw : 0 < w)
    {q k : Nat} (hd : q + k ≤ p ∨ p + n ≤ q) : storeBits get' w q k = storeBits get w q k := by
  refine Nat.eq_of_testBit_eq fun i => ?_
  rw [testBit_storeBits _ _ _ _ _ hw, testBit_storeBits _ _ _ _ _ hw, h.storeBit_eq hw]
  by_cases hi : i < k
  · rw [if_neg (by omega)]
  · simp [hi]

/-! ### Memory and the scratchpad as stores (R109, R190) -/

theorem hbmBits_eq_storeBits (m : List Host.Cell) (p n : Nat) :
    hbmBits m p n = storeBits (fun b => (readByte m b).toNat) 8 p n := rfl

theorem spadGet_eq_storeBits (m : Tab Word) (o n : Nat) :
    spadGet m o n = storeBits (fun k => (Tab.get 0 m k).toNat) 64 o n := rfl

theorem unitsPut_writeBytes (b x n : Nat) (m : List Host.Cell) :
    UnitsPut (fun c => (readByte m c).toNat) (fun c => (readByte (writeBytes b x n m) c).toNat) 8 b n x := by
  intro c
  dsimp only
  by_cases hc : b ≤ c ∧ c < b + n
  · rw [if_pos hc]
    obtain ⟨k, rfl⟩ := Nat.exists_eq_add_of_le hc.1
    rw [readByte_writeBytes n b x m k (by omega), BitVec.toNat_ofNat, Nat.add_sub_cancel_left, pow_mul]
    rfl
  · rw [if_neg hc, readByte_writeBytes_ne n b x m c (by omega)]

theorem tab_get_spadWords (k x n : Nat) (m : Tab Word) (j : Nat) :
    Tab.get 0 (spadWords k x n m) j = if k ≤ j ∧ j < k + n then wordN (x / 2 ^ (64 * (j - k))) else Tab.get 0 m j := by
  induction n generalizing k x m with
  | zero => rw [if_neg (by omega)]; rfl
  | succ n ih =>
    rw [spadWords, ih, tab_get_set]
    by_cases hj : j = k
    · subst hj; simp
    · by_cases hin : k + 1 ≤ j ∧ j < k + 1 + n
      · rw [if_pos hin, if_pos (by omega), Nat.div_div_eq_div_mul, ← pow_add]
        congr 3; omega
      · rw [if_neg hin, if_neg hj, if_neg (by omega)]

theorem unitsPut_spadWords (k x n : Nat) (m : Tab Word) :
    UnitsPut (fun j => (Tab.get 0 m j).toNat) (fun j => (Tab.get 0 (spadWords k x n m) j).toNat) 64 k n x := by
  intro j
  dsimp only
  rw [tab_get_spadWords, apply_ite BitVec.toNat, wordN, BitVec.toNat_ofNat]

theorem bitsPut_hbmPut (m : List Host.Cell) (p n v : Nat) :
    BitsPut (fun b => (readByte m b).toNat) (fun b => (readByte (hbmPut m p n v) b).toNat) 8 p n v :=
  unitsPut_writeBytes _ _ _ m

theorem hbmBits_hbmPut_self (m : List Host.Cell) (p n v : Nat) : hbmBits (hbmPut m p n v) p n = v % 2 ^ n := by
  rw [hbmBits_eq_storeBits]
  exact (bitsPut_hbmPut m p n v).storeBits_self (by decide)

theorem hbmBits_hbmPut_disjoint (m : List Host.Cell) (p n v q k : Nat) (hd : q + k ≤ p ∨ p + n ≤ q) :
    hbmBits (hbmPut m p n v) q k = hbmBits m q k := by
  rw [hbmBits_eq_storeBits, hbmBits_eq_storeBits]
  exact (bitsPut_hbmPut m p n v).storeBits_disjoint (by decide) hd

/-- A write to a scratchpad without uncorrectable words writes its words and clears none (R192). -/
theorem spadPut_nil (m : Tab Word) (o n v : Nat) :
    spadPut m [] o n v =
      (spadWords (o / 64) (putBits (gather (fun k => (Tab.get 0 m k).toNat) 64 (o / 64) ((o % 64 + n + 63) / 64)) (o % 64) n v)
        ((o % 64 + n + 63) / 64) m, [], []) := by
  have hnone : (spadTouch o n).filter (fun w => ([] : List Nat).contains w) = [] :=
    List.filter_eq_nil_iff.mpr fun w _ => by simp
  unfold spadPut
  rw [hnone]
  rfl

theorem bitsPut_spadPut (m : Tab Word) (o n v : Nat) :
    BitsPut (fun k => (Tab.get 0 m k).toNat) (fun k => (Tab.get 0 (spadPut m [] o n v).1 k).toNat) 64 o n v := by
  rw [spadPut_nil]
  exact unitsPut_spadWords _ _ _ m

theorem spadGet_spadPut_self (m : Tab Word) (o n v : Nat) : spadGet (spadPut m [] o n v).1 o n = v % 2 ^ n := by
  rw [spadGet_eq_storeBits]
  exact (bitsPut_spadPut m o n v).storeBits_self (by decide)

theorem spadGet_spadPut_disjoint (m : Tab Word) (o n v q k : Nat) (hd : q + k ≤ o ∨ o + n ≤ q) :
    spadGet (spadPut m [] o n v).1 q k = spadGet m q k := by
  rw [spadGet_eq_storeBits, spadGet_eq_storeBits]
  exact (bitsPut_spadPut m o n v).storeBits_disjoint (by decide) hd

/-- A store to a scratchpad without uncorrectable words logs nothing and changes the scratchpad alone (R192). -/
theorem spStore_of_noBad (s : State) (c o n v : Nat) (h : (s.core c).spadBad = []) :
    spStore s c o n v = s.setCore c { s.core c with spad := (spadPut (s.core c).spad [] o n v).1, spadBad := [] } := by
  unfold spStore
  dsimp only
  rw [h, spadPut_nil]
  rfl

theorem scratchpadBits : Stmt.ScratchpadBits := by
  intro s c o n v hbad u
  have hu : u = s.setCore c { s.core c with spad := (spadPut (s.core c).spad [] o n v).1, spadBad := [] } :=
    spStore_of_noBad s c o n v hbad
  have hspad : (u.core c).spad = (spadPut (s.core c).spad [] o n v).1 := by rw [hu, setCore_core_get, if_pos rfl]
  refine ⟨?_, fun p m hd => ?_, fun k hk => ?_, fun a => ?_⟩
  · rw [hspad, spadGet_spadPut_self]
  · rw [hspad, spadGet_spadPut_disjoint _ _ _ _ _ _ hd]
  · rw [hu, setCore_core_get, if_neg hk]
  · rw [hu, setCore_hbm]

theorem memoryBits : Stmt.MemoryBits := fun m p n v =>
  ⟨hbmBits_hbmPut_self m p n v, hbmBits_hbmPut_disjoint m p n v, wf_hbmPut m p n v⟩

/-- Settles O13: bytes and words are units of one store, where writing a range of bits replaces exactly those bits. -/
theorem storesOfBits : Obligations.StoresOfBits := ⟨scratchpadBits, memoryBits⟩

end Sys2Proof.Proofs
end

section
/-!
PROOFS. Device registers: where each lies, what a write of an address of region 14 answers, and firmware's writes of memory
(O37).
-/
namespace Sys2Proof.Proofs

open Sys2Proof.Machine Sys2Proof.Laws Sys2Proof.Stmt

/-! ### Rights and legal values (R8, R9) -/

theorem needs_ok {r : Bool} (h : r = true) (w : WRes) : needs r w = w := if_pos h

theorem needs_bad {r : Bool} (h : r = false) (w : WRes) : needs r w = .bad ePerm := by rw [needs, h]; rfl

theorem legal_ok {c : Bool} (h : c = true) (w : WRes) : legal c w = w := if_pos h

theorem legal_bad {c : Bool} (h : c = false) (w : WRes) : legal c w = .bad eResvwrite := by rw [legal, h]; rfl

theorem asRoot_iff (ag : Agent) : asRoot ag = true ↔ ag = .root := by cases ag <;> simp [asRoot]

theorem asRoot_eq_false {ag : Agent} (h : ag ≠ .root) : asRoot ag = false := by
  rw [← Bool.not_eq_true, asRoot_iff]; exact h

theorem needs_root {ag : Agent} (h : ag = .root) (w : WRes) : needs (asRoot ag) w = w := needs_ok ((asRoot_iff ag).mpr h) w

theorem agentRuns_of_not_firmware {ag : Agent} (s : State) (h : asFirmware ag = false) : agentRuns s ag = true := by
  cases ag with
  | mgmt k => cases h
  | root | host p | strand c k => rfl

/-! ### Where a register lies (R43, R58) -/

/-- The word of region 14 at which a register lies. -/
def devWord : Dev → Nat
  | .widx q => q
  | .qd q k => 0x4000 + 8 * q + k
  | .fe k => 0x24000 + k
  | .store h j => 0x28000 + 128 * h + j
  | .dsp d k => 0x30000 + 0x400 * d + k
  | .mtu m k => 0x34000 + 0x400 * m + k
  | .xl k => 0x38000 + k
  | .fab k => 0x3C000 + k
  | .dom m => 0x40000 + m
  | .glob g k => 0x44000 + 4 * g + k
  | .xr k => 0x48000 + k
  | .notify n => 0x4C000 + n
  | .bar i k => 0x60000 + 2 * i + k
  | .nbCtx b => 0x64000 + b
  | .barCtx i => 0x64400 + i
  | .ntCtl => 0x65800
  | .hl k => 0x68000 + k
  | .pwr k => 0x6C000 + k

/-- The package has the register: its numbers are within the counts of R43 and R58. -/
abbrev DevFits : Dev → Prop
  | .widx q => q < 16384
  | .qd q k => q < 16384 ∧ k < 8
  | .fe k => k < 6
  | .store h j => h < 256 ∧ j < 128
  | .dsp d k => d < 4 ∧ k < 4
  | .mtu m k => m < 8 ∧ k < 4
  | .xl k => k < 9
  | .fab k => k < 5
  | .dom m => m < 1058
  | .glob g k => g < 768 ∧ k < 4
  | .xr k => k < 6 ∨ 8 ≤ k ∧ k < 24
  | .notify n => n < 65536
  | .bar i k => i < 4096 ∧ k < 2
  | .nbCtx b => b < 256
  | .barCtx i => i < 4096
  | .ntCtl => True
  | .hl k => k < 11
  | .pwr k => k < 3

/-- The word of a register finds it: the ranges of `devAt` before its own end below its word. -/
theorem devAt_devWord (r : Dev) (h : DevFits r) : devAt (devWord r) = some r := by
  cases r with
  | widx q => exact if_pos h
  | ntCtl => decide
  | qd q k | store j l | dsp d k | mtu m k | glob g k | bar i k =>
    simp only [DevFits, devWord] at h ⊢
    simp only [devAt, Bool.and_eq_true, Bool.or_eq_true, decide_eq_true_eq]
    repeat rw [if_neg (by omega)]
    rw [if_pos (by omega)]
    congr 2 <;> omega
  | fe k | xl k | fab k | dom m | xr k | notify n | nbCtx b | barCtx i | hl k | pwr k =>
    simp only [DevFits, devWord] at h ⊢
    simp only [devAt, Bool.and_eq_true, Bool.or_eq_true, decide_eq_true_eq]
    repeat rw [if_neg (by omega)]
    rw [if_pos (by omega), Nat.add_sub_cancel_left]

/-- No register lies past PWR_THERM's block (R58). -/
theorem devAt_none {n : Nat} (hn : 0x70000 ≤ n) : devAt n = none := by
  simp only [devAt, Bool.and_eq_true, Bool.or_eq_true, decide_eq_true_eq]
  repeat rw [if_neg (by omega)]

theorem devWord_lt (r : Dev) (h : DevFits r) : devWord r < 0x70000 := by
  cases r <;> simp only [devWord, DevFits] at h ⊢ <;> omega

/-! ### What a write of an address of region 14 answers -/

/-- Offset `off` of region 14. -/
theorem region_devBase {off : Nat} (ho : off < 2 ^ 52) : region (0xE0000000000000 + off) = 14 := by
  simp only [region, bits, Nat.shiftRight_eq_div_pow]
  omega

theorem isPhys_devBase (ag : Agent) (off : Nat) : isPhys ag (0xE0000000000000 + off) = false := by
  rw [isPhys, decide_eq_false (by omega), Bool.and_false]

section
variable {s t : State} {ag : Agent} {a code : Nat} {v : Word}

theorem gives_of_devWrite_ok (hr : agentRuns s ag = true) (hp : isPhys ag a = false) (hw : devWrite s ag a v = (t, none)) :
    Gives (.registerWrite ag a v) s t := by
  change Host.Outcome.next (agentWrite s ag a v) = .next t
  rw [agentWrite, hr, hp, hw]
  rfl

theorem gives_of_devWrite_bad (hr : agentRuns s ag = true) (hp : isPhys ag a = false) (hw : devWrite s ag a v = (s, some code)) :
    Gives (.registerWrite ag a v) s (logAgent s ag code a) := by
  change Host.Outcome.next (agentWrite s ag a v) = .next (logAgent s ag code a)
  rw [agentWrite, hr, hp, hw]
  rfl

theorem devWrite_devreg (ha : a % 64 ≠ 0 ∨ region a ≠ 14) : devWrite s ag a v = (s, some eDevreg) := by
  rw [devWrite, if_pos (by simpa using ha)]

variable {off : Nat}

theorem aligned_inRegion (ha : off % 64 = 0) (ho : off < 2 ^ 52) :
    ¬ (decide ((0xE0000000000000 + off) % 64 ≠ 0) || region (0xE0000000000000 + off) != 14) = true := by
  have hal : (0xE0000000000000 + off) % 64 = 0 := by omega
  simp [hal, region_devBase ho]

theorem devWrite_unmapped (ha : off % 64 = 0) (ho : off < 2 ^ 52) (hd : devAt (off / 64) = none) :
    devWrite s ag (0xE0000000000000 + off) v = (s, some eUnmapped) := by
  rw [devWrite, if_neg (aligned_inRegion ha ho), devBase, Nat.add_sub_cancel_left, hd]

variable {r : Dev}

theorem devWrite_ok (ha : off % 64 = 0) (ho : off < 2 ^ 52) (hd : devAt (off / 64) = some r) (hw : writeDev s ag r v = .ok t) :
    devWrite s ag (0xE0000000000000 + off) v = (t, none) := by
  rw [devWrite, if_neg (aligned_inRegion ha ho), devBase, Nat.add_sub_cancel_left, hd]
  simp only [hw]

theorem devWrite_bad (ha : off % 64 = 0) (ho : off < 2 ^ 52) (hd : devAt (off / 64) = some r) (hw : writeDev s ag r v = .bad code) :
    devWrite s ag (0xE0000000000000 + off) v = (s, some code) := by
  rw [devWrite, if_neg (aligned_inRegion ha ho), devBase, Nat.add_sub_cancel_left, hd]
  simp only [hw]

/-- The offset of a register is an aligned place in region 14, where `devAt` finds the register. -/
theorem devAt_offset (r : Dev) (hf : DevFits r) (ho : off = 64 * devWord r) :
    off % 64 = 0 ∧ off < 2 ^ 52 ∧ devAt (off / 64) = some r := by
  have hlt := devWord_lt r hf
  refine ⟨by omega, by omega, ?_⟩
  rw [ho, Nat.mul_div_cancel_left _ (by decide), devAt_devWord r hf]

/-- A write that its register accepts lands (R8, R9). -/
theorem gives_of_writeDev_ok (r : Dev) (hr : agentRuns s ag = true) (hf : DevFits r) (ho : off = 64 * devWord r)
    (hw : writeDev s ag r v = .ok t) : Gives (.registerWrite ag (0xE0000000000000 + off) v) s t := by
  obtain ⟨ha, hlt, hd⟩ := devAt_offset r hf ho
  exact gives_of_devWrite_ok hr (isPhys_devBase ag off) (devWrite_ok ha hlt hd hw)

/-- A write that its register does not accept is dropped with its record (R8, R9). -/
theorem gives_of_writeDev_bad (r : Dev) (hr : agentRuns s ag = true) (hf : DevFits r) (ho : off = 64 * devWord r)
    (hw : writeDev s ag r v = .bad code) :
    Gives (.registerWrite ag (0xE0000000000000 + off) v) s (logAgent s ag code (0xE0000000000000 + off)) := by
  obtain ⟨ha, hlt, hd⟩ := devAt_offset r hf ho
  exact gives_of_devWrite_bad hr (isPhys_devBase ag off) (devWrite_bad ha hlt hd hw)

theorem gives_devreg (hr : agentRuns s ag = true) (ho : off % 64 ≠ 0) :
    Gives (.registerWrite ag (0xE0000000000000 + off) v) s (logAgent s ag eDevreg (0xE0000000000000 + off)) :=
  gives_of_devWrite_bad hr (isPhys_devBase ag off) (devWrite_devreg (.inl (by omega)))

theorem gives_unmapped (hr : agentRuns s ag = true) (ha : off % 64 = 0) (ho : off < 2 ^ 52) (hd : devAt (off / 64) = none) :
    Gives (.registerWrite ag (0xE0000000000000 + off) v) s (logAgent s ag eUnmapped (0xE0000000000000 + off)) :=
  gives_of_devWrite_bad hr (isPhys_devBase ag off) (devWrite_unmapped ha ho hd)

end

/-! ### The registers one by one -/

theorem deviceRegisterWrites : Stmt.RegisterWrites := by
  intro s ag v hr wr bad
  refine ⟨?widx, ?param, ?paramBad, ?time, ?timeBad, ?elogBase, ?elogBaseBad, ?elogRp, ?dsp, ?fqbase, ?rp, ?root, ?nbCtx, ?cap,
    ?capBad, ?stat, ?misaligned, ?unmapped⟩
  case widx => exact fun q hq => gives_of_writeDev_ok (.widx q) hr hq rfl rfl
  case param =>
    exact fun q hq hv => gives_of_writeDev_ok (.qd q 2) hr ⟨hq, by decide⟩ (by simp only [devWord]; omega)
      (legal_ok (by simpa using hv) _)
  case paramBad =>
    exact fun q hq hv => gives_of_writeDev_bad (.qd q 2) hr ⟨hq, by decide⟩ (by simp only [devWord]; omega)
      (legal_bad (by simpa using hv) _)
  case time => exact fun hs => gives_of_writeDev_ok (.fe 0) hr (by decide) rfl (needs_ok hs _)
  case timeBad => exact fun hs => gives_of_writeDev_bad (.fe 0) hr (by decide) rfl (needs_bad hs _)
  case elogBase =>
    exact fun ha hv => gives_of_writeDev_ok (.fe 1) hr (by decide) rfl
      ((needs_root ha _).trans (legal_ok (by simpa using hv) _))
  case elogBaseBad => exact fun ha => gives_of_writeDev_bad (.fe 1) hr (by decide) rfl (needs_bad (asRoot_eq_false ha) _)
  case elogRp => exact gives_of_writeDev_ok (.fe 2) hr (by decide) rfl rfl
  case dsp =>
    intro d hd hs
    refine ⟨?_, ?_, ?_⟩
    · exact gives_of_writeDev_ok (.dsp d 0) hr ⟨hd, by decide⟩ (by simp only [devWord]; omega) (needs_ok hs _)
    · exact gives_of_writeDev_ok (.dsp d 1) hr ⟨hd, by decide⟩ (by simp only [devWord]; omega) (needs_ok hs _)
    · exact gives_of_writeDev_ok (.dsp d 2) hr ⟨hd, by decide⟩ (by simp only [devWord]; omega) (needs_ok hs _)
  case fqbase =>
    exact fun m hm ha hv => gives_of_writeDev_ok (.mtu m 0) hr ⟨hm, by decide⟩ (by simp only [devWord]; omega)
      ((needs_root ha _).trans (legal_ok (by simpa using hv) _))
  case rp =>
    exact fun m hm ha => gives_of_writeDev_ok (.mtu m 1) hr ⟨hm, by decide⟩ (by simp only [devWord]; omega) (needs_ok ha _)
  case root =>
    intro ha
    have hroot := needs_root ha
    refine ⟨?ctxbase, ?ctxbaseBad, ?framebase, ?id, ?ctl, ?dom, ?domBad, ?hlCtx, ?ready⟩
    case ctxbase =>
      exact fun hv => gives_of_writeDev_ok (.xl 0) hr (by decide) rfl ((hroot _).trans (legal_ok (by simpa using hv) _))
    case ctxbaseBad =>
      exact fun hv => gives_of_writeDev_bad (.xl 0) hr (by decide) rfl ((hroot _).trans (legal_bad (by simpa using hv) _))
    case framebase =>
      exact fun hv => gives_of_writeDev_ok (.xl 7) hr (by decide) rfl ((hroot _).trans (legal_ok (by simpa using hv) _))
    case id =>
      exact fun hd hm => gives_of_writeDev_ok (.fab 0) hr (by decide) rfl
        ((hroot _).trans (legal_ok (by simp [hd, hm]) _))
    case ctl =>
      exact fun hv => gives_of_writeDev_ok (.fab 1) hr (by decide) rfl ((hroot _).trans (legal_ok (by simpa using hv) _))
    case dom =>
      exact fun m hm hv => gives_of_writeDev_ok (.dom m) hr hm (by simp only [devWord]; omega)
        ((hroot _).trans (legal_ok (by simpa using hv) _))
    case domBad =>
      exact fun m hm hv => gives_of_writeDev_bad (.dom m) hr hm (by simp only [devWord]; omega)
        ((hroot _).trans (legal_bad (by simpa using hv) _))
    case hlCtx => exact gives_of_writeDev_ok (.hl 0) hr (by decide) rfl (hroot _)
    case ready => exact gives_of_writeDev_ok (.hl 1) hr (by decide) rfl (hroot _)
  case nbCtx =>
    exact fun b hb ha => gives_of_writeDev_ok (.nbCtx b) hr hb (by simp only [devWord]; omega)
      (needs_root ha _)
  case cap =>
    exact fun hs hlo hhi => gives_of_writeDev_ok (.pwr 0) hr (by decide) rfl
      ((needs_ok hs _).trans (legal_ok (by simp [hlo, hhi]) _))
  case capBad =>
    exact fun hs hv => gives_of_writeDev_bad (.pwr 0) hr (by decide) rfl
      ((needs_ok hs _).trans (legal_bad (by simp; omega) _))
  case stat => exact gives_of_writeDev_bad (.pwr 1) hr (by decide) rfl rfl
  case misaligned => exact fun off _ ha => gives_devreg hr ha
  case unmapped =>
    exact fun off hlo hhi ha => gives_unmapped hr ha hhi (devAt_none (by omega))

/-! ### Firmware and memory (R75, R77) -/

theorem isFrameLeaf_iff (w : Word) : isFrameLeaf w = true ↔ bits w.toNat 1 0 = 2 ∧ w.getLsbD 7 = true := by
  simp [isFrameLeaf, fld, flag]

/-- What management firmware may write: an entry on the walk of an unresolved fault record, where neither the value nor the entry
is a leaf with nf set (R75, R126). -/
def MayPage (s : State) (a : Nat) (v : Word) : Prop :=
  servicesFault s a = true ∧ ¬ (bits v.toNat 1 0 = 2 ∧ v.getLsbD 7 = true) ∧
    ¬ (bits ((physWord s a).getD 0).toNat 1 0 = 2 ∧ ((physWord s a).getD 0).getLsbD 7 = true)

/-- The test of `firmWrite`: root firmware writes anywhere, management firmware where it may page. -/
theorem mayFirmWrite_iff (s : State) (ag : Agent) (a : Nat) (v : Word) :
    (asRoot ag || (servicesFault s a && !isFrameLeaf v && !isFrameLeaf ((physWord s a).getD 0))) = true ↔
      ag = .root ∨ MayPage s a v := by
  rw [MayPage, Bool.or_eq_true, asRoot_iff, Bool.and_eq_true, Bool.and_eq_true, Bool.not_eq_true', Bool.not_eq_true',
    ← Bool.not_eq_true, ← Bool.not_eq_true, isFrameLeaf_iff, isFrameLeaf_iff, and_assoc]

section
variable {s : State} {ag : Agent} {a : Nat} {v : Word}

theorem firmWrite_misaligned (h : a % 64 ≠ 0) : firmWrite s ag a v = logAgent s ag eAlignment a := if_pos h

theorem firmWrite_lands (h : a % 64 = 0) (hmay : ag = .root ∨ MayPage s a v) : firmWrite s ag a v = physPut s a v := by
  rw [firmWrite, if_neg (not_not.mpr h), if_pos ((mayFirmWrite_iff s ag a v).mpr hmay)]

theorem firmWrite_refused (h : a % 64 = 0) (hroot : ag ≠ .root) (hmay : ¬ MayPage s a v) :
    firmWrite s ag a v = logAgent s ag ePerm a := by
  rw [firmWrite, if_neg (not_not.mpr h), if_neg (mt (mayFirmWrite_iff s ag a v).mp (not_or.mpr ⟨hroot, hmay⟩))]

theorem gives_firmWrite (hr : agentRuns s ag = true) (hf : asFirmware ag = true) (ha : a < 2 ^ 42) :
    Gives (.registerWrite ag a v) s (firmWrite s ag a v) := by
  have hp : isPhys ag a = true := by rw [isPhys, hf, decide_eq_true ha]; rfl
  change Host.Outcome.next (agentWrite s ag a v) = .next (firmWrite s ag a v)
  rw [agentWrite, hr, hp]
  rfl

end

theorem region_phys {a : Nat} (ha : a < 2 ^ 42) : region a = 0 := by
  rw [region, bits, Nat.shiftRight_eq_div_pow, Nat.div_eq_of_lt (by omega)]
  rfl

theorem firmwareWritesMemory : Stmt.FirmwareWritesMemory := by
  intro s ag a v frame mayPage
  refine ⟨fun hr => ?held, fun ha hr hf => ⟨fun hm => ?misaligned, fun hm hmay => ?lands, fun hm hroot hmay => ?refused⟩,
    fun ha hf => ?other⟩
  case held => exact congrArg Host.Outcome.next (agentWrite_held s ag a v hr)
  case misaligned => exact firmWrite_misaligned hm ▸ gives_firmWrite hr hf ha
  case lands => exact firmWrite_lands hm hmay ▸ gives_firmWrite hr hf ha
  case refused => exact firmWrite_refused hm hroot hmay ▸ gives_firmWrite hr hf ha
  case other =>
    have hp : isPhys ag a = false := by rw [isPhys, hf]; rfl
    exact gives_of_devWrite_bad (agentRuns_of_not_firmware s hf) hp (devWrite_devreg (.inr (by rw [region_phys ha]; decide)))

/-- Settles O37: the register at an address answers a write by its own rule, and firmware's writes of memory go by R75. -/
theorem registerWrites : Obligations.RegisterWrites := ⟨deviceRegisterWrites, firmwareWritesMemory⟩

end Sys2Proof.Proofs
end

section
/-!
PROOFS. The weights of a launch: what a checked launch begins with, and how 2^63 is shared among its initial teams (O58).
-/
namespace Sys2Proof.Proofs

open Sys2Proof.Machine

/-! ### What a checked launch begins with (R25, R91) -/

/-- Reading the input-stream table ends a launch's checks by refusing it or parking it, never by accepting it (R91). -/
theorem readStreams_error_ne_ok {s t : State} {k q : Nat} {x : Interp} {i : Img} {pin : Option (Nat × Nat)} {e : ERes} {r : Req}
    (h : readStreams s k q x i pin = .error e) : e ≠ .ok t r := by
  rintro rfl
  simp only [readStreams] at h
  split at h
  · cases h
  · split at h
    · cases h
    · split at h
      · cases h
      · cases h
      · split at h <;> cases h

/-- A launch that passes its checks is a new request with its image, its input streams, its root counter and E = 2^63. -/
theorem checkLaunch_ok {s t : State} {k q : Nat} {x : Interp} {r : Req} (h : checkLaunch s k q x = .ok t r) :
    ∃ i es dep, r = { newReq t q x 0 with img := i, ins := es, e := 2 ^ 63, counter := true, pinDep := dep } := by
  simp only [checkLaunch] at h
  split at h
  · cases h
  · split at h
    · cases h
    · split at h
      · cases h
      · cases h
      · split at h
        · cases h
        · split at h
          next hs => exact absurd h (readStreams_error_ne_ok hs)
          · split at h
            · cases h
            · cases h
              exact ⟨_, _, _, rfl⟩

/-! ### The shares of the initial teams (R25) -/

/-- Where every team gets `q` and the first `m` teams get one more, the first `n` teams hold `n * q`, and one more for each of
them that is among the first `m`. -/
theorem sum_map_range_share (q m n : Nat) :
    ((List.range n).map (fun j => q + if j < m then 1 else 0)).sum = n * q + min n m := by
  induction n with
  | zero => simp
  | succ n ih =>
    rw [List.sum_range_succ, ih, Nat.succ_mul]
    split <;> omega

theorem initialTeam_weight (r : Req) : (initialTeam r).weight = initialWeight (teamCount r) r.claimed := rfl

/-- The weights of `T` initial teams are together 2^63. -/
theorem sum_initialWeight {T : Nat} (hT : 0 < T) : ((List.range T).map (initialWeight T)).sum = 2 ^ 63 := by
  calc ((List.range T).map (initialWeight T)).sum
      = T * (2 ^ 63 / T) + min T (2 ^ 63 % T) := sum_map_range_share _ _ _
    _ = T * (2 ^ 63 / T) + 2 ^ 63 % T := by rw [Nat.min_eq_right (Nat.mod_lt _ hT).le]
    _ = 2 ^ 63 := Nat.div_add_mod _ _

/-- Settles O58: a checked launch has E = 2^63 and D = 0, and its initial teams share 2^63 with the remainder at the first of them. -/
theorem launchWeights : Obligations.LaunchWeights := by
  refine ⟨fun s t k q x r h => ?counters, initialTeam_weight, fun T hT => sum_initialWeight hT⟩
  case counters =>
    obtain ⟨i, es, dep, rfl⟩ := checkLaunch_ok h
    exact ⟨rfl, rfl⟩

end Sys2Proof.Proofs
end

section
/-!
PROOFS. Packets on their way: what sending a packet changes and in which form it leaves, and the arrival at a barrier whose
acknowledgement names no core (O32).
-/
namespace Sys2Proof.Proofs

open Sys2Proof.Machine Sys2Proof.Laws Sys2Proof.Stmt

/-! ### Routes and queues of ports (R296, R297) -/

/-- A choice changes no more than the next free value. -/
theorem choose_state {α : Type} (s : State) (l : List α) : ∃ n, (choose s l).1 = { s with fresh := n } := by
  unfold choose
  split <;> exact ⟨_, rfl⟩

theorem chooseGate_state (s : State) (p : Packet) : ∃ n, (chooseGate s p).1 = { s with fresh := n } := by
  unfold chooseGate
  extract_lets gs
  split
  · split
    · exact ⟨_, rfl⟩
    · exact choose_state s gs
  · exact ⟨_, rfl⟩

/-- A route changes no more than the next free value, and of the packet no more than what the choice of its path has fixed. -/
theorem routeOf_cases (s : State) (p : Packet) :
    ∃ n q v g, routeOf s p = ({ s with fresh := n }, q, { p with via := v, gate := g }) := by
  have hvia : ∃ v, (if p.via = some (fabMem s) then { p with via := none } else p) = { p with via := v } := by
    split <;> exact ⟨_, rfl⟩
  obtain ⟨v, hv⟩ := hvia
  unfold routeOf
  rw [hv]
  dsimp only
  split
  · exact ⟨_, _, _, _, rfl⟩
  · split
    · split
      · exact ⟨_, _, _, _, rfl⟩
      · obtain ⟨n, hn⟩ := choose_state s (ways s { p with via := none })
        rw [hn]
        split <;> exact ⟨_, _, _, _, rfl⟩
    · obtain ⟨n, hn⟩ := chooseGate_state s { p with via := v }
      rw [hn]
      exact ⟨_, _, _, _, rfl⟩

/-- A packet for another package joins the end of the packets that wait for a port, and nothing else changes but the next free
value. -/
theorem enqueue_cases (s : State) (p : Packet) :
    ∃ n q v g, enqueue s p =
      { s with fresh := n, fab := { s.fab with outq := s.fab.outq ++ [(q, { p with via := v, gate := g })] } } := by
  obtain ⟨n, q, v, g, h⟩ := routeOf_cases s p
  refine ⟨n, q, v, g, ?_⟩
  rw [enqueue, h]

/-! ### Sending an answer (R298, R300) -/

/-- The form in which an answer leaves: with its payload flits, and with source core 0 where its source is no core. -/
def answerForm (p : Packet) : Packet := { p with flits := flitsOf p, score := if p.nc then 0 else p.score }

theorem sendPacket_answer {s : State} {p : Packet} (hr : p.resp = true) :
    sendPacket s p = if fabOn s && toHere s p then { s with fab := { s.fab with loop := s.fab.loop ++ [answerForm p] } }
      else enqueue s (answerForm p) := by
  unfold sendPacket
  dsimp only
  rw [if_pos hr]
  rfl

/-- An answer of a package that has its address is on its way, and nothing but the fabric changes. -/
theorem sendPacket_answer_cases {s : State} {p : Packet} (hr : p.resp = true) (hon : fabOn s = true) :
    SentTo s (sendPacket s p) (answerForm p) ∧
      ∃ n f, sendPacket s p = { s with fresh := n, fab := f } := by
  rw [sendPacket_answer hr, hon, Bool.true_and]
  by_cases hh : toHere s p = true
  · rw [if_pos hh]
    exact ⟨.inl ⟨hh, rfl, rfl⟩, _, _, rfl⟩
  · obtain ⟨n, q, v, g, he⟩ := enqueue_cases s (answerForm p)
    rw [if_neg hh, he]
    exact ⟨.inr ⟨Bool.not_eq_true _ ▸ hh, rfl, q, _, rfl, rfl⟩, _, _, rfl⟩

/-- What `SentTo` reads of the state before. -/
theorem sentTo_of_queues {s t u : State} {p : Packet} (hid : t.fab.id = s.fab.id) (hloop : t.fab.loop = s.fab.loop)
    (hout : t.fab.outq = s.fab.outq) (h : SentTo t u p) : SentTo s u p := by
  have hhere : toHere t p = toHere s p := by rw [toHere, toHere, fabDom, fabMem, fabDom, fabMem, hid]
  rw [SentTo, hhere, hloop, hout] at h
  exact h

/-- One step sends one packet: two that have left by it name one source core. -/
theorem sentTo_score_eq {s u : State} {p q : Packet} (hp : SentTo s u p) (hq : SentTo s u q) : p.score = q.score := by
  obtain ⟨-, hlp, hop⟩ | ⟨-, hlp, _, y, hop, hy⟩ := hp <;> obtain ⟨-, hlq, hoq⟩ | ⟨-, hlq, _, z, hoq, hz⟩ := hq
  case inl.inl =>
    have heq : p = q := by simpa using hlp.symm.trans hlq
    rw [heq]
  case inl.inr => exact absurd (hlp.symm.trans hlq) (by simp)
  case inr.inl => exact absurd (hlp.symm.trans hlq) (by simp)
  case inr.inr =>
    have heq : y = z := (Prod.mk.inj (by simpa using hop.symm.trans hoq)).2
    calc p.score = y.score := by rw [hy]
      _ = z.score := by rw [heq]
      _ = q.score := by rw [hz]

/-! ### Requests that reach this package (R297, R302) -/

section
variable {s : State} {p : Packet} {op : Nat}

theorem arrive_of_reaches (h : Reaches s p op) : arrive s (.ext p) op = (s, some p) := by
  obtain ⟨hon, htier, hdom, hmem, hop⟩ := h
  have hhere : toHere s p = true := by simp [toHere, hdom, hmem]
  simp [arrive, hop, hon, htier, hhere]

theorem arriveReq_of_reaches (h : Reaches s p op) (ht : inTurn s p = true) :
    arriveReq s (.ext p) op = (passSeq s p, some p) := by
  simp only [arriveReq, arrive_of_reaches h, ht, if_true]

end

/-! ### Arrivals at a barrier (R310, R368) -/

theorem barrierOf_barrierArriveAt (s : State) (i u : Nat) :
    barrierOf (barrierArriveAt s i u).1 i = arriveAt (barrierOf s i) u :=
  tab_get_set_self _ _ _ _

section
variable {s : State} {p : Packet}

theorem gives_barrierArrival (h : Reaches s p kBar) (ht : inTurn s p = true) (ha : p.addr < 2 ^ 56)
    (hown : barOwned s (bits p.addr 11 0) p.tctx = true) :
    Gives (.barrierArrival (.ext p)) s
      (answer (barrierArriveAt (passSeq s p) (bits p.addr 11 0) (p.data.toNat % 2 ^ 16)).1 p kAck 0) := by
  have hown' : barOwned (passSeq s p) (bits p.addr 11 0) p.tctx = true := hown
  change execBarrierArrival (.ext p) s = _
  simp only [execBarrierArrival, arriveReq_of_reaches h ht, unlessMal, if_neg (Nat.not_le.mpr ha), barrierPacket, hown',
    Bool.not_true, Bool.false_eq_true, if_false]

/-- An arrival at a barrier of the request's context counts there and is acknowledged. The acknowledgement names the core of the
request, and source core 0 where the request has none (R300). -/
theorem barrierArrival_counts (h : Reaches s p kBar) (ht : inTurn s p = true) (ha : p.addr < 2 ^ 56)
    (hown : barOwned s (bits p.addr 11 0) p.tctx = true) :
    ∃ u, Gives (.barrierArrival (.ext p)) s u ∧
      barrierOf u (bits p.addr 11 0) = arriveAt (barrierOf s (bits p.addr 11 0)) (p.data.toNat % 2 ^ 16) ∧ SameMemory s u ∧
      SentTo s u (answerForm (answerOf s p kAck 0)) := by
  obtain ⟨hsent, n, f, hu⟩ := sendPacket_answer_cases (p := answerOf s p kAck 0)
    (s := (barrierArriveAt (passSeq s p) (bits p.addr 11 0) (p.data.toNat % 2 ^ 16)).1) rfl h.1
  refine ⟨_, gives_barrierArrival h ht ha hown, ?counts, ?memory, sentTo_of_queues rfl rfl rfl hsent⟩
  case counts =>
    change barrierOf (sendPacket _ (answerOf s p kAck 0)) _ = _
    rw [hu]
    exact barrierOf_barrierArriveAt (passSeq s p) _ _
  case memory =>
    intro a
    change readByte (sendPacket _ (answerOf s p kAck 0)).hbm a = _
    rw [hu]
    rfl

end

/-! ### An acknowledgement without a core -/

/-- The package (0, 0), whose barrier 0 belongs to context 0. -/
def barrierHome : State :=
  { State.reset with
    fab := { Fabric.init with id := 0x8000000000000000#64 }
    sync := { Sync.init with barCtx := [(0, 0x8000000000000000#64)] } }

/-- An arrival of weight 1 at barrier 0 from package (0, 1), of a source that is no core and yet names core 1. R300 has zero
there. -/
def corelessArrival : Packet := { Packet.blank with smem := 1, op := kBar, nc := true, score := 1, data := 1 }

/-- Refutes O32: a request that comes from no core (nc = 1) and names source core 1 all the same is acknowledged with source core 0,
where the statement has the acknowledgement carry the request's source core. -/
theorem not_flowPackets : ¬ Obligations.FlowPackets := by
  intro h
  have hreach : Reaches barrierHome corelessArrival kBar := by unfold Reaches; decide
  have hturn : inTurn barrierHome corelessArrival = true := by decide
  have haddr : corelessArrival.addr < 2 ^ 56 := by decide
  have hown : barOwned barrierHome (bits corelessArrival.addr 11 0) corelessArrival.tctx = true := by decide
  obtain ⟨u, hu, -, -, hclaim⟩ := (h barrierHome corelessArrival).1 hreach hturn haddr hown
  obtain ⟨v, hv, -, -, hsent⟩ := barrierArrival_counts hreach hturn haddr hown
  obtain rfl : u = v := Host.Outcome.next.inj (hu.symm.trans hv)
  exact absurd (sentTo_score_eq hclaim hsent) (by decide)

end Sys2Proof.Proofs
end

section
/-!
PROOFS. Words of Lerant bytecodes: a word of 32 bits is its four fields, every bytecode in range decodes from its word, and no two
words stand for one bytecode (O5); the words that the manual works out (O4).
-/
namespace Sys2Proof.Proofs

open Sys2Proof.Machine Sys2Proof.Stmt

/-! ### The fields of a word (R67) -/

/-- A word of 32 bits is the word of its four fields. -/
theorem lerantWord_fieldAt {w : Nat} (hw : w < 2 ^ 32) :
    lerantWord (fieldAt w 31 26) (fieldAt w 25 23) (fieldAt w 22 20) (fieldAt w 19 0) = w := by
  simp only [lerantWord, fieldAt]
  omega

@[simp] theorem fieldAt_lerantWord_op {op a b v : Nat} (hop : op < 64) (ha : a < 8) (hb : b < 8) (hv : v < 2 ^ 20) :
    fieldAt (lerantWord op a b v) 31 26 = op := by
  simp only [lerantWord, fieldAt]
  omega

@[simp] theorem fieldAt_lerantWord_a {op a b v : Nat} (ha : a < 8) (hb : b < 8) (hv : v < 2 ^ 20) :
    fieldAt (lerantWord op a b v) 25 23 = a := by
  simp only [lerantWord, fieldAt]
  omega

@[simp] theorem fieldAt_lerantWord_b {op a b v : Nat} (hb : b < 8) (hv : v < 2 ^ 20) :
    fieldAt (lerantWord op a b v) 22 20 = b := by
  simp only [lerantWord, fieldAt]
  omega

@[simp] theorem fieldAt_lerantWord_imm {op a b v : Nat} (hv : v < 2 ^ 20) : fieldAt (lerantWord op a b v) 19 0 = v := by
  simp only [lerantWord, fieldAt]
  omega

@[simp] theorem lerantWord_lt {op a b v : Nat} (hop : op < 64) (ha : a < 8) (hb : b < 8) (hv : v < 2 ^ 20) :
    lerantWord op a b v < 4294967296 := Laws.WordFits.lt_of_fields op a b v hop ha hb hv

theorem fieldAt_extImm {h l : Nat} (hh : h < 64) (hl : l < 64) :
    fieldAt (h * 64 + l) 11 6 = h ∧ fieldAt (h * 64 + l) 5 0 = l := by
  simp only [fieldAt]
  omega

theorem fieldAt_repImm {n k : Nat} (hn : n < 64) (hk : k < 32) :
    fieldAt (n * 256 + k) 13 8 = n ∧ fieldAt (n * 256 + k) 7 5 = 0 ∧ fieldAt (n * 256 + k) 4 0 = k := by
  simp only [fieldAt]
  omega

/-! ### From a bytecode to its word and back (R67) -/

theorem decodeLerant_encodeLerant {i : Instr} {w : Nat} (hwf : i.wf = true) (h : encodeLerant i = some w) :
    decodeLerant w = some i := by
  cases i with
  | lerantHalt | lerantMov a b | lerantAdd a b | lerantSub a b | lerantAnd a b | lerantOr a b | lerantTime a | ldi a v | shin a v
  | addi a v =>
    obtain rfl := Option.some.inj h
    simp (disch := omega) [decodeLerant]
  | emitLaunch | emitTransfer | emitPinControl | emitResynchronise | emitAttest | emitCommitMinVersion =>
    obtain rfl := Option.some.inj h
    simp (disch := omega) [decodeLerant, emitOf]
  | ldpk a v | bz a v | bnz a v | beq a b d | bltu a b d | ldsc a v | stsc a v | ldpa a v | setf a v | lerantRej v | lerantStop v =>
    obtain rfl := Option.some.inj h
    simp (disch := omega) [decodeLerant]
    omega
  | ext a b hi lo =>
    obtain rfl := Option.some.inj h
    have hle : lo.toNat ≤ hi.toNat := of_decide_eq_true hwf
    obtain ⟨hhi, hlo⟩ := fieldAt_extImm hi.isLt lo.isLt
    simp (disch := omega) [decodeLerant, hhi, hlo]
    omega
  | rep a n k =>
    obtain rfl := Option.some.inj h
    obtain ⟨hn, hz, hk⟩ := fieldAt_repImm n.isLt k.isLt
    simp (disch := omega) [decodeLerant, hn, hz, hk]
    omega
  | _ => cases h

/-- A word that holds a bytecode is one of 32 bits. -/
theorem lt_of_decodeLerant {i : Instr} {w : Nat} (h : decodeLerant w = some i) : w < 2 ^ 32 := by
  by_contra hw
  rw [decodeLerant, if_pos (Nat.not_lt.mp hw)] at h
  cases h

theorem hasWord_of_encodeLerant {i : Instr} (hwf : i.wf = true) (h : (encodeLerant i).isSome = true) : HasWord i := by
  obtain ⟨w, hw⟩ := Option.isSome_iff_exists.mp h
  have hd := decodeLerant_encodeLerant hwf hw
  exact ⟨w, lt_of_decodeLerant hd, hw, hd⟩

theorem lerantRoundTrip : Stmt.LerantRoundTrip := by
  refine fun a b k f n5 h l d u v => ⟨fun i hi hwf => hasWord_of_encodeLerant hwf ?_, fun i w => decodeLerant_encodeLerant⟩
  exact (List.all_eq_true (p := fun i => (encodeLerant i).isSome)).mp rfl i hi

theorem encodeLerant_emitOf {v : Nat} {i : Instr} (h : emitOf v = some i) :
    encodeLerant i = some (lerantWord 0x14 0 0 v) := by
  unfold emitOf at h
  split at h <;> cases h <;> rfl

/-- A word that decodes is the word of what it decodes to. The fields determine the word; an op code gives its bytecode where every
unused field is zero, and then the bytecode's word has the same fields. -/
theorem encodeLerant_decodeLerant {i : Instr} {w : Nat} (h : decodeLerant w = some i) : encodeLerant i = some w := by
  have hlt := lt_of_decodeLerant h
  have hword := lerantWord_fieldAt hlt
  have ha : fieldAt w 25 23 < 8 := Nat.mod_lt _ (by decide)
  have hb : fieldAt w 22 20 < 8 := Nat.mod_lt _ (by decide)
  have hv : fieldAt w 19 0 < 2 ^ 20 := Nat.mod_lt _ (by decide)
  unfold decodeLerant at h
  dsimp only at h
  rw [if_neg (Nat.not_le.mpr hlt)] at h
  generalize fieldAt w 31 26 = op, fieldAt w 25 23 = a, fieldAt w 22 20 = b, fieldAt w 19 0 = v at *
  subst hword
  split at h
  case h_21 =>
    simp only [Option.ite_none_right_eq_some, Bool.and_eq_true, beq_iff_eq] at h
    obtain ⟨⟨rfl, rfl⟩, hemit⟩ := h
    exact encodeLerant_emitOf hemit
  case h_25 => cases h
  all_goals
    simp only [Option.ite_none_right_eq_some, Option.some.injEq, Bool.and_eq_true, beq_iff_eq, decide_eq_true_eq] at h
    obtain ⟨hunused, rfl⟩ := h
    refine congrArg some ?_
    simp only [lerantWord, fieldAt, BitVec.toNat_ofNat] at hunused ⊢
    omega

theorem lerantWordsUnique : Stmt.LerantWordsUnique := fun _ _ => encodeLerant_decodeLerant

/-- Settles O5: a word is its four fields, and the op code says which of them a bytecode uses. -/
theorem lerantEncoding : Obligations.LerantEncoding := ⟨lerantRoundTrip, lerantWordsUnique⟩

/-- Settles O4: the decoders are run on the words. -/
theorem decodesWords : Obligations.DecodesWords :=
  ⟨by decide, by decide, by decide, by decide, by decide +kernel⟩

end Sys2Proof.Proofs
end

section
/-!
PROOFS. Queue descriptors: what a write of QD0, QD1 and QD3 answers, case by case (O38).
-/
namespace Sys2Proof.Proofs

open Sys2Proof.Machine Sys2Proof.Stmt

/-! ### The word of QD0 that a state write stores (R60, R62) -/

theorem toNat_setFld_state (v : Word) (n : Nat) : (setFld v 63 62 n).toNat = n % 4 * 2 ^ 62 + v.toNat % 2 ^ 62 := by
  simp only [setFld, putBits, BitVec.toNat_ofNat, Nat.shiftRight_eq_div_pow, Nat.shiftLeft_eq]
  omega

theorem fld_setFld_state (v : Word) {n : Nat} (hn : n < 4) : fld (setFld v 63 62 n) 63 62 = n := by
  simp only [fld, bits, toNat_setFld_state, Nat.shiftRight_eq_div_pow]
  omega

@[simp] theorem fld_setFld_lsize (v : Word) (n : Nat) : fld (setFld v 63 62 n) 61 57 = fld v 61 57 := by
  simp only [fld, bits, toNat_setFld_state, Nat.shiftRight_eq_div_pow]
  omega

@[simp] theorem fld_setFld_ring (v : Word) (n : Nat) : fld (setFld v 63 62 n) 55 0 = fld v 55 0 := by
  simp only [fld, bits, toNat_setFld_state, Nat.shiftRight_eq_div_pow]
  omega

/-- Queue `q` with the size and the ring that a write of QD0 gives it. -/
def withRing (s : State) (q : Nat) (v : Word) : Queue := { s.queue q with lsize := fld v 61 57, ring := fld v 55 0 }

theorem withRing_setFld (s : State) (q : Nat) (v : Word) (n : Nat) : withRing s q (setFld v 63 62 n) = withRing s q v := by
  rw [withRing, fld_setFld_lsize, fld_setFld_ring, withRing]

section
variable {s : State} {q : Nat} {v : Word}

/-! ### What a write of QD0 answers (R60, R62) -/

theorem legal_ring (hring : fld v 55 0 % 1024 = 0) (n : Nat) (w : WRes) :
    legal ((withRing s q (setFld v 63 62 n)).ring % 1024 == 0) w = w :=
  legal_ok (by simpa [withRing] using hring) w

theorem writeQd0_misaligned (hring : ¬ fld v 55 0 % 1024 = 0) (n : Nat) : writeQd0 s q (setFld v 63 62 n) = .bad eResvwrite :=
  legal_bad (by simpa using hring) _

theorem writeQd0_map (hst : (s.queue q).st = 0) (hring : fld v 55 0 % 1024 = 0) (hlsize : 4 ≤ fld v 61 57 ∧ fld v 61 57 ≤ 16)
    (hctx : (ctxValid s (s.queue q).ctx).2 = true) :
    writeQd0 s q (setFld v 63 62 1) = .ok (runQueue (ctxValid s (s.queue q).ctx).1 q (withRing s q v)) := by
  rw [← withRing_setFld s q v 1]
  refine (legal_ring hring 1 _).trans ?_
  rw [fld_setFld_state v (by decide)]
  dsimp only
  rw [if_pos hst]
  exact legal_ok (by simp [hst, hlsize, hctx]) _

theorem writeQd0_resume (h0 : (s.queue q).st ≠ 0) (h1 : (s.queue q).st ≠ 1) (hring : fld v 55 0 % 1024 = 0)
    (hlsize : 4 ≤ fld v 61 57 ∧ fld v 61 57 ≤ 16) :
    writeQd0 s q (setFld v 63 62 1) = .ok (runQueue s q (withRing s q v)) := by
  rw [← withRing_setFld s q v 1]
  refine (legal_ring hring 1 _).trans ?_
  rw [fld_setFld_state v (by decide)]
  dsimp only
  rw [if_neg h0]
  exact legal_ok (by simp [h1, hlsize]) _

theorem writeQd0_run_refused (hbad : (s.queue q).st = 1 ∨ ¬ (4 ≤ fld v 61 57 ∧ fld v 61 57 ≤ 16) ∨ ¬ fld v 55 0 % 1024 = 0 ∨
    (s.queue q).st = 0 ∧ (ctxValid s (s.queue q).ctx).2 = false) : writeQd0 s q (setFld v 63 62 1) = .bad eResvwrite := by
  by_cases hring : fld v 55 0 % 1024 = 0
  · refine (legal_ring hring 1 _).trans ?_
    rw [fld_setFld_state v (by decide)]
    dsimp only
    by_cases h0 : (s.queue q).st = 0
    · rw [if_pos h0]
      refine legal_bad ?_ _
      grind [fld_setFld_lsize]
    · rw [if_neg h0]
      refine legal_bad ?_ _
      grind [fld_setFld_lsize]
  · exact writeQd0_misaligned hring 1

theorem writeQd0_halt (hst : (s.queue q).st = 1) (hring : fld v 55 0 % 1024 = 0) :
    writeQd0 s q (setFld v 63 62 3) = .ok (askState s q (withRing s q v) 3) := by
  rw [← withRing_setFld s q v 3]
  refine (legal_ring hring 3 _).trans ?_
  rw [fld_setFld_state v (by decide)]
  exact legal_ok (by simpa using hst) _

theorem writeQd0_halt_refused (hst : (s.queue q).st ≠ 1) : writeQd0 s q (setFld v 63 62 3) = .bad eResvwrite := by
  by_cases hring : fld v 55 0 % 1024 = 0
  · refine (legal_ring hring 3 _).trans ?_
    rw [fld_setFld_state v (by decide)]
    exact legal_bad (by simpa using hst) _
  · exact writeQd0_misaligned hring 3

theorem writeQd0_unmap (hring : fld v 55 0 % 1024 = 0) :
    writeQd0 s q (setFld v 63 62 0) = .ok (askState s q (withRing s q v) 0) := by
  rw [← withRing_setFld s q v 0]
  refine (legal_ring hring 0 _).trans ?_
  rw [fld_setFld_state v (by decide)]
  rfl

/-! ### How the state of a queue changes (R62, R64) -/

section
variable {x : Queue} {st k : Nat}

theorem askState_unbound (h : holderOf s q = none) : askState s q x st = leaveNow s q x st := by rw [askState, h]

theorem askState_busy (h : holderOf s q = some k) (hbusy : (s.interp k).busy = true) :
    askState s q x st = s.setQueue q { x with want := some st } := by
  rw [askState, h]
  exact if_pos hbusy

theorem askState_idle (h : holderOf s q = some k) (hbusy : (s.interp k).busy = false) :
    askState s q x st = releaseInterp (s.setQueue q { x with want := some st }) k := by
  rw [askState, h]
  exact if_neg (Bool.eq_false_iff.mp hbusy)

theorem runQueue_map (h : x.st = 0) :
    runQueue s q x = s.setQueue q { x with st := 1, ival := 0, next := s.fe.time.toNat, want := none, scratch := [] } := by
  rw [runQueue, if_pos h]

theorem runQueue_resume (h : x.st ≠ 0) :
    runQueue s q x = s.setQueue q { x with st := 1, ival := 0, next := s.fe.time.toNat, want := none } := by
  rw [runQueue, if_neg h]

theorem applyState_halt (h : x.st = 1) : applyState x 3 = { x with st := 3, want := none } := by
  rw [applyState, if_neg (by decide), if_pos h]

end

/-! ### What writes of QD1 and QD3 answer (R60, R69) -/

variable {ag : Agent}

/-- Who may name the context of queue `q` in QD1. -/
theorem mayWriteContext_iff : (fld v 63 48 == (s.queue q).ctx || asRoot ag) = true ↔ fld v 63 48 = (s.queue q).ctx ∨ ag = .root := by
  rw [Bool.or_eq_true, beq_iff_eq, asRoot_iff]

theorem writeQd1_named (hctx : fld v 63 48 = (s.queue q).ctx ∨ ag = .root) (hprog : fld v 47 32 < 256)
    (hname : mayName s (fld v 47 32) (s.queue q).plen = true) :
    writeQd1 s ag q v = .ok (s.setQueue q { s.queue q with ctx := fld v 63 48, prog := fld v 47 32 }) :=
  (needs_ok (mayWriteContext_iff.mpr hctx) _).trans ((legal_ok (decide_eq_true hprog) _).trans (if_pos hname))

theorem writeQd1_unchecked (hctx : fld v 63 48 = (s.queue q).ctx ∨ ag = .root) (hprog : fld v 47 32 < 256)
    (hname : mayName s (fld v 47 32) (s.queue q).plen = false) : writeQd1 s ag q v = .bad eLerantload :=
  (needs_ok (mayWriteContext_iff.mpr hctx) _).trans ((legal_ok (decide_eq_true hprog) _).trans (if_neg (Bool.eq_false_iff.mp hname)))

theorem writeQd1_noHandle (hctx : fld v 63 48 = (s.queue q).ctx ∨ ag = .root) (hprog : 256 ≤ fld v 47 32) :
    writeQd1 s ag q v = .bad eResvwrite :=
  (needs_ok (mayWriteContext_iff.mpr hctx) _).trans (legal_bad (decide_eq_false (Nat.not_lt.mpr hprog)) _)

theorem writeQd1_refused (hctx : fld v 63 48 ≠ (s.queue q).ctx) (hroot : ag ≠ .root) : writeQd1 s ag q v = .bad ePerm :=
  needs_bad (Bool.eq_false_iff.mpr (mt mayWriteContext_iff.mp (not_or.mpr ⟨hctx, hroot⟩))) _

theorem writeQd3_named (herr : fld v 55 0 % 256 = 0) (hname : mayName s (s.queue q).prog (fld v 61 56) = true) :
    writeQd3 s q v = .ok (s.setQueue q { s.queue q with plen := fld v 61 56, err := fld v 55 0 }) :=
  (legal_ok (beq_iff_eq.mpr herr) _).trans (if_pos hname)

theorem writeQd3_unchecked (herr : fld v 55 0 % 256 = 0) (hname : mayName s (s.queue q).prog (fld v 61 56) = false) :
    writeQd3 s q v = .bad eLerantload := (legal_ok (beq_iff_eq.mpr herr) _).trans (if_neg (Bool.eq_false_iff.mp hname))

theorem writeQd3_misaligned (herr : fld v 55 0 % 256 ≠ 0) : writeQd3 s q v = .bad eResvwrite :=
  legal_bad (beq_eq_false_iff_ne.mpr herr) _

/-! ### A write of a word of a descriptor (R60) -/

theorem qdAddr_eq (q k : Nat) : qdAddr q k = 0xE0000000000000 + (0x100000 + 512 * q + 64 * k) := by
  rw [qdAddr, devBase]
  omega

section
variable {k code : Nat} {t : State} (hr : agentRuns s ag = true) (hq : q < 16384) (hk : k < 8)
include hr hq hk

theorem gives_of_writeQd_ok (hw : writeQd s ag q k v = .ok t) : Gives (.registerWrite ag (qdAddr q k) v) s t := by
  rw [qdAddr_eq]
  exact gives_of_writeDev_ok (.qd q k) hr ⟨hq, hk⟩ (by simp only [devWord]; omega) hw

theorem gives_of_writeQd_bad (hw : writeQd s ag q k v = .bad code) :
    Gives (.registerWrite ag (qdAddr q k) v) s (logAgent s ag code (0xE0000000100000 + 512 * q + 64 * k)) := by
  rw [qdAddr_eq, show 0xE0000000100000 + 512 * q + 64 * k = 0xE0000000000000 + (0x100000 + 512 * q + 64 * k) by omega]
  exact gives_of_writeDev_bad (.qd q k) hr ⟨hq, hk⟩ (by simp only [devWord]; omega) hw

end

/-- Step `i` is a write of QD0 with state `n`. -/
def SetsState (i : Instr) (s : State) (ag : Agent) (q : Nat) (v : Word) (n : Nat) : Prop :=
  exec i s = exec (.registerWrite ag (qdAddr q 0) (setFld v 63 62 n)) s

theorem setsState_running : SetsState (.qdStateRunning ag q v) s ag q v 1 := rfl
theorem setsState_halted : SetsState (.qdStateHalted ag q v) s ag q v 3 := rfl
theorem setsState_unmapped : SetsState (.qdStateUnmapped ag q v) s ag q v 0 := rfl

section
variable {i : Instr} {n code : Nat} {t u : State} (hr : agentRuns s ag = true) (hq : q < 16384) (hi : SetsState i s ag q v n)
include hr hq hi

theorem gives_of_setsState_ok (hw : writeQd0 s q (setFld v 63 62 n) = .ok t) (hu : t = u) : Gives i s u :=
  hu ▸ hi.trans (gives_of_writeQd_ok hr hq (by decide) hw)

theorem gives_of_setsState_bad (hw : writeQd0 s q (setFld v 63 62 n) = .bad code) :
    Gives i s (logAgent s ag code (0xE0000000100000 + 512 * q + 64 * 0)) :=
  hi.trans (gives_of_writeQd_bad hr hq (by decide) hw)

end

end

/-- Settles O38: a state write is one of QD0 with the state in bits 63:62, and each case of the three registers has its equation. -/
theorem queueDescriptors : Obligations.QueueDescriptors := by
  intro s ag q v hq hr x y drop left sized even
  refine ⟨fun h0 he hs hc => ?map, fun h0 h1 he hs => ?resume, fun h => ?refused, fun he => ?misaligned, fun h1 he hh => ?halt,
    fun k h1 he hh hb => ?haltBusy, fun h1 => ?haltRefused, fun he hh => ?unmap, fun k he hh hb => ?unmapBusy,
    fun k he hh hb => ?unmapIdle, fun hc => ⟨fun hp hn => ?qd1, fun hp hn => ?qd1Unchecked, fun hp => ?qd1NoHandle⟩,
    fun hc hroot => ?qd1Refused, fun he hn => ?qd3, fun he hn => ?qd3Unchecked, fun he => ?qd3Misaligned⟩
  case map => exact gives_of_setsState_ok hr hq setsState_running (writeQd0_map h0 he hs hc) (runQueue_map h0)
  case resume => exact gives_of_setsState_ok hr hq setsState_running (writeQd0_resume h0 h1 he hs) (runQueue_resume h0)
  case refused => exact gives_of_setsState_bad hr hq setsState_running (writeQd0_run_refused h)
  case misaligned =>
    exact ⟨gives_of_setsState_bad hr hq setsState_halted (writeQd0_misaligned he 3),
      gives_of_setsState_bad hr hq setsState_unmapped (writeQd0_misaligned he 0)⟩
  case halt =>
    refine gives_of_setsState_ok hr hq setsState_halted (writeQd0_halt h1 he) ((askState_unbound hh).trans ?_)
    rw [leaveNow, applyState_halt (x := withRing s q v) h1]
    rfl
  case haltBusy => exact gives_of_setsState_ok hr hq setsState_halted (writeQd0_halt h1 he) (askState_busy hh hb)
  case haltRefused => exact gives_of_setsState_bad hr hq setsState_halted (writeQd0_halt_refused h1)
  case unmap => exact gives_of_setsState_ok hr hq setsState_unmapped (writeQd0_unmap he) (askState_unbound hh)
  case unmapBusy => exact gives_of_setsState_ok hr hq setsState_unmapped (writeQd0_unmap he) (askState_busy hh hb)
  case unmapIdle => exact gives_of_setsState_ok hr hq setsState_unmapped (writeQd0_unmap he) (askState_idle hh hb)
  case qd1 => exact gives_of_writeQd_ok (k := 1) hr hq (by decide) (writeQd1_named hc hp hn)
  case qd1Unchecked => exact gives_of_writeQd_bad (k := 1) hr hq (by decide) (writeQd1_unchecked hc hp hn)
  case qd1NoHandle => exact gives_of_writeQd_bad (k := 1) hr hq (by decide) (writeQd1_noHandle hc hp)
  case qd1Refused => exact gives_of_writeQd_bad (k := 1) hr hq (by decide) (writeQd1_refused hc hroot)
  case qd3 => exact gives_of_writeQd_ok (k := 3) hr hq (by decide) (writeQd3_named he hn)
  case qd3Unchecked => exact gives_of_writeQd_bad (k := 3) hr hq (by decide) (writeQd3_unchecked he hn)
  case qd3Misaligned => exact gives_of_writeQd_bad (k := 3) hr hq (by decide) (writeQd3_misaligned he)

end Sys2Proof.Proofs
end

section
/-!
PROOFS. The program store, the operations of FE_PCTL, and what the checker of Lerant programs accepts (O39).
-/
namespace Sys2Proof.Proofs

open Sys2Proof.Machine Sys2Proof.Laws Sys2Proof.Stmt

/-! ### What the checker accepts (R69) -/

theorem reasonAt_of_firstReason_none {code l : List Nat} {i j w : Nat} (h : firstReason code i l = none) (hw : l[j]? = some w) :
    reasonAt code (i + j) w = 0 := by
  induction l generalizing i j with
  | nil => simp at hw
  | cons x r ih =>
    rw [firstReason] at h
    split at h
    next hx =>
      cases j with
      | zero =>
        obtain rfl : x = w := by simpa using hw
        exact hx
      | succ j => rw [← Nat.succ_add_eq_add_succ]; exact ih h (by simpa using hw)
    · cases h

theorem firstReason_ne_zero {code l : List Nat} {i j : Nat} : firstReason code i l ≠ some (0, j) := by
  induction l generalizing i with
  | nil => simp [firstReason]
  | cons x r ih =>
    rw [firstReason]
    split
    · exact ih
    next hx => simp [hx]

/-- A program is accepted where no bytecode has a reason to fail and its worst case is within the bounds. -/
theorem checkCode_accepts {code : List Nat} (h : (checkCode code).1 = 0) :
    firstReason code 0 code = none ∧ worstSteps code ≤ 512 ∧ worstEmits code ≤ 4 ∧ checkCode code = (0, 0, worstSteps code) := by
  unfold checkCode at h ⊢
  cases hf : firstReason code 0 code with
  | some p =>
    obtain ⟨r, i⟩ := p
    rw [hf] at h
    obtain rfl : r = 0 := h
    exact absurd hf firstReason_ne_zero
  | none =>
    rw [hf] at h
    dsimp only at h ⊢
    split_ifs at h ⊢ with hs he
    exact ⟨rfl, Nat.not_lt.mp hs, Nat.not_lt.mp he, rfl⟩

/-- A bytecode without a reason to fail, condition by condition. -/
theorem reasonAt_eq_zero {code : List Nat} {i w : Nat} (h : reasonAt code i w = 0) :
    opOf w ≤ 0x17 ∧ fieldsBad w = false ∧ namesBad w = false ∧ branchBad code i w = false ∧ repBad code i w = false ∧
      (i + 1 = code.length → opOf w = 0x00 ∨ opOf w = 0x15 ∨ opOf w = 0x16) := by
  unfold reasonAt at h
  split_ifs at h with h1 h2 h3 h4 h5 h6
  exact ⟨Nat.not_lt.mp h1, Bool.eq_false_iff.mpr h2, Bool.eq_false_iff.mpr h3, Bool.eq_false_iff.mpr h4,
    Bool.eq_false_iff.mpr h5, by grind⟩

theorem branch_of_branchBad_false {code : List Nat} {i w : Nat} (h : branchBad code i w = false) (hb : isBranch w = true) :
    bits w 7 0 ≠ 0 ∧ i + bits w 7 0 < code.length := by
  simp [branchBad, hb] at h
  omega

theorem checkerAccepts : Stmt.CheckerAccepts := by
  intro code h
  obtain ⟨hfirst, hsteps, hemits, hcode⟩ := checkCode_accepts h
  refine ⟨hsteps, hemits, by rw [hcode], fun i w hw => ?_⟩
  have hreason : reasonAt code i w = 0 := by simpa using reasonAt_of_firstReason_none hfirst hw
  obtain ⟨hop, hfields, hnames, hbranch, hrep, hlast⟩ := reasonAt_eq_zero hreason
  exact ⟨hop, hfields, hnames, hrep, branch_of_branchBad_false hbranch, hlast⟩

/-! ### Writes of the program store and of FE_PCTL (R66, R73) -/

section
variable {s t : State} {ag : Agent} {h : Nat} {v : Word}

theorem writeStore_stored (hh : h ≠ 0) (hc : (s.fe.checked.any (fun e => e.1 == h)) = false) (j : Nat) :
    writeStore s h j v = .ok { s with fe := { s.fe with store := Tab.set 0 (128 * h + j) v s.fe.store } } :=
  (if_neg hh).trans (needs_ok (by rw [hc]; rfl) _)

theorem writeStore_checked (hh : h ≠ 0) (hc : (s.fe.checked.any (fun e => e.1 == h)) = true) (j : Nat) :
    writeStore s h j v = .bad ePerm := (if_neg hh).trans (needs_bad (by rw [hc]; rfl) _)

theorem storeAddr_eq (h j : Nat) : storeAddr h j = 0xE0000000000000 + (0xA00000 + 8192 * h + 64 * j) := by
  rw [storeAddr, devBase]
  omega

/-- The words that FE_PCTL_CHECK (op 1) and FE_PCTL_RELEASE (op 2) write. -/
theorem fld_pctl {op h len : Nat} (hop : op < 4) (hh : h < 256) (hl : len < 256) :
    fld (wordN (op <<< 62 + h <<< 8 + len)) 63 62 = op ∧ fld (wordN (op <<< 62 + h <<< 8 + len)) 15 8 = h ∧
      fld (wordN (op <<< 62 + h <<< 8 + len)) 7 0 = len := by
  simp only [fld, bits, wordN, BitVec.toNat_ofNat, Nat.shiftRight_eq_div_pow, Nat.shiftLeft_eq]
  omega

theorem writePctl_check {len : Nat} (h0 : h ≠ 0) (hh : h < 256) (hl : len < 256) :
    writePctl s (wordN (1 <<< 62 + h <<< 8 + len)) = .ok (startCheck s h len) := by
  obtain ⟨hop, hhandle, hlen⟩ := fld_pctl (op := 1) (by decide) hh hl
  rw [writePctl, hop, hhandle, hlen]
  exact legal_ok (by simpa using h0) _

theorem writePctl_release (h0 : h ≠ 0) (hh : h < 256) :
    writePctl s (wordN (2 <<< 62 + h <<< 8)) = .ok (releaseHandle s h 0) := by
  obtain ⟨hop, hhandle, hlen⟩ := fld_pctl (op := 2) (len := 0) (by decide) hh (by decide)
  rw [Nat.add_zero] at hop hhandle hlen
  rw [writePctl, hop, hhandle, hlen]
  exact legal_ok (by simpa using h0) _

theorem releaseHandle_named (hn : isNamed s h = true) :
    releaseHandle s h 0 = { s with fe := { s.fe with pstat := wordN (9 <<< 48 + h <<< 40), pctl := 256 * h } } := by
  simp [releaseHandle, hn, pstatWord]

theorem releaseHandle_free (hn : isNamed s h = false) : releaseHandle s h 0 =
    { s with fe := { s.fe with checked := Tab.drop h s.fe.checked, pstat := wordN (h <<< 40), pctl := 256 * h } } := by
  simp [releaseHandle, hn, pstatWord]

theorem any_put {α : Type} (k : Nat) (v : α) (t : Tab α) : (Tab.put k v t).any (fun e => e.1 == k) = true := by
  induction t with
  | nil => simp [Tab.put]
  | cons e r ih =>
    obtain ⟨i, w⟩ := e
    unfold Tab.put
    split_ifs <;> simp [ih]

/-- A checked handle is one whose check has accepted at least one bytecode, so it is listed. -/
theorem any_setChecked (h n k : Nat) (m : Option Nat) (t : Tab Checked) :
    (Tab.set Checked.init h ⟨n + 1, m, k⟩ t).any (fun e => e.1 == h) = true := by
  rw [Tab.set, if_neg (by simp [Checked.init])]
  exact any_put h _ t

theorem endCheck_of_check {len : Nat} (hc : s.fe.check = some (h, len)) :
    let r := checkCode (storedCode s h (len + 1))
    endCheck s = { s with fe := { s.fe with
      check := none, pstat := pstatWord r.1 h r.2.1 r.2.2
      checked := if r.1 = 0 then Tab.set Checked.init h ⟨len + 1, highestLdpa (storedCode s h (len + 1)), r.2.2⟩ s.fe.checked
        else s.fe.checked } } := by
  simp only [endCheck, hc]

end

theorem programStoreLaws : Stmt.ProgramStore := by
  intro s ag h hlo hhi hr
  have h0 : h ≠ 0 := Nat.ne_of_gt hlo
  refine ⟨fun j v hj hc => ?stored, fun j v hj hc => ?checked, fun j v hj => ?halt, fun len hl ha => ?check, fun len hl ha => ?checkPerm,
    fun ha hn => ?named, fun ha hn => ?free, ?lost, fun len hc => ?ends, fun hc => ?idle⟩
  case stored =>
    have hg := gives_of_writeDev_ok (.store h j) hr ⟨hhi, hj⟩ (off := 0xA00000 + 8192 * h + 64 * j)
      (by simp only [devWord]; omega) (writeStore_stored (v := v) h0 hc j)
    rw [← storeAddr_eq] at hg
    exact hg
  case checked =>
    have hg := gives_of_writeDev_bad (.store h j) hr ⟨hhi, hj⟩ (off := 0xA00000 + 8192 * h + 64 * j)
      (by simp only [devWord]; omega) (writeStore_checked (v := v) h0 hc j)
    rw [← storeAddr_eq] at hg
    rw [show 0xE0000000A00000 + 8192 * h + 64 * j = storeAddr h j by rw [storeAddr_eq]; omega]
    exact hg
  case halt =>
    have hg := gives_of_writeDev_ok (v := v) (.store 0 j) hr ⟨by decide, hj⟩ (off := 0xA00000 + 8192 * 0 + 64 * j)
      (by simp only [devWord]; omega) rfl
    rw [← storeAddr_eq] at hg
    exact hg
  case check =>
    exact gives_of_writeDev_ok (.fe 4) hr (by decide) (off := 0x900100) rfl
      ((needs_root ha _).trans (writePctl_check h0 hhi hl))
  case checkPerm =>
    exact gives_of_writeDev_bad (.fe 4) hr (by decide) (off := 0x900100) rfl (needs_bad (asRoot_eq_false ha) _)
  case named =>
    exact gives_of_writeDev_ok (.fe 4) hr (by decide) (off := 0x900100) rfl
      ((needs_root ha _).trans ((writePctl_release h0 hhi).trans (congrArg WRes.ok (releaseHandle_named hn))))
  case free =>
    exact gives_of_writeDev_ok (.fe 4) hr (by decide) (off := 0x900100) rfl
      ((needs_root ha _).trans ((writePctl_release h0 hhi).trans (congrArg WRes.ok (releaseHandle_free hn))))
  case lost => exact gives_of_writeDev_ok (.fe 3) hr (by decide) (off := 0x9000C0) rfl rfl
  case ends =>
    have he := endCheck_of_check hc
    refine ⟨endCheck s, rfl, ?_⟩
    rw [he]
    refine ⟨rfl, rfl, fun hz => ?_, fun hz => if_neg hz, rfl, rfl, fun _ => rfl⟩
    dsimp only
    rw [if_pos hz]
    exact any_setChecked h len _ _ _
  case idle =>
    change Host.Outcome.next (endCheck s) = .next s
    rw [endCheck, hc]

/-- Settles O39: a check runs over the bytecodes in order, and accepts where none of them has a reason to fail. -/
theorem programStore : Obligations.ProgramStore := ⟨programStoreLaws, checkerAccepts⟩

end Sys2Proof.Proofs
end

section
/-!
PROOFS. What each Lerant bytecode does to its interpreter (O42).
-/
namespace Sys2Proof.Proofs

open Sys2Proof.Machine Sys2Proof.Laws Sys2Proof.Stmt

/-! ### Going on at a bytecode (R67) -/

theorem goTo_noReps {y : Interp} (h : y.reps = []) (p : Nat) : goTo y p = { y with pc := p } := by
  simp only [goTo, h, closeReps]

section
variable {y : Interp} {p : Nat} {e : RepFrame} {r : List RepFrame} (h : y.reps = e :: r)
include h

theorem goTo_inside (hp : p ≠ e.last + 1) : goTo y p = { y with pc := p } := by
  simp only [goTo, h, closeReps, if_neg hp]

theorem goTo_nextPass (hp : p = e.last + 1) (hi : e.i + 1 < e.n) : goTo y p =
    { y with pc := e.first, reps := { e with i := e.i + 1 } :: r, a := Tab.set 0 e.reg (wordN (e.i + 1)) y.a } := by
  simp only [goTo, h, closeReps, if_pos hp, if_pos hi]

theorem goTo_afterBody (hp : p = e.last + 1) (hi : e.n ≤ e.i + 1) : goTo y p = goTo { y with reps := r } p := by
  simp only [goTo, h, closeReps, if_pos hp, if_neg (Nat.not_lt.mpr hi)]

end

/-! ### Registers, branches and bodies (R67) -/

theorem lerantRegisters : Stmt.LerantRegisters := by
  intro s a b v k h l f x A
  refine ⟨rfl, rfl, ?_, rfl, rfl, rfl, rfl, rfl, rfl, rfl, rfl, rfl⟩
  change Gives (.shin a v) s (put s a ((A a <<< 20) ||| v.setWidth 64))
  rw [← BitVec.ofNat_toNat]
  rfl

theorem gives_branch {i : Instr} {s : State} {taken : Bool} {c : Prop} [Decidable c] {d : BitVec 8}
    (hi : exec i s = .next (s.setInterp s.cur (branchIf (s.interp s.cur) taken d))) (hc : taken = true ↔ c) :
    Gives i s (s.setInterp s.cur
      (goTo (s.interp s.cur) (if c then (s.interp s.cur).pc + d.toNat else (s.interp s.cur).pc + 1))) := by
  rw [Gives, hi, branchIf, apply_ite ((s.interp s.cur).pc + ·), if_congr hc rfl rfl]

theorem lerantControl : Stmt.LerantControl := fun _ _ _ _ _ _ =>
  ⟨gives_branch rfl beq_iff_eq, gives_branch rfl bne_iff_ne, gives_branch rfl beq_iff_eq, gives_branch rfl decide_eq_true_iff, rfl,
    fun _ p h => goTo_noReps h p, fun _ _ _ _ h => ⟨goTo_inside h, goTo_nextPass h, goTo_afterBody h⟩⟩

/-! ### Words of the queue (R57, R65, R67) -/

theorem worked_of_whoRead {s t : State} {w : Who} {c g a n : Nat} {r : Got} (h : whoRead s w c g a n = (t, r)) : Worked s t := by
  have hw := worked_whoRead s w c g a n
  rwa [h] at hw

section
variable {s t : State} {a : BitVec 3} {q : Nat} (hq : curQueue s = some q)
include hq

theorem feLdsc_bound (f : BitVec 5) : feLdsc a f s = put s a (Tab.get 0 (s.queue q).scratch f.toNat) := by
  rw [feLdsc, hq]
  rfl

theorem feStsc_bound (f : BitVec 5) : feStsc a f s = (s.setQueue q { s.queue q with
    scratch := Tab.set 0 f.toNat (getA (s.interp s.cur) a) (s.queue q).scratch }).setInterp s.cur
      (goTo (s.interp s.cur) ((s.interp s.cur).pc + 1)) := by
  rw [feStsc, hq]
  rfl

variable {k : BitVec 6} {v : Nat} {e : List Nat}

theorem feLdpa_read
    (hr : whoRead s (.interp s.cur) (s.queue q).ctx gHost ((s.queue q).param + 64 * k.toNat) 64 = (t, ⟨v, none, false, e⟩)) :
    feLdpa a k s = put (queueEcc (clearParts t (.interp s.cur)) q e) a (wordN v) := by
  have hcur : t.cur = s.cur := by rw [(worked_of_whoRead hr).eq]
  unfold feLdpa
  rw [hq]
  dsimp only
  rw [hr, ← hcur]
  rfl

theorem feLdpa_fails {c lo : Nat}
    (hr : whoRead s (.interp s.cur) (s.queue q).ctx gHost ((s.queue q).param + 64 * k.toNat) 64 = (t, ⟨v, some (c, lo), false, e⟩)) :
    feLdpa a k s = endPacket (queueFault t q c lo) t.cur false := by
  unfold feLdpa
  rw [hq]
  dsimp only
  rw [hr]
  rfl

theorem feLdpa_waits {c : Option (Nat × Nat)}
    (hr : whoRead s (.interp s.cur) (s.queue q).ctx gHost ((s.queue q).param + 64 * k.toNat) 64 = (t, ⟨v, c, true, e⟩)) :
    feLdpa a k s = t := by
  unfold feLdpa
  rw [hq]
  dsimp only
  rw [hr]

end

theorem lerantQueueWords : Stmt.LerantQueueWords := by
  intro s t a f k q v hq x y rd
  exact ⟨congrArg Host.Outcome.next (feLdsc_bound hq f), congrArg Host.Outcome.next (feStsc_bound hq f),
    fun e h => congrArg Host.Outcome.next (feLdpa_read hq h), fun c lo e h => congrArg Host.Outcome.next (feLdpa_fails hq h),
    fun c e h => congrArg Host.Outcome.next (feLdpa_waits hq h)⟩

/-- Settles O42: each bytecode is one change of its interpreter, and a branch or a body decides only where it goes on. -/
theorem lerantBytecodes : Obligations.LerantBytecodes := ⟨lerantRegisters, lerantControl, lerantQueueWords⟩

end Sys2Proof.Proofs
end

section
/-!
PROOFS. How a packet ends, when a binding is over, how an interpreter releases its queue, and how the scanner polls (O43).
-/
namespace Sys2Proof.Proofs

open Sys2Proof.Machine Sys2Proof.Laws Sys2Proof.Stmt

/-! ### The end of a packet and of a binding (R62, R64, R68) -/

section
variable {s : State} {k q : Nat} (hq : (s.interp k).queue = some q)
include hq

theorem endPacket_advances : endPacket s k true =
    packetDone s k q { s.queue q with ridx := ((s.queue q).ridx + 1) % 2 ^ 32, pemit := 0 } := by
  rw [endPacket, hq]
  rfl

/-- A packet that faults or stops leaves a queue that no longer runs, so the binding is over. -/
theorem endPacket_stopped (hst : (s.queue q).st ≠ 1) :
    endPacket s k false = releaseInterp ((clearParts s (.interp k)).setInterp k { s.interp k with
      busy := false, pend := none, done := (s.interp k).done + 1 }) k := by
  rw [endPacket, hq]
  exact if_pos (by simp [bindingOver, show ((clearParts s (.interp k)).queue q).st ≠ 1 from hst])

end

theorem bindingOver_iff (s : State) (k q : Nat) : bindingOver s k q = true ↔
    (s.queue q).want.isSome = true ∨ (s.queue q).st ≠ 1 ∨ 8 ≤ (s.interp k).done ∨ backlog s q = 0 := by
  simp only [bindingOver, Bool.or_eq_true, bne_iff_ne, decide_eq_true_eq, beq_iff_eq, or_assoc]

/-- Queue `q` after the state write that waited for its packet, if one did (R62). -/
def afterWant (y : Queue) : Queue := match y.want with | some st => applyState y st | none => y

/-- Interpreter `k` without its queue, whose next poll is due in 50 ns (R63). -/
def released (s : State) (k q : Nat) : State :=
  ((clearParts s (.interp k)).setInterp k Interp.init).setQueue q { afterWant (s.queue q) with next := s.fe.time.toNat + 50 }

theorem releaseInterp_of_queue {s : State} {k q : Nat} (hq : (s.interp k).queue = some q) : releaseInterp s k =
    match s.fe.waitq with
    | [] => released s k q
    | p :: r => bindQueue { released s k q with fe := { (released s k q).fe with waitq := r } } p := by
  rw [releaseInterp, hq]
  rfl

theorem packetEnds : Stmt.PacketEnds := by
  refine ⟨fun s q v hq => ⟨congrArg Host.Outcome.next (endPacket_advances hq), ?rej, ?stop⟩, fun s k q hq =>
    ⟨endPacket_advances hq, endPacket_stopped hq, bindingOver_iff s k q, fun hw => ?noneWaits, fun p r hw => ?oneWaits⟩⟩
  case rej =>
    change Host.Outcome.next (feRej v s) = _
    rw [feRej, show curQueue s = some q from hq]
    rfl
  case stop =>
    change Host.Outcome.next (feStop v s) = _
    rw [feStop, show curQueue s = some q from hq]
  case noneWaits =>
    rw [releaseInterp_of_queue hq, hw]
    rfl
  case oneWaits =>
    rw [releaseInterp_of_queue hq, hw]
    rfl

/-! ### The scanner (R61, R63, R64, R77) -/

theorem mem_span {a n k : Nat} : k ∈ span a n ↔ a ≤ k ∧ k < a + n := by
  induction n generalizing a with
  | zero => simp [span]
  | succ n ih => rw [span, List.mem_cons, ih]; omega

/-- The first number that satisfies `p`, searched upwards. -/
theorem find?_span_eq_some {p : Nat → Bool} {a n k : Nat} (ha : a ≤ k) (hn : k < a + n) (hk : p k = true)
    (hlow : ∀ j, a ≤ j → j < k → p j = false) : (span a n).find? p = some k := by
  induction n generalizing a with
  | zero => omega
  | succ n ih =>
    rw [span]
    obtain rfl | hlt := Nat.eq_or_lt_of_le ha
    · exact List.find?_cons_of_pos hk
    · rw [List.find?_cons_of_neg (by simp [hlow a (Nat.le_refl a) hlt])]
      exact ih hlt (by omega) fun j hj => hlow j (by omega)

theorem bindQueue_lowest {s : State} {q k : Nat} (hk : k < 16) (hfree : (s.interp k).queue = none)
    (hlow : ∀ j, j < k → (s.interp j).queue ≠ none) :
    bindQueue s q = s.setInterp k { Interp.init with queue := some q } := by
  rw [bindQueue, find?_span_eq_some (Nat.zero_le k) (by omega) (by simp [hfree])
    fun j _ hj => by simpa using Option.isSome_iff_ne_none.mpr (hlow j hj)]

theorem bindQueue_waits {s : State} {q : Nat} (hbusy : ∀ k, k < 16 → (s.interp k).queue ≠ none) :
    bindQueue s q = { s with fe := { s.fe with waitq := s.fe.waitq ++ [q] } } := by
  have hnone : (span 0 16).find? (fun k => (s.interp k).queue.isNone) = none := by
    refine List.find?_eq_none.mpr fun k hk => ?_
    simpa using hbusy k (by simpa using (mem_span.mp hk).2)
  rw [bindQueue, hnone]

theorem isDue_runs {s : State} {q : Nat} (h : isDue s q = true) :
    (s.queue q).st = 1 ∧ (s.queue q).next ≤ s.fe.time.toNat ∧ s.firm.recovery = false ∧
      (s.firm.mgmtHeld = true → (s.queue q).ctx = 0) := by
  simp only [isDue, mayRun, Bool.and_eq_true, beq_iff_eq, decide_eq_true_eq, Bool.not_eq_true', Bool.or_eq_true] at h
  grind

section
variable {s : State} {q : Nat}

theorem gives_poll {u : State} (ht : isPollTurn s q = true) (hu : pollQueue s q = u) : Gives (.queuePoll q) s u := by
  change Host.Outcome.next (if isPollTurn s q then pollQueue s q else s) = _
  rw [if_pos ht, hu]

theorem gives_poll_notTurn (ht : isPollTurn s q = false) : Gives (.queuePoll q) s s := by
  change Host.Outcome.next (if isPollTurn s q then pollQueue s q else s) = _
  rw [if_neg (Bool.eq_false_iff.mp ht)]

/-- The state and the queue that a poll of `q` leaves, before it decides. -/
def polled (s : State) (q : Nat) : State := { s with fe := { s.fe with lastPoll := q } }
def seenQueue (s : State) (q : Nat) : Queue := { s.queue q with seen := widxOf s q }

theorem pollQueue_empty (hn : backlog s q = 0) : pollQueue s q = (polled s q).setQueue q { seenQueue s q with
    ival := min ((s.queue q).ival + 1) 10, next := s.fe.time.toNat + 50 * 2 ^ min ((s.queue q).ival + 1) 10 } := by
  unfold pollQueue
  dsimp only
  rw [hn, if_neg (Nat.not_lt_zero _), if_pos rfl]
  rfl

theorem pollQueue_binds (h0 : 0 < backlog s q) (hn : backlog s q ≤ 2 ^ (s.queue q).lsize) :
    pollQueue s q = bindQueue ((polled s q).setQueue q { seenQueue s q with ival := 0 }) q := by
  unfold pollQueue
  dsimp only
  rw [if_neg (Nat.not_lt.mpr hn), if_neg h0.ne']
  rfl

theorem pollQueue_overflows (hn : 2 ^ (s.queue q).lsize < backlog s q) :
    pollQueue s q = queueOverflow ((polled s q).setQueue q (seenQueue s q)) q := by
  unfold pollQueue
  dsimp only
  rw [if_pos hn]
  rfl

end

theorem queuePolls : Stmt.QueuePolls := fun _ _ _ =>
  ⟨fun ht hn => gives_poll ht (pollQueue_empty hn), fun ht h0 hn => gives_poll ht (pollQueue_binds h0 hn),
    fun ht hn => gives_poll ht (pollQueue_overflows hn), gives_poll_notTurn, fun _ => bindQueue_lowest, bindQueue_waits, isDue_runs⟩

/-- Settles O43: a packet's end and a poll are taken apart into the cases that the rules name. -/
theorem packetsAndPolls : Obligations.PacketsAndPolls := ⟨packetEnds, queuePolls⟩

end Sys2Proof.Proofs
end

section
/-!
PROOFS. The run of a packet: how it starts, step by step, and how native packets run (O44).
-/
namespace Sys2Proof.Proofs

open Sys2Proof.Machine Sys2Proof.Laws Sys2Proof.Stmt

/-! ### What the front end's reads leave as it was (R72, R118) -/

theorem logged_logBads (as : List Nat) (s : State) (ctx kind num : Nat) : Logged s (logBads s ctx kind num as) := by
  induction as generalizing s with
  | nil => exact .refl s
  | cons a as ih => exact (logged_logErr s _ _ _ _ _ _).trans (ih _)

theorem logged_queueEcc (s : State) (q : Nat) (es : List Nat) : Logged s (queueEcc s q es) := logged_logBads _ _ _ _ _

/-- The state in which an access of the front end ends. -/
def rdState : Rd → State
  | .ok s _ | .bad s _ _ | .park s => s

theorem logged_feRead (s : State) (k q a n : Nat) : Logged s (rdState (feRead s k q a n)) := by
  unfold feRead
  have hw := Logged.of_worked (worked_whoRead s (.interp k) (s.queue q).ctx gHost a n)
  dsimp only
  generalize whoRead s (.interp k) (s.queue q).ctx gHost a n = r at hw
  obtain ⟨t, v, err, wait, es⟩ := r
  cases wait with
  | true => exact hw
  | false =>
    cases err with
    | none => exact hw.trans (logged_queueEcc t q es)
    | some e => exact hw.trans (logged_queueEcc t q es)

theorem logged_queueOverflow (s : State) (q : Nat) : Logged s (queueOverflow s q) :=
  (((logged_setQueue s q _).trans (.of_worked (.of_touched (touched_draw _)))).trans (logged_logErr _ _ _ _ _ _ _)).trans
    (logged_queueErr _ _ _ _ _ _ _)

/-! ### An interpreter without a packet in progress (R64) -/

theorem bindQueue_busy {s : State} {k : Nat} (h : (s.interp k).busy = false) (q : Nat) : ((bindQueue s q).interp k).busy = false := by
  obtain ⟨j, -, hj⟩ | hw := bindQueue_cases s q
  · rw [hj, setInterp_interp_get]
    split
    · rfl
    · exact h
  · rw [hw]
    exact h

theorem releaseInterp_busy {s : State} {k : Nat} (h : (s.interp k).busy = false) : ((releaseInterp s k).interp k).busy = false := by
  cases hq : (s.interp k).queue with
  | none => rwa [releaseInterp, hq]
  | some q =>
    have hrel : ((released s k q).interp k).busy = false := by simp [released, Interp.init]
    rw [releaseInterp_of_queue hq]
    cases s.fe.waitq with
    | nil => exact hrel
    | cons p r =>
      refine bindQueue_busy ?_ p
      exact hrel

theorem canStep_of_not_busy {s : State} {k : Nat} (h : (s.interp k).busy = false) : canStep s k = false := by simp [canStep, h]

/-! ### Steps of a packet (R65, R67) -/

section
variable {s : State} {k n : Nat}

theorem runSteps_stopped (h : canStep s k = false) (f : Nat) : runSteps s k n f = s := by
  cases f with
  | zero => rfl
  | succ f => exact if_pos (by simp [h])

theorem runSteps_succ {t : State} (hc : canStep s k = true) (hn : (s.interp k).done = n) (hp : packetStep s k = some t) (f : Nat) :
    runSteps s k n (f + 1) = if isParked t (.interp k) = true then t else runSteps t k n f := by
  rw [runSteps, if_neg (by simp [hc, hn]), hp]

theorem packetStep_bytecode {i : Instr} (hp : (s.interp k).prog ≠ 0) (hd : decodeLerant (fetchBytecode s k) = some i) :
    packetStep s k = some (lerantStep i s) := by
  rw [packetStep, if_neg hp, hd]
  rfl

theorem packetStep_native (hp : (s.interp k).prog = 0) : packetStep s k = some (nativeStep s) := if_pos hp

end

/-- A bytecode runs in a packet as its own step does. Only steps that have a word are bytecodes. -/
theorem exec_eq_lerantStep {i : Instr} {w : Nat} (h : decodeLerant w = some i) (s : State) : Gives i s (lerantStep i s) := by
  have hw := encodeLerant_decodeLerant h
  cases i with
  | lerantHalt | ldpk a k | ldi a v | shin a v | lerantMov a b | lerantAdd a b | lerantSub a b | lerantAnd a b | lerantOr a b
  | ext a b hi lo | addi a v | bz a d | bnz a d | beq a b d | bltu a b d | rep a n k | ldsc a k | stsc a k | ldpa a k | setf a f
  | emitLaunch | emitTransfer | emitPinControl | emitResynchronise | emitAttest | emitCommitMinVersion | lerantRej v | lerantStop v
  | lerantTime a => rfl
  | _ => cases hw

/-! ### The start of a packet (R61, R62, R64, R65) -/

/-- Where the next packet of queue `q` stands. -/
def nextSlot (x : Queue) : Nat := x.ring + 1024 * (x.ridx % 2 ^ x.lsize)

section
variable {s : State} {k q : Nat}

theorem startPacket_released (h : (s.queue q).st ≠ 1 ∨ backlog s q = 0) : startPacket s k q = releaseInterp s k := by
  unfold startPacket
  dsimp only
  by_cases hst : (s.queue q).st = 1
  · have hn : backlog s q = 0 := h.resolve_left (not_not.mpr hst)
    rw [if_neg (not_not.mpr hst), hn, if_neg (Nat.not_lt_zero _), if_pos rfl]
  · rw [if_pos hst]

theorem startPacket_overflows (hst : (s.queue q).st = 1) (hn : 2 ^ (s.queue q).lsize < backlog s q) :
    startPacket s k q = releaseInterp (queueOverflow s q) k := by
  unfold startPacket
  dsimp only
  rw [if_neg (not_not.mpr hst), if_pos hn]

variable (hst : (s.queue q).st = 1) (h0 : 0 < backlog s q) (hn : backlog s q ≤ 2 ^ (s.queue q).lsize)
include hst h0 hn

theorem startPacket_waits {u : State} (hr : feRead s k q (nextSlot (s.queue q)) 1024 = .park u) : startPacket s k q = u := by
  unfold startPacket
  dsimp only
  rw [if_neg (not_not.mpr hst), if_neg (Nat.not_lt.mpr hn), if_neg h0.ne', ← nextSlot, hr]

theorem startPacket_faults {u : State} {code a : Nat} (hr : feRead s k q (nextSlot (s.queue q)) 1024 = .bad u code a) :
    startPacket s k q = releaseInterp (queueFault u q code a) k := by
  unfold startPacket
  dsimp only
  rw [if_neg (not_not.mpr hst), if_neg (Nat.not_lt.mpr hn), if_neg h0.ne', ← nextSlot, hr]

theorem startPacket_starts {u : State} {v : Nat} (hr : feRead s k q (nextSlot (s.queue q)) 1024 = .ok u v) :
    startPacket s k q = (clearParts u (.interp k)).setInterp k
      { Interp.init with queue := (u.interp k).queue, done := (u.interp k).done, busy := true, prog := (s.queue q).prog,
                         pkt := Tab.setList 0 0 ((span 0 16).map (wordAt v)) [] } := by
  unfold startPacket
  dsimp only
  rw [if_neg (not_not.mpr hst), if_neg (Nat.not_lt.mpr hn), if_neg h0.ne', ← nextSlot, hr]

end

/-! ### The run of a packet (R64) -/

section
variable {s u : State} {k q : Nat} (hq : (s.interp k).queue = some q)
include hq

theorem packetRun_goesOn (hb : (s.interp k).busy = true) :
    packetRun s k = runSteps { s with cur := k } k (s.interp k).done 600 := by
  unfold packetRun
  dsimp only
  rw [show (State.interp { s with cur := k } k) = s.interp k from rfl, hq]
  dsimp only
  rw [if_pos hb]
  rfl

variable (hb : (s.interp k).busy = false) (hs : startPacket { s with cur := k } k q = u)
include hb hs

theorem packetRun_starts : packetRun s k = runSteps u k (u.interp k).done 600 := by
  unfold packetRun
  dsimp only
  rw [show (State.interp { s with cur := k } k) = s.interp k from rfl, hq]
  dsimp only
  rw [if_neg (Bool.eq_false_iff.mp hb), hs]
  rfl

/-- A packet that has not started runs no step. -/
theorem packetRun_idle (hu : (u.interp k).busy = false) : packetRun s k = u :=
  (packetRun_starts hq hb hs).trans (runSteps_stopped (canStep_of_not_busy hu) _)

end

theorem packetRunsLaws : Stmt.PacketRuns := by
  refine ⟨fun s k q hq => ⟨fun hb h => ?released, fun hb => ?goesOn, fun hb hst hn => ?overflows,
    fun u hb hst h0 hn => ⟨fun hr => ?waits, fun code a hr => ?faults⟩, fun u v hb hst h0 hn hr => ?starts⟩,
    fun s k n f i hc hn hp hd => runSteps_succ hc hn (packetStep_bytecode hp hd) f,
    fun s k n f hc hn hp => runSteps_succ hc hn (packetStep_native hp) f, fun s k n f hc => runSteps_stopped hc f,
    fun s w i h => exec_eq_lerantStep h s⟩
  case released =>
    exact congrArg Host.Outcome.next (packetRun_idle hq hb (startPacket_released h) (releaseInterp_busy hb))
  case goesOn => exact congrArg Host.Outcome.next (packetRun_goesOn hq hb)
  case overflows =>
    refine congrArg Host.Outcome.next (packetRun_idle hq hb (startPacket_overflows hst hn) (releaseInterp_busy ?_))
    rw [(logged_queueOverflow { s with cur := k } q).interp]
    exact hb
  case waits =>
    have hl := logged_feRead { s with cur := k } k q (nextSlot (s.queue q)) 1024
    refine congrArg Host.Outcome.next (packetRun_idle hq hb (startPacket_waits (s := { s with cur := k }) hst h0 hn hr) ?_)
    rw [nextSlot, hr] at hl
    rw [show u.interp k = s.interp k from hl.interp k]
    exact hb
  case faults =>
    have hl := logged_feRead { s with cur := k } k q (nextSlot (s.queue q)) 1024
    refine congrArg Host.Outcome.next (packetRun_idle hq hb (startPacket_faults (s := { s with cur := k }) hst h0 hn hr)
      (releaseInterp_busy ?_))
    rw [nextSlot, hr] at hl
    rw [(logged_queueFault u q code a).interp, show u.interp k = s.interp k from hl.interp k]
    exact hb
  case starts =>
    exact congrArg Host.Outcome.next (packetRun_starts hq hb (startPacket_starts (s := { s with cur := k }) hst h0 hn hr))

/-! ### Native packets (R71) -/

section
variable {s : State} {q kind : Nat} (hq : (s.interp s.cur).queue = some q) (he : (s.interp s.cur).emits = 0)
  (hk : fld (Tab.get 0 (s.interp s.cur).pkt 0) 63 56 = kind)
include hq he hk

theorem nativeStep_noop (h0 : kind = 0) : nativeStep s = endPacket s s.cur true := by
  unfold nativeStep
  dsimp only
  rw [hq]
  dsimp only
  rw [hk, he, h0]
  rfl

theorem nativeStep_noKind (h6 : 6 < kind) : nativeStep s = rejectPacket s s.cur q eDraft 32 := by
  unfold nativeStep
  dsimp only
  rw [hq]
  dsimp only
  rw [hk, he, if_neg (by simp; omega), if_pos h6]

variable (h0 : 0 < kind) (h6 : kind ≤ 6)
include h0 h6

theorem nativeStep_reserved {w : Nat}
    (hw : (span 0 16).find? (fun w => nativeRest kind w (Tab.get 0 (s.interp s.cur).pkt w) != 0) = some w) :
    nativeStep s = rejectPacket s s.cur q eDraft (wordN (32 + w)) := by
  unfold nativeStep
  dsimp only
  rw [hq]
  dsimp only
  rw [hk, he, if_neg (by simp; omega), if_neg (Nat.not_lt.mpr h6), hw]

theorem nativeStep_emits (hw : (span 0 16).find? (fun w => nativeRest kind w (Tab.get 0 (s.interp s.cur).pkt w) != 0) = none) :
    nativeStep s =
      feEmit (kind - 1) (s.setInterp s.cur { s.interp s.cur with draft := nativeDraft kind (s.interp s.cur).pkt }) := by
  unfold nativeStep
  dsimp only
  rw [hq]
  dsimp only
  rw [hk, he, if_neg (by simp; omega), if_neg (Nat.not_lt.mpr h6), hw]

end

theorem nativePackets : Stmt.NativePackets := by
  intro s q hq he k x kind bad t
  refine ⟨nativeStep_noop hq he rfl, nativeStep_noKind hq he rfl, fun h0 h6 w hw => nativeStep_reserved hq he rfl h0 h6 hw,
    fun hw => ?_⟩
  have emits {i : Instr} {n : Nat} (hn : kind = n + 1) (h6 : n < 6) (hi : exec i t = .next (feEmit n t)) :
      Gives i t (nativeStep s) := by
    have h := nativeStep_emits hq he (kind := kind) rfl (by omega) (by omega) hw
    rw [show kind - 1 = n by omega] at h
    exact hi.trans (congrArg Host.Outcome.next h.symm)
  exact ⟨fun hk => emits hk (by decide) rfl, fun hk => emits hk (by decide) rfl, fun hk => emits hk (by decide) rfl,
    fun hk => emits hk (by decide) rfl, fun hk => emits hk (by decide) rfl, fun hk => emits hk (by decide) rfl⟩

/-- Settles O44: a packet starts by one of five cases, and each step of it is the step of its bytecode or of the native decoder. -/
theorem packetRuns : Obligations.PacketRuns := ⟨packetRunsLaws, nativePackets⟩

end Sys2Proof.Proofs
end

section
/-!
PROOFS. Cold reset, recovery, link reset and training (O55), and a nanosecond in which a record of the error log waits (O3).
-/
namespace Sys2Proof.Proofs

open Sys2Proof.Machine Sys2Proof.Laws Sys2Proof.Stmt

/-! ### Recovery (R77, R78) -/

theorem accepts_false {f : Firm} {i : FwImage} (h : i.root = false ∨ i.version < f.minVer ∨ i.sig.length ≠ 2820) :
    accepts f true i = false := by
  have hlen : signBytes = 2820 := rfl
  obtain hroot | hver | hsig := h
  · simp [accepts, hroot]
  · simp [accepts, Nat.not_le.mpr hver]
  · simp [accepts, hlen, hsig]

/-- Which root firmware runs, and the fused minimum: measurements and the identity fuses leave this as it is. -/
def rootStatus (f : Firm) : Bool × Bool × Nat × Nat := (f.up, f.recovery, f.rootVer, f.minVer)

theorem rootStatus_extendMeas (f : Firm) (k : Nat) (d : List Byte) : rootStatus (extendMeas f k d) = rootStatus f := by
  simp only [extendMeas, rootStatus]

theorem rootStatus_burnBlock (f : Firm) : rootStatus (burnBlock f) = rootStatus f := by
  unfold burnBlock
  split <;> rfl

theorem rootStatus_held (f : Firm) (h : Bool) : rootStatus { f with mgmtHeld := h } = rootStatus f := rfl

theorem rootStatus_runRoot (f : Firm) (i : FwImage) : rootStatus (runRoot f i) = (true, false, i.version, f.minVer) := by
  unfold runRoot
  extract_lets g1 g2 m
  have hmin : g1.minVer = f.minVer := by simp only [g1, extendMeas]
  have hg : rootStatus g2 = (true, false, i.version, f.minVer) := by rw [rootStatus_burnBlock, rootStatus, hmin]
  split
  · rw [rootStatus_held, rootStatus_extendMeas, hg]
  · exact hg

theorem recover_accepted {s : State} {i : FwImage} (hr : s.firm.recovery = true) (ha : accepts s.firm true i = true) :
    recover s i = { s with firm := runRoot s.firm i } := if_pos (by simp [hr, ha])

theorem recover_refused {s : State} {i : FwImage} (h : s.firm.recovery = false ∨ accepts s.firm true i = false) :
    recover s i = s := if_neg (by grind)

/-- Settles O55: a cold reset is the reset state with the fuses kept, and of a recovery only the root firmware's own run is new. -/
theorem resetsAndPorts : Obligations.ResetsAndPorts := by
  intro s img p wd gen cxl
  refine ⟨?cold, fun hr => ?recovery, fun hr => ?running, accepts_false, rfl, fun hw hg => ?trained⟩
  case cold => exact ⟨resetCold s, rfl, rfl, rfl, rfl, rfl, rfl, rfl, rfl, rfl, rfl, rfl, rfl, rfl, rfl, rfl, rfl⟩
  case recovery =>
    refine ⟨recover s img, rfl, ?_⟩
    by_cases ha : accepts s.firm true img = true
    · obtain ⟨hup, hrec, hver, hmin⟩ : _ ∧ _ ∧ _ ∧ _ := by
        simpa only [rootStatus, Prod.mk.injEq] using rootStatus_runRoot s.firm img
      rw [recover_accepted hr ha, if_pos ha]
      exact ⟨rfl, hup, hrec, hver, hmin⟩
    · rw [recover_refused (.inr (Bool.eq_false_iff.mpr ha)), if_neg ha]
      exact ⟨rfl, rfl⟩
  case running => exact congrArg Host.Outcome.next (recover_refused (.inl hr))
  case trained =>
    change Host.Outcome.next (setPort s p { portOf' s p with up := true, cxl := cxl, width := wd % 32, gen := gen % 8 }) = _
    rw [Nat.mod_eq_of_lt hw, Nat.mod_eq_of_lt hg]
    rfl

/-! ### A nanosecond in which a record waits (R72, R73, R118) -/

/-- The package with its root firmware running, nothing under way in the fabric or from the host, and one record that waits to be
written to the error log. -/
def waitingRecord : State :=
  { State.reset with
    fe := { FrontEnd.init with elogLate := [0] }
    firm := { Firm.init with up := true } }

theorem nano_waitingRecord : (nano waitingRecord).fe.elogLate = [] := by decide +kernel

/-- Refutes O3: where nothing is on its way, the boot is done and no management firmware runs, the statement has a nanosecond change
device time alone; a record that waits to be written to the error log is tried again then (R72, R118), and stops waiting. -/
theorem not_stepsRunTurns : ¬ Obligations.StepsRunTurns := by
  rintro ⟨-, -, -, hclocks⟩
  obtain ⟨-, -, hquiet, -⟩ := hclocks waitingRecord
  have hnano := hquiet rfl rfl rfl rfl rfl
  have hlate : (nano waitingRecord).fe.elogLate = [0] := by rw [hnano]; rfl
  rw [nano_waitingRecord] at hlate
  cases hlate

end Sys2Proof.Proofs
end

section
/-!
PROOFS. The six emits: how an emit ends, what the checks of each kind accept, and what a launch that they accept holds (O45).
-/
namespace Sys2Proof.Proofs

open Sys2Proof.Machine Sys2Proof.Laws Sys2Proof.Stmt

/-! ### How an emit ends (R68, R70) -/

section
variable {s t : State} {q : Nat} {check : State → Nat → Nat → Interp → ERes} {submit : State → Nat → Nat → Req → State}
  (hq : (s.interp s.cur).queue = some q)
include hq

theorem runEmit_again (he : (s.interp s.cur).emits < (s.queue q).pemit) : runEmit s check submit = s.setInterp s.cur
    (goTo { s.interp s.cur with emits := (s.interp s.cur).emits + 1, draft := draftInit } ((s.interp s.cur).pc + 1)) := by
  unfold runEmit
  dsimp only
  rw [hq]
  exact if_pos he

variable (he : (s.queue q).pemit ≤ (s.interp s.cur).emits)
include he

theorem runEmit_ok {r : Req} (hc : check s s.cur q (s.interp s.cur) = .ok t r) :
    runEmit s check submit = submit (clearParts t (.interp s.cur)) s.cur q r := by
  unfold runEmit
  dsimp only
  rw [hq]
  dsimp only
  rw [if_neg (Nat.not_lt.mpr he), hc]

theorem runEmit_park (hc : check s s.cur q (s.interp s.cur) = .park t) : runEmit s check submit = t := by
  unfold runEmit
  dsimp only
  rw [hq]
  dsimp only
  rw [if_neg (Nat.not_lt.mpr he), hc]

/-- A refusal without a record in the error log. -/
theorem runEmit_rej {code d : Nat} (hc : check s s.cur q (s.interp s.cur) = .rej t code d none) :
    runEmit s check submit = rejectPacket t s.cur q code (wordN d) := by
  unfold runEmit
  dsimp only
  rw [hq]
  dsimp only
  rw [if_neg (Nat.not_lt.mpr he), hc]

end

/-! ### Checks (R70, R377) -/

theorem firstBad_eq_none {l : List (Bool × Nat × Nat)} : firstBad l = none ↔ ∀ e ∈ l, e.1 = false := by
  induction l with
  | nil => simp [firstBad]
  | cons e r ih =>
    obtain ⟨b, c, d⟩ := e
    cases b <;> simp [firstBad, ih]

theorem recordBad_eq_false {x : Interp} {m : Nat} : recordBad x m = false ↔ RecordOk x m := by
  unfold recordBad RecordOk
  by_cases h : draftNat x 20 = 0
  · simp [h]
  · simp [h, and_assoc]

theorem rangeBad_eq_false {a n : Nat} : rangeBad a n = false ↔ 2 ^ 52 ≤ a ∧ a + n ≤ 14 * 2 ^ 52 := by
  simp only [rangeBad, Bool.or_eq_false_iff, decide_eq_false_iff_not, Nat.not_lt]
  rfl

section
variable {s : State} {k q : Nat} {x : Interp}

theorem checkTransfer_ok (hd : depsBad s q x = none) (hr : RecordOk x 256) (hsrc : rangeBad (draftNat x 21) (draftNat x 23) = false)
    (hdst : rangeBad (draftNat x 22) (draftNat x 23) = false) (h0 : 0 < draftNat x 23) (hn : draftNat x 23 ≤ 2 ^ 40)
    (hm : draftNat x 21 + draftNat x 23 ≤ draftNat x 22 ∨ draftNat x 22 + draftNat x 23 ≤ draftNat x 21) :
    checkTransfer s k q x = .ok s (newReq s q x 1) := by
  have hlen : (draftNat x 23 == 0 || decide (2 ^ 40 < draftNat x 23)) = false := by simp; omega
  unfold checkTransfer
  dsimp only
  rw [hd, Option.none_or, hlen, firstBad_eq_none.mpr]
  simp [recordBad_eq_false.mpr hr, hsrc, hdst]
  omega

/-- A transfer of no bits whose fields are in range otherwise. -/
theorem checkTransfer_empty (hd : depsBad s q x = none) (hr : RecordOk x 256) (hsrc : rangeBad (draftNat x 21) 1 = false)
    (hdst : rangeBad (draftNat x 22) 1 = false) (h0 : draftNat x 23 = 0) : checkTransfer s k q x = .rej s eDraft 23 none := by
  unfold checkTransfer
  simp [hd, h0, firstBad, recordBad_eq_false.mpr hr, hsrc, hdst]

/-- What both pin requests ask of their draft. -/
def PinDraft (x : Interp) : Prop := 0 < draftNat x 5 ∧ draftNat x 5 < 2 ^ 16 ∧ RecordOk x 256

theorem checkPin_create (hp : PinDraft x) (hop : fld (draftAt x 24) 63 62 = 0) (hres : fld (draftAt x 24) 61 9 = 0)
    (h0 : 0 < fld (draftAt x 24) 4 0) (h16 : fld (draftAt x 24) 8 5 + fld (draftAt x 24) 4 0 ≤ 16) :
    checkPin s k q x = .ok s (newReq s q x 2) := by
  obtain ⟨hh0, hh16, hr⟩ := hp
  unfold checkPin
  dsimp only
  rw [firstBad_eq_none.mpr]
  simp [recordBad_eq_false.mpr hr, hop, hres]
  omega

theorem checkPin_release (hp : PinDraft x) (hw : draftAt x 24 = BitVec.ofNat 64 (2 ^ 62)) :
    checkPin s k q x = .ok s (newReq s q x 2) := by
  obtain ⟨hh0, hh16, hr⟩ := hp
  have hop : fld (BitVec.ofNat 64 (2 ^ 62)) 63 62 = 1 := by decide
  have hres : fld (BitVec.ofNat 64 (2 ^ 62)) 61 9 = 0 := by decide
  have hbanks : fld (BitVec.ofNat 64 (2 ^ 62)) 8 0 = 0 := by decide
  unfold checkPin
  dsimp only
  rw [hw, hop, hres, hbanks, firstBad_eq_none.mpr]
  simp [recordBad_eq_false.mpr hr]
  omega

theorem checkResync_noRecord (ha : draftNat x 20 = 0) : checkResync s k q x = .ok s { newReq s q x 3 with st := 3 } := by
  have hr : recordBad x 4096 = false := recordBad_eq_false.mpr (.inl ha)
  unfold checkResync
  dsimp only
  rw [hr, ha]
  rfl

theorem checkResync_written {t : State} {z : Nat} (ha : draftNat x 20 ≠ 0) (hr : RecordOk x 4096)
    (hk : keptWrite s k (draftNat x 20) = none)
    (hw : feWrite (keepWrite s k (draftNat x 20) (summary s q (draftNat x 23)).1 (summary s q (draftNat x 23)).2) k q (draftNat x 20)
      (summary s q (draftNat x 23)).1 (summary s q (draftNat x 23)).2 = .ok t z) :
    checkResync s k q x = .ok t { newReq s q x 3 with st := 3 } := by
  unfold checkResync
  dsimp only
  rw [recordBad_eq_false.mpr hr, if_neg Bool.false_ne_true, if_neg ha, hk]
  dsimp only [Option.getD_none]
  rw [hw]

theorem checkCommit_ok (hc : (s.queue q).ctx = 0) (hv : draftNat x 9 ≤ s.firm.rootVer) (hr : RecordOk x 256) :
    checkCommit s k q x = .ok { s with firm := { s.firm with minVer := max s.firm.minVer (draftNat x 9) } }
      { newReq s q x 5 with st := 3 } := by
  unfold checkCommit
  dsimp only
  rw [if_neg (by simp [hc]), if_neg (Nat.not_lt.mpr hv), recordBad_eq_false.mpr hr]
  rfl

theorem checkCommit_tooNew (hc : (s.queue q).ctx = 0) (hv : s.firm.rootVer < draftNat x 9) :
    checkCommit s k q x = .rej s eDraft 9 none := by
  unfold checkCommit
  dsimp only
  rw [if_neg (by simp [hc]), if_pos hv]

theorem checkCommit_perm (hc : (s.queue q).ctx ≠ 0) : checkCommit s k q x = .rej s ePerm 5 none := if_pos (by simpa using hc)

theorem checkAttest_perm (hc : (s.queue q).ctx ≠ 0) : checkAttest s k q x = .rej s ePerm 4 none := if_pos (by simpa using hc)

/-- An attest without a record reads its nonce and burns no index. -/
theorem checkAttest_noRecord {t : State} {v : Nat} (hc : (s.queue q).ctx = 0) (ha : draftNat x 20 = 0)
    (hr : feRead s k q (draftNat x 21) 256 = .ok t v) : checkAttest s k q x = .ok t { newReq s q x 4 with st := 3 } := by
  have hrec : recordBad x 4096 = false := recordBad_eq_false.mpr (.inl ha)
  unfold checkAttest
  dsimp only
  rw [if_neg (by simp [hc]), hrec, if_neg Bool.false_ne_true, hr]
  exact if_pos ha

end

/-! ### Pin requests (R379) -/

section
variable {s : State} {k q : Nat} {r : Req}

theorem submitPin_create (hop : pinOp r = 0) (hc : createRefused s (pinHandle r) r.tag = false) : submitPin s k q r =
    enterCreate (submitReq { s with fe := { s.fe with creates := s.fe.creates ++ [(pinHandle r, r.ctx, r.tag)] } } k q r) r.tag :=
  (if_pos hop).trans (if_neg (Bool.eq_false_iff.mp hc))

theorem submitPin_create_refused (hop : pinOp r = 0) (hc : createRefused s (pinHandle r) r.tag = true) : submitPin s k q r =
    refuseCreate (enterCreate (submitReq { s with fe := { s.fe with
      creates := s.fe.creates ++ [(pinHandle r, r.ctx, r.tag)] } } k q r) r.tag) r.tag :=
  (if_pos hop).trans (if_pos hc)

theorem submitPin_release (hop : pinOp r ≠ 0) (hc : releaseRefused s r.ctx (pinHandle r) r.tag = false) : submitPin s k q r =
    submitReq { s with fe := { s.fe with releases := s.fe.releases ++ [(pinHandle r, r.tag)] } } k q r :=
  (if_neg hop).trans (if_neg (Bool.eq_false_iff.mp hc))

theorem submitPin_release_refused (hop : pinOp r ≠ 0) (hc : releaseRefused s r.ctx (pinHandle r) r.tag = true) : submitPin s k q r =
    refusePin (submitReq { s with fe := { s.fe with releases := s.fe.releases ++ [(pinHandle r, r.tag)] } } k q r) r :=
  (if_neg hop).trans (if_pos hc)

end

theorem pinOp_release {s : State} {q : Nat} {x : Interp} (hw : draftAt x 24 = BitVec.ofNat 64 (2 ^ 62)) :
    pinOp (newReq s q x 2) ≠ 0 := by
  change fld (draftAt x 24) 63 62 ≠ 0
  rw [hw]
  decide

theorem createRefused_iff (s : State) (h tag : Nat) : createRefused s h tag = true ↔ s.hasPin h = true ∨ 1024 ≤ s.fe.pins.length ∨
    ∃ e ∈ s.fe.creates.takeWhile (fun e => e.2.2 != tag), e.1 = h := by
  simp only [createRefused, Bool.or_eq_true, List.any_eq_true, beq_iff_eq, decide_eq_true_eq]
  exact or_assoc.trans (or_congr_right or_comm)

/-! ### The emits that submit a request (R70, R74, R79, R89, R379) -/

theorem emitsSubmit : Stmt.EmitsSubmit := by
  intro s q hq k x y src dst n w h r c pinOk
  refine ⟨fun he => ⟨fun hd hr hs0 hs1 hd0 hd1 h0 hn hm => ?transfer,
    fun hp hop hres h0 h16 => ⟨fun hc => ?create, fun hc => ?createRefused⟩,
    fun hp hw => ⟨fun hc => ?release, fun hc => ?releaseRefused⟩, createRefused_iff s h, fun ha => ?resyncNoRecord,
    fun t z ha hr hk hw => ?resync, fun hc hv hr => ?commit, fun hc hv => ?commitTooNew, fun hc => ⟨?commitPerm, ?attestPerm⟩,
    fun h0 hd hr hs0 hs1 hd0 hd1 => ?transferEmpty⟩, fun he => ?again⟩
  case transfer =>
    exact congrArg Host.Outcome.next (runEmit_ok hq he
      (checkTransfer_ok hd hr (rangeBad_eq_false.mpr ⟨hs0, hs1⟩) (rangeBad_eq_false.mpr ⟨hd0, hd1⟩) h0 hn hm))
  case create =>
    exact congrArg Host.Outcome.next ((runEmit_ok hq he (checkPin_create hp hop hres h0 h16)).trans (submitPin_create hop hc))
  case createRefused =>
    exact congrArg Host.Outcome.next ((runEmit_ok hq he (checkPin_create hp hop hres h0 h16)).trans (submitPin_create_refused hop hc))
  case release =>
    exact congrArg Host.Outcome.next ((runEmit_ok hq he (checkPin_release hp hw)).trans (submitPin_release (pinOp_release hw) hc))
  case releaseRefused =>
    exact congrArg Host.Outcome.next
      ((runEmit_ok hq he (checkPin_release hp hw)).trans (submitPin_release_refused (pinOp_release hw) hc))
  case resyncNoRecord => exact congrArg Host.Outcome.next (runEmit_ok hq he (checkResync_noRecord ha))
  case resync => exact congrArg Host.Outcome.next (runEmit_ok hq he (checkResync_written ha hr hk hw))
  case commit => exact congrArg Host.Outcome.next (runEmit_ok hq he (checkCommit_ok hc hv hr))
  case commitTooNew => exact congrArg Host.Outcome.next (runEmit_rej hq he (checkCommit_tooNew hc hv))
  case commitPerm => exact congrArg Host.Outcome.next (runEmit_rej hq he (checkCommit_perm hc))
  case attestPerm => exact congrArg Host.Outcome.next (runEmit_rej hq he (checkAttest_perm hc))
  case transferEmpty =>
    exact congrArg Host.Outcome.next (runEmit_rej hq he (checkTransfer_empty hd hr (rangeBad_eq_false.mpr ⟨hs0, hs1⟩)
      (rangeBad_eq_false.mpr ⟨hd0, hd1⟩) h0))
  case again =>
    simp only [List.forall_mem_cons]
    exact ⟨congrArg Host.Outcome.next (runEmit_again hq he), congrArg Host.Outcome.next (runEmit_again hq he),
      congrArg Host.Outcome.next (runEmit_again hq he), congrArg Host.Outcome.next (runEmit_again hq he),
      congrArg Host.Outcome.next (runEmit_again hq he), congrArg Host.Outcome.next (runEmit_again hq he), by simp⟩

end Sys2Proof.Proofs
end

section
/-!
PROOFS. Launch and attest: what the checks of a launch accept is in range, and how a launch and a wait for a root counter end (O45).
-/
namespace Sys2Proof.Proofs

open Sys2Proof.Machine Sys2Proof.Laws Sys2Proof.Stmt

/-! ### What the checks of a launch read (R20, R21, R90, R91) -/

theorem fld_lt_two_pow {n : Nat} (v : BitVec n) (hi lo : Nat) : fld v hi lo < 2 ^ (hi + 1 - lo) := Nat.mod_lt _ (Nat.two_pow_pos _)

theorem length_span (a n : Nat) : (span a n).length = n := by
  induction n generalizing a with
  | zero => rfl
  | succ n ih => simp [span, ih]

theorem readFormats_n {s t : State} {k q base h : Nat} {i j : Img} (hr : readFormats s k q base h i = .ok t j) : j.n = i.n := by
  simp only [readFormats] at hr
  split at hr
  · cases hr; rfl
  · split at hr
    · cases hr
    · cases hr
    · split at hr <;> cases hr
      rfl

/-- An image that is read has one to four strands to a team (R20). -/
theorem readImage_n {s t : State} {k q base : Nat} {i : Img} (hr : readImage s k q base = .ok t i) : 1 ≤ i.n ∧ i.n ≤ 4 := by
  simp only [readImage] at hr
  split at hr
  · cases hr
  · cases hr
  next u h _ =>
    split at hr
    · cases hr
    · split at hr
      · cases hr
      · cases hr
      · split at hr
        · cases hr
        · have hlt := fld_lt_two_pow (wordAt h 0) 1 0
          have hn : i.n = fld (wordAt h 0) 1 0 + 1 := readFormats_n hr
          omega

/-- An input-stream table has at most eight entries (R90). -/
theorem readStreams_length {s t : State} {k q : Nat} {x : Interp} {i : Img} {pin : Option (Nat × Nat)} {es : List InStream}
    (hr : readStreams s k q x i pin = .ok (t, es)) : es.length ≤ 8 := by
  simp only [readStreams] at hr
  split at hr
  · cases hr
  next hbad =>
    split at hr
    · cases hr
      exact Nat.zero_le 8
    · split at hr
      · cases hr
      · cases hr
      · split at hr
        · cases hr
        · cases hr
          simp only [streamsBad, Bool.not_eq_true, Bool.or_eq_false_iff, decide_eq_false_iff_not] at hbad
          rw [List.length_map, length_span]
          omega

theorem launchFields_none {s : State} {q : Nat} {x : Interp} {i : Img} (h : launchFields s q x i = none) :
    1 ≤ draftNat x 1 ∧ draftNat x 1 ≤ 2 ^ 20 ∧ draftNat x 2 ≤ 1 ∧ draftNat x 3 ≤ 3 ∧
      (draftNat x 2 = 1 → draftNat x 1 ≤ 64 ∧ draftNat x 1 * i.n ≤ 256) ∧ draftNat x 5 < 2 ^ 16 ∧ draftNat x 6 ≤ 1 ∧
      256 ≤ draftNat x 7 ∧ draftNat x 7 ≤ 16777215 ∧ draftNat x 8 < 2 ^ 40 := by
  have hall := firstBad_eq_none.mp h
  simp only [List.forall_mem_cons, Bool.or_eq_false_iff, decide_eq_false_iff_not, beq_eq_false_iff_ne] at hall
  obtain ⟨⟨⟨⟨ht0, ht1⟩, hgang⟩, -⟩, hg, hcls, hpin, -, -, haff, ⟨hc0, hc1⟩, hcd, -⟩ := hall
  have hcores : draftNat x 2 = 1 → ¬ 256 < draftNat x 1 * i.n := fun h1 => by simpa [h1] using hgang
  split at ht1 <;> grind

/-- What a launch that passes its checks has passed, and the request that it makes. -/
theorem checkLaunch_accepts {s t : State} {k q : Nat} {x : Interp} {r : Req} (h : checkLaunch s k q x = .ok t r) :
    ∃ s1 s2 i es dep pin, draftNat x 0 % 4096 = 0 ∧ readImage s1 k q (draftNat x 0) = .ok s2 i ∧ launchFields s2 q x i = none ∧
      readStreams s2 k q x i pin = .ok (t, es) ∧
      r = { newReq t q x 0 with img := i, ins := es, e := 2 ^ 63, counter := true, pinDep := dep } := by
  simp only [checkLaunch] at h
  split at h
  · cases h
  next hbase =>
    split at h
    · cases h
    · split at h
      · cases h
      · cases h
      next hi =>
        split at h
        · cases h
        next hf =>
          split at h
          next hs => exact absurd h (readStreams_error_ne_ok hs)
          next hs =>
            split at h
            · cases h
            · cases h
              refine ⟨_, _, _, _, _, _, by grind, hi, (Option.or_eq_none_iff.mp hf).1, hs, rfl⟩

theorem checkLaunch_misaligned {s : State} {k q : Nat} {x : Interp} (h : draftNat x 0 % 4096 ≠ 0) :
    checkLaunch s k q x = .rej s eDraft 0 none := if_pos (by simp [h])

/-! ### The end of a launch, and the wait for a root counter (R70) -/

section
variable {s : State} {k q : Nat} {r : Req}

theorem submitLaunch_free (h : countersUsed s < 4096) : submitLaunch s k q r = submitReq s k q r := if_pos h

theorem submitLaunch_waits (h : 4096 ≤ countersUsed s) :
    submitLaunch s k q r = s.setInterp k { s.interp k with pend := some r } := if_neg (Nat.not_lt.mpr h)

theorem gives_waitEnd (hq : (s.interp k).queue = some q) (hp : (s.interp k).pend = some r) (h : countersUsed s < 4096) :
    Gives (.rootCounterWaitEnd k) s (submitReq s k q r) := by
  change execRootCounterWaitEnd k s = _
  unfold execRootCounterWaitEnd
  dsimp only
  rw [hq, hp]
  exact congrArg Host.Outcome.next (if_pos h)

theorem gives_waitGoesOn (k : Nat) (h : 4096 ≤ countersUsed s) : Gives (.rootCounterWaitEnd k) s s := by
  change execRootCounterWaitEnd k s = _
  unfold execRootCounterWaitEnd
  dsimp only
  split
  · exact congrArg Host.Outcome.next (if_neg (Nat.not_lt.mpr h))
  · rfl

end

theorem launchAndAttest : Stmt.LaunchAndAttest := by
  intro s t q hq he k x c
  refine ⟨fun r hc hf => ?submits, fun r hc hf => ?waits, fun hc => ?parks, fun r hc => ?accepts, fun h0 => ?misaligned,
    fun v hctx ha hr => ?attest, fun r j p hj hp hf => gives_waitEnd hj hp hf, gives_waitGoesOn⟩
  case submits => exact congrArg Host.Outcome.next ((runEmit_ok hq he hc).trans (submitLaunch_free hf))
  case waits => exact congrArg Host.Outcome.next ((runEmit_ok hq he hc).trans (submitLaunch_waits hf))
  case parks => exact congrArg Host.Outcome.next (runEmit_park hq he hc)
  case accepts =>
    obtain ⟨s1, s2, i, es, dep, pin, h0, hi, hf, hs, rfl⟩ := checkLaunch_accepts hc
    obtain ⟨ht0, ht1, hg, hcls, hgang, hpin, haff, hc0, hc1, hcd⟩ := launchFields_none hf
    obtain ⟨hn0, hn1⟩ := readImage_n hi
    exact ⟨rfl, rfl, rfl, rfl, rfl, h0, ht0, ht1, hg, hcls, hgang, hpin, haff, hc0, hc1, hcd, hn0, hn1, readStreams_length hs⟩
  case misaligned => exact congrArg Host.Outcome.next (runEmit_rej hq he (checkLaunch_misaligned h0))
  case attest => exact congrArg Host.Outcome.next (runEmit_ok hq he (checkAttest_noRecord hctx ha hr))

/-- Settles O45: an emit ends as its kind's checks end, and the checks are taken apart one by one. -/
theorem emits : Obligations.Emits := ⟨emitsSubmit, launchAndAttest⟩

end Sys2Proof.Proofs
end

section
/-!
PROOFS. Rules of the state that the launch family shares: a change of several cores, memory that a step leaves as it was, merged tables.
-/
namespace Sys2Proof.Proofs

open Sys2Proof.Machine Sys2Proof.Laws Sys2Proof.Stmt

theorem sameMemory_of_hbm {s u : State} (h : u.hbm = s.hbm) : SameMemory s u := fun _ => by rw [h]

/-! ### One change of several cores -/

section
variable {f : Core → Core}

/-- A change of several cores reaches each as often as the list names it. -/
theorem core_foldl_onCore (l : List Nat) (s : State) (k : Nat) :
    (l.foldl (fun s c => s.onCore c f) s).core k = f^[l.count k] (s.core k) := by
  induction l generalizing s with
  | nil => rfl
  | cons c l ih =>
    rw [List.foldl_cons, ih, onCore_core_get, List.count_cons]
    by_cases h : k = c
    · subst h
      simp
    · simp [h, Ne.symm h]

theorem core_foldl_onCore_of_mem {l : List Nat} {k : Nat} (h : k ∈ l) (s : State) :
    ∃ x, (l.foldl (fun s c => s.onCore c f) s).core k = f x := by
  obtain ⟨n, hn⟩ := Nat.exists_eq_add_one_of_ne_zero (List.count_pos_iff.mpr h).ne'
  exact ⟨_, by rw [core_foldl_onCore, hn, Function.iterate_succ_apply']⟩

/-- A change that does not act a second time reaches each core of the list once. -/
theorem core_foldl_onCore_of_idem {l : List Nat} {k : Nat} (hf : ∀ x, f (f x) = f x) (h : k ∈ l) (s : State) :
    (l.foldl (fun s c => s.onCore c f) s).core k = f (s.core k) := by
  obtain ⟨n, hn⟩ := Nat.exists_eq_add_one_of_ne_zero (List.count_pos_iff.mpr h).ne'
  rw [core_foldl_onCore, hn, Function.iterate_succ_apply, Function.iterate_fixed (hf _)]

theorem core_foldl_onCore_of_not_mem {l : List Nat} {k : Nat} (h : k ∉ l) (s : State) :
    (l.foldl (fun s c => s.onCore c f) s).core k = s.core k := by
  rw [core_foldl_onCore, List.count_eq_zero.mpr h]
  rfl

/-- A change of several cores leaves everything but the cores as it was. -/
theorem foldl_onCore_eq (l : List Nat) (s : State) :
    l.foldl (fun s c => s.onCore c f) s = { s with cores := (l.foldl (fun s c => s.onCore c f) s).cores } := by
  induction l generalizing s with
  | nil => rfl
  | cons c l ih =>
    rw [List.foldl_cons, ih]
    rfl

@[simp] theorem foldl_onCore_hbm (l : List Nat) (s : State) : (l.foldl (fun s c => s.onCore c f) s).hbm = s.hbm := by
  rw [foldl_onCore_eq]

@[simp] theorem foldl_onCore_fe (l : List Nat) (s : State) : (l.foldl (fun s c => s.onCore c f) s).fe = s.fe := by
  rw [foldl_onCore_eq]

end

/-! ### Merged tables -/

/-- A merged table reads as the second one where that lists an entry, and as the first one elsewhere. -/
theorem tab_get_mergeTab {α : Type} (d : α) (t u : Tab α) (j : Nat) :
    Tab.get d (mergeTab t u) j = Tab.get (Tab.get d t j) u j := by
  induction u with
  | nil => rfl
  | cons e u ih =>
    rw [show mergeTab t (e :: u) = Tab.put e.1 e.2 (mergeTab t u) from rfl, tab_get_put, ih, tab_get_cons]
    simp only [eq_comm]

/-- Banks [a, a+n) of one table beside the rest of another. -/
theorem tab_get_mergeBanks {α : Type} (d : α) (per a n : Nat) (t u : Tab α) (w : Nat) :
    Tab.get d (mergeTab (clearBanks per a n t) (onlyBanks per a n u)) w =
      if a ≤ w / per ∧ w / per < a + n then Tab.get d u w else Tab.get d t w := by
  rw [tab_get_mergeTab, onlyBanks, tab_get_keep, clearBanks, tab_get_keep]
  by_cases h : a ≤ w / per ∧ w / per < a + n
  · simp [h]
  · have hp : (decide (a ≤ w / per) && decide (w / per < a + n)) = false := by simpa using h
    simp [hp, h]

/-- A cleared bank reads its default. -/
theorem tab_get_clearBanks {α : Type} (d : α) {per a n w : Nat} (t : Tab α) (h : a ≤ w / per) (h' : w / per < a + n) :
    Tab.get d (clearBanks per a n t) w = d := by
  simp [clearBanks, tab_get_keep, h, h']

end Sys2Proof.Proofs
end

section
/-!
PROOFS. The scoreboards and the dependences of requests: which held request enters next, where, and how its dependences are judged (O46).
-/
namespace Sys2Proof.Proofs

open Sys2Proof.Machine Sys2Proof.Laws Sys2Proof.Stmt

/-! ### The scoreboards (R86 to R88) -/

theorem waitsBefore_false {a b : Req} {m m' : Nat} (ha : a.met = some m) (hb : b.met = some m') (h : waitsBefore a b = false) :
    m' < m ∨ (m' = m ∧ b.tag ≤ a.tag) := by
  simp only [waitsBefore, ha, hb, Bool.or_eq_false_iff, Bool.and_eq_false_imp, beq_iff_eq, decide_eq_false_iff_not] at h
  omega

/-- No other held request waits before the one that enters next. -/
theorem not_waitsBefore_of_isNextHeld {s : State} {r : Req} {e : Nat × Req} (h : isNextHeld s r = true) (he : e ∈ s.fe.reqs)
    (hst : e.2.st = 0) : waitsBefore e.2 r = false := by
  simp only [isNextHeld, Bool.and_eq_true, List.all_eq_true] at h
  simpa [hst] using h.2 e he

section
variable {s : State} {tag : Nat}

/-- The die whose entry the request takes: a transfer the lowest with a free one, another request one on every die (R87). -/
def entryDie (s : State) (r : Req) : Option Nat :=
  if r.kind = 1 then xferDie s else if (span 0 4).all (scoreFree s) then some 0 else none

/-- The next held request enters where it finds its entries, and else waits (R88). -/
theorem gives_entry (hreq : s.hasReq tag = true) (hnext : isNextHeld s (s.req tag) = true) :
    Gives (.requestEnterScoreboard tag) s ((entryDie s (s.req tag)).elim s (enterScore s (s.req tag))) := by
  refine congrArg Host.Outcome.next ((if_neg (by simp [hreq, hnext])).trans ?_)
  unfold entryDie
  split
  · cases xferDie s <;> rfl
  · split <;> rfl

theorem gives_notNext (h : s.hasReq tag = false ∨ isNextHeld s (s.req tag) = false) : Gives (.requestEnterScoreboard tag) s s :=
  congrArg Host.Outcome.next (if_pos (by simpa using h))

theorem scoreFree_iff {d : Nat} : scoreFree s d = true ↔ scoreUsed s d < 256 := decide_eq_true_iff

theorem all_scoreFree_iff : (span 0 4).all (scoreFree s) = true ↔ ∀ d, d < 4 → scoreUsed s d < 256 := by
  simp [mem_span, scoreFree_iff]

/-- A transfer's die is the lowest with a free entry (R87). -/
theorem xferDie_eq_some {d : Nat} (hd : d < 4) (hfree : scoreUsed s d < 256) (hfull : ∀ j, j < d → 256 ≤ scoreUsed s j) :
    xferDie s = some d :=
  find?_span_eq_some (Nat.zero_le d) (by omega) (scoreFree_iff.mpr hfree) fun j _ hj => decide_eq_false (Nat.not_lt.mpr (hfull j hj))

theorem entryDie_all {r : Req} (hk : r.kind ≠ 1) (hfree : ∀ d, d < 4 → scoreUsed s d < 256) : entryDie s r = some 0 :=
  (if_neg hk).trans (if_pos (all_scoreFree_iff.mpr hfree))

theorem entryDie_full {r : Req} {d : Nat} (hk : r.kind ≠ 1) (hd : d < 4) (hfull : 256 ≤ scoreUsed s d) : entryDie s r = none :=
  (if_neg hk).trans (if_neg fun hall => Nat.not_lt.mpr hfull (all_scoreFree_iff.mp hall d hd))

theorem entryDie_transfer {r : Req} {d : Nat} (hk : r.kind = 1) (hd : d < 4) (hfree : scoreUsed s d < 256)
    (hfull : ∀ j, j < d → 256 ≤ scoreUsed s j) : entryDie s r = some d := (if_pos hk).trans (xferDie_eq_some hd hfree hfull)

end

theorem requestsEnterLaws : Stmt.RequestsEnter := by
  intro s tag r n u enter
  refine ⟨fun hreq hnext => ?next, gives_notNext, fun e he hnext hst m m' hm hm' => ?order⟩
  case next =>
    have hentry := gives_entry hreq hnext
    refine ⟨fun hk hfree => ?all, fun hk ⟨d, hd, hfull⟩ => ?full, fun d hk hd hfree hfull => ?transfer⟩
    case all => rwa [entryDie_all hk hfree] at hentry
    case full => rwa [entryDie_full hk hd hfull] at hentry
    case transfer => rwa [entryDie_transfer hk hd hfree hfull] at hentry
  case order => exact waitsBefore_false hm hm' (not_waitsBefore_of_isNextHeld hnext he hst)

/-! ### Dependences (R83 to R85) -/

section
variable {s : State} {r : Req} {n : Nat}

theorem judgeDep_inFrontEnd {tag : Nat} (cond : Nat) (h : s.hasReq tag = true) : judgeDep s cond tag = none := if_pos h

theorem judgeDep_retired {tag cond : Nat} {clean : Bool} (h : s.hasReq tag = false)
    (hr : s.fe.retired.find? (fun e => e.1 == tag) = some (tag, clean)) : judgeDep s cond tag = some (clean || cond == 1) := by
  rw [judgeDep, if_neg (Bool.eq_false_iff.mp h), hr]

theorem judgeReq_notHeld (h : isHeld r = false) : judgeReq s n r = r := if_pos (by simp [h])

/-- What the judgements of its dependences make of a held request (R85, R88). -/
theorem judgeReq_held (h : isHeld r = true) : judgeReq s n r =
    if ∃ d ∈ depsOf r, judgeDep s d.1 d.2 = some false then { r with status := 2, st := 3 }
    else if ∃ d ∈ depsOf r, judgeDep s d.1 d.2 = none then r else { r with met := some n } := by
  have hmem (o : Option Bool) : ((depsOf r).map (fun d => judgeDep s d.1 d.2)).contains o = true ↔
      ∃ d ∈ depsOf r, judgeDep s d.1 d.2 = o := by
    rw [List.contains_iff_mem, List.mem_map]
  simp only [judgeReq, h, hmem, Bool.not_true, Bool.false_eq_true, if_false]

end

theorem requestDependences : Stmt.RequestDependences := by
  intro s r n tag cond
  refine ⟨judgeDep_inFrontEnd cond, fun clean => judgeDep_retired, judgeReq_notHeld, fun hheld hfailed => ?cancelled,
    fun hheld hmet => ?met, fun hheld hwaits hnone => ?unmet⟩
  case cancelled => rw [judgeReq_held hheld, if_pos hfailed]
  case met => rw [judgeReq_held hheld, if_neg (by grind), if_neg (by grind)]
  case unmet => rw [judgeReq_held hheld, if_neg (by grind), if_pos hwaits]

/-- Settles O46: the branches of the step that enters a request, and of the judgement of dependences. -/
theorem requestsEnter : Obligations.RequestsEnter := ⟨requestsEnterLaws, requestDependences⟩

end Sys2Proof.Proofs
end

section
/-!
PROOFS. Pins: how a create and a release end, and how a partition moves (O48).
-/
namespace Sys2Proof.Proofs

open Sys2Proof.Machine Sys2Proof.Laws Sys2Proof.Stmt

/-! ### The pin that a create makes (R379) -/

/-- A new pin: the banks are wiped core by core, then the pin and the end of its create are noted. -/
theorem makePin_eq (s : State) (r : Req) (cl : Nat) : makePin s r cl =
    ((((span 0 4).map (4 * cl + ·)).foldl (fun s c => s.onCore c (fun x => wipeBanks x (pinFirst r) (pinBanks r))) s).setPin (pinHandle r)
      ⟨r.ctx, cl, pinFirst r, pinBanks r, 0, 0, none, r.tag⟩).setReq r.tag
      { r with st := 3, status := 0, detail := pinDetail (pinHandle r) cl (pinFirst r) (pinBanks r) } := by
  rw [List.foldl_map]
  rfl

theorem makePin_pin (s : State) (r : Req) (cl : Nat) :
    (makePin s r cl).pin (pinHandle r) = ⟨r.ctx, cl, pinFirst r, pinBanks r, 0, 0, none, r.tag⟩ := by
  rw [makePin_eq, setReq_pin_of, setPin_pin_get, if_pos rfl]

theorem makePin_hbm (s : State) (r : Req) (cl : Nat) : (makePin s r cl).hbm = s.hbm := by
  rw [makePin_eq, setReq_hbm, setPin_hbm, foldl_onCore_hbm]

/-- The banks of a new pin are zero on every core of its cluster. -/
theorem makePin_spad {r : Req} {w i : Nat} (s : State) (cl : Nat) (hi : i < 4) (hlo : pinFirst r ≤ w / 2560)
    (hhi : w / 2560 < pinFirst r + pinBanks r) : Tab.get 0 ((makePin s r cl).core (4 * cl + i)).spad w = 0 := by
  have hmem : 4 * cl + i ∈ (span 0 4).map (4 * cl + ·) := List.mem_map_of_mem (mem_span.mpr ⟨Nat.zero_le i, by omega⟩)
  obtain ⟨x, hx⟩ := core_foldl_onCore_of_mem (f := fun x => wipeBanks x (pinFirst r) (pinBanks r)) hmem s
  rw [makePin_eq, setReq_core_of, setPin_core_of, hx]
  exact tab_get_clearBanks 0 x.spad hlo hhi

/-! ### How a create and a release end (R97, R379) -/

section
variable {s : State} {tag : Nat}

/-- The candidate and the cluster with which the create `tag` is placed now: it is the first that fits on a die that may place. -/
def createTurn (s : State) (tag : Nat) : Option (Cand × Nat) :=
  (span 0 4).findSome? (fun d => (firstFit s d).filter (fun p => p.1.create && p.1.tag == tag && mayPlace s d))

/-- A create that has entered the scoreboards. -/
def IsCreate (s : State) (tag : Nat) : Prop :=
  s.hasReq tag = true ∧ (s.req tag).kind = 2 ∧ pinOp (s.req tag) = 0 ∧ (s.req tag).st = 1

theorem execPinCreate_eq (h : IsCreate s tag) : execPinCreate tag s = .next (
    if (s.req tag).status = 4 || createRefused s (pinHandle (s.req tag)) tag then refusePin s (s.req tag)
    else match createTurn s tag with
      | some (c, cl) => dispPlaced (tookTurn (makePin s (s.req tag) cl) (clusterDie cl) (s.req tag)) c cl
      | none => topCare s 0) := by
  obtain ⟨hreq, hkind, hop, hst⟩ := h
  exact congrArg Host.Outcome.next (if_neg (by simp [hreq, hkind, hop, hst]))

theorem gives_createRefused (h : IsCreate s tag)
    (hr : (s.req tag).status = 4 ∨ createRefused s (pinHandle (s.req tag)) tag = true) :
    Gives (.pinCreate tag) s (refusePin s (s.req tag)) :=
  (execPinCreate_eq h).trans (congrArg Host.Outcome.next (if_pos (by simpa using hr)))

theorem gives_createPlaced {c : Cand} {cl : Nat} (h : IsCreate s tag) (hs : (s.req tag).status ≠ 4)
    (hr : createRefused s (pinHandle (s.req tag)) tag = false) (ht : createTurn s tag = some (c, cl)) :
    Gives (.pinCreate tag) s (dispPlaced (tookTurn (makePin s (s.req tag) cl) (clusterDie cl) (s.req tag)) c cl) :=
  (execPinCreate_eq h).trans (congrArg Host.Outcome.next ((if_neg (by simp [hs, hr])).trans (by rw [ht])))

theorem gives_createWaits (h : IsCreate s tag) (hs : (s.req tag).status ≠ 4)
    (hr : createRefused s (pinHandle (s.req tag)) tag = false) (ht : createTurn s tag = none) :
    Gives (.pinCreate tag) s (topCare s 0) :=
  (execPinCreate_eq h).trans (congrArg Host.Outcome.next ((if_neg (by simp [hs, hr])).trans (by rw [ht])))

/-- A release whose pin no launch names and whose create is no longer outstanding. -/
def IsRelease (s : State) (tag : Nat) : Prop :=
  s.hasReq tag = true ∧ (s.req tag).kind = 2 ∧ pinOp (s.req tag) = 1 ∧ (s.req tag).st = 0 ∧
    pinInUse s (pinHandle (s.req tag)) = false ∧ s.fe.creates.any (fun c => c.1 == pinHandle (s.req tag)) = false

/-- Such a release does not wait: the guard of its step is false. -/
theorem releaseGuard_false (h : IsRelease s tag) : ¬ (!s.hasReq tag || (s.req tag).kind != 2 || pinOp (s.req tag) != 1 ||
    (s.req tag).st != 0 || pinInUse s (pinHandle (s.req tag)) || s.fe.creates.any (fun c => c.1 == pinHandle (s.req tag))) = true := by
  obtain ⟨hreq, hkind, hop, hst, huse, hc⟩ := h
  rw [hreq, hkind, hop, hst, huse, hc]
  decide

theorem gives_releaseRefused (h : IsRelease s tag)
    (hr : releaseRefused s (s.req tag).ctx (pinHandle (s.req tag)) tag = true) :
    Gives (.pinRelease tag) s (refusePin s (s.req tag)) :=
  congrArg Host.Outcome.next ((if_neg (releaseGuard_false h)).trans (if_pos hr))

theorem gives_releaseWaits (h : pinInUse s (pinHandle (s.req tag)) = true) : Gives (.pinRelease tag) s s :=
  congrArg Host.Outcome.next (if_pos (by simp [h]))

end

theorem pinRequests : Stmt.PinRequests := by
  intro s tag r h here turn
  refine ⟨fun ⟨hreq, hkind⟩ hop hst hr => gives_createRefused ⟨hreq, hkind, hop, hst⟩ hr,
    fun ⟨hreq, hkind⟩ hop hst hs hr => ⟨fun c cl ht => gives_createPlaced ⟨hreq, hkind, hop, hst⟩ hs hr ht,
      fun ht => gives_createWaits ⟨hreq, hkind, hop, hst⟩ hs hr ht⟩,
    fun cl => ⟨makePin_pin s r cl, sameMemory_of_hbm (makePin_hbm s r cl), fun i w hi => makePin_spad s cl hi⟩,
    fun ⟨hreq, hkind⟩ hop hst huse hc => ⟨gives_releaseRefused ⟨hreq, hkind, hop, hst, huse, hc⟩, fun hr => ?released⟩,
    gives_releaseWaits⟩
  case released =>
    exact congrArg Host.Outcome.next
      ((if_neg (releaseGuard_false ⟨hreq, hkind, hop, hst, huse, hc⟩)).trans (if_neg (Bool.eq_false_iff.mp hr)))

/-! ### The move of a partition (R98) -/

theorem partitionsMove : Stmt.PartitionsMove := by
  refine ⟨fun s h hpin hst => ?moves, fun s h hno => ?stays, fun x y a n w => ⟨?spad, ?tags, rfl, rfl⟩⟩
  case moves => exact congrArg Host.Outcome.next (if_neg (by simp [hpin, hst]))
  case stays => exact congrArg Host.Outcome.next (if_pos (by simpa using hno))
  case spad => exact tab_get_mergeBanks 0 2560 a n x.spad y.spad w
  case tags => exact tab_get_mergeBanks 0 1024 a n x.tags y.tags w

/-- Settles O48: the guards of creates and releases, the cleared banks of a new pin, and the copied banks of a moved one. -/
theorem pinsAndPartitions : Obligations.PinsAndPartitions := ⟨pinRequests, partitionsMove⟩

end Sys2Proof.Proofs
end

section
/-!
PROOFS. Dispatch: how a launch's class ages, and what a placement leaves (O49).
-/
namespace Sys2Proof.Proofs

open Sys2Proof.Machine Sys2Proof.Laws Sys2Proof.Stmt

/-! ### Aging (R96) -/

/-- One more full period of the launch on die `d` has passed: the guard of its aging. -/
theorem agingDue_iff (s : State) (d tag : Nat) :
    (s.hasReq tag && hasReadyTeam s (s.req tag) && agePeriod s d (draftOf (s.req tag) 3).toNat != 0
      && decide ((Tab.get 0 (s.req tag).aged d + 1) * agePeriod s d (draftOf (s.req tag) 3).toNat
        ≤ s.fe.time.toNat - (s.req tag).since.toNat)
      && decide (Tab.get 0 (s.req tag).aged d < (draftOf (s.req tag) 3).toNat)) = true ↔
    s.hasReq tag = true ∧ hasReadyTeam s (s.req tag) = true ∧ agePeriod s d (draftOf (s.req tag) 3).toNat ≠ 0 ∧
      (Tab.get 0 (s.req tag).aged d + 1) * agePeriod s d (draftOf (s.req tag) 3).toNat
        ≤ s.fe.time.toNat - (s.req tag).since.toNat ∧
      Tab.get 0 (s.req tag).aged d < (draftOf (s.req tag) 3).toNat := by
  simp only [Bool.and_eq_true, bne_iff_ne, decide_eq_true_eq, and_assoc]

/-- A class that has aged once more is lower by one, down to 0. -/
theorem effClass_aged (r : Req) (d : Nat) :
    effClass { r with aged := Tab.set 0 d (Tab.get 0 r.aged d + 1) r.aged } d = effClass r d - 1 := by
  rw [effClass, effClass, tab_get_set_self]
  exact Nat.sub_add_eq _ _ _

theorem classesAge : Stmt.ClassesAge := fun s d tag _ =>
  ⟨fun hdue => ⟨congrArg Host.Outcome.next (if_pos ((agingDue_iff s d tag).mpr hdue)), effClass_aged _ d⟩,
    fun hnot => congrArg Host.Outcome.next (if_neg (hnot ∘ (agingDue_iff s d tag).mp))⟩

/-! ### The start state of a strand (R18) -/

section
variable (ws : List Word)

/-- Argument words go to G registers alone. -/
theorem loadArgs_eq (d : Dup) (i : Nat) : loadArgs d i ws = { d with g := (loadArgs d i ws).g } := by
  induction ws generalizing d i with
  | nil => rfl
  | cons w ws ih =>
    rw [loadArgs, ih]
    rfl

theorem loadArgs_greg_below (d : Dup) {i j : Nat} (h : j < i) : (loadArgs d i ws).greg j = d.greg j := by
  induction ws generalizing d i with
  | nil => rfl
  | cons w ws ih => rw [loadArgs, ih _ (Nat.lt_succ_of_lt h), writeG_greg_get, if_neg h.ne]

/-- Argument `j` stands in the `j`-th register from the first. -/
theorem loadArgs_greg_val (d : Dup) (i j : Nat) : ((loadArgs d i ws).greg (i + j)).val = (ws[j]?).getD (d.greg (i + j)).val := by
  induction ws generalizing d i j with
  | nil => rfl
  | cons w ws ih =>
    cases j with
    | zero => simp [loadArgs, loadArgs_greg_below ws _ (Nat.lt_add_one i)]
    | succ j =>
      rw [loadArgs, Nat.add_comm j 1, ← Nat.add_assoc, ih, writeG_greg_get, if_neg (by omega), Nat.add_comm 1 j]
      rfl

end

/-- The duplicate registers of a strand that starts: clear but for its formats and arguments. -/
def startDup (s : State) (n : Nat) : Dup := loadArgs { Dup.init with fmt := (s.req (s.team n).tag).img.fmt } 0 (s.team n).args

theorem startCore_dup (s : State) (k n i : Nat) : (startCore s k n i).dup = startDup s n := rfl

theorem startDup_greg_val (s : State) (n j : Nat) : ((startDup s n).greg j).val = ((s.team n).args[j]?).getD 0 := by
  have h := loadArgs_greg_val (s.team n).args { Dup.init with fmt := (s.req (s.team n).tag).img.fmt } 0 j
  rw [Nat.zero_add] at h
  exact h

theorem startDup_clear (s : State) (n : Nat) : (startDup s n).loops = [] ∧ (startDup s n).c = 0 ∧
    (∀ p, (startDup s n).port p = 0) ∧ (∀ p, (startDup s n).vreg p = 0) ∧ ∀ p, (startDup s n).latch p = 0 := by
  rw [startDup, loadArgs_eq]
  exact ⟨rfl, rfl, fun _ => rfl, fun _ => rfl, fun _ => rfl⟩

/-- Of the scratchpad and of the tag tables a placement keeps the pinned banks alone (R98). -/
theorem tab_get_keepPinned (s : State) (c per : Nat) (t : Tab Word) (w : Nat) :
    Tab.get 0 (keepPinned s c per t) w = if pinnedBank s (c / 4) (w / per) then Tab.get 0 t w else 0 := tab_get_keep _ _ _ _

/-! ### What a placement books (R95 to R99, R181) -/

/-- `u` has the memory, the pulse, the cores and the teams of `s`: only the books of the dispatchers differ. -/
structure Booked (s u : State) : Prop where
  hbm : u.hbm = s.hbm
  pow : u.pow = s.pow
  cores : u.cores = s.cores
  teams : u.fe.teams = s.fe.teams

namespace Booked

theorem refl (s : State) : Booked s s := ⟨rfl, rfl, rfl, rfl⟩

theorem trans {s t u : State} (h : Booked s t) (h' : Booked t u) : Booked s u :=
  ⟨h'.hbm.trans h.hbm, h'.pow.trans h.pow, h'.cores.trans h.cores, h'.teams.trans h.teams⟩

theorem foldl {α : Type} {f : State → α → State} (hf : ∀ s a, Booked s (f s a)) (l : List α) (s : State) :
    Booked s (l.foldl f s) := by
  induction l generalizing s with
  | nil => exact .refl s
  | cons a l ih => exact (hf s a).trans (ih _)

variable {s u : State} (h : Booked s u)
include h

theorem core (k : Nat) : u.core k = s.core k := by rw [State.core, State.core, h.cores]
theorem team (n : Nat) : u.team n = s.team n := by rw [State.team, State.team, h.teams]

end Booked

theorem booked_setDie (s : State) (d : Nat) (x : Disp) : Booked s (s.setDie d x) := ⟨rfl, rfl, rfl, rfl⟩

theorem booked_updReq (s : State) (tag : Nat) (f : Req → Req) : Booked s (s.updReq tag f) := by
  rcases updReq_cases s tag f with h | h <;> rw [h]
  · exact .refl s
  · exact ⟨rfl, rfl, rfl, rfl⟩

theorem booked_freeRecord (s : State) (tm : Team) : Booked s (freeRecord s tm) := by
  unfold freeRecord
  split
  · exact ⟨rfl, rfl, rfl, rfl⟩
  · exact .refl s

theorem booked_takePin (s : State) (h t : Nat) : Booked s (takePin s h t) := by
  unfold takePin
  split
  · exact .refl s
  · exact ⟨rfl, rfl, rfl, rfl⟩

theorem booked_tookTurn (s : State) (d : Nat) (r : Req) : Booked s (tookTurn s d r) := by
  unfold tookTurn
  split
  · exact ⟨rfl, rfl, rfl, rfl⟩
  · exact .refl s

theorem booked_launchPlaced (s : State) (tag d : Nat) (gang : Bool) : Booked s (launchPlaced s tag d gang) := by
  have hrest := (booked_tookTurn s d (s.req tag)).trans
    (booked_updReq _ tag (fun r => { r with aged := [], since := (tookTurn s d (s.req tag)).fe.time }))
  unfold launchPlaced
  split
  · exact .refl s
  · dsimp only
    split
    · exact hrest.trans ⟨rfl, rfl, rfl, rfl⟩
    · exact hrest

theorem booked_dropResv (s : State) (c : Cand) : Booked s (dropResv s c) := by
  have hdies (l : List Nat) := Booked.foldl (fun s d => booked_setDie s d { s.die d with
    resv := match (s.die d).resv with | some (k, cl) => if k = candKey c then none else some (k, cl) | none => none }) l s
  unfold dropResv
  dsimp only
  split
  · exact (hdies _).trans ⟨rfl, rfl, rfl, rfl⟩
  · exact hdies _

theorem booked_dispPlaced (s : State) (c : Cand) (cl : Nat) : Booked s (dispPlaced s c cl) :=
  (booked_dropResv s c).trans (booked_setDie _ _ _)

/-- A placement is timed on its die (R97). -/
theorem dispPlaced_lastPlace (s : State) (c : Cand) (cl : Nat) :
    ((dispPlaced s c cl).die (clusterDie cl)).lastPlace = some s.pow.pulse := by
  rw [dispPlaced, setDie_die_get, if_pos rfl, (booked_dropResv s c).pow]

/-! ### The cores that a team occupies (R15, R18) -/

/-- The core waits for the first bundle of team `n`. -/
def WaitsFor (n : Nat) (x : Core) : Prop := x.team = some n ∧ x.run = .waiting

theorem waitsFor_placeCore (s : State) (c n k : Nat) : WaitsFor n (placeCore s c n k) := ⟨rfl, rfl⟩

theorem waitsFor_startCore (s : State) (c n k : Nat) (h : Half) : WaitsFor n { startCore s c n k with half0 := h } := ⟨rfl, rfl⟩

section
variable (n : Nat) (fresh : Bool) (cs : List Nat)

theorem occupy_eq (s : State) (k : Nat) : occupy s n fresh k cs = { s with cores := (occupy s n fresh k cs).cores } := by
  induction cs generalizing s k with
  | nil => rfl
  | cons c cs ih =>
    rw [occupy, ih]
    rfl

theorem occupy_hbm (s : State) (k : Nat) : (occupy s n fresh k cs).hbm = s.hbm := by rw [occupy_eq]
theorem occupy_pow (s : State) (k : Nat) : (occupy s n fresh k cs).pow = s.pow := by rw [occupy_eq]
theorem occupy_fe (s : State) (k : Nat) : (occupy s n fresh k cs).fe = s.fe := by rw [occupy_eq]

theorem waitsFor_occupy (s : State) (k : Nat) {c : Nat} (h : c ∈ cs ∨ WaitsFor n (s.core c)) :
    WaitsFor n ((occupy s n fresh k cs).core c) := by
  induction cs generalizing s k with
  | nil => exact h.resolve_left List.not_mem_nil
  | cons d cs ih =>
    rw [occupy]
    refine ih _ _ ?_
    by_cases hd : c = d
    · rw [setCore_core_get, if_pos hd]
      cases fresh
      · exact .inr (waitsFor_placeCore s d n k)
      · exact .inr (waitsFor_startCore s d n k _)
    · rw [setCore_core_get, if_neg hd]
      exact h.imp_left fun hmem => (List.mem_cons.mp hmem).resolve_left hd

end

/-! ### A placement (R15, R94, R97) -/

section
variable {s : State} {c : Cand} {d : Nat}

theorem claimTeam_some {k : Nat} (h : c.team = some k) : claimTeam s c d = (s, k) := by rw [claimTeam, h]

theorem claimTeam_none (h : c.team = none) : claimTeam s c d =
    ((claimNext s c.tag).1.updReq c.tag (fun r => { r with claimAt := some ((claimNext s c.tag).1.pow.pulse, d) }), s.fe.nextTeam) := by
  rw [claimTeam, h]
  rfl

/-- A claim makes the next initial team of a launch, and changes nothing else but the books. -/
theorem claimNext_claims (s : State) (tag : Nat) : (claimNext s tag).1.hbm = s.hbm ∧ (claimNext s tag).1.pow = s.pow ∧
    ((claimNext s tag).1.team s.fe.nextTeam).slot = none := by
  have hb := booked_updReq (addTeam s (initialTeam (s.req tag))) tag (fun r => { r with claimed := r.claimed + 1 })
  refine ⟨hb.hbm, hb.pow, ?_⟩
  rw [claimNext, hb.team, State.team, addTeam, tab_get_put, if_pos rfl]
  rfl

theorem claimTeam_keeps (s : State) (c : Cand) (d : Nat) : (claimTeam s c d).1.hbm = s.hbm ∧ (claimTeam s c d).1.pow = s.pow := by
  cases hteam : c.team with
  | some k => rw [claimTeam_some hteam]; exact ⟨rfl, rfl⟩
  | none =>
    obtain ⟨hhbm, hpow, -⟩ := claimNext_claims s c.tag
    rw [claimTeam_none hteam, updReq_hbm, updReq_pow]
    exact ⟨hhbm, hpow⟩

end

/-- The record of team `n` with its cluster and cores. -/
def seatedTeam (s : State) (c : Cand) (cl n : Nat) (cores : List Nat) : Team :=
  { s.team n with
    st := if (s.team n).slot.isNone then .placed else .restoring, cluster := cl, cores := cores, clock := 0,
    filled := (s.team n).spawned || ((freeRecord s (s.team n)).req c.tag).ins.isEmpty, fillAt := 0, asked := false }

/-- Team `n` occupies its cores, before the books of its placement are written. -/
def seatTeam (s : State) (c : Cand) (cl n : Nat) (cores : List Nat) : State :=
  occupy ((freeRecord s (s.team n)).setTeam n (seatedTeam s c cl n cores)) n (s.team n).slot.isNone 0 cores

theorem seatTeam_hbm (s : State) (c : Cand) (cl n : Nat) (cores : List Nat) : (seatTeam s c cl n cores).hbm = s.hbm := by
  rw [seatTeam, occupy_hbm, setTeam_hbm, (booked_freeRecord s _).hbm]

theorem seatTeam_pow (s : State) (c : Cand) (cl n : Nat) (cores : List Nat) : (seatTeam s c cl n cores).pow = s.pow := by
  rw [seatTeam, occupy_pow, setTeam_pow, (booked_freeRecord s _).pow]

theorem seatTeam_team (s : State) (c : Cand) (cl n : Nat) (cores : List Nat) :
    (seatTeam s c cl n cores).team n = seatedTeam s c cl n cores := by
  rw [seatTeam, State.team, occupy_fe, ← State.team, setTeam_team_get, if_pos rfl]

theorem seatTeam_core (s : State) (c : Cand) (cl n : Nat) {cores : List Nat} {k : Nat} (h : k ∈ cores) :
    WaitsFor n ((seatTeam s c cl n cores).core k) := waitsFor_occupy n _ cores _ 0 (.inl h)

theorem booked_placeTeam {s t : State} {c : Cand} {cl n : Nat} (hclaim : claimTeam s c (clusterDie cl) = (t, n)) :
    Booked (seatTeam t c cl n ((freeCores s cl).take c.n)) (placeTeam s c cl) := by
  rw [placeTeam, hclaim]
  exact ((booked_takePin _ _ _).trans (booked_launchPlaced _ _ _ _)).trans (booked_dispPlaced _ _ _)

theorem placeTeam_lastPlace {s t : State} {c : Cand} {cl n : Nat} (hclaim : claimTeam s c (clusterDie cl) = (t, n)) :
    ((placeTeam s c cl).die (clusterDie cl)).lastPlace = some t.pow.pulse := by
  rw [placeTeam, hclaim]
  refine (dispPlaced_lastPlace _ c cl).trans ?_
  rw [(booked_launchPlaced _ _ _ _).pow, (booked_takePin _ _ _).pow]
  exact congrArg (fun p => some p.pulse) (seatTeam_pow t c cl n _)

/-- What a placement leaves (R15, R97): memory as it was, the time of placement, the team on its cores, which wait for its first
bundle. -/
theorem placeTeam_places {s t : State} {c : Cand} {cl n : Nat} (hclaim : claimTeam s c (clusterDie cl) = (t, n)) :
    (placeTeam s c cl).hbm = s.hbm ∧ ((placeTeam s c cl).die (clusterDie cl)).lastPlace = some s.pow.pulse ∧
    (placeTeam s c cl).team n = seatedTeam t c cl n ((freeCores s cl).take c.n) ∧
    ∀ k ∈ (freeCores s cl).take c.n, WaitsFor n ((placeTeam s c cl).core k) := by
  obtain ⟨hhbm, hpow⟩ := claimTeam_keeps s c (clusterDie cl)
  rw [hclaim] at hhbm hpow
  have hbook := booked_placeTeam hclaim
  refine ⟨hbook.hbm.trans ((seatTeam_hbm t c cl n _).trans hhbm), ?_, (hbook.team n).trans (seatTeam_team t c cl n _), fun k hk => ?_⟩
  · rw [placeTeam_lastPlace hclaim, hpow]
  · rw [hbook.core]
    exact seatTeam_core t c cl n hk

/-! ### The step (R97, R98) -/

section
variable {s : State} {d : Nat}

theorem gives_placementWaits (h : mayPlace s d = false) : Gives (.teamPlacement d) s s :=
  congrArg Host.Outcome.next (if_pos (by simp [h]))

theorem gives_startMove {c : Cand} {cl : Nat} (h : mayPlace s d = true) (hm : moveFor (topCare s d) d = some (c, cl)) :
    Gives (.teamPlacement d) s (startMove (topCare s d) c cl) :=
  congrArg Host.Outcome.next ((if_neg (by simp [h])).trans (by dsimp only; rw [hm]))

theorem gives_placeNext {u : State} (h : mayPlace s d = true) (hm : moveFor (topCare s d) d = none)
    (hu : placeNext (topCare s d) d = u) : Gives (.teamPlacement d) s u :=
  congrArg Host.Outcome.next ((if_neg (by simp [h])).trans (by dsimp only; rw [hm, hu]))

theorem placeNext_none (h : firstFit s d = none) : placeNext s d = s := by rw [placeNext, h]

theorem placeNext_later {c : Cand} {cl : Nat} (h : firstFit s d = some (c, cl)) (hl : c.create = true ∨ claimLate s c d = true) :
    placeNext s d = s := by
  rw [placeNext, h]
  exact if_pos (by simpa using hl)

theorem placeNext_places {c : Cand} {cl : Nat} (h : firstFit s d = some (c, cl)) (hc : c.create = false)
    (hl : claimLate s c d = false) : placeNext s d = placeTeam s c cl := by
  rw [placeNext, h]
  exact if_neg (by simp [hc, hl])

end

theorem teamsArePlaced : Stmt.TeamsArePlaced := by
  intro s d _ t
  refine ⟨gives_placementWaits, fun c cl => gives_startMove, fun h hm hf => gives_placeNext h hm (placeNext_none hf),
    fun c cl h hm hf hl => gives_placeNext h hm (placeNext_later hf hl), fun c cl h hm hf hc hl => ?places, fun k n i _ => ?starts⟩
  case places =>
    refine ⟨placeTeam t c cl, gives_placeNext h hm (placeNext_places hf hc hl), ?_⟩
    cases hteam : c.team with
    | some k =>
      obtain ⟨hhbm, hlast, hseat, hcores⟩ := placeTeam_places (cl := cl) (claimTeam_some (s := t) (d := clusterDie cl) hteam)
      refine ⟨sameMemory_of_hbm hhbm, hlast, by rw [hseat]; rfl, by rw [hseat]; rfl, fun j hj => ?_, nofun, hcores⟩
      rw [hseat]
      simp only [seatedTeam, Option.isNone_iff_eq_none]
    | none =>
      obtain ⟨hhbm, hlast, hseat, hcores⟩ := placeTeam_places (cl := cl) (claimTeam_none (s := t) (d := clusterDie cl) hteam)
      refine ⟨sameMemory_of_hbm hhbm, hlast, by rw [hseat]; rfl, by rw [hseat]; rfl, nofun, fun _ => ?_, hcores⟩
      rw [hseat]
      simp only [seatedTeam, updReq_team_of, (claimNext_claims t c.tag).2.2, Option.isNone_none, if_true]
  case starts =>
    have hclear := startDup_clear s n
    rw [← startCore_dup s k n i] at hclear
    obtain ⟨hloops, hcond, hports, hvregs, hlatches⟩ := hclear
    exact ⟨rfl, rfl, rfl, rfl, rfl, rfl, hloops, hcond, hports, hvregs, hlatches, fun j _ => startDup_greg_val s n j, rfl, rfl,
      fun w hw => (tab_get_keepPinned s k 2560 _ w).trans (if_neg (by simp [hw])), rfl,
      fun w hw => (tab_get_keepPinned s k 2560 _ w).trans (if_pos hw), tab_get_keepPinned s k 1024 _⟩

/-- Settles O49: the guard of aging, the frames of the books that a placement writes, and the start state of a strand. -/
theorem dispatch : Obligations.Dispatch := ⟨classesAge, teamsArePlaced⟩

end Sys2Proof.Proofs
end

section
/-!
PROOFS. Teams between placement and their first bundle: the fill of input streams, segment copies and the start (O50).
-/
namespace Sys2Proof.Proofs

open Sys2Proof.Machine Sys2Proof.Laws Sys2Proof.Stmt

/-! ### The pieces of a fill (R39, R92) -/

/-- A sector part lies in its access and in one sector, and is not empty. -/
theorem sectorPart_within {a n k : Nat} (h : k ∈ sectors a n) : a ≤ (sectorPart a n k).1 ∧ 0 < (sectorPart a n k).2 ∧
    (sectorPart a n k).1 + (sectorPart a n k).2 ≤ a + n ∧ (sectorPart a n k).1 % 256 + (sectorPart a n k).2 ≤ 256 := by
  unfold sectors at h
  split at h
  · exact absurd h List.not_mem_nil
  · obtain ⟨hlo, hhi⟩ := mem_span.mp h
    simp only [sectorPart]
    omega

/-- Every piece of an entry goes to its core, and lands as far from the entry's start as it is read (R92). -/
theorem entryUnits_piece {e : InStream} {j k c : Nat} {u : FillUnit} (h : u ∈ entryUnits e j k c) : u.core = c ∧ (u.bad = false →
    u.cls = ptrClass e.src ∧ (u.a : Int) = (ptrAddr e.src : Int) + j * e.tstride + k * e.cstride + (u.dst - e.dst) ∧
    e.dst ≤ u.dst ∧ u.dst + u.n ≤ e.dst + e.len ∧ 0 < u.n ∧ u.a % 256 + u.n ≤ 256) := by
  unfold entryUnits at h
  dsimp only at h
  split at h
  · obtain rfl := List.mem_singleton.mp h
    exact ⟨rfl, nofun⟩
  · next hin =>
    obtain ⟨m, hm, rfl⟩ := List.mem_map.mp h
    obtain ⟨hlo, hpos, hend, hsector⟩ := sectorPart_within hm
    have hsource : ((fillSource e j k).toNat : Int) = (ptrAddr e.src : Int) + j * e.tstride + k * e.cstride := by
      rw [Int.toNat_of_nonneg (by simp at hin; omega)]
      rfl
    refine ⟨rfl, fun _ => ⟨rfl, ?_, ?_, ?_, hpos, hsector⟩⟩ <;> dsimp only <;> omega

/-! ### How a piece ends (R90, R92, R118) -/

section
variable {s t : State} {n ctx : Nat} {u : FillUnit}

section
variable (hb : u.bad = false) (hm : isMem u.a = true)
include hb hm

theorem fillPiece_lands {v : Nat} {e : List Nat} (hr : whoRead s (.fill n) ctx gStream u.a u.n = (t, ⟨v, none, false, e⟩)) :
    fillPiece s n ctx u = (fillPlace t n ctx u v e, true) := by
  simp [fillPiece, hb, hm, hr]

theorem fillPiece_waits {v : Nat} {y : Option (Nat × Nat)} {e : List Nat}
    (hr : whoRead s (.fill n) ctx gStream u.a u.n = (t, ⟨v, y, true, e⟩)) : fillPiece s n ctx u = (t, false) := by
  simp [fillPiece, hb, hm, hr]

theorem fillPiece_fails {v code lo : Nat} {e : List Nat}
    (hr : whoRead s (.fill n) ctx gStream u.a u.n = (t, ⟨v, some (code, lo), false, e⟩)) :
    fillPiece s n ctx u = (fillKill t n code lo u.core, false) := by
  simp [fillPiece, hb, hm, hr]

end

section
variable (hb : u.bad = false) (hm : isMem u.a = false) (hw : isWin u.a = true)
include hb hm hw

theorem fillPiece_asks {w : Window} {x : Nat} (hr : windowFor s ctx u.a .rd = (t, .ok (w, x))) (hf : fabOn t = true) :
    fillPiece s n ctx u = ((sendFuller t (.fill n u.core (t.team n).fillAt u.n) (some (ctx, winNo u.a))
      { windowPacket t w x with tier := 1, op := kLoad, cls := u.cls, len := u.n }).updTeam n (fun x => { x with asked := true }),
      false) := by
  simp [fillPiece, hb, hm, hw, hr, hf]

theorem fillPiece_refused {code : Nat} (hr : windowFor s ctx u.a .rd = (t, .error code)) :
    fillPiece s n ctx u = (fillKill t n code u.a u.core, false) := by
  simp [fillPiece, hb, hm, hw, hr]

end

theorem fillList_goesOn {us : List FillUnit} (h : fillPiece s n ctx u = (t, true)) :
    fillList s n ctx (u :: us) = fillList t n ctx us := by rw [fillList, h]

theorem fillList_stops {us : List FillUnit} (h : fillPiece s n ctx u = (t, false)) : fillList s n ctx (u :: us) = t := by
  rw [fillList, h]

end

/-! ### The fill of a team (R92) -/

/-- The fill of a placed team goes on: it is not complete, and no answer is awaited. -/
def FillOpen (s : State) (n : Nat) : Prop := (s.team n).st = .placed ∧ (s.team n).filled = false ∧ (s.team n).asked = false

/-- A fill that has waited for longer than its threshold. -/
def FillLate (s : State) (n : Nat) : Prop :=
  (s.team n).st = .placed ∧ fillWaits s n = true ∧ parkThreshold s (s.req (s.team n).tag) ≠ 0 ∧
    parkThreshold s (s.req (s.team n).tag) < (s.team n).clock

section
variable {s : State} {n : Nat}

theorem fillStep_open (h : FillOpen s n) : fillStep s n =
    fillList s n (s.req (s.team n).tag).ctx ((fillUnits s n).drop (s.team n).fillAt) := by
  obtain ⟨hst, hfilled, hasked⟩ := h
  exact if_neg (by simp [hst, hfilled, hasked])

theorem fillStep_closed (h : ¬ FillOpen s n) : fillStep s n = s := by
  refine if_pos ?_
  simp only [FillOpen, ← Bool.not_eq_true] at h
  simp only [Bool.or_eq_true, bne_iff_ne]
  tauto

theorem gives_fill {l : List FillUnit} {u : State} (h : FillOpen s n) (hl : (fillUnits s n).drop (s.team n).fillAt = l)
    (hu : fillList s n (s.req (s.team n).tag).ctx l = u) : Gives (.inputStreamFill n) s u :=
  congrArg Host.Outcome.next ((fillStep_open h).trans (by rw [hl, hu]))

theorem fillLate_iff : ((s.team n).st == .placed && fillWaits s n && parkThreshold s (s.req (s.team n).tag) != 0 &&
    decide (parkThreshold s (s.req (s.team n).tag) < (s.team n).clock)) = true ↔ FillLate s n := by
  simp only [FillLate, Bool.and_eq_true, beq_iff_eq, bne_iff_ne, decide_eq_true_eq, and_assoc]

theorem booked_startOffer (s : State) (tag : Nat) : Booked s (startOffer s tag) := by
  unfold startOffer
  split
  · exact .refl s
  · exact booked_updReq _ _ _

/-- The state in which a team that gives its cores up has left them. -/
def leftCores (s : State) (n : Nat) : State :=
  (s.team n).cores.foldl (fun s c => s.onCore c clearCore) (dropFillFlights (dropParks s (placedPark (s.team n).cores n)) n)

theorem unplace_eq (s : State) (n : Nat) : unplace s n = (startOffer (leftCores s n) (s.team n).tag).setTeam n { s.team n with
    st := .ready, cores := [], filled := false, fillAt := 0, asked := false, clock := 0 } := rfl

theorem unplace_team (s : State) (n : Nat) : (unplace s n).team n = { s.team n with
    st := .ready, cores := [], filled := false, fillAt := 0, asked := false, clock := 0 } := by
  rw [unplace_eq, setTeam_team_get, if_pos rfl]

theorem unplace_hbm (s : State) (n : Nat) : (unplace s n).hbm = s.hbm := by
  rw [unplace_eq, setTeam_hbm, (booked_startOffer _ _).hbm, leftCores, foldl_onCore_hbm]
  rfl

theorem unplace_core {c : Nat} (h : c ∈ (s.team n).cores) : ((unplace s n).core c).team = none := by
  obtain ⟨x, hx⟩ := core_foldl_onCore_of_mem (f := clearCore) h (dropFillFlights (dropParks s (placedPark (s.team n).cores n)) n)
  rw [unplace_eq, setTeam_core_of, (booked_startOffer _ _).core, leftCores, hx]
  rfl

end

theorem inputStreamsFill : Stmt.InputStreamsFill := by
  intro s n tm open_ ctx left
  refine ⟨fun ho hl => gives_fill ho hl rfl, fun u r t ho hl hp => gives_fill ho hl (fillList_goesOn hp),
    fun u r t ho hl hp => gives_fill ho hl (fillList_stops hp), fun ho => congrArg Host.Outcome.next (fillStep_closed ho),
    fun u hb hm => ⟨fun t v e => fillPiece_lands hb hm, fun t v y e => fillPiece_waits hb hm,
      fun t v c lo e => fillPiece_fails hb hm⟩,
    fun u hb hm hw => ⟨fun t w x => fillPiece_asks hb hm hw, fun t c => fillPiece_refused hb hm hw⟩,
    fun e j k c u => entryUnits_piece, fun hlate => ?late, fun hnot => ?early⟩
  case late =>
    refine ⟨unplace s n, congrArg Host.Outcome.next (if_pos (fillLate_iff.mpr hlate)), ?_, ?_, ?_, sameMemory_of_hbm (unplace_hbm s n),
      fun c => unplace_core⟩ <;> rw [unplace_team]
  case early => exact congrArg Host.Outcome.next (if_neg (hnot ∘ fillLate_iff.mp))

/-! ### The start of a team (R24, R88, R93, R101) -/

/-- A strand begins to issue; an exited one stays exited (R182). -/
def startStrand (x : Core) : Core := { x with run := if x.run == .exited then .exited else .running }

theorem startStrand_idem (x : Core) : startStrand (startStrand x) = startStrand x := by
  by_cases h : (x.run == .exited) = true <;> simp [startStrand, h]

section
variable {s : State} {n : Nat}

/-- The strands of a team have begun to issue. -/
def strandsStarted (s : State) (n : Nat) : State := (s.team n).cores.foldl (fun s c => s.onCore c startStrand) s

theorem startTeam_eq (s : State) (n : Nat) : startTeam s n =
    ((strandsStarted s n).updReq (s.team n).tag (fun r => { r with st := if r.st = 1 then 2 else r.st })).setTeam n
      { s.team n with st := .running, fresh := false } := rfl

theorem startTeam_team (s : State) (n : Nat) : (startTeam s n).team n = { s.team n with st := .running, fresh := false } := by
  rw [startTeam_eq, setTeam_team_get, if_pos rfl]

theorem startTeam_hbm (s : State) (n : Nat) : (startTeam s n).hbm = s.hbm := by
  rw [startTeam_eq, setTeam_hbm, updReq_hbm, strandsStarted, foldl_onCore_hbm]

theorem startTeam_core (s : State) (n c : Nat) : (startTeam s n).core c = (strandsStarted s n).core c := by
  rw [startTeam_eq, setTeam_core_of, updReq_core_of]

/-- With its first team the launch runs (R88). -/
theorem startTeam_req (hreq : s.hasReq (s.team n).tag = true) (hst : (s.req (s.team n).tag).st = 1) :
    ((startTeam s n).req (s.team n).tag).st = 2 := by
  have hfe : (strandsStarted s n).fe = s.fe := foldl_onCore_fe _ s
  have hhas : (strandsStarted s n).hasReq (s.team n).tag = true := by rw [State.hasReq, hfe]; exact hreq
  have hold : (strandsStarted s n).req (s.team n).tag = s.req (s.team n).tag := by rw [State.req, hfe]; rfl
  rw [startTeam_eq, setTeam_req_of, State.updReq, if_pos hhas, setReq_req_get, if_pos rfl, hold]
  exact if_pos hst

end

theorem teamsStart : Stmt.TeamsStart := by
  refine ⟨fun s n hset hgang => ?starts, fun s n hnot => ?waits, fun s n => ⟨?team, ?memory, startTeam_req, fun c hc => ?others,
    fun c hc => ?strands⟩, fun s tag => ⟨fun hne hclaimed hset => ?gang, fun hnot => ?gangWaits⟩⟩
  case starts => exact congrArg Host.Outcome.next (if_pos (by simp [hset, hgang]))
  case waits => exact congrArg Host.Outcome.next (if_neg (by rcases hnot with h | h <;> simp [h]))
  case team => rw [startTeam_team]
  case memory => exact sameMemory_of_hbm (startTeam_hbm s n)
  case others => rw [startTeam_core, strandsStarted, core_foldl_onCore_of_not_mem hc]
  case strands =>
    rw [startTeam_core, strandsStarted, core_foldl_onCore_of_idem startStrand_idem hc, startStrand]
    simp only [beq_iff_eq]
  case gang =>
    refine congrArg Host.Outcome.next (if_pos ?_)
    simp only [Bool.and_eq_true, Bool.not_eq_true', List.isEmpty_eq_false_iff, beq_iff_eq, List.all_eq_true]
    exact ⟨⟨hne, hclaimed⟩, hset⟩
  case gangWaits =>
    refine congrArg Host.Outcome.next (if_neg ?_)
    simp only [Bool.and_eq_true, Bool.not_eq_true', List.isEmpty_eq_false_iff, beq_iff_eq, List.all_eq_true]
    rintro ⟨⟨hne, hclaimed⟩, hset⟩
    rcases hnot with hempty | hrest | ⟨n, hn, hunset⟩
    · exact hne hempty
    · exact hrest hclaimed
    · exact Bool.noConfusion ((hset n hn).symm.trans hunset)

/-! ### Segment copies (R103, R104, R184) -/

section
variable {α : Type} [DecidableEq α] (d : α)

theorem tab_get_setList_below (vs : List α) (t : Tab α) {k j : Nat} (h : j < k) : Tab.get d (Tab.setList d k vs t) j = Tab.get d t j := by
  induction vs generalizing k t with
  | nil => rfl
  | cons v vs ih => rw [Tab.setList, ih _ (Nat.lt_succ_of_lt h), tab_get_set, if_neg h.ne]

/-- Consecutive entries from `k` read as the values of the list. -/
theorem tab_get_setList (vs : List α) (t : Tab α) (k j : Nat) :
    Tab.get d (Tab.setList d k vs t) (k + j) = (vs[j]?).getD (Tab.get d t (k + j)) := by
  induction vs generalizing k t j with
  | nil => rfl
  | cons v vs ih =>
    cases j with
    | zero => simp [Tab.setList, tab_get_setList_below d vs _ (Nat.lt_add_one k)]
    | succ j =>
      rw [Tab.setList, Nat.add_comm j 1, ← Nat.add_assoc, ih, tab_get_set, if_neg (by omega), Nat.add_comm 1 j]
      rfl

end

theorem span_eq_range' (a n : Nat) : span a n = List.range' a n := by
  induction n generalizing a with
  | zero => rfl
  | succ n ih => rw [span, ih, List.range'_succ]

section
variable {s t : State} {c h k : Nat}

theorem segStart_eq (i : Img) (k : Nat) : segStart i k = if 2 ≤ i.nseg then 2048 * (k % 2) else 0 := by
  simp [segStart, multiSeg]

/-- A copied bundle stands at its index in instruction memory. -/
theorem installSeg_imem (x : Core) (h k first : Nat) {n j : Nat} (v : Nat) (hj : j < n) :
    Tab.get 0 (installSeg x h k first n v).imem (first + j) = BitVec.ofNat 192 (v >>> (192 * j)) := by
  refine (tab_get_setList 0 _ x.imem first j).trans ?_
  simp [span_eq_range', hj]

theorem installSeg_half (x : Core) (hh : h < 2) (k first n v : Nat) :
    (installSeg x h k first n v).half h = ⟨some k, true, false, false⟩ := by
  obtain rfl | rfl : h = 0 ∨ h = 1 := by omega
  · rfl
  · rfl

theorem gives_copy {u : State} (hc : ((s.core c).half h).copying = true) (hs : ((s.core c).half h).seg = some k)
    (hu : copySegment s c h k = u) : Gives (.segmentCopyComplete c h) s u := by
  refine congrArg Host.Outcome.next (Eq.trans ?_ hu)
  simp only [copyStep, hc, hs]

/-- What a copy into half `h` reads: its segment, as group host. -/
def copyRead (s : State) (c h k : Nat) : State × Got :=
  whoRead s (.copy c h) (ctxOf s c) gHost ((imgOf s c).base + (segEntry (imgOf s c) k).1) (192 * ((segEntry (imgOf s c) k).2 + 1))

theorem copySegment_installs {v : Nat} (hr : copyRead s c h k = (t, ⟨v, none, false, []⟩)) : copySegment s c h k =
    (clearParts t (.copy c h)).onCore c
      (fun x => installSeg x h k (segStart (imgOf s c) k) ((segEntry (imgOf s c) k).2 + 1) v) := by
  unfold copyRead at hr
  simp only [copySegment, hr]

theorem copySegment_fails {v code lo : Nat} (hr : copyRead s c h k = (t, ⟨v, some (code, lo), false, []⟩)) :
    copySegment s c h k = copyFails t c h (ctxOf s c) code lo := by
  unfold copyRead at hr
  simp only [copySegment, hr]

theorem copySegment_badSectors {v a : Nat} {y : Option (Nat × Nat)} {as : List Nat}
    (hr : copyRead s c h k = (t, ⟨v, y, false, a :: as⟩)) : copySegment s c h k =
    copyFails (logBads t (ctxOf s c) 1 c (as.map sectorBase)) c h (ctxOf s c) eEcc (sectorBase a) := by
  unfold copyRead at hr
  simp only [copySegment, hr]

theorem copySegment_waits {v : Nat} {y : Option (Nat × Nat)} {as : List Nat} (hr : copyRead s c h k = (t, ⟨v, y, true, as⟩)) :
    copySegment s c h k = t := by
  unfold copyRead at hr
  simp only [copySegment, hr]

end

theorem segmentsCopy : Stmt.SegmentsCopy := by
  intro s c h k hh hc hs i e rd first fails
  refine ⟨fun t v hr => ?installs, fun t v code lo hr => gives_copy hc hs (copySegment_fails hr),
    fun t v y a as hr => gives_copy hc hs (copySegment_badSectors hr), fun t v y as hr => gives_copy hc hs (copySegment_waits hr),
    fun x n v j hj => ⟨installSeg_imem x h k first v hj, ?installed, ?copied⟩⟩
  case installs => exact gives_copy hc hs ((copySegment_installs hr).trans (by rw [segStart_eq]))
  case installed => rw [installSeg_half x hh]
  case copied => rw [installSeg_half x hh]

/-- Settles O50: how the pieces of a fill and a segment copy end, and what the start of a team changes. -/
theorem teamsBegin : Obligations.TeamsBegin := ⟨inputStreamsFill, teamsStart, segmentsCopy⟩

end Sys2Proof.Proofs
end

section
/-!
PROOFS. The fetch of a bundle, a core's attempt in a pulse, and how a bundle issues, stalls or traps (O53).
-/
namespace Sys2Proof.Proofs

open Sys2Proof.Machine Sys2Proof.Laws Sys2Proof.Stmt

/-! ### The fetch (R104, R130) -/

/-- The fetch of bundle `j` of segment `k` from a half. -/
def fetchHalf (s : State) (c : Nat) (h : Half) (k j : Nat) : IFetch :=
  if h.copying then .wait
  else if !h.installed then .bad (trapFetch (segEntryAddr (imgOf s c) (emptyEntry (imgOf s c) h)))
  else if (segEntry (imgOf s c) k).2 < j then .bad (trapFetch (bundleAddr s c (s.core c).pc))
  else imemAt (s.core c) (s.core c).pc.toNat

section
variable {s : State} {c : Nat}

theorem fetchAt_oneSegment (h : (imgOf s c).nseg < 2) : fetchAt s c = fetchHalf s c (s.core c).half0 0 (s.core c).pc.toNat := by
  have hm : multiSeg (imgOf s c) = false := decide_eq_false (Nat.not_le.mpr h)
  simp only [fetchAt, hm]
  rfl

theorem fetchAt_segments (h : 2 ≤ (imgOf s c).nseg) : fetchAt s c =
    fetchHalf s c ((s.core c).half ((s.core c).pc.toNat / 2048)) (((s.core c).half ((s.core c).pc.toNat / 2048)).seg.getD 0)
      ((s.core c).pc.toNat % 2048) := by
  have hm : multiSeg (imgOf s c) = true := decide_eq_true h
  simp only [fetchAt, hm]
  rfl

theorem bundleAddr_oneSegment (h : (imgOf s c).nseg < 2) (pc : Pc) :
    bundleAddr s c pc = (imgOf s c).base + (segEntry (imgOf s c) 0).1 + 192 * pc.toNat := by
  have hm : multiSeg (imgOf s c) = false := decide_eq_false (Nat.not_le.mpr h)
  simp [bundleAddr, hm]

variable {h : Half} {k j : Nat}

theorem fetchHalf_copying (hc : h.copying = true) : fetchHalf s c h k j = .wait := if_pos hc

theorem fetchHalf_empty (hc : h.copying = false) (hi : h.installed = false) :
    fetchHalf s c h k j = .bad (trapFetch (segEntryAddr (imgOf s c) (emptyEntry (imgOf s c) h))) := by
  simp [fetchHalf, hc, hi]

theorem fetchHalf_beyond (hc : h.copying = false) (hi : h.installed = true) (hj : (segEntry (imgOf s c) k).2 < j) :
    fetchHalf s c h k j = .bad (trapFetch (bundleAddr s c (s.core c).pc)) := by
  simp [fetchHalf, hc, hi, hj]

theorem fetchHalf_inside (hc : h.copying = false) (hi : h.installed = true) (hj : j ≤ (segEntry (imgOf s c) k).2) :
    fetchHalf s c h k j = imemAt (s.core c) (s.core c).pc.toNat := by
  simp [fetchHalf, hc, hi, hj]

end

theorem imemAt_good {x : Core} {i : Nat} (h : x.imemBad.contains i = false) : imemAt x i = .ok (Tab.get 0 x.imem i) :=
  if_neg (Bool.eq_false_iff.mp h)

theorem imemAt_bad {x : Core} {i : Nat} (h : x.imemBad.contains i = true) : imemAt x i = .ecc := if_pos h

theorem emptyEntry_beyond {i : Img} {h : Half} {k : Nat} (hs : h.seg = some k) (hk : i.nseg ≤ k) : emptyEntry i h = k := by
  rw [emptyEntry, hs]
  exact if_pos hk

theorem emptyEntry_first {i : Img} {h : Half} (hs : ∀ k, h.seg = some k → k < i.nseg) : emptyEntry i h = 1 := by
  unfold emptyEntry
  split
  next k hk => exact if_neg (Nat.not_le.mpr (hs k hk))
  · rfl

theorem fetches : Stmt.Fetches := by
  intro s c x i
  refine ⟨fun h1 => ?_, fun h2 => ?_⟩
  · rw [fetchAt_oneSegment h1]
    refine ⟨fetchHalf_copying, fun hc hi hj hb => (fetchHalf_inside hc hi hj).trans (imemAt_good hb),
      fun hc hi hj hb => (fetchHalf_inside hc hi hj).trans (imemAt_bad hb), fun hc hi hj => ?beyond⟩
    case beyond => rw [fetchHalf_beyond hc hi hj, bundleAddr_oneSegment h1]; rfl
  · rw [fetchAt_segments h2]
    refine ⟨fetchHalf_copying, fun k hc hi hs hj hb => ?inside, fun hc hi hs => ?first, fun k hc hi hs hk => ?named⟩
    case inside => exact (fetchHalf_inside hc hi (by rw [hs]; exact hj)).trans (imemAt_good hb)
    case first => rw [fetchHalf_empty hc hi, emptyEntry_first hs]; rfl
    case named => rw [fetchHalf_empty hc hi, emptyEntry_beyond hs hk]; rfl

/-! ### A pulse begins (R102, R356) -/

/-- The countdown of a strand that is not shielded has run out. -/
def RunOut (x : Core) : Prop := x.c7 = true ∧ x.cdRun = true ∧ x.cdown = 0 ∧ ¬(x.mode = .handler ∧ x.shielded = true)

theorem forced_iff (x : Core) : forced x = true ↔ RunOut x := by
  simp only [forced, cdDone, isShielded, RunOut, Bool.and_eq_true, Bool.not_eq_true', Bool.and_eq_false_imp, beq_iff_eq, and_assoc,
    not_and, Bool.not_eq_true]

/-- The strand on a core neither starts nor stops. -/
structure StandsAs (x y : Core) : Prop where
  run : y.run = x.run
  team : y.team = x.team

theorem StandsAs.trans {x y z : Core} (h : StandsAs x y) (h' : StandsAs y z) : StandsAs x z :=
  ⟨h'.run.trans h.run, h'.team.trans h.team⟩

theorem standsAs_heldTick (x : Core) : StandsAs x (heldTick x) := by
  unfold heldTick
  split <;> exact ⟨rfl, rfl⟩

theorem standsAs_divideReplyNow (x : Core) : StandsAs x (divideReplyNow x) := by
  unfold divideReplyNow
  split
  · split
    · dsimp only
      split
      · exact ⟨rfl, rfl⟩
      · exact ⟨landDup_run _ _ _, landDup_team _ _ _⟩
    · exact ⟨rfl, rfl⟩
  · exact ⟨rfl, rfl⟩

theorem standsAs_divideTick (x : Core) : StandsAs x (divideTick x) :=
  .trans (y := { x with divide := x.divide.map (fun d => { d with left := d.left - 1 }) }) ⟨rfl, rfl⟩ (standsAs_divideReplyNow _)

theorem standsAs_countTick (free : Nat) (x : Core) : StandsAs x (countTick free x) := by
  unfold countTick
  split <;> exact ⟨rfl, rfl⟩

/-- What a domain cycle counts on one core, with `free` slots in the frame pool. -/
def domainCycle (free : Nat) (x : Core) : Core := countTick free (divideTick (heldTick x))

theorem standsAs_domainCycle (free : Nat) (x : Core) : StandsAs x (domainCycle free x) :=
  (standsAs_heldTick x).trans ((standsAs_divideTick _).trans (standsAs_countTick free _))

theorem domainTick_core (s : State) (cs : List Nat) (c : Nat) : (domainTick s cs).core c =
    (cs.foldl (fun u c => u.onCore c (domainCycle (freeSlots s).length)) s).core c := rfl

theorem standsAs_domainTick (s : State) (cs : List Nat) (c : Nat) : StandsAs (s.core c) ((domainTick s cs).core c) := by
  rw [domainTick_core, core_foldl_onCore]
  exact Function.Iterate.rec (StandsAs (s.core c)) ⟨rfl, rfl⟩ (fun x h => h.trans (standsAs_domainCycle _ x)) _

theorem domainTick_pow (s : State) (cs : List Nat) : (domainTick s cs).pow = s.pow := by
  change (cs.foldl (fun u c => u.onCore c (domainCycle (freeSlots s).length)) s).pow = s.pow
  rw [foldl_onCore_eq]

theorem booked_applyLevels (s : State) (p : Nat) : Booked s (applyLevels s p) := by
  unfold applyLevels
  split
  · exact Booked.foldl (fun s d => booked_setDie s d _) _ s
  · exact .refl s

section
variable {s : State}

/-- The state as the levels that are due have taken effect. -/
def levelled (s : State) : State := applyLevels s s.pow.pulse

/-- The cores for which the pulse that begins is not swallowed, and of them those whose countdown has not run out. -/
def ticking (s : State) : List Nat := (s.cores.map (·.1)).filter (fun c => !swallowed s s.pow.pulse c)
def issuing (s : State) : List Nat := (ticking s).filter (fun c => !forced (s.core c))

theorem beginPulse_begun {q : List Nat} (h : s.pow.todo = some q) : beginPulse s = s := by rw [beginPulse, h]

theorem beginPulse_tripped (h : s.pow.todo = none) (ht : s.pow.tripped = true) :
    beginPulse s = { s with pow := { s.pow with todo := some [] } } := by
  rw [beginPulse, h]
  exact if_pos ht

theorem beginPulse_ticks (h : s.pow.todo = none) (ht : s.pow.tripped = false) : beginPulse s =
    { domainTick (levelled s) (ticking (levelled s)) with
      pow := { (domainTick (levelled s) (ticking (levelled s))).pow with todo := some (issuing (levelled s)) } } := by
  rw [beginPulse, h]
  exact if_neg (Bool.eq_false_iff.mp ht)

/-- A core may issue when its strand runs on a device that has not tripped, and it is among the cores that the pulse noted. -/
theorem mayIssue_iff (c : Nat) : mayIssue s c = true ↔
    (s.core c).run = .running ∧ (s.core c).team.isSome = true ∧ s.pow.tripped = false ∧ c ∈ s.pow.todo.getD [] := by
  simp only [mayIssue, issues, Bool.and_eq_true, beq_iff_eq, Bool.not_eq_true', List.contains_iff_mem, and_assoc]

theorem mem_issuing (c : Nat) : c ∈ issuing s ↔
    (∃ e ∈ s.cores, e.1 = c) ∧ swallowed s s.pow.pulse c = false ∧ ¬ RunOut (s.core c) := by
  simp only [issuing, ticking, List.mem_filter, List.mem_map, ← forced_iff, Bool.not_eq_true', Bool.not_eq_true, and_assoc]

/-- Which cores have an attempt in the pulse that begins (R102, R356, R386). -/
theorem mayIssue_beginPulse (h : s.pow.todo = none) (c : Nat) : mayIssue (beginPulse s) c = true ↔
    (s.core c).run = .running ∧ (s.core c).team.isSome = true ∧ s.pow.tripped = false ∧ (∃ e ∈ s.cores, e.1 = c) ∧
      swallowed (applyLevels s s.pow.pulse) s.pow.pulse c = false ∧ ¬ RunOut (s.core c) := by
  cases ht : s.pow.tripped with
  | true =>
    rw [beginPulse_tripped h ht, mayIssue_iff]
    simp [ht]
  | false =>
    have hlevels : Booked s (levelled s) := booked_applyLevels s s.pow.pulse
    have hstands := standsAs_domainTick (levelled s) (ticking (levelled s)) c
    have hnoted := mem_issuing (s := levelled s) c
    rw [hlevels.core] at hstands
    rw [hlevels.core, hlevels.cores, hlevels.pow] at hnoted
    rw [beginPulse_ticks h ht, mayIssue_iff]
    change ((domainTick _ _).core c).run = .running ∧ ((domainTick _ _).core c).team.isSome = true ∧
      (domainTick _ _).pow.tripped = false ∧ c ∈ issuing (levelled s) ↔ _
    rw [hstands.run, hstands.team, domainTick_pow, hlevels.pow, ht, hnoted]
    rfl

end

/-! ### An attempt (R144, R350) -/

section
variable {s : State} {c : Nat}

theorem trapOrForce_runOut {t : Trap} (h : RunOut (s.core c)) : trapOrForce s c t = s := if_pos ((forced_iff _).mpr h)

theorem trapOrForce_takes {t : Trap} (h : ¬ RunOut (s.core c)) : trapOrForce s c t = takeTrap s c t :=
  if_neg (h ∘ (forced_iff _).mp)

theorem attempt_wait (h : fetchAt s c = .wait) : attempt s c = s := by rw [attempt, h]

theorem attempt_ecc (h : fetchAt s c = .ecc) : attempt s c = eccFetch s c := by rw [attempt, h]

theorem attempt_bad {t : Trap} (h : fetchAt s c = .bad t) : attempt s c = trapOrForce s c t := by rw [attempt, h]

section
variable {w : BitVec 192} {y : State} {l : Look}

/-- A fetched bundle is judged in the state in which its deadlines have passed. -/
theorem attempt_trap {t : Trap} (h : fetchAt s c = .ok w) (hy : passInIssue s c w = y) (hl : look y c w = l)
    (ht : bundleTrap y c l (meetAll y c l) = some t) : attempt s c = trapOrForce y c t := by
  subst hy hl
  rw [attempt, h]
  dsimp only
  rw [ht]

theorem attempt_stalls (h : fetchAt s c = .ok w) (hy : passInIssue s c w = y) (hl : look y c w = l)
    (ht : bundleTrap y c l (meetAll y c l) = none) (hr : meetAll y c l ≠ []) :
    attempt s c = stallBundle y c l (meetAll y c l) := by
  subst hy hl
  rw [attempt, h]
  dsimp only
  rw [ht]
  exact if_neg (by simpa using hr)

theorem attempt_issues (h : fetchAt s c = .ok w) (hy : passInIssue s c w = y) (hl : look y c w = l)
    (ht : bundleTrap y c l (meetAll y c l) = none) (hr : meetAll y c l = []) : attempt s c = issueBundle y c l := by
  subst hy hl
  rw [attempt, h]
  dsimp only
  rw [ht]
  exact if_pos (by rw [hr]; rfl)

end

theorem gives_attempt (h : mayIssue (beginPulse s) c = true) : Gives (.bundleIssue c) s (attempt (inPulse s c) c) :=
  congrArg Host.Outcome.next (if_pos h)

theorem gives_noAttempt (h : ¬ mayIssue (beginPulse s) c = true) : Gives (.bundleIssue c) s s :=
  congrArg Host.Outcome.next (if_neg h)

theorem not_mayIssue_of_spent {q : List Nat} (h : s.pow.todo = some q) (hc : c ∉ q) : ¬ mayIssue (beginPulse s) c = true := by
  rw [beginPulse_begun h, mayIssue_iff, h]
  exact fun ⟨_, _, _, hmem⟩ => hc hmem

end

/-! ### A bundle that stalls (R144) -/

/-- No issue cycle has passed on core `c`, and memory is as it was. -/
structure Stalled (s : State) (c : Nat) (u : State) : Prop where
  cyc : (u.core c).cyc = (s.core c).cyc
  pc : (u.core c).pc = (s.core c).pc
  dup : (u.core c).dup = (s.core c).dup
  hbm : u.hbm = s.hbm

section
variable {s u : State} {c : Nat}

theorem Stalled.onCore {f : Core → Core} (h : Stalled s c u)
    (hf : ∀ x, (f x).cyc = x.cyc ∧ (f x).pc = x.pc ∧ (f x).dup = x.dup) : Stalled s c (u.onCore c f) := by
  obtain ⟨hcyc, hpc, hdup⟩ := hf (u.core c)
  refine ⟨?_, ?_, ?_, h.hbm⟩ <;> rw [onCore_core_get, if_pos rfl]
  · exact hcyc.trans h.cyc
  · exact hpc.trans h.pc
  · exact hdup.trans h.dup

theorem countLod_keeps (x : Core) (k : Nat) :
    (countLod x k).cyc = x.cyc ∧ (countLod x k).pc = x.pc ∧ (countLod x k).dup = x.dup := by
  unfold countLod
  dsimp only
  split <;> exact ⟨rfl, rfl, rfl⟩

theorem foldl_countLod_keeps (ks : List Nat) (x : Core) :
    (ks.foldl countLod x).cyc = x.cyc ∧ (ks.foldl countLod x).pc = x.pc ∧ (ks.foldl countLod x).dup = x.dup := by
  induction ks generalizing x with
  | nil => exact ⟨rfl, rfl, rfl⟩
  | cons k ks ih =>
    obtain ⟨hcyc, hpc, hdup⟩ := countLod_keeps x k
    obtain ⟨hcycs, hpcs, hdups⟩ := ih (countLod x k)
    exact ⟨hcycs.trans hcyc, hpcs.trans hpc, hdups.trans hdup⟩

theorem stalled_stallBundle (s : State) (c : Nat) (l : Look) (rs : List Res) : Stalled s c (stallBundle s c l rs) := by
  have hstart : Stalled s c s := ⟨rfl, rfl, rfl, rfl⟩
  refine List.foldlRecOn rs _ (hstart.onCore fun x => foldl_countLod_keeps _ x) fun u hu r _ => ?_
  cases r with
  | fetch a => exact hu.onCore fun x => ⟨rfl, rfl, rfl⟩
  | await k n => exact hu.onCore fun x => ⟨rfl, rfl, rfl⟩
  | done t => exact hu
  | stall => exact hu
  | trap t => exact hu

end

theorem bundlesIssueLaws : Stmt.BundlesIssue := by
  intro s c w b z y x l rs out runs
  refine ⟨fun h => mayIssue_beginPulse h c, fun q hq hc => gives_noAttempt (not_mayIssue_of_spent hq hc), gives_noAttempt,
    fun hr hf => ?waits, fun hr hf => ?ecc, fun t hr hf => ?bad, fun t hr hf ht => ?traps, fun hr hf ht hne => ?stalls,
    fun hr hf ht hne => ?issues, fun u ha => ?applied⟩
  case waits => exact (gives_attempt hr).trans (congrArg Host.Outcome.next (attempt_wait hf))
  case ecc => exact (gives_attempt hr).trans (congrArg Host.Outcome.next (attempt_ecc hf))
  case bad =>
    refine (gives_attempt hr).trans (congrArg Host.Outcome.next ((attempt_bad hf).trans ?_))
    by_cases hout : out (z.core c)
    · exact (trapOrForce_runOut hout).trans (if_pos hout).symm
    · exact (trapOrForce_takes hout).trans (if_neg hout).symm
  case traps =>
    refine (gives_attempt hr).trans (congrArg Host.Outcome.next ((attempt_trap hf rfl rfl ht).trans ?_))
    by_cases hout : out x
    · exact (trapOrForce_runOut hout).trans (if_pos hout).symm
    · exact (trapOrForce_takes hout).trans (if_neg hout).symm
  case stalls =>
    obtain ⟨hcyc, hpc, hdup, hhbm⟩ := stalled_stallBundle y c l rs
    exact ⟨_, (gives_attempt hr).trans (congrArg Host.Outcome.next (attempt_stalls hf rfl rfl ht hne)), hcyc, hpc, hdup,
      sameMemory_of_hbm hhbm⟩
  case issues => exact (gives_attempt hr).trans (congrArg Host.Outcome.next (attempt_issues hf rfl rfl ht hne))
  case applied => rw [issueBundle, ha]

/-- Settles O53: the branches of an attempt, which cores have one in a pulse, and what a stall leaves. -/
theorem bundlesIssue : Obligations.BundlesIssue := ⟨bundlesIssueLaws, fetches⟩

end Sys2Proof.Proofs
end
section
/-!
PROOFS. Every step keeps the canonical form of memory (O60). The lemmas go function by function, in the order of the model:
`f_hbm` where `f` leaves memory as it is, and `memoryOk_f` (`resOk_f`, `outOk_f`, … for a function that answers another type)
where it keeps the form. This block: addresses, translation and the error log.
-/
namespace Sys2Proof.Proofs

open Sys2Proof.Machine Sys2Proof.Laws

theorem foldl_hbm {α : Type} {f : State → α → State} (hf : ∀ s a, (f s a).hbm = s.hbm) (l : List α) (s : State) :
    (l.foldl f s).hbm = s.hbm := by
  induction l generalizing s with
  | nil => rfl
  | cons a l ih => exact (ih _).trans (hf s a)

theorem memoryOk_foldl {α : Type} {f : State → α → State} (hf : ∀ s a, MemoryOk s → MemoryOk (f s a)) (l : List α) {s : State}
    (h : MemoryOk s) : MemoryOk (l.foldl f s) := by
  induction l generalizing s with
  | nil => exact h
  | cons a l ih => exact ih (hf s a h)

/-- The state that an operation answers has memory in its form. -/
def ResOk : Res → Prop
  | .done u => MemoryOk u
  | _ => True

/-- The state that a transition answers has memory in its form. -/
def OutOk : Out → Prop
  | .next u => MemoryOk u
  | _ => True

/-- The state that a write of a register answers has memory in its form. -/
def WResOk : WRes → Prop
  | .ok u => MemoryOk u
  | .bad _ => True

/-- The state in which a run of the expert engine stops has memory in its form. -/
def ERunOk : ERun → Prop
  | .wait u _ => MemoryOk u
  | .park u _ => MemoryOk u
  | .ended u _ => MemoryOk u

/-- The state that an emit's check answers has memory in its form. -/
def EResOk : ERes → Prop
  | .ok u _ => MemoryOk u
  | .rej u _ _ _ => MemoryOk u
  | .park u => MemoryOk u

/-- The state in which a job of the expert engine ends has memory in its form. -/
def JobEndOk : JobEnd → Prop
  | .gone u => MemoryOk u
  | .stay u _ => MemoryOk u
  | .parked u _ => MemoryOk u

/-- The state that a front end's access answers has memory in its form. -/
def RdOk : Rd → Prop
  | .ok u _ => MemoryOk u
  | .bad u _ _ => MemoryOk u
  | .park u => MemoryOk u

/-- The state that the read of an image answers has memory in its form. -/
def ImgResOk : ImgRes → Prop
  | .ok u _ => MemoryOk u
  | .bad u => MemoryOk u
  | .park u => MemoryOk u

/-- The state that a step of a fetch answers has memory in its form. -/
def FetchedOk : Fetched → Prop
  | .done u => MemoryOk u
  | .wait u => MemoryOk u
  | .fail => True

/-- The state that an operand of a beat leaves has memory in its form. -/
def TakeOk {α : Type} : Take α → Prop
  | .ok u _ => MemoryOk u
  | .wait r => ResOk r
  | .bad _ => True

/-- Memory that is equal keeps its form. -/
theorem memoryOk_of_eq {s u : State} (h : MemoryOk s) (e : u.hbm = s.hbm) : MemoryOk u := by rwa [MemoryOk, e]

/-! ### Xlate -/

@[simp] theorem draw_hbm (s : State) : (draw s).1.hbm = s.hbm := rfl

@[simp] theorem viaCache_hbm (s : State) (kind ctx key : ℕ) (now : List Word) : (viaCache s kind ctx key now).1.hbm = s.hbm := by
  unfold viaCache
  grind [draw_hbm]

@[simp] theorem cachePut_hbm (s : State) (e : CacheEnt) : (cachePut s e).hbm = s.hbm := rfl

@[simp] theorem descriptor_hbm (s : State) (c : ℕ) : (descriptor s c).1.hbm = s.hbm := by
  unfold descriptor
  grind [viaCache_hbm, cachePut_hbm]

theorem memoryOk_translate {s : State} (h : MemoryOk s) (c a g kind : ℕ) (spec : Bool) :
    MemoryOk (translate s c a g kind spec).1 := (touched_translate s c a g kind spec).wf h

@[simp] theorem window_hbm (s : State) (c w : ℕ) : (window s c w).1.hbm = s.hbm := by
  unfold window
  grind [descriptor_hbm, viaCache_hbm, cachePut_hbm]

/-! ### Log -/

@[simp] theorem updTeam_hbm (s : State) (t : ℕ) (f : Team → Team) : (s.updTeam t f).hbm = s.hbm := rfl

@[simp] theorem tellHost_hbm (s : State) (m : HostMsg) : (tellHost s m).hbm = s.hbm := rfl

theorem addPark_hbm {s u : State} {c a g kind l : ℕ} {w : Who} (h : addPark s c a g kind l w = some u) : u.hbm = s.hbm := by
  unfold addPark at h
  grind

theorem addPark_getD_hbm (s : State) (c a g kind l : ℕ) (w : Who) : ((addPark s c a g kind l w).getD s).hbm = s.hbm := by
  unfold addPark
  grind

@[simp] theorem dropParks_hbm (s : State) (f : Who → Bool) : (dropParks s f).hbm = s.hbm := rfl

@[simp] theorem clearParts_hbm (s : State) (w : Who) : (clearParts s w).hbm = s.hbm := rfl

@[simp] theorem refusePart_hbm (s : State) (w : Who) (wr : Bool) (lo : ℕ) : (refusePart s w wr lo).hbm = s.hbm := rfl

theorem takeRefusal_hbm {s u : State} {t c a : ℕ} (h : takeRefusal s t c a = some u) : u.hbm = s.hbm := by
  unfold takeRefusal at h
  grind

@[simp] theorem dropRefusals_hbm (s : State) (t : ℕ) : (dropRefusals s t).hbm = s.hbm := rfl

theorem memoryOk_whoRead {s : State} (h : MemoryOk s) (w : Who) (c g a n : ℕ) : MemoryOk (whoRead s w c g a n).1 :=
  (worked_whoRead s w c g a n).wf h

theorem memoryOk_whoWrite {s : State} (h : MemoryOk s) (w : Who) (c g a n v : ℕ) : MemoryOk (whoWrite s w c g a n v).1 :=
  (worked_whoWrite s w c g a n v).wf h

theorem memoryOk_writeLog {s : State} (h : MemoryOk s) (rs : List ℕ) : MemoryOk (writeLog s rs) := (logged_writeLog rs s).wf h

theorem memoryOk_logErr {s : State} (h : MemoryOk s) (code a ctx kind num : ℕ) (d : Word) :
    MemoryOk (logErr s code a ctx kind num d) := (logged_logErr s code a ctx kind num d).wf h

theorem memoryOk_writeErrs {s : State} (h : MemoryOk s) (q : ℕ) (rs : List ℕ) : MemoryOk (writeErrs s q rs) :=
  (logged_writeErrs rs s q).wf h

theorem memoryOk_queueErr {s : State} (h : MemoryOk s) (q code a kind num : ℕ) (d : Word) :
    MemoryOk (queueErr s q code a kind num d) := (logged_queueErr s q code a kind num d).wf h

theorem memoryOk_logBads {s : State} (h : MemoryOk s) (ctx kind num : ℕ) (as : List ℕ) :
    MemoryOk (logBads s ctx kind num as) := by
  unfold logBads
  grind [memoryOk_logErr, memoryOk_foldl]

theorem memoryOk_queueFault {s : State} (h : MemoryOk s) (q code a : ℕ) : MemoryOk (queueFault s q code a) :=
  (logged_queueFault s q code a).wf h

theorem memoryOk_logCore {s : State} (h : MemoryOk s) (c code a : ℕ) : MemoryOk (logCore s c code a) :=
  (logged_logCore s c code a).wf h

end Sys2Proof.Proofs
end

section
/-!
PROOFS. Memory keeps its form (O60): the scratchpad, the arrays of a core, and stream channels.
-/
namespace Sys2Proof.Proofs

open Sys2Proof.Machine Sys2Proof.Laws

/-! ### Local -/

theorem memoryOk_logWords {s : State} (h : MemoryOk s) (c : ℕ) (ws : List ℕ) : MemoryOk (logWords s c ws) := by
  unfold logWords
  grind [memoryOk_logCore, memoryOk_foldl]

theorem memoryOk_spStore {s : State} (h : MemoryOk s) (c o n v : ℕ) : MemoryOk (spStore s c o n v) := by
  unfold spStore
  grind [memoryOk_logWords, setCore_hbm]

theorem memoryOk_spLoad {s : State} (h : MemoryOk s) (c o n : ℕ) : MemoryOk (spLoad s c o n).1 := by
  unfold spLoad
  grind [memoryOk_logWords]

theorem memoryOk_ownLoad {s : State} (h : MemoryOk s) (c o n : ℕ) : MemoryOk (ownLoad s c o n).1 := by
  unfold ownLoad
  grind [memoryOk_spLoad]

theorem memoryOk_spRmw {s : State} (h : MemoryOk s) (c o n : ℕ) (f : ℕ → ℕ) : MemoryOk (spRmw s c o n f).1 := by
  unfold spRmw
  grind [memoryOk_logWords, setCore_hbm]

theorem memoryOk_stmStore {s : State} (h : MemoryOk s) (c o : ℕ) (v : Wide) (mask : Word) : MemoryOk (stmStore s c o v mask) := by
  unfold stmStore
  grind [memoryOk_logWords, setCore_hbm]

theorem memoryOk_spWriteFx {s : State} (h : MemoryOk s) (c o len : ℕ) (v : Wide) (ben : Option Word) :
    MemoryOk (spWriteFx s c o len v ben) := by
  unfold spWriteFx
  grind [memoryOk_spStore, memoryOk_stmStore]

theorem memoryOk_tagRead {s : State} (h : MemoryOk s) (c b i : ℕ) : MemoryOk (tagRead s c b i).1 := by
  unfold tagRead
  grind [memoryOk_logCore]

@[simp] theorem tagWrite_hbm (s : State) (c b i : ℕ) (v : Word) : (tagWrite s c b i v).hbm = s.hbm := rfl

theorem memoryOk_tagLookup {s : State} (h : MemoryOk s) (c b key first n : ℕ) : MemoryOk (tagLookup s c b key first n).1 := by
  unfold tagLookup
  grind [memoryOk_tagRead, memoryOk_foldl]

theorem memoryOk_tagClear {s : State} (h : MemoryOk s) (c b i n : ℕ) : MemoryOk (tagClear s c b i n) := by
  induction n generalizing s i with
  | zero => exact h
  | succ n ih => unfold tagClear; grind [memoryOk_tagRead, tagWrite_hbm]

theorem memoryOk_landLocal {s : State} (h : MemoryOk s) (c iss : ℕ) (fx : Fx) : MemoryOk (landLocal s c iss fx) := by
  cases fx <;> unfold landLocal <;> grind [memoryOk_spWriteFx, memoryOk_ownLoad, memoryOk_spRmw, memoryOk_tagLookup,
    memoryOk_tagRead, tagWrite_hbm, memoryOk_tagClear, onCore_hbm]

/-! ### Array -/

theorem memoryOk_beatRead {s : State} (h : MemoryOk s) (c : ℕ) (b : BeatSrc) : MemoryOk (beatRead s c b).1 := by
  unfold beatRead
  grind [memoryOk_ownLoad]

theorem memoryOk_landArray {s : State} (h : MemoryOk s) (c iss : ℕ) (fx : Fx) : MemoryOk (landArray s c iss fx) := by
  cases fx <;> unfold landArray <;> grind [onCore_hbm, memoryOk_beatRead, memoryOk_spStore, memoryOk_spLoad]

/-! ### Chan -/

theorem memoryOk_chanFault {s : State} (h : MemoryOk s) (c k code : ℕ) (v : Vec) (a : ℕ) :
    MemoryOk (chanFault s c k code v a) := by
  unfold chanFault
  grind [memoryOk_logErr, onCore_hbm]

theorem memoryOk_chanEcc {s : State} (h : MemoryOk s) (c k a : ℕ) : MemoryOk (chanEcc s c k a) := by
  unfold chanEcc
  grind [memoryOk_logErr, onCore_hbm]

theorem memoryOk_chanEccWords {s : State} (h : MemoryOk s) (c k : ℕ) (ws : List ℕ) : MemoryOk (chanEccWords s c k ws) := by
  unfold chanEccWords
  grind [memoryOk_chanEcc]

theorem memoryOk_itemFaulted {s : State} (h : MemoryOk s) (c k : ℕ) (v : Vec) (code a : ℕ) (logIt : Bool) :
    MemoryOk (itemFaulted s c k v code a logIt) := by
  unfold itemFaulted
  grind [memoryOk_chanFault, onCore_hbm]

theorem memoryOk_readSpadItem {s : State} (h : MemoryOk s) (c k : ℕ) : MemoryOk (readSpadItem s c k) := by
  unfold readSpadItem
  grind [onCore_hbm, memoryOk_itemFaulted, memoryOk_chanEccWords]

theorem memoryOk_dropIndex {s : State} (h : MemoryOk s) (c k : ℕ) : MemoryOk (dropIndex s c k) := by
  unfold dropIndex
  grind [memoryOk_readSpadItem, onCore_hbm]

theorem memoryOk_sTake {s : State} (h : MemoryOk s) (c k : ℕ) : MemoryOk (sTake s c k).1 := by
  unfold sTake
  grind [setCore_hbm, memoryOk_readSpadItem, memoryOk_dropIndex, onCore_hbm]

@[simp] theorem reserveOut_hbm (s : State) (c k : ℕ) : (reserveOut s c k).hbm = s.hbm := rfl

theorem memoryOk_sPush {s : State} (h : MemoryOk s) (c k iss off v : ℕ) : MemoryOk (sPush s c k iss off v) := by
  unfold sPush
  grind [setCore_hbm, memoryOk_readSpadItem, onCore_hbm]

theorem memoryOk_startRead {s : State} (h : MemoryOk s) (c k : ℕ) : MemoryOk (startRead s c k) := by
  unfold startRead
  grind [memoryOk_readSpadItem]

theorem memoryOk_seApply {s : State} (h : MemoryOk s) (c iss op k : ℕ) (y a : Word) (desc : BitVec 512) (place : ℕ) :
    MemoryOk (seApply s c iss op k y a desc place) := by
  unfold seApply
  grind [setCore_hbm, memoryOk_startRead]

theorem memoryOk_landChan {s : State} (h : MemoryOk s) (c iss : ℕ) (fx : Fx) : MemoryOk (landChan s c iss fx) := by
  unfold landChan
  grind [memoryOk_seApply, memoryOk_spStore, memoryOk_sPush, onCore_hbm]

end Sys2Proof.Proofs
end

section
/-!
PROOFS. Memory keeps its form (O60): packets, accesses, synchronisation, and remote requests.
-/
namespace Sys2Proof.Proofs

open Sys2Proof.Machine Sys2Proof.Laws

/-! ### Net -/

theorem memoryOk_logFabric {s : State} (h : MemoryOk s) (code a ctx : ℕ) : MemoryOk (logFabric s code a ctx) := by
  unfold logFabric
  grind [draw_hbm, memoryOk_logErr]

@[simp] theorem choose_hbm (s : State) {α : Type} (l : List α) : (choose s l).1.hbm = s.hbm := by
  unfold choose
  split <;> rfl

@[simp] theorem chooseGate_hbm (s : State) (p : Packet) : (chooseGate s p).1.hbm = s.hbm := by
  unfold chooseGate
  grind [choose_hbm]

@[simp] theorem routeOf_hbm (s : State) (p : Packet) : (routeOf s p).1.hbm = s.hbm := by
  unfold routeOf
  grind [choose_hbm, chooseGate_hbm]

@[simp] theorem enqueue_hbm (s : State) (p : Packet) : (enqueue s p).hbm = s.hbm := by
  unfold enqueue
  simp

@[simp] theorem requeue_hbm (s : State) : (requeue s).hbm = s.hbm := by
  unfold requeue
  grind [enqueue_hbm, foldl_hbm]

@[simp] theorem setPorts_hbm (s : State) (up : ℕ) : (setPorts s up).hbm = s.hbm := by
  unfold setPorts
  simp

@[simp] theorem setSeq_hbm (s : State) (key : List ℕ) (n : ℕ) : (setSeq s key n).hbm = s.hbm := rfl

@[simp] theorem passSeq_hbm (s : State) (p : Packet) : (passSeq s p).hbm = s.hbm := rfl

@[simp] theorem closeGap_hbm (s : State) (p : Packet) : (closeGap s p).hbm = s.hbm := rfl

@[simp] theorem sendPacket_hbm (s : State) (p : Packet) : (sendPacket s p).hbm = s.hbm := by
  unfold sendPacket
  grind [setSeq_hbm, enqueue_hbm]

@[simp] theorem answer_hbm (s : State) (p : Packet) (op : ℕ) (data : Word) : (answer s p op data).hbm = s.hbm := by
  unfold answer
  simp

theorem memoryOk_answerErr {s : State} (h : MemoryOk s) (p : Packet) (code a : ℕ) : MemoryOk (answerErr s p code a) := by
  unfold answerErr
  grind [sendPacket_hbm, memoryOk_logFabric]

theorem memoryOk_unlessMal {s : State} (h : MemoryOk s) (p : Packet) {k : State → Packet → State} (hk : MemoryOk (k s p)) :
    MemoryOk (unlessMal s p k) := by
  unfold unlessMal
  grind [memoryOk_answerErr]

@[simp] theorem answerLoad_hbm (s : State) (p : Packet) (v : ℕ) : (answerLoad s p v).hbm = s.hbm := by
  unfold answerLoad
  simp

@[simp] theorem answerDrop_hbm (s : State) (p : Packet) : (answerDrop s p).hbm = s.hbm := by
  unfold answerDrop
  simp

@[simp] theorem answerBads_hbm (s : State) (p : Packet) (v u : ℕ) (bads : List ℕ) : (answerBads s p v u bads).hbm = s.hbm := by
  unfold answerBads
  simp

@[simp] theorem dropPacket_hbm (s : State) : (dropPacket s).hbm = s.hbm := rfl

@[simp] theorem sendFuller_hbm (s : State) (who : FlightFor) (win : Option (ℕ × ℕ)) (p : Packet) :
    (sendFuller s who win p).hbm = s.hbm := by
  unfold sendFuller
  simp

@[simp] theorem dropFlight_hbm (s : State) (tag : ℕ) : (dropFlight s tag).hbm = s.hbm := rfl

@[simp] theorem holdFlight_hbm (s : State) (tag : ℕ) : (holdFlight s tag).hbm = s.hbm := rfl

theorem memoryOk_arrive {s : State} (h : MemoryOk s) (a : Arrival) (op : ℕ) : MemoryOk (arrive s a op).1 := by
  unfold arrive
  grind [dropPacket_hbm, memoryOk_logFabric, enqueue_hbm]

theorem memoryOk_arriveReq {s : State} (h : MemoryOk s) (a : Arrival) (op : ℕ) : MemoryOk (arriveReq s a op).1 := by
  unfold arriveReq
  grind [memoryOk_arrive, passSeq_hbm]

/-! ### Access -/

theorem memoryOk_landEarly {s : State} (h : MemoryOk s) (c : ℕ) (d : Due) : MemoryOk (landEarly s c d) := by
  unfold landEarly
  grind [onCore_hbm, memoryOk_spStore, memoryOk_landLocal]

theorem memoryOk_landNear {s : State} (h : MemoryOk s) (c : ℕ) : MemoryOk (landNear s c) := by
  unfold landNear
  grind [onCore_hbm, memoryOk_landEarly, memoryOk_foldl]

theorem memoryOk_settle {s : State} (h : MemoryOk s) (c : ℕ) (b : Machine.Acc) : MemoryOk (settle s c b) := by
  unfold settle
  grind [memoryOk_landNear]

theorem memoryOk_logAcc {s : State} (h : MemoryOk s) (c : ℕ) (a : Machine.Acc) (code addr : ℕ) :
    MemoryOk (logAcc s c a code addr) := by
  unfold logAcc
  grind [memoryOk_logErr]

theorem memoryOk_logAccQ {s : State} (h : MemoryOk s) (c : ℕ) (a : Machine.Acc) (code addr : ℕ) :
    MemoryOk (logAccQ s c a code addr) := by
  unfold logAccQ
  grind [memoryOk_queueErr, memoryOk_logAcc]

@[simp] theorem deliver_hbm (s : State) (c : ℕ) (a : Machine.Acc) (v : Word) : (deliver s c a v).hbm = s.hbm := rfl

@[simp] theorem loadDone_hbm (s : State) (c : ℕ) (a : Machine.Acc) (v : Word) : (loadDone s c a v).hbm = s.hbm := by
  unfold loadDone
  grind [deliver_hbm, onCore_hbm]

@[simp] theorem partDone_hbm (s : State) (c : ℕ) (a : Machine.Acc) (k : ℕ) (v : Option ℕ) (err : Option (ℕ × ℕ)) (sx : Bool) :
    (partDone s c a k v err sx).hbm = s.hbm := by
  unfold partDone
  grind [onCore_hbm, loadDone_hbm]

@[simp] theorem wbStore_hbm (s : State) (c cls rel scope a w v : ℕ) : (wbStore s c cls rel scope a w v).hbm = s.hbm := rfl

@[simp] theorem releaseStores_hbm (s : State) (c : ℕ) : (releaseStores s c).hbm = s.hbm := by
  unfold releaseStores
  grind [pushAcc_hbm, onCore_hbm, foldl_hbm]

theorem memoryOk_storeMasked {s : State} (h : MemoryOk s) (k mask v : ℕ) : MemoryOk (storeMasked s k mask v).1 := by
  unfold storeMasked
  grind [wf_hbmPut, backInvalidate_hbm]

theorem memoryOk_performLd {s : State} (h : MemoryOk s) (c : ℕ) (a : Machine.Acc) (k : ℕ) (sx : Bool) :
    MemoryOk (performLd s c a k sx) := by
  unfold performLd
  grind [memoryOk_translate, partDone_hbm, memoryOk_logAcc, takeRefusal_hbm, addPark_getD_hbm, onCore_hbm]

theorem memoryOk_performAtomic {s : State} (h : MemoryOk s) (c : ℕ) (a : Machine.Acc) (idx fmt : ℕ) :
    MemoryOk (performAtomic s c a idx fmt) := by
  unfold performAtomic
  grind [memoryOk_translate, deliver_hbm, memoryOk_logAcc, addPark_getD_hbm, onCore_hbm, wf_storePart]

theorem memoryOk_performSend {s : State} (h : MemoryOk s) (c : ℕ) (a : Machine.Acc) (e : WEnt) :
    MemoryOk (performSend s c a e) := by
  unfold performSend
  grind [memoryOk_translate, memoryOk_logAccQ, onCore_hbm, addPark_hbm, memoryOk_storeMasked]

theorem memoryOk_storeWord {s : State} (h : MemoryOk s) (pc o k : ℕ) (w : ℕ × ℕ) : MemoryOk (storeWord s pc o k w) := by
  unfold storeWord
  grind [memoryOk_logWords, setCore_hbm]

theorem memoryOk_performPeerSt {s : State} (h : MemoryOk s) (c : ℕ) (a : Machine.Acc) (pc v : ℕ) :
    MemoryOk (performPeerSt s c a pc v) := by
  unfold performPeerSt
  grind [onCore_hbm, memoryOk_spStore, memoryOk_storeWord]

theorem memoryOk_performPeer {s : State} (h : MemoryOk s) (c : ℕ) (a : Machine.Acc) : MemoryOk (performPeer s c a) := by
  unfold performPeer
  grind [memoryOk_spLoad, deliver_hbm, memoryOk_performPeerSt, onCore_hbm, memoryOk_spRmw]

/-! ### Sync -/

@[simp] theorem setNotify_hbm (s : State) (n : ℕ) (r : Notify) : (setNotify s n r).hbm = s.hbm := rfl

@[simp] theorem wakeArrive_hbm (s : State) (n : ℕ) (x : BitVec 48) : (wakeArrive s n x).hbm = s.hbm := by
  unfold wakeArrive
  grind [setNotify_hbm]

@[simp] theorem ungate_hbm (s : State) : (ungate s).hbm = s.hbm := by
  unfold ungate
  grind [setNotify_hbm, foldl_hbm]

@[simp] theorem setBarrier_hbm (s : State) (i : ℕ) (b : Barrier) : (setBarrier s i b).hbm = s.hbm := rfl

@[simp] theorem barrierArriveAt_hbm (s : State) (i u : ℕ) : (barrierArriveAt s i u).1.hbm = s.hbm := rfl

/-! ### Remote -/

@[simp] theorem windowFor_hbm (s : State) (ctx a : ℕ) (n : Need) : (windowFor s ctx a n).1.hbm = s.hbm := by
  unfold windowFor
  grind [window_hbm]

theorem memoryOk_outFail {s : State} (h : MemoryOk s) (c : ℕ) (a : Machine.Acc) (k : ℕ) (v : Vec) (code : ℕ) :
    MemoryOk (outFail s c a k v code) := by
  unfold outFail
  grind [dropParks_hbm, setCore_hbm, memoryOk_chanFault, memoryOk_logErr]

theorem memoryOk_outEcc {s : State} (h : MemoryOk s) (c : ℕ) (a : Machine.Acc) (k lo : ℕ) : MemoryOk (outEcc s c a k lo) := by
  unfold outEcc
  grind [memoryOk_logErr, onCore_hbm]

@[simp] theorem dropRead_hbm (s : State) (c k i : ℕ) (v : Vec) (a : ℕ) : (dropRead s c k i v a).hbm = s.hbm := rfl

theorem memoryOk_faultAt {s : State} (h : MemoryOk s) (c k i : ℕ) (v : Vec) (code a : ℕ) (logIt : Bool) :
    MemoryOk (faultAt s c k i v code a logIt) := by
  unfold faultAt
  grind [memoryOk_chanFault, onCore_hbm, dropParks_hbm]

theorem memoryOk_sinFail {s : State} (h : MemoryOk s) (c : ℕ) (a : Machine.Acc) (k : ℕ) (v : Vec) (code : Option ℕ) :
    MemoryOk (sinFail s c a k v code) := by
  unfold sinFail
  grind [onCore_hbm, memoryOk_faultAt]

theorem memoryOk_sinArrive {s : State} (h : MemoryOk s) (c : ℕ) (a : Machine.Acc) (k : ℕ) (v : Vec) (val : ℕ) (ecc : List ℕ) :
    MemoryOk (sinArrive s c a k v val ecc) := by
  unfold sinArrive
  grind [onCore_hbm, memoryOk_chanEcc]

@[simp] theorem editContrib_hbm (s : State) (a : Acc) (f : RedRec → Option RedRec) : (editContrib s a f).hbm = s.hbm := rfl

theorem memoryOk_failRemote {s : State} (h : MemoryOk s) (c : ℕ) (a : Machine.Acc) (code : ℕ) (far : Bool) :
    MemoryOk (failRemote s c a code far) := by
  unfold failRemote
  grind [deliver_hbm, memoryOk_logAcc, onCore_hbm, memoryOk_logAccQ, memoryOk_outEcc, memoryOk_outFail, memoryOk_sinFail,
    editContrib_hbm]

@[simp] theorem markSent_hbm (s : State) (c : ℕ) (a : Machine.Acc) (pkg : ℕ) : (markSent s c a pkg).hbm = s.hbm := rfl

theorem memoryOk_sendRemote {s : State} (h : MemoryOk s) (c : ℕ) (a : Machine.Acc) : MemoryOk (sendRemote s c a) := by
  unfold sendRemote
  grind [windowFor_hbm, memoryOk_failRemote, memoryOk_settle, sendPacket_hbm, markSent_hbm, foldl_hbm]

theorem memoryOk_specParts {s : State} (h : MemoryOk s) (ctx g a n : ℕ) (ks : List ℕ) : MemoryOk (specParts s ctx g a n ks) := by
  induction ks generalizing s with
  | nil => exact h
  | cons k ks ih => unfold specParts; grind [memoryOk_translate]

@[simp] theorem specWindow_hbm (s : State) (ctx cls : ℕ) (x : ℕ × ℕ) : (specWindow s ctx cls x).hbm = s.hbm := by
  unfold specWindow
  grind [windowFor_hbm, sendFuller_hbm]

theorem memoryOk_performPref {s : State} (h : MemoryOk s) (c : ℕ) (a : Machine.Acc) : MemoryOk (performPref s c a) := by
  unfold performPref
  grind [onCore_hbm, memoryOk_specParts, specWindow_hbm, memoryOk_foldl]

theorem memoryOk_pinUnit {s : State} (h : MemoryOk s) (p : Packet) (k : ℕ) : MemoryOk (pinUnit s p k).1 := by
  unfold pinUnit
  split
  · exact h
  · exact h
  · grind [memoryOk_logWords, memoryOk_spRmw, memoryOk_spStore, memoryOk_storeWord]

theorem memoryOk_loadUnit {s : State} (h : MemoryOk s) (p : Packet) (k : ℕ) : MemoryOk (loadUnit s p k).1 := by
  unfold loadUnit
  cases devShape p.addr p.len <;> grind [memoryOk_translate]

theorem memoryOk_storeUnit {s : State} (h : MemoryOk s) (p : Packet) (k : ℕ) : MemoryOk (storeUnit s p k).1 := by
  unfold storeUnit
  cases devShape p.addr p.len <;> grind [memoryOk_translate, wf_storePart]

theorem memoryOk_addUnit {s : State} (h : MemoryOk s) (p : Packet) : MemoryOk (addUnit s p).1 := by
  unfold addUnit
  grind [memoryOk_translate, wf_storePart]

theorem memoryOk_requestUnit {s : State} (h : MemoryOk s) (p : Packet) (k : ℕ) : MemoryOk (requestUnit s p k).1 := by
  unfold requestUnit
  grind [memoryOk_pinUnit, memoryOk_loadUnit, memoryOk_addUnit, memoryOk_storeUnit]

@[simp] theorem countBits_hbm (s : State) (ctx key n : ℕ) : (countBits s ctx key n).hbm = s.hbm := rfl

@[simp] theorem putRemote_hbm (s : State) (rid : ℕ) (r : RemoteReq) : (putRemote s rid r).hbm = s.hbm := rfl

@[simp] theorem endRemote_hbm (s : State) (rid : ℕ) : (endRemote s rid).hbm = s.hbm := rfl

theorem memoryOk_answerRequest {s : State} (h : MemoryOk s) (rid : ℕ) (r : RemoteReq) : MemoryOk (answerRequest s rid r) := by
  unfold answerRequest
  grind [endRemote_hbm, memoryOk_answerErr, answerLoad_hbm, answerBads_hbm, memoryOk_logFabric, countBits_hbm, answer_hbm,
    memoryOk_foldl]

theorem parkUnit_hbm {s u : State} {rid k lo lvl kind : ℕ} {r r' : RemoteReq}
    (h : parkUnit s rid r k lo lvl kind = some (u, r')) : u.hbm = s.hbm := by
  unfold parkUnit at h
  obtain ⟨v, hv, he⟩ := Option.map_eq_some_iff.mp h
  grind [addPark_hbm, putRemote_hbm, answer_hbm]

theorem memoryOk_remoteRun {s : State} (h : MemoryOk s) (rid : ℕ) (r : RemoteReq) (n : ℕ) : MemoryOk (remoteRun s rid r n) := by
  induction n generalizing s r with
  | zero => exact h
  | succ n ih =>
    unfold remoteRun
    grind [choose_hbm, memoryOk_answerRequest, putRemote_hbm, draw_hbm, memoryOk_requestUnit, answerDrop_hbm, endRemote_hbm,
      parkUnit_hbm]

theorem memoryOk_remoteStep {s : State} (h : MemoryOk s) (rid : ℕ) : MemoryOk (remoteStep s rid) := by
  unfold remoteStep
  grind [answerDrop_hbm, endRemote_hbm, memoryOk_answerErr, memoryOk_remoteRun]

theorem memoryOk_remoteKick {s : State} (h : MemoryOk s) : MemoryOk (remoteKick s) := by
  unfold remoteKick
  grind [memoryOk_remoteStep, memoryOk_foldl]

theorem memoryOk_remoteArrive {s : State} (h : MemoryOk s) (p : Packet) : MemoryOk (remoteArrive s p) := by
  unfold remoteArrive
  grind [memoryOk_remoteKick, memoryOk_foldl]

theorem memoryOk_remoteResume {s : State} (h : MemoryOk s) (rid k : ℕ) (refused : Option ℕ) :
    MemoryOk (remoteResume s rid k refused) := by
  unfold remoteResume
  grind [memoryOk_remoteKick, putRemote_hbm, memoryOk_requestUnit, parkUnit_hbm]

@[simp] theorem putKey_hbm (s : State) (k : FlowKey) : (putKey s k).hbm = s.hbm := rfl

@[simp] theorem dropKey_hbm (s : State) (ctx key : ℕ) : (dropKey s ctx key).hbm = s.hbm := rfl

@[simp] theorem sendCredits_hbm (s : State) (dom mem handle n : ℕ) : (sendCredits s dom mem handle n).hbm = s.hbm := by
  unfold sendCredits
  simp

theorem memoryOk_connectKey {s : State} (h : MemoryOk s) (p : Packet) : MemoryOk (connectKey s p) := by
  unfold connectKey
  grind [sendCredits_hbm, putKey_hbm, memoryOk_answerErr]

theorem memoryOk_registerKey {s : State} (h : MemoryOk s) (ctx key team tcore lq : ℕ) :
    MemoryOk (registerKey s ctx key team tcore lq) := by
  unfold registerKey
  grind [putKey_hbm, memoryOk_connectKey, memoryOk_foldl]

@[simp] theorem creditBack_hbm (s : State) (ctx key n : ℕ) : (creditBack s ctx key n).hbm = s.hbm := by
  unfold creditBack
  grind [sendCredits_hbm, foldl_hbm]

@[simp] theorem lqFreeNow_hbm (s : State) (c n : ℕ) : (lqFreeNow s c n).hbm = s.hbm := by
  unfold lqFreeNow
  grind [onCore_hbm, dropKey_hbm]

@[simp] theorem lqBindNow_hbm (s : State) (c n : ℕ) (dir : Bool) (rlen key omask wn : ℕ) :
    (lqBindNow s c n dir rlen key omask wn).hbm = s.hbm := by
  unfold lqBindNow
  split <;> simp

@[simp] theorem lqSend_hbm (s : State) (c n : ℕ) : (lqSend s c n).hbm = s.hbm := by
  unfold lqSend
  grind [setCore_hbm, sendPacket_hbm]

end Sys2Proof.Proofs
end

section
/-!
PROOFS. Memory keeps its form (O60): effects that land in a core, and the ends of strands and teams.
-/
namespace Sys2Proof.Proofs

open Sys2Proof.Machine Sys2Proof.Laws

/-! ### Land -/

theorem memoryOk_rredRow {s : State} (h : MemoryOk s) (c o len id : ℕ) : MemoryOk (rredRow s c o len id) := by
  unfold rredRow
  grind [memoryOk_ownLoad, onCore_hbm]

@[simp] theorem queueXp_hbm (s : State) (die : ℕ) (cmd : XpCmd) : (queueXp s die cmd).hbm = s.hbm := rfl

theorem memoryOk_xpDescriptor {s : State} (h : MemoryOk s) (c iss o die : ℕ) (cmd : XpCmd) :
    MemoryOk (xpDescriptor s c iss o die cmd) := by
  unfold xpDescriptor
  grind [memoryOk_ownLoad, queueXp_hbm, onCore_hbm]

@[simp] theorem freeReads_hbm (s : State) (c k : ℕ) : (freeReads s c k).hbm = s.hbm := rfl

theorem memoryOk_earlyOuts {s : State} (h : MemoryOk s) (c : ℕ) : MemoryOk (earlyOuts s c) := by
  unfold earlyOuts
  grind [memoryOk_spStore, memoryOk_foldl]

theorem memoryOk_landFx {s : State} (h : MemoryOk s) (c iss : ℕ) (fx : Fx) : MemoryOk (landFx s c iss fx) := by
  unfold landFx
  grind [memoryOk_earlyOuts, onCore_hbm, memoryOk_landLocal, memoryOk_landArray, freeReads_hbm, memoryOk_landChan, setNotify_hbm,
    dropParks_hbm, lqBindNow_hbm, lqFreeNow_hbm, memoryOk_rredRow, memoryOk_xpDescriptor]

theorem memoryOk_landDue {s : State} (h : MemoryOk s) (c n : ℕ) : MemoryOk (landDue s c n) := by
  induction n generalizing s with
  | zero => exact h
  | succ n ih => unfold landDue; grind [memoryOk_landFx, onCore_hbm]

theorem memoryOk_landPushes {s : State} (h : MemoryOk s) (c : ℕ) : MemoryOk (landPushes s c) := by
  unfold landPushes
  grind [memoryOk_landFx, onCore_hbm, memoryOk_foldl]

theorem memoryOk_nextCycle {s : State} (h : MemoryOk s) (c : ℕ) : MemoryOk (nextCycle s c) := by
  unfold nextCycle
  grind [onCore_hbm, memoryOk_landDue]

theorem memoryOk_drain {s : State} (h : MemoryOk s) (c n : ℕ) : MemoryOk (drain s c n) := by
  induction n generalizing s with
  | zero => exact h
  | succ n ih => unfold drain; grind [memoryOk_nextCycle]

/-! ### Work -/

theorem memoryOk_rereadSpad {s : State} (h : MemoryOk s) (c : ℕ) : MemoryOk (rereadSpad s c) := by
  unfold rereadSpad
  grind [memoryOk_startRead, memoryOk_foldl]

theorem memoryOk_rollbackCore {s : State} (h : MemoryOk s) (c : ℕ) : MemoryOk (rollbackCore s c) := by
  unfold rollbackCore
  grind [dropParks_hbm, memoryOk_drain, memoryOk_rereadSpad, setCore_hbm]

theorem memoryOk_leaveCore {s : State} (h : MemoryOk s) (c : ℕ) : MemoryOk (leaveCore s c) := by
  unfold leaveCore
  grind [dropParks_hbm, memoryOk_drain, lqFreeNow_hbm, onCore_hbm, memoryOk_foldl]

@[simp] theorem returnWeight_hbm (s : State) (tag w : ℕ) (killed : Bool) : (returnWeight s tag w killed).hbm = s.hbm := by
  unfold returnWeight
  simp

@[simp] theorem withdrawAll_hbm (s : State) (t : ℕ) : (withdrawAll s t).hbm = s.hbm := by
  unfold withdrawAll
  grind [sendFuller_hbm, foldl_hbm]

@[simp] theorem sendSaved_hbm (s : State) (t : ℕ) : (sendSaved s t).hbm = s.hbm := rfl

theorem memoryOk_removeTeam {s : State} (h : MemoryOk s) (t : ℕ) : MemoryOk (removeTeam s t) := by
  unfold removeTeam
  grind [memoryOk_leaveCore, sendSaved_hbm, dropRefusals_hbm, memoryOk_foldl]

theorem memoryOk_finishTeam {s : State} (h : MemoryOk s) (t : ℕ) : MemoryOk (finishTeam s t) := by
  unfold finishTeam
  grind [returnWeight_hbm, memoryOk_removeTeam]

theorem memoryOk_killRecord {s : State} (h : MemoryOk s) (t code a num : ℕ) (detail : Word) :
    MemoryOk (killRecord s t code a num detail) := by
  unfold killRecord
  grind [memoryOk_queueErr, memoryOk_logErr]

theorem memoryOk_killOne {s : State} (h : MemoryOk s) (t code a num : ℕ) (detail : Word) :
    MemoryOk (killOne s t code a num detail) := by
  unfold killOne
  grind [memoryOk_killRecord, onCore_hbm, withdrawAll_hbm, returnWeight_hbm, memoryOk_removeTeam, foldl_hbm]

theorem memoryOk_killTeam {s : State} (h : MemoryOk s) (t code a num : ℕ) (detail : Word) :
    MemoryOk (killTeam s t code a num detail) := by
  unfold killTeam
  grind [memoryOk_killOne, memoryOk_foldl]

theorem memoryOk_doubleFault {s : State} (h : MemoryOk s) (c : ℕ) : MemoryOk (doubleFault s c) := by
  unfold doubleFault
  grind [memoryOk_killTeam]

@[simp] theorem raiseTeam_hbm (s : State) (t : ℕ) : (raiseTeam s t).hbm = s.hbm := by
  unfold raiseTeam
  grind [onCore_hbm, setTeam_hbm, foldl_hbm]

@[simp] theorem preempt_hbm (s : State) (t : ℕ) : (preempt s t).hbm = s.hbm := by
  unfold preempt
  grind [raiseTeam_hbm, foldl_hbm]

@[simp] theorem cancelLoads_hbm (s : State) (c : ℕ) : (cancelLoads s c).hbm = s.hbm := rfl

theorem memoryOk_forceStrand {s : State} (h : MemoryOk s) (c : ℕ) : MemoryOk (forceStrand s c) := by
  unfold forceStrand
  grind [onCore_hbm, memoryOk_rollbackCore, cancelLoads_hbm]

/-! ### Ops -/

theorem memoryOk_takeTrap {s : State} (h : MemoryOk s) (c : ℕ) (t : Trap) : MemoryOk (takeTrap s c t) := by
  unfold takeTrap
  grind [memoryOk_logCore, memoryOk_doubleFault, onCore_hbm, memoryOk_rollbackCore]

@[simp] theorem freeRows_hbm (s : State) (c n : ℕ) : (freeRows s c n).hbm = s.hbm := by
  unfold freeRows
  grind [onCore_hbm, creditBack_hbm]

@[simp] theorem releaseConsumes_hbm (s : State) (c : ℕ) : (releaseConsumes s c).hbm = s.hbm := by
  unfold releaseConsumes
  grind [onCore_hbm, pushAcc_hbm, foldl_hbm]

@[simp] theorem release_hbm (s : State) (c : ℕ) : (release s c).hbm = s.hbm := by
  unfold release
  grind [releaseConsumes_hbm, releaseStores_hbm, onCore_hbm, freeRows_hbm, foldl_hbm]

@[simp] theorem returnTrap_hbm (s : State) (c rm : ℕ) : (returnTrap s c rm).hbm = s.hbm := by
  unfold returnTrap
  simp

@[simp] theorem issueAcc_hbm (s : State) (c : ℕ) (a : Machine.Acc) : (issueAcc s c a).hbm = s.hbm := rfl

end Sys2Proof.Proofs
end

section
/-!
PROOFS. Memory keeps its form (O60): global memory operations, the fabric and control.
-/
namespace Sys2Proof.Proofs

open Sys2Proof.Machine Sys2Proof.Laws

/-! ### Fabric -/

@[simp] theorem mcastAccs_hbm (s : State) (c : ℕ) (a : Acc) (j n : ℕ) : (mcastAccs s c a j n).hbm = s.hbm := by
  induction n generalizing s j with
  | zero => rfl
  | succ n ih => simp [mcastAccs, ih]

@[simp] theorem contribOf_hbm (s : State) (c a grp rank : ℕ) : (contribOf s c a grp rank).1.hbm = s.hbm := by
  unfold contribOf
  grind [windowFor_hbm]

theorem memoryOk_addContrib {s : State} (h : MemoryOk s) (r : Option RedRec) : ∀ u, (addContrib s r) = some u → MemoryOk u := by
  unfold addContrib
  grind

@[simp] theorem rmStatus_hbm (s : State) (t : Trig) (v : ℕ) : (rmStatus t s v).hbm = s.hbm := rfl

/-! ### Control -/

@[simp] theorem selectPc_hbm (s : State) (c : ℕ) (p : Pc) : (selectPc s c p).hbm = s.hbm := rfl

@[simp] theorem endCkpt_hbm (s : State) (c : ℕ) (resume : Pc) (cyc : ℕ) : (endCkpt s c resume cyc).hbm = s.hbm := rfl

theorem memoryOk_strandExit {s : State} (h : MemoryOk s) (c : ℕ) : MemoryOk (strandExit s c) := by
  unfold strandExit
  grind [memoryOk_drain, onCore_hbm, updTeam_hbm, memoryOk_finishTeam]

theorem memoryOk_haltTeam {s : State} (h : MemoryOk s) (c : ℕ) (pc : Pc) (y : Word) : MemoryOk (haltTeam s c pc y) := by
  unfold haltTeam
  grind [memoryOk_killTeam]

@[simp] theorem startOffer_hbm (s : State) (tag : ℕ) : (startOffer s tag).hbm = s.hbm := by
  unfold startOffer
  split <;> simp

@[simp] theorem addTeam_hbm (s : State) (tm : Team) : (addTeam s tm).hbm = s.hbm := rfl

@[simp] theorem addChildren_hbm (s : State) (tag w m entry n : ℕ) (words : List Word) (after : ℕ × ℕ × ℕ) (i k : ℕ) :
    (addChildren s tag w m entry n words after i k).hbm = s.hbm := by
  induction k generalizing s i with
  | zero => rfl
  | succ k ih => simp [addChildren, ih]

@[simp] theorem spawnTeams_hbm (s : State) (c t m entry n : ℕ) (words : List Word) :
    (spawnTeams s c t m entry n words).hbm = s.hbm := by
  unfold spawnTeams
  simp

end Sys2Proof.Proofs
end

section
/-!
PROOFS. Memory keeps its form (O60): frames, Lerant programs, transfers, and packets that arrive.
-/
namespace Sys2Proof.Proofs

open Sys2Proof.Machine Sys2Proof.Laws

/-! ### Frame -/

theorem memoryOk_frameXlate {s : State} (h : MemoryOk s) (a : ℕ) (wr : Bool) : MemoryOk (frameXlate s a wr).1 := by
  have hleaf : ∀ {u : State}, MemoryOk u → ∀ d, MemoryOk (findLeaf u d 0 a gMgmt true).1 := fun hu d =>
    (touched_findLeaf _ d 0 a gMgmt true).wf hu
  have htouch : ∀ {u : State}, MemoryOk u → ∀ p e, MemoryOk (touchLeaf u p e wr) :=
    fun hu p e => (touched_touchLeaf _ p e wr).wf hu
  unfold frameXlate
  grind [descriptor_hbm, cachePut_hbm, foldl_hbm]

theorem memoryOk_writeSectors {s : State} (h : MemoryOk s) (p v n : ℕ) : MemoryOk (writeSectors s p v n) := by
  induction n generalizing s p v with
  | zero => exact h
  | succ n ih => unfold writeSectors; exact ih (wf_storePart _ _ _ _ h) _ _

theorem memoryOk_writeRows {s : State} (h : MemoryOk s) (k x : ℕ) (rows : List (ℕ × ℕ)) : MemoryOk (writeRows s k x rows).1 := by
  induction rows generalizing s with
  | nil => exact h
  | cons r rows ih => unfold writeRows; grind [memoryOk_frameXlate, memoryOk_writeSectors]

theorem memoryOk_readRows {s : State} (h : MemoryOk s) (k x : ℕ) (rows : List ℕ) : MemoryOk (readRows s k x rows).1 := by
  induction rows generalizing s with
  | nil => exact h
  | cons r rows ih => unfold readRows; grind [memoryOk_frameXlate]

theorem memoryOk_writeFrame {s : State} (h : MemoryOk s) (t k x reason : ℕ) (grown : Bool) (rows : Tab ℕ) :
    MemoryOk (writeFrame s t k x reason grown rows).1 := by
  unfold writeFrame
  grind [memoryOk_writeRows]

theorem memoryOk_readFrame {s : State} (h : MemoryOk s) (k x n : ℕ) : MemoryOk (readFrame s k x n).1 := by
  unfold readFrame
  grind [memoryOk_readRows]

theorem memoryOk_logTags {s : State} (h : MemoryOk s) (c : ℕ) : MemoryOk (logTags s c) := by
  unfold logTags
  grind [memoryOk_tagRead, memoryOk_foldl]

@[simp] theorem leaveSaved_hbm (s : State) (c : ℕ) : (leaveSaved s c).hbm = s.hbm := rfl

theorem memoryOk_saveTeam {s : State} (h : MemoryOk s) (t : ℕ) : MemoryOk (saveTeam s t) := by
  unfold saveTeam
  grind [onCore_hbm, memoryOk_logTags, memoryOk_writeFrame, memoryOk_killTeam, leaveSaved_hbm, setTeam_hbm, memoryOk_foldl]

@[simp] theorem loadCores_hbm (s : State) (t : ℕ) (rows : Tab ℕ) (k : ℕ) (cs : List ℕ) :
    (loadCores s t rows k cs).hbm = s.hbm := by
  induction cs generalizing s k with
  | nil => rfl
  | cons c cs ih => unfold loadCores; grind [setCore_hbm]

theorem memoryOk_restoreTeam {s : State} (h : MemoryOk s) (t : ℕ) : MemoryOk (restoreTeam s t) := by
  unfold restoreTeam
  grind [memoryOk_readFrame, memoryOk_killTeam, loadCores_hbm, memoryOk_startRead, setTeam_hbm, memoryOk_foldl]

theorem memoryOk_writeReason {s : State} (h : MemoryOk s) (t reason : ℕ) : MemoryOk (writeReason s t reason) := by
  unfold writeReason
  grind [memoryOk_frameXlate, memoryOk_killTeam, wf_physPut]

theorem memoryOk_editFrame {s : State} (h : MemoryOk s) (t : ℕ) (f : Tab ℕ → Tab ℕ) : MemoryOk (editFrame s t f) := by
  unfold editFrame
  grind [memoryOk_readFrame, memoryOk_killTeam, memoryOk_writeRows]

@[simp] theorem editSent_hbm (s : State) (t n : ℕ) (f : LinkQ → LinkQ) : (editSent s t n f).hbm = s.hbm := rfl

/-! ### Lerant -/

theorem memoryOk_queueEcc {s : State} (h : MemoryOk s) (q : ℕ) (es : List ℕ) : MemoryOk (queueEcc s q es) := by
  unfold queueEcc
  grind [memoryOk_logBads]

@[simp] theorem freeAddr_hbm (s : State) : (freeAddr s).1.hbm = s.hbm := rfl

@[simp] theorem bindQueue_hbm (s : State) (q : ℕ) : (bindQueue s q).hbm = s.hbm := by
  unfold bindQueue
  split <;> rfl

@[simp] theorem releaseInterp_hbm (s : State) (k : ℕ) : (releaseInterp s k).hbm = s.hbm := by
  unfold releaseInterp
  grind [setQueue_hbm, setInterp_hbm, clearParts_hbm, bindQueue_hbm]

@[simp] theorem endPacket_hbm (s : State) (k : ℕ) (adv : Bool) : (endPacket s k adv).hbm = s.hbm := by
  unfold endPacket
  grind [clearParts_hbm, setQueue_hbm, setInterp_hbm, releaseInterp_hbm]

theorem memoryOk_queueOverflow {s : State} (h : MemoryOk s) (q : ℕ) : MemoryOk (queueOverflow s q) := by
  unfold queueOverflow
  grind [setQueue_hbm, freeAddr_hbm, memoryOk_queueErr, memoryOk_logErr]

theorem memoryOk_packetErr {s : State} (h : MemoryOk s) (q code : ℕ) (detail : Word) : MemoryOk (packetErr s q code detail) := by
  unfold packetErr
  grind [freeAddr_hbm, memoryOk_queueErr]

theorem memoryOk_rejectPacket {s : State} (h : MemoryOk s) (k q code : ℕ) (detail : Word) :
    MemoryOk (rejectPacket s k q code detail) := by
  unfold rejectPacket
  grind [endPacket_hbm, memoryOk_packetErr]

theorem memoryOk_faultPacket {s : State} (h : MemoryOk s) (k q code a : ℕ) : MemoryOk (faultPacket s k q code a) := by
  unfold faultPacket
  grind [endPacket_hbm, memoryOk_queueFault]

theorem memoryOk_pollQueue {s : State} (h : MemoryOk s) (q : ℕ) : MemoryOk (pollQueue s q) := by
  rcases Nat.eq_zero_or_pos (backlog s q) with h0 | h0
  · exact memoryOk_of_eq h (by rw [pollQueue_empty h0, setQueue_hbm]; rfl)
  · rcases Nat.lt_or_ge (2 ^ (s.queue q).lsize) (backlog s q) with hn | hn
    · rw [pollQueue_overflows hn]
      exact memoryOk_queueOverflow (memoryOk_of_eq h (by rw [setQueue_hbm]; rfl)) q
    · exact memoryOk_of_eq h (by rw [pollQueue_binds h0 hn, bindQueue_hbm, setQueue_hbm]; rfl)

@[simp] theorem onIp_hbm (s : State) (f : Interp → Interp) : (onIp s f).hbm = s.hbm := rfl

@[simp] theorem feLdsc_hbm (s : State) (a : BitVec 3) (k : BitVec 5) : (feLdsc a k s).hbm = s.hbm := by
  unfold feLdsc
  split <;> rfl

@[simp] theorem feStsc_hbm (s : State) (a : BitVec 3) (k : BitVec 5) : (feStsc a k s).hbm = s.hbm := by
  unfold feStsc
  split <;> rfl

theorem memoryOk_feLdpa {s : State} (h : MemoryOk s) (a : BitVec 3) (k : BitVec 6) : MemoryOk (feLdpa a k s) := by
  unfold feLdpa
  grind [memoryOk_whoRead, memoryOk_faultPacket, onIp_hbm, memoryOk_queueEcc, clearParts_hbm]

@[simp] theorem feHalt_hbm (s : State) : (feHalt s).hbm = s.hbm := by
  unfold feHalt
  simp

theorem memoryOk_feRej {s : State} (h : MemoryOk s) (v : BitVec 16) : MemoryOk (feRej v s) := by
  unfold feRej
  grind [memoryOk_rejectPacket]

theorem memoryOk_feStop {s : State} (h : MemoryOk s) (v : BitVec 16) : MemoryOk (feStop v s) := by
  unfold feStop
  grind [memoryOk_packetErr, endPacket_hbm, setQueue_hbm]

/-! ### Transfer -/

theorem memoryOk_reqErr {s : State} (h : MemoryOk s) (r : Req) (code a : ℕ) : MemoryOk (reqErr s r code a) := by
  unfold reqErr
  grind [memoryOk_logErr]

theorem memoryOk_xferFail {s : State} (h : MemoryOk s) (tag code a : ℕ) : MemoryOk (xferFail s tag code a) := by
  unfold xferFail
  grind [memoryOk_reqErr, clearParts_hbm, updReq_hbm]

@[simp] theorem xferAdvance_hbm (s : State) (tag m : ℕ) : (xferAdvance s tag m).hbm = s.hbm := by
  unfold xferAdvance
  simp

@[simp] theorem xferSend_hbm (s : State) (w : Window) (target op tag off m v wn : ℕ) :
    (xferSend s w target op tag off m v wn).hbm = s.hbm := by
  unfold xferSend
  simp

theorem memoryOk_xferEcc {s : State} (h : MemoryOk s) (r : Req) (es : List ℕ) : MemoryOk (xferEcc s r es) := by
  unfold xferEcc
  grind [memoryOk_logBads]

theorem memoryOk_xferPut {s : State} (h : MemoryOk s) (tag b m v : ℕ) : MemoryOk (xferPut s tag b m v) := by
  unfold xferPut
  grind [memoryOk_whoWrite, memoryOk_xferFail, xferAdvance_hbm, windowFor_hbm, updReq_hbm, xferSend_hbm]

theorem memoryOk_xferGet {s : State} (h : MemoryOk s) (tag : ℕ) : MemoryOk (xferGet s tag) := by
  unfold xferGet
  grind [memoryOk_whoRead, memoryOk_xferFail, memoryOk_xferEcc, memoryOk_xferPut, windowFor_hbm, updReq_hbm, xferSend_hbm]

theorem memoryOk_xferStep {s : State} (h : MemoryOk s) (tag : ℕ) : MemoryOk (xferStep s tag) := by
  unfold xferStep
  grind [memoryOk_xferGet, updReq_hbm]

theorem memoryOk_xferReply {s : State} (h : MemoryOk s) (tag off m : ℕ) (p : Packet) : MemoryOk (xferReply s tag off m p) := by
  unfold xferReply
  grind [memoryOk_xferEcc, memoryOk_xferPut, updReq_hbm]

@[simp] theorem xferAck_hbm (s : State) (tag : ℕ) : (xferAck s tag).hbm = s.hbm := by
  unfold xferAck
  simp

theorem memoryOk_xferLost {s : State} (h : MemoryOk s) (tag off code : ℕ) (read : Bool) :
    MemoryOk (xferLost s tag off code read) := by
  unfold xferLost
  grind [memoryOk_xferFail, updReq_hbm, xferAck_hbm]

/-! ### Packets -/

@[simp] theorem sendPort_hbm (s : State) (q : ℕ) : (sendPort s q).hbm = s.hbm := by
  unfold sendPort
  grind

theorem memoryOk_barrierPacket {s : State} (h : MemoryOk s) (p : Packet) : MemoryOk (barrierPacket s p) := by
  unfold barrierPacket
  grind [memoryOk_answerErr, answer_hbm, barrierArriveAt_hbm]

theorem memoryOk_rowArrive {s : State} (h : MemoryOk s) (p : Packet) : MemoryOk (rowArrive s p) := by
  unfold rowArrive
  grind [memoryOk_logFabric, memoryOk_editFrame, onCore_hbm]

theorem memoryOk_connectArrive {s : State} (h : MemoryOk s) (p : Packet) : MemoryOk (connectArrive s p) := by
  unfold connectArrive
  grind [answer_hbm, putKey_hbm, memoryOk_connectKey]

theorem memoryOk_creditArrive {s : State} (h : MemoryOk s) (p : Packet) : MemoryOk (creditArrive s p) := by
  unfold creditArrive
  grind [onCore_hbm, memoryOk_editFrame, editSent_hbm]

end Sys2Proof.Proofs
end

section
/-!
PROOFS. Memory keeps its form (O60): reduction groups and the expert engine.
-/
namespace Sys2Proof.Proofs

open Sys2Proof.Machine Sys2Proof.Laws

/-! ### Groups -/

theorem memoryOk_homeWrites {s : State} (h : MemoryOk s) (k ctx : ℕ) (ws : List (ℕ × ℕ × ℕ)) :
    MemoryOk (homeWrites s k ctx ws).1 := by
  induction ws generalizing s with
  | nil => exact h
  | cons w ws ih => exact ih (memoryOk_whoWrite h _ _ _ _ _ _)

@[simp] theorem fullerStore_hbm (s : State) (dom mem ctx : ℕ) (x : ℕ × ℕ × ℕ) : (fullerStore s dom mem ctx x).hbm = s.hbm := by
  unfold fullerStore
  simp

@[simp] theorem sendNotice_hbm (s : State) (dom mem ctx grp gen : ℕ) : (sendNotice s dom mem ctx grp gen).hbm = s.hbm := by
  unfold sendNotice
  simp

@[simp] theorem deliverTo_hbm (s : State) (g : Machine.Group) (res : Option ℕ) (sw : Word) (d : ℕ × ℕ × ℕ) :
    (deliverTo s g res sw d).hbm = s.hbm := by
  unfold deliverTo
  grind [fullerStore_hbm, foldl_hbm]

theorem memoryOk_stagedRows {s : State} (h : MemoryOk s) (k : ℕ) (g : Group) (rs : List ℕ) :
    MemoryOk (stagedRows s k g rs).1 := by
  induction rs generalizing s with
  | nil => exact h
  | cons r rs ih => exact ih (memoryOk_whoRead h _ _ _ _ _)

theorem memoryOk_logRows {s : State} (h : MemoryOk s) (g : Machine.Group) (l : List (ℕ × Got)) : MemoryOk (logRows s g l) := by
  unfold logRows
  grind [memoryOk_logFabric, memoryOk_foldl]

@[simp] theorem closeGen_hbm (s : State) (k : ℕ) (g : Machine.Group) (kind : ℕ) (v : Option ℕ) (ovf : Bool) (a : List ℕ) :
    (closeGen s k g kind v ovf a).hbm = s.hbm := by
  unfold closeGen
  grind [clearParts_hbm, deliverTo_hbm, sendNotice_hbm, answer_hbm, setGroup_hbm, foldl_hbm]

theorem memoryOk_endGen {s : State} (h : MemoryOk s) (k kind : ℕ) : MemoryOk (endGen s k kind) := by
  unfold endGen
  grind [closeGen_hbm, memoryOk_stagedRows, setGroup_hbm, memoryOk_logRows, memoryOk_homeWrites, memoryOk_logFabric,
    memoryOk_foldl]

@[simp] theorem ackTaken_hbm (s : State) (g : Machine.Group) (p : Packet) : (ackTaken s g p).hbm = s.hbm := by
  unfold ackTaken
  simp

theorem memoryOk_taken {s : State} (h : MemoryOk s) (k : ℕ) (g : Machine.Group) (p : Packet) : MemoryOk (taken s k g p) := by
  unfold taken
  grind [ackTaken_hbm, setGroup_hbm, memoryOk_endGen]

theorem memoryOk_arriveGrp {s : State} (h : MemoryOk s) (a : Arrival) (op : ℕ) : MemoryOk (arriveGrp s a op).1 := by
  unfold arriveGrp
  grind [memoryOk_arriveReq]

theorem memoryOk_stageRow {s : State} (h : MemoryOk s) (k : ℕ) (p : Packet) (fresh : Bool) : MemoryOk (stageRow s k p fresh) := by
  unfold stageRow
  grind [memoryOk_taken, memoryOk_whoWrite, setGroup_hbm, answer_hbm, memoryOk_logFabric, clearParts_hbm]

theorem memoryOk_contribArrive {s : State} (h : MemoryOk s) (p : Packet) : MemoryOk (contribArrive s p) := by
  unfold contribArrive
  grind [memoryOk_answerErr, memoryOk_stageRow, setGroup_hbm]

theorem memoryOk_withdrawArrive {s : State} (h : MemoryOk s) (p : Packet) : MemoryOk (withdrawArrive s p) := by
  unfold withdrawArrive
  grind [memoryOk_answerErr, memoryOk_taken]

theorem memoryOk_grpsetArrive {s : State} (h : MemoryOk s) (p : Packet) : MemoryOk (grpsetArrive s p) := by
  unfold grpsetArrive
  grind [answer_hbm, setGroup_hbm, memoryOk_answerErr]

theorem memoryOk_grpclrArrive {s : State} (h : MemoryOk s) (p : Packet) : MemoryOk (grpclrArrive s p) := by
  unfold grpclrArrive
  grind [memoryOk_answerErr, answer_hbm, memoryOk_endGen, setGroup_hbm]

theorem memoryOk_grpretireArrive {s : State} (h : MemoryOk s) (p : Packet) : MemoryOk (grpretireArrive s p) := by
  unfold grpretireArrive
  grind [memoryOk_answerErr, answer_hbm, setGroup_hbm]

theorem memoryOk_resumeGroup {s : State} (h : MemoryOk s) (k : ℕ) : MemoryOk (resumeGroup s k) := by
  unfold resumeGroup
  grind [memoryOk_endGen, memoryOk_stageRow]

@[simp] theorem noticeArrive_hbm (s : State) (p : Packet) : (noticeArrive s p).hbm = s.hbm := by
  unfold noticeArrive
  simp

/-! ### Experts -/

@[simp] theorem setResid_hbm (s : State) (e : ℕ) (r : Resid) : (setResid s e r).hbm = s.hbm := rfl

theorem memoryOk_logEngine {s : State} (h : MemoryOk s) (code a ctx die eng : ℕ) : MemoryOk (logEngine s code a ctx die eng) := by
  unfold logEngine
  grind [memoryOk_logErr]

theorem memoryOk_logXpstate {s : State} (h : MemoryOk s) (e ctx : ℕ) : MemoryOk (logXpstate s e ctx) := by
  unfold logXpstate
  grind [memoryOk_logEngine]

@[simp] theorem setNv_hbm (s : State) (q : ℕ) (x : NvmeQ) : (setNv s q x).hbm = s.hbm := rfl

theorem memoryOk_sendRead {s : State} (h : MemoryOk s) (e : ℕ) : MemoryOk (sendRead s e) := by
  unfold sendRead
  grind [draw_hbm, wf_storePart, setNv_hbm, tellHost_hbm, setResid_hbm]

theorem memoryOk_sendReads {s : State} (h : MemoryOk s) (e n : ℕ) : MemoryOk (sendReads s e n) := by
  induction n generalizing s with
  | zero => exact h
  | succ n ih => unfold sendReads; grind [memoryOk_sendRead]

theorem memoryOk_pumpReads {s : State} (h : MemoryOk s) : MemoryOk (pumpReads s) := by
  unfold pumpReads
  grind [memoryOk_sendReads, memoryOk_foldl]

@[simp] theorem takeCpls_hbm (s : State) (q n : ℕ) : (takeCpls s q n).hbm = s.hbm := by
  induction n generalizing s with
  | zero => rfl
  | succ n ih => unfold takeCpls; grind [setNv_hbm, setResid_hbm, tellHost_hbm]

theorem memoryOk_pollDrive {s : State} (h : MemoryOk s) (e : ℕ) : MemoryOk (pollDrive s e) := by
  unfold pollDrive
  grind [memoryOk_pumpReads, takeCpls_hbm]

theorem memoryOk_askCave {s : State} (h : MemoryOk s) (e : ℕ) : MemoryOk (askCave s e) := by
  unfold askCave
  grind [tellHost_hbm, memoryOk_pumpReads]

@[simp] theorem evictSlot_hbm (s : State) (e : ℕ) : (evictSlot s e).hbm = s.hbm := rfl

theorem memoryOk_claim {s : State} (h : MemoryOk s) (e : ℕ) : MemoryOk (claim s e) := by
  unfold claim
  grind [evictSlot_hbm, memoryOk_askCave, setResid_hbm]

theorem memoryOk_claimAll {s : State} (h : MemoryOk s) (es : List ℕ) : MemoryOk (claimAll s es) := by
  induction es generalizing s with
  | nil => exact h
  | cons e es ih => unfold claimAll; grind [memoryOk_claim]

theorem memoryOk_claimSlots {s : State} (h : MemoryOk s) : MemoryOk (claimSlots s) := by
  unfold claimSlots
  grind [memoryOk_claimAll]

theorem memoryOk_startFetch {s : State} (h : MemoryOk s) (e : ℕ) : MemoryOk (startFetch s e) := by
  unfold startFetch
  grind [setResid_hbm, memoryOk_claimSlots]

theorem erunOk_jobFail {s : State} (h : MemoryOk s) (die : ℕ) (j : XpJob) (code a : ℕ) : ERunOk (jobFail s die j code a) := by
  unfold jobFail
  grind [memoryOk_logEngine, ERunOk]

theorem memoryOk_engBads {s : State} (h : MemoryOk s) (die : ℕ) (j : XpJob) (as : List ℕ) : MemoryOk (engBads s die j as).1 := by
  unfold engBads
  grind [memoryOk_logEngine, memoryOk_foldl]

theorem erunOk_engRead {s : State} (h : MemoryOk s) (die : ℕ) (j back : XpJob) (a n : ℕ) {k : State → XpJob → ℕ → ERun}
    (hk : ∀ u j v, MemoryOk u → ERunOk (k u j v)) : ERunOk (engRead s die j back a n k) := by
  unfold engRead
  grind [memoryOk_whoRead, memoryOk_engBads, erunOk_jobFail, ERunOk]

theorem memoryOk_engDone {s : State} (h : MemoryOk s) (j : XpJob) : MemoryOk (engDone s j) := h

@[simp] theorem engAnew_hbm (s : State) (j : XpJob) (as : List ℕ) : (engAnew s j as).hbm = s.hbm := rfl

theorem erunOk_engElem {s : State} (h : MemoryOk s) (die : ℕ) (j back : XpJob) (p : Word) (w n : ℕ) {k : State → XpJob → ℕ → ERun}
    (hk : ∀ u j v, MemoryOk u → ERunOk (k u j v)) : ERunOk (engElem s die j back p w n k) := by
  unfold engElem
  split
  · exact erunOk_jobFail h _ _ _ _
  · split
    · exact erunOk_jobFail h _ _ _ _
    · exact erunOk_engRead h _ _ _ _ _ hk

theorem erunOk_engWrite {s : State} (h : MemoryOk s) (die : ℕ) (j back : XpJob) (a n v : ℕ) {k : State → XpJob → ERun}
    (hk : ∀ u j, MemoryOk u → ERunOk (k u j)) : ERunOk (engWrite s die j back a n v k) := by
  unfold engWrite
  grind [memoryOk_whoWrite, erunOk_jobFail, ERunOk]

theorem erunOk_topkOut {s : State} (h : MemoryOk s) (die : ℕ) (j : XpJob) (row w n : ℕ) (idx wts : List ℕ) {k : State → XpJob →
    ERun}
    (hk : ∀ u j, MemoryOk u → ERunOk (k u j)) : ERunOk (topkOut s die j row w n idx wts k) :=
  erunOk_engWrite h _ _ _ _ _ _ fun _ _ hu => erunOk_engWrite hu _ _ _ _ _ _ fun _ _ hv =>
    hk _ _ (memoryOk_engDone hv _)

theorem erunOk_topkTokens {s : State} (h : MemoryOk s) (die : ℕ) (j : XpJob) (n : ℕ) : ERunOk (topkTokens s die j n) := by
  induction n generalizing s j with
  | zero => exact h
  | succ n ih =>
    unfold topkTokens
    exact erunOk_engRead h _ _ _ _ _ fun _ _ _ hu => erunOk_topkOut hu _ _ _ _ _ _ _ fun _ _ hv => ih hv _

theorem erunOk_topkRows {s : State} (h : MemoryOk s) (die : ℕ) (j : XpJob) {k : State → XpJob → ERun} (n : ℕ)
    (hk : ∀ u j, MemoryOk u → ERunOk (k u j)) : ERunOk (topkRows s die j k n) := by
  induction n generalizing s j with
  | zero => exact hk _ _ h
  | succ n ih =>
    unfold topkRows
    exact erunOk_engRead h _ _ _ _ _ fun _ j _ hu => ih (memoryOk_engDone hu j) _

theorem erunOk_topkExperts {s : State} (h : MemoryOk s) (die : ℕ) (j : XpJob) (n : ℕ) : ERunOk (topkExperts s die j n) := by
  induction n generalizing s j with
  | zero => exact h
  | succ n ih => exact erunOk_topkOut h _ _ _ _ _ _ _ fun _ _ hu => ih hu _

theorem erunOk_topkSelect {s : State} (h : MemoryOk s) (die : ℕ) (j : XpJob) : ERunOk (topkSelect s die j) := by
  unfold topkSelect
  dsimp only
  split
  · exact erunOk_topkTokens h _ _ _
  · exact erunOk_topkRows h _ _ _ fun _ _ hu => erunOk_topkExperts hu _ _ _

theorem erunOk_topkRun {s : State} (h : MemoryOk s) (die : ℕ) (j : XpJob) : ERunOk (topkRun s die j) := by
  unfold topkRun
  dsimp only
  split
  · exact erunOk_topkSelect h _ _
  · split
    · exact erunOk_topkSelect h _ _
    · split
      · exact h
      · exact erunOk_engRead h _ _ _ _ _ fun _ _ _ hu => erunOk_topkSelect (memoryOk_engDone hu _) _ _

theorem erunOk_biasRun {s : State} (h : MemoryOk s) (die : ℕ) (j : XpJob) (n : ℕ) : ERunOk (biasRun s die j n) := by
  induction n generalizing s j with
  | zero => exact h
  | succ n ih =>
    unfold biasRun
    dsimp only
    split
    · exact h
    · exact erunOk_engRead h _ _ _ _ _ fun _ _ _ hu => erunOk_engWrite hu _ _ _ _ _ _ fun _ _ hv =>
        ih (memoryOk_engDone hv _) _

theorem memoryOk_listEnds {s : State} (h : MemoryOk s) (die : ℕ) (j : XpJob) (e : ℕ) : MemoryOk (listEnds s die j e) := by
  unfold listEnds
  grind [memoryOk_logEngine]

theorem erunOk_emitItem {s : State} (h : MemoryOk s) (die : ℕ) (j : XpJob) (em : Emit) {k : State → XpJob → ERun}
    (hk : ∀ u j, MemoryOk u → ERunOk (k u j)) : ERunOk (emitItem s die j em k) := by
  unfold emitItem
  extract_lets put
  have hput : ∀ u j p, MemoryOk u → ERunOk (put u j p) := fun u j p hu =>
    erunOk_engRead (memoryOk_of_eq hu (engAnew_hbm _ _ _)) _ _ _ _ _
      fun _ _ _ hu => erunOk_engRead hu _ _ _ _ _ fun _ _ _ hu => by
      split
      · exact hu
      · exact erunOk_engWrite hu _ _ _ _ _ _ fun _ _ hu => erunOk_engWrite hu _ _ _ _ _ _ fun _ _ hu =>
          hk _ _ (memoryOk_engDone hu _)
  split
  · exact hput _ _ _ h
  · refine erunOk_engElem h _ _ _ _ _ _ fun u j p hu => ?_
    split
    · exact hk _ _ (memoryOk_listEnds (memoryOk_engDone hu _) _ _ _)
    · exact hput _ _ _ hu

theorem erunOk_walkTable {s : State} (h : MemoryOk s) (j : XpJob) (e : ℕ) (p : Word) (n : ℕ) {k : State → XpJob → ERun}
    (hk : ∀ u j, MemoryOk u → ERunOk (k u j)) : ERunOk (walkTable s j e p n k) := by
  unfold walkTable
  grind [memoryOk_logXpstate, setResid_hbm, memoryOk_startFetch, ERunOk]

theorem erunOk_walkRun {s : State} (h : MemoryOk s) (die : ℕ) (j : XpJob) (n : ℕ) : ERunOk (walkRun s die j n) := by
  induction n generalizing s j with
  | zero => exact h
  | succ n ih =>
    have hnext : ∀ u j, MemoryOk u → ERunOk (walkRun u die j n) := fun _ j hu => ih hu j
    unfold walkRun
    split
    · exact erunOk_emitItem h _ _ _ hnext
    · split
      · exact h
      · split
        · exact erunOk_walkTable h _ _ _ _ hnext
        · split
          · exact h
          · exact erunOk_engRead h _ _ _ _ _ fun _ _ _ hu => erunOk_engRead hu _ _ _ _ _ fun _ _ _ hu =>
              erunOk_engElem hu _ _ _ _ _ _ fun _ _ _ hu => erunOk_walkTable (memoryOk_engDone hu _) _ _ _ _ hnext

theorem jobEndOk_finishJob {s : State} (h : MemoryOk s) (die : ℕ) (j : XpJob) : JobEndOk (finishJob s die j) := by
  unfold finishJob
  grind [memoryOk_whoWrite, memoryOk_logEngine, JobEndOk]

theorem jobEndOk_runJob {s : State} (h : MemoryOk s) (die : ℕ) (j : XpJob) : JobEndOk (runJob s die j) := by
  unfold runJob
  grind [jobEndOk_finishJob, erunOk_topkRun, erunOk_biasRun, erunOk_walkRun, memoryOk_engDone, ERunOk, JobEndOk]

@[simp] theorem putJob_hbm (s : State) (die : ℕ) (j : XpJob) : (putJob s die j).hbm = s.hbm := rfl

@[simp] theorem endJob_hbm (s : State) (die id : ℕ) : (endJob s die id).hbm = s.hbm := by
  unfold endJob
  split
  · rfl
  · dsimp only
    split <;> rfl

theorem memoryOk_tryJob {s : State} (h : MemoryOk s) (die id : ℕ) : MemoryOk (tryJob s die id).1 := by
  unfold tryJob
  grind [jobEndOk_runJob, endJob_hbm, putJob_hbm, JobEndOk]

theorem memoryOk_kickJobs {s : State} (h : MemoryOk s) (die : ℕ) (ids : List ℕ) : MemoryOk (kickJobs s die ids) := by
  induction ids generalizing s with
  | nil => exact h
  | cons id ids ih => unfold kickJobs; grind [memoryOk_tryJob]

theorem memoryOk_kickEmits {s : State} (h : MemoryOk s) (die : ℕ) (held : List ℕ) (js : List XpJob) :
    MemoryOk (kickEmits s die held js) := by
  induction js generalizing s held with
  | nil => exact h
  | cons j js ih => unfold kickEmits; grind [memoryOk_tryJob]

theorem memoryOk_kickBias {s : State} (h : MemoryOk s) : MemoryOk (kickBias s) := by
  unfold kickBias
  grind [memoryOk_tryJob, memoryOk_foldl]

theorem memoryOk_kickDie {s : State} (h : MemoryOk s) (die : ℕ) : MemoryOk (kickDie s die) := by
  unfold kickDie
  grind [memoryOk_kickEmits, memoryOk_kickBias, memoryOk_kickJobs]

@[simp] theorem addJob_hbm (s : State) (die : ℕ) (j : XpJob) : (addJob s die j).hbm = s.hbm := rfl

@[simp] theorem emitWait_hbm (s : State) (w : WaitEnt) (kind : ℕ) (waddr : Word) : (emitWait s w kind waddr).hbm = s.hbm := rfl

@[simp] theorem rearm_hbm (s : State) (e : ℕ) (ws : List WaitEnt) : (rearm s e ws).hbm = s.hbm := by
  induction ws generalizing s with
  | nil => rfl
  | cons w ws ih => unfold rearm; grind [emitWait_hbm, setResid_hbm]

@[simp] theorem applyLocks_hbm (s : State) (e : ℕ) (ls : List (ℕ × ℕ)) : (applyLocks s e ls).hbm = s.hbm := by
  induction ls generalizing s with
  | nil => rfl
  | cons l ls ih => unfold applyLocks; grind [setResid_hbm]

theorem memoryOk_handOut {s : State} (h : MemoryOk s) (e : ℕ) : MemoryOk (handOut s e) := by
  unfold handOut
  grind [rearm_hbm, applyLocks_hbm, memoryOk_kickDie]

theorem memoryOk_pageFetch {s : State} (h : MemoryOk s) (e : ℕ) : MemoryOk (pageFetch s e) := by
  unfold pageFetch
  grind [memoryOk_startFetch]

theorem memoryOk_pageLock {s : State} (h : MemoryOk s) (e tag : ℕ) : MemoryOk (pageLock s e tag) := by
  unfold pageLock
  grind [setResid_hbm, memoryOk_pageFetch]

theorem memoryOk_pageUnlock {s : State} (h : MemoryOk s) (e ctx u : ℕ) : MemoryOk (pageUnlock s e ctx u) := by
  unfold pageUnlock
  grind [memoryOk_logXpstate, memoryOk_claimSlots, memoryOk_handOut, setResid_hbm]

theorem memoryOk_pageEvict {s : State} (h : MemoryOk s) (e : ℕ) : MemoryOk (pageEvict s e) := by
  unfold pageEvict
  grind [memoryOk_claimSlots, setResid_hbm]

theorem memoryOk_resarmRetry {s : State} (h : MemoryOk s) (e : ℕ) : MemoryOk (resarmRetry s e) := by
  unfold resarmRetry
  grind [memoryOk_startFetch]

theorem memoryOk_resarmDrop {s : State} (h : MemoryOk s) (e : ℕ) : MemoryOk (resarmDrop s e) := by
  unfold resarmDrop
  grind [emitWait_hbm, memoryOk_handOut, setResid_hbm, memoryOk_foldl]

theorem memoryOk_resqAnswer {s : State} (h : MemoryOk s) (c : XpCmd) : MemoryOk (resqAnswer s c) := by
  unfold resqAnswer
  grind [deliver_hbm, memoryOk_logXpstate]

theorem memoryOk_tableCmd {s : State} (h : MemoryOk s) (c : XpCmd) : MemoryOk (tableCmd s c) := by
  unfold tableCmd
  grind [memoryOk_resqAnswer, memoryOk_logXpstate, memoryOk_pageFetch, memoryOk_pageLock, memoryOk_pageUnlock, memoryOk_pageEvict,
    memoryOk_resarmRetry, memoryOk_resarmDrop]

theorem memoryOk_acceptCmd {s : State} (h : MemoryOk s) (die k : ℕ) : MemoryOk (acceptCmd s die k) := by
  unfold acceptCmd
  grind [memoryOk_kickBias, memoryOk_tryJob, addJob_hbm, memoryOk_tableCmd]

@[simp] theorem caveData_hbm (s : State) (n : ℕ) : (caveData s n).1.hbm = s.hbm := rfl

theorem fetchedOk_fetchData {s : State} (h : MemoryOk s) (e : ℕ) : FetchedOk (fetchData s e) := by
  unfold fetchData
  grind [memoryOk_whoWrite, memoryOk_whoRead, caveData_hbm, FetchedOk]

theorem memoryOk_fetchEnds {s : State} (h : MemoryOk s) (e : ℕ) : MemoryOk (fetchEnds s e) := by
  unfold fetchEnds
  grind [memoryOk_claimSlots, memoryOk_handOut, setResid_hbm]

theorem memoryOk_fetchStep {s : State} (h : MemoryOk s) (e : ℕ) : MemoryOk (fetchStep s e) := by
  unfold fetchStep
  grind [memoryOk_pollDrive, fetchedOk_fetchData, memoryOk_fetchEnds, clearParts_hbm, FetchedOk]

theorem memoryOk_pokeParts {s : State} (h : MemoryOk s) (ctx g a n v : ℕ) : MemoryOk (pokeParts s ctx g a n v) := by
  unfold pokeParts
  grind [memoryOk_translate, wf_storePart, memoryOk_foldl]

theorem memoryOk_mixFrame {s : State} (h : MemoryOk s) (e : ℕ) : MemoryOk (mixFrame s e) := by
  unfold mixFrame
  grind [caveData_hbm, draw_hbm, memoryOk_pokeParts]

theorem memoryOk_failFetch {s : State} (h : MemoryOk s) (e : ℕ) : MemoryOk (failFetch s e) := by
  unfold failFetch
  grind [dropParks_hbm, memoryOk_mixFrame, memoryOk_logEngine, memoryOk_claimSlots, setResid_hbm]

@[simp] theorem loadCatalogue_hbm (s : State) : (loadCatalogue s).hbm = s.hbm := by
  unfold loadCatalogue
  grind [setResid_hbm, foldl_hbm]

end Sys2Proof.Proofs
end

section
/-!
PROOFS. Memory keeps its form (O60): requests, the six emits, placement, teams, and permutations.
-/
namespace Sys2Proof.Proofs

open Sys2Proof.Machine Sys2Proof.Laws

/-! ### Requests -/

@[simp] theorem submitReq_hbm (s : State) (k q : ℕ) (r : Req) : (submitReq s k q r).hbm = s.hbm := rfl

@[simp] theorem enterScore_hbm (s : State) (r : Req) (d : ℕ) : (enterScore s r d).hbm = s.hbm := rfl

theorem memoryOk_refusePin {s : State} (h : MemoryOk s) (r : Req) : MemoryOk (refusePin s r) := by
  unfold refusePin
  grind [draw_hbm, freeAddr_hbm, setReq_hbm, memoryOk_logErr]

@[simp] theorem enterCreate_hbm (s : State) (tag : ℕ) : (enterCreate s tag).hbm = s.hbm := by
  unfold enterCreate
  split <;> rfl

theorem memoryOk_refuseCreate {s : State} (h : MemoryOk s) (tag : ℕ) : MemoryOk (refuseCreate s tag) := by
  unfold refuseCreate
  grind [memoryOk_refusePin, updReq_hbm]

theorem memoryOk_submitPin {s : State} (h : MemoryOk s) (k q : ℕ) (r : Req) : MemoryOk (submitPin s k q r) := by
  unfold submitPin
  grind [enterCreate_hbm, submitReq_hbm, memoryOk_refuseCreate, memoryOk_refusePin]

@[simp] theorem forgetReq_hbm (s : State) (r : Req) : (forgetReq s r).hbm = s.hbm := rfl

theorem memoryOk_writeRecord {s : State} (h : MemoryOk s) (r : Req) : MemoryOk (writeRecord s r) := by
  unfold writeRecord
  grind [forgetReq_hbm, memoryOk_whoWrite, memoryOk_queueErr, memoryOk_logErr, clearParts_hbm]

/-! ### Emit -/

theorem rdOk_feRead {s : State} (h : MemoryOk s) (k q a n : ℕ) : RdOk (feRead s k q a n) := by
  unfold feRead
  grind [memoryOk_whoRead, memoryOk_queueEcc, RdOk]

theorem rdOk_feWrite {s : State} (h : MemoryOk s) (k q a n v : ℕ) : RdOk (feWrite s k q a n v) := by
  unfold feWrite
  grind [memoryOk_whoWrite, RdOk]

@[simp] theorem keepWrite_hbm (s : State) (k a n v : ℕ) : (keepWrite s k a n v).hbm = s.hbm := rfl

theorem imgResOk_readFormats {s : State} (h : MemoryOk s) (k q base h' : ℕ) (i : Img) :
    ImgResOk (readFormats s k q base h' i) := by
  unfold readFormats
  grind [rdOk_feRead, RdOk, ImgResOk]

theorem imgResOk_readImage {s : State} (h : MemoryOk s) (k q base : ℕ) : ImgResOk (readImage s k q base) := by
  unfold readImage
  grind [rdOk_feRead, imgResOk_readFormats, RdOk, ImgResOk]

/-- What an answer of `readStreams` keeps. -/
def StreamsOk : Except ERes (State × List InStream) → Prop
  | .ok (u, _) => MemoryOk u
  | .error e => EResOk e

theorem streamsOk_readStreams {s : State} (h : MemoryOk s) (k q : ℕ) (x : Interp) (i : Img) (pin : Option (ℕ × ℕ)) :
    StreamsOk (readStreams s k q x i pin) := by
  unfold readStreams
  grind [rdOk_feRead, RdOk, EResOk, StreamsOk]

theorem eresOk_checkLaunch {s : State} (h : MemoryOk s) (k q : ℕ) (x : Interp) : EResOk (checkLaunch s k q x) := by
  unfold checkLaunch
  grind [descriptor_hbm, imgResOk_readImage, freeAddr_hbm, streamsOk_readStreams, ImgResOk, EResOk, StreamsOk]

@[simp] theorem submitLaunch_hbm (s : State) (k q : ℕ) (r : Req) : (submitLaunch s k q r).hbm = s.hbm := by
  unfold submitLaunch
  split <;> rfl

theorem eresOk_checkTransfer {s : State} (h : MemoryOk s) (_k q : ℕ) (x : Interp) : EResOk (checkTransfer s _k q x) := by
  unfold checkTransfer
  grind [EResOk]

theorem eresOk_checkPin {s : State} (h : MemoryOk s) (k q : ℕ) (x : Interp) : EResOk (checkPin s k q x) := by
  unfold checkPin
  dsimp only
  split <;> exact h

theorem eresOk_checkResync {s : State} (h : MemoryOk s) (k q : ℕ) (x : Interp) : EResOk (checkResync s k q x) := by
  unfold checkResync
  grind [rdOk_feWrite, keepWrite_hbm, memoryOk_queueErr, memoryOk_logErr, EResOk, RdOk]

@[simp] theorem report_hbm (s : State) (nonce : ℕ) : (report s nonce).1.hbm = s.hbm := by
  unfold report
  split <;> rfl

theorem eresOk_checkAttest {s : State} (h : MemoryOk s) (k q : ℕ) (x : Interp) : EResOk (checkAttest s k q x) := by
  unfold checkAttest
  grind [rdOk_feRead, rdOk_feWrite, report_hbm, keepWrite_hbm, EResOk, RdOk]

theorem eresOk_checkCommit {s : State} (h : MemoryOk s) (_k q : ℕ) (x : Interp) : EResOk (checkCommit s _k q x) := by
  unfold checkCommit
  grind [EResOk]

theorem memoryOk_runEmit {s : State} (h : MemoryOk s) {check : State → ℕ → ℕ → Interp → ERes} {submit : State → ℕ → ℕ → Req →
    State}
    (hc : ∀ u k q x, MemoryOk u → EResOk (check u k q x)) (hs : ∀ u k q r, MemoryOk u → MemoryOk (submit u k q r)) :
    MemoryOk (runEmit s check submit) := by
  unfold runEmit
  grind [memoryOk_logErr, memoryOk_rejectPacket, setInterp_hbm, clearParts_hbm, EResOk]

theorem memoryOk_feEmitLaunch {s : State} (h : MemoryOk s) : MemoryOk (feEmitLaunch s) :=
  memoryOk_runEmit h (fun _ k q x hu => eresOk_checkLaunch hu k q x)
    fun u k q r hu => memoryOk_of_eq hu (submitLaunch_hbm u k q r)

theorem memoryOk_feEmitTransfer {s : State} (h : MemoryOk s) : MemoryOk (feEmitTransfer s) :=
  memoryOk_runEmit h (fun _ k q x hu => eresOk_checkTransfer hu k q x) fun u k q r hu => memoryOk_of_eq hu (submitReq_hbm u k q r)

theorem memoryOk_feEmitPin {s : State} (h : MemoryOk s) : MemoryOk (feEmitPin s) :=
  memoryOk_runEmit h (fun _ k q x hu => eresOk_checkPin hu k q x) fun _ k q r hu => memoryOk_submitPin hu k q r

theorem memoryOk_feEmitResync {s : State} (h : MemoryOk s) : MemoryOk (feEmitResync s) :=
  memoryOk_runEmit h (fun _ k q x hu => eresOk_checkResync hu k q x) fun u k q r hu => memoryOk_of_eq hu (submitReq_hbm u k q r)

theorem memoryOk_feEmitAttest {s : State} (h : MemoryOk s) : MemoryOk (feEmitAttest s) :=
  memoryOk_runEmit h (fun _ k q x hu => eresOk_checkAttest hu k q x) fun u k q r hu => memoryOk_of_eq hu (submitReq_hbm u k q r)

theorem memoryOk_feEmitCommit {s : State} (h : MemoryOk s) : MemoryOk (feEmitCommit s) :=
  memoryOk_runEmit h (fun _ k q x hu => eresOk_checkCommit hu k q x) fun u k q r hu => memoryOk_of_eq hu (submitReq_hbm u k q r)

theorem memoryOk_feEmit {s : State} (h : MemoryOk s) (c : ℕ) : MemoryOk (feEmit c s) := by
  unfold feEmit
  split
  · exact memoryOk_feEmitLaunch h
  · exact memoryOk_feEmitTransfer h
  · exact memoryOk_feEmitPin h
  · exact memoryOk_feEmitResync h
  · exact memoryOk_feEmitAttest h
  · exact memoryOk_feEmitCommit h

theorem memoryOk_nativeStep {s : State} (h : MemoryOk s) : MemoryOk (nativeStep s) := by
  unfold nativeStep
  dsimp only
  split
  · exact h
  · split
    · exact memoryOk_of_eq h (endPacket_hbm ..)
    · split
      · exact memoryOk_rejectPacket h _ _ _ _
      · split
        · exact memoryOk_rejectPacket h _ _ _ _
        · exact memoryOk_feEmit (memoryOk_of_eq h (setInterp_hbm ..)) _

theorem memoryOk_lerantStep {s : State} (h : MemoryOk s) (i : Instr) : MemoryOk (lerantStep i s) := by
  cases i with
  | lerantHalt => exact memoryOk_of_eq h (feHalt_hbm s)
  | ldsc a k => exact memoryOk_of_eq h (feLdsc_hbm s a k)
  | stsc a k => exact memoryOk_of_eq h (feStsc_hbm s a k)
  | ldpa a k => exact memoryOk_feLdpa h a k
  | emitLaunch => exact memoryOk_feEmitLaunch h
  | emitTransfer => exact memoryOk_feEmitTransfer h
  | emitPinControl => exact memoryOk_feEmitPin h
  | emitResynchronise => exact memoryOk_feEmitResync h
  | emitAttest => exact memoryOk_feEmitAttest h
  | emitCommitMinVersion => exact memoryOk_feEmitCommit h
  | lerantRej v => exact memoryOk_feRej h v
  | lerantStop v => exact memoryOk_feStop h v
  | _ => exact h

theorem memoryOk_packetStep {s : State} (h : MemoryOk s) (k : ℕ) {u : State} (hu : packetStep s k = some u) : MemoryOk u := by
  unfold packetStep at hu
  split at hu
  · exact Option.some.inj hu ▸ memoryOk_nativeStep h
  · obtain ⟨i, -, hi⟩ := Option.map_eq_some_iff.mp hu
    exact hi ▸ memoryOk_lerantStep h i

theorem memoryOk_runSteps {s : State} (h : MemoryOk s) (k n f : ℕ) : MemoryOk (runSteps s k n f) := by
  induction f generalizing s with
  | zero => exact h
  | succ f ih => unfold runSteps; grind [memoryOk_packetStep]

theorem memoryOk_startPacket {s : State} (h : MemoryOk s) (k q : ℕ) : MemoryOk (startPacket s k q) := by
  unfold startPacket
  dsimp only
  split
  · exact memoryOk_of_eq h (releaseInterp_hbm ..)
  split
  · exact memoryOk_of_eq (memoryOk_queueOverflow h q) (releaseInterp_hbm ..)
  split
  · exact memoryOk_of_eq h (releaseInterp_hbm ..)
  have hr := rdOk_feRead h k q ((s.queue q).ring + 1024 * ((s.queue q).ridx % 2 ^ (s.queue q).lsize)) 1024
  split
  · rename_i e; exact (e ▸ hr :)
  · rename_i e; exact memoryOk_of_eq (memoryOk_queueFault (e ▸ hr :) ..) (releaseInterp_hbm ..)
  · rename_i e; exact memoryOk_of_eq (e ▸ hr :) (setInterp_hbm ..)

theorem memoryOk_packetRun {s : State} (h : MemoryOk s) (k : ℕ) : MemoryOk (packetRun s k) := by
  unfold packetRun
  grind [memoryOk_startPacket, memoryOk_runSteps]

/-! ### Place -/

@[simp] theorem claimNext_hbm (s : State) (tag : ℕ) : (claimNext s tag).1.hbm = s.hbm := by
  unfold claimNext
  simp

@[simp] theorem claimTeam_hbm (s : State) (c : Cand) (d : ℕ) : (claimTeam s c d).1.hbm = s.hbm := by
  unfold claimTeam
  split <;> simp

@[simp] theorem takePin_hbm (s : State) (h' t : ℕ) : (takePin s h' t).hbm = s.hbm := by
  unfold takePin
  split <;> rfl

@[simp] theorem tookTurn_hbm (s : State) (d : ℕ) (r : Req) : (tookTurn s d r).hbm = s.hbm := by
  unfold tookTurn
  split <;> rfl

@[simp] theorem launchPlaced_hbm (s : State) (tag d : ℕ) (gang : Bool) : (launchPlaced s tag d gang).hbm = s.hbm := by
  unfold launchPlaced
  grind [tookTurn_hbm, updReq_hbm]

@[simp] theorem freeRecord_hbm (s : State) (tm : Team) : (freeRecord s tm).hbm = s.hbm := by
  unfold freeRecord
  split <;> rfl

@[simp] theorem dropResv_hbm (s : State) (c : Cand) : (dropResv s c).hbm = s.hbm := by
  unfold dropResv
  grind [foldl_hbm, setDie_hbm]

@[simp] theorem dispPlaced_hbm (s : State) (c : Cand) (cl : ℕ) : (dispPlaced s c cl).hbm = s.hbm := by
  unfold dispPlaced
  simp

@[simp] theorem placeTeam_hbm (s : State) (c : Cand) (cl : ℕ) : (placeTeam s c cl).hbm = s.hbm := by
  unfold placeTeam
  grind [claimTeam_hbm, freeRecord_hbm, setTeam_hbm, occupy_hbm, dispPlaced_hbm, launchPlaced_hbm, takePin_hbm]

@[simp] theorem reserveFor_hbm (s : State) (c : Cand) : (reserveFor s c).hbm = s.hbm := by
  unfold reserveFor
  grind [setDie_hbm]

@[simp] theorem moveReservation_hbm (s : State) (d : ℕ) (top : Cand) : (moveReservation s d top).hbm = s.hbm := by
  unfold moveReservation
  grind [setDie_hbm]

@[simp] theorem reserveTeams_hbm (s : State) (r : Req) (es : List (ℕ × Team)) : (reserveTeams s r es).hbm = s.hbm := by
  induction es generalizing s with
  | nil => rfl
  | cons e es ih => unfold reserveTeams; grind

@[simp] theorem claimRest_hbm (s : State) (tag n : ℕ) : (claimRest s tag n).hbm = s.hbm := by
  induction n generalizing s with
  | zero => rfl
  | succ n ih => unfold claimRest; grind [claimNext_hbm]

@[simp] theorem reserveGang_hbm (s : State) (r : Req) : (reserveGang s r).hbm = s.hbm := by
  unfold reserveGang
  simp

@[simp] theorem preemptSome_hbm (s : State) (need : ℕ) (ts : List ℕ) : (preemptSome s need ts).hbm = s.hbm := by
  induction ts generalizing s need with
  | nil => rfl
  | cons t ts ih => unfold preemptSome; grind [preempt_hbm]

@[simp] theorem preemptFor_hbm (s : State) (c : Cand) : (preemptFor s c).hbm = s.hbm := by
  unfold preemptFor
  grind [preemptSome_hbm]

@[simp] theorem waitHome_hbm (s : State) (c : Cand) : (waitHome s c).hbm = s.hbm := by
  unfold waitHome
  split <;> rfl

@[simp] theorem gangCare_hbm (s : State) (r : Req) : (gangCare s r).hbm = s.hbm := by
  unfold gangCare
  grind [reserveGang_hbm, preemptFor_hbm, waitHome_hbm]

@[simp] theorem topCare_hbm (s : State) (d : ℕ) : (topCare s d).hbm = s.hbm := by
  unfold topCare
  grind [moveReservation_hbm, gangCare_hbm, preemptFor_hbm, reserveFor_hbm, waitHome_hbm]

@[simp] theorem startMove_hbm (s : State) (c : Cand) (cl : ℕ) : (startMove s c cl).hbm = s.hbm := rfl

@[simp] theorem placeNext_hbm (s : State) (d : ℕ) : (placeNext s d).hbm = s.hbm := by
  unfold placeNext
  grind [placeTeam_hbm]

/-! ### Teams -/

theorem memoryOk_fillEcc {s : State} (h : MemoryOk s) (ctx c : ℕ) (es : List ℕ) : MemoryOk (fillEcc s ctx c es) := by
  unfold fillEcc
  grind [memoryOk_logBads]

theorem memoryOk_fillKill {s : State} (h : MemoryOk s) (t code a c : ℕ) : MemoryOk (fillKill s t code a c) := by
  unfold fillKill
  grind [memoryOk_killTeam, clearParts_hbm]

theorem memoryOk_fillPlace {s : State} (h : MemoryOk s) (t ctx : ℕ) (u : FillUnit) (v : ℕ) (ecc : List ℕ) :
    MemoryOk (fillPlace s t ctx u v ecc) := by
  unfold fillPlace
  grind [updTeam_hbm, memoryOk_spStore, memoryOk_fillEcc, clearParts_hbm]

theorem memoryOk_fillPiece {s : State} (h : MemoryOk s) (t ctx : ℕ) (u : FillUnit) : MemoryOk (fillPiece s t ctx u).1 := by
  unfold fillPiece
  grind [memoryOk_fillKill, memoryOk_whoRead, memoryOk_fillPlace, windowFor_hbm, sendFuller_hbm, updTeam_hbm]

theorem memoryOk_fillList {s : State} (h : MemoryOk s) (t ctx : ℕ) (us : List FillUnit) : MemoryOk (fillList s t ctx us) := by
  induction us generalizing s with
  | nil => exact h
  | cons v us ih => unfold fillList; grind [memoryOk_fillPiece]

theorem memoryOk_fillStep {s : State} (h : MemoryOk s) (t : ℕ) : MemoryOk (fillStep s t) := by
  unfold fillStep
  grind [memoryOk_fillList]

theorem memoryOk_fillArrive {s : State} (h : MemoryOk s) (t c off n : ℕ) (p : Packet) : MemoryOk (fillArrive s t c off n p) := by
  unfold fillArrive
  grind [memoryOk_fillPlace, memoryOk_fillStep]

theorem memoryOk_fillLost {s : State} (h : MemoryOk s) (t c off code : ℕ) : MemoryOk (fillLost s t c off code) := by
  unfold fillLost
  grind [memoryOk_fillKill]

theorem memoryOk_copyFails {s : State} (h : MemoryOk s) (c h' ctx code a : ℕ) : MemoryOk (copyFails s c h' ctx code a) := by
  unfold copyFails
  grind [onCore_hbm, memoryOk_logErr, clearParts_hbm]

theorem memoryOk_copySegment {s : State} (h : MemoryOk s) (c h' k : ℕ) : MemoryOk (copySegment s c h' k) := by
  unfold copySegment
  grind [memoryOk_whoRead, memoryOk_copyFails, memoryOk_logBads, onCore_hbm, clearParts_hbm]

theorem memoryOk_copyStep {s : State} (h : MemoryOk s) (c h' : ℕ) : MemoryOk (copyStep s c h') := by
  unfold copyStep
  grind [memoryOk_copySegment]

theorem memoryOk_switchOut {s : State} (h : MemoryOk s) (t : ℕ) : MemoryOk (switchOut s t) := by
  unfold switchOut
  grind [setTeam_hbm, dropRefusals_hbm, memoryOk_forceStrand, cancelLoads_hbm, memoryOk_foldl]

@[simp] theorem makeReady_hbm (s : State) (t : ℕ) : (makeReady s t).hbm = s.hbm := by
  unfold makeReady
  simp

theorem memoryOk_stayHome {s : State} (h : MemoryOk s) (t : ℕ) : MemoryOk (stayHome s t) := by
  unfold stayHome
  grind [memoryOk_writeReason, setPin_hbm, updTeam_hbm]

/-! ### Xperm -/

@[simp] theorem setXperm_hbm (s : State) (k : ℕ) (x : Xperm) : (State.setXperm s k x).hbm = s.hbm := rfl

theorem memoryOk_readTab {s : State} (h : MemoryOk s) (k ctx a n : ℕ) : MemoryOk (readTab s k ctx a n).1 := by
  unfold readTab
  grind [memoryOk_whoRead]

theorem memoryOk_xpermEnd {s : State} (h : MemoryOk s) (k : ℕ) : MemoryOk (xpermEnd s k) := by
  unfold xpermEnd
  grind [memoryOk_whoWrite, setXperm_hbm, clearParts_hbm, memoryOk_logFabric, onCore_hbm]

theorem memoryOk_xpermFail {s : State} (h : MemoryOk s) (k code : ℕ) : MemoryOk (xpermFail s k code) := by
  unfold xpermFail
  grind [memoryOk_xpermEnd, setXperm_hbm, dropParks_hbm]

theorem memoryOk_xpermLost {s : State} (h : MemoryOk s) (k code a : ℕ) : MemoryOk (xpermLost s k code a) := by
  unfold xpermLost
  grind [memoryOk_logAccQ, memoryOk_logErr, memoryOk_xpermFail]

@[simp] theorem sendPiece_hbm (s : State) (k : ℕ) (x : Xperm) (v q : ℕ) : (sendPiece s k x v q).1.hbm = s.hbm := by
  unfold sendPiece
  grind [windowFor_hbm, sendFuller_hbm, foldl_hbm]

@[simp] theorem sendPieces_hbm (s : State) (k : ℕ) (x : Xperm) (v : ℕ) (qs : List ℕ) : (sendPieces s k x v qs).1.hbm = s.hbm := by
  induction qs generalizing s with
  | nil => rfl
  | cons q qs ih => unfold sendPieces; grind [sendPiece_hbm]

theorem memoryOk_xpermEcc {s : State} (h : MemoryOk s) (x : Xperm) (es : List ℕ) : MemoryOk (xpermEcc s x es) := by
  unfold xpermEcc
  grind [memoryOk_logFabric, memoryOk_foldl]

theorem memoryOk_xpermSend {s : State} (h : MemoryOk s) (k : ℕ) : MemoryOk (xpermSend s k) := by
  unfold xpermSend
  grind [memoryOk_whoRead, memoryOk_xpermLost, memoryOk_xpermEcc, clearParts_hbm, sendPieces_hbm, setXperm_hbm]

theorem memoryOk_xpermCheck {s : State} (h : MemoryOk s) (k : ℕ) : MemoryOk (xpermCheck s k) := by
  unfold xpermCheck
  grind [memoryOk_xpermFail, memoryOk_readTab, memoryOk_xpermSend, setXperm_hbm, clearParts_hbm]

theorem memoryOk_xpermCopy {s : State} (h : MemoryOk s) (k : ℕ) : MemoryOk (xpermCopy s k) := by
  unfold xpermCopy
  grind [setXperm_hbm, memoryOk_whoRead, memoryOk_xpermLost, memoryOk_xpermEcc, memoryOk_whoWrite, memoryOk_xpermEnd,
    clearParts_hbm]

theorem memoryOk_xpermStep {s : State} (h : MemoryOk s) (k : ℕ) : MemoryOk (xpermStep s k) := by
  unfold xpermStep
  grind [memoryOk_xpermCheck, memoryOk_xpermSend, memoryOk_xpermCopy, memoryOk_xpermEnd]

theorem memoryOk_xpermStart {s : State} (h : MemoryOk s) (c : ℕ) (a : Machine.Acc) (body : Col) :
    MemoryOk (xpermStart s c a body) := by
  unfold xpermStart
  grind [onCore_hbm, memoryOk_xpermStep, setXperm_hbm]

@[simp] theorem xpermAck_hbm (s : State) (k q : ℕ) : (xpermAck s k q).hbm = s.hbm := by
  unfold xpermAck
  split <;> rfl

theorem memoryOk_xpermSendFails {s : State} (h : MemoryOk s) (k q code : ℕ) : MemoryOk (xpermSendFails s k q code) := by
  unfold xpermSendFails
  grind [memoryOk_xpermLost]

/-! ### Answers -/

theorem memoryOk_fullerFail {s : State} (h : MemoryOk s) (f : Flight) (code : ℕ) : MemoryOk (fullerFail s f code) := by
  unfold fullerFail
  grind [memoryOk_xferLost, memoryOk_fillLost, memoryOk_xpermSendFails, memoryOk_logFabric]

theorem memoryOk_fullerDone {s : State} (h : MemoryOk s) (f : Flight) (p : Packet) : MemoryOk (fullerDone s f p) := by
  unfold fullerDone
  grind [memoryOk_xferReply, xferAck_hbm, memoryOk_fillArrive, xpermAck_hbm]

theorem memoryOk_fullerAnswer {s : State} (h : MemoryOk s) (p : Packet) (fail : Option ℕ) : MemoryOk (fullerAnswer s p fail) := by
  unfold fullerAnswer
  grind [dropPacket_hbm, memoryOk_fullerFail, dropFlight_hbm, memoryOk_fullerDone]

theorem memoryOk_expireFlights {s : State} (h : MemoryOk s) : MemoryOk (expireFlights s) := by
  unfold expireFlights
  grind [memoryOk_fullerFail, dropFlight_hbm, memoryOk_foldl]

theorem memoryOk_noRoute {s : State} (h : MemoryOk s) (p : Packet) : MemoryOk (noRoute s p) := by
  unfold noRoute
  grind [dropPacket_hbm, memoryOk_logFabric, closeGap_hbm, memoryOk_fullerFail, dropFlight_hbm, memoryOk_failRemote,
    memoryOk_foldl]

theorem memoryOk_forward {s : State} (h : MemoryOk s) (k : ℕ) : MemoryOk (forward s k) := by
  unfold forward
  grind [sendPort_hbm, memoryOk_noRoute]

theorem memoryOk_loadAnswer {s : State} (h : MemoryOk s) (p : Packet) (a : Machine.Acc) : MemoryOk (loadAnswer s p a) := by
  unfold loadAnswer
  grind [memoryOk_sinFail, memoryOk_sinArrive, deliver_hbm]

@[simp] theorem ackContrib_hbm (s : State) (p : Packet) (a : Machine.Acc) : (ackContrib s p a).hbm = s.hbm := rfl

theorem memoryOk_connectFail {s : State} (h : MemoryOk s) (h' code : ℕ) (p : Packet) : MemoryOk (connectFail s h' code p) := by
  unfold connectFail
  grind [memoryOk_queueErr, memoryOk_logErr, memoryOk_editFrame, editSent_hbm]

end Sys2Proof.Proofs
end

section
/-!
PROOFS. Memory keeps its form (O60): beats and streams, checkpoints, and the checker of programs.
-/
namespace Sys2Proof.Proofs

open Sys2Proof.Machine Sys2Proof.Laws

/-! ### LoadStore -/

@[simp] theorem planNear_hbm (s : State) (t : Trig) (fx : Fx) : (planNear t s fx).hbm = s.hbm := rfl

/-! ### Matrix -/

theorem takeOk_beatSource {s : State} (h : MemoryOk s) (c opnd len item : ℕ) : TakeOk (beatSource s c opnd len item) := by
  unfold beatSource
  grind [memoryOk_sTake, setCore_hbm, ResOk, TakeOk]

theorem memoryOk_takeItems {s : State} (h : MemoryOk s) (c k n : ℕ) : MemoryOk (takeItems s c k n).1 := by
  induction n generalizing s with
  | zero => exact h
  | succ n ih => unfold takeItems; grind [memoryOk_sTake]

theorem takeOk_beatScale {s : State} (h : MemoryOk s) (c opnd : ℕ) (e : BitVec 32) (nb : ℕ) :
    TakeOk (beatScale s c opnd e nb) := by
  unfold beatScale
  grind [memoryOk_takeItems, ResOk, TakeOk]

theorem takeOk_beatDest {s : State} (h : MemoryOk s) (c opnd len : ℕ) : TakeOk (beatDest s c opnd len) := by
  unfold beatDest
  grind [setCore_hbm, reserveOut_hbm, ResOk, TakeOk]

@[simp] theorem startImage_hbm (s : State) (c p done : ℕ) : (startImage s c p done).hbm = s.hbm := rfl

/-! ### Stream -/

theorem memoryOk_readUnit {s : State} (h : MemoryOk s) (c k i : ℕ) (it : Item) (got : Tab (Option ℕ)) (parked : List ℕ) (p : ℕ)
    (due : Bool) :
    MemoryOk (readUnit s c k i it got parked p due) := by
  unfold readUnit
  grind [memoryOk_translate, memoryOk_settle, memoryOk_faultAt, dropRead_hbm, takeRefusal_hbm, addPark_hbm, onCore_hbm]

theorem memoryOk_readItem {s : State} (h : MemoryOk s) (c k i : ℕ) (v : Vec) (a : ℕ) (due : Bool) :
    MemoryOk (readItem s c k i v a due) := by
  unfold readItem
  grind [onCore_hbm, windowFor_hbm, memoryOk_faultAt, dropRead_hbm, pushAcc_hbm, memoryOk_chanEccWords]

theorem memoryOk_readOffset {s : State} (h : MemoryOk s) (c k i : ℕ) (v : Vec) (g : ℕ) (due : Bool) :
    MemoryOk (readOffset s c k i v g due) := by
  unfold readOffset
  grind [memoryOk_faultAt, onCore_hbm, memoryOk_translate, memoryOk_settle, dropRead_hbm, takeRefusal_hbm, addPark_getD_hbm,
    memoryOk_chanEcc]

theorem memoryOk_beginItem {s : State} (h : MemoryOk s) (c k i : ℕ) (v : Vec) (due : Bool) :
    MemoryOk (beginItem s c k i v due) := by
  unfold beginItem
  grind [onCore_hbm, memoryOk_readOffset, memoryOk_faultAt, memoryOk_readItem]

theorem memoryOk_streamRead {s : State} (h : MemoryOk s) (c k : ℕ) : MemoryOk (streamRead s c k) := by
  unfold streamRead
  grind [choose_hbm, memoryOk_beginItem, memoryOk_readUnit]

theorem memoryOk_resumeRead {s : State} (h : MemoryOk s) (c k : ℕ) (v : Vec) (p : ℕ) (refused : Bool) :
    MemoryOk (resumeRead s c k v p refused) := by
  unfold resumeRead
  grind [memoryOk_faultAt, memoryOk_readUnit, onCore_hbm]

theorem memoryOk_resumeOffset {s : State} (h : MemoryOk s) (c k g : ℕ) (refused : Bool) :
    MemoryOk (resumeOffset s c k g refused) := by
  unfold resumeOffset
  grind [onCore_hbm, memoryOk_faultAt, memoryOk_readOffset]

theorem memoryOk_itemArrive {s : State} (h : MemoryOk s) (c k i : ℕ) : MemoryOk (itemArrive s c k i) := by
  unfold itemArrive
  grind [memoryOk_chanEcc, onCore_hbm]

theorem memoryOk_outUnit {s : State} (h : MemoryOk s) (c : ℕ) (a : Machine.Acc) (body : Col) (k : ℕ) (vec : Vec) (i : ℕ) :
    MemoryOk (outUnit s c a body k vec i) := by
  unfold outUnit
  grind [onCore_hbm, memoryOk_translate, memoryOk_outFail, addPark_hbm, wf_storePart, memoryOk_outEcc]

theorem memoryOk_performOut {s : State} (h : MemoryOk s) (c : ℕ) (a : Machine.Acc) (body : Col) (k : ℕ) (vec : Vec) :
    MemoryOk (performOut s c a body k vec) := by
  unfold performOut
  grind [memoryOk_sendRemote, memoryOk_settle, memoryOk_outFail, memoryOk_performPeerSt, choose_hbm, memoryOk_outUnit]

theorem memoryOk_streamWrite {s : State} (h : MemoryOk s) (c k : ℕ) : MemoryOk (streamWrite s c k) := by
  unfold streamWrite
  grind [memoryOk_performOut]

/-! ### Resume -/

theorem memoryOk_performOvl {s : State} (h : MemoryOk s) (c : ℕ) (a : Machine.Acc) : MemoryOk (performOvl s c a) := by
  unfold performOvl
  grind [onCore_hbm, memoryOk_translate, memoryOk_logAcc, takeRefusal_hbm, addPark_hbm]

theorem memoryOk_writeFault {s : State} (h : MemoryOk s) (m : ℕ) : MemoryOk (writeFault s m) := by
  unfold writeFault
  grind [wf_storePart, setMtu_hbm]

theorem memoryOk_retryAcc {s : State} (h : MemoryOk s) (c id k : ℕ) : MemoryOk (retryAcc s c id k) := by
  unfold retryAcc
  grind [onCore_hbm, memoryOk_performLd, memoryOk_performOvl, memoryOk_performAtomic, memoryOk_performSend, memoryOk_outUnit]

theorem memoryOk_refuseAcc {s : State} (h : MemoryOk s) (c id k addr : ℕ) : MemoryOk (refuseAcc s c id k addr) := by
  unfold refuseAcc
  grind [partDone_hbm, memoryOk_logAcc, onCore_hbm, deliver_hbm, memoryOk_logAccQ, memoryOk_outFail]

theorem memoryOk_retryJob {s : State} (h : MemoryOk s) (id : ℕ) : MemoryOk (retryJob s id) := by
  unfold retryJob
  grind [memoryOk_kickDie, memoryOk_tryJob]

@[simp] theorem noteRefusal_hbm (s : State) (t : ℕ) (p : Park) : (noteRefusal s t p).hbm = s.hbm := by
  unfold noteRefusal
  split <;> rfl

theorem memoryOk_walkAgain {s : State} (h : MemoryOk s) (p : Park) : MemoryOk (walkAgain s p) := by
  unfold walkAgain
  grind [memoryOk_translate, addPark_getD_hbm]

theorem memoryOk_retryPark {s : State} (h : MemoryOk s) (p : Park) : MemoryOk (retryPark s p) := by
  unfold retryPark
  grind [memoryOk_retryAcc, memoryOk_resumeRead, memoryOk_resumeOffset, memoryOk_remoteResume, memoryOk_retryJob,
    memoryOk_fillStep, memoryOk_copyStep, memoryOk_xferStep, memoryOk_fetchStep, memoryOk_resumeGroup, memoryOk_xpermStep,
    memoryOk_packetRun, memoryOk_writeLog, memoryOk_writeErrs, memoryOk_walkAgain]

theorem memoryOk_refusePark {s : State} (h : MemoryOk s) (p : Park) : MemoryOk (refusePark s p) := by
  unfold refusePark
  grind [memoryOk_refuseAcc, memoryOk_resumeRead, memoryOk_resumeOffset, memoryOk_remoteResume, noteRefusal_hbm,
    memoryOk_failFetch, memoryOk_retryPark, refusePart_hbm]

theorem memoryOk_resolveRecord {s : State} (h : MemoryOk s) (m k : ℕ) (retry : Bool) : MemoryOk (resolveRecord s m k retry) := by
  unfold resolveRecord
  grind [setMtu_hbm, memoryOk_retryPark, memoryOk_refusePark, memoryOk_foldl]

/-! ### Check -/

@[simp] theorem startCheck_hbm (s : State) (h' len : ℕ) : (startCheck s h' len).hbm = s.hbm := rfl

@[simp] theorem releaseHandle_hbm (s : State) (h' len : ℕ) : (releaseHandle s h' len).hbm = s.hbm := rfl

@[simp] theorem endCheck_hbm (s : State) : (endCheck s).hbm = s.hbm := by
  unfold endCheck
  split <;> rfl

end Sys2Proof.Proofs
end

section
/-!
PROOFS. Memory keeps its form (O60): device registers, replies, and the package.
-/
namespace Sys2Proof.Proofs

open Sys2Proof.Machine Sys2Proof.Laws

/-! ### DevRegs -/

theorem wresOk_needs {r : Bool} {w : WRes} (h : WResOk w) : WResOk (needs r w) := by
  unfold needs
  split
  · exact h
  · trivial

theorem wresOk_legal {r : Bool} {w : WRes} (h : WResOk w) : WResOk (legal r w) := by
  unfold legal
  split
  · exact h
  · trivial

@[simp] theorem ctxValid_hbm (s : State) (c : ℕ) : (ctxValid s c).1.hbm = s.hbm := by
  unfold ctxValid
  simp

@[simp] theorem leaveNow_hbm (s : State) (q : ℕ) (x : Queue) (st : ℕ) : (leaveNow s q x st).hbm = s.hbm := rfl

@[simp] theorem askState_hbm (s : State) (q : ℕ) (x : Queue) (st : ℕ) : (askState s q x st).hbm = s.hbm := by
  unfold askState
  grind [leaveNow_hbm, setQueue_hbm, releaseInterp_hbm]

@[simp] theorem runQueue_hbm (s : State) (q : ℕ) (x : Queue) : (runQueue s q x).hbm = s.hbm := rfl

theorem wresOk_writeQd0 {s : State} (h : MemoryOk s) (q : ℕ) (v : Word) : WResOk (writeQd0 s q v) := by
  unfold writeQd0
  grind [wresOk_legal, askState_hbm, ctxValid_hbm, runQueue_hbm, WResOk]

theorem wresOk_writeQd1 {s : State} (h : MemoryOk s) (ag : Agent) (q : ℕ) (v : Word) : WResOk (writeQd1 s ag q v) := by
  unfold writeQd1
  grind [wresOk_needs, wresOk_legal, setQueue_hbm, WResOk]

theorem wresOk_writeQd3 {s : State} (h : MemoryOk s) (q : ℕ) (v : Word) : WResOk (writeQd3 s q v) := by
  unfold writeQd3
  grind [wresOk_legal, setQueue_hbm, WResOk]

theorem wresOk_writeQd {s : State} (h : MemoryOk s) (ag : Agent) (q k : ℕ) (v : Word) : WResOk (writeQd s ag q k v) := by
  unfold writeQd
  grind [wresOk_writeQd0, wresOk_writeQd1, wresOk_legal, setQueue_hbm, wresOk_writeQd3, WResOk]

theorem wresOk_writePctl {s : State} (h : MemoryOk s) (v : Word) : WResOk (writePctl s v) := by
  unfold writePctl
  grind [wresOk_legal, startCheck_hbm, releaseHandle_hbm, WResOk]

theorem wresOk_writeFe {s : State} (h : MemoryOk s) (ag : Agent) (k : ℕ) (v : Word) : WResOk (writeFe s ag k v) := by
  unfold writeFe
  grind [wresOk_needs, wresOk_legal, wresOk_writePctl, WResOk]

theorem wresOk_writeStore {s : State} (h : MemoryOk s) (h' j : ℕ) (v : Word) : WResOk (writeStore s h' j v) := by
  unfold writeStore
  grind [wresOk_needs, WResOk]

theorem wresOk_writeDsp {s : State} (h : MemoryOk s) (ag : Agent) (d k : ℕ) (v : Word) : WResOk (writeDsp s ag d k v) := by
  unfold writeDsp
  grind [wresOk_needs, setDie_hbm, WResOk]

theorem wresOk_writeResolve {s : State} (h : MemoryOk s) (m : ℕ) (v : Word) : WResOk (writeResolve s m v) := by
  unfold writeResolve
  grind [wresOk_legal, memoryOk_resolveRecord, WResOk]

theorem wresOk_writeMtu {s : State} (h : MemoryOk s) (ag : Agent) (m k : ℕ) (v : Word) : WResOk (writeMtu s ag m k v) := by
  unfold writeMtu
  grind [wresOk_needs, wresOk_legal, setMtu_hbm, wresOk_writeResolve, WResOk]

theorem wresOk_writeInv {s : State} (h : MemoryOk s) (v : Word) : WResOk (writeInv s v) := by
  unfold writeInv
  grind [wresOk_legal, WResOk]

theorem wresOk_writeXl {s : State} (h : MemoryOk s) (ag : Agent) (k : ℕ) (v : Word) : WResOk (writeXl s ag k v) := by
  unfold writeXl
  grind [wresOk_needs, wresOk_legal, wresOk_writeInv, WResOk]

theorem wresOk_writeFab {s : State} (h : MemoryOk s) (ag : Agent) (k : ℕ) (v : Word) : WResOk (writeFab s ag k v) := by
  unfold writeFab
  grind [wresOk_needs, wresOk_legal, setPorts_hbm, WResOk]

theorem wresOk_writeDom {s : State} (h : MemoryOk s) (ag : Agent) (m : ℕ) (v : Word) : WResOk (writeDom s ag m v) := by
  unfold writeDom
  grind [wresOk_needs, wresOk_legal, WResOk]

theorem wresOk_writeGlob {s : State} (h : MemoryOk s) (ag : Agent) (g k : ℕ) (v : Word) : WResOk (writeGlob s ag g k v) := by
  unfold writeGlob
  grind [wresOk_needs, wresOk_legal, WResOk]

theorem wresOk_writeXrCtl {s : State} (h : MemoryOk s) (v : Word) : WResOk (writeXrCtl s v) := by
  unfold writeXrCtl
  grind [wresOk_legal, loadCatalogue_hbm, WResOk]

theorem wresOk_writeNvq {s : State} (h : MemoryOk s) (k : ℕ) (v : Word) : WResOk (writeNvq s k v) := by
  unfold writeNvq
  grind [wresOk_legal, WResOk]

theorem wresOk_writeXr {s : State} (h : MemoryOk s) (ag : Agent) (k : ℕ) (v : Word) : WResOk (writeXr s ag k v) := by
  unfold writeXr
  grind [wresOk_needs, wresOk_legal, wresOk_writeXrCtl, wresOk_writeNvq, WResOk]

theorem wresOk_writeNotify {s : State} (h : MemoryOk s) (ag : Agent) (n : ℕ) (v : Word) : WResOk (writeNotify s ag n v) := by
  unfold writeNotify
  grind [wresOk_needs, wakeArrive_hbm, WResOk]

theorem wresOk_writeBar {s : State} (h : MemoryOk s) (ag : Agent) (i k : ℕ) (v : Word) : WResOk (writeBar s ag i k v) := by
  unfold writeBar
  grind [wresOk_needs, wresOk_legal, setBarrier_hbm, barrierArriveAt_hbm, WResOk]

theorem wresOk_writeHl {s : State} (h : MemoryOk s) (ag : Agent) (k : ℕ) (v : Word) : WResOk (writeHl s ag k v) := by
  unfold writeHl
  grind [wresOk_needs, wresOk_legal, WResOk]

theorem wresOk_writePwr {s : State} (h : MemoryOk s) (ag : Agent) (k : ℕ) (v : Word) : WResOk (writePwr s ag k v) := by
  unfold writePwr
  grind [wresOk_needs, wresOk_legal, WResOk]

theorem wresOk_writeDev {s : State} (h : MemoryOk s) (ag : Agent) (r : Dev) (v : Word) : WResOk (writeDev s ag r v) := by
  unfold writeDev
  grind [wresOk_writeQd, wresOk_writeFe, wresOk_writeStore, wresOk_writeDsp, wresOk_writeMtu, wresOk_writeXl, wresOk_writeFab,
    wresOk_writeDom, wresOk_writeGlob, wresOk_writeXr, wresOk_writeNotify, wresOk_writeBar, wresOk_needs, wresOk_writeHl,
    wresOk_writePwr, WResOk]

theorem memoryOk_devWrite {s : State} (h : MemoryOk s) (ag : Agent) (a : ℕ) (v : Word) : MemoryOk (devWrite s ag a v).1 := by
  unfold devWrite
  split
  · exact h
  split
  · exact h
  rename_i r _
  have hw := wresOk_writeDev h ag r v
  split
  · rename_i e
    exact (e ▸ hw :)
  · exact h

theorem memoryOk_logAgent {s : State} (h : MemoryOk s) (ag : Agent) (code a : ℕ) : MemoryOk (logAgent s ag code a) := by
  unfold logAgent
  grind [memoryOk_logErr]

theorem memoryOk_firmWrite {s : State} (h : MemoryOk s) (ag : Agent) (a : ℕ) (v : Word) : MemoryOk (firmWrite s ag a v) := by
  unfold firmWrite
  grind [memoryOk_logAgent, wf_physPut]

theorem memoryOk_agentWrite {s : State} (h : MemoryOk s) (ag : Agent) (a : ℕ) (v : Word) : MemoryOk (agentWrite s ag a v) := by
  unfold agentWrite
  grind [memoryOk_firmWrite, memoryOk_devWrite, memoryOk_logAgent]

@[simp] theorem endInval_hbm (s : State) : (endInval s).hbm = s.hbm := by
  unfold endInval
  grind

/-! ### System -/

@[simp] theorem endRte_hbm (s : State) (c cyc : ℕ) : (endRte s c cyc).hbm = s.hbm := rfl

/-! ### Replies -/

theorem memoryOk_performDrd {s : State} (h : MemoryOk s) (c : ℕ) (a : Machine.Acc) : MemoryOk (performDrd s c a) := by
  unfold performDrd
  split
  · exact memoryOk_of_eq h (deliver_hbm ..)
  · exact memoryOk_of_eq (memoryOk_logAcc h ..) (deliver_hbm ..)

theorem memoryOk_performDwr {s : State} (h : MemoryOk s) (c : ℕ) (a : Machine.Acc) : MemoryOk (performDwr s c a) := by
  have hw : MemoryOk (s.onCore c (fun x => dropAcc x a.id)) := memoryOk_of_eq h (onCore_hbm ..)
  have hd := memoryOk_devWrite hw (.strand a.ctx c) a.addr (a.data.truncate 64)
  unfold performDwr
  dsimp only
  split
  · rename_i e
    exact (e ▸ hd :)
  · rename_i e
    exact memoryOk_logAccQ (e ▸ hd :) ..

@[simp] theorem performNsig_hbm (s : State) (c : ℕ) (a : Machine.Acc) : (performNsig s c a).hbm = s.hbm := by
  unfold performNsig
  simp

@[simp] theorem recordArrival_hbm (s : State) (c : ℕ) (a : Machine.Acc) (g : Option (ℕ × ℕ)) :
    (recordArrival s c a g).hbm = s.hbm := rfl

theorem memoryOk_performHbar {s : State} (h : MemoryOk s) (c : ℕ) (a : Machine.Acc) : MemoryOk (performHbar s c a) := by
  unfold performHbar
  grind [recordArrival_hbm, barrierArriveAt_hbm, memoryOk_logAcc]

@[simp] theorem performConsume_hbm (s : State) (c : ℕ) (a : Machine.Acc) : (performConsume s c a).hbm = s.hbm := rfl

theorem memoryOk_performAcc {s : State} (h : MemoryOk s) (c : ℕ) (a : Machine.Acc) (k : ℕ) : MemoryOk (performAcc s c a k) := by
  unfold performAcc
  grind [memoryOk_performLd, memoryOk_performOvl, memoryOk_performAtomic, memoryOk_performSend, memoryOk_performDrd,
    memoryOk_performDwr, memoryOk_performPref, memoryOk_performPeer, performNsig_hbm, memoryOk_performHbar, performConsume_hbm,
    memoryOk_xpermStart]

theorem memoryOk_stepAcc {s : State} (h : MemoryOk s) (c id k : ℕ) : MemoryOk (stepAcc s c id k) := by
  unfold stepAcc
  grind [memoryOk_performOut, memoryOk_sendRemote, memoryOk_performAcc, memoryOk_settle]

theorem memoryOk_sendEntry {s : State} (h : MemoryOk s) (c id : ℕ) : MemoryOk (sendEntry s c id) := by
  unfold sendEntry
  grind [memoryOk_performSend, memoryOk_settle]

/-! ### Package -/

@[simp] theorem boot_hbm (s : State) : (boot s).hbm = s.hbm := by
  unfold boot
  grind [tellHost_hbm]

@[simp] theorem mgmtMeasure_hbm (s : State) : (mgmtMeasure s).hbm = s.hbm := by
  unfold mgmtMeasure
  grind

theorem memoryOk_mgmtPaging {s : State} (h : MemoryOk s) : MemoryOk (mgmtPaging s) := by
  unfold mgmtPaging
  grind [caveData_hbm, wf_storePart, memoryOk_foldl]

theorem memoryOk_resetCold (s : State) : MemoryOk (resetCold s) := rfl

@[simp] theorem recover_hbm (s : State) (i : FwImage) : (recover s i).hbm = s.hbm := by
  unfold recover
  split <;> rfl

@[simp] theorem complete_hbm (s : State) (p : ℕ) (c : Cpl) : (complete s p c).hbm = s.hbm := rfl

@[simp] theorem config_hbm (s : State) (a : HostAcc) : (config s a).hbm = s.hbm := by
  unfold config
  grind [complete_hbm, draw_hbm]

theorem memoryOk_putPart {s : State} (h : MemoryOk s) (p lo ctx len v : ℕ) : MemoryOk (putPart s p lo ctx len v) := by
  unfold putPart
  grind [wf_storePart, memoryOk_logErr]

theorem memoryOk_landHost {s : State} (h : MemoryOk s) : MemoryOk (landHost s) := by
  unfold landHost
  grind [memoryOk_putPart, memoryOk_foldl]

@[simp] theorem abort_hbm (s : State) (a : HostAcc) : (abort s a).hbm = s.hbm := by
  unfold abort
  split <;> rfl

theorem memoryOk_abortLog {s : State} (h : MemoryOk s) (a : HostAcc) (code addr ctx : ℕ) :
    MemoryOk (abortLog s a code addr ctx) := by
  unfold abortLog
  grind [abort_hbm, memoryOk_logErr]

theorem memoryOk_bar0 {s : State} (h : MemoryOk s) (a : HostAcc) : MemoryOk (bar0 s a) := by
  unfold bar0
  grind [abort_hbm, memoryOk_abortLog, memoryOk_agentWrite, memoryOk_landHost, complete_hbm]

theorem memoryOk_hostParts {s : State} (h : MemoryOk s) (ctx a n kind : ℕ) (ks : List ℕ) :
    MemoryOk (hostParts s ctx a n kind ks).1 := by
  induction ks generalizing s with
  | nil => exact h
  | cons k ks ih => unfold hostParts; grind [memoryOk_translate]

theorem memoryOk_readPhys {s : State} (h : MemoryOk s) (a ctx : ℕ) (ps : List (ℕ × ℕ × ℕ)) :
    MemoryOk (readPhys s a ctx ps).1 := by
  induction ps generalizing s with
  | nil => exact h
  | cons p ps ih => unfold readPhys; grind [memoryOk_logErr]

theorem memoryOk_writePhys {s : State} (h : MemoryOk s) (a ctx v : ℕ) (one : Bool) (ps : List (ℕ × ℕ × ℕ)) :
    MemoryOk (writePhys s a ctx v one ps) := by
  induction ps generalizing s with
  | nil => exact h
  | cons p ps ih => unfold writePhys; grind [memoryOk_putPart, draw_hbm]

@[simp] theorem forgetLines_hbm (s : State) (ps : List (ℕ × ℕ × ℕ)) : (forgetLines s ps).hbm = s.hbm := rfl

@[simp] theorem holdLines_hbm (s : State) (ps : List (ℕ × ℕ × ℕ)) : (holdLines s ps).hbm = s.hbm := rfl

theorem memoryOk_hostMem {s : State} (h : MemoryOk s) (a : HostAcc) (cxl : Bool) : MemoryOk (hostMem s a cxl) := by
  unfold hostMem
  grind [abort_hbm, memoryOk_hostParts, memoryOk_landHost, memoryOk_abortLog, memoryOk_writePhys, forgetLines_hbm,
    memoryOk_readPhys, complete_hbm, holdLines_hbm]

theorem memoryOk_bar4 {s : State} (h : MemoryOk s) (a : HostAcc) : MemoryOk (bar4 s a) := by
  unfold bar4
  grind [abort_hbm, memoryOk_abortLog, draw_hbm, memoryOk_writePhys, memoryOk_landHost, memoryOk_readPhys, complete_hbm]

@[simp] theorem askLevels_hbm (s : State) (f : Disp → ℕ) : (askLevels s f).hbm = s.hbm := by
  unfold askLevels
  exact foldl_hbm (fun _ _ => setDie_hbm ..) _ _

@[simp] theorem samplePower_hbm (s : State) (watts : ℕ) (t : List ℕ) : (samplePower s watts t).hbm = s.hbm := by
  unfold samplePower
  grind [foldl_hbm, setDie_hbm, askLevels_hbm]

theorem memoryOk_trip {s : State} (h : MemoryOk s) : MemoryOk (trip s) := by
  unfold trip
  grind [freeAddr_hbm, draw_hbm, memoryOk_logErr]

end Sys2Proof.Proofs
end

section
/-!
PROOFS. Memory keeps its form (O60): what moves take and write.
-/
namespace Sys2Proof.Proofs

open Sys2Proof.Machine Sys2Proof.Laws

/-! ### Vector -/

@[simp] theorem vecPost_hbm (s : State) (t : WTrig) (off minor op : ℕ) (ev : Option ℕ) :
    (vecPost t s off minor op ev).hbm = s.hbm := by
  unfold vecPost
  split <;> rfl

/-! ### Xp -/

@[simp] theorem xpStatus_hbm (s : State) (t : Trig) (v : ℕ) : (xpStatus t s v).hbm = s.hbm := rfl

@[simp] theorem sendXp_hbm (s : State) (t : Trig) (op : ℕ) (words : List Word) : (sendXp t s op words).hbm = s.hbm := rfl

/-! ### Operands -/

theorem memoryOk_takeMv {s : State} (h : MemoryOk s) (c : ℕ) (m : MvSrc) : MemoryOk (takeMv s c m) := by
  unfold takeMv
  grind [memoryOk_sTake]

theorem memoryOk_writeDest {s : State} (h : MemoryOk s) (c dst iss : ℕ) (v : MvVal) : MemoryOk (writeDest s c dst iss v) := by
  unfold writeDest
  grind [onCore_hbm, memoryOk_sPush]

end Sys2Proof.Proofs
end

section
/-!
PROOFS. Memory keeps its form (O60): the operations of the units.
-/
namespace Sys2Proof.Proofs

open Sys2Proof.Machine Sys2Proof.Laws

/-! ### Continuations -/

theorem resOk_bpElem (s : State) (t : Trig) (i : ℕ) {k : ℕ → ℕ → Res} (hk : ∀ i w, ResOk (k i w)) : ResOk (bpElem t s i k) := by
  unfold bpElem
  grind [ResOk]

theorem resOk_rearrange (s : State) (t : WTrig) {k : VcSet → Fmt → Res} (hk : ∀ e f, ResOk (k e f)) :
    ResOk (rearrange t s k) := by
  unfold rearrange
  grind [ResOk]

theorem resOk_withSlot (s : State) (c : ℕ) {k : Unit → Res} (hk : ResOk (k ())) : ResOk (withSlot s c k) := by
  unfold withSlot
  grind [ResOk]

theorem resOk_withRm (t : Trig) (w n : ℕ) (r : RmKind) (bad : Bool) {f : ℕ → Res} (hf : ∀ a, ResOk (f a)) :
    ResOk (withRm t w n r bad f) := by
  unfold withRm
  grind [ResOk]

section
variable {s : State} (h : MemoryOk s) (t : Trig)
include h

theorem resOk_withCkpt {k : State → Res} (hk : ∀ u, MemoryOk u → ResOk (k u)) : ResOk (withCkpt t s k) := by
  unfold withCkpt
  split
  · trivial
  · split
    · exact hk _ (memoryOk_of_eq h (onCore_hbm ..))
    · exact hk _ h

theorem resOk_withXp {k : State → Res} (hk : ∀ u, MemoryOk u → ResOk (k u)) : ResOk (withXp t s k) :=
  resOk_withCkpt h t fun u hu => by
    split
    · trivial
    · exact hk u hu

/-! ### Forms that several operations share -/

theorem resOk_condWrite (i minor : ℕ) (b : Bool) : ResOk (condWrite t s i minor b) := by
  unfold condWrite
  grind [plan_hbm, ResOk]

theorem resOk_opDivide (signed rem : Bool) : ResOk (opDivide t s signed rem) := by
  unfold opDivide
  grind [withReg, setCore_hbm, ResOk]

theorem resOk_gmLoad (sx : Bool) : ResOk (gmLoad t s sx) := by
  unfold gmLoad
  grind [withGm, withSlot, withReg, issueAcc_hbm, ResOk]

theorem resOk_gmAtomic (i w : ℕ) (k : GmKind) : ResOk (gmAtomic t s i w k) := by
  unfold gmAtomic
  grind [resOk_withCkpt, withGm, withSlot, withReg, issueAcc_hbm, ResOk]

/-! ### Loads and stores -/

theorem resOk_overLoad (a : ℕ) (sx : Bool) : ResOk (overLoad t s a sx) := by
  unfold overLoad
  grind [plan_hbm, onCore_hbm, ResOk]

theorem resOk_lsLoad (sx : Bool) : ResOk (lsLoad t s sx) := by
  unfold lsLoad
  grind [resOk_overLoad, withTarget, withLocal, plan_hbm, ResOk]

theorem resOk_lsPut (n o len : ℕ) (v : Wide) (ben : Option Word) : ResOk (lsPut t s n o len v ben) := by
  unfold lsPut
  grind [withLocal, planNear_hbm, pushAcc_hbm, ResOk]

theorem resOk_lsLoadPeer (sx : Bool) : ResOk (lsLoadPeer t s sx) := by
  unfold lsLoadPeer
  grind [withTarget, withReg, withLocal, plan_hbm, onCore_hbm, issueAcc_hbm, ResOk]

theorem resOk_opLsSt : ResOk (opLsSt t s) := by
  unfold opLsSt
  grind [wbRoom, withLocal, withTarget, resOk_lsPut, planNear_hbm, wbStore_hbm, ResOk]

theorem resOk_opLsLdv : ResOk (opLsLdv t s) := by
  unfold opLsLdv
  grind [withTarget, withLocal, plan_hbm, ResOk]

theorem resOk_opLsStv : ResOk (opLsStv t s) := by
  unfold opLsStv
  grind [withTarget, resOk_lsPut, ResOk]

theorem resOk_opLsStm : ResOk (opLsStm t s) := by
  unfold opLsStm
  grind [withTarget, resOk_lsPut, ResOk]

theorem resOk_opLsSwap : ResOk (opLsSwap t s) := by
  unfold opLsSwap
  grind [withCkpt, withTarget, withLocal, onCore_hbm, planNear_hbm, ResOk]

theorem resOk_opLsBor : ResOk (opLsBor t s) := by
  unfold opLsBor
  grind [withCkpt, withTarget, withLocal, onCore_hbm, planNear_hbm, pushAcc_hbm, ResOk]

theorem resOk_opLsZero : ResOk (opLsZero t s) := by
  unfold opLsZero
  grind [withTarget, resOk_lsPut, ResOk]

theorem resOk_opLsTlook : ResOk (opLsTlook t s) := by
  unfold opLsTlook
  grind [withRange, plan_hbm, ResOk]

theorem resOk_opLsTclr : ResOk (opLsTclr t s) := by
  unfold opLsTclr
  grind [withRange, plan_hbm, ResOk]

theorem resOk_opLsTscout : ResOk (opLsTscout t s) := by
  unfold opLsTscout
  grind [pushAcc_hbm, ResOk]

/-! ### Global memory -/

theorem resOk_opGmSt : ResOk (opGmSt t s) := by
  unfold opGmSt
  grind [withGmEntry, wbRoom, withSlot, wbStore_hbm, ResOk]

theorem resOk_opGmFadd : ResOk (opGmFadd t s) := by
  unfold opGmFadd
  grind [resOk_gmAtomic, ResOk]

theorem resOk_opGmPref : ResOk (opGmPref t s) := by
  unfold opGmPref
  grind [withGm, withSlot, pushAcc_hbm, ResOk]

theorem resOk_opGmDrd : ResOk (opGmDrd t s) := by
  unfold opGmDrd
  grind [resOk_withCkpt, withGm, withSlot, withReg, issueAcc_hbm, ResOk]

theorem resOk_opGmDwr : ResOk (opGmDwr t s) := by
  unfold opGmDwr
  grind [resOk_withCkpt, withGmEntry, wbRoom, withSlot, pushAcc_hbm, ResOk]

/-! ### Remote memory -/

theorem resOk_opRmRld : ResOk (opRmRld t s) := by
  unfold opRmRld
  grind [withCkpt, onCore_hbm, withRm, withSlot, withReg, issueAcc_hbm, plan_hbm, ResOk]

theorem resOk_opRmRst : ResOk (opRmRst t s) := by
  unfold opRmRst
  grind [withCkpt, onCore_hbm, withRm, withSlot, pushAcc_hbm, ResOk]

theorem resOk_opRmMcast : ResOk (opRmMcast t s) := by
  unfold opRmMcast
  grind [withCkpt, onCore_hbm, withRm, withSlot, mcastAccs_hbm, ResOk]

theorem resOk_opRmXsig : ResOk (opRmXsig t s) := by
  unfold opRmXsig
  grind [withCkpt, onCore_hbm, withRm, withSlot, pushAcc_hbm, ResOk]

theorem resOk_opRmBar : ResOk (opRmBar t s) := by
  unfold opRmBar
  grind [withCkpt, onCore_hbm, withRm, withSlot, pushAcc_hbm, ResOk]

theorem resOk_opRmRred : ResOk (opRmRred t s) := by
  unfold opRmRred
  refine resOk_withCkpt h t fun u hu => ?_
  split
  · exact resOk_withRm _ _ _ _ _ fun _ => resOk_withSlot _ _ (memoryOk_of_eq hu (pushAcc_hbm ..))
  · refine resOk_withRm _ _ _ _ _ fun a => ?_
    split
    · trivial
    · split_ifs
      · trivial
      · refine resOk_withSlot _ _ ?_
        grind [contribOf_hbm, memoryOk_addContrib, plan_hbm, pushAcc_hbm, ResOk]

theorem resOk_opRmGrpset : ResOk (opRmGrpset t s) := by
  unfold opRmGrpset
  refine resOk_withCkpt h t fun u hu => resOk_withRm _ _ _ _ _ fun a => ?_
  split
  · trivial
  · split
    · trivial
    · grind [memoryOk_spLoad, rmStatus_hbm, windowFor_hbm, withSlot, pushAcc_hbm, ResOk]

theorem resOk_opRmGrpclr : ResOk (opRmGrpclr t s) := by
  unfold opRmGrpclr
  grind [withCkpt, onCore_hbm, withRm, withSlot, windowFor_hbm, rmStatus_hbm, pushAcc_hbm, ResOk]

theorem resOk_opRmGrpretire : ResOk (opRmGrpretire t s) := by
  unfold opRmGrpretire
  grind [withCkpt, onCore_hbm, withRm, withSlot, pushAcc_hbm, ResOk]

theorem resOk_opRmXperm : ResOk (opRmXperm t s) := by
  unfold opRmXperm
  grind [withCkpt, onCore_hbm, withSlot, memoryOk_spLoad, pushAcc_hbm, ResOk]

theorem resOk_opRmLqbind : ResOk (opRmLqbind t s) := by
  unfold opRmLqbind
  grind [withCkpt, onCore_hbm, withRm, withSlot, rmStatus_hbm, windowFor_hbm, plan_hbm, pushAcc_hbm, memoryOk_registerKey, ResOk]

theorem resOk_opRmLqfree : ResOk (opRmLqfree t s) := by
  unfold opRmLqfree
  grind [withCkpt, onCore_hbm, rmStatus_hbm, plan_hbm, ResOk]

/-! ### The stream engine -/

theorem resOk_opSeSbind : ResOk (opSeSbind t s) := by
  unfold opSeSbind
  grind [seAt, memoryOk_ownLoad, plan_hbm, ResOk]

theorem resOk_opSeSgrp : ResOk (opSeSgrp t s) := by
  unfold opSeSgrp
  grind [withChan, seAt, plan_hbm, ResOk]

theorem resOk_opSeSstart : ResOk (opSeSstart t s) := by
  unfold opSeSstart
  grind [withChan, seAt, plan_hbm, ResOk]

theorem resOk_opSeSstop : ResOk (opSeSstop t s) := by
  unfold opSeSstop
  grind [withChan, seAt, plan_hbm, ResOk]

theorem resOk_opSeSseek : ResOk (opSeSseek t s) := by
  unfold opSeSseek
  grind [withChan, seAt, plan_hbm, ResOk]

theorem resOk_opSeSstat : ResOk (opSeSstat t s) := by
  unfold opSeSstat
  grind [plan_hbm, ResOk]

theorem resOk_opSeSflush : ResOk (opSeSflush t s) := by
  unfold opSeSflush
  grind [withChan, seAt, plan_hbm, ResOk]

theorem resOk_opSeSskip : ResOk (opSeSskip t s) := by
  unfold opSeSskip
  grind [withChan, seAt, plan_hbm, ResOk]

theorem resOk_opSeSfree : ResOk (opSeSfree t s) := by
  unfold opSeSfree
  grind [withChan, seAt, plan_hbm, ResOk]

theorem resOk_opSeSwait : ResOk (opSeSwait t s) := by
  unfold opSeSwait
  grind [withChan, ResOk]

/-! ### The matrix unit -/

theorem resOk_opMxMdset : ResOk (opMxMdset t s) := by
  unfold opMxMdset
  grind [withMx, mxSet, plan_hbm, ResOk]

theorem resOk_opMxFmtset : ResOk (opMxFmtset t s) := by
  unfold opMxFmtset
  grind [withMx, mxSet, plan_hbm, ResOk]

theorem resOk_opMxFmtget : ResOk (opMxFmtget t s) := by
  unfold opMxFmtget
  grind [withMx, plan_hbm, ResOk]

theorem resOk_opMxFmtlvl : ResOk (opMxFmtlvl t s) := by
  unfold opMxFmtlvl
  grind [withMx, mxSet, plan_hbm, ResOk]

theorem resOk_opMxOvpop : ResOk (opMxOvpop t s) := by
  unfold opMxOvpop
  grind [withMx, plan_hbm, ResOk]

theorem resOk_opMxOvstat : ResOk (opMxOvstat t s) := by
  unfold opMxOvstat
  grind [withMx, plan_hbm, ResOk]

theorem resOk_opMxMxsave : ResOk (opMxMxsave t s) := by
  unfold opMxMxsave
  grind [withImage, withMx, onCore_hbm, plan_hbm, startImage_hbm, ResOk]

theorem resOk_opMxMxload : ResOk (opMxMxload t s) := by
  unfold opMxMxload
  grind [withImage, withMx, plan_hbm, startImage_hbm, foldl_hbm, ResOk]

theorem resOk_opMxAcczero : ResOk (opMxAcczero t s) := by
  unfold opMxAcczero
  grind [withMx, plan_hbm, setCore_hbm, ResOk]

theorem resOk_opMxWzero : ResOk (opMxWzero t s) := by
  unfold opMxWzero
  grind [withMx, plan_hbm, ResOk]

theorem resOk_readBeat (b : Beat) (kind : ℕ) : ResOk (readBeat b s kind) := by
  unfold readBeat
  grind [takeOk_beatSource, takeOk_beatScale, onCore_hbm, plan_hbm, ResOk, TakeOk]

theorem resOk_drainBeat (b : Beat) (zero : Bool) : ResOk (drainBeat b s zero) := by
  unfold drainBeat
  grind [takeOk_beatDest, onCore_hbm, plan_hbm, ResOk, TakeOk]

/-! ### Control -/

theorem resOk_opCuRet : ResOk (opCuRet t s) := by
  unfold opCuRet
  grind [selectPc_hbm, ResOk]

theorem resOk_opCuLoop : ResOk (opCuLoop t s) := by
  unfold opCuLoop
  grind [setCore_hbm, ResOk]

theorem resOk_opCuLpop : ResOk (opCuLpop t s) := by
  unfold opCuLpop
  grind [setCore_hbm, ResOk]

theorem resOk_opCuYield : ResOk (opCuYield t s) := by
  unfold opCuYield
  grind [withCkpt, notInHandler, onCore_hbm, ResOk]

theorem resOk_opCuExit : ResOk (opCuExit t s) := by
  unfold opCuExit
  grind [withCkpt, notInHandler, onCore_hbm, ResOk]

theorem resOk_opCuHalt : ResOk (opCuHalt t s) := by
  unfold opCuHalt
  grind [withCkpt, onCore_hbm, ResOk]

theorem resOk_opCuSpawn : ResOk (opCuSpawn t s) := by
  unfold opCuSpawn
  grind [withCkpt, notInHandler, onCore_hbm, spawnTeams_hbm, ResOk]

theorem resOk_opCuSegnext : ResOk (opCuSegnext t s) := by
  unfold opCuSegnext
  grind [notInHandler, dropParks_hbm, plan_hbm, onCore_hbm, ResOk]

theorem resOk_opCuFence : ResOk (opCuFence t s) := by
  unfold opCuFence
  grind [pushAcc_hbm, ResOk]

/-! ### Synchronisation and the system -/

theorem resOk_opSyNwait : ResOk (opSyNwait t s) := by
  unfold opSyNwait
  grind [withBlock, plan_hbm, onCore_hbm, ResOk]

theorem resOk_opSyNread : ResOk (opSyNread t s) := by
  unfold opSyNread
  grind [withBlock, plan_hbm, ResOk]

theorem resOk_opSyNclr : ResOk (opSyNclr t s) := by
  unfold opSyNclr
  grind [withBlock, plan_hbm, ResOk]

theorem resOk_opSyNsig : ResOk (opSyNsig t s) := by
  unfold opSyNsig
  grind [withCkpt, withBlock, onCore_hbm, pushAcc_hbm, ResOk]

theorem resOk_opSyHbar : ResOk (opSyHbar t s) := by
  unfold opSyHbar
  grind [withCkpt, onCore_hbm, pushAcc_hbm, ResOk]

theorem resOk_opSyHbwait : ResOk (opSyHbwait t s) := by
  unfold opSyHbwait
  grind [plan_hbm, ResOk]

theorem resOk_opSyRte : ResOk (opSyRte t s) := by
  unfold opSyRte
  grind [withHandler, returnTrap_hbm, ResOk]

theorem resOk_opSyTinfo : ResOk (opSyTinfo t s) := by
  unfold opSyTinfo
  grind [withHandler, plan_hbm, ResOk]

theorem resOk_opSySrd : ResOk (opSySrd t s) := by
  unfold opSySrd
  grind [withCkpt, withPriv, onCore_hbm, plan_hbm, ResOk]

theorem resOk_opSySwr : ResOk (opSySwr t s) := by
  unfold opSySwr
  grind [withCkpt, withPriv, onCore_hbm, plan_hbm, ResOk]

/-! ### The expert engine -/

theorem resOk_descriptorCmd (op : ℕ) : ResOk (descriptorCmd t s op) := by
  unfold descriptorCmd
  grind [withCkpt, onCore_hbm, plan_hbm, ResOk]

theorem resOk_opXpPageUnlock : ResOk (opXpPageUnlock t s) := by
  unfold opXpPageUnlock
  grind [resOk_withXp, xpStatus_hbm, sendXp_hbm, ResOk]

theorem resOk_opXpResq : ResOk (opXpResq t s) := by
  unfold opXpResq
  grind [resOk_withXp, withReg, withSlot, issueAcc_hbm, queueXp_hbm, xpStatus_hbm, ResOk]

theorem resOk_opXpBias : ResOk (opXpBias t s) := by
  unfold opXpBias
  grind [withCkpt, onCore_hbm, xpStatus_hbm, sendXp_hbm, ResOk]

theorem resOk_pageCmd (op : ℕ) : ResOk (withXp t s fun s => .done (sendXp t s op [xpExpert t])) :=
  resOk_withXp h t fun u hu => memoryOk_of_eq hu (sendXp_hbm u t op _)

end

section
variable {s : State} (h : MemoryOk s) (t : WTrig)
include h

/-! ### Vectors -/

theorem resOk_vxOp (op off : ℕ) (ok : Fmt → Bool) (g : VxSet → ℕ → ℕ → ℕ → ℕ × Bool) : ResOk (vxOp t s op off ok g) := by
  unfold vxOp
  grind [plan_hbm, vecPost_hbm, ResOk]

theorem resOk_vxCmp (rel : Val → Val → Bool) : ResOk (vxCmp t s rel) := by
  unfold vxCmp
  grind [plan_hbm, ResOk]

theorem resOk_vcRes (op off v : ℕ) (ev : Option ℕ) : ResOk (vcRes t s op off v ev) :=
  memoryOk_of_eq h (by simp)

theorem resOk_vcScalar (op off : ℕ) (v : Word) (ev : Option ℕ) : ResOk (vcScalar t s op off v ev) := by
  unfold vcScalar
  grind [plan_hbm, vecPost_hbm, ResOk]

theorem resOk_vcExtreme (op : ℕ) (better : Val → Val → Bool) : ResOk (vcExtreme t s op better) := by
  unfold vcExtreme
  grind [resOk_vcScalar, ResOk]

theorem resOk_opVcCvt : ResOk (opVcCvt t s) := by
  unfold opVcCvt
  grind [resOk_vcRes, ResOk]

theorem resOk_opVcPack : ResOk (opVcPack t s) := by
  unfold opVcPack
  grind [resOk_vcRes, ResOk]

theorem resOk_opVcUnpk : ResOk (opVcUnpk t s) := by
  unfold opVcUnpk
  grind [resOk_vcRes, ResOk]

theorem resOk_opVcPacks : ResOk (opVcPacks t s) := by
  unfold opVcPacks
  grind [resOk_vcRes, ResOk]

theorem resOk_opVcRsum : ResOk (opVcRsum t s) := by
  unfold opVcRsum
  grind [resOk_vcScalar, ResOk]

theorem resOk_opVcShuf : ResOk (opVcShuf t s) := by
  unfold opVcShuf
  grind [resOk_rearrange, resOk_vcRes, vcArrange]

theorem resOk_opVcBcast : ResOk (opVcBcast t s) := by
  unfold opVcBcast
  grind [resOk_rearrange, resOk_vcRes, vcArrange, ResOk]

theorem resOk_opVcRot : ResOk (opVcRot t s) := by
  unfold opVcRot
  grind [resOk_rearrange, resOk_vcRes, vcArrange, ResOk]

theorem resOk_opVcZip : ResOk (opVcZip t s) := by
  unfold opVcZip
  grind [resOk_rearrange, resOk_vcRes, vcArrange, ResOk]

theorem resOk_opVcUnzip : ResOk (opVcUnzip t s) := by
  unfold opVcUnzip
  grind [resOk_rearrange, resOk_vcRes, vcArrange, ResOk]

theorem resOk_opVcLane : ResOk (opVcLane t s) := by
  unfold opVcLane
  grind [resOk_rearrange, resOk_vcScalar, ResOk]

end

/-! ### The units, by operation code -/

section
variable {s : State} (h : MemoryOk s) (i : ℕ) (t : Trig)
include h

theorem resOk_runIA : ResOk (runIA i t s) := by
  unfold runIA
  split
  iterate 21 exact h
  iterate 7 exact resOk_condWrite h ..
  trivial

theorem resOk_runIM : ResOk (runIM i t s) := by
  unfold runIM
  split
  iterate 4 exact h
  iterate 4 exact resOk_opDivide h ..
  trivial

theorem resOk_runBP : ResOk (runBP i t s) := by
  unfold runBP
  split
  iterate 5 exact h
  iterate 2 exact resOk_condWrite h ..
  iterate 2 exact h
  iterate 3 exact resOk_bpElem _ _ _ fun _ _ => h
  trivial

theorem resOk_runLS : ResOk (runLS i t s) := by
  unfold runLS
  split
  iterate 2 exact resOk_lsLoad h ..
  · exact resOk_opLsSt h t
  · exact resOk_opLsLdv h t
  · exact resOk_opLsStv h t
  iterate 2 exact resOk_lsLoadPeer h ..
  · exact resOk_opLsStm h t
  · exact resOk_opLsTlook h t
  · exact h
  · exact resOk_opLsTclr h t
  · exact h
  · exact resOk_opLsTscout h t
  · exact resOk_opLsSwap h t
  · exact resOk_opLsBor h t
  · exact resOk_opLsZero h t
  · trivial

theorem resOk_runGM : ResOk (runGM i t s) := by
  unfold runGM
  split
  iterate 2 exact resOk_gmLoad h ..
  · exact resOk_opGmSt h t
  iterate 3 exact resOk_gmAtomic h ..
  · exact resOk_opGmFadd h t
  iterate 8 exact resOk_gmAtomic h ..
  · exact resOk_opGmPref h t
  · exact resOk_opGmDrd h t
  · exact resOk_opGmDwr h t
  · trivial

theorem resOk_runRM : ResOk (runRM i t s) := by
  unfold runRM
  split
  · exact resOk_opRmRld h t
  · exact resOk_opRmRst h t
  · exact resOk_opRmRred h t
  · exact resOk_opRmMcast h t
  · exact resOk_opRmXsig h t
  · exact resOk_opRmBar h t
  · exact resOk_opRmGrpset h t
  · exact resOk_opRmGrpclr h t
  · exact resOk_opRmGrpretire h t
  · exact resOk_opRmXperm h t
  · exact resOk_opRmLqbind h t
  · exact resOk_opRmLqfree h t
  · trivial

theorem resOk_runSE : ResOk (runSE i t s) := by
  unfold runSE
  split
  · exact resOk_opSeSbind h t
  · exact resOk_opSeSgrp h t
  · exact resOk_opSeSstart h t
  · exact resOk_opSeSstop h t
  · exact resOk_opSeSseek h t
  · exact resOk_opSeSstat h t
  · exact resOk_opSeSflush h t
  · exact resOk_opSeSskip h t
  · exact resOk_opSeSfree h t
  · exact resOk_opSeSwait h t
  · trivial

theorem resOk_runMX : ResOk (runMX i t s) := by
  unfold runMX
  split
  · exact resOk_opMxMdset h t
  · exact resOk_opMxFmtset h t
  · exact resOk_opMxFmtget h t
  · exact resOk_opMxFmtlvl h t
  · exact resOk_opMxOvpop h t
  · exact resOk_opMxOvstat h t
  · exact resOk_opMxMxsave h t
  · exact resOk_opMxMxload h t
  · exact resOk_opMxAcczero h t
  · exact resOk_opMxWzero h t
  · trivial

theorem resOk_runCU : ResOk (runCU i t s) := by
  unfold runCU
  split
  · exact resOk_opCuLoop h t
  · exact h
  · exact h
  · exact resOk_opCuRet h t
  · exact memoryOk_of_eq h (release_hbm ..)
  · exact resOk_opCuYield h t
  · exact resOk_opCuSpawn h t
  · exact resOk_opCuExit h t
  · exact resOk_opCuSegnext h t
  · exact resOk_opCuHalt h t
  · exact resOk_opCuFence h t
  · exact resOk_opCuLpop h t
  · trivial

theorem resOk_runSY : ResOk (runSY i t s) := by
  unfold runSY
  split
  · exact resOk_opSyNwait h t
  · exact resOk_opSyNread h t
  · exact resOk_opSyNclr h t
  · exact resOk_opSyNsig h t
  · exact resOk_opSyHbar h t
  · exact resOk_opSyHbwait h t
  · exact resOk_opSyRte h t
  · exact resOk_opSyTinfo h t
  · exact resOk_opSySrd h t
  · exact resOk_opSySwr h t
  · trivial

theorem resOk_runXP : ResOk (runXP i t s) := by
  unfold runXP
  split
  iterate 2 exact resOk_descriptorCmd h ..
  · split
    iterate 2 exact resOk_pageCmd h ..
    · exact resOk_opXpPageUnlock h t
    · exact resOk_pageCmd h ..
  · exact resOk_opXpResq h t
  · split <;> exact resOk_pageCmd h ..
  · exact resOk_opXpBias h t
  · trivial

end

section
variable {s : State} (h : MemoryOk s) (i : ℕ) (t : WTrig)
include h

theorem resOk_runVX : ResOk (runVX i t s) := by
  unfold runVX
  split
  iterate 11 exact resOk_vxOp h ..
  iterate 3 exact resOk_vxCmp h ..
  · exact h
  iterate 3 exact resOk_vxOp h ..
  iterate 2 exact h
  trivial

theorem resOk_runVC : ResOk (runVC i t s) := by
  unfold runVC
  split
  · exact resOk_opVcCvt h t
  · exact resOk_opVcPack h t
  · exact resOk_opVcPacks h t
  · exact resOk_opVcUnpk h t
  · exact resOk_opVcRsum h t
  iterate 2 exact resOk_vcExtreme h ..
  · exact resOk_opVcShuf h t
  · exact resOk_opVcBcast h t
  · exact resOk_opVcRot h t
  · exact resOk_opVcZip h t
  · exact resOk_opVcUnzip h t
  · exact resOk_opVcLane h t
  · exact h
  · trivial

end

theorem resOk_runTrig {s : State} (h : MemoryOk s) (c slot dst : ℕ) (ckpt : Bool) (v : MvVal) :
    ResOk (runTrig s c slot dst ckpt v) := by
  unfold runTrig
  extract_lets u i t w
  clear_value u i t w
  split
  · exact resOk_runIA h ..
  · exact resOk_runIA h ..
  · exact resOk_runIM h ..
  · exact resOk_runBP h ..
  · exact resOk_runLS h ..
  · exact resOk_runLS h ..
  · exact resOk_runGM h ..
  · exact resOk_runRM h ..
  · exact resOk_runSE h ..
  · exact resOk_runVX h ..
  · exact resOk_runVC h ..
  · exact resOk_runMX h ..
  · exact resOk_runCU h ..
  · exact resOk_runSY h ..
  · exact resOk_runXP h ..
  · trivial

theorem resOk_runBeat {s : State} (h : MemoryOk s) (i : Instr) : ResOk (runBeat i s) := by
  unfold runBeat
  split
  iterate 3 exact resOk_readBeat h ..
  iterate 2 exact resOk_drainBeat h ..
  exact h

end Sys2Proof.Proofs
end

section
/-!
PROOFS. Memory keeps its form (O60): bundles, pulses and nanoseconds.
-/
namespace Sys2Proof.Proofs

open Sys2Proof.Machine Sys2Proof.Laws

/-! ### Bundle -/

theorem memoryOk_eccFetch {s : State} (h : MemoryOk s) (c : ℕ) : MemoryOk (eccFetch s c) := by
  unfold eccFetch
  grind [memoryOk_killTeam, onCore_hbm, memoryOk_rollbackCore, memoryOk_logErr]

@[simp] theorem withPorts_hbm (s : State) (c : ℕ) (es : List Eff) : (withPorts s c es).hbm = s.hbm := rfl

@[simp] theorem stallBundle_hbm (s : State) (c : ℕ) (l : Look) (rs : List Res) : (stallBundle s c l rs).hbm = s.hbm := by
  unfold stallBundle
  grind [onCore_hbm, pushAcc_hbm, foldl_hbm]

theorem resOk_applyAll {s : State} (h : MemoryOk s) (c : ℕ) (g0 : Tab GReg) {fs : List (State → Res)}
    (hf : ∀ f ∈ fs, ∀ u, MemoryOk u → ResOk (f u)) : ResOk (applyAll c g0 fs s) := by
  induction fs generalizing s with
  | nil => exact h
  | cons f fs ih =>
    have hr : ResOk (f (s.onCore c (fun x => { x with dup := { x.dup with g := g0 } }))) :=
      hf f (by simp) _ (memoryOk_of_eq h (onCore_hbm ..))
    unfold applyAll
    split
    · rename_i e
      exact ih (memoryOk_of_eq (e ▸ hr :) (onCore_hbm ..)) fun f hm => hf f (by simp [hm])
    · exact hr

theorem resOk_thenState {r : Res} (hr : ResOk r) {f : State → State} (hf : ∀ u, MemoryOk u → MemoryOk (f u)) :
    ResOk (r.thenState f) := by
  cases r with
  | done u => exact hf u hr
  | _ => trivial

@[simp] theorem withChans_hbm (s : State) (c : ℕ) (x : Core) : (withChans s c x).hbm = s.hbm := rfl

theorem resOk_effRun {s : State} (h : MemoryOk s) (s0 : State) (c : ℕ) (ckpt : Bool) (e : Eff) : ResOk (e.run s0 c ckpt s) := by
  unfold Eff.run
  split
  · split
    · exact resOk_thenState (resOk_runTrig (memoryOk_of_eq h (withChans_hbm ..)) ..) fun _ hu =>
        memoryOk_of_eq hu (withChans_hbm ..)
    · exact resOk_runTrig h ..
  · trivial

theorem resOk_bundleOps {s : State} (c : ℕ) (l : Look) {f : State → Res} (hf : f ∈ bundleOps s c l) {u : State}
    (hu : MemoryOk u) : ResOk (f u) := by
  unfold bundleOps at hf
  simp only [List.mem_append, List.mem_map, List.mem_singleton] at hf
  obtain ((((⟨e, -, rfl⟩ | rfl) | ⟨e, -, rfl⟩) | ⟨e, -, rfl⟩) | rfl) | ⟨e, -, rfl⟩ := hf
  · exact resOk_effRun hu s c _ e
  · exact resOk_runBeat hu _
  · exact memoryOk_takeMv hu c _
  · exact resOk_effRun hu s c _ e
  · exact memoryOk_landPushes hu c
  · exact resOk_effRun hu s c _ e

theorem memoryOk_afterBundle {s : State} (h : MemoryOk s) (c : ℕ) (l : Look) (pc : Pc) : MemoryOk (afterBundle s c l pc) := by
  unfold afterBundle
  grind [memoryOk_haltTeam, memoryOk_drain, memoryOk_strandExit]

theorem memoryOk_endBundle {s : State} (h : MemoryOk s) (c : ℕ) (l : Look) (pc : Pc) (t : ℕ) :
    MemoryOk (endBundle s c l pc t) := by
  unfold endBundle
  grind [memoryOk_nextCycle, memoryOk_writeDest, onCore_hbm, endCkpt_hbm, endRte_hbm, memoryOk_afterBundle, memoryOk_foldl]

theorem memoryOk_issueBundle {s : State} (h : MemoryOk s) (c : ℕ) (l : Look) : MemoryOk (issueBundle s c l) := by
  have hp : MemoryOk (withPorts s c l.effs) := memoryOk_of_eq h (withPorts_hbm ..)
  have hr := resOk_applyAll hp c (s.core c).dup.g fun f hf u hu =>
    resOk_bundleOps (s := withPorts s c l.effs) c l hf hu
  unfold issueBundle
  dsimp only
  split
  · rename_i e
    exact memoryOk_endBundle (e ▸ hr :) ..
  · exact memoryOk_takeTrap h ..
  · exact memoryOk_of_eq h (onCore_hbm ..)

theorem memoryOk_trapOrForce {s : State} (h : MemoryOk s) (c : ℕ) (t : Trap) : MemoryOk (trapOrForce s c t) := by
  unfold trapOrForce
  grind [memoryOk_takeTrap]

theorem memoryOk_passInIssue {s : State} (h : MemoryOk s) (c : ℕ) (w : BitVec 192) : MemoryOk (passInIssue s c w) := by
  unfold passInIssue
  grind [onCore_hbm]

theorem memoryOk_attempt {s : State} (h : MemoryOk s) (c : ℕ) : MemoryOk (attempt s c) := by
  unfold attempt
  grind [memoryOk_trapOrForce, memoryOk_eccFetch, memoryOk_passInIssue, memoryOk_issueBundle, stallBundle_hbm]

@[simp] theorem applyLevels_hbm (s : State) (p : ℕ) : (applyLevels s p).hbm = s.hbm := by
  unfold applyLevels
  split
  · exact foldl_hbm (fun _ _ => setDie_hbm ..) _ _
  · rfl

@[simp] theorem domainTick_hbm (s : State) (cs : List ℕ) : (domainTick s cs).hbm = s.hbm := by
  unfold domainTick
  simp

@[simp] theorem beginPulse_hbm (s : State) : (beginPulse s).hbm = s.hbm := by
  unfold beginPulse
  grind [applyLevels_hbm, domainTick_hbm]

theorem memoryOk_takePulse {s : State} (h : MemoryOk s) (c : ℕ) : MemoryOk (takePulse s c) := by
  unfold takePulse
  grind [memoryOk_attempt]

/-! ### Clock -/

theorem memoryOk_pulse {s : State} (h : MemoryOk s) : MemoryOk (pulse s) := by
  unfold pulse
  grind [beginPulse_hbm, memoryOk_takePulse, memoryOk_foldl]

theorem memoryOk_writeLate {s : State} (h : MemoryOk s) : MemoryOk (writeLate s) := by
  unfold writeLate
  grind [memoryOk_writeErrs, memoryOk_writeLog, memoryOk_foldl]

theorem memoryOk_timePasses {s : State} (h : MemoryOk s) : MemoryOk (timePasses s) := by
  unfold timePasses
  grind [memoryOk_writeLate, memoryOk_landHost, memoryOk_remoteKick, memoryOk_expireFlights, boot_hbm, memoryOk_mgmtPaging,
    mgmtMeasure_hbm]

theorem memoryOk_nano {s : State} (h : MemoryOk s) : MemoryOk (nano s) := by
  unfold nano
  grind [memoryOk_timePasses]

end Sys2Proof.Proofs
end

section
/-!
PROOFS. Memory keeps its form (O60): every transition, and so every step.
-/
namespace Sys2Proof.Proofs

open Sys2Proof.Machine Sys2Proof.Laws

/-- What a read of a source keeps. -/
def SrcOk : Src → Prop
  | .wait r => ResOk r
  | _ => True

theorem outOk_finish {s : State} (h : MemoryOk s) (c : ℕ) {r : Res} (hr : ResOk r) : OutOk (finish s c r) := by
  cases r with
  | done u => exact hr
  | stall => exact h
  | trap t => exact memoryOk_takeTrap h ..
  | fetch a => exact memoryOk_of_eq h (pushAcc_hbm ..)
  | await k n => exact memoryOk_of_eq h (onCore_hbm ..)

theorem outOk_finishSel {s : State} (h : MemoryOk s) (c : ℕ) {r : Res} (hr : ResOk r) : OutOk (finishSel s c r) := by
  unfold finishSel
  split
  · exact memoryOk_of_eq hr (onCore_hbm ..)
  · exact outOk_finish h c hr

theorem srcOk_readSpecial (s : State) (c slot n : ℕ) : SrcOk (readSpecial s c slot n) := by
  unfold readSpecial
  extract_lets x
  split
  iterate 6 trivial
  · split <;> trivial
  iterate 3 trivial

theorem srcOk_readG (x : Core) (slot r : ℕ) (trapping : Bool) : SrcOk (readG x slot r trapping) := by
  unfold readG
  grind [ResOk, SrcOk]

theorem srcOk_readS (s : State) (c slot k : ℕ) : SrcOk (readS s c slot k) := by
  unfold readS
  grind [ResOk, SrcOk]

theorem srcOk_readSource (s : State) (c slot n : ℕ) : SrcOk (readSource s c slot n) := by
  unfold readSource
  grind [srcOk_readG, srcOk_readS, srcOk_readSpecial, SrcOk]

theorem srcOk_readMv (s : State) (c slot : ℕ) (m : MvSrc) : SrcOk (readMv s c slot m) := by
  cases m with
  | reg n => exact srcOk_readSource ..
  | imm v => trivial

theorem resOk_destVerdict {s : State} {c slot dst : ℕ} {r : Res} (hr : destVerdict s c slot dst = some r) : ResOk r := by
  unfold destVerdict at hr
  grind [ResOk]

theorem outOk_moveStep {s : State} (h : MemoryOk s) (c slot : ℕ) (m : MvSrc) (dst : ℕ) : OutOk (moveStep s c slot m dst) := by
  unfold moveStep
  split
  · exact memoryOk_takeTrap h ..
  have hm := srcOk_readMv s c slot m
  split
  · exact memoryOk_takeTrap h ..
  · rename_i e
    exact outOk_finish h c (e ▸ hm :)
  · rename_i v _
    split
    · rename_i e
      exact outOk_finish h c (resOk_destVerdict e)
    · have hs := memoryOk_takeMv h c m
      extract_lets s'
      split
      · have hr := resOk_runTrig hs c slot dst false v
        split
        · rename_i e
          exact memoryOk_of_eq (e ▸ hr :) (onCore_hbm ..)
        · exact outOk_finish h c hr
      · exact memoryOk_writeDest hs ..

/-! ### Transitions whose guard is in their own body -/

theorem outOk_execCxlMemAccess {s : State} (h : MemoryOk s) (a : HostAcc) : OutOk (execCxlMemAccess a s) := by
  unfold execCxlMemAccess
  grind [memoryOk_hostMem, OutOk]

theorem outOk_execPowerSample {s : State} (h : MemoryOk s) (watts : ℕ) (t0 t1 t2 t3 : ℕ) :
    OutOk (execPowerSample watts t0 t1 t2 t3 s) := by
  unfold execPowerSample
  grind [samplePower_hbm, OutOk]

theorem outOk_execLevelRaiseTick {s : State} (h : MemoryOk s) : OutOk (execLevelRaiseTick s) := by
  unfold execLevelRaiseTick
  grind [askLevels_hbm, OutOk]

theorem outOk_execLevelLowerTick {s : State} (h : MemoryOk s) : OutOk (execLevelLowerTick s) := by
  unfold execLevelLowerTick
  grind [askLevels_hbm, OutOk]

theorem outOk_execThermalFloorTick {s : State} (h : MemoryOk s) (die : ℕ) : OutOk (execThermalFloorTick die s) := by
  unfold execThermalFloorTick
  grind [setDie_hbm, OutOk]

theorem outOk_execNotifyGate {s : State} (h : MemoryOk s) : OutOk (execNotifyGate s) := by
  unfold execNotifyGate
  grind [OutOk]

theorem outOk_execNotifyUngate {s : State} (h : MemoryOk s) : OutOk (execNotifyUngate s) := by
  unfold execNotifyUngate
  grind [ungate_hbm, OutOk]

theorem outOk_execQueuePoll {s : State} (h : MemoryOk s) (q : ℕ) : OutOk (execQueuePoll q s) := by
  unfold execQueuePoll
  grind [memoryOk_pollQueue, OutOk]

theorem outOk_execRootCounterWaitEnd {s : State} (h : MemoryOk s) (k : ℕ) : OutOk (execRootCounterWaitEnd k s) := by
  unfold execRootCounterWaitEnd
  grind [submitReq_hbm, OutOk]

theorem outOk_execRequestEnterScoreboard {s : State} (h : MemoryOk s) (tag : ℕ) : OutOk (execRequestEnterScoreboard tag s) := by
  unfold execRequestEnterScoreboard
  grind [enterScore_hbm, OutOk]

theorem outOk_execRequestRetire {s : State} (h : MemoryOk s) (tag : ℕ) : OutOk (execRequestRetire tag s) := by
  unfold execRequestRetire
  grind [memoryOk_writeRecord, OutOk]

theorem outOk_execPinCreate {s : State} (h : MemoryOk s) (tag : ℕ) : OutOk (execPinCreate tag s) := by
  unfold execPinCreate
  grind [memoryOk_refusePin, dispPlaced_hbm, tookTurn_hbm, makePin_hbm, topCare_hbm, OutOk]

theorem outOk_execPinRelease {s : State} (h : MemoryOk s) (tag : ℕ) : OutOk (execPinRelease tag s) := by
  unfold execPinRelease
  grind [memoryOk_refusePin, setReq_hbm, OutOk]

theorem outOk_execClassAging {s : State} (h : MemoryOk s) (die : ℕ) (tag : ℕ) : OutOk (execClassAging die tag s) := by
  unfold execClassAging
  grind [setReq_hbm, OutOk]

theorem outOk_execTeamPlacement {s : State} (h : MemoryOk s) (die : ℕ) : OutOk (execTeamPlacement die s) := by
  unfold execTeamPlacement
  grind [topCare_hbm, startMove_hbm, placeNext_hbm, OutOk]

theorem outOk_execPartitionMoveComplete {s : State} (h : MemoryOk s) (pin : ℕ) : OutOk (execPartitionMoveComplete pin s) := by
  unfold execPartitionMoveComplete
  grind [setCore_hbm, memoryOk_remoteKick, setPin_hbm, foldl_hbm, OutOk]

theorem outOk_execFillParkTimeout {s : State} (h : MemoryOk s) (team : ℕ) : OutOk (execFillParkTimeout team s) := by
  unfold execFillParkTimeout
  grind [unplace_hbm, OutOk]

theorem outOk_execTeamFirstIssue {s : State} (h : MemoryOk s) (team : ℕ) : OutOk (execTeamFirstIssue team s) := by
  unfold execTeamFirstIssue
  grind [startTeam_hbm, OutOk]

theorem outOk_execGangStart {s : State} (h : MemoryOk s) (tag : ℕ) : OutOk (execGangStart tag s) := by
  unfold execGangStart
  grind [startTeam_hbm, foldl_hbm, OutOk]

theorem outOk_execCountdownExpiry {s : State} (h : MemoryOk s) (core : ℕ) : OutOk (execCountdownExpiry core s) := by
  unfold execCountdownExpiry
  grind [memoryOk_forceStrand, OutOk]

theorem outOk_execParkSwitch {s : State} (h : MemoryOk s) (team : ℕ) : OutOk (execParkSwitch team s) := by
  unfold execParkSwitch
  grind [memoryOk_switchOut, memoryOk_foldl, OutOk]

theorem outOk_execTeamSave {s : State} (h : MemoryOk s) (team : ℕ) : OutOk (execTeamSave team s) := by
  unfold execTeamSave
  grind [memoryOk_saveTeam, OutOk]

theorem outOk_execTeamReady {s : State} (h : MemoryOk s) (team : ℕ) : OutOk (execTeamReady team s) := by
  unfold execTeamReady
  grind [memoryOk_stayHome, makeReady_hbm, memoryOk_foldl, OutOk]

theorem outOk_execTeamRestore {s : State} (h : MemoryOk s) (team : ℕ) : OutOk (execTeamRestore team s) := by
  unfold execTeamRestore
  grind [memoryOk_restoreTeam, OutOk]

theorem outOk_execBundleIssue {s : State} (h : MemoryOk s) (core : ℕ) : OutOk (execBundleIssue core s) := by
  unfold execBundleIssue
  grind [beginPulse_hbm, memoryOk_takePulse, OutOk]

theorem outOk_execMove {s : State} (h : MemoryOk s) (core : ℕ) (slot : ℕ) (src : BitVec 9) (dst : BitVec 10) :
    OutOk (execMove core slot src dst s) := by
  unfold execMove
  split
  · exact h
  · exact outOk_moveStep h ..

theorem outOk_execConditionTree {s : State} (h : MemoryOk s) (core : ℕ) (h' : BitVec 24) (x : BitVec 24) :
    OutOk (execConditionTree core h' x s) := by
  unfold execConditionTree
  grind [memoryOk_takeTrap, onCore_hbm, OutOk]

theorem outOk_execPeerAccessPerform {s : State} (h : MemoryOk s) (core : ℕ) (id : ℕ) :
    OutOk (execPeerAccessPerform core id s) := by
  unfold execPeerAccessPerform
  grind [memoryOk_performPeer, memoryOk_settle, OutOk]

theorem outOk_execRldDeadline {s : State} (h : MemoryOk s) (core : ℕ) : OutOk (execRldDeadline core s) := by
  unfold execRldDeadline
  grind [memoryOk_passInIssue, OutOk]

theorem outOk_execFabtimeout {s : State} (h : MemoryOk s) (core : ℕ) (id : ℕ) : OutOk (execFabtimeout core id s) := by
  unfold execFabtimeout
  grind [memoryOk_failRemote, OutOk]

theorem outOk_execFabricPortDown {s : State} (h : MemoryOk s) (port : ℕ) : OutOk (execFabricPortDown port s) := by
  unfold execFabricPortDown
  grind [setPorts_hbm, OutOk]

theorem outOk_execLoadRequest {s : State} (h : MemoryOk s) (a : Arrival) : OutOk (execLoadRequest a s) := by
  unfold execLoadRequest
  grind [memoryOk_arriveReq, memoryOk_remoteArrive, OutOk]

theorem outOk_execStoreRequest {s : State} (h : MemoryOk s) (a : Arrival) : OutOk (execStoreRequest a s) := by
  unfold execStoreRequest
  grind [memoryOk_arriveReq, memoryOk_remoteArrive, OutOk]

theorem outOk_execAddRequest {s : State} (h : MemoryOk s) (a : Arrival) : OutOk (execAddRequest a s) := by
  unfold execAddRequest
  grind [memoryOk_arriveReq, memoryOk_remoteArrive, OutOk]

theorem outOk_execBarrierArrival {s : State} (h : MemoryOk s) (a : Arrival) : OutOk (execBarrierArrival a s) := by
  unfold execBarrierArrival
  grind [memoryOk_arriveReq, memoryOk_unlessMal, memoryOk_barrierPacket, OutOk]

theorem outOk_execLinkRow {s : State} (h : MemoryOk s) (a : Arrival) : OutOk (execLinkRow a s) := by
  unfold execLinkRow
  grind [memoryOk_arriveReq, memoryOk_rowArrive, OutOk]

theorem outOk_execConnect {s : State} (h : MemoryOk s) (a : Arrival) : OutOk (execConnect a s) := by
  unfold execConnect
  grind [memoryOk_arriveReq, memoryOk_unlessMal, memoryOk_connectArrive, OutOk]

theorem outOk_execCredit {s : State} (h : MemoryOk s) (a : Arrival) : OutOk (execCredit a s) := by
  unfold execCredit
  grind [memoryOk_arrive, memoryOk_creditArrive, OutOk]

theorem outOk_execReply {s : State} (h : MemoryOk s) (a : Arrival) : OutOk (execReply a s) := by
  unfold execReply
  grind [memoryOk_arrive, memoryOk_fullerAnswer, dropPacket_hbm, memoryOk_loadAnswer, OutOk]

theorem outOk_execAcknowledgement {s : State} (h : MemoryOk s) (a : Arrival) : OutOk (execAcknowledgement a s) := by
  unfold execAcknowledgement
  grind [memoryOk_arrive, memoryOk_fullerAnswer, onCore_hbm, ackContrib_hbm, dropPacket_hbm, OutOk]

theorem outOk_execParkNotice {s : State} (h : MemoryOk s) (a : Arrival) : OutOk (execParkNotice a s) := by
  unfold execParkNotice
  grind [memoryOk_arrive, holdFlight_hbm, dropPacket_hbm, onCore_hbm, OutOk]

theorem outOk_execErrorResponse {s : State} (h : MemoryOk s) (a : Arrival) : OutOk (execErrorResponse a s) := by
  unfold execErrorResponse
  grind [memoryOk_arrive, memoryOk_fullerAnswer, memoryOk_failRemote, memoryOk_connectFail, dropPacket_hbm, OutOk]

theorem outOk_execContribution {s : State} (h : MemoryOk s) (a : Arrival) : OutOk (execContribution a s) := by
  unfold execContribution
  grind [memoryOk_arriveGrp, memoryOk_unlessMal, memoryOk_contribArrive, OutOk]

theorem outOk_execWithdrawal {s : State} (h : MemoryOk s) (a : Arrival) : OutOk (execWithdrawal a s) := by
  unfold execWithdrawal
  grind [memoryOk_arriveGrp, memoryOk_unlessMal, memoryOk_withdrawArrive, OutOk]

theorem outOk_execGroupSetPacket {s : State} (h : MemoryOk s) (a : Arrival) : OutOk (execGroupSetPacket a s) := by
  unfold execGroupSetPacket
  grind [memoryOk_arriveGrp, memoryOk_unlessMal, memoryOk_grpsetArrive, OutOk]

theorem outOk_execGroupClearPacket {s : State} (h : MemoryOk s) (a : Arrival) : OutOk (execGroupClearPacket a s) := by
  unfold execGroupClearPacket
  grind [memoryOk_arriveGrp, memoryOk_unlessMal, memoryOk_grpclrArrive, OutOk]

theorem outOk_execGroupRetirePacket {s : State} (h : MemoryOk s) (a : Arrival) : OutOk (execGroupRetirePacket a s) := by
  unfold execGroupRetirePacket
  grind [memoryOk_arriveGrp, memoryOk_unlessMal, memoryOk_grpretireArrive, OutOk]

theorem outOk_execGroupTimeout {s : State} (h : MemoryOk s) (grp : ℕ) : OutOk (execGroupTimeout grp s) := by
  unfold execGroupTimeout
  grind [memoryOk_resumeGroup, memoryOk_endGen, OutOk]

theorem outOk_execCompletionNotice {s : State} (h : MemoryOk s) (a : Arrival) : OutOk (execCompletionNotice a s) := by
  unfold execCompletionNotice
  grind [memoryOk_arriveReq, noticeArrive_hbm, OutOk]

theorem outOk_execXpermData {s : State} (h : MemoryOk s) (a : Arrival) : OutOk (execXpermData a s) := by
  unfold execXpermData
  grind [memoryOk_arriveReq, memoryOk_remoteArrive, OutOk]

theorem outOk_execXpermTimeout {s : State} (h : MemoryOk s) (k : ℕ) : OutOk (execXpermTimeout k s) := by
  unfold execXpermTimeout
  grind [memoryOk_xpermLost, OutOk]

theorem outOk_execCuCkpt {s : State} (h : MemoryOk s) (t : Trig) : OutOk (execCuCkpt t s) := by
  have hr : ResOk (opCuCkpt t s) := memoryOk_of_eq h (release_hbm ..)
  unfold execCuCkpt
  split
  · rename_i e
    exact memoryOk_of_eq (e ▸ hr :) (onCore_hbm ..)
  · exact outOk_finish h _ hr

theorem outOk_execCuExit {s : State} (h : MemoryOk s) (t : Trig) : OutOk (execCuExit t s) := by
  have hr := resOk_opCuExit h t
  unfold execCuExit
  split
  · rename_i e
    exact memoryOk_strandExit (e ▸ hr :) _
  · exact outOk_finish h _ hr

theorem outOk_execCuHalt {s : State} (h : MemoryOk s) (t : Trig) : OutOk (execCuHalt t s) := by
  have hr := resOk_opCuHalt h t
  unfold execCuHalt
  split
  · rename_i e
    exact memoryOk_haltTeam (e ▸ hr :) ..
  · exact outOk_finish h _ hr

theorem outOk_execSyRte {s : State} (h : MemoryOk s) (t : Trig) : OutOk (execSyRte t s) := by
  have hr := resOk_opSyRte h t
  unfold execSyRte
  split
  · rename_i e
    exact memoryOk_of_eq (e ▸ hr :) (onCore_hbm ..)
  · exact outOk_finish h _ hr

theorem outOk_execExpertFetchFail {s : State} (h : MemoryOk s) (e : ℕ) : OutOk (execExpertFetchFail e s) := by
  unfold execExpertFetchFail
  grind [memoryOk_pollDrive, memoryOk_failFetch, OutOk]

theorem outOk_execExpertFetchTimeout {s : State} (h : MemoryOk s) (e : ℕ) : OutOk (execExpertFetchTimeout e s) := by
  unfold execExpertFetchTimeout
  grind [memoryOk_failFetch, OutOk]

theorem outOk_execFabricPortTrained {s : State} (h : MemoryOk s) (port : ℕ) : OutOk (execFabricPortTrained port s) := by
  unfold execFabricPortTrained
  grind [setPorts_hbm, OutOk]

/-! ### Every transition -/

theorem outOk_exec {s : State} (h : MemoryOk s) (i : Instr) : OutOk (exec i s) := by
  cases i with
  | coldReset => exact memoryOk_resetCold _
  | recoveryImage => exact memoryOk_of_eq h (recover_hbm ..)
  | linkReset | ldpk | ldi | shin | lerantMov | lerantAdd | lerantSub | lerantAnd | lerantOr | ext | addi | bz | bnz | beq |
  bltu | rep | setf | lerantTime | mxNop | divideReply | hostPortTrained | iaAdd | iaSub | iaAnd | iaOr | iaXor | iaAndn | iaShl
  | iaShr | iaSar | iaRol | iaMin | iaMax | iaMinu | iaMaxu | iaNeg | iaAbs | iaClz | iaCtz | iaPopc | iaSxt | iaSel | imMul |
  imMulh | imMulhu | imMulhsu | bpPadd | bpPsub | bpPdiff | bpPwset | bpPcset | bpPbyte | bpPfrom | lsTset | lsTget | vxSel |
  vxAnd | vxOr | vcMerge | cuJump | cuCall => exact h
  | configRequest => exact memoryOk_of_eq h (config_hbm ..)
  | bar0Access => exact memoryOk_bar0 h ..
  | bar2Access => exact memoryOk_hostMem h ..
  | bar4Access => exact memoryOk_bar4 h ..
  | cxlMemAccess => exact outOk_execCxlMemAccess h ..
  | powerSample => exact outOk_execPowerSample h ..
  | levelRaiseTick => exact outOk_execLevelRaiseTick h ..
  | levelLowerTick => exact outOk_execLevelLowerTick h ..
  | thermalFloorTick => exact outOk_execThermalFloorTick h ..
  | thermtrip => exact memoryOk_trip h ..
  | notifyGate => exact outOk_execNotifyGate h ..
  | notifyUngate => exact outOk_execNotifyUngate h ..
  | registerWrite | qdStateRunning | qdStateHalted | qdStateUnmapped | qd1Write | qd3Write | programStoreWrite | fePctlCheck |
  fePctlRelease | clrlost | xlInvEntry | xlInvContext | xlInvAll | mtuResolveRetry | mtuResolveRefuse | xrCtlLoad | notifyWake |
  barrierNeedWrite | barrierArrive => exact memoryOk_agentWrite h ..
  | invalidationComplete => exact memoryOk_of_eq h (endInval_hbm ..)
  | queuePoll => exact outOk_execQueuePoll h ..
  | packetRun => exact memoryOk_packetRun h ..
  | rootCounterWaitEnd => exact outOk_execRootCounterWaitEnd h ..
  | lerantHalt => exact memoryOk_of_eq h (feHalt_hbm ..)
  | ldsc => exact memoryOk_of_eq h (feLdsc_hbm ..)
  | stsc => exact memoryOk_of_eq h (feStsc_hbm ..)
  | ldpa => exact memoryOk_feLdpa h ..
  | emitLaunch => exact memoryOk_feEmitLaunch h ..
  | emitTransfer => exact memoryOk_feEmitTransfer h ..
  | emitPinControl => exact memoryOk_feEmitPin h ..
  | emitResynchronise => exact memoryOk_feEmitResync h ..
  | emitAttest => exact memoryOk_feEmitAttest h ..
  | emitCommitMinVersion => exact memoryOk_feEmitCommit h ..
  | lerantRej => exact memoryOk_feRej h ..
  | lerantStop => exact memoryOk_feStop h ..
  | requestEnterScoreboard => exact outOk_execRequestEnterScoreboard h ..
  | requestRetire => exact outOk_execRequestRetire h ..
  | transferRun => exact memoryOk_xferStep h ..
  | pinCreate => exact outOk_execPinCreate h ..
  | pinRelease => exact outOk_execPinRelease h ..
  | classAging => exact outOk_execClassAging h ..
  | teamPlacement => exact outOk_execTeamPlacement h ..
  | partitionMoveComplete => exact outOk_execPartitionMoveComplete h ..
  | inputStreamFill => exact memoryOk_fillStep h ..
  | fillParkTimeout => exact outOk_execFillParkTimeout h ..
  | teamFirstIssue => exact outOk_execTeamFirstIssue h ..
  | gangStart => exact outOk_execGangStart h ..
  | segmentCopyComplete => exact memoryOk_copyStep h ..
  | countdownExpiry => exact outOk_execCountdownExpiry h ..
  | parkSwitch => exact outOk_execParkSwitch h ..
  | teamSave => exact outOk_execTeamSave h ..
  | teamReady => exact outOk_execTeamReady h ..
  | teamRestore => exact outOk_execTeamRestore h ..
  | bundleIssue => exact outOk_execBundleIssue h ..
  | move => exact outOk_execMove h ..
  | immediateMove => exact outOk_moveStep h ..
  | conditionTree => exact outOk_execConditionTree h ..
  | mxPush | mxShift | mxAcc => exact outOk_finish h _ (resOk_readBeat h ..)
  | mxDrain | mxDrainz => exact outOk_finish h _ (resOk_drainBeat h ..)
  | iaCmpeq | iaCmpne | iaCmplt | iaCmple | iaCmpltu | iaCmpleu | iaTst | bpPchk | bpPmal =>
    exact outOk_finish h _ (resOk_condWrite h ..)
  | imDiv | imDivu | imRem | imRemu => exact outOk_finish h _ (resOk_opDivide h ..)
  | bpElget | bpElsgn | bpElins => exact outOk_finish h _ (resOk_bpElem _ _ _ fun _ _ => h)
  | lsLd | lsLds => exact outOk_finish h _ (resOk_lsLoad h ..)
  | lsSt => exact outOk_finish h _ (resOk_opLsSt h _)
  | lsLdv => exact outOk_finish h _ (resOk_opLsLdv h _)
  | lsStv => exact outOk_finish h _ (resOk_opLsStv h _)
  | lsLdpr | lsLdprs => exact outOk_finish h _ (resOk_lsLoadPeer h ..)
  | lsStm => exact outOk_finish h _ (resOk_opLsStm h _)
  | lsTlook => exact outOk_finish h _ (resOk_opLsTlook h _)
  | lsTclr => exact outOk_finish h _ (resOk_opLsTclr h _)
  | lsTscout => exact outOk_finish h _ (resOk_opLsTscout h _)
  | lsSwap => exact outOk_finish h _ (resOk_opLsSwap h _)
  | lsBor => exact outOk_finish h _ (resOk_opLsBor h _)
  | lsZero => exact outOk_finish h _ (resOk_opLsZero h _)
  | peerAccessPerform => exact outOk_execPeerAccessPerform h ..
  | gmLd | gmLds => exact outOk_finish h _ (resOk_gmLoad h ..)
  | gmSt => exact outOk_finish h _ (resOk_opGmSt h _)
  | gmCas | gmSwap | gmAdd | gmMin | gmMax | gmMinu | gmMaxu | gmAnd | gmOr | gmXor | gmIncb =>
    exact outOk_finish h _ (resOk_gmAtomic h ..)
  | gmFadd => exact outOk_finish h _ (resOk_opGmFadd h _)
  | gmPref => exact outOk_finish h _ (resOk_opGmPref h _)
  | gmDrd => exact outOk_finish h _ (resOk_opGmDrd h _)
  | gmDwr => exact outOk_finish h _ (resOk_opGmDwr h _)
  | longLatencyReply => exact memoryOk_stepAcc h ..
  | withheldEntrySend => exact memoryOk_sendEntry h ..
  | faultRecordWrite => exact memoryOk_writeFault h ..
  | rmRld => exact outOk_finish h _ (resOk_opRmRld h _)
  | rmRst => exact outOk_finish h _ (resOk_opRmRst h _)
  | rmRred => exact outOk_finish h _ (resOk_opRmRred h _)
  | rmMcast => exact outOk_finish h _ (resOk_opRmMcast h _)
  | rmXsig => exact outOk_finish h _ (resOk_opRmXsig h _)
  | rmBar => exact outOk_finish h _ (resOk_opRmBar h _)
  | rmGrpset => exact outOk_finish h _ (resOk_opRmGrpset h _)
  | rmGrpclr => exact outOk_finish h _ (resOk_opRmGrpclr h _)
  | rmGrpretire => exact outOk_finish h _ (resOk_opRmGrpretire h _)
  | rmXperm => exact outOk_finish h _ (resOk_opRmXperm h _)
  | rmLqbind => exact outOk_finish h _ (resOk_opRmLqbind h _)
  | rmLqfree => exact outOk_finish h _ (resOk_opRmLqfree h _)
  | rldDeadline => exact outOk_execRldDeadline h ..
  | fabtimeout => exact outOk_execFabtimeout h ..
  | fabricPortDown => exact outOk_execFabricPortDown h ..
  | packetForward => exact memoryOk_forward h ..
  | loadRequest => exact outOk_execLoadRequest h ..
  | storeRequest => exact outOk_execStoreRequest h ..
  | addRequest => exact outOk_execAddRequest h ..
  | barrierArrival => exact outOk_execBarrierArrival h ..
  | linkRow => exact outOk_execLinkRow h ..
  | connect => exact outOk_execConnect h ..
  | credit => exact outOk_execCredit h ..
  | linkRowSend => exact memoryOk_of_eq h (lqSend_hbm ..)
  | reply => exact outOk_execReply h ..
  | acknowledgement => exact outOk_execAcknowledgement h ..
  | parkNotice => exact outOk_execParkNotice h ..
  | errorResponse => exact outOk_execErrorResponse h ..
  | contribution => exact outOk_execContribution h ..
  | withdrawal => exact outOk_execWithdrawal h ..
  | groupSetPacket => exact outOk_execGroupSetPacket h ..
  | groupClearPacket => exact outOk_execGroupClearPacket h ..
  | groupRetirePacket => exact outOk_execGroupRetirePacket h ..
  | groupTimeout => exact outOk_execGroupTimeout h ..
  | completionNotice => exact outOk_execCompletionNotice h ..
  | xpermData => exact outOk_execXpermData h ..
  | xpermCopy => exact memoryOk_xpermStep h ..
  | xpermTimeout => exact outOk_execXpermTimeout h ..
  | seSbind => exact outOk_finish h _ (resOk_opSeSbind h _)
  | seSgrp => exact outOk_finish h _ (resOk_opSeSgrp h _)
  | seSstart => exact outOk_finish h _ (resOk_opSeSstart h _)
  | seSstop => exact outOk_finish h _ (resOk_opSeSstop h _)
  | seSseek => exact outOk_finish h _ (resOk_opSeSseek h _)
  | seSstat => exact outOk_finish h _ (resOk_opSeSstat h _)
  | seSflush => exact outOk_finish h _ (resOk_opSeSflush h _)
  | seSskip => exact outOk_finish h _ (resOk_opSeSskip h _)
  | seSfree => exact outOk_finish h _ (resOk_opSeSfree h _)
  | seSwait => exact outOk_finish h _ (resOk_opSeSwait h _)
  | streamReadIssue => exact memoryOk_streamRead h ..
  | streamItemArrival => exact memoryOk_itemArrive h ..
  | streamOutputWrite => exact memoryOk_streamWrite h ..
  | vxFadd | vxFsub | vxFmul | vxFma | vxFmin | vxFmax | vxFabs | vxFneg | vxExp2 | vxRcp | vxRsq | vxIadd | vxIsub | vxImul =>
    exact outOk_finish h _ (resOk_vxOp h ..)
  | vxCmpeq | vxCmplt | vxCmple => exact outOk_finish h _ (resOk_vxCmp h ..)
  | vcCvt => exact outOk_finish h _ (resOk_opVcCvt h _)
  | vcPack => exact outOk_finish h _ (resOk_opVcPack h _)
  | vcPacks => exact outOk_finish h _ (resOk_opVcPacks h _)
  | vcUnpk => exact outOk_finish h _ (resOk_opVcUnpk h _)
  | vcRsum => exact outOk_finish h _ (resOk_opVcRsum h _)
  | vcRmax | vcRmin => exact outOk_finish h _ (resOk_vcExtreme h ..)
  | vcShuf => exact outOk_finish h _ (resOk_opVcShuf h _)
  | vcBcast => exact outOk_finish h _ (resOk_opVcBcast h _)
  | vcRot => exact outOk_finish h _ (resOk_opVcRot h _)
  | vcZip => exact outOk_finish h _ (resOk_opVcZip h _)
  | vcUnzip => exact outOk_finish h _ (resOk_opVcUnzip h _)
  | vcLane => exact outOk_finish h _ (resOk_opVcLane h _)
  | mxMdset => exact outOk_finish h _ (resOk_opMxMdset h _)
  | mxFmtset => exact outOk_finish h _ (resOk_opMxFmtset h _)
  | mxFmtget => exact outOk_finish h _ (resOk_opMxFmtget h _)
  | mxFmtlvl => exact outOk_finish h _ (resOk_opMxFmtlvl h _)
  | mxOvpop => exact outOk_finish h _ (resOk_opMxOvpop h _)
  | mxOvstat => exact outOk_finish h _ (resOk_opMxOvstat h _)
  | mxMxsave => exact outOk_finish h _ (resOk_opMxMxsave h _)
  | mxMxload => exact outOk_finish h _ (resOk_opMxMxload h _)
  | mxAcczero => exact outOk_finish h _ (resOk_opMxAcczero h _)
  | mxWzero => exact outOk_finish h _ (resOk_opMxWzero h _)
  | cuLoop => exact outOk_finishSel h _ (resOk_opCuLoop h _)
  | cuRet => exact outOk_finishSel h _ (resOk_opCuRet h _)
  | cuCkpt => exact outOk_execCuCkpt h ..
  | cuYield => exact outOk_finish h _ (resOk_opCuYield h _)
  | cuSpawn => exact outOk_finish h _ (resOk_opCuSpawn h _)
  | cuExit => exact outOk_execCuExit h ..
  | cuSegnext => exact outOk_finish h _ (resOk_opCuSegnext h _)
  | cuHalt => exact outOk_execCuHalt h ..
  | cuFence => exact outOk_finish h _ (resOk_opCuFence h _)
  | cuLpop => exact outOk_finish h _ (resOk_opCuLpop h _)
  | syNwait => exact outOk_finish h _ (resOk_opSyNwait h _)
  | syNread => exact outOk_finish h _ (resOk_opSyNread h _)
  | syNclr => exact outOk_finish h _ (resOk_opSyNclr h _)
  | syNsig => exact outOk_finish h _ (resOk_opSyNsig h _)
  | syHbar => exact outOk_finish h _ (resOk_opSyHbar h _)
  | syHbwait => exact outOk_finish h _ (resOk_opSyHbwait h _)
  | syRte => exact outOk_execSyRte h ..
  | syTinfo => exact outOk_finish h _ (resOk_opSyTinfo h _)
  | sySrd => exact outOk_finish h _ (resOk_opSySrd h _)
  | sySwr => exact outOk_finish h _ (resOk_opSySwr h _)
  | xpTopk | xpWalk => exact outOk_finish h _ (resOk_descriptorCmd h ..)
  | xpPageFetch | xpPageLock | xpPageEvict | xpResarmRetry | xpResarmDrop => exact outOk_finish h _ (resOk_pageCmd h ..)
  | xpPageUnlock => exact outOk_finish h _ (resOk_opXpPageUnlock h _)
  | xpResq => exact outOk_finish h _ (resOk_opXpResq h _)
  | xpBias => exact outOk_finish h _ (resOk_opXpBias h _)
  | xpCommandAccept => exact memoryOk_acceptCmd h ..
  | walkResume => exact memoryOk_kickDie h ..
  | expertFetchComplete => exact memoryOk_fetchStep h ..
  | expertFetchFail => exact outOk_execExpertFetchFail h ..
  | expertFetchTimeout => exact outOk_execExpertFetchTimeout h ..
  | fabricPortTrained => exact outOk_execFabricPortTrained h ..
  | programCheckComplete => exact memoryOk_of_eq h (endCheck_hbm ..)

theorem nextTurn_hbm (s : State) : (nextTurn s).2.hbm = s.hbm := by
  unfold nextTurn
  split <;> rfl

theorem outOk_runInstr {s : State} (h : MemoryOk s) (i : Instr) : OutOk (runInstr i s) := by
  unfold runInstr
  split
  · exact outOk_exec h i
  · trivial

theorem outOk_runBytecode {s : State} (h : MemoryOk s) (k : ℕ) : OutOk (runBytecode k s) := by
  unfold runBytecode
  extract_lets t
  have ht : MemoryOk t := h
  split
  · split
    · exact outOk_exec ht _
    · trivial
  · exact h

theorem outOk_step {s : State} (h : MemoryOk s) : OutOk (step s) := by
  have hn := memoryOk_of_eq h (nextTurn_hbm s)
  unfold step
  split <;> rename_i e <;> rw [e] at hn
  · exact outOk_runInstr hn _
  · exact outOk_runBytecode hn _
  · exact memoryOk_pulse hn
  · exact memoryOk_nano hn

/-- Settles O60: every function that changes the state keeps the canonical form of memory. -/
theorem stepKeepsMemoryCanonical : Obligations.StepKeepsMemoryCanonical := by
  intro s u h e
  have hs := outOk_step h
  rwa [e] at hs

/-- Settles O2. -/
theorem resetMemoryCanonical : Obligations.ResetMemoryCanonical := rfl

end Sys2Proof.Proofs
end

section
/-!
PROOFS. Invalidations of cached translations, and the records of the fault queue:
how firmware starts, ends and resolves them (O40).
-/
namespace Sys2Proof.Proofs

open Sys2Proof.Machine Sys2Proof.Laws Sys2Proof.Stmt

section
variable {s : State} {ag : Agent} {m i : Nat}

/-! ### Invalidations (R122, R127) -/

theorem flag_eq_fld {n : Nat} (v : BitVec n) (k : Nat) : flag v k = decide (fld v k k = 1) := by
  simp [flag, fld, bits, BitVec.getLsbD, Nat.testBit_eq_decide_div_mod_eq, Nat.shiftRight_eq_div_pow]

/-- The words that the three invalidations write to XL_INV. -/
theorem fld_inval {op size : Nat} (hop : op < 4) (tgt : Bool) (hs : size < 4) :
    let v := wordN (op <<< 62 + b2n tgt <<< 61 + size <<< 59)
    fld v 63 62 = op ∧ flag v 61 = tgt ∧ fld v 60 59 = size := by
  have ht : b2n tgt < 2 := by cases tgt <;> decide
  have h1 (p : Prop) [Decidable p] : (decide p = tgt) = (decide p = decide (b2n tgt = 1)) := by cases tgt <;> rfl
  dsimp only
  rw [flag_eq_fld, h1]
  simp only [fld, bits, wordN, BitVec.toNat_ofNat, Nat.shiftRight_eq_div_pow, Nat.shiftLeft_eq, decide_eq_decide]
  omega

theorem writeInv_starts {op size : Nat} {tgt : Bool} (hop : op < 4) (h0 : op ≠ 0) (hs : size < 4)
    (hlegal : op ≠ 1 ∨ tgt = true ∨ size ≠ 3) (hinv : s.xl.inv = none) :
    writeInv s (wordN (op <<< 62 + b2n tgt <<< 61 + size <<< 59)) =
      .ok { s with xl := { s.xl with inv := some ⟨op, tgt, size, s.xl.invctx, s.xl.invaddr⟩ } } := by
  obtain ⟨eop, etgt, esize⟩ := fld_inval hop tgt hs
  rw [writeInv, eop, etgt, esize, hinv]
  refine legal_ok ?_ _
  simp [h0]
  tauto

theorem writeInv_busy (hinv : s.xl.inv ≠ none) (v : Word) : writeInv s v = .bad eResvwrite := by
  refine legal_bad ?_ _
  rw [Option.isNone_eq_false_iff.mpr (Option.isSome_iff_ne_none.mpr hinv)]
  rfl

theorem gives_inv_starts {v : Word} {u : State} (ha : ag = .root) (hr : agentRuns s ag = true) (hw : writeInv s v = .ok u) :
    Gives (.registerWrite ag 0xE0000000E00080 v) s u :=
  gives_of_writeDev_ok (.xl 2) hr (by decide) (off := 0xE00080) rfl ((needs_root ha _).trans hw)

theorem gives_inv_busy (ha : ag = .root) (hr : agentRuns s ag = true) (hinv : s.xl.inv ≠ none) (v : Word) :
    Gives (.registerWrite ag 0xE0000000E00080 v) s (logAgent s ag eResvwrite 0xE0000000E00080) :=
  gives_of_writeDev_bad (.xl 2) hr (by decide) (off := 0xE00080) rfl ((needs_root ha _).trans (writeInv_busy hinv v))

theorem gives_inv_perm (ha : ag ≠ .root) (hr : agentRuns s ag = true) (v : Word) :
    Gives (.registerWrite ag 0xE0000000E00080 v) s (logAgent s ag ePerm 0xE0000000E00080) :=
  gives_of_writeDev_bad (.xl 2) hr (by decide) (off := 0xE00080) rfl (needs_bad (asRoot_eq_false ha) _)

theorem endInval_waits {v : Inval} (hi : s.xl.inv = some v) (hw : viaWindow s (removesWin v) = true) : endInval s = s := by
  simp [endInval, hi, hw]

theorem endInval_ends {v : Inval} (hi : s.xl.inv = some v) (hw : viaWindow s (removesWin v) = false) : endInval s =
    { s with xl := { s.xl with inv := none, cache := s.xl.cache.filter (fun e => !removes v e) } } := by
  simp [endInval, hi, hw]

theorem endInval_idle (hi : s.xl.inv = none) : endInval s = s := by simp [endInval, hi]

end

theorem invalidations : Stmt.Invalidations := by
  intro s ag tgt size hsize hr start
  refine ⟨fun ha hinv => ⟨fun hl => ?entry, ?context, ?all⟩, fun e he => ⟨fun ha hinv => ?busy, fun ha => ?perm⟩,
    fun v hi hw => ?waits, fun v hi hw => ?ends, fun hi => ?idle⟩
  case entry => exact gives_inv_starts ha hr (writeInv_starts (by decide) (by decide) hsize (.inr hl) hinv)
  case context =>
    exact gives_inv_starts ha hr (writeInv_starts (op := 2) (size := 0) (tgt := false) (by decide) (by decide) (by decide)
      (.inl (by decide)) hinv)
  case all =>
    exact gives_inv_starts ha hr (writeInv_starts (op := 3) (size := 0) (tgt := false) (by decide) (by decide) (by decide)
      (.inl (by decide)) hinv)
  case busy =>
    simp only [List.mem_cons, List.not_mem_nil, or_false] at he
    rcases he with rfl | rfl | rfl
    · exact gives_inv_busy ha hr hinv _
    · exact gives_inv_busy ha hr hinv _
    · exact gives_inv_busy ha hr hinv _
  case perm =>
    simp only [List.mem_cons, List.not_mem_nil, or_false] at he
    rcases he with rfl | rfl | rfl
    · exact gives_inv_perm ha hr _
    · exact gives_inv_perm ha hr _
    · exact gives_inv_perm ha hr _
  case waits => exact congrArg Host.Outcome.next (endInval_waits hi hw)
  case ends => exact congrArg Host.Outcome.next (endInval_ends hi hw)
  case idle => exact congrArg Host.Outcome.next (endInval_idle hi)

/-! ### Accesses whose record is resolved -/

theorem echoLeft_id {id : Nat} {a b : Acc} (h : echoLeft id a = some b) : b.id = a.id := by
  unfold echoLeft at h
  grind

theorem mem_headFences {a : Acc} {as : List Acc} (h : a ∈ headFences as) : a ∈ as := by
  induction as with
  | nil => exact h
  | cons b bs ih =>
    unfold headFences at h
    split at h
    · exact List.mem_cons_of_mem b (ih h)
    · exact h

theorem mem_pruneFences {x : Core} {a : Acc} {as : List Acc} (h : a ∈ pruneFences x as) : a ∈ as := by
  unfold pruneFences at h
  split at h
  · exact h
  · exact mem_headFences h

/-- An access that is dropped is found no more. -/
theorem findAcc_dropAcc (x : Core) (id : Nat) : findAcc (dropAcc x id) id = none := by
  refine List.find?_eq_none.mpr fun a ha => ?_
  obtain ⟨b, hb, hba⟩ := List.mem_filterMap.mp (mem_pruneFences ha)
  rw [echoLeft_id hba]
  simpa using (List.mem_filter.mp hb).2

theorem findAcc_id {x : Core} {id : Nat} {a : Acc} (h : findAcc x id = some a) : a.id = id := by
  simpa using List.find?_some h

theorem landDup_accs (x : Core) (iss : Nat) (f : Dup → Dup) : (x.landDup iss f).accs = x.accs := by
  unfold Core.landDup
  dsimp only
  split <;> rfl

theorem landDup_dup (x : Core) (iss : Nat) (f : Dup → Dup) : (x.landDup iss f).dup = f x.dup := by
  unfold Core.landDup
  dsimp only
  split <;> rfl

/-- The reply of an access that has failed otherwise than by a bad sector poisons its register (R116). -/
theorem replyTo_fails {x : Core} {a : Acc} {code lo : Nat} (hd : a.dead = false) (he : a.err = some (code, lo)) (hc : code ≠ eEcc)
    (v : Word) : replyTo x a v = x.landDup a.iss (fun d => d.poisonG a.reg code) := by
  simp [replyTo, hd, he, hc]

section
variable {s : State} {c id k addr : Nat} {a : Acc} (hf : findAcc (s.core c) id = some a)
include hf

theorem refuseAcc_atomic {j f : Nat} (ho : a.op = .atomic j f) : refuseAcc s c id k addr =
    deliver (logAcc s c a eUnmapped addr) c { a with err := some (eUnmapped, addr) } 0 := by
  simp only [refuseAcc, hf, ho]

theorem refuseAcc_atomic_core {j f : Nat} (ho : a.op = .atomic j f) (hd : a.dead = false) :
    (refuseAcc s c id k addr).core c = (dropAcc (s.core c) id).landDup a.iss (fun d => d.poisonG a.reg eUnmapped) := by
  rw [refuseAcc_atomic hf ho, deliver, onCore_core_get, if_pos rfl,
    replyTo_fails (a := { a with err := some (eUnmapped, addr) }) hd rfl (by decide),
    findAcc_id hf, (show (logAcc s c a eUnmapped addr).core c = s.core c from (logged_logErr ..).core c)]

theorem retryAcc_load {sx : Bool} (ho : a.op = .ld sx) : retryAcc s c id k =
    performLd (s.onCore c (fun x => putAcc x { a with parked := a.parked.filter (· != k) })) c
      { a with parked := a.parked.filter (· != k) } k sx := by
  simp only [retryAcc, hf, ho]

end

theorem partDone_xl (s : State) (c : Nat) (a : Acc) (k : Nat) (v : Option Nat) (err : Option (Nat × Nat)) (sx : Bool) :
    (partDone s c a k v err sx).xl = s.xl := by
  unfold partDone loadDone
  dsimp only
  split_ifs <;> rfl

/-- A load performs where its address is mapped (R117): memory is as the translation leaves it, and so are the parks. -/
theorem performLd_mapped {s z : State} {c k q : Nat} {a : Acc} {sx : Bool} (hk : k < (sectors a.addr a.len).length)
    (ht : Machine.translate s a.ctx (sectorPart a.addr a.len ((sectors a.addr a.len).getD k 0)).1 gStrand 0 false = (z, .ok q))
    (hb : z.hbmBad = []) : (performLd s c a k sx).hbm = z.hbm ∧ (performLd s c a k sx).xl = z.xl := by
  rw [List.getD_eq_getElem _ _ hk] at ht
  simp only [performLd, List.getElem?_eq_getElem hk, ht, hb]
  exact ⟨partDone_hbm .., partDone_xl ..⟩

/-! ### Fault records (R119, R120, R128) -/

section
variable {s : State} {ag : Agent} {m i : Nat}

/-- The words that firmware writes to MTU_RESOLVE. -/
theorem fld_resolve {op : Nat} (hop : op < 4) (hi : i < 16384) :
    fld (wordN (op <<< 62 + i)) 63 62 = op ∧ fld (wordN (op <<< 62 + i)) 13 0 = i := by
  simp only [fld, bits, wordN, BitVec.toNat_ofNat, Nat.shiftRight_eq_div_pow, Nat.shiftLeft_eq]
  omega

theorem mtuAddr_resolve (m : Nat) : mtuAddr m 2 = 0xE0000000000000 + (0xD00080 + 0x10000 * m) := by
  rw [mtuAddr, devBase]
  omega

theorem writeResolve_retry (hi : i < 16384) (ho : isOpened s m i = true) :
    writeResolve s m (wordN (1 <<< 62 + i)) = .ok (resolveRecord s m i true) := by
  obtain ⟨eop, ei⟩ := fld_resolve (op := 1) (by decide) hi
  rw [writeResolve, eop, ei]
  exact legal_ok ho _

theorem writeResolve_refuse (hi : i < 16384) (ho : isOpened s m i = true) :
    writeResolve s m (wordN (2 <<< 62 + i)) = .ok (resolveRecord s m i false) := by
  obtain ⟨eop, ei⟩ := fld_resolve (op := 2) (by decide) hi
  rw [writeResolve, eop, ei]
  exact legal_ok ho _

theorem writeResolve_closed {op : Nat} (hop : op = 1 ∨ op = 2) (hi : i < 16384) (ho : isOpened s m i = false) :
    writeResolve s m (wordN (op <<< 62 + i)) = .bad eResvwrite := by
  obtain ⟨eop, ei⟩ := fld_resolve (op := op) (by omega) hi
  rw [writeResolve, eop, ei]
  rcases hop with rfl | rfl
  · exact legal_bad ho _
  · exact legal_bad ho _

section
variable (hm : m < 8) (hr : agentRuns s ag = true) {v : Word}
include hm hr

theorem gives_resolve {u : State} (ha : asFirmware ag = true) (hw : writeResolve s m v = .ok u) :
    Gives (.registerWrite ag (mtuAddr m 2) v) s u := by
  rw [mtuAddr_resolve]
  exact gives_of_writeDev_ok (.mtu m 2) hr ⟨hm, by decide⟩ (by simp only [devWord]; omega) ((needs_ok ha _).trans hw)

theorem gives_resolve_closed (ha : asFirmware ag = true) (hw : writeResolve s m v = .bad eResvwrite) :
    Gives (.registerWrite ag (mtuAddr m 2) v) s (logAgent s ag eResvwrite (0xE0000000D00080 + 0x10000 * m)) := by
  rw [mtuAddr_resolve, show 0xE0000000D00080 + 0x10000 * m = 0xE0000000000000 + (0xD00080 + 0x10000 * m) by omega]
  exact gives_of_writeDev_bad (.mtu m 2) hr ⟨hm, by decide⟩ (by simp only [devWord]; omega) ((needs_ok ha _).trans hw)

theorem gives_resolve_perm (ha : asFirmware ag = false) :
    Gives (.registerWrite ag (mtuAddr m 2) v) s (logAgent s ag ePerm (0xE0000000D00080 + 0x10000 * m)) := by
  rw [mtuAddr_resolve, show 0xE0000000D00080 + 0x10000 * m = 0xE0000000000000 + (0xD00080 + 0x10000 * m) by omega]
  exact gives_of_writeDev_bad (.mtu m 2) hr ⟨hm, by decide⟩ (by simp only [devWord]; omega) (needs_bad ha _)

end

theorem writeFault_none (h : s.xl.parks.find? (fun p => p.mtu == m && p.slot.isNone) = none) : writeFault s m = s := by
  simp [writeFault, h]

theorem writeFault_full (h : faultFull (s.mtu m) = true) : writeFault s m = s := by
  unfold writeFault
  grind

/-- A record takes the slot of the write pointer, with every park of its granule. -/
theorem writeFault_records {p : Park} (hp : s.xl.parks.find? (fun p => p.mtu == m && p.slot.isNone) = some p)
    (hf : faultFull (s.mtu m) = false) : (writeFault s m).mtu m = { s.mtu m with
      wp := ((s.mtu m).wp + 1) % 32768,
      opened := (s.mtu m).opened ++ [⟨(s.mtu m).wp % 16384, p.ctx, p.addr, p.g, p.time⟩] } ∧
    (writeFault s m).xl.parks =
      s.xl.parks.map (fun r => if joins m p r then { r with slot := some ((s.mtu m).wp % 16384) } else r) := by
  simp only [writeFault, hp, hf, Bool.false_eq_true, if_false, recordSlot]
  exact ⟨(setMtu_mtu_get ..).trans (if_pos rfl), by rw [setMtu_xl_parks, (touched_storePart ..).parks]⟩

end

theorem faultRecords : Stmt.FaultRecords := by
  intro s ag m i hm hi hr mine freed
  have hretry (ha : asFirmware ag = true) (ho : isOpened s m i = true) :
      Gives (.mtuResolveRetry ag m i) s (mine.foldl retryPark freed) := gives_resolve hm hr ha (writeResolve_retry hi ho)
  have hrefuse (ha : asFirmware ag = true) (ho : isOpened s m i = true) :
      Gives (.mtuResolveRefuse ag m i) s (mine.foldl refusePark freed) := gives_resolve hm hr ha (writeResolve_refuse hi ho)
  refine ⟨fun ha ho => ⟨hretry ha ho, hrefuse ha ho⟩, fun ha ho p c id k a idx f hmine hw hf hop hd => ?poisons,
    fun ha ho p c id k a hmine hw hf hop hk z q ht hb => ?loads, fun e he => ⟨fun ha ho => ?closed, fun ha => ?perm⟩,
    fun p hp hf => ?records, fun h => ?none⟩
  case poisons =>
    have hcore : (refusePark freed p).core c = (dropAcc (s.core c) id).landDup a.iss (fun d => d.poisonG a.reg eUnmapped) := by
      rw [refusePark, hw]
      exact refuseAcc_atomic_core (s := freed) hf hop hd
    refine ⟨_, hrefuse ha ho, ?_⟩
    rw [hmine]
    change ((((refusePark freed p).core c).dup.greg a.reg).st = _) ∧ findAcc ((refusePark freed p).core c) id = none
    rw [hcore, landDup_dup, findAcc, landDup_accs]
    exact ⟨by simp, findAcc_dropAcc (s.core c) id⟩
  case loads =>
    have hp : retryPark freed p = performLd (freed.onCore c (fun x => putAcc x { a with parked := a.parked.filter (· != k) })) c
        { a with parked := a.parked.filter (· != k) } k false := by
      rw [retryPark, hw]
      exact retryAcc_load (s := freed) hf hop
    obtain ⟨hhbm, hxl⟩ := performLd_mapped (a := { a with parked := a.parked.filter (· != k) }) (c := c) (sx := false) hk ht hb
    refine ⟨_, hretry ha ho, ?_⟩
    rw [hmine, List.foldl_cons, List.foldl_nil, hp, hxl]
    have htouch := touched_translate (freed.onCore c (fun x => putAcc x { a with parked := a.parked.filter (· != k) })) a.ctx
      (sectorPart a.addr a.len ((sectors a.addr a.len).getD k 0)).1 gStrand 0 false
    rw [ht] at htouch
    exact ⟨hhbm, htouch.parks⟩
  case closed =>
    simp only [List.mem_cons, List.not_mem_nil, or_false] at he
    rcases he with rfl | rfl
    · exact gives_resolve_closed hm hr ha (writeResolve_closed (.inl rfl) hi ho)
    · exact gives_resolve_closed hm hr ha (writeResolve_closed (.inr rfl) hi ho)
  case perm =>
    simp only [List.mem_cons, List.not_mem_nil, or_false] at he
    rcases he with rfl | rfl
    · exact gives_resolve_perm hm hr ha
    · exact gives_resolve_perm hm hr ha
  case records =>
    obtain ⟨hmtu, hparks⟩ := writeFault_records hp hf
    exact ⟨writeFault s m, rfl, by rw [hmtu], by rw [hmtu], hparks⟩
  case none =>
    exact congrArg Host.Outcome.next (h.elim writeFault_full writeFault_none)

/-- Settles O40. -/
theorem invalidationsAndFaults : Obligations.InvalidationsAndFaults := ⟨invalidations, faultRecords⟩

end Sys2Proof.Proofs
end

section
/-!
PROOFS. What lands in a core, and what is read again there, leaves the table of teams as it is (O51).
-/
namespace Sys2Proof.Proofs

open Sys2Proof.Machine Sys2Proof.Laws

theorem foldl_teams {α : Type} {f : State → α → State} (hf : ∀ s a, (f s a).fe.teams = s.fe.teams) (l : List α) (s : State) :
    (l.foldl f s).fe.teams = s.fe.teams := by
  induction l generalizing s with
  | nil => rfl
  | cons a l ih => exact (ih _).trans (hf s a)

theorem logErr_teams (s : State) (code a ctx kind num : Nat) (d : Word) :
    (logErr s code a ctx kind num d).fe.teams = s.fe.teams := by
  rw [(logged_logErr ..).eq]

theorem logCore_teams (s : State) (c code a : Nat) : (logCore s c code a).fe.teams = s.fe.teams := logErr_teams ..

@[simp] theorem dropParks_teams (s : State) (f : Who → Bool) : (dropParks s f).fe.teams = s.fe.teams := rfl

@[simp] theorem logWords_teams (s : State) (c : Nat) (ws : List Nat) : (logWords s c ws).fe.teams = s.fe.teams := by
  unfold logWords
  grind [logCore_teams, foldl_teams]

@[simp] theorem spStore_teams (s : State) (c o n v : Nat) : (spStore s c o n v).fe.teams = s.fe.teams := by
  unfold spStore
  simp

@[simp] theorem earlyOuts_teams (s : State) (c : Nat) : (earlyOuts s c).fe.teams = s.fe.teams := by
  unfold earlyOuts
  grind [spStore_teams, foldl_teams]

@[simp] theorem stmStore_teams (s : State) (c o : Nat) (v : Wide) (mask : Word) :
    (stmStore s c o v mask).fe.teams = s.fe.teams := by
  unfold stmStore
  simp

@[simp] theorem spWriteFx_teams (s : State) (c o len : Nat) (v : Wide) (ben : Option Word) :
    (spWriteFx s c o len v ben).fe.teams = s.fe.teams := by
  unfold spWriteFx
  grind [spStore_teams, stmStore_teams]

@[simp] theorem spLoad_teams (s : State) (c o n : Nat) : (spLoad s c o n).1.fe.teams = s.fe.teams := by
  unfold spLoad
  simp

@[simp] theorem ownLoad_teams (s : State) (c o n : Nat) : (ownLoad s c o n).1.fe.teams = s.fe.teams := by
  unfold ownLoad
  simp

@[simp] theorem spRmw_teams (s : State) (c o n : Nat) (f : Nat → Nat) : (spRmw s c o n f).1.fe.teams = s.fe.teams := by
  unfold spRmw
  simp

@[simp] theorem tagRead_teams (s : State) (c b i : Nat) : (tagRead s c b i).1.fe.teams = s.fe.teams := by
  unfold tagRead
  grind [logCore_teams]

@[simp] theorem tagLookup_teams (s : State) (c b key first n : Nat) : (tagLookup s c b key first n).1.fe.teams = s.fe.teams := by
  unfold tagLookup
  grind [tagRead_teams, foldl_teams]

@[simp] theorem tagWrite_teams (s : State) (c b i : Nat) (v : Word) : (tagWrite s c b i v).fe.teams = s.fe.teams := rfl

@[simp] theorem tagClear_teams (s : State) (c b i n : Nat) : (tagClear s c b i n).fe.teams = s.fe.teams := by
  induction n generalizing s i with
  | zero => rfl
  | succ n ih => rw [tagClear, ih, tagWrite_teams, tagRead_teams]

@[simp] theorem landLocal_teams (s : State) (c iss : Nat) (fx : Fx) : (landLocal s c iss fx).fe.teams = s.fe.teams := by
  cases fx <;> unfold landLocal <;> grind [spWriteFx_teams, ownLoad_teams, onCore_fe, spRmw_teams, tagLookup_teams, tagRead_teams,
    tagWrite_teams, tagClear_teams]

@[simp] theorem beatRead_teams (s : State) (c : Nat) (b : BeatSrc) : (beatRead s c b).1.fe.teams = s.fe.teams := by
  unfold beatRead
  grind [ownLoad_teams]

@[simp] theorem landArray_teams (s : State) (c iss : Nat) (fx : Fx) : (landArray s c iss fx).fe.teams = s.fe.teams := by
  cases fx <;> unfold landArray <;> grind [beatRead_teams, onCore_fe, spStore_teams, spLoad_teams]

@[simp] theorem freeReads_teams (s : State) (c k : Nat) : (freeReads s c k).fe.teams = s.fe.teams := rfl

@[simp] theorem chanFault_teams (s : State) (c k code : Nat) (v : Vec) (a : Nat) :
    (chanFault s c k code v a).fe.teams = s.fe.teams := by
  unfold chanFault
  grind [logErr_teams, onCore_fe]

@[simp] theorem itemFaulted_teams (s : State) (c k : Nat) (v : Vec) (code a : Nat) (logIt : Bool) :
    (itemFaulted s c k v code a logIt).fe.teams = s.fe.teams := by
  unfold itemFaulted
  grind [chanFault_teams, onCore_fe]

@[simp] theorem chanEcc_teams (s : State) (c k a : Nat) : (chanEcc s c k a).fe.teams = s.fe.teams := by
  unfold chanEcc
  grind [logErr_teams, onCore_fe]

@[simp] theorem chanEccWords_teams (s : State) (c k : Nat) (ws : List Nat) : (chanEccWords s c k ws).fe.teams = s.fe.teams := by
  unfold chanEccWords
  grind [chanEcc_teams]

@[simp] theorem readSpadItem_teams (s : State) (c k : Nat) : (readSpadItem s c k).fe.teams = s.fe.teams := by
  unfold readSpadItem
  grind [onCore_fe, itemFaulted_teams, chanEccWords_teams]

@[simp] theorem startRead_teams (s : State) (c k : Nat) : (startRead s c k).fe.teams = s.fe.teams := by
  unfold startRead
  grind [readSpadItem_teams]

@[simp] theorem seApply_teams (s : State) (c iss op k : Nat) (y a : Word) (desc : BitVec 512) (place : Nat) :
    (seApply s c iss op k y a desc place).fe.teams = s.fe.teams := by
  unfold seApply
  grind [setCore_fe, startRead_teams, foldl_teams]

@[simp] theorem sPush_teams (s : State) (c k iss off v : Nat) : (sPush s c k iss off v).fe.teams = s.fe.teams := by
  unfold sPush
  grind [setCore_fe, readSpadItem_teams, onCore_fe]

@[simp] theorem landChan_teams (s : State) (c iss : Nat) (fx : Fx) : (landChan s c iss fx).fe.teams = s.fe.teams := by
  unfold landChan
  grind [seApply_teams, spStore_teams, sPush_teams, onCore_fe]

@[simp] theorem setNotify_teams (s : State) (n : Nat) (r : Notify) : (setNotify s n r).fe.teams = s.fe.teams := rfl

@[simp] theorem window_teams (s : State) (c w : Nat) : (window s c w).1.fe.teams = s.fe.teams := by
  rw [(touched_window s c w).fe]

@[simp] theorem lqBindNow_teams (s : State) (c n : Nat) (dir : Bool) (rlen key omask wn : Nat) :
    (lqBindNow s c n dir rlen key omask wn).fe.teams = s.fe.teams := by
  unfold lqBindNow
  grind [window_teams, onCore_fe]

@[simp] theorem dropKey_teams (s : State) (ctx key : Nat) : (dropKey s ctx key).fe.teams = s.fe.teams := rfl

@[simp] theorem lqFreeNow_teams (s : State) (c n : Nat) : (lqFreeNow s c n).fe.teams = s.fe.teams := by
  unfold lqFreeNow
  grind [onCore_fe, dropKey_teams]

@[simp] theorem rredRow_teams (s : State) (c o len id : Nat) : (rredRow s c o len id).fe.teams = s.fe.teams := by
  unfold rredRow
  simp

@[simp] theorem queueXp_teams (s : State) (die : Nat) (cmd : XpCmd) : (queueXp s die cmd).fe.teams = s.fe.teams := rfl

@[simp] theorem xpDescriptor_teams (s : State) (c iss o die : Nat) (cmd : XpCmd) :
    (xpDescriptor s c iss o die cmd).fe.teams = s.fe.teams := by
  unfold xpDescriptor
  grind [ownLoad_teams, queueXp_teams, onCore_fe]

@[simp] theorem landFx_teams (s : State) (c iss : Nat) (fx : Fx) : (landFx s c iss fx).fe.teams = s.fe.teams := by
  unfold landFx
  cases fx <;> grind [earlyOuts_teams, onCore_fe, landLocal_teams, landArray_teams, freeReads_teams, landChan_teams,
    setNotify_teams,
    dropParks_teams, lqBindNow_teams, lqFreeNow_teams, rredRow_teams, xpDescriptor_teams]

@[simp] theorem landDue_teams (s : State) (c n : Nat) : (landDue s c n).fe.teams = s.fe.teams := by
  induction n generalizing s with
  | zero => rfl
  | succ n ih => unfold landDue; grind [landFx_teams, onCore_fe]

@[simp] theorem nextCycle_teams (s : State) (c : Nat) : (nextCycle s c).fe.teams = s.fe.teams := by
  unfold nextCycle
  simp

@[simp] theorem drain_teams (s : State) (c n : Nat) : (drain s c n).fe.teams = s.fe.teams := by
  induction n generalizing s with
  | zero => rfl
  | succ n ih => unfold drain; grind [nextCycle_teams]

@[simp] theorem rereadSpad_teams (s : State) (c : Nat) : (rereadSpad s c).fe.teams = s.fe.teams := by
  unfold rereadSpad
  grind [startRead_teams, foldl_teams]

@[simp] theorem rollbackCore_teams (s : State) (c : Nat) : (rollbackCore s c).fe.teams = s.fe.teams := by
  unfold rollbackCore
  grind [dropParks_teams, drain_teams, rereadSpad_teams, setCore_fe]

@[simp] theorem cancelLoads_teams (s : State) (c : Nat) : (cancelLoads s c).fe.teams = s.fe.teams := rfl

@[simp] theorem forceStrand_teams (s : State) (c : Nat) : (forceStrand s c).fe.teams = s.fe.teams := by
  unfold forceStrand
  simp

@[simp] theorem logTags_teams (s : State) (c : Nat) : (logTags s c).fe.teams = s.fe.teams := by
  unfold logTags
  grind [tagRead_teams, foldl_teams]

end Sys2Proof.Proofs
end

section
/-!
PROOFS. Teams that leave their cores and return: forced leaves, saves, readiness and restores (O51).
-/
namespace Sys2Proof.Proofs

open Sys2Proof.Machine Sys2Proof.Laws Sys2Proof.Stmt

theorem team_of_teams {s u : State} (h : u.fe.teams = s.fe.teams) (n : Nat) :
    u.team n = s.team n := by rw [State.team, State.team, h]

/-! ### What a core keeps while its loads are cancelled, its rows restored and its streams read again -/

/-- The strand of a core stands as it did: its place, its registers, its checkpoint, its stores, and what is due in it. -/
structure SameStrand (x y : Core) : Prop where
  pc : y.pc = x.pc
  mode : y.mode = x.mode
  dup : y.dup = x.dup
  ck : y.ck = x.ck
  wb : y.wb = x.wb
  team : y.team = x.team
  due : y.due = x.due

theorem SameStrand.refl (x : Core) : SameStrand x x := ⟨rfl, rfl, rfl, rfl, rfl, rfl, rfl⟩

theorem SameStrand.trans {x y z : Core} (h : SameStrand x y) (g : SameStrand y z) : SameStrand x z :=
  ⟨g.pc.trans h.pc, g.mode.trans h.mode, g.dup.trans h.dup, g.ck.trans h.ck, g.wb.trans h.wb,
    g.team.trans h.team, g.due.trans h.due⟩

theorem sameStrand_foldl {α : Type} {f : Core → α → Core} (hf : ∀ x a, SameStrand x (f x a)) (l : List α) (x : Core) :
    SameStrand x (l.foldl f x) :=
  List.foldlRecOn l f (.refl x) fun _ hy a _ => hy.trans (hf _ a)

theorem sameStrand_setChanRun (x : Core) (k : Nat) (r : ChRun) :
    SameStrand x (x.setChanRun k r) := ⟨rfl, rfl, rfl, rfl, rfl, rfl, rfl⟩

theorem sameStrand_setLq (x : Core) (k : Nat) (r : LinkQ) : SameStrand x (x.setLq k r) := ⟨rfl, rfl, rfl, rfl, rfl, rfl, rfl⟩

theorem sameStrand_setAccRow (x : Core) (b r : Nat) (v : AccRow) :
    SameStrand x (x.setAccRow b r v) := ⟨rfl, rfl, rfl, rfl, rfl, rfl, rfl⟩

theorem sameStrand_dropAcc (x : Core) (id : Nat) : SameStrand x (dropAcc x id) := ⟨rfl, rfl, rfl, rfl, rfl, rfl, rfl⟩

theorem sameStrand_undoRows (x : Core) : SameStrand x (undoRows x) := by
  obtain ⟨hpc, hmode, hdup, hck, hwb, hteam, hdue⟩ :=
    sameStrand_foldl (fun x (u : UndoRow) => sameStrand_setAccRow x u.bank u.row u.old) x.undo x
  exact ⟨hpc, hmode, hdup, hck, hwb, hteam, hdue⟩

theorem sameStrand_undoQueues (x : Core) : SameStrand x (undoQueues x) := by
  unfold undoQueues
  exact sameStrand_foldl (fun x n => sameStrand_setLq x n _) _ x

theorem sameStrand_undoChans (x : Core) : SameStrand x (undoChans x) := by
  unfold undoChans
  exact sameStrand_foldl (fun x k => sameStrand_setChanRun x k _) _ x

/-- A core that is rolled back stands at its last checkpoint (R353). -/
theorem undoCore_atCkpt (x : Core) : (undoCore x).pc = x.ck.pc ∧ (undoCore x).mode = x.ck.mode ∧ (undoCore x).dup = x.ck.dup ∧
    (undoCore x).wb = [] ∧ (undoCore x).team = x.team := by
  have h := (sameStrand_undoRows x).trans ((sameStrand_undoQueues _).trans (sameStrand_undoChans _))
  unfold undoCore
  generalize undoChans (undoQueues (undoRows x)) = y at h
  rw [← h.ck]
  exact ⟨rfl, rfl, rfl, rfl, h.team⟩

section
variable {s : State} {c : Nat}

theorem sameStrand_onCore {f : Core → Core} (hf : ∀ x, SameStrand x (f x)) (s : State) (c : Nat) :
    SameStrand (s.core c) ((s.onCore c f).core c) := by
  rw [onCore_core_get, if_pos rfl]
  exact hf _

theorem sameStrand_chanFault (s : State) (c k code : Nat) (v : Vec) (a : Nat) :
    SameStrand (s.core c) ((chanFault s c k code v a).core c) := by
  have h := sameStrand_onCore (fun x => sameStrand_setChanRun x k { x.chanRun k with flt := true, fcode := code, fvec := v })
    (logErr s code a (ctxOf s c) 4 (streamNum c k) 0) c
  rwa [(logged_logErr ..).core] at h

theorem sameStrand_itemFaulted (s : State) (c k : Nat) (v : Vec) (code a : Nat) (log : Bool) :
    SameStrand (s.core c) ((itemFaulted s c k v code a log).core c) := by
  unfold itemFaulted
  refine SameStrand.trans ?_ (sameStrand_onCore (fun x => sameStrand_setChanRun ..) _ c)
  split
  · exact sameStrand_chanFault ..
  · exact sameStrand_onCore (fun x => sameStrand_setChanRun ..) _ c

theorem sameStrand_chanEccWords (s : State) (c k : Nat) (ws : List Nat) :
    SameStrand (s.core c) ((chanEccWords s c k ws).core c) := by
  cases ws with
  | nil => exact .refl _
  | cons w ws =>
    have h := sameStrand_onCore (fun x => sameStrand_setChanRun x k
      { x.chanRun k with ecc := true, eccn := min ((x.chanRun k).eccn + 1) (2 ^ 32 - 1) })
      (logErr s eEcc (64 * w) (ctxOf s c) 4 (streamNum c k) 0) c
    rwa [(logged_logErr ..).core] at h

theorem sameStrand_readSpadItem (s : State) (c k : Nat) : SameStrand (s.core c) ((readSpadItem s c k).core c) := by
  unfold readSpadItem
  extract_lets x ch r v
  split
  · exact .refl _
  split
  · exact sameStrand_onCore (fun x => sameStrand_setChanRun ..) _ c
  split
  · exact .refl _
  · exact sameStrand_onCore (fun x => sameStrand_setChanRun ..) _ c
  · exact sameStrand_itemFaulted ..
  · split
    · exact sameStrand_itemFaulted ..
    · split
      · exact (sameStrand_chanEccWords ..).trans (sameStrand_onCore (fun x => sameStrand_setChanRun ..) _ c)
      · exact .refl _

theorem sameStrand_startRead (s : State) (c k : Nat) : SameStrand (s.core c) ((startRead s c k).core c) := by
  unfold startRead
  refine SameStrand.trans ?_ (sameStrand_readSpadItem ..)
  split
  · exact sameStrand_readSpadItem ..
  · exact .refl _

theorem sameStrand_rereadSpad (s : State) (c : Nat) : SameStrand (s.core c) ((rereadSpad s c).core c) :=
  List.foldlRecOn (motive := fun u : State => SameStrand (s.core c) (u.core c)) (span 0 8) _ (.refl _)
    fun _ hu k _ => hu.trans (sameStrand_startRead _ c k)

theorem sameStrand_cancelLoads (s : State) (c : Nat) : SameStrand (s.core c) ((cancelLoads s c).core c) :=
  sameStrand_onCore (fun x => sameStrand_foldl sameStrand_dropAcc _ x) _ c

theorem drain_idle (h : (s.core c).due = []) (n : Nat) : drain s c n = s := by
  cases n with
  | zero => rfl
  | succ n => simp [drain, dueLeft, h]

/-- A strand that is forced out with no effect due stands at its last checkpoint and counts as yielded (R353, R355). -/
theorem forceStrand_atCkpt (h : (s.core c).due = []) :
    let x := s.core c
    let y := (forceStrand s c).core c
    y.run = .yielded ∧ y.pc = x.ck.pc ∧ y.mode = x.ck.mode ∧ y.dup = x.ck.dup ∧ y.wb = [] ∧ y.team = x.team := by
  have hc := sameStrand_cancelLoads s c
  have hr : SameStrand (undoCore ((cancelLoads s c).core c)) ((rollbackCore (cancelLoads s c) c).core c) := by
    have hx := sameStrand_rereadSpad ((dropParks (cancelLoads s c) (readPark c)).setCore c
      (undoCore ((cancelLoads s c).core c))) c
    rw [setCore_core_get, if_pos rfl] at hx
    rw [rollbackCore, drain_idle (hc.due.trans h)]
    exact hx
  obtain ⟨hpc, hmode, hdup, hwb, hteam⟩ := undoCore_atCkpt ((cancelLoads s c).core c)
  rw [hc.ck] at hpc hmode hdup
  dsimp only
  rw [forceStrand, onCore_core_get, if_pos rfl]
  exact ⟨rfl, hr.pc.trans hpc, hr.mode.trans hmode, hr.dup.trans hdup, hr.wb.trans hwb, (hr.team.trans hteam).trans hc.team⟩

end

/-! ### Forced leaves -/

theorem mustForce_iff (x : Core) : mustForce x = true ↔ x.c7 = true ∧ x.cdRun = true ∧ x.cdown = 0 ∧ x.run = .running ∧
    ¬(x.mode = .handler ∧ x.shielded = true) ∧ atomicParked x = false := by
  simp only [mustForce, cdDone, isShielded, Bool.and_eq_true, beq_iff_eq, Bool.not_eq_true', Bool.and_eq_false_imp, and_assoc,
    not_and, Bool.not_eq_true]

theorem switchOut_team (s : State) (n : Nat) : (switchOut s n).team n = { s.team n with st := .forcing, reason := 2 } := by
  have h := team_of_teams (foldl_teams (f := fun s c => if (s.core c).run == .running then forceStrand s c else cancelLoads s c)
    (fun s c => by split <;> simp) (s.team n).cores
    ((dropRefusals s n).setTeam n { s.team n with st := .forcing, reason := 2 })) n
  rw [setTeam_team_get, if_pos rfl] at h
  exact h

theorem forcedLeaves : Stmt.ForcedLeaves := by
  refine ⟨fun s c => ⟨fun h => ?_, forceStrand_atCkpt, fun h => ?_⟩, fun s n => ⟨fun h => ?_, fun h => ?_⟩, fun s n => ?_⟩
  · exact congrArg Host.Outcome.next (if_pos ((mustForce_iff _).mpr h))
  · exact congrArg Host.Outcome.next (if_neg fun hm => h ((mustForce_iff _).mp hm))
  · exact congrArg Host.Outcome.next (if_pos (by simpa [and_assoc] using h))
  · exact congrArg Host.Outcome.next (if_neg fun hg => h (by simpa [and_assoc] using hg))
  · rw [switchOut_team]
    exact ⟨rfl, rfl⟩

/-! ### Saves -/

theorem leaveSaved_core_team (s : State) (c k : Nat) :
    ((leaveSaved s c).core k).team = if k = c then none else (s.core k).team := by
  unfold leaveSaved
  rw [onCore_core_get]
  split <;> rfl

theorem foldl_leaveSaved_core_team (cs : List Nat) (s : State) {k : Nat} (h : k ∈ cs ∨ (s.core k).team = none) :
    ((cs.foldl leaveSaved s).core k).team = none := by
  induction cs generalizing s with
  | nil => exact h.resolve_left (List.not_mem_nil)
  | cons c cs ih =>
    refine ih _ ?_
    rw [leaveSaved_core_team]
    grind

theorem logTags_team (cs : List Nat) (s : State) (n : Nat) :
    (cs.foldl (fun s c => s.onCore c atCkpt) (cs.foldl logTags s)).team n = s.team n :=
  team_of_teams ((foldl_teams (f := fun s c => s.onCore c atCkpt) (fun _ _ => rfl) cs _).trans (foldl_teams logTags_teams cs s)) n

section
variable {s t : State} {n k x : Nat} {r : List Nat}

/-- A team that is out, when the pool has room: its frame is built from what its cores hold at their checkpoints. -/
theorem saveTeam_writes (hf : freeSlots s = k :: x :: r) :
    let tm := s.team n
    let s1 := tm.cores.foldl (fun s c => s.onCore c atCkpt) (tm.cores.foldl logTags s)
    let rows := teamRows s1 0 tm.cores
    let grown := decide (16384 < 32 + rows.length + growth s1 tm.cores)
    saveTeam s n = match writeFrame s1 n k x tm.reason grown rows with
      | (t, some a) => killTeam t n eFramefault a (firstCore t n) 0
      | (t, none) => (tm.cores.foldl leaveSaved t).setTeam n { tm with
          st := .saved, cores := [], slot := some k, ext := if grown then some x else none,
          outq := tm.cores.flatMap (fun c => sentLater (t.core c)) } := by
  simp only [saveTeam, hf, logTags_team] <;> rfl

/-- What the team of a saved frame holds, and its cores: memory is as the frame's write leaves it. -/
theorem saveTeam_saved {a : Nat} {grown : Bool} {tm : Team} {outq : List (Nat × LinkQ)} :
    let u := (tm.cores.foldl leaveSaved t).setTeam n { tm with
      st := .saved, cores := [], slot := some k, ext := if grown then some a else none, outq := outq }
    SameMemory t u ∧ (u.team n).outq = outq ∧ (u.team n).st = .saved ∧ (u.team n).cores = [] ∧ (u.team n).slot = some k ∧
      (u.team n).ext = (if grown = true then some a else none) ∧ (∀ c ∈ tm.cores, (u.core c).team = none) := by
  refine ⟨sameMemory_of_hbm ?_, ?_, ?_, ?_, ?_, ?_, fun c hc => foldl_leaveSaved_core_team tm.cores t (.inl hc)⟩
  · exact foldl_hbm (f := leaveSaved) (fun _ _ => rfl) tm.cores t
  all_goals rw [setTeam_team_get, if_pos rfl]

end

/-! ### Readiness and restores -/

theorem makeReady_st (s : State) (n : Nat) : ((makeReady s n).team n).st = .ready := by
  change (((startOffer s (s.team n).tag).setTeam n
    { s.team n with st := .ready, order := s.fe.order }).team n).st = .ready
  rw [setTeam_team_get, if_pos rfl]

section
variable {s : State} {n : Nat}

theorem gives_teamReady (hc : ∀ t ∈ inIndexOrder s (n :: gangMates s n), reasonClear s t = true)
    (hb : ∀ t ∈ inIndexOrder s (n :: gangMates s n), homeBusy s t = false) :
    Gives (.teamReady n) s ((inIndexOrder s (n :: gangMates s n)).foldl makeReady s) := by
  change Host.Outcome.next _ = _
  rw [if_neg (by simpa using hc), if_neg (by simpa using hb)]

theorem gives_teamReady_home (hc : ∀ t ∈ inIndexOrder s (n :: gangMates s n), reasonClear s t = true)
    (hb : ∃ t ∈ inIndexOrder s (n :: gangMates s n), homeBusy s t = true) :
    Gives (.teamReady n) s ((inIndexOrder s (n :: gangMates s n)).foldl
      (fun s t => if homeBusy s t = true ∧ (s.team t).reason ≠ 3 then stayHome s t else s) s) := by
  change Host.Outcome.next _ = _
  rw [if_neg (by simpa using hc), if_pos (by simpa using hb)]
  simp

theorem gives_teamReady_waits (hc : ∃ t ∈ inIndexOrder s (n :: gangMates s n), reasonClear s t = false) :
    Gives (.teamReady n) s s := by
  change Host.Outcome.next _ = _
  rw [if_pos (by simpa using hc)]

end

section
variable {s t : State} {n : Nat}

theorem restoreTeam_fails {a : Nat} (hr : readFrame s (slotOf (s.team n)) (extOf (s.team n)) (s.team n).n = (t, .error a)) :
    restoreTeam s n = killTeam t n eFramefault a (firstCore t n) 0 := by
  simp only [restoreTeam, hr]

theorem restoreTeam_notItsFrame {h : Nat} {rows : Tab Nat}
    (hr : readFrame s (slotOf (s.team n)) (extOf (s.team n)) (s.team n).n = (t, .ok (h, rows))) (hh : headerOk t n h = false) :
    restoreTeam s n = killTeam t n eFramefault (frameAddr t (slotOf (s.team n)) (extOf (s.team n)) 0) (firstCore t n) 0 := by
  simp [restoreTeam, hr, hh]

theorem restoreTeam_team {h : Nat} {rows : Tab Nat}
    (hr : readFrame s (slotOf (s.team n)) (extOf (s.team n)) (s.team n).n = (t, .ok (h, rows))) (hh : headerOk t n h = true) :
    (restoreTeam s n).team n = { s.team n with
      st := .placed, slot := none, ext := none, filled := true, reason := 0, outq := [] } := by
  simp [restoreTeam, hr, hh]

/-- A team reads its frame back when it is placed for that, its partition is there, and nothing of it is on its way. -/
theorem gives_teamRestore_iff : (Gives (.teamRestore n) s t) ↔
    (if (s.team n).st = .restoring ∧ pinHere s n = true ∧ leftBehind s n = false ∧ poolOpen s = true
      then restoreTeam s n else s) = t := by
  change Host.Outcome.next _ = Host.Outcome.next t ↔ _
  simp [and_assoc]

end

theorem teamsSaveAndRestore : Stmt.TeamsSaveAndRestore := by
  intro s n tm
  refine ⟨fun k x r hs hf => ?saves, fun hs => ?notYet, ⟨gives_teamReady, gives_teamReady_home, gives_teamReady_waits⟩,
    makeReady_st s n, ⟨fun t h rows hg hr hh => ?restored, fun t h rows hg hr hh => ?notItsFrame, fun t a hg hr => ?unreadable,
    fun hg => ?waits⟩⟩
  case saves =>
    have hsave := saveTeam_writes (n := n) hf
    extract_lets at hsave ⊢
    have hgives : Gives (.teamSave n) s (saveTeam s n) := congrArg Host.Outcome.next (if_pos hs)
    refine ⟨fun t hw => ⟨_, hgives, ?_⟩, fun t a hw => ?_⟩
    · rw [hsave, hw]
      exact saveTeam_saved
    · rw [hsave, hw] at hgives
      exact hgives
  case notYet => exact congrArg Host.Outcome.next (if_neg (by simp [hs]))
  case restored =>
    refine ⟨_, gives_teamRestore_iff.mpr (if_pos hg), ?_⟩
    rw [restoreTeam_team hr hh]
    exact ⟨rfl, rfl, rfl, rfl⟩
  case notItsFrame => exact gives_teamRestore_iff.mpr ((if_pos hg).trans (restoreTeam_notItsFrame hr hh))
  case unreadable => exact gives_teamRestore_iff.mpr ((if_pos hg).trans (restoreTeam_fails hr))
  case waits => exact gives_teamRestore_iff.mpr (if_neg hg)

/-- Settles O51. -/
theorem teamsLeaveAndReturn : Obligations.TeamsLeaveAndReturn := ⟨forcedLeaves, teamsSaveAndRestore⟩

end Sys2Proof.Proofs
end

section
/-!
PROOFS. Words of the slots of a bundle: beats, immediates and moves decode from the words that the encoder gives them (O6).
-/
namespace Sys2Proof.Proofs

open Sys2Proof.Machine Sys2Proof.Stmt

/-! ### The matrix slot (R150) -/

section
variable {b : Beat} {tag form : Nat}

/-- The fields of a beat's word are those of the beat. -/
theorem fieldAt_beatWord (htag : tag < 8) (hform : form < 8) (hb : b.fits = true) :
    let w := beatWord tag form b
    fieldAt w 23 21 = tag ∧ fieldAt w 20 18 = form ∧ fieldAt w 17 13 = b.opnd ∧ fieldAt w 12 11 = b.latch ∧
      fieldAt w 10 10 = b.bank ∧ fieldAt w 9 2 = b.row ∧ fieldAt w 1 0 = b.rmode ∧ b.rmode < 2 := by
  simp only [Beat.fits, Bool.and_eq_true, decide_eq_true_eq] at hb
  simp only [beatWord, fieldAt]
  omega

theorem decodeBeat_beatWord (htag : tag < 8) (hform : form < 8) (hb : b.fits = true) :
    decodeBeat b.core (beatWord tag form b) =
      match form with
      | 0 => if fieldAt (beatWord tag 0 b) 17 0 == 0 then some (tag, .mxNop b.core) else none
      | 1 => some (tag, .mxPush b)
      | 2 => if b.noRow then some (tag, .mxShift b) else none
      | 3 => if b.noLatch then some (tag, .mxAcc b) else none
      | 4 => if b.noLatch then some (tag, .mxDrain b) else none
      | 5 => if b.noLatch then some (tag, .mxDrainz b) else none
      | _ => none := by
  obtain ⟨ht, hf, hopnd, hlatch, hbank, hrow, hrmode, hrm⟩ := fieldAt_beatWord htag hform hb
  simp only [decodeBeat, ht, hf, hopnd, hlatch, hbank, hrow, hrmode, hrm]
  clear ht hf hopnd hlatch hbank hrow hrmode
  interval_cases form <;> simp

theorem decodeBeat_nop (htag : tag < 8) (c : Nat) : decodeBeat c (tag * 2 ^ 21) = some (tag, .mxNop c) := by
  have hform : fieldAt (tag * 2 ^ 21) 20 18 = 0 := by simp only [fieldAt]; omega
  have hrest : fieldAt (tag * 2 ^ 21) 17 0 = 0 := by simp only [fieldAt]; omega
  have ht : fieldAt (tag * 2 ^ 21) 23 21 = tag := by simp only [fieldAt]; omega
  simp only [decodeBeat, hform, hrest, ht]
  rfl

end

theorem beatRoundTrip : Stmt.BeatRoundTrip := by
  rintro b tag _ rfl hb htag
  refine ⟨decodeBeat_nop htag _, decodeBeat_beatWord htag (by decide) hb, fun hr => ?shift, fun hl => ⟨?acc, ?drain, ?drainz⟩⟩
  case shift => exact (decodeBeat_beatWord htag (by decide) hb).trans (if_pos hr)
  all_goals exact (decodeBeat_beatWord htag (by decide) hb).trans (if_pos hl)

/-! ### The fields of a move's slot (R132) -/

section
variable {kind src dst : Nat}

theorem fieldAt_moveWord_tag (hk : kind < 4) (hs : src < 512) (hd : dst < 1024) :
    fieldAt (moveWord 0 kind src dst) 23 21 = 0 := by
  simp only [moveWord, fieldAt]
  omega

theorem fieldAt_moveWord_kind (hk : kind < 4) (hs : src < 512) (hd : dst < 1024) :
    fieldAt (moveWord 0 kind src dst) 20 19 = kind := by
  simp only [moveWord, fieldAt]
  omega

theorem fieldAt_moveWord_src (hs : src < 512) (hd : dst < 1024) : fieldAt (moveWord 0 kind src dst) 18 10 = src := by
  simp only [moveWord, fieldAt]
  omega

theorem fieldAt_moveWord_dst (hd : dst < 1024) : fieldAt (moveWord 0 kind src dst) 9 0 = dst := by
  simp only [moveWord, fieldAt]
  omega

end

theorem moveRoundTrip : Stmt.MoveRoundTrip := by
  intro src dst k x y hs hd hne hx hy
  have hword : ¬(src = 0 ∧ dst = 0) := by omega
  unfold decodeSlots
  simp only [fieldAt_moveWord_tag (kind := 0) (by decide) hs hd, fieldAt_moveWord_kind (kind := 0) (by decide) hs hd,
    fieldAt_moveWord_src hs hd, fieldAt_moveWord_dst hd, hx, hy]
  by_cases hbad : (x != y || (x && decide (2 < k))) = true
  · simp [hword, decodeSlots, tagOk, lower, hbad]
  · simp [hword, decodeSlots, tagOk, hbad]

/-! ### Immediate chains (R133) -/

/-- The slot word of an extension with path tag 0. -/
def extWord (p : Nat) : Nat := 2 * 2 ^ 19 + p

theorem fieldAt_extWord {p : Nat} (hp : p < 2 ^ 19) :
    fieldAt (extWord p) 23 21 = 0 ∧ fieldAt (extWord p) 20 19 = 2 ∧ fieldAt (extWord p) 18 0 = p := by
  simp only [extWord, fieldAt]
  omega

/-- The payloads of `m` extensions before the low nine bits of `x`, the most significant first. -/
def chainParts (x : Nat) : Nat → List Nat
  | 0 => []
  | m + 1 => x / 2 ^ (9 + 19 * m) % 2 ^ 19 :: chainParts x m

theorem length_chainParts (x m : Nat) : (chainParts x m).length = m := by
  induction m with
  | zero => rfl
  | succ m ih => rw [chainParts, List.length_cons, ih]

theorem lt_of_mem_chainParts {x m p : Nat} (h : p ∈ chainParts x m) : p < 2 ^ 19 := by
  induction m with
  | zero => cases h
  | succ m ih =>
    obtain rfl | h := List.mem_cons.mp h
    · exact Nat.mod_lt _ (by decide)
    · exact ih h

/-- The payloads are the digits to base 2^19 of what stands above the low nine bits. -/
theorem foldl_chainParts (x m a : Nat) :
    (chainParts x m).foldl (fun x p => x * 2 ^ 19 + p % 2 ^ 19) a = a * 2 ^ (19 * m) + x / 2 ^ 9 % 2 ^ (19 * m) := by
  induction m generalizing a with
  | zero => simp [chainParts, Nat.mod_one]
  | succ m ih =>
    have hdigit : x / 2 ^ 9 % 2 ^ (19 * (m + 1)) =
        x / 2 ^ 9 % 2 ^ (19 * m) + 2 ^ (19 * m) * (x / 2 ^ (9 + 19 * m) % 2 ^ 19) := by
      rw [Nat.mul_succ, pow_add, Nat.mod_mul, Nat.div_div_eq_div_mul, ← pow_add]
    rw [chainParts, List.foldl_cons, ih, hdigit, Nat.mod_mod, Nat.mul_succ, pow_add]
    ring

/-- A number in the range of `n` bits is what its low `n` bits stand for in two's complement. -/
theorem signOf_eq {x n : Nat} {t : Int} (hmod : (x : Int) % 2 ^ n = t % 2 ^ n) (hlo : -2 ^ n ≤ 2 * t) (hhi : 2 * t < 2 ^ n) :
    signOf x n = t := by
  have hpos : (0 : Int) < 2 ^ n := by positivity
  have hcast : ((x % 2 ^ n : Nat) : Int) = t % 2 ^ n := by rw [← hmod]; push_cast; rfl
  have hlt : 2 * (x % 2 ^ n) < 2 ^ n ↔ 2 * (t % 2 ^ n) < 2 ^ n := by rw [← hcast]; norm_cast
  unfold signOf
  rw [hcast]
  simp only [hlt]
  by_cases ht : 0 ≤ t
  · rw [Int.emod_eq_of_lt ht (by omega), if_pos hhi]
  · have hneg : t % 2 ^ n = t + 2 ^ n := by
      rw [← Int.add_emod_right, Int.emod_eq_of_lt (by omega) (by omega)]
    rw [hneg, if_neg (by omega)]
    omega

theorem chainValue_chainParts {x m : Nat} {v : Word} (hx : (x : Int) = v.toInt % 2 ^ 66) (hm : m ≤ 3)
    (hlo : -2 ^ (19 * m + 9) ≤ 2 * v.toInt) (hhi : 2 * v.toInt < 2 ^ (19 * m + 9)) :
    chainValue (chainParts x m) (x % 2 ^ 9) = v := by
  have hsum : x / 2 ^ 9 % 2 ^ (19 * m) * 2 ^ 9 + x % 2 ^ 9 = x % 2 ^ (19 * m + 9) := by
    rw [pow_add, mul_comm (2 ^ (19 * m)), Nat.mod_mul]
    ring
  have hmod : ((x % 2 ^ (19 * m + 9) : Nat) : Int) % 2 ^ (19 * m + 9) = v.toInt % 2 ^ (19 * m + 9) := by
    have hdvd : (2 : Int) ^ (19 * m + 9) ∣ 2 ^ 66 := pow_dvd_pow 2 (by omega)
    push_cast
    rw [Int.emod_emod, hx, Int.emod_emod_of_dvd _ hdvd]
  unfold chainValue
  dsimp only
  rw [foldl_chainParts, length_chainParts, Nat.zero_mul, Nat.zero_add, Nat.mod_mod, hsum, signOf_eq hmod hlo hhi]
  exact BitVec.ofInt_toInt

/-- A chain of at most three extensions decodes to the value that it stands for. -/
theorem decodeSlots_chain {i dst : Nat} (hi : i < 512) (hd : dst < 1024) (hw : dstWide dst = some false) (ps : List Nat)
    {k f : Nat} {ch : Option Chain} {qs : List Nat} (hps : ∀ p ∈ ps, p < 2 ^ 19) (hlen : (qs ++ ps).length ≤ 3)
    (hch : ch.getD ⟨k, 0, [], false⟩ = ⟨f, 0, qs, false⟩) :
    decodeSlots none k ch (ps.map extWord ++ [moveWord 0 1 i dst]) =
      ([⟨k + ps.length, 0, .imm (chainValue (qs ++ ps) i), dst⟩], none) := by
  induction ps generalizing k ch qs with
  | nil =>
    have hlong : ¬ 3 < qs.length := by simpa using hlen
    simp only [List.map_nil, List.nil_append, List.append_nil, List.length_nil]
    unfold decodeSlots
    simp only [fieldAt_moveWord_tag (kind := 1) (by decide) hi hd, fieldAt_moveWord_kind (kind := 1) (by decide) hi hd,
      fieldAt_moveWord_src hi hd, fieldAt_moveWord_dst hd, hch, hw]
    simp [decodeSlots, tagOk, hlong]
  | cons p ps ih =>
    have hp : p < 2 ^ 19 := hps p (List.mem_cons_self ..)
    obtain ⟨htag, hkind, hpay⟩ := fieldAt_extWord hp
    have hrest := ih (k := k + 1) (ch := some ⟨f, 0, qs ++ [p], false⟩) (qs := qs ++ [p])
      (fun q hq => hps q (List.mem_cons_of_mem _ hq)) (by simpa using hlen) rfl
    rw [List.map_cons, List.cons_append]
    unfold decodeSlots
    simp only [htag, hkind, hpay, hch]
    simp [hrest, tagOk]
    omega

theorem chainLen_le (v : Word) : chainLen v ≤ 3 := by
  unfold chainLen
  dsimp only
  split_ifs <;> decide

/-- The shortest chain is long enough for its value. -/
theorem chainLen_range (v : Word) : -2 ^ (19 * chainLen v + 9) ≤ 2 * v.toInt ∧ 2 * v.toInt < 2 ^ (19 * chainLen v + 9) := by
  have hlo := BitVec.le_toInt v
  have hhi := BitVec.toInt_lt (x := v)
  unfold chainLen
  dsimp only
  split_ifs <;> norm_num at * <;> omega

theorem encodeImm_eq (v : Word) (dst : Nat) : encodeImm 0 v dst =
    (chainParts (v.signExtend 66).toNat (chainLen v)).map extWord ++ [moveWord 0 1 ((v.signExtend 66).toNat % 2 ^ 9) dst] := by
  have hle := chainLen_le v
  unfold encodeImm
  dsimp only
  generalize chainLen v = m at hle ⊢
  interval_cases m <;> simp [chainParts, extWord]

theorem toNat_signExtend_66 (v : Word) : ((v.signExtend 66).toNat : Int) = v.toInt % 2 ^ 66 := by
  have hmod := Int.bmod_emod (x := ((v.signExtend 66).toNat : Int)) (m := 2 ^ 66)
  rw [← BitVec.toInt_eq_toNat_bmod, BitVec.toInt_signExtend_of_le (by decide)] at hmod
  exact (hmod.trans (Int.emod_eq_of_lt (by omega) (by exact_mod_cast (v.signExtend 66).isLt))).symm

theorem immediateRoundTrip : Stmt.ImmediateRoundTrip := by
  intro v dst k hd hw
  obtain ⟨hlo, hhi⟩ := chainLen_range v
  have himm : (v.signExtend 66).toNat % 2 ^ 9 < 512 := Nat.mod_lt _ (by decide)
  have hvalue := chainValue_chainParts (toNat_signExtend_66 v) (chainLen_le v) hlo hhi
  rw [encodeImm_eq, decodeSlots_chain (f := k) (qs := []) himm hd hw _ (fun p => lt_of_mem_chainParts)
    (by simpa [length_chainParts] using chainLen_le v) rfl, List.nil_append, length_chainParts, hvalue]

/-- Settles O6: the fields of a beat and of a move are read back from their words, and a chain's payloads are the digits of its value
to base 2^19. -/
theorem slotEncoding : Obligations.SlotEncoding := ⟨beatRoundTrip, immediateRoundTrip, moveRoundTrip⟩

end Sys2Proof.Proofs
end

section
/-!
PROOFS. Moves and condition trees as steps of their own: what a source gives, where a destination takes it, and which leaf a tree
chooses (O52).
-/
namespace Sys2Proof.Proofs

open Sys2Proof.Machine Sys2Proof.Laws Sys2Proof.Stmt

/-! ### Sources (R134, R135, R142) -/

section
variable {s : State} {c k n : Nat}

/-- Sources 00 to 7F are G registers, blocking and then trapping. -/
theorem readSource_greg (h : n < 0x80) : readSource s c k n = readG (s.core c) k (n % 64) (decide (0x40 ≤ n)) := if_pos h

theorem readSource_latch (h : 0x80 ≤ n) (h' : n < 0x95) : readSource s c k n =
    .ok (if wideLatches.contains n then .wide ((s.core c).dup.wlatch n) else .narrow ((s.core c).dup.latch n)) := by
  simp only [readSource, Nat.not_lt.mpr h, h', if_true, if_false]

theorem readSource_creg (h : 0xC8 ≤ n) (h' : n < 0xD0) :
    readSource s c k n = .ok (.narrow (wordN (b2n (condBit (s.core c) (n - 0xC8))))) := by
  rw [readSource, if_neg (by omega), if_neg (by omega), if_neg (by omega), if_neg (by omega), if_pos h']

theorem readSource_counter (h : 0xD0 ≤ n) (h' : n < 0xD6) :
    readSource s c k n = .ok (.narrow (wordN ((s.core c).dup.ctr (n - 0xD0)))) := by
  rw [readSource, if_neg (by omega), if_neg (by omega), if_neg (by omega), if_neg (by omega), if_neg (by omega), if_pos h']

theorem readSource_special (h : 0xD6 ≤ n) (h' : n < 0xE0) : readSource s c k n = readSpecial s c k n := by
  rw [readSource, if_neg (by omega), if_neg (by omega), if_neg (by omega), if_neg (by omega), if_neg (by omega),
    if_neg (by omega), if_pos h']

theorem readSource_vreg (h : 0xE0 ≤ n) (h' : n < 0x100) :
    readSource s c k n = .ok (.wide ((s.core c).dup.vreg (n - 0xE0))) := by
  rw [readSource, if_neg (by omega), if_neg (by omega), if_neg (by omega), if_neg (by omega), if_neg (by omega),
    if_neg (by omega), if_neg (by omega), if_pos h']

theorem readSource_spill (h : 0x100 ≤ n) : readSource s c k n = .ok (.narrow ((s.core c).dup.spillReg (n - 0x100))) := by
  rw [readSource, if_neg (by omega), if_neg (by omega), if_neg (by omega), if_neg (by omega), if_neg (by omega),
    if_neg (by omega), if_neg (by omega), if_neg (by omega)]

theorem readG_full {x : Core} {r : Nat} {b : Bool} (h : (x.dup.greg r).st = .full) :
    readG x k r b = .ok (.narrow (x.dup.greg r).val) := by
  simp only [readG, h]

theorem readG_empty {x : Core} {r : Nat} {b : Bool} (h : (x.dup.greg r).st = .empty) :
    readG x k r b = if b then .bad (trapEmpty k r) else .wait .stall := by
  simp only [readG, h]

theorem readG_poison {x : Core} {r j : Nat} {b : Bool} (h : (x.dup.greg r).st = .poison j) :
    readG x k r b = .bad (trapPoison k r j) := by
  simp only [readG, h]

theorem mem_wideLatches_bounds (h : n ∈ wideLatches) : 0x80 ≤ n ∧ n < 0x95 := by
  simp only [wideLatches, List.mem_cons, List.not_mem_nil, or_false] at h
  omega

/-- What `Holds` names is what a read finds. -/
theorem readSource_of_holds {v : MvVal} (h : Holds s c n v) : readSource s c k n = .ok v := by
  obtain ⟨hn, hf, rfl⟩ | ⟨hlo, hhi, hw, rfl⟩ | ⟨hw, rfl⟩ | ⟨hlo, hhi, rfl⟩ | ⟨hlo, hhi, rfl⟩ | hspecial := h
  · rw [readSource_greg hn, readG_full hf]
  · rw [readSource_latch hlo hhi, if_neg (by simpa using hw)]
  · obtain ⟨hlo, hhi⟩ := mem_wideLatches_bounds hw
    rw [readSource_latch hlo hhi, if_pos (by simpa using hw)]
  · rw [readSource_creg hlo hhi]
    cases condBit (s.core c) (n - 0xC8) <;> rfl
  · exact readSource_counter hlo hhi
  · obtain ⟨rfl, rfl⟩ | ⟨rfl, rfl⟩ | ⟨rfl, rfl⟩ | ⟨rfl, rfl⟩ | ⟨rfl, rfl⟩ | ⟨rfl, rfl⟩ | ⟨rfl, hp, rfl⟩ | ⟨rfl, rfl⟩ | ⟨rfl, rfl⟩ |
      ⟨hlo, hhi, rfl⟩ | ⟨hlo, hhi, rfl⟩ := hspecial
    iterate 6 · exact readSource_special (by decide) (by decide)
    · exact (readSource_special (by decide) (by decide)).trans (if_pos hp)
    iterate 2 · exact readSource_special (by decide) (by decide)
    · exact readSource_vreg hlo hhi
    · exact readSource_spill hlo

/-- A source that `Holds` speaks of is no stream register: reading it takes nothing. -/
theorem takeMv_of_holds {v : MvVal} (h : Holds s c n v) : takeMv s c (.reg n) = s := by
  refine if_neg fun hs => ?_
  have hlatch := mem_wideLatches_bounds (n := n)
  unfold Holds at h
  grind

end

/-! ### Destinations (R136, R143) -/

section
variable {s : State} {c k d : Nat}

theorem isTrig_of_plain (h : Plain d) : isTrig d = false := by
  unfold Plain at h
  simp only [isTrig, Bool.and_eq_false_iff, decide_eq_false_iff_not]
  omega

theorem destVerdict_plain (h : Plain d) (hfree : d < 0x40 → ((s.core c).dup.greg d).st ≠ .empty) :
    destVerdict s c k d = none := by
  unfold destVerdict
  by_cases hg : d < 0x40
  · rw [if_pos hg, if_neg (hfree hg)]
  · rw [if_neg hg, if_neg (by unfold Plain at h; omega)]

theorem destVerdict_trig (h : isTrig d = true) : destVerdict s c k d = none := by
  simp only [isTrig, Bool.and_eq_true, decide_eq_true_eq] at h
  rw [destVerdict, if_neg (by omega), if_neg (by omega)]

theorem destVerdict_empty (hd : d < 0x40) (h : ((s.core c).dup.greg d).st = .empty) : destVerdict s c k d = some .stall := by
  rw [destVerdict, if_pos hd, if_pos h]

/-- A destination that is neither a trigger nor a stream holds the value, and nothing else changes. -/
theorem writeDest_plain (h : Plain d) (iss : Nat) (v : MvVal) :
    writeDest s c d iss v = s.onCore c (fun x => { x with dup := stored x.dup d v }) := by
  unfold Plain at h
  unfold writeDest stored
  by_cases hg : d < 0x40
  · simp only [if_pos hg]
  by_cases hp : d < 0x69
  · have hport : isPort d = true := by
      simp only [isPort, Bool.and_eq_true, decide_eq_true_eq]
      omega
    simp only [if_neg hg, if_pos hp, hport, if_true, writePort, List.contains_iff_mem]
  have hport : isPort d = false := by
    simp only [isPort, Bool.and_eq_false_iff, decide_eq_false_iff_not]
    omega
  simp only [if_neg hg, if_neg hp, hport, Bool.false_eq_true, if_false, if_neg (show ¬ d < 0x280 by omega)]
  by_cases hv : d < 0x2A0
  · simp only [if_pos hv]
  simp only [if_neg hv, if_neg (show ¬ d < 0x2A8 by omega)]
  by_cases hc : d < 0x2AF
  · simp only [if_pos hc]
  · simp only [if_neg hc, if_neg (show ¬ d < 0x300 by omega)]

end

/-! ### A move as a step (R132 to R137) -/

section
variable {s : State} {c k d : Nat} {m : MvSrc}

theorem moveStep_illegal (h : mvLegal k m d = false) : moveStep s c k m d = .next (takeTrap s c (trapIllegal k)) := by
  simp [moveStep, h]

theorem moveStep_bad {t : Trap} (h : mvLegal k m d = true) (hr : readMv s c k m = .bad t) :
    moveStep s c k m d = .next (takeTrap s c t) := by
  simp [moveStep, h, hr]

theorem moveStep_wait {r : Res} (h : mvLegal k m d = true) (hr : readMv s c k m = .wait r) :
    moveStep s c k m d = finish s c r := by
  simp [moveStep, h, hr]

theorem moveStep_blocked {r : Res} {v : MvVal} (h : mvLegal k m d = true) (hr : readMv s c k m = .ok v)
    (hd : destVerdict s c k d = some r) : moveStep s c k m d = finish s c r := by
  simp [moveStep, h, hr, hd]

theorem moveStep_stores {v : MvVal} (h : mvLegal k m d = true) (hr : readMv s c k m = .ok v) (ht : takeMv s c m = s)
    (hp : Plain d) (hfree : d < 0x40 → ((s.core c).dup.greg d).st ≠ .empty) :
    moveStep s c k m d = .next (s.onCore c (fun x => { x with dup := stored x.dup d v })) := by
  simp [moveStep, h, hr, ht, destVerdict_plain hp hfree, isTrig_of_plain hp, writeDest_plain hp]

theorem moveStep_starts {v : MvVal} (h : mvLegal k m d = true) (hr : readMv s c k m = .ok v) (ht : takeMv s c m = s)
    (hd : isTrig d = true) : moveStep s c k m d = finishSel s c (runTrig s c k d false v) := by
  simp only [moveStep, h, hr, ht, hd, destVerdict_trig hd, finishSel]
  rfl

end

theorem mvLegal_imm_greg {k d : Nat} (v : Word) (h : d < 0x40) : mvLegal k (.imm v) d = true := by
  simp [mvLegal, mvWide, dstWide, h]

/-- A move that is not the empty one runs as the step of its source and destination. -/
theorem gives_move_iff {s u : State} {c k : Nat} {src : BitVec 9} {dst : BitVec 10} (h : ¬(src.toNat = 0 ∧ dst.toNat = 0)) :
    Gives (.move c k src dst) s u ↔ moveStep s c k (.reg src.toNat) dst.toNat = .next u := by
  have hne : ¬(src = 0 ∧ dst = 0) := fun ⟨hs, hd⟩ => h (by rw [hs, hd]; decide)
  change (if src = 0 ∧ dst = 0 then _ else _) = _ ↔ _
  rw [if_neg hne]

theorem movesAsSteps : Stmt.MovesAsSteps := by
  intro s c k src dst imm v x n d after free nonzero
  refine ⟨rfl, fun hne hl hv hp hf => (gives_move_iff hne).mpr ?stored, fun hl hp hf => ?immStored,
    fun hne hl => (gives_move_iff hne).mpr (moveStep_illegal hl), moveStep_illegal, fun hd he => ?immBlocked,
    fun hne hl => ⟨fun hn he => (gives_move_iff hne).mpr ?waits, fun hlo hhi he => (gives_move_iff hne).mpr ?empty,
      fun j hn hp => (gives_move_iff hne).mpr ?poison, fun hn hp => (gives_move_iff hne).mpr ?priv⟩,
    fun u hl ht hr => ?starts, fun t hl ht hr => ?traps⟩
  case stored => exact moveStep_stores hl (readSource_of_holds hv) (takeMv_of_holds hv) hp hf
  case immStored => exact moveStep_stores hl rfl rfl hp hf
  case immBlocked => exact moveStep_blocked (mvLegal_imm_greg imm hd) rfl (destVerdict_empty hd he)
  case waits =>
    refine moveStep_wait (r := .stall) hl ((readSource_greg (by omega)).trans ?_)
    rw [Nat.mod_eq_of_lt hn, readG_empty he, if_neg (by simpa using hn)]
  case empty =>
    refine moveStep_bad hl ((readSource_greg hhi).trans ?_)
    rw [show src.toNat % 64 = src.toNat - 0x40 by omega, readG_empty he, if_pos (by simpa using hlo)]
  case poison => exact moveStep_bad hl ((readSource_greg hn).trans (readG_poison hp))
  case priv =>
    refine moveStep_bad hl ?_
    change readSource s c k n = _
    rw [hn, readSource_special (by decide) (by decide)]
    exact if_neg (Bool.eq_false_iff.mp hp)
  case starts => exact (moveStep_starts hl rfl rfl ht).trans (by rw [hr]; rfl)
  case traps => exact (moveStep_starts hl rfl rfl ht).trans (by rw [hr]; rfl)

/-! ### Condition trees (R145 to R147) -/

section
variable {x : Core} {pc : Pc} {h w k : Nat}

theorem treeSlot_legal (h3 : fieldAt h 20 19 = 3) (hh : treeHeadOk h = true) (ho : treeOffsOk h w = true) :
    treeSlot h w = none := by
  simp [treeSlot, h3, hh, ho]

theorem treeSlot_illegal (hl : ¬(fieldAt h 20 19 = 3 ∧ treeHeadOk h = true ∧ treeOffsOk h w = true)) :
    treeSlot h w = some 6 := by
  refine if_pos ?_
  simp only [Bool.or_eq_true, bne_iff_ne, Bool.not_eq_true', ← Bool.not_eq_true]
  tauto

theorem leafOf_test (hk : k < treeTests h) (ht : testHolds x h k = true) (hlow : ∀ j, j < k → testHolds x h j = false) :
    leafOf x pc h w = (k + 1, some (leafTarget pc w k)) := by
  rw [leafOf, find?_span_eq_some (Nat.zero_le k) (by omega) ht fun j _ => hlow j]

theorem leafOf_default (hno : ∀ j, j < treeTests h → testHolds x h j = false) :
    leafOf x pc h w = if fieldAt h 0 0 = 1 then (5, some (leafTarget pc w 3)) else (5, none) := by
  have hnone : (span 0 (treeTests h)).find? (testHolds x h) = none := by
    simp only [List.find?_eq_none, mem_span, Bool.not_eq_true]
    exact fun j ⟨_, hj⟩ => hno j (by omega)
  rw [leafOf, hnone]

/-- A test holds when its condition register differs from its polarity bit. -/
theorem testHolds_iff (x : Core) (h k : Nat) : testHolds x h k = true ↔
    (condBit x (fieldAt h (16 - 4 * k) (14 - 4 * k)) = true ↔ fieldAt h (13 - 4 * k) (13 - 4 * k) = 0) := by
  have hbit : fieldAt h (13 - 4 * k) (13 - 4 * k) < 2 := by
    rw [fieldAt, Nat.add_sub_cancel_left]
    exact Nat.mod_lt _ (by decide)
  unfold testHolds
  generalize condBit x _ = b, fieldAt h (13 - 4 * k) (13 - 4 * k) = q at hbit ⊢
  interval_cases q <;> cases b <;> decide

end

section
variable {s : State} {c : Nat} {h w : BitVec 24}

theorem gives_conditionTree_illegal (hl : treeSlot h.toNat w.toNat = some 6) :
    Gives (.conditionTree c h w) s (takeTrap s c (trapIllegal 6)) := by
  change execConditionTree c h w s = _
  rw [execConditionTree, hl]

/-- A tree whose leaf is taken goes on at its target. -/
theorem gives_conditionTree_taken {n : Nat} {p : Pc} (hl : treeSlot h.toNat w.toNat = none)
    (hleaf : leafOf (s.core c) (s.core c).pc h.toNat w.toNat = (n, some p)) :
    Gives (.conditionTree c h w) s (s.onCore c (fun x => { x with leaf := (n, some p), pc := p })) := by
  change execConditionTree c h w s = _
  rw [execConditionTree, hl]
  simp only [State.onCore, hleaf, nextPc]

/-- One whose leaf is not goes on as a bundle without a tree. -/
theorem gives_conditionTree_falls {n : Nat} (hl : treeSlot h.toNat w.toNat = none)
    (hleaf : leafOf (s.core c) (s.core c).pc h.toNat w.toNat = (n, none)) :
    Gives (.conditionTree c h w) s (s.onCore c (fun x =>
      { x with leaf := (n, none), dup := (stepLoops x.dup x.pc).1, pc := (stepLoops x.dup x.pc).2 })) := by
  change execConditionTree c h w s = _
  rw [execConditionTree, hl]
  simp only [State.onCore, hleaf, nextPc]

end

theorem conditionTrees : Stmt.ConditionTrees := by
  intro s c h w x tests holds legal off
  have hlegal : legal → treeSlot h.toNat w.toNat = none := fun ⟨h3, hh, ho⟩ => treeSlot_legal h3 hh ho
  refine ⟨fun k hl hk ht hlow => gives_conditionTree_taken (hlegal hl) (leafOf_test hk ht hlow), fun hl hno he => ?default,
    fun hl hno he => ?falls, fun hl => gives_conditionTree_illegal (treeSlot_illegal hl), fun k _ => testHolds_iff x h.toNat k⟩
  case default => exact gives_conditionTree_taken (hlegal hl) ((leafOf_default hno).trans (if_pos he))
  case falls => exact gives_conditionTree_falls (hlegal hl) ((leafOf_default hno).trans (if_neg (by omega)))

/-- Settles O52: a move is its source's value stored at its destination, and a tree's leaf is its first test that holds. -/
theorem movesAndTrees : Obligations.MovesAndTrees := ⟨movesAsSteps, conditionTrees⟩

end Sys2Proof.Proofs
end

section
/-!
PROOFS. A bundle of moves into G registers as one step: it does what R138 says where the register table lists each register once.
A state that lists one twice, in which it does not, refutes O54.
-/
namespace Sys2Proof.Proofs

open Sys2Proof.Machine Sys2Proof.Laws Sys2Proof.Stmt

/-! ### Tables that list each index once -/

section
variable {α : Type} {n k : Nat} {v : α} {t : Tab α}

theorem le_of_mem_sortedFrom (hs : Tab.sortedFrom n t = true) (h : (k, v) ∈ t) : n ≤ k := by
  induction t generalizing n with
  | nil => cases h
  | cons e r ih =>
    simp only [Tab.sortedFrom, Bool.and_eq_true, decide_eq_true_eq] at hs
    obtain rfl | h := List.mem_cons.mp h
    · exact hs.1
    · have := ih hs.2 h
      omega

theorem tab_get_of_mem (d : α) (hs : Tab.sortedFrom n t = true) (h : (k, v) ∈ t) : Tab.get d t k = v := by
  induction t generalizing n with
  | nil => cases h
  | cons e r ih =>
    simp only [Tab.sortedFrom, Bool.and_eq_true] at hs
    obtain rfl | h := List.mem_cons.mp h
    · exact if_pos rfl
    · have := le_of_mem_sortedFrom hs.2 h
      rw [tab_get_cons, if_neg (by omega)]
      exact ih hs.2 h

theorem tab_put_of_mem (hs : Tab.sortedFrom n t = true) (h : (k, v) ∈ t) : Tab.put k v t = t := by
  induction t generalizing n with
  | nil => cases h
  | cons e r ih =>
    simp only [Tab.sortedFrom, Bool.and_eq_true] at hs
    obtain rfl | h := List.mem_cons.mp h
    · rw [Tab.put, if_neg (Nat.lt_irrefl _), if_pos rfl]
    · have := le_of_mem_sortedFrom hs.2 h
      rw [Tab.put, if_neg (by omega), if_neg (by omega), ih hs.2 h]

end

/-- No operation of the bundle has emptied a register: what was empty stays so, and nothing else changes. -/
theorem keepEmpty_self {d : Dup} (hs : Tab.sortedFrom 0 d.g = true) : keepEmpty d d = d := by
  refine List.foldlRecOn (motive := fun x => x = d) _ _ rfl ?_
  rintro x rfl ⟨r, g⟩ he
  obtain ⟨hmem, hst⟩ := List.mem_filter.mp he
  have hg : g = ⟨g.val, .empty⟩ := by cases g; simpa using hst
  have hne : (⟨g.val, .empty⟩ : GReg) ≠ GReg.init := by simp [GReg.init]
  rw [hg] at hmem
  simp only [Dup.emptyG, Dup.setG, Dup.greg, tab_get_of_mem _ hs hmem, Tab.set, if_neg hne, tab_put_of_mem hs hmem]

/-! ### Operations that change nothing -/

/-- Every core and memory stand as they did. -/
structure Untouched (s u : State) : Prop where
  core : ∀ k, u.core k = s.core k
  hbm : u.hbm = s.hbm

theorem Untouched.refl (s : State) : Untouched s s := ⟨fun _ => rfl, rfl⟩

section
variable {s u : State} {c : Nat}

theorem Untouched.onCore {f : Core → Core} (h : Untouched s u) (hf : f (s.core c) = s.core c) : Untouched s (u.onCore c f) := by
  refine ⟨fun k => ?_, h.hbm⟩
  rw [onCore_core_get, h.core, h.core, hf]
  split
  next hk => rw [hk]
  · rfl

/-- Operations that change nothing, applied in turn, change nothing. -/
theorem applyAll_untouched (hs : Tab.sortedFrom 0 (s.core c).dup.g = true) {fs : List (State → Res)}
    (hfs : ∀ f ∈ fs, ∀ u, Untouched s u → ∃ v, f u = .done v ∧ Untouched s v) (h : Untouched s u) :
    ∃ v, applyAll c (s.core c).dup.g fs u = .done v ∧ Untouched s v := by
  induction fs generalizing u with
  | nil => exact ⟨u, rfl, h⟩
  | cons f fs ih =>
    obtain ⟨v, hv, hu⟩ := hfs f (List.mem_cons_self ..)
      (u.onCore c (fun x => { x with dup := { x.dup with g := (s.core c).dup.g } })) (h.onCore rfl)
    rw [applyAll, hv]
    refine ih (fun f hf => hfs f (List.mem_cons_of_mem _ hf)) (hu.onCore ?_)
    rw [h.core, keepEmpty_self hs]

theorem landPushes_idle (hd : (s.core c).due = []) (h : Untouched s u) : Untouched s (landPushes u c) := by
  have hdue : (u.core c).due = [] := by rw [h.core, hd]
  simp only [landPushes, hdue, List.filter_nil, List.foldl_nil]
  exact h.onCore (by rw [hd]; rw [List.filter_nil, ← hd])

end

/-! ### Moves into G registers -/

/-- The moves that take effect are into G registers and read no stream. -/
def IntoG (es : List Eff) : Prop := ∀ e ∈ es, e.dst < 0x40 ∧ e.stream = none

section
variable {es : List Eff} {s u : State} {c : Nat}

theorem takeMv_noStream {e : Eff} (h : e.stream = none) (s : State) : takeMv s c e.src = s := by
  unfold Eff.stream at h
  unfold takeMv
  grind

theorem isTrig_greg {d : Nat} (h : d < 0x40) : isTrig d = false := isTrig_of_plain (.inl (by omega))

theorem isPort_greg {d : Nat} (h : d < 0x40) : isPort d = false := by
  simp only [isPort, Bool.and_eq_false_iff, decide_eq_false_iff_not]
  omega

theorem any_trigCode_intoG (h : IntoG es) (n i : Nat) : es.any (fun e => e.dst == trigCode n i) = false := by
  simp only [List.any_eq_false, beq_iff_eq, trigCode]
  intro e he
  have := (h e he).1
  omega

theorem bundleOps_intoG {l : Look} (h : IntoG l.effs) :
    bundleOps s c l = runBeat l.beat :: (l.effs.map (fun e s => .done (takeMv s c e.src)) ++ [fun s => .done (landPushes s c)]) := by
  have hwait : l.effs.filter Eff.isSwait = [] := by
    have := any_trigCode_intoG h 8 9
    simpa [List.filter_eq_nil_iff, Eff.isSwait] using this
  have horder : ∀ lo hi, inOrder s c lo hi l.effs = [] := by
    intro lo hi
    simp only [inOrder, List.flatMap_eq_nil_iff, List.filter_eq_nil_iff]
    intro r _ e he
    simp [isTrig_greg (h e he).1]
  simp only [bundleOps, hwait, horder, List.map_nil, List.nil_append, List.append_nil, List.cons_append]

theorem withPorts_intoG (h : IntoG es) : Untouched s (withPorts s c es) := by
  refine (Untouched.refl s).onCore (congrArg (fun d => { s.core c with dup := d })
    (List.foldlRecOn (motive := fun d => d = (s.core c).dup) _ _ rfl fun d hd e he => ?_))
  rw [isPort_greg (h e he).1]
  split <;> exact hd

/-- The registers after the moves `es`. -/
def moved (es : List Eff) (d : Dup) : Dup :=
  es.foldl (fun d e => match e.value with | some v => d.writeG e.dst v.word | none => d) d

theorem moved_other {r : Nat} (hr : r ∉ es.map (·.dst)) (d : Dup) : (moved es d).greg r = d.greg r := by
  refine List.foldlRecOn (motive := fun x : Dup => x.greg r = d.greg r) _ _ rfl fun x hx e he => ?_
  have hne : r ≠ e.dst := fun h => hr (h ▸ List.mem_map_of_mem he)
  split
  · rw [writeG_greg_get, if_neg hne, hx]
  · exact hx

theorem moved_dst {e : Eff} {v : MvVal} (hnd : (es.map (·.dst)).Nodup) (he : e ∈ es) (hv : e.val = .ok v) (d : Dup) :
    (moved es d).greg e.dst = ⟨v.word, .full⟩ := by
  induction es generalizing d with
  | nil => cases he
  | cons a es ih =>
    obtain ⟨ha, hnd⟩ := List.nodup_cons.mp hnd
    obtain rfl | he := List.mem_cons.mp he
    · refine (moved_other ha _).trans ?_
      simp [Eff.value, hv]
    · exact ih hnd he _

/-- How a move of the bundle of cycle `t` takes effect in the next one. -/
def landMove (c t : Nat) (s : State) (e : Eff) : State :=
  match e.value with
  | some v => if isPort e.dst || isTrig e.dst then s else writeDest s c e.dst t v
  | none => s

theorem foldl_landMove (h : IntoG es) (t : Nat) (s : State) :
    let u := es.foldl (landMove c t) s
    u.core c = { s.core c with dup := moved es (s.core c).dup } ∧ (∀ k, k ≠ c → u.core k = s.core k) ∧ u.hbm = s.hbm := by
  induction es generalizing s with
  | nil => exact ⟨rfl, fun _ _ => rfl, rfl⟩
  | cons e es ih =>
    have hd : e.dst < 0x40 := (h e (List.mem_cons_self ..)).1
    have hrest := ih (fun e he => h e (List.mem_cons_of_mem _ he))
    simp only [List.foldl_cons, moved, landMove]
    cases hv : e.value with
    | none => exact hrest s
    | some v =>
      obtain ⟨hcore, hother, hhbm⟩ := hrest (s.onCore c (fun x => { x with dup := x.dup.writeG e.dst v.word }))
      simp only [isPort_greg hd, isTrig_greg hd, writeDest, if_pos hd]
      refine ⟨hcore.trans ?_, fun k hk => (hother k hk).trans ?_, hhbm⟩
      · rw [onCore_core_get, if_pos rfl]
        rfl
      · rw [onCore_core_get, if_neg hk]

theorem landDue_idle (hd : (s.core c).due = []) (n : Nat) : landDue s c n = s := by
  cases n with
  | zero => rfl
  | succ n => rw [landDue, hd]

/-- One issue cycle has passed on a strand that goes on, and left the registers `d`. -/
structure CycleOn (x : Core) (d : Dup) (y : Core) : Prop where
  cyc : y.cyc = x.cyc + 1
  dup : y.dup = d
  ck : y.ck = x.ck
  spad : y.spad = x.spad
  sel : y.sel = x.sel
  run : y.run = x.run

theorem nextCycle_idle (hd : (s.core c).due = []) : CycleOn (s.core c) (s.core c).dup ((nextCycle s c).core c) ∧
    (∀ k, k ≠ c → (nextCycle s c).core k = s.core k) ∧ (nextCycle s c).hbm = s.hbm := by
  rw [nextCycle, landDue_idle (by rw [onCore_core_get, if_pos rfl]; exact hd)]
  refine ⟨?_, fun k hk => ?_, rfl⟩
  · rw [onCore_core_get, if_pos rfl, onCore_core_get, if_pos rfl]
    exact ⟨rfl, rfl, rfl, rfl, rfl, rfl⟩
  · rw [onCore_core_get, if_neg hk, onCore_core_get, if_neg hk]

/-- The end of a bundle without a checkpoint and without a return from the handler. -/
theorem endBundle_plain {l : Look} (hck : l.ckpt = false) (hrte : l.has 13 6 = false) (s : State) (c : Nat) (pc : Pc) (t : Nat) :
    endBundle s c l pc t =
      let u := l.effs.foldl (landMove c t) (nextCycle s c)
      let n := nextPc (u.core c) pc l.leaf
      let y := u.onCore c (fun x => dropOvl { x with dup := n.1 })
      afterBundle (y.onCore c (fun x => { x with pc := n.2, sel := none })) c l pc := by
  simp only [endBundle, hck, hrte]
  rfl

theorem stepLoops_noLoop {d : Dup} (h : d.loops = []) (pc : Pc) : stepLoops d pc = (d, pc + 1) := by
  cases d
  cases h
  rfl

theorem nextPc_falls {x : Core} {leaf : Nat × Option Pc} (hsel : x.sel = none) (hleaf : leaf.2 = none) (hl : x.dup.loops = [])
    (pc : Pc) : nextPc x pc leaf = (x.dup, pc + 1) := by
  rw [nextPc, hsel, hleaf]
  exact stepLoops_noLoop hl pc

theorem moved_loops (d : Dup) : (moved es d).loops = d.loops := by
  refine List.foldlRecOn (motive := fun x : Dup => x.loops = d.loops) _ _ rfl fun x hx e _ => ?_
  split
  · exact hx
  · exact hx

theorem afterBundle_running {l : Look} (hhalt : l.has 12 9 = false) (hr : (s.core c).run = .running) (pc : Pc) :
    afterBundle s c l pc = s := by
  have hnone : l.effs.find? (fun e => e.dst == trigCode 12 9) = none := by
    simpa [Look.has] using hhalt
  simp only [afterBundle, hnone, hr]

theorem bundleOps_untouched {l : Look} (h : IntoG l.effs) (hbeat : l.beat = .mxNop c) (hdue : (s.core c).due = [])
    {f : State → Res} (hf : f ∈ bundleOps u c l) {y : State} (hy : Untouched s y) : ∃ v, f y = .done v ∧ Untouched s v := by
  rw [bundleOps_intoG h, hbeat] at hf
  simp only [List.mem_cons, List.mem_append, List.mem_map, List.not_mem_nil, or_false] at hf
  obtain rfl | ⟨e, he, rfl⟩ | rfl := hf
  · exact ⟨y, rfl, hy⟩
  · exact ⟨y, congrArg Res.done (takeMv_noStream (h e he).2 y), hy⟩
  · exact ⟨_, rfl, landPushes_idle hdue hy⟩

/-- Core `c` has issued the moves `es`, and nothing else has happened. -/
structure Moved (s : State) (c : Nat) (es : List Eff) (u : State) : Prop where
  cyc : (u.core c).cyc = (s.core c).cyc + 1
  pc : (u.core c).pc = (s.core c).pc + 1
  dup : (u.core c).dup = moved es (s.core c).dup
  ck : (u.core c).ck = (s.core c).ck
  spad : (u.core c).spad = (s.core c).spad
  others : ∀ k, k ≠ c → u.core k = s.core k
  hbm : u.hbm = s.hbm

section
variable {l : Look} (h : IntoG l.effs) (hdue : (s.core c).due = []) (hloops : (s.core c).dup.loops = [])
  (hsel : (s.core c).sel = none) (hrun : (s.core c).run = .running) (hck : l.ckpt = false) (hleaf : l.leaf.2 = none)
include h hdue hloops hsel hrun hck hleaf

theorem moved_endBundle (hu : Untouched s u) : Moved s c l.effs (endBundle u c l (s.core c).pc (s.core c).cyc) := by
  obtain ⟨hcore, hhbm⟩ := hu
  obtain ⟨hcycle, hnext, hnextMem⟩ := nextCycle_idle (s := u) (c := c) (by rw [hcore, hdue])
  obtain ⟨hmoves, hothers, hmem⟩ := foldl_landMove (c := c) h (s.core c).cyc (nextCycle u c)
  rw [endBundle_plain hck (any_trigCode_intoG h 13 6)]
  dsimp only at hmoves hothers hmem ⊢
  generalize l.effs.foldl (landMove c (s.core c).cyc) (nextCycle u c) = y at hmoves hothers hmem ⊢
  have hon : CycleOn (s.core c) (moved l.effs (s.core c).dup) (y.core c) := by
    rw [hcore] at hcycle
    rw [hmoves, hcycle.dup]
    exact ⟨hcycle.cyc, rfl, hcycle.ck, hcycle.spad, hcycle.sel, hcycle.run⟩
  rw [nextPc_falls (hon.sel.trans hsel) hleaf (by rw [hon.dup, moved_loops, hloops]),
    afterBundle_running (any_trigCode_intoG h 12 9)]
  case hr =>
    rw [onCore_core_get, if_pos rfl, onCore_core_get, if_pos rfl]
    exact hon.run.trans hrun
  refine ⟨?_, ?_, ?_, ?_, ?_, fun k hk => ?others, hmem.trans (hnextMem.trans hhbm)⟩
  case others => rw [onCore_core_get, if_neg hk, onCore_core_get, if_neg hk, hothers k hk, hnext k hk, hcore]
  all_goals rw [onCore_core_get, if_pos rfl, onCore_core_get, if_pos rfl]
  · exact hon.cyc
  · exact hon.dup
  · exact hon.ck
  · exact hon.spad

/-- A bundle of moves into G registers issues: the moves take effect together, and one issue cycle passes. -/
theorem moved_issueBundle (hs : Tab.sortedFrom 0 (s.core c).dup.g = true) (hbeat : l.beat = .mxNop c) :
    Moved s c l.effs (issueBundle s c l) := by
  obtain ⟨v, hv, hu⟩ := applyAll_untouched (fs := bundleOps (withPorts s c l.effs) c l) hs
    (fun f hf y hy => bundleOps_untouched h hbeat hdue hf hy) (withPorts_intoG h)
  have hissue : issueBundle s c l = endBundle v c l (s.core c).pc (s.core c).cyc := by rw [issueBundle, hv]
  rw [hissue]
  exact moved_endBundle h hdue hloops hsel hrun hck hleaf hu

end

end

/-- The statement of O54 for states whose register table lists each register once, as the canonical form of a table does. -/
theorem movesTakeEffectTogether_of_sorted (s : State) (c : Nat) (w : BitVec 192) :
    let z := inPulse s c
    let x := z.core c
    let l := look z c w
    Tab.sortedFrom 0 x.dup.g = true → mayIssue (beginPulse s) c = true → fetchAt z c = .ok w →
    bundleTrap z c l (meetAll z c l) = none → meetAll z c l = [] → x.due = [] → x.dup.loops = [] → x.sel = none →
    l.leaf.2 = none → l.beat = .mxNop c → IntoG l.effs → (l.effs.map (·.dst)).Nodup →
    ∃ u, Gives (.bundleIssue c) s u ∧ (u.core c).cyc = x.cyc + 1 ∧ (u.core c).pc = x.pc + 1 ∧ SameMemory s u ∧
      (∀ e ∈ l.effs, ∀ v, e.val = .ok v → (u.core c).dup.greg e.dst = ⟨v.word, .full⟩) ∧
      (∀ r, r ∉ l.effs.map (·.dst) → (u.core c).dup.greg r = x.dup.greg r) ∧
      (∀ k, k ≠ c → u.core k = z.core k) ∧ (u.core c).ck = x.ck ∧ (u.core c).spad = x.spad := by
  intro z x l hs hmay hfetch htrap hmeet hdue hloops hsel hleaf hbeat hmoves hnd
  have hpass : passInIssue z c w = z := by
    have hnone : x.due.any (isLateRld x) = false := by rw [hdue]; rfl
    exact if_neg (by rw [hnone]; exact Bool.false_ne_true)
  have hrun : x.run = .running := ((mayIssue_iff c).mp hmay).1
  obtain ⟨hcyc, hpc, hdup, hck, hspad, hothers, hhbm⟩ :=
    moved_issueBundle hmoves hdue hloops hsel hrun (any_trigCode_intoG hmoves 12 4) hleaf hs hbeat
  refine ⟨_, (gives_attempt hmay).trans (congrArg Host.Outcome.next (attempt_issues hfetch hpass rfl htrap hmeet)), hcyc, hpc,
    sameMemory_of_hbm (hhbm.trans (beginPulse_hbm s)), fun e he v hv => ?_, fun r hr => ?_, hothers, hck, hspad⟩
  · rw [hdup, moved_dst hnd he hv]
  · rw [hdup, moved_other hr]

/-! ### A table that lists a register twice -/

/-- Core 0 is about to issue `G1 -> G2`, and its register table lists G3 twice: full, which is what a read finds, and then empty. -/
def listedTwice : State :=
  { State.reset with
    pow := { State.reset.pow with todo := some [0] }
    cores := [(0, { Core.init with
      run := .running
      team := some 0
      half0 := ⟨some 0, true, false, false⟩
      imem := [(0, BitVec.ofNat 192 (moveWord 0 0 1 2 * 2 ^ 24))]
      dup := { Core.init.dup with g := [(3, ⟨7, .full⟩), (3, ⟨7, .empty⟩)] } })] }

theorem greg_attempt_listedTwice :
    ((inPulse listedTwice 0).core 0).dup.greg 3 = ⟨7, .full⟩ ∧
      ((attempt (inPulse listedTwice 0) 0).core 0).dup.greg 3 = ⟨7, .empty⟩ := by decide +kernel

/-- Refutes O54: in a state whose register table lists G3 twice, full and then empty, the issue of a move into G2 empties G3, since the
registers that are listed as empty are emptied again after each operation. Such a table is not in the canonical form, which the
statement does not ask for; where it lists each register once the statement holds (`movesTakeEffectTogether_of_sorted`). -/
theorem not_movesTakeEffectTogether : ¬ Obligations.MovesTakeEffectTogether := by
  intro h
  have hmay : mayIssue (beginPulse listedTwice) 0 = true := by decide +kernel
  have hfetch : fetchAt (inPulse listedTwice 0) 0 = .ok (BitVec.ofNat 192 (moveWord 0 0 1 2 * 2 ^ 24)) := by decide +kernel
  obtain ⟨u, hu, -, -, -, -, hkeeps, -⟩ := h listedTwice 0 _ hmay hfetch (by decide +kernel) (by decide +kernel)
    (by decide +kernel) (by decide +kernel) (by decide +kernel) (by decide +kernel) (by decide +kernel) (by decide +kernel)
    (by decide +kernel)
  obtain rfl : attempt (inPulse listedTwice 0) 0 = u := Host.Outcome.next.inj ((gives_attempt hmay).symm.trans hu)
  obtain ⟨hfull, hempty⟩ := greg_attempt_listedTwice
  have hsame := hkeeps 3 (by decide +kernel)
  rw [hempty, hfull] at hsame
  cases hsame

end Sys2Proof.Proofs
end

section
/-!
PROOFS. Masked stores and operations of one step on the scratchpad, and the tag table as it is cleared (O14).
-/
namespace Sys2Proof.Proofs

open Sys2Proof.Machine Sys2Proof.Laws Sys2Proof.Stmt

/-! ### Two writes of one entry -/

theorem tab_drop_put {α : Type} (k : Nat) (v : α) (t : Tab α) : Tab.drop k (Tab.put k v t) = Tab.drop k t := by
  induction t with
  | nil => simp [Tab.put, Tab.drop]
  | cons e r ih =>
    obtain ⟨j, w⟩ := e
    rcases Nat.lt_trichotomy k j with h | rfl | h
    · simp [Tab.put, Tab.drop, h]
    · simp [Tab.put, Tab.drop]
    · simp [Tab.put, Tab.drop, h.not_gt, h.ne, h.ne', ih]

theorem tab_put_put {α : Type} (k : Nat) (v w : α) (t : Tab α) : Tab.put k w (Tab.put k v t) = Tab.put k w t := by
  induction t with
  | nil => simp [Tab.put]
  | cons e r ih =>
    obtain ⟨j, u⟩ := e
    rcases Nat.lt_trichotomy k j with h | rfl | h
    · simp [Tab.put, h]
    · simp [Tab.put]
    · simp [Tab.put, h.not_gt, h.ne', ih]

theorem tab_drop_drop {α : Type} (k : Nat) (t : Tab α) : Tab.drop k (Tab.drop k t) = Tab.drop k t := by
  induction t with
  | nil => rfl
  | cons e r ih =>
    obtain ⟨j, w⟩ := e
    by_cases h : j = k <;> simp [Tab.drop, h, ih]

/-- Of two writes of one entry the second stands. In a table out of its canonical form that takes one condition: a default, which drops
the entry, is not followed by another value, which may come to stand elsewhere. -/
theorem tab_set_set {α : Type} [DecidableEq α] {d v w : α} (h : v = d → w = d) (k : Nat) (t : Tab α) :
    Tab.set d k w (Tab.set d k v t) = Tab.set d k w t := by
  by_cases hw : w = d
  · by_cases hv : v = d
    · simp only [Tab.set, if_pos hw, if_pos hv, tab_drop_drop]
    · simp only [Tab.set, if_pos hw, if_neg hv, tab_drop_put]
  · simp only [Tab.set, if_neg hw, if_neg (mt h hw), tab_put_put]

theorem setCore_setCore {x y : Core} (h : x = Core.init → y = Core.init) (s : State) (c : Nat) :
    (s.setCore c x).setCore c y = s.setCore c y :=
  congrArg (fun t => { s with cores := t }) (tab_set_set h c s.cores)

/-! ### The tag table (R198) -/

/-- A tag table with the valid bits of `n` entries from `k` cleared, one after another. -/
def tagsCleared (k : Nat) : Nat → Tab Word → Tab Word
  | 0, t => t
  | n + 1, t => tagsCleared (k + 1) n (Tab.set 0 k (Tab.get 0 t k &&& 0x7FFFFFFFFFFFFFFF#64) t)

theorem tagsCleared_nil (k n : Nat) : tagsCleared k n [] = [] := by
  induction n generalizing k with
  | zero => rfl
  | succ n ih => simp [tagsCleared, Tab.set, Tab.drop, ih]

theorem tab_get_tagsCleared (k n : Nat) (t : Tab Word) (j : Nat) :
    Tab.get 0 (tagsCleared k n t) j =
      if k ≤ j ∧ j < k + n then Tab.get 0 t j &&& 0x7FFFFFFFFFFFFFFF#64 else Tab.get 0 t j := by
  induction n generalizing k t with
  | zero => rw [if_neg (by omega)]; rfl
  | succ n ih =>
    rw [tagsCleared, ih, tab_get_set]
    by_cases hj : j = k
    · subst hj; rw [if_neg (by omega), if_pos rfl, if_pos (by omega)]
    · by_cases hin : k ≤ j ∧ j < k + (n + 1)
      · rw [if_pos (by omega), if_neg hj, if_pos hin]
      · rw [if_neg (by omega), if_neg hj, if_neg hin]

theorem tagRead_of_noBad {s : State} {c : Nat} (h : (s.core c).tagsBad = []) (b i : Nat) :
    tagRead s c b i = (s, Tab.get 0 (s.core c).tags (1024 * b + i)) := by
  simp [tagRead, h]

theorem tagWrite_of_noBad {s : State} {c : Nat} (h : (s.core c).tagsBad = []) (b i : Nat) (v : Word) :
    tagWrite s c b i v = s.setCore c { s.core c with tags := Tab.set 0 (1024 * b + i) v (s.core c).tags } := by
  simp [tagWrite, State.onCore, h]

theorem tagClear_of_noBad {s : State} {c : Nat} (h : (s.core c).tagsBad = []) (b i n : Nat) :
    tagClear s c b i (n + 1) = s.setCore c { s.core c with tags := tagsCleared (1024 * b + i) (n + 1) (s.core c).tags } := by
  induction n generalizing s i with
  | zero => simp [tagClear, tagRead_of_noBad h, tagWrite_of_noBad h, tagsCleared]
  | succ n ih =>
    have hstep : tagClear s c b i (n + 1 + 1) =
        tagClear (tagWrite s c b i (Tab.get 0 (s.core c).tags (1024 * b + i) &&& 0x7FFFFFFFFFFFFFFF#64)) c b (i + 1) (n + 1) := by
      rw [tagClear, tagRead_of_noBad h]
    rw [hstep, tagWrite_of_noBad h, ih (by simpa using h), setCore_core_get, if_pos rfl]
    refine setCore_setCore (fun hinit => ?_) s c
    have hnil : Tab.set 0 (1024 * b + i) (Tab.get 0 (s.core c).tags (1024 * b + i) &&& 0x7FFFFFFFFFFFFFFF#64) (s.core c).tags = [] :=
      congrArg Core.tags hinit
    rw [hnil] at hinit ⊢
    rw [tagsCleared_nil, hinit]

/-! ### Reads and stores of a scratchpad without uncorrectable words (R191, R192, R195) -/

theorem spLoad_of_noBad {s : State} {c : Nat} (h : (s.core c).spadBad = []) (o n : Nat) :
    spLoad s c o n = (s, spadGet (s.core c).spad o n) := by
  simp [spLoad, spadLoad, spadErrs, logWords, h]

theorem ownLoad_of_plain {s : State} {c : Nat} (h : PlainSpad s c) (o n : Nat) :
    ownLoad s c o n = (s, spadGet (s.core c).spad o n) := by
  obtain ⟨hbad, hearly, -⟩ := h
  simp [ownLoad, ownView, spLoad_of_noBad hbad, hearly]

/-- Where no effect falls due, no output stream writes ahead of the reads. -/
theorem earlyOuts_of_plain {s : State} {c : Nat} (h : PlainSpad s c) : earlyOuts s c = s := by
  obtain ⟨-, -, hdue⟩ := h
  have hnone : (s.core c).due.filter (fun d => decide (d.at_ ≤ (s.core c).cyc)) = [] :=
    List.filter_eq_nil_iff.mpr fun d hd => by simpa using hdue d hd
  simp only [earlyOuts, hnone, List.foldl_nil]

/-- Core `c` with another scratchpad. -/
def withSpad (s : State) (c : Nat) (m : Tab Word) : State := s.setCore c { s.core c with spad := m }

@[simp] theorem withSpad_spad (s : State) (c : Nat) (m : Tab Word) : ((withSpad s c m).core c).spad = m := by simp [withSpad]

theorem withSpad_eq (s : State) (c : Nat) (m : Tab Word) :
    withSpad s c m = s.setCore c { s.core c with spad := ((withSpad s c m).core c).spad } := by
  rw [withSpad_spad]; rfl

/-- The list of uncorrectable words that a store answers where there was none is the one that stood there. -/
theorem setCore_spad_noBad {s : State} {c : Nat} (h : (s.core c).spadBad = []) (m : Tab Word) :
    s.setCore c { s.core c with spad := m, spadBad := [] } = withSpad s c m :=
  congrArg (fun l => s.setCore c { s.core c with spad := m, spadBad := l }) h.symm

/-- A write of bits changes those bits of one scratchpad, and nothing else. -/
theorem onlySpad_spadPut (s : State) (c o n v : Nat) :
    OnlySpad s (withSpad s c (spadPut (s.core c).spad [] o n v).1) c o n v := by
  refine ⟨withSpad_eq _ _ _, ?_, fun p m hd => ?_⟩
  · rw [withSpad_spad, spadGet_spadPut_self]
  · rw [withSpad_spad, spadGet_spadPut_disjoint _ _ _ _ _ _ hd]

theorem spRmw_of_noBad {s : State} {c : Nat} (h : (s.core c).spadBad = []) (o n : Nat) (f : Nat → Nat) :
    spRmw s c o n f =
      (withSpad s c (spadPut (s.core c).spad [] o n (f (spadGet (s.core c).spad o n))).1, spadGet (s.core c).spad o n) := by
  rw [← setCore_spad_noBad h]
  simp [spRmw, spadLoad, spadErrs, logWords, h, spadPut_nil]

/-! ### Masked stores (R195) -/

theorem packList_span (w : Nat) (g : Nat → Nat) (a n : Nat) : packList w ((span a n).map g) = gather g w a n := by
  induction n generalizing a with
  | zero => rfl
  | succ n ih => rw [span, List.map_cons, packList, gather, ih]

/-- Bit `i` of the mask of a masked store is the mask bit of its granule of 16 bits. -/
theorem testBit_stmBits (m : Word) (i : Nat) : (stmBits m).testBit i = (decide (i < 1024) && m.getLsbD (i / 16)) := by
  have hgranule : storeBit (fun k => if flag m k = true then 0xFFFF else 0) 16 (16 * 0 + i) = m.getLsbD (i / 16) := by
    have hall : (0xFFFF : Nat).testBit (i % 16) = true := by
      rw [show (0xFFFF : Nat) = 2 ^ 16 - 1 from rfl, Nat.testBit_two_pow_sub_one]
      simpa using Nat.mod_lt i (by decide)
    rw [storeBit, flag, Nat.mul_zero, Nat.zero_add]
    cases m.getLsbD (i / 16)
    · exact Nat.zero_testBit _
    · exact hall
  rw [stmBits, packList_span, testBit_gather _ _ _ _ _ (by decide), hgranule]

/-- The words of a scratchpad after a write of the bits of word `k` that `mask` names (R192). -/
def maskedPut (m : Tab Word) (k mask v : Nat) : Tab Word :=
  if mask = 0 then m else Tab.set 0 k (wordN (((Tab.get 0 m k).toNat &&& (2 ^ 64 - 1 - mask)) ||| (v &&& mask))) m

/-- A masked write to a scratchpad without uncorrectable words goes word by word. -/
theorem spadMasked_cons (m : Tab Word) (k mask v : Nat) (r : List (Nat × Nat)) :
    spadMasked m [] k ((mask, v) :: r) = spadMasked (maskedPut m k mask v) [] (k + 1) r := by
  by_cases h : mask = 0 <;> simp [spadMasked, maskedPut, h]

theorem spadMasked_clears_none (m : Tab Word) (k : Nat) (ws : List (Nat × Nat)) : (spadMasked m [] k ws).2 = ([], []) := by
  induction ws generalizing m k with
  | nil => rfl
  | cons e r ih => exact (congrArg Prod.snd (spadMasked_cons m k e.1 e.2 r)).trans (ih _ _)

theorem testBit_maskedPut (m : Tab Word) (k v j : Nat) {mask i : Nat} (hm : mask < 2 ^ 64) (hi : i < 64) :
    (Tab.get 0 (maskedPut m k mask v) j).toNat.testBit i =
      if j = k ∧ mask.testBit i = true then v.testBit i else (Tab.get 0 m j).toNat.testBit i := by
  have hnot : (2 ^ 64 - 1 - mask).testBit i = !mask.testBit i := by
    rw [show 2 ^ 64 - 1 - mask = 2 ^ 64 - (mask + 1) by omega, Nat.testBit_two_pow_sub_succ hm]
    simp [hi]
  unfold maskedPut
  by_cases h0 : mask = 0
  · simp [h0]
  · rw [if_neg h0, tab_get_set]
    by_cases hj : j = k
    · rw [if_pos hj, hj, wordN, BitVec.toNat_ofNat, Nat.testBit_mod_two_pow, Nat.testBit_or, Nat.testBit_and, Nat.testBit_and, hnot]
      cases mask.testBit i <;> simp [hi]
    · rw [if_neg hj, if_neg (fun h => hj h.1)]

/-- A bit of a word after a masked write of `n` words from word `k`, whose masks and values are those of `f` from `a`. -/
theorem testBit_spadMasked {f : Nat → Nat × Nat} (hf : ∀ a, (f a).1 < 2 ^ 64) (m : Tab Word) (k a n j : Nat) {i : Nat} (hi : i < 64) :
    (Tab.get 0 (spadMasked m [] k ((span a n).map f)).1 j).toNat.testBit i =
      if (k ≤ j ∧ j < k + n) ∧ (f (a + (j - k))).1.testBit i = true then (f (a + (j - k))).2.testBit i
      else (Tab.get 0 m j).toNat.testBit i := by
  induction n generalizing m k a with
  | zero => rw [if_neg (by omega)]; rfl
  | succ n ih =>
    rw [span, List.map_cons, spadMasked_cons, ih, testBit_maskedPut m k _ j (hf a) hi]
    by_cases hj : j = k
    · subst hj; simp
    · have hrange : (k + 1 ≤ j ∧ j < k + 1 + n) ↔ (k ≤ j ∧ j < k + (n + 1)) := by omega
      by_cases hk : k ≤ j
      · simp only [hj, false_and, if_false, hrange, show a + 1 + (j - (k + 1)) = a + (j - k) by omega]
      · rw [if_neg (by omega), if_neg (fun h => hj h.1), if_neg (by omega)]

/-- Word `k` of a masked store at `o`: its mask and its value (R195). -/
def stmWord (o : Nat) (v : Wide) (m : Word) (k : Nat) : Nat × Nat :=
  ((stmBits m <<< (o % 64)) >>> (64 * k) % 2 ^ 64, (v.toNat <<< (o % 64)) >>> (64 * k) % 2 ^ 64)

/-- The scratchpad after a masked store. -/
def stmSpad (p : Tab Word) (o : Nat) (v : Wide) (m : Word) : Tab Word :=
  (spadMasked p [] (o / 64) ((span 0 17).map (stmWord o v m))).1

theorem stmStore_of_noBad {s : State} {c : Nat} (h : (s.core c).spadBad = []) (o : Nat) (v : Wide) (m : Word) :
    stmStore s c o v m = withSpad s c (stmSpad (s.core c).spad o v m) := by
  have hall : spadMasked (s.core c).spad (s.core c).spadBad (o / 64) ((span 0 17).map (stmWord o v m)) =
      (stmSpad (s.core c).spad o v m, [], []) := by
    rw [h]
    exact Prod.ext rfl (spadMasked_clears_none _ _ _)
  unfold stmWord at hall
  unfold stmStore
  dsimp only
  rw [hall]
  exact setCore_spad_noBad h _

/-- A bit of the scratchpad after a masked store: the bit of the value in the granules that the mask names, and what stood there
anywhere else. -/
theorem storeBit_stmSpad (p : Tab Word) (o : Nat) (v : Wide) (m : Word) (a : Nat) :
    storeBit (fun k => (Tab.get 0 (stmSpad p o v m) k).toNat) 64 a =
      if (o ≤ a ∧ a < o + 1024) ∧ m.getLsbD ((a - o) / 16) = true then v.toNat.testBit (a - o)
      else storeBit (fun k => (Tab.get 0 p k).toNat) 64 a := by
  have hi : a % 64 < 64 := Nat.mod_lt a (by decide)
  unfold storeBit
  dsimp only
  rw [stmSpad, testBit_spadMasked (f := stmWord o v m) (fun _ => Nat.mod_lt _ (by decide)) p (o / 64) 0 17 (a / 64) hi]
  simp only [stmWord, Nat.testBit_mod_two_pow, Nat.testBit_shiftRight, Nat.testBit_shiftLeft, testBit_stmBits]
  by_cases ho : o ≤ a
  · have hbit : 64 * (0 + (a / 64 - o / 64)) + a % 64 = a - o + o % 64 := by omega
    simp only [hbit, Nat.add_sub_cancel, hi, decide_true, Bool.true_and, Nat.le_add_left, ho, true_and]
    by_cases hn : a - o < 1024
    · simp [hn, show o / 64 ≤ a / 64 ∧ a / 64 < o / 64 + 17 by omega, show a < o + 1024 by omega]
    · simp [hn, show ¬ a < o + 1024 by omega]
  · rw [if_neg, if_neg (fun h => ho h.1.1)]
    rintro ⟨hrange, hmask⟩
    simp only [Bool.and_eq_true, decide_eq_true_eq] at hmask
    omega

/-- A masked store of 1,024 bits writes the granules of 16 bits that its mask names, and no other bit (R195). -/
theorem spadGet_stmSpad_granule (p : Tab Word) (o : Nat) (v : Wide) (m : Word) {k : Nat} (hk : k < 64) :
    spadGet (stmSpad p o v m) (o + 16 * k) 16 =
      if m.getLsbD k = true then v.toNat / 2 ^ (16 * k) % 2 ^ 16 else spadGet p (o + 16 * k) 16 := by
  refine Nat.eq_of_testBit_eq fun i => ?_
  rw [spadGet_eq_storeBits, testBit_storeBits _ _ _ _ _ (by decide), storeBit_stmSpad, apply_ite (Nat.testBit · i),
    spadGet_eq_storeBits, testBit_storeBits _ _ _ _ _ (by decide), Nat.testBit_mod_two_pow, Nat.testBit_div_two_pow]
  by_cases hi : i < 16
  · have hin : o ≤ o + 16 * k + i ∧ o + 16 * k + i < o + 1024 := by omega
    have hgranule : (o + 16 * k + i - o) / 16 = k := by omega
    have hoff : o + 16 * k + i - o = i + 16 * k := by omega
    rw [hgranule, hoff]
    cases m.getLsbD k <;> simp [hi, hin]
  · simp [hi]

theorem spadGet_stmSpad_disjoint (p : Tab Word) (o : Nat) (v : Wide) (m : Word) {q n : Nat} (hd : q + n ≤ o ∨ o + 1024 ≤ q) :
    spadGet (stmSpad p o v m) q n = spadGet p q n := by
  refine Nat.eq_of_testBit_eq fun i => ?_
  rw [spadGet_eq_storeBits, spadGet_eq_storeBits, testBit_storeBits _ _ _ _ _ (by decide), testBit_storeBits _ _ _ _ _ (by decide),
    storeBit_stmSpad]
  by_cases hi : i < n
  · rw [if_neg (by omega)]
  · simp [hi]

end Sys2Proof.Proofs
end

section
/-!
PROOFS. What each effect of a unit operation changes when it reaches its cycle, and the frame of scheduling one (O14).
-/
namespace Sys2Proof.Proofs

open Sys2Proof.Machine Sys2Proof.Laws Sys2Proof.Stmt

/-! ### Effects in the registers of a core (R158, R160, R178) -/

/-- An effect that lands in the registers, and in those of the checkpoint where it was issued before it, changes nothing else. -/
theorem onlyDup_landDup (s : State) (c iss : Nat) (f : Dup → Dup) :
    OnlyDup s (s.onCore c (fun x => x.landDup iss f)) c iss f := by
  refine ⟨fun h => ?_, fun h => ?_⟩
  · rw [State.onCore, landDup_cases, if_neg (by omega)]
  · rw [State.onCore, landDup_cases, if_pos h]

theorem latchEffects : Stmt.LatchEffects := by
  intro s c iss n v x u
  have hu : u = s.onCore c (fun x => x.landDup iss (fun d => d.setLatch n v)) := rfl
  have hx : u.core c = x.landDup iss (fun d => d.setLatch n v) := by rw [hu, onCore_core_get, if_pos rfl]
  have hdup : (u.core c).dup = x.dup.setLatch n v := by rw [hx, landDup_dup]
  refine ⟨?_, ?_, ?_, fun m hm => ?_, fun h => ?_, fun h => ?_⟩
  · rw [hx, hu]; rfl
  · rw [hdup]; rfl
  · rw [hdup, setLatch_latch_get, if_pos rfl]
  · rw [hdup, setLatch_latch_get, if_neg hm]
  · rw [hdup, hx, landDup_cases, if_neg (by omega)]
  · rw [hdup, hx, landDup_cases, if_pos h]

/-- Condition register `m` after a write of condition register `n` (R164). -/
theorem setC_creg_get (d : Dup) {n m : Nat} (b : Bool) (hm : m < 7) : (d.setC n b).creg m = if m = n then b else d.creg m := by
  have hbit : (b2n b).testBit 0 = b := by cases b <;> rfl
  rw [Dup.creg, Dup.setC, BitVec.getLsbD_ofNat, testBit_putBits]
  by_cases h : m = n
  · simp [h, hbit, show n < 7 by omega]
  · rw [if_neg (by omega), if_neg h]
    simp [hm, Dup.creg, BitVec.getLsbD]

theorem registerEffects : Stmt.RegisterEffects := by
  refine ⟨fun s c iss => ?_, fun d n => ?_⟩
  · exact ⟨fun _ _ => onlyDup_landDup _ _ _ _, fun _ _ => onlyDup_landDup _ _ _ _, fun _ _ => onlyDup_landDup _ _ _ _,
      fun _ _ => onlyDup_landDup _ _ _ _, fun _ _ => onlyDup_landDup _ _ _ _, fun _ _ => onlyDup_landDup _ _ _ _⟩
  · exact ⟨fun v => ⟨rfl, setWlatch_wlatch_get d n v⟩, fun b _ => ⟨rfl, fun m hm => setC_creg_get d b hm⟩,
      fun v => ⟨rfl, writeG_greg_get d n v⟩, fun r => ⟨rfl, setMd_mdOf_get d n r⟩, fun e => ⟨rfl, setFmt_fmtOf_get d n e⟩⟩

/-! ### Effects in the scratchpad and the tag table (R160, R191, R195, R198) -/

/-- What a load of `w` schedules: its latch, or its register where it has one (R195). -/
def loadFx (copy : Bool) (reg : Option Nat) (w : Word) : Fx :=
  match reg with
  | none => .lat (lLSr copy) w
  | some r => .gFull r w

section
variable {s : State} {c : Nat} (hp : PlainSpad s c)
include hp

/-- A read finds the bits of its cycle, and schedules them. -/
theorem landFx_spRead (iss o n : Nat) (copy sx : Bool) (reg : Option Nat) :
    landFx s c iss (.spRead copy o n sx reg) =
      s.setCore c ((s.core c).schedAt iss 3 rReg (loadFx copy reg (extend sx (spadGet (s.core c).spad o n) n))) := by
  simp only [landFx, isReadFx, if_pos, earlyOuts_of_plain hp, landLocal, ownLoad_of_plain hp]
  cases reg <;> rfl

theorem landFx_spReadV (iss o : Nat) (copy : Bool) :
    landFx s c iss (.spReadV copy o) =
      s.setCore c ((s.core c).schedAt iss 4 rReg (.wlat (lLSv copy) (BitVec.ofNat 1024 (spadGet (s.core c).spad o 1024)))) := by
  simp only [landFx, isReadFx, if_pos, earlyOuts_of_plain hp, landLocal, ownLoad_of_plain hp]
  rfl

end

section
variable {s : State} {c : Nat} (hbad : (s.core c).spadBad = [])
include hbad

theorem landFx_spWrite (iss o n : Nat) (v : Wide) :
    landFx s c iss (.spWrite o n v none) = withSpad s c (spadPut (s.core c).spad [] o n v.toNat).1 := by
  rw [← setCore_spad_noBad hbad, ← spStore_of_noBad s c o n v.toNat hbad]
  rfl

theorem landFx_spWrite_masked (iss o n : Nat) (v : Wide) (m : Word) :
    landFx s c iss (.spWrite o n v (some m)) = withSpad s c (stmSpad (s.core c).spad o v m) :=
  stmStore_of_noBad hbad o v m

theorem landFx_spSwap (iss o n : Nat) (copy : Bool) (v : Word) :
    landFx s c iss (.spSwap copy o n v) = (withSpad s c (spadPut (s.core c).spad [] o n v.toNat).1).onCore c
      (fun x => x.schedAt iss 3 rReg (.lat (lLSr copy) (wordN (spadGet (s.core c).spad o n)))) := by
  have hrmw := spRmw_of_noBad hbad o n (fun _ => v.toNat)
  show (spRmw s c o n (fun _ => v.toNat)).1.onCore c
    (fun x => x.schedAt iss 3 rReg (.lat (lLSr copy) (wordN (spRmw s c o n (fun _ => v.toNat)).2))) = _
  rw [hrmw]

theorem landFx_spBor (iss o n : Nat) (v : Word) :
    landFx s c iss (.spBor o n v) =
      withSpad s c (spadPut (s.core c).spad [] o n (spadGet (s.core c).spad o n ||| v.toNat % 2 ^ n)).1 :=
  congrArg Prod.fst (spRmw_of_noBad hbad o n (fun old => old ||| v.toNat % 2 ^ n))

end

section
variable {s : State} {c : Nat} (hbad : (s.core c).tagsBad = [])
include hbad

theorem landFx_tagGet (iss b i : Nat) (copy : Bool) :
    landFx s c iss (.tagGet copy b i) =
      s.onCore c (fun x => x.schedAt iss 3 rReg (.lat (lLSt copy) (Tab.get 0 (s.core c).tags (1024 * b + i)))) := by
  show (tagRead s c b i).1.onCore c (fun x => x.schedAt iss 3 rReg (.lat (lLSt copy) (tagRead s c b i).2)) = _
  rw [tagRead_of_noBad hbad]

theorem landFx_tagSet (iss b i : Nat) (v : Word) :
    landFx s c iss (.tagSet b i v) = s.setCore c { s.core c with tags := Tab.set 0 (1024 * b + i) v (s.core c).tags } :=
  tagWrite_of_noBad hbad b i v

theorem landFx_tagClr (iss b : Nat) {i j : Nat} (hij : i ≤ j) :
    landFx s c iss (.tagClr b i j) =
      s.setCore c { s.core c with tags := tagsCleared (1024 * b + i) (j - i + 1) (s.core c).tags } := by
  rw [← tagClear_of_noBad hbad, show j - i + 1 = j + 1 - i by omega]
  rfl

end

theorem scratchpadEffects : Stmt.ScratchpadEffects := by
  intro s c iss o n copy hp x at_ old
  obtain ⟨hbad, -, -⟩ := id hp
  refine ⟨fun sx => ⟨landFx_spRead hp iss o n copy sx none, fun r => landFx_spRead hp iss o n copy sx (some r)⟩,
    landFx_spReadV hp iss o copy, fun v => ?_, fun v m => ?_, fun v _ => ?_, fun v => ?_,
    fun b i htags _ => ⟨?_, fun v => ?_, fun j hij => ?_⟩⟩
  · rw [landFx_spWrite hbad]
    exact onlySpad_spadPut s c o n v.toNat
  · intro u
    have hu : u = withSpad s c (stmSpad x.spad o v m) := landFx_spWrite_masked hbad iss o 1024 v m
    rw [hu, withSpad_spad]
    exact ⟨rfl, fun k hk => spadGet_stmSpad_granule x.spad o v m hk, fun p k hd => spadGet_stmSpad_disjoint x.spad o v m hd⟩
  · exact ⟨_, onlySpad_spadPut s c o n v.toNat, landFx_spSwap hbad iss o n copy v⟩
  · rw [landFx_spBor hbad]
    exact onlySpad_spadPut s c o n _
  · exact landFx_tagGet htags iss b i copy
  · intro u
    have hu : u = s.setCore c { x with tags := Tab.set 0 (1024 * b + i) v x.tags } := landFx_tagSet htags iss b i v
    have htab : (u.core c).tags = Tab.set 0 (1024 * b + i) v x.tags := by rw [hu, setCore_core_get, if_pos rfl]
    exact ⟨by rw [htab, hu], fun k => (congrArg (Tab.get 0 · k) htab).trans (tab_get_set _ _ _ _ _)⟩
  · intro u
    have hu : u = s.setCore c { x with tags := tagsCleared (1024 * b + i) (j - i + 1) x.tags } := landFx_tagClr htags iss b hij
    have htab : (u.core c).tags = tagsCleared (1024 * b + i) (j - i + 1) x.tags := by rw [hu, setCore_core_get, if_pos rfl]
    refine ⟨by rw [htab, hu], fun k => (congrArg (Tab.get 0 · k) htab).trans ?_⟩
    rw [tab_get_tagsCleared]
    exact if_congr (by omega) rfl rfl

/-! ### Effects in the notify registers, the system registers and the link queues (R311 to R313, R370, R375) -/

theorem notifyOf_setNotify (s : State) (n : Nat) (r : Notify) (k : Nat) :
    notifyOf (setNotify s n r) k = if k = n then r else notifyOf s k := tab_get_set _ _ _ _ _

/-- A binding of an inbound queue stands on its core, with the rows that were there (R312). -/
theorem lqBindNow_in_core (s : State) (c n rlen key omask wn : Nat) :
    (lqBindNow s c n false rlen key omask wn).core c =
      (s.core c).setLq n { LinkQ.init with bound := true, rlen := rlen, key := key, rows := ((s.core c).lqOf n).rows } := by
  simp only [lqBindNow, Bool.false_eq_true, if_false, onCore_core_get, if_true]
  rfl

/-- A binding of an outbound queue names the target of its window, and keeps the credits that its connect has brought (R312). -/
theorem lqBindNow_out_lqOf {s t : State} {c wn : Nat} {w : Window} (hw : Machine.window s (ctxOf s c) wn = (t, .ok w))
    (n rlen key omask : Nat) :
    ((lqBindNow s c n true rlen key omask wn).core c).lqOf n =
      { LinkQ.init with bound := true, out := true, rlen := rlen, key := key, omask := omask, tdom := w.domain, tmem := w.member,
                        tctx := w.tctx, seq := ((s.core c).lqOf n).seq, credits := ((s.core c).lqOf n).credits,
                        failed := ((s.core c).lqOf n).failed } := by
  simp only [lqBindNow, if_true, hw, onCore_core_get, setLq_get]

theorem findKey_dropKey (s : State) (ctx key : Nat) : findKey (dropKey s ctx key) ctx key = none := by
  refine List.find?_eq_none.mpr fun k hk => ?_
  simpa [imp_iff_not_or] using (List.mem_filter.mp hk).2

/-- A freed outbound queue is unbound, and keeps its released rows (R313). -/
theorem lqFreeNow_out_lqOf {s : State} {c n : Nat} (hb : ((s.core c).lqOf n).bound = true) (ho : ((s.core c).lqOf n).out = true) :
    (((lqFreeNow s c n).core c).lqOf n).bound = false ∧
      (((lqFreeNow s c n).core c).lqOf n).rows = ((s.core c).lqOf n).rows.filter (·.rel) := by
  simp only [lqFreeNow, hb, ho, Bool.not_true, Bool.false_eq_true, if_false, if_true, onCore_core_get, setLq_get]
  split
  next h => exact ⟨rfl, (List.isEmpty_iff.mp h).symm⟩
  next => exact ⟨rfl, rfl⟩

/-- A freed inbound queue gives up its key and its rows (R313). -/
theorem lqFreeNow_in {s : State} {c n : Nat} (hb : ((s.core c).lqOf n).bound = true) (ho : ((s.core c).lqOf n).out = false) :
    lqFreeNow s c n = (dropKey s (ctxOf s c) ((s.core c).lqOf n).key).onCore c (fun x => x.setLq n LinkQ.init) := by
  simp only [lqFreeNow, hb, ho, Bool.not_true, Bool.false_eq_true, if_false]

theorem lqFreeNow_unbound {s : State} {c n : Nat} (hb : ((s.core c).lqOf n).bound = false) : lqFreeNow s c n = s := by
  simp only [lqFreeNow, hb, Bool.not_false, if_true]

theorem systemEffects : Stmt.SystemEffects := by
  intro s c iss n x
  refine ⟨fun b j => ?_, fun v => rfl, fun v => rfl, fun v => rfl, fun rlen key omask wn _ => ?_,
    fun rlen key omask wn _ w t hw => ?_, fun hb => lqFreeNow_unbound hb, fun hb => ⟨?_, fun ho => ?_, fun ho => ?_⟩⟩
  · intro u
    refine ⟨fun k => ?_, ?_, rfl, fun k hk => ?_⟩
    · exact (notifyOf_setNotify s _ { notifyOf s (256 * b + j) with cnt := 0, coal := false } k).trans
        (ite_congr rfl (fun h => by rw [h]) (fun _ => rfl))
    · exact (onCore_core_get _ _ _ _).trans (if_pos rfl)
    · exact (onCore_core_get _ _ _ _).trans (if_neg hk)
  · intro q
    have hq : q = x.setLq n { LinkQ.init with bound := true, rlen := rlen, key := key, rows := (x.lqOf n).rows } :=
      lqBindNow_in_core s c n rlen key omask wn
    have hlq : q.lqOf n = { LinkQ.init with bound := true, rlen := rlen, key := key, rows := (x.lqOf n).rows } := by
      rw [hq, setLq_get, if_pos rfl]
    rw [hlq]
    exact ⟨hq, rfl, rfl, rfl, rfl, rfl⟩
  · intro q
    rw [show q = _ from lqBindNow_out_lqOf hw n rlen key omask]
    exact ⟨rfl, rfl, rfl, rfl, rfl, rfl, rfl, rfl, rfl, rfl⟩
  · cases ho : (x.lqOf n).out with
    | true => exact (lqFreeNow_out_lqOf hb ho).1
    | false =>
      show (((lqFreeNow s c n).core c).lqOf n).bound = false
      rw [lqFreeNow_in hb ho, onCore_core_get, if_pos rfl, setLq_get, if_pos rfl]
      rfl
  · exact (lqFreeNow_out_lqOf hb ho).2
  · show findKey (lqFreeNow s c n) (ctxOf s c) (x.lqOf n).key = none
    rw [lqFreeNow_in hb ho]
    exact findKey_dropKey s _ _

/-! ### Scheduling (R160) -/

/-- What is inserted into the effects that are due is one of them, and no other is. -/
theorem mem_insertDue (d e : Due) (l : List Due) : d ∈ insertDue e l ↔ d ∈ l ∨ d = e := by
  induction l with
  | nil => simp [insertDue]
  | cons y r ih =>
    rw [insertDue]
    split
    · simp [or_comm]
    · simp [ih, or_assoc]

theorem plannedFrame : Stmt.PlannedFrame := by
  intro s c off rank fx
  have hcore : (planned s c off rank fx).core c = (s.core c).sched off rank fx := by rw [plan_core, if_pos rfl]
  refine ⟨⟨rfl, fun k hk => ?_, ?_⟩, fun _ => rfl, fun d => ?_⟩
  · rw [plan_core, if_neg hk]
  · rw [hcore]; rfl
  · rw [hcore]; exact mem_insertDue _ _ _

/-- Settles O14: each effect is one change of one core, whose registers, scratchpad, tag entries or link queue read back what landed. -/
theorem effectsLand : Obligations.EffectsLand :=
  ⟨latchEffects, registerEffects, scratchpadEffects, systemEffects, plannedFrame⟩

end Sys2Proof.Proofs
end

section
/-!
PROOFS. The integer units: their results, and the condition registers that compares write (O7).
-/
namespace Sys2Proof.Proofs

open Sys2Proof.Machine Sys2Proof.Laws Sys2Proof.Stmt

/-! ### Words as numbers (R163, R165) -/

theorem fld_low {n : Nat} (v : BitVec n) (hi : Nat) : fld v hi 0 = v.toNat % 2 ^ (hi + 1) := rfl

section
variable {α : Type} [LinearOrder α] {f : Word → α} {g : α → Word}

/-- The lesser of two words, by a reading as numbers that words keep, is the word of the lesser number. -/
theorem ite_le_eq_min (hg : ∀ v, g (f v) = v) (a y : Word) : (if decide (f a ≤ f y) then a else y) = g (min (f a) (f y)) := by
  rw [min_def, apply_ite g, hg, hg]
  exact if_congr decide_eq_true_iff rfl rfl

theorem ite_le_eq_max (hg : ∀ v, g (f v) = v) (a y : Word) : (if decide (f y ≤ f a) then a else y) = g (max (f a) (f y)) := by
  rw [max_comm, max_def, apply_ite g, hg, hg]
  exact if_congr decide_eq_true_iff rfl rfl

end

theorem word_natAbs (y : Word) : word ((sgn y).natAbs : Int) = if y.toInt < 0 then -y else y := by
  simp only [word, sgn]
  split
  next h => rw [Int.ofNat_natAbs_of_nonpos (Int.le_of_lt h), BitVec.ofInt_neg, BitVec.ofInt_toInt]
  next h => rw [Int.natAbs_of_nonneg (Int.not_lt.mp h), BitVec.ofInt_toInt]

theorem shiftLeft_eq_ofNat (a : Word) (n : Nat) : a <<< n = BitVec.ofNat 64 (a.toNat * 2 ^ n) :=
  BitVec.eq_of_toNat_eq (by simp [Nat.shiftLeft_eq])

theorem ushiftRight_eq_ofNat (a : Word) (n : Nat) : a >>> n = BitVec.ofNat 64 (a.toNat / 2 ^ n) := by
  refine BitVec.eq_of_toNat_eq ?_
  rw [BitVec.toNat_ushiftRight, BitVec.toNat_ofNat, Nat.shiftRight_eq_div_pow,
    Nat.mod_eq_of_lt (Nat.lt_of_le_of_lt (Nat.div_le_self ..) a.isLt)]

theorem sshiftRight_eq_ofInt (a : Word) (n : Nat) : a.sshiftRight n = BitVec.ofInt 64 (a.toInt / 2 ^ n) := by
  rw [BitVec.sshiftRight, Int.shiftRight_eq_div_pow]
  rfl

theorem ofInt_sub_toNat (a y : Word) : a - y = BitVec.ofInt 64 ((a.toNat : Int) - y.toNat) := by bv_omega

theorem ofNat_toNat_word (v : Word) : BitVec.ofNat 64 v.toNat = v := by rw [BitVec.ofNat_toNat, BitVec.setWidth_eq]

/-! ### Results (R165) -/

theorem iaResults : Stmt.IaResults := by
  intro t s a y k res
  have hres : ∀ {i : Instr} {v w : Word}, exec i s = finish s t.core (iaRes t s v) → v = w → Gives i s (res w) := by
    rintro i v _ hi rfl
    exact hi
  refine ⟨hres rfl (BitVec.add_def _ _), hres rfl (ofInt_sub_toNat _ _), hres rfl rfl, hres rfl rfl, hres rfl rfl, hres rfl rfl,
    hres rfl (shiftLeft_eq_ofNat _ _), hres rfl (ushiftRight_eq_ofNat _ _), hres rfl (sshiftRight_eq_ofInt _ _), hres rfl rfl,
    hres rfl (ite_le_eq_min (fun _ => BitVec.ofInt_toInt) _ _), hres rfl (ite_le_eq_max (fun _ => BitVec.ofInt_toInt) _ _),
    hres rfl (ite_le_eq_min ofNat_toNat_word _ _), hres rfl (ite_le_eq_max ofNat_toNat_word _ _), hres rfl rfl,
    hres rfl (word_natAbs _), hres rfl rfl, hres rfl rfl, hres rfl rfl, hres rfl rfl, hres rfl rfl⟩

/-! ### Compares (R164 to R166) -/

section
variable {t : Trig} {s : State} {e : Instr} {i minor : Nat} {b : Bool}
  (he : exec e s = finish s t.core (condWrite t s i minor b))
include he

/-- An operation that ends in a condition write schedules it for t+2. -/
theorem gives_condWrite (hi : i ≠ 7) : Gives e s (planned s t.core 2 (rC minor) (.creg i b)) := by
  rw [Gives, he, condWrite, if_neg hi]
  rfl

theorem gives_condWrite_c7 (hi : i = 7) : Gives e s (takeTrap s t.core (trapIllegal t.slot)) := by
  rw [Gives, he, condWrite, if_pos hi]
  rfl

end

theorem bne_eq_decide_ne (v w : Word) : (v != w) = decide (v ≠ w) := (decide_not ..).symm

theorem iaCompares : Stmt.IaCompares := by
  intro t s a y i set
  refine ⟨fun hi => ⟨?cmpeq, ?cmpne, ?cmplt, ?cmple, ?cmpltu, ?cmpleu, ?tst⟩, fun hi => ?c7⟩
  case cmpne => exact bne_eq_decide_ne a y ▸ gives_condWrite rfl hi
  case tst => exact bne_eq_decide_ne (a &&& y) 0 ▸ gives_condWrite rfl hi
  case c7 =>
    simp only [List.mem_cons, List.not_mem_nil, or_false]
    rintro e (rfl | rfl | rfl | rfl | rfl | rfl | rfl) <;> exact gives_condWrite_c7 rfl hi
  all_goals exact gives_condWrite rfl hi

/-- Settles O7: each operation is one function of the port and the trigger, read here as an operation on numbers. -/
theorem integerUnit : Obligations.IntegerUnit := ⟨iaResults, iaCompares⟩

end Sys2Proof.Proofs
end

section
/-!
PROOFS. The multiplier and the divider: products, quotients and remainders, and the divider's reply (O8).
-/
namespace Sys2Proof.Proofs

open Sys2Proof.Machine Sys2Proof.Laws Sys2Proof.Stmt

/-! ### Products (R167) -/

theorem word_toInt_mul (a y : Word) : a * y = BitVec.ofInt 64 (a.toInt * y.toInt) := by
  rw [BitVec.ofInt_mul, BitVec.ofInt_toInt, BitVec.ofInt_toInt]

theorem imProducts : Stmt.ImProducts := by
  intro t s a res
  exact ⟨congrArg (fun v => Host.Outcome.next (planned s t.core 4 rReg (.lat lIM v))) (word_toInt_mul a t.y), rfl, rfl, rfl⟩

/-! ### Divides (R168, R169) -/

/-- What a divide by another word than 0 leaves: a quotient rounded toward zero, and its remainder. -/
theorem divResult_signed {a y : Word} (hy : y ≠ 0) : ∃ n, divResult true a y =
    (BitVec.ofInt 64 (a.toInt.tdiv y.toInt), BitVec.ofInt 64 (a.toInt.tmod y.toInt), n) := by
  rw [divResult, if_neg hy, if_pos rfl, Int.tmod_def]
  exact ⟨_, rfl⟩

theorem divResult_unsigned {a y : Word} (hy : y ≠ 0) : ∃ n, divResult false a y =
    (BitVec.ofNat 64 (a.toNat / y.toNat), BitVec.ofNat 64 (a.toNat % y.toNat), n) :=
  ⟨_, (if_neg hy).trans (if_neg Bool.false_ne_true)⟩

theorem divResult_zero (signed : Bool) (a : Word) : divResult signed a 0 = (BitVec.allOnes 64, a, 6) := if_pos rfl

/-- The state in which the divider of core `c` holds the result `v` for register `r`, which is empty. -/
def dividing (s : State) (c r : Nat) (v : Word) (n : Nat) : State :=
  s.setCore c { s.core c with dup := (s.core c).dup.emptyG r, divide := some ⟨r, v, n, (s.core c).cyc, false⟩ }

section
variable {t : Trig} {s : State} {e : Instr} {signed rem : Bool} (he : exec e s = finish s t.core (opDivide t s signed rem))
include he

theorem gives_divide {q m : Word} {n : Nat} (hfree : (s.core t.core).divide = none)
    (hreg : ((s.core t.core).dup.greg ((portOf t s pIMd).toNat % 64)).st ≠ .empty)
    (hv : divResult signed (portOf t s pIMa) t.y = (q, m, n)) :
    Gives e s (dividing s t.core ((portOf t s pIMd).toNat % 64) (if rem then m else q) n) := by
  have hr : fld (portOf t s pIMd) 5 0 = (portOf t s pIMd).toNat % 64 := rfl
  rw [Gives, he]
  simp only [opDivide, hr, withReg, if_neg hreg, hfree, Option.isSome_none, Bool.false_eq_true, if_false, imA, hv]
  rfl

theorem gives_divide_stalls (hbusy : (s.core t.core).divide ≠ none) : Gives e s s := by
  rw [Gives, he, opDivide, if_pos (Option.isSome_iff_ne_none.mpr hbusy)]
  rfl

end

theorem imDivides : Stmt.ImDivides := by
  intro t s x a r u
  refine ⟨fun hfree hreg => ⟨fun hy => ?byZero, fun hy => ?byOther⟩, fun hbusy => ?stalls⟩
  case byZero =>
    have hv : ∀ signed, divResult signed a t.y = _ := fun signed => hy ▸ divResult_zero signed a
    exact ⟨gives_divide (rem := false) rfl hfree hreg (hv true), gives_divide (rem := false) rfl hfree hreg (hv false),
      gives_divide (rem := true) rfl hfree hreg (hv true), gives_divide (rem := true) rfl hfree hreg (hv false)⟩
  case byOther =>
    obtain ⟨n, hs⟩ := divResult_signed (a := a) hy
    obtain ⟨m, hu⟩ := divResult_unsigned (a := a) hy
    exact ⟨⟨n, gives_divide (rem := false) rfl hfree hreg hs⟩, ⟨n, gives_divide (rem := true) rfl hfree hreg hs⟩,
      ⟨m, gives_divide (rem := false) rfl hfree hreg hu⟩, ⟨m, gives_divide (rem := true) rfl hfree hreg hu⟩⟩
  case stalls =>
    simp only [List.mem_cons, List.not_mem_nil, or_false]
    rintro e (rfl | rfl | rfl | rfl) <;> exact gives_divide_stalls rfl hbusy

/-! ### The reply (R169) -/

theorem divideReplyNow_early {x : Core} {d : Divide} (hd : x.divide = some d) (hleft : d.left ≠ 0) : divideReplyNow x = x := by
  simp only [divideReplyNow, hd, if_neg hleft]

theorem divideReplyNow_fills {x : Core} {d : Divide} (hd : x.divide = some d) (hleft : d.left = 0) (hkeep : d.discard = false) :
    divideReplyNow x = fillG { x with divide := none } d.iss d.reg d.v := by
  simp only [divideReplyNow, hd, if_pos hleft, hkeep, Bool.false_eq_true, if_false]

theorem divideReply : Stmt.DivideReply := by
  intro c s d hd
  refine ⟨fun hleft => ?_, fun hleft hkeep => ⟨s.onCore c divideReplyNow, rfl, ?_, ?_, fun k hk => ?_, rfl⟩⟩
  · exact congrArg (fun x => Host.Outcome.next (s.setCore c x)) (divideReplyNow_early hd hleft)
  · rw [onCore_core_get, if_pos rfl, divideReplyNow_fills hd hleft hkeep, fillG, landDup_divide]
  · rw [onCore_core_get, if_pos rfl, divideReplyNow_fills hd hleft hkeep, fillG, landDup_dup, writeG_greg_get, if_pos rfl]
  · rw [onCore_core_get, if_neg hk]

/-- Settles O8: a divide's result is fixed when it issues, and its register is empty until the reply fills it. -/
theorem multiplyDivide : Obligations.MultiplyDivide := ⟨imProducts, imDivides, divideReply⟩

end Sys2Proof.Proofs
end

section
/-!
PROOFS. The pointer unit: pointer arithmetic, the checks, and the elements of its wide port (O9).
-/
namespace Sys2Proof.Proofs

open Sys2Proof.Machine Sys2Proof.Laws Sys2Proof.Stmt

/-! ### A pointer made from an exact address (R31, R33, R171) -/

/-- An exact address that a pointer does not hold. -/
def Beyond (x : Int) : Prop := x < 0 ∨ 2 ^ 56 ≤ x

theorem wrapw_lt (x : Int) (n : Nat) : wrapw x n < 2 ^ n := by
  have h := Int.emod_lt_of_pos x (show (0 : Int) < 2 ^ n by positivity)
  have h0 := Int.emod_nonneg x (show (2 : Int) ^ n ≠ 0 by positivity)
  unfold wrapw
  zify
  omega

open Classical in
theorem toNat_mkPtr (cls wc : Nat) (x : Int) :
    (mkPtr cls wc x).toNat = cls % 16 * 2 ^ 60 + wc % 8 * 2 ^ 57 + (if Beyond x then 1 else 0) * 2 ^ 56 + wrapw x 56 := by
  have hx := wrapw_lt x 56
  have hmal : (if x < 0 || x ≥ 2 ^ 56 then 1 else 0) = if Beyond x then 1 else 0 := if_congr (by simp [Beyond]) rfl rfl
  rw [mkPtr, wordN, BitVec.toNat_ofNat, hmal]
  simp only [Nat.shiftLeft_eq]
  split <;> omega

section
variable (cls wc : Nat) (x : Int)

theorem ptrAddr_mkPtr : (ptrAddr (mkPtr cls wc x) : Int) = x % 2 ^ 56 := by
  have hx := wrapw_lt x 56
  have haddr : ptrAddr (mkPtr cls wc x) = wrapw x 56 := by
    rw [ptrAddr, fld_low, toNat_mkPtr]
    omega
  rw [haddr, wrapw, Int.toNat_of_nonneg (Int.emod_nonneg _ (by decide))]

theorem ptrClass_mkPtr : ptrClass (mkPtr cls wc x) = cls % 16 := by
  classical
  have hx := wrapw_lt x 56
  rw [ptrClass, fld, bits, toNat_mkPtr, Nat.shiftRight_eq_div_pow]
  split <;> omega

theorem ptrWc_mkPtr : ptrWc (mkPtr cls wc x) = wc % 8 := by
  classical
  have hx := wrapw_lt x 56
  rw [ptrWc, fld, bits, toNat_mkPtr, Nat.shiftRight_eq_div_pow]
  split <;> omega

theorem ptrMal_mkPtr : ptrMal (mkPtr cls wc x) = true ↔ Beyond x := by
  classical
  have hx := wrapw_lt x 56
  rw [ptrMal, flag, BitVec.getLsbD, Nat.testBit_eq_decide_div_mod_eq, toNat_mkPtr, decide_eq_true_iff]
  split
  next h => exact iff_of_true (by omega) h
  next h => exact iff_of_false (by omega) h

end

/-! ### The malformed bit (R33) -/

theorem fld_malform (p : Word) {hi lo : Nat} (h : 2 ^ 56 >>> lo % 2 ^ (hi + 1 - lo) = 0) : fld (malform p) hi lo = fld p hi lo := by
  have hbit : (malform p).toNat = p.toNat ||| 2 ^ 56 := by rw [malform, BitVec.toNat_or]; rfl
  rw [fld, fld, bits, bits, hbit, Nat.shiftRight_or_distrib, Nat.or_mod_two_pow, h, Nat.or_zero]

theorem ptrMal_malform (p : Word) : ptrMal (malform p) = true := by
  rw [ptrMal, flag, malform, BitVec.getLsbD_or]
  exact Bool.or_true _

/-- A pointer moved by `z` elements of its width keeps its class and its width, and its address wraps (R33, R171). -/
theorem ptrStep_fields (a : Word) (z : Int) :
    let x := (ptrAddr a : Int) + z * ptrWidth a
    (ptrAddr (ptrStep a z) : Int) = x % 2 ^ 56 ∧ (ptrMal (ptrStep a z) = true ↔ ptrMal a = true ∨ x < 0 ∨ 2 ^ 56 ≤ x) ∧
      ptrClass (ptrStep a z) = ptrClass a ∧ ptrWc (ptrStep a z) = ptrWc a := by
  intro x
  have hclass : ptrClass a % 16 = ptrClass a := Nat.mod_eq_of_lt (fld_lt_two_pow a 63 60)
  have hwc : ptrWc a % 8 = ptrWc a := Nat.mod_eq_of_lt (fld_lt_two_pow a 59 57)
  have hstep : ptrStep a z = if ptrMal a then malform (mkPtr (ptrClass a) (ptrWc a) x) else mkPtr (ptrClass a) (ptrWc a) x := rfl
  rw [hstep]
  split
  next h =>
    refine ⟨?_, iff_of_true (ptrMal_malform _) (.inl h), ?_, ?_⟩
    · rw [ptrAddr, fld_malform _ (by decide)]
      exact ptrAddr_mkPtr ..
    · rw [ptrClass, fld_malform _ (by decide)]
      exact (ptrClass_mkPtr ..).trans hclass
    · rw [ptrWc, fld_malform _ (by decide)]
      exact (ptrWc_mkPtr ..).trans hwc
  next h =>
    exact ⟨ptrAddr_mkPtr .., (ptrMal_mkPtr ..).trans (by simp [h, Beyond]), (ptrClass_mkPtr ..).trans hclass,
      (ptrWc_mkPtr ..).trans hwc⟩

theorem bpPointers : Stmt.BpPointers := fun _ _ => ⟨ptrStep_fields _, rfl, rfl, rfl, rfl, rfl, rfl, rfl⟩

/-! ### Checks and elements (R170 to R172) -/

theorem widthOf_pos (c : Nat) : 0 < widthOf c := by
  unfold widthOf
  split <;> decide

/-- The field of `w` bits at `i` times `w`. -/
theorem fld_element {n : Nat} (v : BitVec n) (i : Nat) {w : Nat} (hw : 0 < w) :
    fld v (i * w + w - 1) (i * w) = v.toNat / 2 ^ (i * w) % 2 ^ w := by
  rw [fld, bits, Nat.shiftRight_eq_div_pow, show i * w + w - 1 + 1 - i * w = w by omega]

section
variable {t : Trig} {s : State} {e : Instr} {i : Nat} {k : Nat → Nat → Res} (he : exec e s = finish s t.core (bpElem t s i k))
include he

theorem gives_element {u : State} (hi : i < 1024 / widthOf (bpWc t s)) (hk : k i (widthOf (bpWc t s)) = .done u) : Gives e s u := by
  rw [Gives, he, bpElem, if_neg (Nat.not_le.mpr hi), hk]
  rfl

theorem gives_noElement (hi : 1024 / widthOf (bpWc t s) ≤ i) : Gives e s (takeTrap s t.core (trapIllegal t.slot)) := by
  rw [Gives, he, bpElem, if_pos hi]
  rfl

end

theorem bpChecksAndElements : Stmt.BpChecksAndElements := by
  intro t s k c v w i j
  have hfld : ∀ n, fld v (n * w + w - 1) (n * w) = _ := fun n => fld_element v n (widthOf_pos _)
  refine ⟨fun hc => ⟨gives_condWrite rfl hc, gives_condWrite rfl hc⟩,
    fun hc => ⟨gives_condWrite_c7 rfl hc, gives_condWrite_c7 rfl hc⟩,
    fun hi => ⟨?_, ?_⟩, fun hj => gives_element rfl hj rfl, fun hi => ⟨gives_noElement rfl hi, gives_noElement rfl hi⟩,
    fun hj => gives_noElement rfl hj⟩
  · exact hfld i ▸ gives_element rfl hi rfl
  · exact hfld i ▸ gives_element rfl hi rfl

/-- Settles O9: the fields of a moved pointer, and the elements that lie inside the value. -/
theorem pointerUnit : Obligations.PointerUnit := ⟨bpPointers, bpChecksAndElements⟩

end Sys2Proof.Proofs
end

section
/-!
PROOFS. The control unit's jumps, loops, segments and fences (O24).
-/
namespace Sys2Proof.Proofs

open Sys2Proof.Machine Sys2Proof.Laws Sys2Proof.Stmt

/-! ### The next bundle (R148, R149) -/

theorem takeSel_selected (s : State) (c : Nat) (x : Core) (p : Pc) :
    (s.setCore c { x with sel := some p }).onCore c takeSel = s.setCore c { x with pc := p, sel := none } := by
  rw [State.onCore, setCore_core_get, if_pos rfl]
  exact setCore_setCore (fun h => absurd (congrArg Core.sel h) (Option.some_ne_none p)) s c

theorem closeLoops_open {l : LoopEnt} {p : Pc} (h : l.stop ≠ p) (r : List LoopEnt) : closeLoops p (l :: r) = (l :: r, p + 1) :=
  if_neg h

theorem closeLoops_again {l : LoopEnt} {p : Pc} (h : l.stop = p) (hi : l.i + 1 < l.count) (r : List LoopEnt) :
    closeLoops p (l :: r) = ({ l with i := l.i + 1 } :: r, l.start) := (if_pos h).trans (if_pos hi)

theorem closeLoops_done {l : LoopEnt} {p : Pc} (h : l.stop = p) (hi : l.count ≤ l.i + 1) (r : List LoopEnt) :
    closeLoops p (l :: r) = closeLoops p r := (if_pos h).trans (if_neg (Nat.not_lt.mpr hi))

/-- The innermost entry decides at a bundle, and those around it only once it has left the stack (R149). -/
theorem stepLoops_inner {d : Dup} {p : Pc} {ls : List LoopEnt} {l : LoopEnt} (hd : d.loops = ls ++ [l]) :
    (l.stop ≠ p → stepLoops d p = (d, p + 1)) ∧
    (l.stop = p → l.i + 1 < l.count → stepLoops d p = ({ d with loops := ls ++ [{ l with i := l.i + 1 }] }, l.start)) ∧
    (l.stop = p → l.count ≤ l.i + 1 → stepLoops d p = stepLoops { d with loops := ls } p) := by
  have hrev : d.loops.reverse = l :: ls.reverse := by rw [hd, List.reverse_append]; rfl
  refine ⟨fun h => ?_, fun h hi => ?_, fun h hi => ?_⟩
  · rw [stepLoops, hrev, closeLoops_open h, ← hrev, List.reverse_reverse]
  · rw [stepLoops, hrev, closeLoops_again h hi, List.reverse_cons, List.reverse_reverse]
  · rw [stepLoops, hrev, closeLoops_done h hi]
    rfl

/-! ### How a control operation ends (R174) -/

section
variable {s u : State} {e : Instr} {c : Nat}

theorem gives_selects {x : Core} {p : Pc} (he : exec e s = finishSel s c (.done (u.setCore c { x with sel := some p }))) :
    Gives e s (u.setCore c { x with pc := p, sel := none }) :=
  he.trans (congrArg Host.Outcome.next (takeSel_selected u c x p))

theorem gives_selTrap {r : Res} {tr : Trap} (he : exec e s = finishSel s c r) (hr : r = .trap tr) : Gives e s (takeTrap s c tr) := by
  rw [Gives, he, hr]
  rfl

end

theorem cuJumps : Stmt.CuJumps := by
  intro t s c x p
  refine ⟨gives_selects rfl, gives_selects rfl, fun h => ?ret, fun hm hne => gives_selTrap rfl (if_pos ?badRet)⟩
  case ret =>
    have hok : ¬ (multiSeg (imgOf s c) && fld t.y 19 12 != retSeg s c p) = true := by
      rw [Bool.and_eq_true_iff, bne_iff_ne, not_and_not_right]
      exact fun hm => h.resolve_left (by simp [OneSeg, hm])
    exact gives_selects (congrArg (finishSel s c) (if_neg hok))
  case badRet => exact (Bool.and_eq_true_iff).mpr ⟨hm, bne_iff_ne.mpr hne⟩

/-! ### Loops (R175, R176) -/

section
variable {t : Trig} {s : State} {e : Pc} (he : e = BitVec.ofNat 12 ((portOf t s pCUk).toNat % 4096))
include he

theorem opCuLoop_eq : opCuLoop t s =
    let x := s.core t.core
    if 2 ^ 32 ≤ t.y.toNat ∨ e.toNat < (x.pc + 1).toNat ∨
        (multiSeg (imgOf s t.core) && e.toNat / 2048 != (x.pc + 1).toNat / 2048) = true
    then .trap (trapIllegal t.slot)
    else if x.dup.loops.length = 6 then .trap (trapProg t.slot 1)
    else if (∃ l, x.dup.loops.getLast? = some l ∧ l.stop.toNat < e.toNat) ∨ ∃ l ∈ x.dup.loops, l.stop = x.pc
    then .trap (trapProg t.slot 2)
    else if t.y.toNat = 0 then .done (s.setCore t.core { x with dup := (stepLoops x.dup e).1, sel := some (stepLoops x.dup e).2 })
    else .done (s.setCore t.core
      { x with dup := { x.dup with loops := x.dup.loops ++ [⟨x.pc + 1, e, t.y.toNat, 0⟩] }, sel := some (x.pc + 1) }) := by
  have hfld : fld (cuK t s) 11 0 = (portOf t s pCUk).toNat % 4096 := rfl
  subst he
  simp only [opCuLoop, hfld]
  refine if_congr (by simp [or_assoc]) rfl (if_congr Iff.rfl rfl (if_congr ?_ rfl rfl))
  cases h : (s.core t.core).dup.loops.getLast? <;> simp


theorem gives_loop_illegal (h : 2 ^ 32 ≤ t.y.toNat ∨ e.toNat < ((s.core t.core).pc + 1).toNat) :
    Gives (.cuLoop t) s (takeTrap s t.core (trapIllegal t.slot)) :=
  gives_selTrap rfl ((opCuLoop_eq he).trans (if_pos (h.imp_right .inl)))

section
variable (hn : t.y.toNat < 2 ^ 32) (hstop : ((s.core t.core).pc + 1).toNat ≤ e.toNat) (hone : OneSeg s t.core)
include hn hstop hone

omit he in
theorem opCuLoop_legal : ¬ (2 ^ 32 ≤ t.y.toNat ∨ e.toNat < ((s.core t.core).pc + 1).toNat ∨
    (multiSeg (imgOf s t.core) && e.toNat / 2048 != ((s.core t.core).pc + 1).toNat / 2048) = true) := by
  rw [show multiSeg (imgOf s t.core) = false from hone, Bool.false_and]
  simp only [Bool.false_eq_true, or_false]
  omega

theorem gives_loop_tooDeep (h : (s.core t.core).dup.loops.length = 6) :
    Gives (.cuLoop t) s (takeTrap s t.core (trapProg t.slot 1)) :=
  gives_selTrap rfl ((opCuLoop_eq he).trans ((if_neg (opCuLoop_legal hn hstop hone)).trans (if_pos h)))

section
variable (hdepth : (s.core t.core).dup.loops.length < 6)
  (hnested : ∀ l ∈ (s.core t.core).dup.loops, e.toNat ≤ l.stop.toNat ∧ l.stop ≠ (s.core t.core).pc)
include hdepth hnested

theorem opCuLoop_nested : opCuLoop t s =
    if t.y.toNat = 0 then .done (s.setCore t.core
      { s.core t.core with dup := (stepLoops (s.core t.core).dup e).1, sel := some (stepLoops (s.core t.core).dup e).2 })
    else .done (s.setCore t.core { s.core t.core with
      dup := { (s.core t.core).dup with loops := (s.core t.core).dup.loops ++ [⟨(s.core t.core).pc + 1, e, t.y.toNat, 0⟩] }
      sel := some ((s.core t.core).pc + 1) }) := by
  have hfree : ¬ ((∃ l, (s.core t.core).dup.loops.getLast? = some l ∧ l.stop.toNat < e.toNat) ∨
      ∃ l ∈ (s.core t.core).dup.loops, l.stop = (s.core t.core).pc) := by
    rintro (⟨l, hl, hlt⟩ | ⟨l, hl, hpc⟩)
    · exact absurd hlt (Nat.not_lt.mpr (hnested l (List.mem_of_getLast? hl)).1)
    · exact (hnested l hl).2 hpc
  rw [opCuLoop_eq he]
  exact (if_neg (opCuLoop_legal hn hstop hone)).trans ((if_neg (Nat.ne_of_lt hdepth)).trans (if_neg hfree))

end

end

end

section
variable {t : Trig} {s : State}

theorem gives_lpop (h0 : 1 ≤ t.y.toNat) (h6 : t.y.toNat ≤ 6) (hd : t.y.toNat ≤ (s.core t.core).dup.loops.length) :
    Gives (.cuLpop t) s (s.setCore t.core { s.core t.core with dup := { (s.core t.core).dup with
      loops := (s.core t.core).dup.loops.take ((s.core t.core).dup.loops.length - t.y.toNat) } }) :=
  congrArg (finish s t.core) ((if_neg (by simp; omega)).trans (if_neg (Nat.not_lt.mpr hd)))

theorem gives_lpop_tooMany (h0 : 1 ≤ t.y.toNat) (h6 : t.y.toNat ≤ 6) (hd : (s.core t.core).dup.loops.length < t.y.toNat) :
    Gives (.cuLpop t) s (takeTrap s t.core (trapProg t.slot 3)) :=
  congrArg (finish s t.core) ((if_neg (by simp; omega)).trans (if_pos hd))

theorem gives_lpop_illegal (h : t.y.toNat = 0 ∨ 6 < t.y.toNat) : Gives (.cuLpop t) s (takeTrap s t.core (trapIllegal t.slot)) :=
  congrArg (finish s t.core) (if_pos (by simpa using h))

end

theorem cuLoops : Stmt.CuLoops := by
  intro t s c x ls n e with_
  refine ⟨fun hn he hone hd hl => ⟨fun h0 => ?enters, fun h0 => ?skips⟩, gives_loop_illegal rfl,
    fun hn he hone hd => gives_loop_tooDeep rfl hn he hone hd, gives_lpop, gives_lpop_tooMany, gives_lpop_illegal,
    fun d p ls l hd => stepLoops_inner hd⟩
  case enters =>
    exact gives_selects (x := { x with dup := with_ (ls ++ [⟨x.pc + 1, e, n, 0⟩]) }) (p := x.pc + 1)
      (congrArg (finishSel s c) ((opCuLoop_nested rfl hn he hone hd hl).trans (if_neg (Nat.ne_of_gt h0))))
  case skips =>
    exact gives_selects (x := { x with dup := (stepLoops x.dup e).1 }) (p := (stepLoops x.dup e).2)
      (congrArg (finishSel s c) ((opCuLoop_nested rfl hn he hone hd hl).trans (if_pos h0)))

/-! ### Segments (R184) -/

section
variable {t : Trig} {s : State} (hmode : (s.core t.core).mode ≠ .handler)
include hmode

theorem gives_segnext_bad (h : OneSeg s t.core ∨ fld t.y 7 0 % 2 = (s.core t.core).pc.toNat / 2048) :
    Gives (.cuSegnext t) s (takeTrap s t.core (trapProg t.slot 9)) :=
  congrArg (finish s t.core) ((if_neg hmode).trans (if_pos (by simpa [OneSeg] using h)))

section
variable (hmulti : multiSeg (imgOf s t.core) = true) (hother : fld t.y 7 0 % 2 ≠ (s.core t.core).pc.toNat / 2048)
include hmulti hother

/-- A segnext that names the other half of a strand with two of them. -/
theorem opCuSegnext_other : opCuSegnext t s =
    let k := fld t.y 7 0
    let h := (s.core t.core).half (k % 2)
    if (imgOf s t.core).nseg ≤ k then
      .done ((dropParks s (fun w => w == .copy t.core (k % 2))).onCore t.core
        (fun x => { x with due := x.due.filter (fun d => !startsCopy (k % 2) d) }.setHalf (k % 2) ⟨some k, false, false, false⟩))
    else if h.seg == some k && (h.installed || h.copying) then .done s
    else .done (plan s t.core 2 rReg (.segCopy k)) :=
  (if_neg hmode).trans (if_neg (by simpa [hmulti] using hother))

end

end

@[simp] theorem setHalf_half (x : Core) (h : Nat) (v : Half) : (x.setHalf h v).half h = v := by
  unfold Core.setHalf Core.half
  split <;> rfl

/-! ### Fences (R185) -/

section
variable {t : Trig} {s : State}

theorem gives_fence_illegal (h : 6 ≤ fld t.y 18 16 ∨ (1 ≤ fld t.y 18 16 ∧ t.ckpt = false)) :
    Gives (.cuFence t) s (takeTrap s t.core (trapIllegal t.slot)) :=
  congrArg (finish s t.core) (if_pos (by simpa using h))

theorem opCuFence_legal (h : fld t.y 18 16 = 0 ∨ (fld t.y 18 16 < 6 ∧ t.ckpt = true)) : opCuFence t s =
    if fld t.y 15 0 = 0 then .done s
    else .done (pushAcc s t.core { accBase s t.core with op := .fence (fld t.y 15 0) (fld t.y 18 16) }) := by
  refine if_neg ?_
  simp only [Bool.or_eq_true, Bool.and_eq_true, decide_eq_true_eq, Bool.not_eq_true', not_or, not_and]
  rcases h with h | ⟨h, hck⟩
  · omega
  · exact ⟨Nat.not_le.mpr h, fun _ => by simp [hck]⟩

end

theorem cuSegmentsFences : Stmt.CuSegmentsFences := by
  intro t s c x k mask scope
  refine ⟨fun hmode hmulti hother hk => ⟨fun hseg => ?copies, fun hseg hin => ?there⟩, fun hmode hmulti hother hk => ?none,
    gives_segnext_bad, fun hscope => ⟨fun hm => ?idle, fun hm => ?stands⟩, gives_fence_illegal⟩
  case copies =>
    have hnew : ¬ ((x.half (k % 2)).seg == some k && ((x.half (k % 2)).installed || (x.half (k % 2)).copying)) = true := by
      rw [beq_false_of_ne hseg]
      exact Bool.false_ne_true
    exact congrArg (finish s c) ((opCuSegnext_other hmode hmulti hother).trans ((if_neg (Nat.not_le.mpr hk)).trans (if_neg hnew)))
  case there =>
    have hheld : ((x.half (k % 2)).seg == some k && ((x.half (k % 2)).installed || (x.half (k % 2)).copying)) = true := by
      rw [hseg, hin, beq_self_eq_true]
      rfl
    exact congrArg (finish s c) ((opCuSegnext_other hmode hmulti hother).trans ((if_neg (Nat.not_le.mpr hk)).trans (if_pos hheld)))
  case none =>
    refine ⟨_, congrArg (finish s c) ((opCuSegnext_other hmode hmulti hother).trans (if_pos hk)), ?_, sameMemory_of_hbm rfl⟩
    rw [onCore_core_get, if_pos rfl]
    exact setHalf_half _ _ _
  case idle => exact congrArg (finish s c) ((opCuFence_legal hscope).trans (if_pos hm))
  case stands => exact congrArg (finish s c) ((opCuFence_legal hscope).trans (if_neg hm))

/-- Settles O24: a control operation is the state that its legal branch makes, or the trap of the branch before it. -/
theorem controlFlow : Obligations.ControlFlow := ⟨cuJumps, cuLoops, cuSegmentsFences⟩

end Sys2Proof.Proofs
end

section
/-!
PROOFS. What lands in a core leaves the requests, and the team that each core holds, as they are (O25, O26).
-/
namespace Sys2Proof.Proofs

open Sys2Proof.Machine Sys2Proof.Laws

/-! ### The team of a core -/

theorem foldl_core_team {α : Type} {f : Core → α → Core} (hf : ∀ x a, (f x a).team = x.team) (l : List α) (x : Core) :
    (l.foldl f x).team = x.team := by
  induction l generalizing x with
  | nil => rfl
  | cons a l ih => exact (ih _).trans (hf x a)

@[simp] theorem fillG_team (x : Core) (iss r : Nat) (v : Word) : (fillG x iss r v).team = x.team := landDup_team ..

@[simp] theorem schedAt_team (x : Core) (iss off rank : Nat) (fx : Fx) : (x.schedAt iss off rank fx).team = x.team := rfl

@[simp] theorem postEvent_team (x : Core) (iss : Nat) (f : Dup → Dup) : (x.postEvent iss f).team = x.team := by
  unfold Core.postEvent
  grind [landDup_team]

@[simp] theorem saveUndo_team (x : Core) (iss b r : Nat) : (saveUndo x iss b r).team = x.team := by
  unfold saveUndo
  grind

@[simp] theorem modRow_team (x : Core) (iss b r : Nat) (f : AccRow → AccRow) : (modRow x iss b r f).team = x.team := by
  unfold modRow
  grind [setAccRow_team, saveUndo_team]

@[simp] theorem zeroSaved_team (x : Core) (iss b r : Nat) : (zeroSaved x iss b r).team = x.team := by
  unfold zeroSaved
  grind [setAccRow_team]

@[simp] theorem zeroRows_team (x : Core) (iss b r n : Nat) : (zeroRows x iss b r n).team = x.team := by
  induction n generalizing x r with
  | zero => rfl
  | succ n ih => rw [zeroRows, ih, modRow_team, zeroSaved_team]

@[simp] theorem drainTo_team (x : Core) (iss : Nat) (dst : DrainDst) (v : Nat) : (drainTo x iss dst v).team = x.team := by
  cases dst <;> simp [drainTo]

@[simp] theorem placeRow_team (x : Core) (p j v : Nat) : (placeRow x p j v).team = x.team := by
  unfold placeRow
  grind [setLatchW_team, setAccRow_team, foldl_core_team]

@[simp] theorem dropUndo_team (x : Core) (p : Nat) : (dropUndo x p).team = x.team := by
  unfold dropUndo
  grind

@[simp] theorem pushAdvance_team (x : Core) (k iss : Nat) : (pushAdvance x k iss).team = x.team := by
  unfold pushAdvance
  grind [setChanRun_team, landDup_team]

@[simp] theorem dropItem_team (x : Core) (k : Nat) : (dropItem x k).team = x.team := rfl

@[simp] theorem seekIndex_team (x : Core) (k iss n place : Nat) : (seekIndex x k iss n place).team = x.team := by
  unfold seekIndex
  grind [setChanRun_team, landDup_team]

@[simp] theorem startCopy_team (x : Core) (k : Nat) : (startCopy x k).team = x.team := by
  unfold startCopy Core.setHalf
  grind

@[simp] theorem srPut_team (x : Core) (i : Nat) (v : Word) : (srPut x i v).team = x.team := by
  unfold srPut
  grind

@[simp] theorem deadlinePoison_team (x : Core) (id : Nat) : (deadlinePoison x id).team = x.team := by
  unfold deadlinePoison
  grind [landDup_team, putAcc]

/-! ### What a state holds for its launches -/

/-- The requests of the front end, and the team on each core. -/
def assigned (s : State) : Tab Req × (Nat → Option Nat) := (s.fe.reqs, fun k => (s.core k).team)

theorem assigned_of_logged {s u : State} (h : Logged s u) : assigned u = assigned s := by
  simp only [assigned, h.core]
  rw [h.eq]

theorem assigned_of_touched {s u : State} (h : Touched s u) : assigned u = assigned s := by
  simp only [assigned, h.core, h.fe]

theorem assigned_setCore {s : State} {c : Nat} {x : Core} (h : x.team = (s.core c).team) : assigned (s.setCore c x) = assigned s := by
  refine Prod.ext rfl (funext fun k => ?_)
  simp only [assigned, setCore_core_get]
  split
  next hk => rw [hk, h]
  next => rfl

theorem assigned_onCore {f : Core → Core} (hf : ∀ x, (f x).team = x.team) (s : State) (c : Nat) :
    assigned (s.onCore c f) = assigned s := assigned_setCore (hf _)

theorem foldl_assigned {α : Type} {f : State → α → State} (hf : ∀ s a, assigned (f s a) = assigned s) (l : List α) (s : State) :
    assigned (l.foldl f s) = assigned s := by
  induction l generalizing s with
  | nil => rfl
  | cons a l ih => exact (ih _).trans (hf s a)

/-! ### The scratchpad and the tag tables -/

@[simp] theorem logCore_assigned (s : State) (c code a : Nat) : assigned (logCore s c code a) = assigned s :=
  assigned_of_logged (logged_logCore ..)

@[simp] theorem logWords_assigned (s : State) (c : Nat) (ws : List Nat) : assigned (logWords s c ws) = assigned s := by
  unfold logWords
  exact foldl_assigned (fun _ _ => logCore_assigned ..) ws s

@[simp] theorem spStore_assigned (s : State) (c o n v : Nat) : assigned (spStore s c o n v) = assigned s :=
  (logWords_assigned ..).trans (assigned_setCore rfl)

@[simp] theorem earlyOuts_assigned (s : State) (c : Nat) : assigned (earlyOuts s c) = assigned s := by
  unfold earlyOuts
  grind [spStore_assigned, foldl_assigned]

@[simp] theorem spWriteFx_assigned (s : State) (c o len : Nat) (v : Wide) (ben : Option Word) :
    assigned (spWriteFx s c o len v ben) = assigned s := by
  cases ben with
  | none => exact spStore_assigned ..
  | some m => exact (logWords_assigned ..).trans (assigned_setCore rfl)

@[simp] theorem spLoad_assigned (s : State) (c o n : Nat) : assigned (spLoad s c o n).1 = assigned s := logWords_assigned ..

@[simp] theorem ownLoad_assigned (s : State) (c o n : Nat) : assigned (ownLoad s c o n).1 = assigned s := logWords_assigned ..

@[simp] theorem spRmw_assigned (s : State) (c o n : Nat) (f : Nat → Nat) : assigned (spRmw s c o n f).1 = assigned s :=
  (logWords_assigned ..).trans (assigned_setCore rfl)

@[simp] theorem tagRead_assigned (s : State) (c b i : Nat) : assigned (tagRead s c b i).1 = assigned s := by
  unfold tagRead
  grind [logCore_assigned]

@[simp] theorem tagLookup_assigned (s : State) (c b key first n : Nat) : assigned (tagLookup s c b key first n).1 = assigned s :=
  foldl_assigned (fun _ _ => tagRead_assigned ..) _ s

@[simp] theorem tagWrite_assigned (s : State) (c b i : Nat) (v : Word) : assigned (tagWrite s c b i v) = assigned s :=
  assigned_onCore (fun _ => by rfl) s c

@[simp] theorem tagClear_assigned (s : State) (c b i n : Nat) : assigned (tagClear s c b i n) = assigned s := by
  induction n generalizing s i with
  | zero => rfl
  | succ n ih => rw [tagClear, ih, tagWrite_assigned, tagRead_assigned]

theorem schedAt_assigned (s : State) (c iss off rank : Nat) (fx : Fx) :
    assigned (s.onCore c (fun x => x.schedAt iss off rank fx)) = assigned s := assigned_onCore (fun _ => by rfl) s c

theorem landLocal_assigned (s : State) (c iss : Nat) (fx : Fx) : assigned (landLocal s c iss fx) = assigned s := by
  cases fx
  case spRead copy o len sx reg =>
    exact (assigned_onCore (fun x => by cases reg <;> rfl) ..).trans (ownLoad_assigned ..)
  all_goals simp [landLocal, schedAt_assigned]

theorem beatRead_assigned (s : State) (c : Nat) (b : BeatSrc) : assigned (beatRead s c b).1 = assigned s := by
  cases b with
  | val x => rfl
  | spad a len => exact ownLoad_assigned ..

theorem landArray_assigned (s : State) (c iss : Nat) (fx : Fx) : assigned (landArray s c iss fx) = assigned s := by
  cases fx
  case beatIn b src scale =>
    refine (assigned_onCore (fun x => ?_) ..).trans ((beatRead_assigned ..).trans (beatRead_assigned ..))
    split_ifs <;> rfl
  case events b sc =>
    unfold landArray
    grind [assigned_onCore, postEvent_team]
  case accDrain b zero dst =>
    refine assigned_onCore (fun x => ?_) ..
    grind [modRow_team, schedAt_team]
  case ovStat clear =>
    refine assigned_onCore (fun x => ?_) ..
    grind [schedAt_team, landDup_team]
  case mxSave p o =>
    refine assigned_onCore (fun x => ?_) s c
    exact foldl_core_team (f := fun x j => x.schedAt iss (6 + j) rDrain _) (fun _ _ => rfl) _ _
  case mxRow o v => exact spStore_assigned ..
  case mxRead p j o => exact (assigned_onCore (fun _ => by rfl) ..).trans (spLoad_assigned ..)
  case accAdd | shiftIn | event | md | fmtSet | fmtLvl | accZero | wZero | ovPop | mxPlace | mxDone =>
    exact assigned_onCore (fun x => by simp) s c
  all_goals rfl

/-! ### The channels -/

theorem setChanRun_assigned (s : State) (c k : Nat) (f : Core → ChRun) :
    assigned (s.onCore c (fun x => x.setChanRun k (f x))) = assigned s := assigned_onCore (fun _ => by rfl) s c

theorem chanFault_assigned (s : State) (c k code : Nat) (v : Vec) (a : Nat) : assigned (chanFault s c k code v a) = assigned s :=
  (setChanRun_assigned ..).trans (assigned_of_logged (logged_logErr ..))

theorem itemFaulted_assigned (s : State) (c k : Nat) (v : Vec) (code a : Nat) (log : Bool) :
    assigned (itemFaulted s c k v code a log) = assigned s := by
  refine (setChanRun_assigned ..).trans ?_
  split
  · exact chanFault_assigned ..
  · exact setChanRun_assigned ..

theorem chanEccWords_assigned (s : State) (c k : Nat) (ws : List Nat) : assigned (chanEccWords s c k ws) = assigned s := by
  cases ws with
  | nil => rfl
  | cons w ws => exact (setChanRun_assigned ..).trans (assigned_of_logged (logged_logErr ..))

theorem readSpadItem_assigned (s : State) (c k : Nat) : assigned (readSpadItem s c k) = assigned s := by
  unfold readSpadItem
  extract_lets x ch r v
  split
  · rfl
  split
  · exact setChanRun_assigned ..
  split
  · rfl
  · exact setChanRun_assigned ..
  · exact itemFaulted_assigned ..
  · split
    · exact itemFaulted_assigned ..
    · split
      · exact (setChanRun_assigned ..).trans (chanEccWords_assigned ..)
      · rfl

theorem startRead_assigned (s : State) (c k : Nat) : assigned (startRead s c k) = assigned s := by
  unfold startRead
  grind [readSpadItem_assigned]

theorem passRows_team (x : Core) (k n : Nat) : (passRows x k n).team = x.team := rfl

theorem seApply_assigned (s : State) (c iss op k : Nat) (y a : Word) (desc : BitVec 512) (place : Nat) :
    assigned (seApply s c iss op k y a desc place) = assigned s := by
  have hdrop : ∀ n (x : Core), ((List.replicate n ()).foldl (fun x _ => dropItem x k) x).team = x.team := fun n x =>
    foldl_core_team (fun x _ => dropItem_team x k) (List.replicate n ()) x
  unfold seApply discardAhead
  grind [assigned_setCore, startRead_assigned, landDup_team, setChanRun_team, seekIndex_team, passRows_team]

theorem placeAcc_team (x : Core) (a : Acc) : (placeAcc x a).team = x.team := rfl

theorem sPush_assigned (s : State) (c k iss off v : Nat) : assigned (sPush s c k iss off v) = assigned s := by
  unfold sPush State.onCore pushOut
  grind [assigned_setCore, readSpadItem_assigned, pushAdvance_team, setLq_team, placeAcc_team]

theorem landChan_assigned (s : State) (c iss : Nat) (fx : Fx) : assigned (landChan s c iss fx) = assigned s := by
  cases fx
  case seAct op k y a desc place => exact seApply_assigned ..
  case outSpad k o len v => exact spStore_assigned ..
  case drainOut b r dst =>
    cases dst
    case spad a => exact spStore_assigned ..
    case stream k => exact (sPush_assigned ..).trans (setChanRun_assigned ..)
    all_goals exact assigned_onCore (fun x => drainTo_team ..) s c
  all_goals rfl

/-! ### The link queues -/

theorem setLq_assigned (s : State) (c n : Nat) (f : Core → LinkQ) :
    assigned (s.onCore c (fun x => x.setLq n (f x))) = assigned s := assigned_onCore (fun _ => by rfl) s c

theorem lqBindNow_assigned (s : State) (c n : Nat) (dir : Bool) (rlen key omask wn : Nat) :
    assigned (lqBindNow s c n dir rlen key omask wn) = assigned s := by
  have hw := assigned_of_touched (touched_window s (ctxOf s c) wn)
  unfold lqBindNow
  split
  · exact (setLq_assigned ..).trans hw
  · exact setLq_assigned ..

@[simp] theorem lqFreeNow_assigned (s : State) (c n : Nat) : assigned (lqFreeNow s c n) = assigned s := by
  unfold lqFreeNow
  extract_lets q rows
  split
  · rfl
  · split
    · exact setLq_assigned ..
    · exact setLq_assigned ..

/-! ### One effect, and the drain of a core (R160, R351) -/

theorem rredRow_assigned (s : State) (c o len id : Nat) : assigned (rredRow s c o len id) = assigned s := by
  refine (assigned_onCore (fun x => ?_) ..).trans (ownLoad_assigned ..)
  grind [putAcc]

theorem queueXp_assigned (s : State) (die : Nat) (cmd : XpCmd) : assigned (queueXp s die cmd) = assigned s := rfl

theorem xpDescriptor_assigned (s : State) (c iss o die : Nat) (cmd : XpCmd) :
    assigned (xpDescriptor s c iss o die cmd) = assigned s := by
  refine (schedAt_assigned ..).trans ?_
  rw [apply_ite assigned, queueXp_assigned, ite_self]
  exact ownLoad_assigned ..

theorem freeReads_assigned (s : State) (c k : Nat) : assigned (freeReads s c k) = assigned s :=
  assigned_onCore (fun _ => by rfl) ..

theorem landFx_assigned (s : State) (c iss : Nat) (fx : Fx) : assigned (landFx s c iss fx) = assigned s := by
  have hread : assigned (if isReadFx fx then earlyOuts s c else s) = assigned s := by
    split
    · exact earlyOuts_assigned ..
    · rfl
  refine Eq.trans ?_ hread
  unfold landFx
  generalize (if isReadFx fx then earlyOuts s c else s) = s
  cases fx
  case seAct => exact (freeReads_assigned ..).trans (landChan_assigned ..)
  case drainOut | outSpad => exact landChan_assigned ..
  case lqBind => exact lqBindNow_assigned ..
  case lqFree => exact lqFreeNow_assigned ..
  case rredRead => exact rredRow_assigned ..
  case xpDesc => exact xpDescriptor_assigned ..
  case landed => rfl
  case lat | wlat | creg | gFull | nclr | srWrite | segCopy | rld => exact assigned_onCore (fun x => by simp) _ c
  case spWrite | spRead | spReadV | spSwap | spBor | tagLook | tagGet | tagSet | tagClr => exact landLocal_assigned ..
  all_goals exact landArray_assigned ..

theorem landDue_assigned (s : State) (c n : Nat) : assigned (landDue s c n) = assigned s := by
  induction n generalizing s with
  | zero => rfl
  | succ n ih =>
    unfold landDue
    split
    · rfl
    · split
      · rfl
      · exact (ih _).trans ((landFx_assigned ..).trans (assigned_onCore (fun _ => by rfl) ..))

theorem nextCycle_assigned (s : State) (c : Nat) : assigned (nextCycle s c) = assigned s :=
  (assigned_onCore (f := dropNear) (fun _ => rfl) ..).trans
    ((landDue_assigned ..).trans (assigned_onCore (fun _ => by rfl) s c))

theorem drain_assigned (s : State) (c n : Nat) : assigned (drain s c n) = assigned s := by
  induction n generalizing s with
  | zero => rfl
  | succ n ih =>
    unfold drain
    split
    · exact (ih _).trans (nextCycle_assigned ..)
    · rfl

theorem rereadSpad_assigned (s : State) (c : Nat) : assigned (rereadSpad s c) = assigned s :=
  foldl_assigned (fun _ _ => startRead_assigned ..) _ s

/-- A rollback leaves the requests, and every core with its team (R178, R351). -/
theorem rollbackCore_assigned (s : State) (c : Nat) : assigned (rollbackCore s c) = assigned s :=
  (rereadSpad_assigned ..).trans ((assigned_setCore (undoCore_atCkpt _).2.2.2.2).trans (drain_assigned ..))

end Sys2Proof.Proofs
end

section
/-!
PROOFS. Taking a trap: the rollback to the checkpoint, the entry into the handler, and the double fault (O26).
-/
namespace Sys2Proof.Proofs

open Sys2Proof.Machine Sys2Proof.Laws Sys2Proof.Stmt

/-! ### What a core keeps while it is rolled back (R178) -/

theorem foldl_setAccRow_eq {α : Type} (f : Core → α → AccRow) (b r : α → Nat) (l : List α) (x : Core) :
    l.foldl (fun y a => y.setAccRow (b a) (r a) (f y a)) x =
      { x with acc := (l.foldl (fun y a => y.setAccRow (b a) (r a) (f y a)) x).acc } :=
  List.foldlRecOn (motive := fun y : Core => y = { x with acc := y.acc }) l _ rfl fun y hy _ _ => by rw [hy]; rfl

theorem foldl_setLq_eq (f : Core → Nat → LinkQ) (l : List Nat) (x : Core) :
    l.foldl (fun y n => y.setLq n (f y n)) x = { x with lq := (l.foldl (fun y n => y.setLq n (f y n)) x).lq } :=
  List.foldlRecOn (motive := fun y : Core => y = { x with lq := y.lq }) l _ rfl fun y hy _ _ => by rw [hy]; rfl

theorem foldl_setChanRun_eq (f : Core → Nat → ChRun) (l : List Nat) (x : Core) :
    l.foldl (fun y n => y.setChanRun n (f y n)) x = { x with chan := (l.foldl (fun y n => y.setChanRun n (f y n)) x).chan } :=
  List.foldlRecOn (motive := fun y : Core => y = { x with chan := y.chan }) l _ rfl fun y hy _ _ => by rw [hy]; rfl

theorem undoRows_eq (x : Core) : undoRows x = { x with acc := (undoRows x).acc, undo := [], named := [] } := by
  have h := foldl_setAccRow_eq (fun _ (u : UndoRow) => u.old) (·.bank) (·.row) x.undo x
  unfold undoRows
  rw [h]

theorem undoQueues_eq (x : Core) : undoQueues x = { x with lq := (undoQueues x).lq } := by
  unfold undoQueues
  exact foldl_setLq_eq _ _ _

theorem undoChans_eq (x : Core) : undoChans x = { x with chan := (undoChans x).chan } := by
  unfold undoChans
  exact foldl_setChanRun_eq _ _ _

/-- A rolled-back core has its checkpoint's registers; its checkpoint, scratchpad, traps and bundles stay, and what was withheld is
gone. -/
theorem undoCore_keeps (x : Core) : (undoCore x).dup = x.ck.dup ∧ (undoCore x).ck = x.ck ∧ (undoCore x).wb = [] ∧
    (undoCore x).consume = [] ∧ (undoCore x).spad = x.spad ∧ (undoCore x).tcount = x.tcount ∧ (undoCore x).half0 = x.half0 := by
  unfold undoCore
  rw [undoChans_eq, undoQueues_eq, undoRows_eq]
  exact ⟨rfl, rfl, rfl, rfl, rfl, rfl, rfl⟩

/-! ### Streams that are read again (R203, R214) -/

/-- Of the cores, only core `c` differs, and of it only its channels. -/
structure OnlyChans (c : Nat) (s u : State) : Prop where
  core : u.core c = { s.core c with chan := (u.core c).chan }
  others : ∀ k, k ≠ c → u.core k = s.core k

theorem OnlyChans.refl (c : Nat) (s : State) : OnlyChans c s s := ⟨rfl, fun _ _ => rfl⟩

theorem OnlyChans.trans {c : Nat} {s t u : State} (h : OnlyChans c s t) (g : OnlyChans c t u) : OnlyChans c s u :=
  ⟨by rw [g.core, h.core], fun k hk => (g.others k hk).trans (h.others k hk)⟩

theorem onlyChans_of_logged {s u : State} (h : Logged s u) (c : Nat) : OnlyChans c s u :=
  ⟨by rw [h.core], fun k _ => h.core k⟩

theorem onlyChans_setChanRun (s : State) (c k : Nat) (f : Core → ChRun) :
    OnlyChans c s (s.onCore c (fun x => x.setChanRun k (f x))) :=
  ⟨by rw [onCore_core_get, if_pos rfl]; rfl, fun j hj => by rw [onCore_core_get, if_neg hj]⟩

theorem onlyChans_chanFault (s : State) (c k code : Nat) (v : Vec) (a : Nat) : OnlyChans c s (chanFault s c k code v a) := by
  unfold chanFault
  exact (onlyChans_of_logged (logged_logErr ..) c).trans (onlyChans_setChanRun ..)

theorem onlyChans_itemFaulted (s : State) (c k : Nat) (v : Vec) (code a : Nat) (log : Bool) :
    OnlyChans c s (itemFaulted s c k v code a log) := by
  unfold itemFaulted addItem
  refine OnlyChans.trans ?_ (onlyChans_setChanRun ..)
  split
  · exact onlyChans_chanFault ..
  · exact onlyChans_setChanRun ..

theorem onlyChans_chanEccWords (s : State) (c k : Nat) (ws : List Nat) : OnlyChans c s (chanEccWords s c k ws) := by
  cases ws with
  | nil => exact .refl c s
  | cons w ws =>
    unfold chanEccWords chanEcc
    exact (onlyChans_of_logged (logged_logErr ..) c).trans (onlyChans_setChanRun ..)

theorem onlyChans_readSpadItem (s : State) (c k : Nat) : OnlyChans c s (readSpadItem s c k) := by
  unfold readSpadItem
  extract_lets x ch r v
  split
  · exact .refl c s
  split
  · exact onlyChans_setChanRun ..
  split
  · exact .refl c s
  · exact onlyChans_setChanRun ..
  · exact onlyChans_itemFaulted ..
  · split
    · exact onlyChans_itemFaulted ..
    · split
      · exact (onlyChans_chanEccWords ..).trans (onlyChans_setChanRun ..)
      · exact .refl c s

theorem onlyChans_startRead (s : State) (c k : Nat) : OnlyChans c s (startRead s c k) := by
  refine OnlyChans.trans ?_ (onlyChans_readSpadItem ..)
  split
  · exact onlyChans_readSpadItem ..
  · exact .refl c s

theorem onlyChans_rereadSpad (s : State) (c : Nat) : OnlyChans c s (rereadSpad s c) :=
  List.foldlRecOn (span 0 8) _ (.refl c s) fun _ h k _ => h.trans (onlyChans_startRead _ c k)

theorem readSpadItem_notRunning {s : State} {c k : Nat} (h : ((s.core c).dup.chanOf k).st ≠ .running) : readSpadItem s c k = s :=
  if_pos (by simp [h])

theorem rereadSpad_notRunning {s : State} {c : Nat} (h : ∀ k, ((s.core c).dup.chanOf k).st ≠ .running) : rereadSpad s c = s := by
  have hread : ∀ k, startRead s c k = s := fun k => by
    simp only [startRead, readSpadItem_notRunning (h _), ite_self]
  exact List.foldlRecOn (motive := fun u : State => u = s) (span 0 8) _ rfl fun u hu k _ => hu ▸ hread k

/-! ### The entry into the handler (R351) -/

theorem imgOf_eq {s u : State} (ha : assigned u = assigned s) (ht : u.fe.teams = s.fe.teams) (c : Nat) : imgOf u c = imgOf s c := by
  have hteam : (u.core c).team = (s.core c).team := congrFun (congrArg Prod.snd ha) c
  have hreqs : u.fe.reqs = s.fe.reqs := congrArg Prod.fst ha
  simp only [imgOf, hteam, State.team, State.req, ht, hreqs]

section
variable {s : State} {c : Nat} (hdue : (s.core c).due = [])
include hdue

/-- The state of a rollback before the streams are read again. -/
theorem rollbackCore_idle : rollbackCore s c = rereadSpad ((dropParks s (readPark c)).setCore c (undoCore (s.core c))) c := by
  rw [rollbackCore, drain_idle hdue]
  rfl

theorem rollbackCore_core : ∃ ch, (rollbackCore s c).core c = { undoCore (s.core c) with chan := ch } := by
  have h := (onlyChans_rereadSpad ((dropParks s (readPark c)).setCore c (undoCore (s.core c))) c).core
  rw [setCore_core_get, if_pos rfl, ← rollbackCore_idle hdue] at h
  exact ⟨_, h⟩

/-- With no stream running at the checkpoint, a rollback changes its own core only, and no memory. -/
theorem rollbackCore_quiet (h : ∀ k, ((s.core c).ck.dup.chanOf k).st ≠ .running) :
    (rollbackCore s c).hbm = s.hbm ∧ ∀ k, k ≠ c → (rollbackCore s c).core k = s.core k := by
  have hidle : rollbackCore s c = (dropParks s (readPark c)).setCore c (undoCore (s.core c)) := by
    refine (rollbackCore_idle hdue).trans (rereadSpad_notRunning fun k => ?_)
    rw [setCore_core_get, if_pos rfl, (undoCore_keeps _).1]
    exact h k
  rw [hidle]
  exact ⟨rfl, fun k hk => (setCore_core_get ..).trans (if_neg hk)⟩

end

/-- The state in which core `c` begins the handler of trap `tr`. -/
def inHandler (s : State) (c : Nat) (tr : Trap) : State :=
  (rollbackCore s c).onCore c (fun x => enterHandler x (causeOf s c tr) (s.core c).mode)

theorem imgOf_inHandler (s : State) (c : Nat) (tr : Trap) : imgOf (inHandler s c tr) c = imgOf s c :=
  imgOf_eq ((assigned_onCore (f := fun x => enterHandler x (causeOf s c tr) (s.core c).mode) (fun _ => rfl) ..).trans
    (rollbackCore_assigned s c)) (rollbackCore_teams s c) c

theorem inHandler_core {s : State} {c : Nat} (hdue : (s.core c).due = []) (tr : Trap) :
    let x := s.core c
    let z := (inHandler s c tr).core c
    z.mode = .handler ∧ z.tmode = x.mode ∧ z.pc = 0 ∧ z.tcount = (x.tcount + 1) % 2 ^ 32 ∧ z.shielded = false ∧
      z.cause = causeOf s c tr ∧ z.dup = x.ck.dup ∧ z.ck = x.ck ∧ z.wb = [] ∧ z.consume = [] ∧ z.spad = x.spad ∧
      z.half0 = x.half0 := by
  intro x z
  obtain ⟨ch, hcore⟩ := rollbackCore_core hdue
  obtain ⟨hdup, hck, hwb, hconsume, hspad, htcount, hhalf0⟩ := undoCore_keeps x
  have hz : z = enterHandler { undoCore x with chan := ch } (causeOf s c tr) x.mode := by
    rw [← hcore]
    exact (onCore_core_get ..).trans (if_pos rfl)
  clear hcore
  generalize undoCore x = y at hz hdup hck hwb hconsume hspad htcount hhalf0
  rw [hz, enterHandler, htcount]
  exact ⟨rfl, rfl, rfl, rfl, rfl, rfl, hdup, hck, hwb, hconsume, hspad, hhalf0⟩

theorem trapEntry : Stmt.TrapEntry := by
  intro s c tr x hmode hdue hlog hhalf u z
  obtain ⟨hm, htmode, hpc, htcount, hshielded, hcause, hdup, hck, hwb, hconsume, hspad, hhalf0⟩ := inHandler_core hdue tr
  have hpresent : emptyHalf0 (inHandler s c tr) c = false := by
    rw [emptyHalf0, imgOf_inHandler, hhalf0]
    rcases hhalf with h | h
    · rw [h]; rfl
    · rw [show (s.core c).half0.installed = true from h]
      simp
  have hu : u = inHandler s c tr := takeTrap_enters s c tr hmode hlog hpresent
  have hz : z = (inHandler s c tr).core c := congrArg (State.core · c) hu
  rw [hz, hu]
  refine ⟨hm, htmode, hpc, htcount, hshielded, hcause, hdup, hck, hwb, hconsume, hspad, fun hstill => ?_⟩
  obtain ⟨hhbm, hothers⟩ := rollbackCore_quiet hdue hstill
  exact ⟨sameMemory_of_hbm hhbm, fun k hk => (onCore_core_get ..).trans ((if_neg hk).trans (hothers k hk))⟩

theorem doubleFault_kills : Stmt.DoubleFault := by
  intro s c tm tr hmode hteam hlog
  rw [takeTrap_double s c tr hmode hlog, Machine.doubleFault, hteam]

/-- Settles O26: a rollback leaves the checkpoint's registers and the handler's half, and the entry changes only what R351 names. -/
theorem takingTraps : Obligations.TakingTraps := ⟨trapEntry, doubleFault_kills⟩

end Sys2Proof.Proofs
end

section
/-!
PROOFS. The order in which a checkpoint sends what was withheld (R222, R223; O25).
-/
namespace Sys2Proof.Proofs

open Sys2Proof.Machine Sys2Proof.Stmt

/-- Entries of the withholding buffer in the order of their first stores. -/
def InOrder (l : List WEnt) : Prop := WbSorted l ∧ l.Pairwise (fun e f => firstSeq e ≤ firstSeq f)

/-- A write that carries nothing but stores of entry `w`, to its sector and in its class. -/
def PartOf (e w : WEnt) : Prop := e.sector = w.sector ∧ e.cls = w.cls ∧ ∀ p ∈ e.subs, p ∈ w.subs

/-- No store of `f` has to perform before a store of `e`. -/
def NoneBefore (e f : WEnt) : Prop := ∀ p ∈ e.subs, ∀ q ∈ f.subs, storeBefore f e q p = false

/-! ### Entries in order -/

theorem firstSeq_le {e : WEnt} (h : e.subs.Pairwise (fun u v => u.seq ≤ v.seq)) {v : WSub} (hv : v ∈ e.subs) :
    firstSeq e ≤ v.seq := by
  unfold firstSeq
  cases hs : e.subs with
  | nil => exact Nat.zero_le _
  | cons u us =>
    rw [hs] at h hv
    rcases List.mem_cons.mp hv with rfl | hv
    · exact le_refl _
    · exact List.rel_of_pairwise_cons h hv

theorem insertEnt_perm (e : WEnt) (l : List WEnt) : (insertEnt e l).Perm (e :: l) := by
  induction l with
  | nil => exact List.Perm.refl _
  | cons f r ih =>
    rw [insertEnt]
    split
    · exact List.Perm.refl _
    · exact (ih.cons f).trans (List.Perm.swap e f r)

theorem insertEnt_pairwise (e : WEnt) {l : List WEnt} (h : l.Pairwise (fun e f => firstSeq e ≤ firstSeq f)) :
    (insertEnt e l).Pairwise (fun e f => firstSeq e ≤ firstSeq f) := by
  induction l with
  | nil => exact List.pairwise_singleton _ e
  | cons f r ih =>
    obtain ⟨hf, hr⟩ := List.pairwise_cons.mp h
    rw [insertEnt]
    split
    case isTrue hlt =>
      refine List.pairwise_cons.mpr ⟨fun g hg => ?_, h⟩
      rcases List.mem_cons.mp hg with rfl | hg
      · exact hlt.le
      · exact hlt.le.trans (hf g hg)
    case isFalse hge =>
      refine List.pairwise_cons.mpr ⟨fun g hg => ?_, ih hr⟩
      rcases List.mem_cons.mp ((insertEnt_perm e r).mem_iff.mp hg) with rfl | hg
      · exact not_lt.mp hge
      · exact hf g hg

theorem wbSorted_perm {l k : List WEnt} (h : l.Perm k) (hk : WbSorted k) : WbSorted l := fun e he => hk e (h.mem_iff.mp he)

theorem inOrder_insertEnt {e : WEnt} {l : List WEnt} (he : e.subs ≠ [] ∧ e.subs.Pairwise (fun u v => u.seq ≤ v.seq))
    (h : InOrder l) : InOrder (insertEnt e l) :=
  ⟨wbSorted_perm (insertEnt_perm e l) (List.forall_mem_cons.mpr ⟨he, h.1⟩), insertEnt_pairwise e h.2⟩

/-- The withheld entries are put in order, and none is lost. -/
theorem foldl_insertEnt {wb : List WEnt} (hw : WbSorted wb) {l : List WEnt} (hl : InOrder l) :
    InOrder (wb.foldl (fun l e => insertEnt e l) l) ∧ (wb.foldl (fun l e => insertEnt e l) l).Perm (wb ++ l) := by
  induction wb generalizing l with
  | nil => exact ⟨hl, List.Perm.refl _⟩
  | cons e r ih =>
    obtain ⟨he, hr⟩ := List.forall_mem_cons.mp hw
    obtain ⟨ho, hp⟩ := ih hr (inOrder_insertEnt he hl)
    exact ⟨ho, hp.trans (((insertEnt_perm e l).append_left r).trans List.perm_middle)⟩

/-! ### The entry that goes first -/

theorem storeBefore_cls {e e' f f' : WEnt} (he : e.cls = e'.cls) (hf : f.cls = f'.cls) (u v : WSub) :
    storeBefore e f u v = storeBefore e' f' u v := by
  simp only [storeBefore, he, hf]

theorem storeBefore_later {u v : WSub} (h : v.seq ≤ u.seq) (e f : WEnt) : storeBefore e f u v = false := by
  simp [storeBefore, Nat.not_lt.mpr h]

theorem storeFree_iff (l : List WEnt) (f : WEnt) (v : WSub) :
    storeFree l f v = true ↔ ∀ e ∈ l, ∀ u ∈ e.subs, storeBefore e f u v = false := by
  simp [storeFree]

theorem freeEntry_some {seen l rest : List WEnt} {e : WEnt} (h : freeEntry seen l = some (e, rest)) :
    ∃ l₁ r, l = l₁ ++ e :: r ∧ rest = seen ++ (l₁ ++ r) ∧ ∀ v ∈ e.subs, storeFree rest e v = true := by
  induction l generalizing seen with
  | nil => cases h
  | cons f r ih =>
    rw [freeEntry] at h
    split at h
    case isTrue hf =>
      cases h
      exact ⟨[], r, rfl, rfl, List.all_eq_true.mp hf⟩
    case isFalse =>
      obtain ⟨l₁, r', rfl, rfl, hf⟩ := ih h
      exact ⟨f :: l₁, r', rfl, by simp, hf⟩

theorem freeEntry_none_head {e : WEnt} {r : List WEnt} (h : freeEntry [] (e :: r) = none) :
    ∃ v ∈ e.subs, storeFree r e v = false := by
  rw [freeEntry] at h
  split at h
  case isTrue => cases h
  case isFalse hf => simpa using hf

/-- The first store of the first entry waits for no other: what is cut off the entry is not empty. -/
theorem storeFree_first {e : WEnt} {r : List WEnt} (h : InOrder (e :: r)) {u : WSub} {us : List WSub} (hs : e.subs = u :: us) :
    storeFree r e u = true := by
  obtain ⟨hw, ho⟩ := h
  refine (storeFree_iff r e u).mpr fun f hf v hv => storeBefore_later ?_ f e
  have hfirst : firstSeq e = u.seq := by rw [firstSeq, hs]
  have hle := List.rel_of_pairwise_cons ho hf
  exact hfirst ▸ hle.trans (firstSeq_le (hw f (List.mem_cons_of_mem e hf)).2 hv)

/-- An entry that no other lets go first is cut: what goes, `k`, waits for none; what stays, `d`, is later in program order. -/
theorem cut_head {e : WEnt} {r : List WEnt} (h : InOrder (e :: r)) (hn : freeEntry [] (e :: r) = none) :
    ∃ k d, e.subs.takeWhile (storeFree r e) = k ∧ e.subs.drop (e.subs.takeWhile (storeFree r e)).length = d ∧
      e.subs = k ++ d ∧ k ≠ [] ∧ d ≠ [] ∧ ∀ p ∈ k, storeFree r e p = true := by
  obtain ⟨d, hd⟩ := List.takeWhile_prefix (l := e.subs) (storeFree r e)
  have hdrop : e.subs.drop (e.subs.takeWhile (storeFree r e)).length = d := by
    calc e.subs.drop (e.subs.takeWhile (storeFree r e)).length
        = (e.subs.takeWhile (storeFree r e) ++ d).drop (e.subs.takeWhile (storeFree r e)).length := by rw [hd]
      _ = d := List.drop_left
  refine ⟨_, d, rfl, hdrop, hd.symm, ?_, ?_, fun p hp => List.mem_takeWhile_imp hp⟩
  · obtain ⟨u, us, hs⟩ := List.exists_cons_of_ne_nil (h.1 e List.mem_cons_self).1
    rw [hs, List.takeWhile_cons, if_pos (storeFree_first h hs)]
    exact List.cons_ne_nil _ _
  · rintro rfl
    obtain ⟨v, hv, hf⟩ := freeEntry_none_head hn
    rw [List.append_nil] at hd
    rw [← hd] at hv
    exact absurd (List.mem_takeWhile_imp hv) (by simp [hf])

/-! ### The writes of a release -/

theorem NoneBefore.of_partOf {e f w : WEnt} (h : NoneBefore e w) (hf : PartOf f w) : NoneBefore e f := by
  obtain ⟨-, hc, hs⟩ := hf
  exact fun p hp q hq => (storeBefore_cls hc rfl q p).trans (h p hp q (hs q hq))

theorem PartOf.trans {e f w : WEnt} (h : PartOf e f) (hf : PartOf f w) : PartOf e w :=
  ⟨h.1.trans hf.1, h.2.1.trans hf.2.1, fun p hp => hf.2.2 p (h.2.2 p hp)⟩

theorem PartOf.refl (e : WEnt) : PartOf e e := ⟨rfl, rfl, fun _ h => h⟩

/-- The number of stores in a list of entries. -/
def stores (l : List WEnt) : Nat := (l.map (fun e => e.subs.length)).sum

theorem stores_cons (e : WEnt) (l : List WEnt) : stores (e :: l) = e.subs.length + stores l := by
  simp only [stores, List.map_cons, List.sum_cons]

theorem stores_perm {l k : List WEnt} (h : l.Perm k) : stores l = stores k := (h.map _).sum_eq

/-- `r` sends the stores of `l`: the same stores, each write a part of one entry, and none behind a store that it has to precede. -/
def Sends (r l : List WEnt) : Prop :=
  (r.flatMap (·.subs)).Perm (l.flatMap (·.subs)) ∧ (∀ e ∈ r, ∃ w ∈ l, PartOf e w) ∧ r.Pairwise NoneBefore

theorem sends_nil : Sends [] [] := ⟨List.Perm.refl _, fun _ h => absurd h List.not_mem_nil, List.Pairwise.nil⟩

/-- Sending `k` first, a part of one entry of `l`, when the rest is sent after it and holds none that `k` has to wait for. -/
theorem Sends.cons {k : WEnt} {r m l : List WEnt} (h : Sends r m) (hp : (k.subs ++ m.flatMap (·.subs)).Perm (l.flatMap (·.subs)))
    (hk : ∃ w ∈ l, PartOf k w) (hm : ∀ f ∈ m, NoneBefore k f ∧ ∃ w ∈ l, PartOf f w) : Sends (k :: r) l := by
  obtain ⟨hperm, hpart, hpw⟩ := h
  refine ⟨?_, List.forall_mem_cons.mpr ⟨hk, fun f hf => ?_⟩, List.pairwise_cons.mpr ⟨fun f hf => ?_, hpw⟩⟩
  · exact (hperm.append_left k.subs).trans hp
  · obtain ⟨w, hw, hfw⟩ := hpart f hf
    obtain ⟨-, v, hv, hwv⟩ := hm w hw
    exact ⟨v, hv, hfw.trans hwv⟩
  · obtain ⟨w, hw, hfw⟩ := hpart f hf
    exact (hm w hw).1.of_partOf hfw

theorem noneBefore_of_storeFree {k e : WEnt} {m : List WEnt} (hc : k.cls = e.cls) (h : ∀ p ∈ k.subs, storeFree m e p = true)
    {f : WEnt} (hf : f ∈ m) : NoneBefore k f :=
  fun p hp q hq => (storeBefore_cls rfl hc q p).trans ((storeFree_iff m e p).mp (h p hp) f hf q hq)

theorem eq_nil_of_stores {l : List WEnt} (h : WbSorted l) (hn : stores l = 0) : l = [] := by
  cases l with
  | nil => rfl
  | cons e r =>
    have hpos := List.length_pos_iff.mpr (h e List.mem_cons_self).1
    rw [stores_cons] at hn
    omega

theorem releaseOrder_free {n : Nat} {l rest : List WEnt} {e : WEnt} (h : freeEntry [] l = some (e, rest)) :
    releaseOrder (n + 1) l = e :: releaseOrder n rest := by
  conv_lhs => unfold releaseOrder
  simp only [h]

theorem releaseOrder_cut {n : Nat} {e : WEnt} {r : List WEnt} (h : freeEntry [] (e :: r) = none) :
    releaseOrder (n + 1) (e :: r) =
      { e with subs := e.subs.takeWhile (storeFree r e), last := false } ::
        releaseOrder n (insertEnt { e with subs := e.subs.drop (e.subs.takeWhile (storeFree r e)).length } r) := by
  conv_lhs => unfold releaseOrder
  simp only [h]

/-- An entry that no other has to precede goes first. -/
theorem Sends.free {e : WEnt} {l₁ r o : List WEnt} (hf : ∀ v ∈ e.subs, storeFree (l₁ ++ r) e v = true) (h : Sends o (l₁ ++ r)) :
    Sends (e :: o) (l₁ ++ e :: r) := by
  have hmid : (e :: (l₁ ++ r)).Perm (l₁ ++ e :: r) := List.perm_middle.symm
  refine h.cons (hmid.flatMap_right _) ⟨e, hmid.mem_iff.mp List.mem_cons_self, PartOf.refl e⟩ fun f hfm => ?_
  exact ⟨noneBefore_of_storeFree rfl hf hfm, f, hmid.mem_iff.mp (List.mem_cons_of_mem e hfm), PartOf.refl f⟩

/-- The parts `k` of an entry go first, where they wait for no other entry and the parts `d` that stay are later. -/
theorem Sends.cut {e : WEnt} {r o : List WEnt} {k d : List WSub} (hsplit : e.subs = k ++ d)
    (hk : ∀ p ∈ k, storeFree r e p = true) (hlater : ∀ p ∈ k, ∀ q ∈ d, p.seq ≤ q.seq)
    (h : Sends o (insertEnt { e with subs := d } r)) : Sends ({ e with subs := k, last := false } :: o) (e :: r) := by
  have hp := insertEnt_perm { e with subs := d } r
  refine h.cons ?perm ⟨e, List.mem_cons_self, rfl, rfl, fun p hp => hsplit ▸ List.mem_append_left d hp⟩ fun f hf => ?part
  case perm =>
    refine ((hp.flatMap_right _).append_left k).trans ?_
    simp [hsplit]
  case part =>
    rcases List.mem_cons.mp (hp.mem_iff.mp hf) with rfl | hf
    · exact ⟨fun p hp q hq => storeBefore_later (hlater p hp q hq) _ _, e, List.mem_cons_self, rfl, rfl,
        fun q hq => hsplit ▸ List.mem_append_right k hq⟩
    · exact ⟨noneBefore_of_storeFree rfl hk hf, f, List.mem_cons_of_mem e hf, PartOf.refl f⟩

theorem releaseOrder_sends (n : Nat) {l : List WEnt} (ho : InOrder l) (hn : stores l ≤ n) : Sends (releaseOrder n l) l := by
  induction n generalizing l with
  | zero =>
    rw [eq_nil_of_stores ho.1 (Nat.le_zero.mp hn)]
    exact sends_nil
  | succ n ih =>
    cases hfree : freeEntry [] l with
    | some er =>
      obtain ⟨e, rest⟩ := er
      obtain ⟨l₁, r, rfl, rfl, hf⟩ := freeEntry_some hfree
      have hsub : (l₁ ++ r).Sublist (l₁ ++ e :: r) := (List.sublist_cons_self e r).append_left l₁
      have hpos := List.length_pos_iff.mpr (ho.1 e (List.mem_append_right l₁ List.mem_cons_self)).1
      have hcount : stores (l₁ ++ r) ≤ n := by
        rw [stores_perm List.perm_middle, stores_cons] at hn
        omega
      rw [releaseOrder_free hfree]
      exact (ih ⟨fun f hf => ho.1 f (hsub.mem hf), ho.2.sublist hsub⟩ hcount).free hf
    | none =>
      cases l with
      | nil => exact sends_nil
      | cons e r =>
        obtain ⟨k, d, hk, hd, hsplit, hk0, hd0, hgo⟩ := cut_head ho hfree
        obtain ⟨he, hr⟩ := List.forall_mem_cons.mp ho.1
        have hordered := he.2
        rw [hsplit] at hordered
        obtain ⟨-, hlater, hcross⟩ := List.pairwise_append.mp hordered
        have hpos := List.length_pos_iff.mpr hk0
        have hcount : stores (insertEnt { e with subs := d } r) ≤ n := by
          rw [stores_cons, hsplit, List.length_append] at hn
          rw [stores_perm (insertEnt_perm _ r), stores_cons]
          dsimp only
          omega
        rw [releaseOrder_cut hfree, hd, hk]
        exact (ih (inOrder_insertEnt ⟨hd0, hlater⟩ ⟨hr, ho.2.of_cons⟩) hcount).cut hsplit hgo hcross

theorem heldWrites_sends {wb : List WEnt} (h : WbSorted wb) : Sends (heldWrites wb) wb := by
  obtain ⟨ho, hp⟩ := foldl_insertEnt h (l := []) ⟨fun _ h => absurd h List.not_mem_nil, List.Pairwise.nil⟩
  rw [List.append_nil] at hp
  obtain ⟨hsubs, hpart, hpw⟩ := releaseOrder_sends (stores wb) ho (stores_perm hp).le
  refine ⟨hsubs.trans (hp.flatMap_right _), fun e he => ?_, hpw⟩
  obtain ⟨w, hw, hew⟩ := hpart e he
  exact ⟨w, hp.mem_iff.mp hw, hew⟩

end Sys2Proof.Proofs
end

section
/-!
PROOFS. What a checkpoint does (O25): the release of what was withheld, and the record of the registers.
-/
namespace Sys2Proof.Proofs

open Sys2Proof.Machine Sys2Proof.Laws Sys2Proof.Stmt

/-! ### What a release leaves unchanged (R177, R186) -/

/-- From `x` to `y` a core changes only in what a checkpoint releases: the writes `es` join its accesses, and no buffer that is
empty fills. -/
structure Released (es : List WEnt) (x y : Core) : Prop where
  core : y = { x with wb := y.wb, consume := y.consume, accs := y.accs, nextId := y.nextId, lq := y.lq, shielded := y.shielded }
  sends : y.accs.filterMap sentEntry = x.accs.filterMap sentEntry ++ es
  wb : x.wb = [] → y.wb = []
  consume : x.consume = [] → y.consume = []

theorem Released.refl (x : Core) : Released [] x x := ⟨rfl, by simp, id, id⟩

theorem Released.trans {es fs : List WEnt} {x y z : Core} (h : Released es x y) (g : Released fs y z) :
    Released (es ++ fs) x z :=
  ⟨by rw [g.core, h.core], by rw [g.sends, h.sends, List.append_assoc], g.wb ∘ h.wb, g.consume ∘ h.consume⟩

/-- From `s` to `u`, core `c` releases the writes `es`, and no other core changes. -/
structure ReleasedAt (c : Nat) (es : List WEnt) (s u : State) : Prop where
  own : Released es (s.core c) (u.core c)
  others : ∀ k, k ≠ c → u.core k = s.core k

theorem ReleasedAt.trans {c : Nat} {es fs : List WEnt} {s t u : State} (h : ReleasedAt c es s t) (g : ReleasedAt c fs t u) :
    ReleasedAt c (es ++ fs) s u :=
  ⟨h.own.trans g.own, fun k hk => (g.others k hk).trans (h.others k hk)⟩

theorem releasedAt_of_core {s u : State} (h : ∀ k, u.core k = s.core k) (c : Nat) : ReleasedAt c [] s u :=
  ⟨by rw [h]; exact Released.refl _, fun k _ => h k⟩

theorem releasedAt_onCore {f : Core → Core} {es : List WEnt} (s : State) (c : Nat) (h : Released es (s.core c) (f (s.core c))) :
    ReleasedAt c es s (s.onCore c f) :=
  ⟨by rw [onCore_core_get, if_pos rfl]; exact h, fun k hk => by rw [onCore_core_get, if_neg hk]⟩

/-- Steps that each release the writes of one element release those of the list, in its order. -/
theorem releasedAt_foldl {α : Type} {c : Nat} {f : State → α → State} {g : α → List WEnt}
    (hf : ∀ s a, ReleasedAt c (g a) s (f s a)) (l : List α) (s : State) : ReleasedAt c (l.flatMap g) s (l.foldl f s) := by
  induction l generalizing s with
  | nil => exact releasedAt_of_core (fun _ => rfl) c
  | cons a l ih => exact (hf s a).trans (ih (f s a))

theorem releasedAt_foldl_nil {α : Type} {c : Nat} {f : State → α → State} (hf : ∀ s a, ReleasedAt c [] s (f s a)) (l : List α)
    (s : State) : ReleasedAt c [] s (l.foldl f s) := by
  have h := releasedAt_foldl (g := fun _ => []) hf l s
  rwa [List.flatMap_eq_nil_iff.mpr fun _ _ => rfl] at h

theorem releasedAt_ite {c : Nat} {s u : State} (h : ReleasedAt c [] s u) (b : Bool) : ReleasedAt c [] s (if b then u else s) := by
  split
  · exact h
  · exact releasedAt_of_core (fun _ => rfl) c

/-! ### Stores and consumptions (R223, R370, R371) -/

theorem releasedAt_pushAcc (s : State) (c : Nat) (a : Acc) : ReleasedAt c (sentEntry a).toList s (pushAcc s c a) :=
  releasedAt_onCore s c ⟨rfl, by cases h : sentEntry a <;> simp [h], id, id⟩

theorem releaseStores_released (s : State) (c : Nat) :
    ReleasedAt c (heldWrites (s.core c).wb) s (releaseStores s c) ∧ ((releaseStores s c).core c).wb = [] := by
  have h0 : ReleasedAt c [] s (s.onCore c (fun x => { x with wb := [] })) := releasedAt_onCore s c ⟨rfl, by simp, fun _ => rfl, id⟩
  have h1 := releasedAt_foldl (g := fun e => [e]) (fun s e => releasedAt_pushAcc s c (sendOf s c e)) (heldWrites (s.core c).wb)
    (s.onCore c (fun x => { x with wb := [] }))
  rw [List.flatMap_singleton'] at h1
  exact ⟨h0.trans h1, h1.own.wb (by rw [onCore_core_get, if_pos rfl])⟩

/-- The access of a released consumption (R370). -/
def consumeAcc (s : State) (c : Nat) (e : Nat × Nat) : Acc := { accBase s c with op := .consume, addr := e.1, len := e.2 }

theorem releaseConsumes_released (s : State) (c : Nat) :
    ReleasedAt c [] s (releaseConsumes s c) ∧ ((releaseConsumes s c).core c).consume = [] := by
  have h0 : ReleasedAt c [] s (s.onCore c (fun x => { x with consume := [] })) :=
    releasedAt_onCore s c ⟨rfl, by simp, id, fun _ => rfl⟩
  have hpush (u : State) (e : Nat × Nat) : ReleasedAt c [] u (pushAcc u c (consumeAcc u c e)) :=
    releasedAt_pushAcc u c (consumeAcc u c e)
  have h1 := releasedAt_foldl_nil hpush (s.core c).consume (s.onCore c (fun x => { x with consume := [] }))
  exact ⟨h0.trans h1, h1.own.consume (by rw [onCore_core_get, if_pos rfl])⟩

/-! ### Rows of link queues (R260, R311) -/

theorem released_setLq (x : Core) (n : Nat) (q : LinkQ) : Released [] x (x.setLq n q) := ⟨rfl, by simp, id, id⟩

theorem released_releaseRows (cyc : Nat) (x : Core) (n : Nat) : Released [] x (releaseRows cyc x n) := by
  unfold releaseRows
  dsimp only
  split
  · exact released_setLq ..
  · exact Released.refl x

theorem sendCredits_core (s : State) (dom mem handle n k : Nat) : (sendCredits s dom mem handle n).core k = s.core k := by
  unfold sendCredits
  rw [sendPacket_answer rfl]
  split
  · rfl
  · obtain ⟨n, q, v, g, he⟩ := enqueue_cases s (answerForm { blankPacket s with
      tier := 0, resp := true, op := kCredit, tdom := dom, tmem := mem, nc := true, x7 := flowWord handle, data := wordN n })
    rw [he]
    rfl

theorem creditBack_core (s : State) (ctx key n k : Nat) : (creditBack s ctx key n).core k = s.core k := by
  unfold creditBack
  split
  · split
    · exact List.foldlRecOn (motive := fun u : State => u.core k = s.core k) _ _ rfl
        fun u hu _ _ => (sendCredits_core ..).trans hu
    · rfl
  · rfl

theorem freeRows_released (s : State) (c n : Nat) : ReleasedAt c [] s (freeRows s c n) := by
  unfold freeRows
  dsimp only
  split
  · exact releasedAt_of_core (fun _ => rfl) c
  · exact (releasedAt_of_core (creditBack_core s _ _ _) c).trans (releasedAt_onCore _ c (released_setLq ..))

/-! ### The checkpoint (R177, R186) -/

/-- A release sends the withheld writes and leaves nothing withheld. -/
theorem release_released (s : State) (c : Nat) : ReleasedAt c (heldWrites (s.core c).wb) s (release s c) ∧
    ((release s c).core c).wb = [] ∧ ((release s c).core c).consume = [] := by
  obtain ⟨hs, hwb⟩ := releaseStores_released s c
  obtain ⟨hc, hcon⟩ := releaseConsumes_released (releaseStores s c) c
  have hrows := releasedAt_foldl_nil (f := fun s n => (freeRows s c n).onCore c (fun x => releaseRows x.cyc x n))
    (fun s n => (freeRows_released s c n).trans (releasedAt_onCore _ c (released_releaseRows ..))) (span 0 8)
    (releaseConsumes (releaseStores s c) c)
  have hshield (u : State) : ReleasedAt c [] u (u.onCore c (fun x => { x with shielded := true })) :=
    releasedAt_onCore u c ⟨rfl, (List.append_nil _).symm, id, id⟩
  unfold release
  dsimp only
  generalize (span 0 8).foldl _ _ = v at hrows ⊢
  have htail := hrows.trans (releasedAt_ite (hshield v) (!(s.core c).wb.isEmpty && (v.core c).mode == .handler))
  have hall := (hs.trans hc).trans htail
  simp only [List.append_nil] at hall
  exact ⟨hall, htail.own.wb (hc.own.wb hwb), htail.own.consume hcon⟩

/-- The registers that a checkpoint at the next bundle keeps. -/
def takeCkpt (d : Dup) (p : Pc) (y : Core) : Core :=
  if y.mode = .handler then y else { recordCkpt { y with dup := d } p (y.cyc + 1) with dup := y.dup }

theorem gives_ckpt (t : Trig) (s : State) :
    let x := (release s t.core).core t.core
    Gives (.cuCkpt t) s ((release s t.core).onCore t.core (takeCkpt (stepLoops x.dup x.pc).1 (stepLoops x.dup x.pc).2)) := rfl

theorem takeCkpt_keeps (d : Dup) (p : Pc) (y : Core) : (takeCkpt d p y).wb = y.wb ∧ (takeCkpt d p y).consume = y.consume ∧
    (takeCkpt d p y).dup = y.dup ∧ (takeCkpt d p y).pc = y.pc ∧ (takeCkpt d p y).mode = y.mode ∧ (takeCkpt d p y).accs = y.accs := by
  unfold takeCkpt
  split <;> exact ⟨rfl, rfl, rfl, rfl, rfl, rfl⟩

theorem cuCheckpoint : Stmt.CuCheckpoint := by
  intro t s c x
  obtain ⟨⟨hown, hothers⟩, hwb, hcon⟩ := release_released s c
  set y := (release s c).core c with hy
  obtain ⟨hdup, hpc, hmode, hcyc, hck⟩ : y.dup = x.dup ∧ y.pc = x.pc ∧ y.mode = x.mode ∧ y.cyc = x.cyc ∧ y.ck = x.ck := by
    rw [hown.core]; exact ⟨rfl, rfl, rfl, rfl, rfl⟩
  have hgives := gives_ckpt t s
  simp only [show (release s t.core).core t.core = y from rfl, hdup, hpc] at hgives
  obtain ⟨kwb, kcon, kdup, kpc, kmode, kaccs⟩ := takeCkpt_keeps (stepLoops x.dup x.pc).1 (stepLoops x.dup x.pc).2 y
  refine ⟨_, hgives, sameMemory_of_hbm (by simp), ?_⟩
  simp only [onCore_core_get, show t.core = c from rfl, if_true, ← hy, kwb, kcon, kdup, kpc, kmode, kaccs]
  refine ⟨hwb, hcon, hdup, hpc, hmode, fun k hk => ?_, ⟨_, hown.sends, fun hw => heldWrites_sends hw⟩, fun hm => ?_, fun hm => ?_⟩
  · rw [if_neg hk, hothers k hk]
  · rw [takeCkpt, if_neg (hmode ▸ hm)]
    exact ⟨rfl, rfl, by rw [← hmode, ← hcyc]; rfl⟩
  · rw [takeCkpt, if_pos (hmode.trans hm), hck]

end Sys2Proof.Proofs
end

section
/-!
PROOFS. Yield, exit, halt and spawn (O25).
-/
namespace Sys2Proof.Proofs

open Sys2Proof.Machine Sys2Proof.Laws Sys2Proof.Stmt

/-! ### Guards (R159, R186) -/

section
variable {t : Trig} {s : State}

theorem withCkpt_none (h : t.ckpt = false) (k : State → Res) : withCkpt t s k = .trap (trapIllegal t.slot) := by
  simp [withCkpt, h]

theorem withCkpt_user (h : t.ckpt = true) (hm : (s.core t.core).mode ≠ .handler) (k : State → Res) : withCkpt t s k = k s := by
  simp [withCkpt, h, hm]

theorem withCkpt_handler (h : t.ckpt = true) (hm : (s.core t.core).mode = .handler) (k : State → Res) :
    withCkpt t s k = k (Stmt.shielded s t.core) := by
  simp [withCkpt, Stmt.shielded, h, hm]

theorem notInHandler_user (hm : (s.core t.core).mode ≠ .handler) (k : Unit → Res) : notInHandler t s k = k () := if_neg hm

theorem shielded_core {c : Nat} (hm : (s.core c).mode = .handler) :
    (Stmt.shielded s c).core c = { s.core c with shielded := true } := by
  rw [Stmt.shielded, if_pos hm, onCore_core_get, if_pos rfl]

theorem notInHandler_shielded (hm : (s.core t.core).mode = .handler) (k : Unit → Res) :
    notInHandler t (Stmt.shielded s t.core) k = .trap (trapIllegal t.slot) :=
  if_pos (by rw [shielded_core hm]; exact hm)

/-- The result of yield, exit and spawn where an effective checkpoint is missing, and in the handler. -/
theorem guarded_trap {k : State → Unit → Res} (h : t.ckpt = false ∨ t.ckpt = true ∧ (s.core t.core).mode = .handler) :
    withCkpt t s (fun s => notInHandler t s (k s)) = .trap (trapIllegal t.slot) := by
  rcases h with h | ⟨h, hm⟩
  · exact withCkpt_none h _
  · exact (withCkpt_handler h hm _).trans (notInHandler_shielded hm _)

theorem guarded_user {k : State → Unit → Res} (h : t.ckpt = true) (hm : (s.core t.core).mode ≠ .handler) :
    withCkpt t s (fun s => notInHandler t s (k s)) = k s () :=
  (withCkpt_user h hm _).trans (notInHandler_user hm _)

theorem gives_guarded_trap (h : t.ckpt = false ∨ t.ckpt = true ∧ (s.core t.core).mode = .handler) :
    ∀ e ∈ [Instr.cuYield t, .cuExit t, .cuSpawn t], Gives e s (takeTrap s t.core (trapIllegal t.slot)) := by
  have hexit : opCuExit t s = .trap (trapIllegal t.slot) := guarded_trap h
  refine List.forall_mem_cons.mpr ⟨?yield, List.forall_mem_cons.mpr ⟨?exit, List.forall_mem_singleton.mpr ?spawn⟩⟩
  case yield => exact congrArg (finish s t.core) (guarded_trap h)
  case exit =>
    show execCuExit t s = _
    simp only [execCuExit, hexit, finish_trap]
  case spawn => exact congrArg (finish s t.core) (guarded_trap h)

theorem gives_yield (h : t.ckpt = true) (hm : (s.core t.core).mode ≠ .handler) :
    Gives (.cuYield t) s (s.onCore t.core (fun z => { z with run := if z.c7 then .yielded else z.run })) :=
  congrArg (finish s t.core) (guarded_user h hm)

/-! ### Halt (R183) -/

theorem gives_halt {u : State} (h : withCkpt t s .done = .done u) :
    Gives (.cuHalt t) s (haltTeam u t.core (u.core t.core).pc t.y) := by
  show execCuHalt t s = _
  rw [execCuHalt, opCuHalt, show (withCkpt t s fun s => .done s) = .done u from h]

theorem gives_halt_trap (h : t.ckpt = false) : Gives (.cuHalt t) s (takeTrap s t.core (trapIllegal t.slot)) := by
  show execCuHalt t s = _
  simp only [execCuHalt, opCuHalt, withCkpt_none h, finish_trap]

theorem haltTeam_kills {c tm : Nat} (h : (s.core c).team = some tm) (pc : Pc) (y : Word) :
    haltTeam s c pc y = killTeam s tm eHalt (bundleAddr s c pc) c y := by
  rw [haltTeam, h]

theorem gives_halt_user (h : t.ckpt = true) (hm : (s.core t.core).mode ≠ .handler) {tm : Nat}
    (hteam : (s.core t.core).team = some tm) :
    Gives (.cuHalt t) s (killTeam s tm eHalt (bundleAddr s t.core (s.core t.core).pc) t.core t.y) :=
  haltTeam_kills hteam _ _ ▸ gives_halt (withCkpt_user h hm _)

theorem gives_halt_handler (h : t.ckpt = true) (hm : (s.core t.core).mode = .handler) {tm : Nat}
    (hteam : (s.core t.core).team = some tm) :
    let u := Stmt.shielded s t.core
    Gives (.cuHalt t) s (killTeam u tm eHalt (bundleAddr u t.core (s.core t.core).pc) t.core t.y) := by
  have hgives := gives_halt (withCkpt_handler h hm _)
  rw [haltTeam_kills (by rw [shielded_core hm]; exact hteam), shielded_core hm] at hgives
  exact hgives

end

/-! ### A team leaves its cores and the table (R15, R27, R28) -/

theorem assigned_eq_iff {s : State} {r : Tab Req} {f : Nat → Option Nat} :
    assigned s = (r, f) ↔ s.fe.reqs = r ∧ ∀ k, (s.core k).team = f k := by
  simp only [assigned, Prod.mk.injEq, funext_iff]

theorem leaveCore_assigned (s : State) (c : Nat) :
    assigned (leaveCore s c) = (s.fe.reqs, fun k => if k = c then none else (s.core k).team) := by
  have hbefore : assigned ((span 0 8).foldl (fun s n => lqFreeNow s c n) (dropParks (drain s c drainFuel) (readPark c))) = assigned s :=
    (foldl_assigned (fun s n => lqFreeNow_assigned s c n) _ _).trans (drain_assigned s c drainFuel)
  unfold leaveCore
  dsimp only
  generalize (span 0 8).foldl _ _ = v at hbefore ⊢
  obtain ⟨hreqs, hteams⟩ := assigned_eq_iff.mp hbefore
  refine assigned_eq_iff.mpr ⟨hreqs, fun k => ?_⟩
  rw [onCore_core_get]
  split
  · rfl
  · exact hteams k

@[simp] theorem leaveCore_teams (s : State) (c : Nat) : (leaveCore s c).fe.teams = s.fe.teams := by
  unfold leaveCore
  dsimp only
  rw [onCore_fe, foldl_teams (fun s n => lqFreeNow_teams s c n), dropParks_teams, drain_teams]

/-- Steps that each take the team off one core take it off each core of a list, and leave the requests as they are. -/
theorem foldl_leave {f : State → Nat → State}
    (hf : ∀ s c, assigned (f s c) = (s.fe.reqs, fun k => if k = c then none else (s.core k).team)) (l : List Nat) (s : State) :
    assigned (l.foldl f s) = (s.fe.reqs, fun k => if k ∈ l then none else (s.core k).team) := by
  induction l generalizing s with
  | nil => simp [assigned]
  | cons c l ih =>
    obtain ⟨hreqs, hteams⟩ := assigned_eq_iff.mp (hf s c)
    obtain ⟨hreqs', hteams'⟩ := assigned_eq_iff.mp (ih (f s c))
    refine assigned_eq_iff.mpr ⟨hreqs'.trans hreqs, fun k => ?_⟩
    rw [List.foldl_cons, hteams', hteams]
    by_cases hk : k = c
    · simp [hk]
    · simp [hk]

/-- A team that is removed leaves the requests as they are, no team on its cores, and no place in the table. -/
theorem removeTeam_keeps (s : State) (t : Nat) : (removeTeam s t).fe.reqs = s.fe.reqs ∧
    (removeTeam s t).fe.teams = Tab.drop t s.fe.teams ∧ ∀ k ∈ (s.team t).cores, ((removeTeam s t).core k).team = none := by
  obtain ⟨hreqs, hteams⟩ := assigned_eq_iff.mp (foldl_leave leaveCore_assigned (s.team t).cores (sendSaved s t))
  have htab := foldl_teams leaveCore_teams (s.team t).cores (sendSaved s t)
  unfold removeTeam
  dsimp only
  generalize (s.team t).cores.foldl leaveCore (sendSaved s t) = v at hreqs hteams htab ⊢
  exact ⟨hreqs, congrArg (Tab.drop t) htab, fun k hk => (hteams k).trans (if_pos hk)⟩

theorem tab_drop_any {α : Type} (k : Nat) (t : Tab α) : (Tab.drop k t).any (fun e => e.1 == k) = false := by
  induction t with
  | nil => rfl
  | cons e r ih =>
    obtain ⟨j, w⟩ := e
    rw [Tab.drop]
    split
    · exact ih
    · simp [*]

theorem updReq_of_hasReq {s : State} {tag : Nat} (h : s.hasReq tag = true) (f : Req → Req) :
    s.updReq tag f = s.setReq tag (f (s.req tag)) := if_pos h

section
variable {s u : State} (h : u.fe.reqs = s.fe.reqs) (tag : Nat)
include h

theorem req_of_reqs : u.req tag = s.req tag := by rw [State.req, h]; rfl
theorem hasReq_of_reqs : u.hasReq tag = s.hasReq tag := by rw [State.hasReq, h]; rfl

end

/-- The last exit of a team (R27, R28, R182): it leaves its cores and the table, and its weight returns. -/
theorem finishTeam_removes {s : State} {t : Nat} (hreq : s.hasReq (s.team t).tag = true) :
    let u := finishTeam s t
    let r := s.req (s.team t).tag
    (u.fe.teams.any (fun e => e.1 == t)) = false ∧ (∀ k ∈ (s.team t).cores, (u.core k).team = none) ∧
      (u.req (s.team t).tag).d = r.d + (s.team t).weight ∧ (u.req (s.team t).tag).e = r.e ∧
      (r.d + (s.team t).weight = r.e → (u.req (s.team t).tag).st = 3) := by
  obtain ⟨hreqs, hteams, hcores⟩ := removeTeam_keeps s t
  simp only [finishTeam, returnWeight, updReq_of_hasReq ((hasReq_of_reqs hreqs _).trans hreq), setReq_req_get, if_pos,
    req_of_reqs hreqs]
  refine ⟨?_, fun k hk => hcores k hk, trivial, trivial, fun h => if_pos h⟩
  rw [setReq_fe_teams, hteams]
  exact tab_drop_any t _

end Sys2Proof.Proofs
end

section
/-!
PROOFS. The exit of a strand and the spawn of teams (O25).
-/
namespace Sys2Proof.Proofs

open Sys2Proof.Machine Sys2Proof.Laws Sys2Proof.Stmt

/-! ### Exit (R27, R182) -/

/-- A core whose strand has exited: the replies still due are discarded. -/
def exitCore (x : Core) : Core := { x with
  accs := x.accs.map (fun a => { a with dead := a.dead || isProducer a || (match a.op with | .atomic _ _ => true | _ => false) }),
  divide := x.divide.map (fun v => { v with discard := true }) }

/-- A team in which strand `k` has exited. -/
def exitTeam (k : Nat) (tm : Team) : Team := { tm with exited := tm.exited ||| 2 ^ k }

/-- The state in which the strand on core `c` has marked itself in team `t`. -/
def exitMarked (s : State) (c t : Nat) : State := (s.onCore c exitCore).updTeam t (exitTeam (s.core c).tcore)

theorem exitMarked_team (s : State) (c t : Nat) : (exitMarked s c t).team t = exitTeam (s.core c).tcore (s.team t) :=
  (setTeam_team_get ..).trans (if_pos rfl)

theorem exitMarked_core (s : State) (c t : Nat) : (exitMarked s c t).core c = exitCore (s.core c) :=
  (onCore_core_get s c exitCore c).trans (if_pos rfl)

theorem exitCore_dead {x : Core} {a : Acc} (ha : a ∈ (exitCore x).accs) (hp : isProducer a = true) : a.dead = true := by
  obtain ⟨b, -, rfl⟩ := List.mem_map.mp ha
  have hb : isProducer b = true := hp
  simp [hb]

theorem strandExit_eq {s : State} {c t : Nat} (hteam : (s.core c).team = some t) (hdue : (s.core c).due = []) :
    strandExit s c = if allExited (exitMarked s c t) t then finishTeam (exitMarked s c t) t else exitMarked s c t := by
  have hcore : (s.onCore c exitCore).core c = exitCore (s.core c) := (onCore_core_get ..).trans (if_pos rfl)
  unfold strandExit
  simp only [hteam, drain_idle hdue]
  have hmark : (s.onCore c exitCore).updTeam t
      (fun tm => { tm with exited := tm.exited ||| 2 ^ ((s.onCore c exitCore).core c).tcore }) = exitMarked s c t := by
    rw [hcore]; rfl
  rw [← hmark]
  rfl

/-- The state in which the strand of `t` has stopped. -/
def stopped (t : Trig) (s : State) : State := s.onCore t.core (fun x => { x with run := .exited })

theorem stopped_core (t : Trig) (s : State) : (stopped t s).core t.core = { s.core t.core with run := .exited } :=
  (onCore_core_get ..).trans (if_pos rfl)

section
variable {t : Trig} {s : State} (hck : t.ckpt = true) (hm : (s.core t.core).mode ≠ .handler) {tm : Nat}
  (hteam : (s.core t.core).team = some tm) (hdue : (s.core t.core).due = [])
include hck hm hteam hdue

theorem gives_exit : Gives (.cuExit t) s (if popCount ((s.team tm).exited ||| 2 ^ (s.core t.core).tcore) 4 = (s.team tm).n
    then finishTeam (exitMarked (stopped t s) t.core tm) tm else exitMarked (stopped t s) t.core tm) := by
  have hop : opCuExit t s = .done (stopped t s) := guarded_user hck hm
  have hexit := strandExit_eq (s := stopped t s) (c := t.core) (t := tm) (by rw [stopped_core]; exact hteam)
    (by rw [stopped_core]; exact hdue)
  have hall : allExited (exitMarked (stopped t s) t.core tm) tm =
      decide (popCount ((s.team tm).exited ||| 2 ^ (s.core t.core).tcore) 4 = (s.team tm).n) := by
    rw [allExited, exitMarked_team, stopped_core]; rfl
  rw [hall] at hexit
  show execCuExit t s = _
  simp only [execCuExit, hop, hexit, decide_eq_true_eq]

theorem exit_goesOn (hn : popCount ((s.team tm).exited ||| 2 ^ (s.core t.core).tcore) 4 ≠ (s.team tm).n) :
    ∃ u, Gives (.cuExit t) s u ∧ (u.core t.core).run = .exited ∧
      (u.team tm).exited = (s.team tm).exited ||| 2 ^ (s.core t.core).tcore ∧ SameMemory s u ∧
      (∀ a ∈ (u.core t.core).accs, isProducer a = true → a.dead = true) := by
  have hgives := gives_exit hck hm hteam hdue
  rw [if_neg hn] at hgives
  refine ⟨_, hgives, ?run, ?exited, fun _ => rfl, ?dead⟩
  case run => rw [exitMarked_core, stopped_core]; rfl
  case exited => rw [exitMarked_team, stopped_core]; rfl
  case dead => rw [exitMarked_core]; exact fun a ha hp => exitCore_dead ha hp

theorem exit_ends (hn : popCount ((s.team tm).exited ||| 2 ^ (s.core t.core).tcore) 4 = (s.team tm).n)
    (hreq : s.hasReq (s.team tm).tag = true) :
    let r := s.req (s.team tm).tag
    ∃ u, Gives (.cuExit t) s u ∧ (u.fe.teams.any (fun e => e.1 == tm)) = false ∧
      (∀ k ∈ (s.team tm).cores, (u.core k).team = none) ∧
      (u.req (s.team tm).tag).d = r.d + (s.team tm).weight ∧ (u.req (s.team tm).tag).e = r.e ∧
      (r.d + (s.team tm).weight = r.e → (u.req (s.team tm).tag).st = 3) := by
  have hgives := gives_exit hck hm hteam hdue
  rw [if_pos hn] at hgives
  have hends := finishTeam_removes (s := exitMarked (stopped t s) t.core tm) (t := tm) (by rw [exitMarked_team]; exact hreq)
  rw [exitMarked_team] at hends
  exact ⟨_, hgives, hends⟩

end

/-! ### Spawn (R26, R181) -/

theorem sum_spawnShare {h m : Nat} (hm : 0 < m) : ((span 0 m).map (spawnShare h m)).sum = h := by
  calc ((span 0 m).map (spawnShare h m)).sum
      = m * (h / m) + min m (h % m) := by
        rw [span_eq_range', ← List.range_eq_range']
        exact sum_map_range_share _ _ _
    _ = m * (h / m) + h % m := by rw [Nat.min_eq_right (Nat.mod_lt _ hm).le]
    _ = h := Nat.div_add_mod _ _

theorem one_le_spawnShare {h m : Nat} (hm : 0 < m) (hle : m ≤ h) (i : Nat) : 1 ≤ spawnShare h m i :=
  le_add_right (Nat.div_pos hle hm)

/-- Child `i` of a spawn, as it joins the ready list at place `o`. -/
def child (tag h m entry n : Nat) (words : List Word) (after : Nat × Nat × Nat) (i o : Nat) : Team :=
  { Team.init with
    tag := tag, st := .ready, weight := spawnShare h m i, args := wordN i :: wordN m :: words,
    entries := List.replicate n entry, n := n, index := i, spawned := true, after := some after, order := o }

section
variable (tag h m entry n : Nat) (words : List Word) (after : Nat × Nat × Nat)

theorem addTeam_team (s : State) (tm : Team) (j : Nat) :
    (addTeam s tm).team j = if j = s.fe.nextTeam then { tm with order := s.fe.order } else s.team j := tab_get_put ..

theorem addChildren_reqs (s : State) (i k : Nat) :
    (addChildren s tag h m entry n words after i k).fe.reqs = s.fe.reqs ∧
      (addChildren s tag h m entry n words after i k).fe.spawnRecs = s.fe.spawnRecs := by
  induction k generalizing s i with
  | zero => exact ⟨rfl, rfl⟩
  | succ k ih => exact ih _ _

theorem addChildren_old {s : State} {j : Nat} (hj : j < s.fe.nextTeam) (i k : Nat) :
    (addChildren s tag h m entry n words after i k).team j = s.team j := by
  induction k generalizing s i with
  | zero => rfl
  | succ k ih =>
    rw [addChildren, ih (Nat.lt_succ_of_lt hj), addTeam_team, if_neg hj.ne]

theorem addChildren_new (s : State) {j k : Nat} (hj : j < k) (i : Nat) :
    ∃ o, (addChildren s tag h m entry n words after i k).team (s.fe.nextTeam + j) =
      child tag h m entry n words after (i + j) o := by
  induction k generalizing s i j with
  | zero => exact absurd hj (Nat.not_lt_zero j)
  | succ k ih =>
    cases j with
    | zero =>
      refine ⟨s.fe.order, ?_⟩
      rw [addChildren, addChildren_old (hj := Nat.lt_succ_self _), Nat.add_zero, addTeam_team, if_pos rfl]
      rfl
    | succ j =>
      obtain ⟨o, ho⟩ := ih (addTeam s (child tag h m entry n words after i 0)) (Nat.lt_of_succ_lt_succ hj) (i + 1)
      refine ⟨o, ?_⟩
      rw [show i + (j + 1) = i + 1 + j by omega, ← ho, show s.fe.nextTeam + (j + 1) = s.fe.nextTeam + 1 + j by omega]
      rfl

end

/-- What the start of an offer keeps of the request and of the front end. -/
theorem startOffer_keeps (s : State) (tag : Nat) : ((startOffer s tag).req tag).e = (s.req tag).e ∧
    (startOffer s tag).fe.nextTeam = s.fe.nextTeam ∧ (startOffer s tag).fe.spawnRecs = s.fe.spawnRecs := by
  unfold startOffer
  split
  · exact ⟨rfl, rfl, rfl⟩
  · unfold State.updReq
    split
    · exact ⟨by rw [setReq_req_get, if_pos rfl], rfl, rfl⟩
    · exact ⟨rfl, rfl, rfl⟩

/-- The weight of a team from which children take half: it grows where half is too little for them (R26). -/
def spawnGrant (w m : Nat) : Nat := if w / 2 < m then 2 ^ 40 else 0

theorem le_half_spawnGrant {w m : Nat} (hm : m ≤ 4096) : m ≤ (w + spawnGrant w m) / 2 := by
  unfold spawnGrant
  split
  · omega
  · omega

/-- The weight of team `t` from which its children take half. -/
def spawnWeight (s : State) (t m : Nat) : Nat := (s.team t).weight + spawnGrant (s.team t).weight m

/-- The state of a spawn of `m` teams in which the weight is granted and the parent's half is taken. -/
def spawnGranted (s : State) (t m : Nat) : State :=
  (s.updReq (s.team t).tag (fun r => { r with e := r.e + spawnGrant (s.team t).weight m, spawned := r.spawned + m })).setTeam t
    { s.team t with weight := spawnWeight s t m - spawnWeight s t m / 2 }

theorem spawnGranted_keeps {s : State} {t : Nat} (hreq : s.hasReq (s.team t).tag = true) (m : Nat) :
    let u := spawnGranted s t m
    (u.req (s.team t).tag).e = (s.req (s.team t).tag).e + spawnGrant (s.team t).weight m ∧ u.fe.nextTeam = s.fe.nextTeam ∧
      u.fe.spawnRecs = s.fe.spawnRecs ∧ (u.team t).weight = spawnWeight s t m - spawnWeight s t m / 2 := by
  intro u
  have hu : u = spawnGranted s t m := rfl
  rw [spawnGranted, updReq_of_hasReq hreq] at hu
  rw [hu, setTeam_req_of, setReq_req_get, if_pos rfl, setTeam_team_get, if_pos rfl]
  exact ⟨rfl, rfl, rfl, rfl⟩

theorem spawnTeams_eq (s : State) (c t m entry n : Nat) (words : List Word) : ∃ after,
    let u := addChildren (startOffer (spawnGranted s t m) (s.team t).tag) (s.team t).tag (spawnWeight s t m / 2) m entry n words
      after 0 m
    spawnTeams s c t m entry n words = { u with fe := { u.fe with spawnRecs := u.fe.spawnRecs + m } } := by
  unfold spawnTeams spawnGranted spawnWeight spawnGrant
  by_cases hw : (s.team t).weight / 2 < m
  · simp only [hw, decide_true, if_true]
    exact ⟨_, rfl⟩
  · simp only [hw, decide_false, Bool.false_eq_true, if_false, Nat.add_zero]
    exact ⟨_, rfl⟩

/-- A spawn by a strand of team `t` (R26, R181): the request and the parent keep the sum, and each child gets its share. -/
theorem spawnTeams_shares {s : State} {t : Nat} (hreq : s.hasReq (s.team t).tag = true) (ht : t < s.fe.nextTeam)
    (c m entry n : Nat) (words : List Word) :
    let u := spawnTeams s c t m entry n words
    (u.req (s.team t).tag).e = (s.req (s.team t).tag).e + spawnGrant (s.team t).weight m ∧
      u.fe.spawnRecs = s.fe.spawnRecs + m ∧ (u.team t).weight + spawnWeight s t m / 2 = spawnWeight s t m ∧
      ∀ i, i < m → ∃ after o, u.team (s.fe.nextTeam + i) =
        child (s.team t).tag (spawnWeight s t m / 2) m entry n words after i o := by
  intro u
  obtain ⟨after, hu⟩ := spawnTeams_eq s c t m entry n words
  obtain ⟨ge, gnext, grecs, gweight⟩ := spawnGranted_keeps hreq m
  obtain ⟨oe, onext, orecs⟩ := startOffer_keeps (spawnGranted s t m) (s.team t).tag
  have oteam := team_of_teams (booked_startOffer (spawnGranted s t m) (s.team t).tag).teams
  rw [gnext] at onext
  generalize startOffer (spawnGranted s t m) (s.team t).tag = v at hu oe onext orecs oteam
  obtain ⟨creqs, crecs⟩ := addChildren_reqs (s.team t).tag (spawnWeight s t m / 2) m entry n words after v 0 m
  have hold := addChildren_old (s.team t).tag (spawnWeight s t m / 2) m entry n words after (onext ▸ ht : t < v.fe.nextTeam) 0 m
  have hnew := fun i hi => addChildren_new (s.team t).tag (spawnWeight s t m / 2) m entry n words after v (j := i) (k := m) hi 0
  generalize addChildren v (s.team t).tag (spawnWeight s t m / 2) m entry n words after 0 m = w at hu creqs crecs hold hnew
  have hreqs : u.fe.reqs = v.fe.reqs := (congrArg (fun z : State => z.fe.reqs) hu).trans creqs
  have hteams : u.fe.teams = w.fe.teams := by rw [show u = _ from hu]
  refine ⟨?_, ?_, ?_, fun i hi => ?_⟩
  · rw [req_of_reqs hreqs, oe, ge]
  · rw [show u.fe.spawnRecs = w.fe.spawnRecs + m from congrArg (fun z : State => z.fe.spawnRecs) hu, crecs, orecs, grecs]
  · rw [team_of_teams hteams, hold, oteam, gweight]
    exact Nat.sub_add_cancel (Nat.div_le_self ..)
  · obtain ⟨o, ho⟩ := hnew i hi
    rw [onext, Nat.zero_add] at ho
    exact ⟨after, o, (team_of_teams hteams _).trans ho⟩

theorem gives_spawn {t : Trig} {s : State} {tm : Nat} {words : List Word} (hck : t.ckpt = true)
    (hm : (s.core t.core).mode ≠ .handler) (hteam : (s.core t.core).team = some tm)
    (hargs : spawnArgs (s.core t.core).dup (fld (cuA t s) 5 0) t.slot 6 = .ok words) (hy : 0 < t.y.toNat) (hmax : t.y.toNat ≤ 4096)
    (hentry : fld (cuK t s) 11 0 ≤ (segEntry (imgOf s t.core) 0).2) (hreg : fld (cuA t s) 5 0 ≤ 58)
    (hrecs : s.fe.spawnRecs + t.y.toNat ≤ spawnMax) :
    Gives (.cuSpawn t) s (spawnTeams s t.core tm t.y.toNat (fld (cuK t s) 11 0) (fld (cuK t s) 13 12 + 1) words) := by
  have hop : opCuSpawn t s =
      .done (spawnTeams s t.core tm t.y.toNat (fld (cuK t s) 11 0) (fld (cuK t s) 13 12 + 1) words) := by
    refine (guarded_user hck hm).trans ?_
    simp only [hargs, hteam, hy.ne', Nat.not_lt.mpr hmax, Nat.not_lt.mpr hentry, Nat.not_lt.mpr hreg, Nat.not_lt.mpr hrecs,
      decide_false, Bool.or_false, Bool.false_eq_true, if_false]
  exact congrArg (finish s t.core) hop

/-! ### O25 -/

theorem cuTeamControl : Stmt.CuTeamControl := by
  intro t s c x y
  refine ⟨fun hck hm => ⟨gives_yield hck hm, fun tm hteam hdue hn => exit_goesOn hck hm hteam hdue hn,
    fun tm hteam hdue hn hreq => exit_ends hck hm hteam hdue hn hreq, fun tm hteam => gives_halt_user hck hm hteam, ?spawn⟩,
    fun hck hm => ⟨fun tm hteam => gives_halt_handler hck hm hteam, gives_guarded_trap (.inr ⟨hck, hm⟩)⟩, fun hck e he => ?none⟩
  case spawn =>
    intro tm words hteam hreq hargs hy hmax hentry hreg hrecs ht w g
    obtain ⟨he, hsum, hweight, hnew⟩ := spawnTeams_shares hreq ht c y (fld (cuK t s) 11 0) (fld (cuK t s) 13 12 + 1) words
    refine ⟨_, gives_spawn hck hm hteam hargs hy hmax hentry hreg hrecs, sameMemory_of_hbm (spawnTeams_hbm ..), he, hsum, hweight,
      sum_spawnShare hy, fun i hi => ?_⟩
    obtain ⟨after, o, hchild⟩ := hnew i hi
    intro k
    rw [show k = _ from hchild]
    exact ⟨rfl, one_le_spawnShare hy (le_half_spawnGrant hmax) i, rfl, rfl, rfl, rfl⟩
  case none =>
    simp only [List.mem_cons, List.not_mem_nil, or_false] at he
    rcases he with rfl | rfl | rfl | rfl
    · exact gives_guarded_trap (.inl hck) _ (by simp)
    · exact gives_guarded_trap (.inl hck) _ (by simp)
    · exact gives_halt_trap hck
    · exact gives_guarded_trap (.inl hck) _ (by simp)

/-- Settles O25: a release sends the withheld entries in an order that no store's place contradicts; an exit, a halt and a spawn are
their effects on the team's place and weight, with the shares of a spawn adding up to the half that is handed on. -/
theorem checkpointsAndTeams : Obligations.CheckpointsAndTeams := ⟨cuCheckpoint, cuTeamControl⟩

end Sys2Proof.Proofs
end

section
/-!
PROOFS. Accesses of scratchpads: where a pointer leads, or the trap that it takes (R194), and the loads and stores of the own one (O10).
-/
namespace Sys2Proof.Proofs

open Sys2Proof.Machine Sys2Proof.Laws Sys2Proof.Stmt

/-! ### The target of an access (R33, R194) -/

/-- The team-relative core and the offset that address `a` of region 0 names: the own scratchpad, or a window of a team member. -/
def spadPlace (s : State) (c slot a : Nat) : Except Trap (Nat × Nat) :=
  if a < spadBits then .ok ((s.core c).tcore, a)
  else if a / 2 ^ 22 < 1 || a / 2 ^ 22 > 4 || a % 2 ^ 22 ≥ spadBits then .error (trapAddr slot a eUnmapped)
  else if a / 2 ^ 22 - 1 ≥ teamSize s c then .error (trapAddr slot a ePeerwin)
  else .ok (a / 2 ^ 22 - 1, a % 2 ^ 22)

/-- The checks of an access of `len` bits at offset `o` of team-relative core `k` (R194). -/
def spadChecks (s : State) (c slot a len w k o : Nat) (own : Bool) : Except Trap (Nat × Nat) :=
  if own && k != (s.core c).tcore then .error (trapAddr slot a eUnmapped)
  else if o + len > spadBits then .error (trapAddr slot a eUnmapped)
  else if pinBlocked s (peerCore s c k) o len then .error (trapAddr slot a ePerm)
  else if !alignedW o w then .error (trapAlign slot a)
  else .ok (k, o)

section
variable {s : State} {c slot len w k o : Nat} {y : Word} {own : Bool}

theorem lsTarget_malformed (hmal : ptrMal y = true) : lsTarget s c slot y len w own = .error (trapMal slot (ptrAddr y)) :=
  if_pos hmal

section
variable (hmal : ptrMal y = false)
include hmal

theorem lsTarget_elsewhere (hreg : region (ptrAddr y) ≠ 0) :
    lsTarget s c slot y len w own = .error (trapAddr slot (ptrAddr y) eUnmapped) :=
  (if_neg (by simp [hmal])).trans (if_pos hreg)

theorem lsTarget_eq (hreg : region (ptrAddr y) = 0) : lsTarget s c slot y len w own =
    (spadPlace s c slot (ptrAddr y)).bind (fun p => spadChecks s c slot (ptrAddr y) len w p.1 p.2 own) := by
  refine (if_neg (by simp [hmal])).trans ((if_neg (not_not.mpr hreg)).trans ?_)
  change (match spadPlace s c slot (ptrAddr y) with | .error t => _ | .ok (k, o) => _) = _
  cases spadPlace s c slot (ptrAddr y) <;> rfl

theorem lsTarget_of_place (hreg : region (ptrAddr y) = 0) (h : spadPlace s c slot (ptrAddr y) = .ok (k, o)) :
    lsTarget s c slot y len w own = spadChecks s c slot (ptrAddr y) len w k o own := by
  rw [lsTarget_eq hmal hreg, h]
  rfl

end

theorem region_of_spad {a : Nat} (h : a < 2 ^ 25) : region a = 0 := region_phys (by omega)

theorem spadPlace_own {a : Nat} (h : a < spadBits) : spadPlace s c slot a = .ok ((s.core c).tcore, a) := if_pos h

/-- An address in the window of team-relative core `k` (R194). -/
theorem spadPlace_window {a : Nat} (hk : k < 4) (ha : a / 2 ^ 22 = k + 1) (ho : a % 2 ^ 22 < spadBits) : spadPlace s c slot a =
    if k ≥ teamSize s c then .error (trapAddr slot a ePeerwin) else .ok (k, a % 2 ^ 22) := by
  have hout : ¬ a < spadBits := by unfold spadBits; omega
  have hin : ¬ (a / 2 ^ 22 < 1 || a / 2 ^ 22 > 4 || a % 2 ^ 22 ≥ spadBits) = true := by
    simp only [Bool.or_eq_true, decide_eq_true_eq]
    omega
  rw [spadPlace, if_neg hout, if_neg hin, ha, Nat.add_sub_cancel]

theorem spadPlace_gap {a : Nat} (h : spadBits ≤ a) (ha : a < 2 ^ 22) :
    spadPlace s c slot a = .error (trapAddr slot a eUnmapped) :=
  (if_neg (Nat.not_lt.mpr h)).trans (if_pos (by simp only [Bool.or_eq_true, decide_eq_true_eq]; omega))

theorem spadChecks_ok {a : Nat} (hown : own = true → k = (s.core c).tcore) (hin : o + len ≤ spadBits)
    (hpin : pinBlocked s (peerCore s c k) o len = false) (hal : alignedW o w = true) :
    spadChecks s c slot a len w k o own = .ok (k, o) := by
  have hreach : ¬ (own && k != (s.core c).tcore) = true := by
    rw [Bool.and_eq_true_iff, bne_iff_ne, not_and_not_right]
    exact hown
  simp [spadChecks, hreach, Nat.not_lt.mpr hin, hpin, hal]

/-- The checks that the own scratchpad does not meet, in their order. -/
theorem spadChecks_own {a : Nat} : spadChecks s c slot a len w (s.core c).tcore o own =
    if o + len > spadBits then .error (trapAddr slot a eUnmapped)
    else if pinBlocked s (peerCore s c (s.core c).tcore) o len then .error (trapAddr slot a ePerm)
    else if !alignedW o w then .error (trapAlign slot a)
    else .ok ((s.core c).tcore, o) := by
  rw [spadChecks, if_neg (by simp)]

end

theorem ptrWidth_pos (p : Word) : 0 < ptrWidth p := by
  unfold ptrWidth widthOf
  split <;> decide

section
variable {t : Trig} {s : State} {len w : Nat}

theorem lsTarget_own (h : OwnSpad t s len w) (own : Bool) :
    lsTarget s t.core t.slot t.y len w own = .ok ((s.core t.core).tcore, ptrAddr t.y) := by
  obtain ⟨hmal, hlen, hin, hal, hpin⟩ := h
  have ha : ptrAddr t.y < spadBits := by omega
  rw [lsTarget_of_place hmal (region_of_spad (by unfold spadBits at ha; omega)) (spadPlace_own ha)]
  exact spadChecks_ok (fun _ => rfl) hin hpin hal

theorem lsTarget_peer {k o : Nat} (h : PeerSpad t s k o len w) : lsTarget s t.core t.slot t.y len w false = .ok (k, o) := by
  obtain ⟨hmal, hlen, hk, hteam, -, haddr, hin, hal, hpin⟩ := h
  have ho : o < spadBits := by omega
  have hdiv : ptrAddr t.y / 2 ^ 22 = k + 1 := by unfold spadBits at ho; omega
  have hmod : ptrAddr t.y % 2 ^ 22 = o := by unfold spadBits at ho; omega
  have hplace : spadPlace s t.core t.slot (ptrAddr t.y) = .ok (k, o) := by
    rw [spadPlace_window hk hdiv (hmod ▸ ho), if_neg (Nat.not_le.mpr hteam), hmod]
  rw [lsTarget_of_place hmal (region_of_spad (by unfold spadBits at ho; omega)) hplace]
  exact spadChecks_ok (fun h => absurd h Bool.false_ne_true) hin hpin hal

end

/-! ### How an operation of LS goes on -/

section
variable {t : Trig} {s : State} {len w : Nat} {own : Bool}

theorem withTarget_ok {n o : Nat} (h : lsTarget s t.core t.slot t.y len w own = .ok (n, o)) (k : Nat → Nat → Res) :
    withTarget t s len w own k = k n o := by
  rw [withTarget, h]

theorem withTarget_trap {tr : Trap} (h : lsTarget s t.core t.slot t.y len w own = .error tr) (k : Nat → Nat → Res) :
    withTarget t s len w own k = .trap tr := by
  rw [withTarget, h]

theorem withTarget_own (h : OwnSpad t s len w) (own : Bool) (k : Nat → Nat → Res) :
    withTarget t s len w own k = k (s.core t.core).tcore (ptrAddr t.y) := withTarget_ok (lsTarget_own h own) k

theorem withTarget_peer {n o : Nat} (h : PeerSpad t s n o len w) (k : Nat → Nat → Res) :
    withTarget t s len w false k = k n o := withTarget_ok (lsTarget_peer h) k

theorem withLocal_free (h : NotHeld t s) (r : Res) : withLocal t s r = r := if_neg (Bool.eq_false_iff.mp h)

theorem isOwn_own : isOwn t s (s.core t.core).tcore = true := beq_self_eq_true _

/-- A store of the own scratchpad is a local write. -/
theorem lsPut_own (h : NotHeld t s) (o len : Nat) (v : Wide) (ben : Option Word) :
    lsPut t s (s.core t.core).tcore o len v ben = .done (localWrite t s (.spWrite o len v ben)) :=
  (if_pos isOwn_own).trans (withLocal_free h _)

theorem lsLoad_unspilled (h : NoSpill t s) (sx : Bool) : lsLoad t s sx =
    withTarget t s (ptrWidth t.y) (ptrWidth t.y) true fun _ o =>
      withLocal t s (.done (plan s t.core 1 rRead (.spRead t.copy o (ptrWidth t.y) sx none))) := if_neg (Bool.eq_false_iff.mp h)

theorem opLsSt_unspilled (h : NoSpill t s) : opLsSt t s =
    withTarget t s (ptrWidth t.y) (ptrWidth t.y) false fun n o =>
      lsPut t s n o (ptrWidth t.y) (BitVec.ofNat 1024 ((portOf t s (pLSa t.copy)).toNat % 2 ^ ptrWidth t.y)) none :=
  if_neg (Bool.eq_false_iff.mp h)

end

/-! ### Loads and stores of the own scratchpad (R191, R195) -/

section
variable {t : Trig} {s : State}

theorem opLsZero_legal (h0 : 0 < (portOf t s (pLSa t.copy)).toNat) (h1 : (portOf t s (pLSa t.copy)).toNat ≤ 1024) :
    opLsZero t s = withTarget t s (portOf t s (pLSa t.copy)).toNat 1 false fun k o =>
      lsPut t s k o (portOf t s (pLSa t.copy)).toNat 0 none :=
  if_neg (by
    simp only [Bool.or_eq_true, decide_eq_true_eq, not_or]
    exact ⟨Nat.ne_of_gt h0, Nat.not_lt.mpr h1⟩)

theorem opLsZero_illegal (h : (portOf t s (pLSa t.copy)).toNat = 0 ∨ 1024 < (portOf t s (pLSa t.copy)).toNat) :
    opLsZero t s = .trap (trapIllegal t.slot) :=
  if_pos (by
    simp only [Bool.or_eq_true, decide_eq_true_eq]
    exact h)

section
variable (hh : NotHeld t s)
include hh

theorem lsLoad_own (hs : NoSpill t s) (h : OwnSpad t s (ptrWidth t.y) (ptrWidth t.y)) (sx : Bool) :
    lsLoad t s sx = .done (planned s t.core 1 rRead (.spRead t.copy (ptrAddr t.y) (ptrWidth t.y) sx none)) := by
  rw [lsLoad_unspilled hs, withTarget_own h, withLocal_free hh]

theorem opLsSt_own (hs : NoSpill t s) (h : OwnSpad t s (ptrWidth t.y) (ptrWidth t.y)) :
    opLsSt t s = .done (localWrite t s (.spWrite (ptrAddr t.y) (ptrWidth t.y)
      (BitVec.ofNat 1024 ((portOf t s (pLSa t.copy)).toNat % 2 ^ ptrWidth t.y)) none)) := by
  rw [opLsSt_unspilled hs, withTarget_own h, lsPut_own hh]

theorem opLsLdv_own (h : OwnSpad t s 1024 64) :
    opLsLdv t s = .done (planned s t.core 1 rRead (.spReadV t.copy (ptrAddr t.y))) := by
  rw [opLsLdv, withTarget_own h, withLocal_free hh]

theorem opLsStv_own (h : OwnSpad t s 1024 64) :
    opLsStv t s = .done (localWrite t s (.spWrite (ptrAddr t.y) 1024 ((s.core t.core).dup.wport (pLSw t.copy)) none)) := by
  rw [opLsStv, withTarget_own h, lsPut_own hh, lsW]

theorem opLsStm_own (h : OwnSpad t s 1024 64) :
    opLsStm t s = .done (localWrite t s
      (.spWrite (ptrAddr t.y) 1024 ((s.core t.core).dup.wport (pLSw t.copy)) (some (portOf t s (pLSa t.copy))))) := by
  rw [opLsStm, withTarget_own h, lsPut_own hh, lsW, lsA]

theorem opLsZero_own (h0 : 0 < (portOf t s (pLSa t.copy)).toNat) (h1 : (portOf t s (pLSa t.copy)).toNat ≤ 1024)
    (h : OwnSpad t s (portOf t s (pLSa t.copy)).toNat 1) :
    opLsZero t s = .done (localWrite t s (.spWrite (ptrAddr t.y) (portOf t s (pLSa t.copy)).toNat 0 none)) := by
  rw [opLsZero_legal h0 h1, withTarget_own h, lsPut_own hh]

end

end

theorem lsOwnLoadsAndStores : Stmt.LsOwnLoadsAndStores := by
  intro t s c o w a wide hh
  exact ⟨fun hs h => ⟨congrArg (finish s c) (lsLoad_own hh hs h false), congrArg (finish s c) (lsLoad_own hh hs h true),
      congrArg (finish s c) (opLsSt_own hh hs h)⟩,
    fun h => ⟨congrArg (finish s c) (opLsLdv_own hh h), congrArg (finish s c) (opLsStv_own hh h),
      congrArg (finish s c) (opLsStm_own hh h)⟩,
    fun h0 h1 h => congrArg (finish s c) (opLsZero_own hh h0 h1 h), fun h => congrArg (finish s c) (opLsZero_illegal h)⟩

/-! ### Read-modify-write (R195) -/

@[simp] theorem shielded_core_team (s : State) (c k : Nat) : ((shielded s c).core k).team = (s.core k).team := by
  unfold shielded
  grind [onCore_core_get]

@[simp] theorem shielded_core_tcore (s : State) (c k : Nat) : ((shielded s c).core k).tcore = (s.core k).tcore := by
  unfold shielded
  grind [onCore_core_get]

@[simp] theorem shielded_core_dup (s : State) (c k : Nat) : ((shielded s c).core k).dup = (s.core k).dup := by
  unfold shielded
  grind [onCore_core_get]

@[simp] theorem shielded_fe (s : State) (c : Nat) : (shielded s c).fe = s.fe := by
  unfold shielded
  split <;> rfl

@[simp] theorem teamSize_shielded (s : State) (c d : Nat) : teamSize (shielded s c) d = teamSize s d := by
  simp only [teamSize, State.team, shielded_core_team, shielded_fe]

@[simp] theorem peerCore_shielded (s : State) (c d k : Nat) : peerCore (shielded s c) d k = peerCore s d k := by
  simp only [peerCore, State.team, shielded_core_team, shielded_fe]

theorem teamPin_shielded (s : State) (c t : Nat) : teamPin (shielded s c) t = teamPin s t := by
  unfold shielded
  split <;> rfl

theorem foreignBank_shielded (s : State) (c : Nat) : foreignBank (shielded s c) = foreignBank s := by
  unfold shielded
  split <;> rfl

@[simp] theorem pinBlocked_shielded (s : State) (c d o len : Nat) : pinBlocked (shielded s c) d o len = pinBlocked s d o len := by
  simp only [pinBlocked, foreignBank_shielded, teamPin_shielded, shielded_core_team]

/-- A shield changes no target: it depends on the team, its cores and the pins alone. -/
theorem lsTarget_shielded (s : State) (c d slot : Nat) (y : Word) (len w : Nat) (own : Bool) :
    lsTarget (shielded s c) d slot y len w own = lsTarget s d slot y len w own := by
  unfold lsTarget
  simp

theorem portOf_shielded (t : Trig) (s : State) (c n : Nat) : portOf t (shielded s c) n = portOf t s n := by
  rw [portOf, shielded_core_dup]
  rfl

theorem withCkpt_shields {t : Trig} {s : State} (h : t.ckpt = true) (k : State → Res) : withCkpt t s k = k (shielded s t.core) := by
  rcases withCkpt_cases t s k with ⟨hno, -⟩ | ⟨-, hm, heq⟩ | ⟨-, hm, heq⟩
  · exact absurd (h.symm.trans hno) Bool.noConfusion
  · rw [heq, shielded, if_pos hm]
  · rw [heq, shielded, if_neg hm]

theorem withCkpt_illegal {t : Trig} {s : State} (h : t.ckpt = false) (k : State → Res) :
    withCkpt t s k = .trap (trapIllegal t.slot) := if_pos (by rw [h]; rfl)

theorem withTarget_own_shielded {t : Trig} {s : State} {len w : Nat} (h : OwnSpad t s len w) (own : Bool) (k : Nat → Nat → Res) :
    withTarget t (shielded s t.core) len w own k = k ((shielded s t.core).core t.core).tcore (ptrAddr t.y) :=
  withTarget_ok (by rw [lsTarget_shielded, lsTarget_own h, shielded_core_tcore]) k

section
variable {t : Trig} {s : State} (hck : t.ckpt = true) (hh : NotHeld t (shielded s t.core))
  (h : OwnSpad t s (ptrWidth t.y) (ptrWidth t.y))
include hck hh h

theorem opLsSwap_own : opLsSwap t s = .done (localWrite t (shielded s t.core) (.spSwap t.copy (ptrAddr t.y) (ptrWidth t.y)
    (wordN ((portOf t s (pLSa t.copy)).toNat % 2 ^ ptrWidth t.y)))) := by
  rw [opLsSwap, withCkpt_shields hck]
  dsimp only
  rw [withTarget_own_shielded h, withLocal_free hh, lsA, portOf_shielded]
  rfl

theorem opLsBor_own : opLsBor t s = .done (localWrite t (shielded s t.core) (.spBor (ptrAddr t.y) (ptrWidth t.y)
    (portOf t s (pLSa t.copy)))) := by
  rw [opLsBor, withCkpt_shields hck]
  dsimp only
  rw [withTarget_own_shielded h, if_pos isOwn_own, withLocal_free hh, lsA, portOf_shielded]
  rfl

end

theorem lsReadModifyWrite : Stmt.LsReadModifyWrite := by
  intro t s c o w u a
  exact ⟨fun hck hh h => ⟨congrArg (finish s c) (opLsSwap_own hck hh h), congrArg (finish s c) (opLsBor_own hck hh h)⟩,
    fun hck => ⟨congrArg (finish s c) (withCkpt_illegal hck _), congrArg (finish s c) (withCkpt_illegal hck _)⟩⟩

/-! ### Traps of the target -/

/-- Loads and stores of one element take the trap of their target before anything else. -/
theorem gives_targetTrap {t : Trig} {s : State} {tr : Trap}
    (h : ∀ own, lsTarget s t.core t.slot t.y (ptrWidth t.y) (ptrWidth t.y) own = .error tr) :
    (NoSpill t s → Gives (.lsLd t) s (takeTrap s t.core tr) ∧ Gives (.lsLds t) s (takeTrap s t.core tr) ∧
      Gives (.lsSt t) s (takeTrap s t.core tr)) ∧
    Gives (.lsLdpr t) s (takeTrap s t.core tr) ∧ Gives (.lsLdprs t) s (takeTrap s t.core tr) := by
  refine ⟨fun hs => ⟨?_, ?_, ?_⟩, ?_, ?_⟩
  · exact congrArg (finish s t.core) ((lsLoad_unspilled hs false).trans (withTarget_trap (h _) _))
  · exact congrArg (finish s t.core) ((lsLoad_unspilled hs true).trans (withTarget_trap (h _) _))
  · exact congrArg (finish s t.core) ((opLsSt_unspilled hs).trans (withTarget_trap (h _) _))
  · exact congrArg (finish s t.core) (withTarget_trap (h _) _)
  · exact congrArg (finish s t.core) (withTarget_trap (h _) _)

theorem lsTargetTraps : Stmt.LsTargetTraps := by
  intro t s c a w traps
  have hw : 0 < w := ptrWidth_pos t.y
  have herr : ∀ {tr : Trap}, ptrMal t.y = false → a < 2 ^ 25 → spadPlace s c t.slot a = .error tr → traps tr :=
    fun hmal ha h => gives_targetTrap fun own => by rw [lsTarget_eq hmal (region_of_spad ha), h]; rfl
  have hown : ∀ {tr : Trap}, ptrMal t.y = false → a < spadBits →
      (∀ own, spadChecks s c t.slot a w w (s.core c).tcore a own = .error tr) → traps tr :=
    fun hmal ha h => gives_targetTrap fun own => by
      rw [lsTarget_of_place hmal (region_of_spad (by unfold spadBits at ha; omega)) (spadPlace_own ha)]
      exact h own
  refine ⟨fun hmal => ?malformed, fun hmal hreg => ?region, fun hmal h0 h1 => ?gap, fun hmal h0 h1 => ?beyond,
    fun k hmal hk hteam hdiv hmod => ?peer, fun hmal hin hpin => ?pin, fun hmal hin hpin hal => ?align⟩
  case malformed => exact gives_targetTrap fun _ => lsTarget_malformed hmal
  case region => exact gives_targetTrap fun _ => lsTarget_elsewhere hmal hreg
  case gap => exact herr hmal (by omega) (spadPlace_gap h0 h1)
  case beyond => exact hown hmal h0 fun _ => by rw [spadChecks_own, if_pos h1]
  case peer => exact herr hmal (by omega) ((spadPlace_window hk hdiv hmod).trans (if_pos hteam))
  case pin => exact hown hmal (by omega) fun _ => by rw [spadChecks_own, if_neg (by omega), if_pos hpin]
  case align =>
    exact hown hmal (by omega) fun _ => by
      rw [spadChecks_own, if_neg (by omega), if_neg (Bool.eq_false_iff.mp hpin), if_pos (by rw [hal]; rfl)]

/-- Settles O10: an address has one target or one trap, and each operation is what its target makes of it. -/
theorem localMemory : Obligations.LocalMemory := ⟨lsOwnLoadsAndStores, lsReadModifyWrite, lsTargetTraps⟩

end Sys2Proof.Proofs
end

section
/-!
PROOFS. Accesses of team peers: how they issue, and how they perform at the peer's scratchpad (O11).
-/
namespace Sys2Proof.Proofs

open Sys2Proof.Machine Sys2Proof.Laws Sys2Proof.Stmt

/-! ### Issue (R193 to R195) -/

/-- An access of the scratchpad of team-relative core `k`, as it takes its place. -/
def peerAcc (t : Trig) (s : State) (k o : Nat) (op : AOp) (len : Nat) : Acc :=
  { accBase s t.core with cls := ptrClass t.y, op := op, addr := o, len := len, peer := peerCore s t.core k }

theorem withReg_full {s : State} {c r : Nat} (h : ((s.core c).dup.greg r).st ≠ .empty) (k : Unit → Res) : withReg s c r k = k () :=
  if_neg h

section
variable {t : Trig} {s : State} {k o : Nat}

theorem isOwn_peer (h : k ≠ (s.core t.core).tcore) : isOwn t s k = false := beq_false_of_ne h

theorem lsPut_peer (h : k ≠ (s.core t.core).tcore) (o len : Nat) (v : Wide) (ben : Option Word) :
    lsPut t s k o len v ben = .done (pushAcc s t.core { peerAcc t s k o .peerSt len with data := v, ben := ben }) :=
  if_neg (Bool.eq_false_iff.mp (isOwn_peer h))

/-- The peer that an access reaches is not the strand's own core (R194). -/
theorem peerSpad_ne {len w : Nat} (h : PeerSpad t s k o len w) : k ≠ (s.core t.core).tcore := by
  obtain ⟨-, -, -, -, hne, -⟩ := h
  exact hne

theorem opLsSt_peer (hs : NoSpill t s) (h : PeerSpad t s k o (ptrWidth t.y) (ptrWidth t.y)) :
    opLsSt t s = .done (pushAcc s t.core { peerAcc t s k o .peerSt (ptrWidth t.y) with
      data := BitVec.ofNat 1024 ((portOf t s (pLSa t.copy)).toNat % 2 ^ ptrWidth t.y) }) := by
  rw [opLsSt_unspilled hs, withTarget_peer h, lsPut_peer (peerSpad_ne h)]
  rfl

theorem opLsStv_peer (h : PeerSpad t s k o 1024 64) :
    opLsStv t s = .done (pushAcc s t.core { peerAcc t s k o .peerSt 1024 with
      data := (s.core t.core).dup.wport (pLSw t.copy) }) := by
  rw [opLsStv, withTarget_peer h, lsPut_peer (peerSpad_ne h)]
  rfl

theorem opLsStm_peer (h : PeerSpad t s k o 1024 64) :
    opLsStm t s = .done (pushAcc s t.core { peerAcc t s k o .peerSt 1024 with
      data := (s.core t.core).dup.wport (pLSw t.copy), ben := some (portOf t s (pLSa t.copy)) }) := by
  rw [opLsStm, withTarget_peer h, lsPut_peer (peerSpad_ne h)]
  rfl

section
variable (hr : ((s.core t.core).dup.greg ((portOf t s (pLSd t.copy)).toNat % 64)).st ≠ .empty)
include hr

theorem lsLoadPeer_peer (h : PeerSpad t s k o (ptrWidth t.y) (ptrWidth t.y)) (sx : Bool) :
    lsLoadPeer t s sx = .done (issueAcc s t.core { peerAcc t s k o (.peerLd sx) (ptrWidth t.y) with
      reg := (portOf t s (pLSd t.copy)).toNat % 64 }) := by
  have hfull : ((s.core t.core).dup.greg (lsReg t s)).st ≠ .empty := hr
  rw [lsLoadPeer]
  dsimp only
  rw [withTarget_peer h, withReg_full hfull, isOwn_peer (peerSpad_ne h)]
  rfl

theorem lsLoadPeer_own (h : OwnSpad t s (ptrWidth t.y) (ptrWidth t.y)) (hh : NotHeld t s) (sx : Bool) :
    lsLoadPeer t s sx = .done (planned
      (s.onCore t.core (fun x => { x with dup := x.dup.emptyG ((portOf t s (pLSd t.copy)).toNat % 64) })) t.core 1 rRead
      (.spRead t.copy (ptrAddr t.y) (ptrWidth t.y) sx (some ((portOf t s (pLSd t.copy)).toNat % 64)))) := by
  have hfull : ((s.core t.core).dup.greg (lsReg t s)).st ≠ .empty := hr
  rw [lsLoadPeer]
  dsimp only
  rw [withTarget_own h, withReg_full hfull, if_pos isOwn_own, withLocal_free hh]
  rfl

end

theorem opLsBor_peer (hck : t.ckpt = true) (h : PeerSpad t s k o (ptrWidth t.y) (ptrWidth t.y)) :
    opLsBor t s = .done (pushAcc (shielded s t.core) t.core
      { peerAcc t (shielded s t.core) k o .peerBor (ptrWidth t.y) with data := (portOf t s (pLSa t.copy)).zeroExtend 1024 }) := by
  have hne : k ≠ ((shielded s t.core).core t.core).tcore := by
    rw [shielded_core_tcore]
    exact peerSpad_ne h
  rw [opLsBor, withCkpt_shields hck]
  dsimp only
  rw [withTarget_ok ((lsTarget_shielded ..).trans (lsTarget_peer h)), isOwn_peer hne, lsA, portOf_shielded]
  rfl

end

theorem lsPeerForms : Stmt.LsPeerForms := by
  intro t s k o c w a r wide at_
  exact ⟨fun hs h => congrArg (finish s c) (opLsSt_peer hs h),
    fun h => ⟨congrArg (finish s c) (opLsStv_peer h), congrArg (finish s c) (opLsStm_peer h)⟩,
    fun h hr => ⟨congrArg (finish s c) (lsLoadPeer_peer hr h false), congrArg (finish s c) (lsLoadPeer_peer hr h true)⟩,
    fun h hh hr => ⟨congrArg (finish s c) (lsLoadPeer_own hr h hh false), congrArg (finish s c) (lsLoadPeer_own hr h hh true)⟩,
    fun hck h => congrArg (finish s c) (opLsBor_peer hck h)⟩

/-! ### Performance at the peer (R193, R196, R238) -/

/-- A load of correctable words finds the bits at its place, and logs nothing (R192). -/
theorem spLoad_of_noErrs {s : State} {c o n : Nat} (h : spadErrs (s.core c).spadBad o n = []) :
    spLoad s c o n = (s, spadGet (s.core c).spad o n) := by
  simp only [spLoad, spadLoad, h, if_true]
  rfl

theorem replyTo_fills {x : Core} {a : Acc} (hdead : a.dead = false) (herr : a.err = none) (v : Word) :
    (replyTo x a v).dup.greg a.reg = ⟨v, .full⟩ := by
  have hfill : replyTo x a v = fillG x a.iss a.reg v := by
    rw [replyTo, hdead, herr]
    rfl
  rw [hfill, fillG, landDup_dup, writeG_greg_get, if_pos rfl]

section
variable {c id : Nat} {s : State} {a : Acc}

/-- An access of a peer that nothing holds back performs, whatever it is. -/
theorem gives_peerAccessPerform (hf : findAcc (s.core c) id = some a) (hb : blocked s c a = false) (hp : isPeer a = true) :
    Gives (.peerAccessPerform c id) s (performPeer (settle s c a) c a) := by
  show execPeerAccessPerform c id s = _
  simp only [execPeerAccessPerform, hf, hb, hp]
  rfl

theorem performPeer_ld {sx : Bool} (hop : a.op = .peerLd sx) (herrs : spadErrs (s.core a.peer).spadBad a.addr a.len = []) :
    performPeer s c a = deliver s c a (extend sx (spadGet (s.core a.peer).spad a.addr a.len) a.len) := by
  rw [performPeer, hop]
  dsimp only
  rw [spLoad_of_noErrs herrs]

theorem performPeer_st (hop : a.op = .peerSt) : performPeer s c a = performPeerSt s c a a.peer a.data.toNat := by
  rw [performPeer, hop]

theorem performPeer_bor (hop : a.op = .peerBor) : performPeer s c a =
    (spRmw s a.peer a.addr a.len (fun old => old ||| a.data.toNat % 2 ^ a.len)).1.onCore c (fun x => dropAcc x a.id) := by
  rw [performPeer, hop]

/-- The words of a longer store, under its mask where it has one. -/
def peerWords (a : Acc) (v : Nat) : List (Nat × Nat) :=
  wordsOf a.addr a.len (match a.ben with | none => 2 ^ a.len - 1 | some k => stmBits k) v

/-- Word by word, a longer store writes the word that follows those already written (R38, R193). -/
theorem performPeerSt_word {pc v : Nat} {w : Nat × Nat} (hlen : 64 < a.len) (hw : (peerWords a v)[a.got.length]? = some w) :
    performPeerSt s c a pc v = (storeWord s pc a.addr a.got.length w).onCore c (fun x =>
      if a.got.length + 1 < (peerWords a v).length then putAcc x { a with got := Tab.put a.got.length none a.got }
      else dropAcc x a.id) := by
  refine (if_neg (Nat.not_le.mpr hlen)).trans ?_
  dsimp only
  split
  next hnone => exact absurd (hw.symm.trans hnone) (Option.some_ne_none w)
  next u hsome =>
    obtain rfl : w = u := Option.some.inj (hw.symm.trans hsome)
    rfl

end

theorem lsPeerPerforms : Stmt.LsPeerPerforms := by
  intro c id s a hf hb v
  have hgives : ∀ {u : State}, isPeer a = true → performPeer v c a = u → Gives (.peerAccessPerform c id) s u :=
    fun hp hu => hu ▸ gives_peerAccessPerform hf hb hp
  refine ⟨fun sx hop hdead herr herrs => ?load, fun hop hlen => ?element, ?word, fun hop => ?bor⟩
  case load =>
    refine ⟨_, hgives (by rw [isPeer, hop]) (performPeer_ld hop herrs), sameMemory_of_hbm rfl, ?_⟩
    rw [deliver, onCore_core_get, if_pos rfl]
    exact replyTo_fills hdead herr _
  case element => exact hgives (by rw [isPeer, hop]) ((performPeer_st hop).trans (if_pos hlen))
  case word =>
    intro w hop hlen ws hw
    exact hgives (by rw [isPeer, hop]) ((performPeer_st hop).trans (performPeerSt_word hlen hw))
  case bor => exact hgives (by rw [isPeer, hop]) (performPeer_bor hop)

/-- Settles O11: a pointer into a peer's window makes an access with a place in the list, which performs as one step at the peer. -/
theorem peerMemory : Obligations.PeerMemory := ⟨lsPeerForms, lsPeerPerforms⟩

end Sys2Proof.Proofs
end

section
/-!
PROOFS. Tag tables: the operations that reach them, and what a lookup finds (O12).
-/
namespace Sys2Proof.Proofs

open Sys2Proof.Machine Sys2Proof.Laws Sys2Proof.Stmt

/-! ### The operations (R197 to R199) -/

section
variable {t : Trig} {s : State}

theorem withRange_legal (h : bits (portOf t s (pLSa t.copy)).toNat 25 16 ≤ bits (portOf t s (pLSa t.copy)).toNat 9 0)
    (k : Nat → Nat → Res) :
    withRange t s k = k (bits (portOf t s (pLSa t.copy)).toNat 25 16) (bits (portOf t s (pLSa t.copy)).toNat 9 0) :=
  if_neg (Nat.not_lt.mpr h)

theorem withRange_illegal (h : bits (portOf t s (pLSa t.copy)).toNat 9 0 < bits (portOf t s (pLSa t.copy)).toNat 25 16)
    (k : Nat → Nat → Res) : withRange t s k = .trap (trapIllegal t.slot) := if_pos h

/-- A scout of a legal length in a region of memory or of windows takes its place (R199). -/
theorem opLsTscout_legal (h0 : 0 < (portOf t s (pLSa t.copy)).toNat) (h1 : (portOf t s (pLSa t.copy)).toNat ≤ 2 ^ 20)
    (hr0 : 0 < region (ptrAddr t.y)) (hr1 : region (ptrAddr t.y) < 14) (hmal : ptrMal t.y = false) :
    opLsTscout t s = .done (pushAcc s t.core { accBase s t.core with
      cls := ptrClass t.y, op := .scout, addr := ptrAddr t.y, len := (portOf t s (pLSa t.copy)).toNat }) := by
  refine (if_neg ?_).trans (if_neg (Bool.eq_false_iff.mp hmal))
  simp only [Bool.or_eq_true, decide_eq_true_eq, not_or]
  exact ⟨⟨⟨Nat.ne_of_gt h0, Nat.not_lt.mpr h1⟩, Nat.ne_of_gt hr0⟩, Nat.not_le.mpr hr1⟩

end

theorem lsTagTables : Stmt.LsTagTables := by
  intro t s c a bank first last i
  exact ⟨rfl, rfl,
    fun h => ⟨congrArg (finish s c) (withRange_legal h _), congrArg (finish s c) (withRange_legal h _)⟩,
    fun h => ⟨congrArg (finish s c) (withRange_illegal h _), congrArg (finish s c) (withRange_illegal h _)⟩,
    fun h0 h1 hr0 hr1 hmal => congrArg (finish s c) (opLsTscout_legal h0 h1 hr0 hr1 hmal)⟩

/-! ### The scan of a lookup (R192, R197, R198) -/

/-- Entry `i` of bank `b`, as a lookup sees it, is valid and holds the key. -/
def TagHit (x : Core) (b key i : Nat) : Prop := flag (tagSeen x b i) 63 = true ∧ fld (tagSeen x b i) 47 0 = key

/-- The index that a scan without a hit reports: that of the first invalid entry, where `free` is 0x400 at its start. -/
def scanFree (x : Core) (b i free : Nat) : Nat → Nat
  | 0 => free
  | n + 1 => scanFree x b (i + 1) (if !flag (tagSeen x b i) 63 && free == 0x400 then i else free) n

section
variable {x : Core} {b key : Nat}

theorem tagScan_here {i : Nat} (h : TagHit x b key i) (free n : Nat) : tagScan x b key i free (n + 1) = wordN i :=
  if_pos (by rw [h.1, h.2, beq_self_eq_true]; rfl)

theorem tagScan_next {i : Nat} (h : ¬ TagHit x b key i) (free n : Nat) : tagScan x b key i free (n + 1) =
    tagScan x b key (i + 1) (if !flag (tagSeen x b i) 63 && free == 0x400 then i else free) n :=
  if_neg (by rw [Bool.and_eq_true_iff, beq_iff_eq]; exact h)

/-- A scan ends at the lowest hit. -/
theorem tagScan_hit {i j n : Nat} (hi : i ≤ j) (hj : j < i + n) (h : TagHit x b key j)
    (hfirst : ∀ m, i ≤ m → m < j → ¬ TagHit x b key m) (free : Nat) : tagScan x b key i free n = wordN j := by
  induction n generalizing i free with
  | zero => omega
  | succ n ih =>
    rcases Nat.eq_or_lt_of_le hi with rfl | hlt
    · exact tagScan_here h free n
    · rw [tagScan_next (hfirst i le_rfl hlt)]
      exact ih hlt (by omega) (fun m hm => hfirst m (by omega)) _

theorem tagScan_miss {i n : Nat} (h : ∀ m, i ≤ m → m < i + n → ¬ TagHit x b key m) (free : Nat) :
    tagScan x b key i free n = wordN (2 ^ 63 + scanFree x b i free n) := by
  induction n generalizing i free with
  | zero => rfl
  | succ n ih =>
    rw [tagScan_next (h i le_rfl (by omega)), ih (fun m hm hn => h m (by omega) (by omega))]
    rfl

/-- A free index, once found, stays. -/
theorem scanFree_found {free : Nat} (h : free ≠ 0x400) (i n : Nat) : scanFree x b i free n = free := by
  induction n generalizing i with
  | zero => rfl
  | succ n ih =>
    rw [scanFree, beq_false_of_ne h, Bool.and_false, if_neg Bool.false_ne_true]
    exact ih _

theorem scanFree_valid {i : Nat} (h : flag (tagSeen x b i) 63 = true) (free n : Nat) :
    scanFree x b i free (n + 1) = scanFree x b (i + 1) free n := by
  rw [scanFree, h]
  rfl

theorem scanFree_first {i j n : Nat} (hi : i ≤ j) (hj : j < i + n) (hne : j ≠ 0x400) (h : flag (tagSeen x b j) 63 = false)
    (hfirst : ∀ m, i ≤ m → m < j → flag (tagSeen x b m) 63 = true) : scanFree x b i 0x400 n = j := by
  induction n generalizing i with
  | zero => omega
  | succ n ih =>
    rcases Nat.eq_or_lt_of_le hi with rfl | hlt
    · rw [scanFree, h]
      exact scanFree_found hne _ n
    · rw [scanFree_valid (hfirst i le_rfl hlt)]
      exact ih hlt (by omega) (fun m hm => hfirst m (by omega))

theorem scanFree_none {i n : Nat} (h : ∀ m, i ≤ m → m < i + n → flag (tagSeen x b m) 63 = true) (free : Nat) :
    scanFree x b i free n = free := by
  induction n generalizing i with
  | zero => rfl
  | succ n ih =>
    rw [scanFree_valid (h i le_rfl (by omega))]
    exact ih fun m hm hn => h m (by omega) (by omega)

end

/-- Reads of correctable entries log nothing (R192). -/
theorem foldl_tagRead_of_noBad {s : State} {c b n first : Nat}
    (h : ∀ i, first ≤ i → i < first + n → (s.core c).tagsBad.contains (1024 * b + i) = false) :
    (span first n).foldl (fun s i => (tagRead s c b i).1) s = s := by
  induction n generalizing first with
  | zero => rfl
  | succ n ih =>
    have hread : (tagRead s c b first).1 = s := by simp only [tagRead, h first le_rfl (by omega)]; rfl
    rw [span, List.foldl_cons, hread]
    exact ih fun i hi hn => h i (by omega) (by omega)

theorem tagLookup_finds : Stmt.TagLookup := by
  intro s c b key first n bad e hit r
  refine ⟨fun h => foldl_tagRead_of_noBad h, fun i hi hn h hfirst => tagScan_hit hi hn h hfirst 0x400, fun hmiss => ?_⟩
  have hr : r.2 = wordN (2 ^ 63 + scanFree (s.core c) b first 0x400 n) := tagScan_miss hmiss 0x400
  refine ⟨fun i hi hn hne h hfirst => ?_, fun hall => ?_⟩
  · rw [hr, scanFree_first hi hn hne h hfirst]
  · rw [hr, scanFree_none hall]

/-- Settles O12: a lookup is one scan, which ends at the lowest hit and else keeps the first free index that it met. -/
theorem tagTables : Obligations.TagTables := ⟨lsTagTables, tagLookup_finds⟩

end Sys2Proof.Proofs
end

section
/-!
PROOFS. The descriptor that an sbind reads: a local write that has performed ahead of its cycle is not yet in it (O18).
-/
namespace Sys2Proof.Proofs

open Sys2Proof.Machine Sys2Proof.Laws Sys2Proof.Stmt

/-- A legal descriptor in which only the count of level 0 is not 0 (R201). -/
def countOne : Nat := 2 ^ 168

/-- After reset core 0 has, ahead of its cycle 1, replaced a legal descriptor at bit 0 by zeros: until then the strand's own reads find
what stood there (R191, R245). -/
def descReplaced : State := State.reset.setCore 0 { Core.init with early := [(1, 0, 512, countOne)] }

/-- An sbind of the descriptor at bit 0 of the own scratchpad. -/
def bindAtZero : Trig := { core := 0, slot := 0, copy := false, ckpt := false, y := 0 }

/-- The strand's own load of correctable words: the bits that stand there, but for local writes ahead of their cycle (R191). -/
theorem ownLoad_of_noErrs {s : State} {c o n : Nat} (h : spadErrs (s.core c).spadBad o n = []) :
    ownLoad s c o n = (s, ownView (s.core c) o n (spadGet (s.core c).spad o n)) := by
  rw [ownLoad, spLoad_of_noErrs h]

/-- An sbind binds the descriptor that the strand's own load returns, where that is legal (R191, R201, R212). -/
theorem gives_seSbind {t : Trig} {s : State} {d : BitVec 512} (h : OwnSpad t s 512 1) (hal : ptrAddr t.y % 512 = 0)
    (herrs : spadErrs (s.core t.core).spadBad (ptrAddr t.y) 512 = [])
    (hd : BitVec.ofNat 512 (ownView (s.core t.core) (ptrAddr t.y) 512 (spadGet (s.core t.core).spad (ptrAddr t.y) 512)) = d)
    (hlegal : descLegal d = true) (hmal : ptrMal (dWord d 0) = false) :
    Gives (.seSbind t) s (planned s t.core 2 rSe (.seAct 0 (seChan t s) t.y 0 d (s.core t.core).nextId)) := by
  have hop : opSeSbind t s = seAt t s 0 (seK t s) t.y 0 d := by
    rw [opSeSbind, lsTarget_own h]
    simp only [hal, ownLoad_of_noErrs herrs, hd, hlegal, hmal]
    rfl
  exact congrArg (finish s t.core) hop

theorem ownSpad_bindAtZero : OwnSpad bindAtZero descReplaced 512 1 := by
  unfold OwnSpad
  decide +kernel

/-- The strand's load at bit 0 returns the descriptor that was replaced. -/
theorem ownView_descReplaced : BitVec.ofNat 512
    (ownView (descReplaced.core 0) 0 512 (spadGet (descReplaced.core 0).spad 0 512)) = BitVec.ofNat 512 countOne := by
  decide +kernel

/-- The sbind binds the descriptor that was replaced. -/
theorem gives_seSbind_replaced : Gives (.seSbind bindAtZero) descReplaced (planned descReplaced 0 2 rSe
    (.seAct 0 (seChan bindAtZero descReplaced) 0 0 (BitVec.ofNat 512 countOne) (descReplaced.core 0).nextId)) :=
  gives_seSbind ownSpad_bindAtZero (by decide) rfl ownView_descReplaced (by decide +kernel) (by decide +kernel)

/-- The zeros that stand in the scratchpad are no legal descriptor. -/
theorem descReplaced_illegal : descLegal (BitVec.ofNat 512 (spadGet (descReplaced.core 0).spad 0 512)) = false := by
  decide +kernel

theorem takeTrap_descReplaced_mode : ((takeTrap descReplaced 0 (trapIllegal 0)).core 0).mode = .handler := by decide +kernel

theorem not_seBind : ¬ Stmt.SeBind := by
  intro h
  have htrap : Gives (.seSbind bindAtZero) descReplaced (takeTrap descReplaced 0 (trapIllegal 0)) :=
    (h bindAtZero descReplaced ownSpad_bindAtZero rfl).2 (.inr descReplaced_illegal)
  have hstate := Host.Outcome.next.inj (gives_seSbind_replaced.symm.trans htrap)
  have hmode : Mode.user = .handler :=
    (congrArg (fun u : State => (u.core 0).mode) hstate).trans takeTrap_descReplaced_mode
  exact Mode.noConfusion hmode

/-- Refutes O18: an sbind reads its descriptor as the strand's own loads read, without the local writes that have performed ahead of
their cycle (R191), while SeBind speaks of the bits that stand in the scratchpad. -/
theorem not_streamOperations : ¬ Obligations.StreamOperations := fun h => not_seBind h.2

end Sys2Proof.Proofs
end

section
/-!
PROOFS. What a stream operation does to its channel when it takes effect (O19).
-/
namespace Sys2Proof.Proofs

open Sys2Proof.Machine Sys2Proof.Laws Sys2Proof.Stmt

/-! ### A channel in the registers (R200) -/

theorem chan_setCore (s : State) (c : Nat) (x : Core) (k : Nat) : chan (s.setCore c x) c k = x.dup.chanOf k := by
  rw [chan, setCore_core_get, if_pos rfl]

/-- A change of one channel, in the registers and in the checkpoint. -/
theorem landDup_chanOf (x : Core) (iss k : Nat) (f : ChDup → ChDup) :
    (x.landDup iss (fun d => d.setChan k (f (d.chanOf k)))).dup.chanOf k = f (x.dup.chanOf k) := by
  rw [landDup_dup, setChan_chanOf_get, if_pos rfl]

/-- What is read ahead changes no channel in the registers. -/
theorem chan_startRead (s : State) (c k : Nat) : chan (startRead s c k) c k = chan s c k := by
  rw [chan, (onlyChans_startRead s c k).core]

theorem chan_freeReads (s : State) (c k : Nat) : chan (freeReads s c k) c k = chan s c k := by
  rw [chan, freeReads, onCore_core_get, if_pos rfl]
  rfl

/-- A stream operation that takes effect gives up reads, which leaves the channel as the operation made it. -/
theorem chan_seAct (s : State) (c iss op k : Nat) (y a : Word) (d : BitVec 512) (place : Nat) :
    chan (landFx s c iss (.seAct op k y a d place)) c k = chan (seApply s c iss op k y a d place) c k := chan_freeReads ..

/-! ### The operations (R201, R212) -/

theorem seekIndex_plain {x : Core} {k : Nat} (h : dIx (x.dup.chanOf k).desc = false) (iss n place : Nat) :
    seekIndex x k iss n place = x := if_neg (Bool.eq_false_iff.mp h)

/-- A channel without an index channel that reads from where an operation has set it. -/
theorem chan_startRead_seekIndex {x : Core} {k : Nat} (h : dIx (x.dup.chanOf k).desc = false) (s : State) (c iss n place : Nat) :
    chan (startRead (s.setCore c (seekIndex x k iss n place)) c k) c k = x.dup.chanOf k := by
  rw [chan_startRead, chan_setCore, seekIndex_plain h]

section
variable (s : State) (c iss k : Nat) (y a : Word) (d : BitVec 512) (place : Nat)

theorem chan_seApply_bind : chan (seApply s c iss 0 k y a d place) c k = { ChDup.init with st := .idle, desc := d } :=
  (chan_setCore ..).trans (landDup_chanOf _ iss k fun _ => { ChDup.init with st := .idle, desc := d })

theorem chan_seApply_group : chan (seApply s c iss 1 k y a d place) c k = { chan s c k with grp := some y } :=
  (chan_setCore ..).trans (landDup_chanOf _ iss k fun h => { h with grp := some y })

theorem chan_seApply_stop (hb : (chan s c k).st ≠ .unbound) :
    chan (seApply s c iss 3 k y a d place) c k = { chan s c k with st := .idle } := by
  refine (chan_setCore ..).trans
    ((landDup_chanOf _ iss k fun h => { h with st := if h.st == .unbound then .unbound else .idle }).trans ?_)
  rw [beq_false_of_ne hb]
  rfl

theorem chan_seApply_free : chan (seApply s c iss 8 k y a d place) c k = { chan s c k with st := .unbound } :=
  (chan_setCore ..).trans (landDup_chanOf _ iss k fun h => { h with st := .unbound })

section
variable (hix : dIx (chan s c k).desc = false)
include hix

theorem chan_seApply_start : chan (seApply s c iss 2 k y a d place) c k =
    { chan s c k with st := if walkTotal (chan s c k) = 0 then .done else .running, pos := Vec.zero, cons := 0, skip := 0 } := by
  have hland := landDup_chanOf (s.core c) iss k fun h =>
    { h with st := if walkTotal (chan s c k) = 0 then .done else .running, pos := Vec.zero, cons := 0, skip := 0 }
  exact (chan_startRead_seekIndex (show dIx _ = false from hland ▸ hix) ..).trans hland

theorem chan_seApply_seek : chan (seApply s c iss 4 k y a d place) c k =
    { chan s c k with st := .running, pos := vecOf y a, cons := vecOrd (chan s c k) ((s.core c).chanRun k) (vecOf y a), skip := 0 } := by
  have hland := landDup_chanOf (s.core c) iss k fun h =>
    { h with st := .running, pos := vecOf y a, cons := vecOrd (chan s c k) ((s.core c).chanRun k) (vecOf y a), skip := 0 }
  exact (chan_startRead_seekIndex (show dIx _ = false from hland ▸ hix) ..).trans hland

theorem chan_seApply_flush : chan (seApply s c iss 6 k y a d place) c k = chan s c k := by
  show chan (if dOut (chan s c k).desc then s else startRead (s.setCore c (seekIndex
    ((s.core c).setChanRun k { nothingAhead ((s.core c).chanRun k) with place := place }) k iss (chan s c k).cons place)) c k) c k = _
  split
  · rfl
  · exact chan_startRead_seekIndex (x := (s.core c).setChanRun k _) hix ..

/-- The core after a plain walk has passed `n` items: those in the buffer among them, and of a link queue its rows (R212). -/
def skipCore (x : Core) (k iss n : Nat) : Core :=
  let u := (x.setChanRun k { x.chanRun k with items := (x.chanRun k).items.drop n }).landDup iss
    (fun d => d.setChan k (skipItems (d.chanOf k) n))
  if decide (dMem (x.dup.chanOf k).desc = 3) && !dOut (x.dup.chanOf k).desc then
    let v := u.landDup iss (fun d => d.setChan k { d.chanOf k with skip := (d.chanOf k).skip + n })
    passRows v k (v.dup.chanOf k).skip
  else u

theorem seApply_skip_eq (hgrp : (chan s c k).grp = none) : seApply s c iss 7 k y a d place =
    startRead (s.setCore c (skipCore (s.core c) k iss (min y.toNat (itemsLeft (s.core c) k)))) c k := by
  simp only [seApply, hgrp, hix, Option.isSome_none, Bool.false_and, Bool.false_eq_true, if_false]
  rfl

end

end

theorem itemsLeft_plain {x : Core} {k : Nat} (h : (x.dup.chanOf k).grp = none) :
    itemsLeft x k = walkTotal (x.dup.chanOf k) - (x.dup.chanOf k).cons := if_pos (by rw [h]; rfl)

theorem skipItems_plain {h : ChDup} (hgrp : h.grp = none) (n : Nat) : skipItems h n =
    { h with cons := h.cons + n, pos := ordVec h (h.cons + n), st := if walkTotal h ≤ h.cons + n then .done else h.st } :=
  if_pos (by rw [hgrp]; rfl)

/-- The rows of a link queue that are passed change no place in the walk. -/
theorem passRows_chanOf (x : Core) (k n : Nat) : ∃ m, (passRows x k n).dup.chanOf k = { x.dup.chanOf k with skip := m } :=
  ⟨_, (setChan_chanOf_get ..).trans (if_pos rfl)⟩

theorem skipCore_chanOf {x : Core} {k : Nat} (hgrp : (x.dup.chanOf k).grp = none) (iss n : Nat) :
    let h := x.dup.chanOf k
    let u := (skipCore x k iss n).dup.chanOf k
    u.cons = h.cons + n ∧ u.pos = ordVec h (h.cons + n) ∧ u.desc = h.desc := by
  intro h u
  have hland : ∀ z : Core, (z.landDup iss (fun d => d.setChan k (skipItems (d.chanOf k) n))).dup.chanOf k =
      skipItems (z.dup.chanOf k) n := fun z => landDup_chanOf z iss k fun h => skipItems h n
  have hskip := skipItems_plain hgrp n
  have hu : ∃ m, u = { skipItems h n with skip := m } := by
    show ∃ m, (skipCore x k iss n).dup.chanOf k = _
    unfold skipCore
    dsimp only
    split
    · obtain ⟨m, hm⟩ := passRows_chanOf (((x.setChanRun k _).landDup iss
        (fun d => d.setChan k (skipItems (d.chanOf k) n))).landDup iss
        (fun d => d.setChan k { d.chanOf k with skip := (d.chanOf k).skip + n })) k _
      rw [landDup_chanOf _ iss k fun h => { h with skip := h.skip + n }, hland] at hm
      exact ⟨m, hm⟩
    · exact ⟨_, hland _⟩
  obtain ⟨m, hm⟩ := hu
  rw [hm, hskip]
  exact ⟨rfl, rfl, rfl⟩

theorem chan_seApply_skip {s : State} {c k : Nat} (hix : dIx (chan s c k).desc = false) (hgrp : (chan s c k).grp = none)
    (iss : Nat) (y a : Word) (d : BitVec 512) (place : Nat) :
    let n := (chan s c k).cons + min y.toNat (walkTotal (chan s c k) - (chan s c k).cons)
    let u := chan (seApply s c iss 7 k y a d place) c k
    u.cons = n ∧ u.pos = ordVec (chan s c k) n ∧ u.desc = (chan s c k).desc := by
  rw [seApply_skip_eq s c iss k y a d place hix hgrp, chan_startRead, chan_setCore, itemsLeft_plain hgrp]
  exact skipCore_chanOf hgrp iss _

theorem seEffects : Stmt.SeEffects := by
  intro s c iss k y a d place ch after
  have hafter : ∀ op, after op = chan (seApply s c iss op k y a d place) c k := fun op => chan_seAct ..
  refine ⟨?bind, ?group, fun hix => ⟨?start, ?seekSt, ?seekPos, ?seekDesc, ?flush, fun hgrp => ?skip⟩, fun hb => ?stop, ?free⟩
  case bind => rw [hafter, chan_seApply_bind]
  case group => rw [hafter, chan_seApply_group]
  case start => rw [hafter, chan_seApply_start (hix := hix)]
  case seekSt => rw [hafter, chan_seApply_seek (hix := hix)]
  case seekPos => rw [hafter, chan_seApply_seek (hix := hix)]
  case seekDesc => rw [hafter, chan_seApply_seek (hix := hix)]
  case flush => rw [hafter, chan_seApply_flush (hix := hix)]
  case skip =>
    rw [hafter]
    exact chan_seApply_skip hix hgrp iss y a d place
  case stop => rw [hafter, chan_seApply_stop (hb := hb)]
  case free => rw [hafter, chan_seApply_free]

end Sys2Proof.Proofs
end

section
/-!
PROOFS. Items of streams: their addresses, the reads that a channel begins and goes on with, their arrival, and the writes of items
that were pushed (O19).
-/
namespace Sys2Proof.Proofs

open Sys2Proof.Machine Sys2Proof.Laws Sys2Proof.Stmt

/-! ### The address of an item (R202) -/

section
variable {x : Core} {k : Nat} (hgrp : (x.dup.chanOf k).grp = none)
include hgrp

theorem itemAddr_plain (r : ChRun) (v : Vec) (i0 : Nat) : itemAddr (x.dup.chanOf k) r v i0 =
    let d := (x.dup.chanOf k).desc
    (ptrAddr (dWord d 0) : Int) + i0 * dStride d 0 + v.i1 * dStride d 1 + v.i2 * dStride d 2 + v.i3 * dStride d 3
      + v.i4 * dStride d 4 := by
  simp only [itemAddr, hgrp, Option.isSome_none, Bool.false_eq_true, if_false]

section
variable (hix : dIx (x.dup.chanOf k).desc = false) (i : Nat) (v : Vec)
include hix

theorem itemAt_ok (h : itemFault (x.dup.chanOf k).desc (itemAddr (x.dup.chanOf k) (x.chanRun k) v v.i0) = none) :
    itemAt x k i v = .item (itemAddr (x.dup.chanOf k) (x.chanRun k) v v.i0).toNat := by
  simp only [itemAt, hgrp, hix, h, Option.isSome_none, Bool.false_eq_true, if_false]

theorem itemAt_flt {e : Nat}
    (h : itemFault (x.dup.chanOf k).desc (itemAddr (x.dup.chanOf k) (x.chanRun k) v v.i0) = some e) :
    itemAt x k i v = .flt e (wrapw (itemAddr (x.dup.chanOf k) (x.chanRun k) v v.i0) 56) v := by
  simp only [itemAt, hgrp, hix, h, Option.isSome_none, Bool.false_eq_true, if_false]

end

end

/-! ### What a running channel does next (R204) -/

/-- A buffer holds at least one item. -/
theorem dLimit_pos (d : BitVec 512) : 0 < dLimit d := by
  unfold dLimit dCap
  grind

section
variable {s : State} {c k : Nat}

/-- A channel with nothing read ahead can only begin its next item. -/
theorem streamActs_nothingAhead (hitems : ((s.core c).chanRun k).items = []) (hpark : ((s.core c).chanRun k).offPark = none)
    (hout : dOut (chan s c k).desc = false) : streamActs s c k = [.next] := by
  have hroom : decide (0 < dLimit (chan s c k).desc) = true := decide_eq_true (dLimit_pos _)
  simp only [streamActs, hitems, hpark, hout]
  simp [hroom]

section
variable (hteam : (s.core c).team ≠ none) (hst : (chan s c k).st = .running) (hmem : dMem (chan s c k).desc = 0)
include hteam hst hmem

theorem streamRead_goesOn : ¬ ((chan s c k).st != .running || dMem (chan s c k).desc = 3 || (s.core c).team.isNone) = true := by
  rw [hst, hmem]
  simpa using hteam

theorem streamRead_first (hitems : ((s.core c).chanRun k).items = []) (hacts : streamActs s c k = [.next]) :
    streamRead s c k = beginItem s c k 0 (posVec (s.core c) k) (decide (0 < dueCount (s.core c) k)) := by
  refine (if_neg (streamRead_goesOn hteam hst hmem)).trans ?_
  simp only [hacts, choose, hitems]
  rfl

theorem streamRead_part {t : State} {i p : Nat} {it : Item} {got : Tab (Option Nat)} {parked : List Nat}
    (hact : choose s (streamActs s c k) = (t, some (.part i p))) (hit : ((s.core c).chanRun k).items[i]? = some it)
    (hread : it.st = .reading got parked) :
    streamRead s c k = readUnit t c k i it got parked p (decide (i < dueCount (s.core c) k)) := by
  refine (if_neg (streamRead_goesOn hteam hst hmem)).trans ?_
  simp only [hact, hit, hread]

end

/-! ### An item is begun (R204) -/

theorem stopsAt_running {r : ChRun} (h : r.flt = false) (v : Vec) : stopsAt r v = false := by
  rw [stopsAt, h]
  rfl

/-- The item at the position of an input channel, once its address is known. -/
theorem beginItem_item {i a : Nat} {v : Vec} (hflt : ((s.core c).chanRun k).flt = false) (hend : vecEnd (chan s c k) v = false)
    (hitem : itemAt (s.core c) k i v = .item a) (hskip : (chan s c k).skip = 0) (hout : dOut (chan s c k).desc = false) (due : Bool) :
    beginItem s c k i v due = readItem s c k i v a due := by
  simp only [beginItem, stopsAt_running hflt, hend, hitem, hskip, hout]
  rfl

theorem readItem_mem (hmem : dMem (chan s c k).desc = 0) (i : Nat) (v : Vec) (a : Nat) (due : Bool) :
    readItem s c k i v a due = s.onCore c (fun x => putItem x k i ⟨v, a, .reading [] []⟩) := by
  simp only [readItem, hmem]

/-- An item that is put in its buffer changes no register and no memory. -/
theorem onCore_putItem (i : Nat) (it : Item) :
    let w := s.onCore c (fun x => putItem x k i it)
    SameMemory s w ∧ chan w c k = chan s c k ∧ ((w.core c).chanRun k).items =
      if i < ((s.core c).chanRun k).items.length then ((s.core c).chanRun k).items.set i it
      else ((s.core c).chanRun k).items ++ [it] := by
  intro w
  have hw : w.core c = putItem (s.core c) k i it := (onCore_core_get ..).trans (if_pos rfl)
  refine ⟨sameMemory_of_hbm rfl, ?_, ?_⟩
  · rw [chan, hw]
    rfl
  · rw [hw, putItem, setChanRun_get, if_pos rfl]

theorem streamRead_begins {a : Nat} (hteam : (s.core c).team ≠ none) (hst : (chan s c k).st = .running)
    (hmem : dMem (chan s c k).desc = 0) (hout : dOut (chan s c k).desc = false) (hskip : (chan s c k).skip = 0)
    (hflt : ((s.core c).chanRun k).flt = false) (hitems : ((s.core c).chanRun k).items = [])
    (hpark : ((s.core c).chanRun k).offPark = none) (hend : vecEnd (chan s c k) (posVec (s.core c) k) = false)
    (hitem : itemAt (s.core c) k 0 (posVec (s.core c) k) = .item a) :
    streamRead s c k = s.onCore c (fun x => putItem x k 0 ⟨posVec (s.core c) k, a, .reading [] []⟩) := by
  rw [streamRead_first hteam hst hmem hitems (streamActs_nothingAhead hitems hpark hout),
    beginItem_item hflt hend hitem hskip hout, readItem_mem hmem]

end

/-! ### An access inside one sector (R39) -/

theorem sectors_singleton {a n sec : Nat} (h : sectors a n = [sec]) : sec = a / 256 := by
  unfold sectors at h
  split at h
  · exact absurd h (List.cons_ne_nil sec []).symm
  next hn =>
    have hcount : (a + n - 1) / 256 + 1 - a / 256 = (a + n - 1) / 256 - a / 256 + 1 := by omega
    rw [hcount, span] at h
    exact (List.cons.inj h).1.symm

/-- The part of an access inside one sector is the whole of it. -/
theorem sectorPart_whole {a n sec : Nat} (h : sectors a n = [sec]) (hin : a % 256 + n ≤ 256) : sectorPart a n sec = (a, n) := by
  obtain rfl := sectors_singleton h
  refine Prod.ext ?_ ?_ <;> simp only [sectorPart] <;> omega

/-! ### Local writes that have landed leave the channels (R191) -/

/-- What the channels of each core have read and hold. -/
def chanRuns (s : State) : Nat → Tab ChRun := fun c => (s.core c).chan

theorem chanRuns_setCore {s : State} {c : Nat} {x : Core} (h : x.chan = (s.core c).chan) : chanRuns (s.setCore c x) = chanRuns s := by
  funext k
  simp only [chanRuns, setCore_core_get]
  split
  next hk => rw [hk, h]
  next => rfl

theorem chanRuns_onCore {f : Core → Core} (hf : ∀ x, (f x).chan = x.chan) (s : State) (c : Nat) :
    chanRuns (s.onCore c f) = chanRuns s := chanRuns_setCore (hf _)

theorem chanRuns_schedAt (s : State) (c iss off rank : Nat) (fx : Fx) :
    chanRuns (s.onCore c (fun x => x.schedAt iss off rank fx)) = chanRuns s := chanRuns_onCore (fun _ => by rfl) s c

theorem chanRuns_logWords (s : State) (c : Nat) (ws : List Nat) : chanRuns (logWords s c ws) = chanRuns s :=
  List.foldlRecOn (motive := fun u => chanRuns u = chanRuns s) ws _ rfl fun u hu w _ =>
    (funext fun k => congrArg Core.chan ((logged_logCore u c eEcc (64 * w)).core k)).trans hu

theorem chanRuns_spStore (s : State) (c o n v : Nat) : chanRuns (spStore s c o n v) = chanRuns s :=
  (chanRuns_logWords ..).trans (chanRuns_setCore rfl)

theorem chanRuns_spWriteFx (s : State) (c o len : Nat) (v : Wide) (ben : Option Word) :
    chanRuns (spWriteFx s c o len v ben) = chanRuns s := by
  cases ben with
  | none => exact chanRuns_spStore ..
  | some m => exact (chanRuns_logWords ..).trans (chanRuns_setCore rfl)

theorem chanRuns_spRmw (s : State) (c o n : Nat) (f : Nat → Nat) : chanRuns (spRmw s c o n f).1 = chanRuns s :=
  (chanRuns_logWords ..).trans (chanRuns_setCore rfl)

theorem chanRuns_landEarly (s : State) (c : Nat) {d : Due} (hd : isNearFx d.fx = true) :
    chanRuns (landEarly s c d) = chanRuns s := by
  obtain ⟨at_, rank, iss, fx⟩ := d
  unfold landEarly
  have hearly : chanRuns (s.onCore c (fun x => { x with
      early := (at_, (nearRange fx).1, (nearRange fx).2, spadGet x.spad (nearRange fx).1 (nearRange fx).2) :: x.early })) =
      chanRuns s := chanRuns_onCore (fun _ => by rfl) s c
  dsimp only
  generalize s.onCore c _ = u at hearly ⊢
  rw [← hearly]
  cases fx
  case spWrite o len v ben => exact chanRuns_spWriteFx u c o len v ben
  case spSwap copy o len v => simp only [landLocal, chanRuns_schedAt, chanRuns_spRmw]
  case spBor o len v => exact chanRuns_spRmw u c o len _
  case outSpad k o len v => exact chanRuns_spStore u c o len _
  all_goals exact absurd hd Bool.false_ne_true

theorem chanRuns_landNear (s : State) (c : Nat) : chanRuns (landNear s c) = chanRuns s :=
  List.foldlRecOn (motive := fun u => chanRuns u = chanRuns s) _ _ (chanRuns_onCore (fun _ => by rfl) s c) fun u hu _ hd =>
    (chanRuns_landEarly u c (List.mem_filter.mp hd).2).trans hu

/-- An access that performs leaves what the channels have read. -/
theorem chanRuns_settle (s : State) (c : Nat) (b : Acc) : chanRuns (settle s c b) = chanRuns s := by
  unfold settle
  dsimp only
  split
  · exact chanRuns_landNear s c
  · rfl

theorem chanRuns_translate {s u : State} {ctx a g kind : Nat} {spec : Bool} {r : XRes}
    (h : Machine.translate s ctx a g kind spec = (u, r)) : chanRuns u = chanRuns s := by
  have ht := touched_translate s ctx a g kind spec
  rw [h] at ht
  exact funext fun c => congrArg Core.chan (ht.core c)

/-! ### A part of an item is read, and the item arrives (R41, R246) -/

section
variable {s u : State} {c k i sec q : Nat} {it : Item} {due : Bool}

/-- The read of the one part of an item in memory. -/
theorem readUnit_whole (hmem : dMem (chan s c k).desc = 0) (hsec : sectors it.addr (dWidth (chan s c k).desc) = [sec])
    (hin : it.addr % 256 + dWidth (chan s c k).desc ≤ 256)
    (hb : blocked s c (readAcc s c k it.vec it.addr (dWidth (chan s c k).desc) 0) = false)
    (ht : Machine.translate (settle s c (readAcc s c k it.vec it.addr (dWidth (chan s c k).desc) 0)) (ctxOf s c) it.addr gStream 0
      (!due) = (u, .ok q))
    (hbad : u.hbmBad.contains (q / 256) = false) :
    readUnit s c k i it [] [] sec due = u.onCore c (fun x => putItem x k i
      { it with st := .read (BitVec.ofNat 4096 (hbmBits u.hbm q (dWidth (chan s c k).desc))) none }) := by
  have hpart : unitPart 0 it.addr (dWidth (chan s c k).desc) sec = (it.addr, dWidth (chan s c k).desc) := sectorPart_whole hsec hin
  have hunits : itemUnits 0 it.addr (dWidth (chan s c k).desc) = [sec] := hsec
  simp only [readUnit, hmem, if_true, hpart, hb, ht, hbad, hunits, Nat.sub_self, Nat.shiftLeft_zero, Bool.false_eq_true, if_false]
  rfl

theorem itemArrive_read {v : Col} (hit : ((s.core c).chanRun k).items[i]? = some it) (hread : it.st = .read v none) :
    itemArrive s c k i = s.onCore c (fun x => putItem x k i { it with st := .here v }) := by
  simp only [itemArrive, hit, hread]
  rfl

/-- The item at a place of the buffer gives way to the one that is put there. -/
theorem items_onCore_putItem (hi : i < ((s.core c).chanRun k).items.length) (it : Item) :
    (((s.onCore c (fun x => putItem x k i it)).core c).chanRun k).items = ((s.core c).chanRun k).items.set i it := by
  obtain ⟨-, -, hitems⟩ := onCore_putItem (s := s) (c := c) (k := k) i it
  rw [hitems, if_pos hi]

theorem length_of_item (hit : ((s.core c).chanRun k).items[i]? = some it) : i < ((s.core c).chanRun k).items.length := by
  obtain ⟨hi, -⟩ := List.getElem?_eq_some_iff.mp hit
  exact hi

end

/-! ### An item that was pushed is written (R206, R247) -/

/-- A store at its controller where no sector is uncorrectable. -/
theorem storePart_of_noBad {s : State} (h : s.hbmBad = []) (p n v : Nat) :
    ∃ t, storePart s p n v = (t, true) ∧ t.hbm = hbmPut s.hbm p n v := by
  refine ⟨(storePart s p n v).1, ?_, ?_⟩ <;> simp [storePart, h]

section
variable {s u : State} {c k sec p : Nat} {a : Acc} {body : Col} {vec : Vec}

theorem isRemote_mem (hop : a.op = .sout body k vec) (hreg : region a.addr < 8) : isRemote a = false := by
  simp only [isRemote, remoteKind, hop, Nat.not_le.mpr hreg, decide_false, Bool.false_and]
  rfl

theorem streamWrite_oldest (hold : oldestOut (s.core c) k = some a) (hop : a.op = .sout body k vec) (hsent : a.sent = false) :
    streamWrite s c k = performOut s c a body k vec := by
  simp only [streamWrite, hold, hop, hsent]
  rfl

/-- An item inside one sector of which nothing has performed has one part to write. -/
theorem outOpen_single (hgot : a.got = []) (hparked : a.parked = []) (hsec : sectors a.addr a.len = [sec]) : outOpen a = [0] := by
  simp only [outOpen, hgot, hparked, hsec]
  rfl

theorem performOut_single (hop : a.op = .sout body k vec) (hreg : region a.addr < 8) (hb : blocked s c a = false)
    (herr : a.err = none) (hpeer : a.peer = 0) (hopen : outOpen a = [0]) :
    performOut s c a body k vec = outUnit (settle s c a) c a body k vec 0 := by
  simp only [performOut, isRemote_mem hop hreg, hb, herr, hpeer, hopen, choose]
  rfl

/-- The write of the one part of an item (R39). -/
theorem outUnit_whole (hgot : a.got = []) (hsec : sectors a.addr a.len = [sec]) (hin : a.addr % 256 + a.len ≤ 256)
    (ht : Machine.translate s a.ctx a.addr gStream (storeKind a.addr a.len) false = (u, .ok p)) (hbad : u.hbmBad = []) :
    ∃ t : State, outUnit s c a body k vec 0 = t.onCore c (fun x => dropAcc x a.id) ∧
      t.hbm = hbmPut u.hbm p a.len (body.toNat % 2 ^ a.len) := by
  obtain ⟨t, hstore, hhbm⟩ := storePart_of_noBad hbad p a.len (body.toNat % 2 ^ a.len)
  refine ⟨t, ?_, hhbm⟩
  simp only [outUnit, hsec, List.getElem?_cons_zero, sectorPart_whole hsec hin, ht, Nat.sub_self, Nat.shiftRight_zero, hstore, hgot]
  rfl

end

theorem streamItems : Stmt.StreamItems := by
  intro c k s x ch r ctx
  refine ⟨fun i v hgrp hix => ?address, ?begin, ?part, ?arrival, ?write⟩
  case address =>
    intro a
    have ha : itemAddr ch r v v.i0 = a := itemAddr_plain hgrp r v v.i0
    refine ⟨fun h => ?_, fun e h => ?_⟩
    · rw [itemAt_ok hgrp hix i v (ha ▸ h)]
      exact congrArg (fun z : Int => Nxt.item z.toNat) ha
    · rw [itemAt_flt hgrp hix i v (ha ▸ h)]
      exact congrArg (fun z : Int => Nxt.flt e (wrapw z 56) v) ha
  case begin =>
    intro a hteam hst hmem hout hskip hflt hitems hpark hend hitem
    obtain ⟨hsame, hchan, hput⟩ := onCore_putItem (s := s) (c := c) (k := k) 0 ⟨posVec x k, a, .reading [] []⟩
    refine ⟨_, congrArg Host.Outcome.next (streamRead_begins hteam hst hmem hout hskip hflt hitems hpark hend hitem), hsame, hchan, ?_⟩
    rw [hput, show ((s.core c).chanRun k).items = [] from hitems]
    rfl
  case part =>
    intro s0 i it u q sec hteam hst hmem hact hit hread hsec hin b hb ht hbad
    obtain ⟨n, hs0⟩ := choose_state s (streamActs s c k)
    obtain rfl : s0 = { s with fresh := n } := (congrArg Prod.fst hact).symm.trans hs0
    have hu : chanRuns u = chanRuns s := (chanRuns_translate ht).trans (chanRuns_settle _ c b)
    have hrun : (u.core c).chanRun k = r := congrArg (fun f : Nat → Tab ChRun => Tab.get ChRun.init (f c) k) hu
    refine ⟨_, congrArg Host.Outcome.next ((streamRead_part hteam hst hmem hact hit hread).trans
      (readUnit_whole hmem hsec hin hb ht hbad)), rfl, ?_⟩
    have hlen : i < ((u.core c).chanRun k).items.length := by rw [hrun]; exact length_of_item hit
    rw [items_onCore_putItem hlen, List.getElem?_set_self hlen]
    rfl
  case arrival =>
    intro i it v hit hread
    obtain ⟨hsame, hchan, -⟩ := onCore_putItem (s := s) (c := c) (k := k) i { it with st := .here v }
    exact ⟨_, congrArg Host.Outcome.next (itemArrive_read hit hread), hsame, hchan, items_onCore_putItem (length_of_item hit) _⟩
  case write =>
    intro a body vec p u sec hold hop hparked hsent herr hpeer hgot hlen hsec hin hreg hb ht hbad
    obtain ⟨t, hunit, hhbm⟩ := outUnit_whole (c := c) (k := k) (body := body) (vec := vec) hgot hsec hin ht hbad
    have hw : streamWrite s c k = t.onCore c (fun x => dropAcc x a.id) :=
      (streamWrite_oldest hold hop hsent).trans
        ((performOut_single hop hreg hb herr hpeer (outOpen_single hgot hparked hsec)).trans hunit)
    refine ⟨_, congrArg Host.Outcome.next hw, ?_, fun q n hd => ?_, ?_⟩
    · rw [onCore_hbm, hhbm, hbmBits_hbmPut_self, Nat.mod_mod]
    · rw [onCore_hbm, hhbm, hbmBits_hbmPut_disjoint _ _ _ _ _ _ hd]
    · rw [onCore_core_get, if_pos rfl]
      exact findAcc_dropAcc _ _

/-- Settles O19: an operation sets its channel, whose later reads leave the registers as it set them; an item is one part in one sector,
so that its read, its arrival and its write are each one change. -/
theorem streamEffects : Obligations.StreamEffects := ⟨seEffects, streamItems⟩

end Sys2Proof.Proofs
end

section
/-!
PROOFS. Where a translation lands inside its page, and what a masked write of one sector leaves in memory (O16).
-/
namespace Sys2Proof.Proofs

open Sys2Proof.Machine Sys2Proof.Laws Sys2Proof.Stmt

/-! ### The offset in the page (R111, R115) -/

/-- A valid descriptor moves its heap by whole pages of 64 KiB (R110). -/
theorem descOf_hoff {ws : List Word} {d : Desc} (h : descOf ws = some d) : d.hoff % 2 ^ 19 = 0 := by
  unfold descOf at h
  split at h
  next w0 w1 w2 w3 w4 w5 w6 w7 =>
    dsimp only at h
    split at h
    next hc =>
      obtain rfl := Option.some.inj h
      simp only [Bool.and_eq_true, beq_iff_eq, fld, bits, Nat.shiftRight_zero] at hc
      have hlow : w3.toNat % 2 ^ 19 = 0 := by tauto
      dsimp only
      rw [BitVec.toInt_eq_toNat_cond]
      split <;> omega
    next => exact absurd h.symm (Option.some_ne_none d)
  next => exact absurd h.symm (Option.some_ne_none d)

theorem descriptor_hoff {s t : State} {c : Nat} {d : Desc} (h : descriptor s c = (t, some d)) : d.hoff % 2 ^ 19 = 0 := by
  unfold descriptor at h
  split at h
  · exact absurd (congrArg Prod.snd h).symm (Option.some_ne_none d)
  · exact descOf_hoff (congrArg Prod.snd h)

/-- A leaf maps at least a page of 64 KiB (R113). -/
theorem two_pow_page_dvd_leaf (l : Nat) : 2 ^ 19 ∣ 2 ^ leafSize l := by
  refine Nat.pow_dvd_pow 2 ?_
  unfold leafSize
  split <;> decide

theorem pageXlate_offset {s u : State} {d : Desc} {c a g kind p : Nat} {spec : Bool}
    (h : pageXlate s d c a g kind spec = (u, .ok p)) : p % 2 ^ 19 = a % 2 ^ 19 := by
  have hpage : ∀ n l : Nat, (n * 2 ^ 19 + a % 2 ^ leafSize l) % 2 ^ 19 = a % 2 ^ 19 := fun n l => by
    rw [Nat.mul_add_mod_self_right, Nat.mod_mod_of_dvd _ (two_pow_page_dvd_leaf l)]
  unfold pageXlate at h
  split at h
  case h_4 =>
    split at h
    · exact absurd (congrArg Prod.snd h) XRes.noConfusion
    · dsimp only at h
      split at h <;> exact XRes.ok.inj (congrArg Prod.snd h) ▸ hpage _ _
  all_goals exact absurd (congrArg Prod.snd h) XRes.noConfusion

/-- A translation keeps the offset in the page of 64 KiB, by the heap and by a page table alike. -/
theorem translate_offset {s u : State} {c a g kind p : Nat} {spec : Bool}
    (h : Machine.translate s c a g kind spec = (u, .ok p)) : p % 2 ^ 19 = a % 2 ^ 19 := by
  unfold Machine.translate at h
  split at h
  · exact absurd (congrArg Prod.snd h) XRes.noConfusion
  · split at h
    next => exact absurd (congrArg Prod.snd h) XRes.noConfusion
    next t d hd =>
      split at h
      · split at h
        · exact absurd (congrArg Prod.snd h) XRes.noConfusion
        · dsimp only at h
          split at h
          · exact absurd (congrArg Prod.snd h) XRes.noConfusion
          next hrange =>
            have hhoff := descriptor_hoff hd
            have hp : ((a : Int) + d.hoff).toNat = p := XRes.ok.inj (congrArg Prod.snd h)
            simp only [Bool.or_eq_true, decide_eq_true_eq, not_or] at hrange
            omega
      · exact pageXlate_offset h

/-! ### Masks of a sector (R39) -/

theorem bit_eq_testBit (x i : Nat) : bit x i = x.testBit i := by
  rw [bit, Nat.testBit_eq_decide_div_mod_eq, Nat.shiftRight_eq_div_pow]
  rfl

/-- The mask of `n` bits from bit `o`. -/
def maskOf (o n : Nat) : Nat := putBits 0 o n (2 ^ n - 1)

theorem testBit_maskOf (o n i : Nat) : (maskOf o n).testBit i = decide (o ≤ i ∧ i < o + n) := by
  rw [maskOf, testBit_putBits, Nat.testBit_two_pow_sub_one, Nat.zero_testBit]
  split
  next h => simp [h, show i - o < n by omega]
  next h => simp [h]

/-- A byte is clear or full when its bits agree. -/
theorem byte_uniform_iff {x : Nat} (hx : x < 2 ^ 8) : x = 0 ∨ x = 255 ↔ ∀ i < 8, x.testBit i = x.testBit 0 := by
  have hone : ∀ i, (255 : Nat).testBit i = decide (i < 8) := fun i => Nat.testBit_two_pow_sub_one 8 i
  refine ⟨?_, fun h => ?_⟩
  · rintro (rfl | rfl) i hi
    · simp
    · simp [hone, hi]
  · have hall : ∀ i, x.testBit i = (decide (i < 8) && x.testBit 0) := fun i => by
      by_cases hi : i < 8
      · simp [h i hi, hi]
      · have hhigh : x.testBit i = false :=
          Nat.testBit_lt_two_pow (hx.trans_le (Nat.pow_le_pow_right (by decide) (Nat.not_lt.mp hi)))
        simp [hhigh, hi]
    cases h0 : x.testBit 0
    · exact .inl (Nat.eq_of_testBit_eq fun i => by rw [hall, h0, Bool.and_false, Nat.zero_testBit])
    · exact .inr (Nat.eq_of_testBit_eq fun i => by rw [hall, h0, Bool.and_true, hone])

/-- A mask writes each byte whole or not at all when the bits of each byte of it agree. -/
theorem wholeBytes_iff (m : Nat) : wholeBytes m = true ↔ ∀ b < 32, ∀ i < 8, m.testBit (8 * b + i) = m.testBit (8 * b) := by
  have hbyte : ∀ b, (bits m (8 * b + 7) (8 * b) = 0 ∨ bits m (8 * b + 7) (8 * b) = 255) ↔
      ∀ i < 8, m.testBit (8 * b + i) = m.testBit (8 * b) := fun b => by
    have hwidth : 8 * b + 7 + 1 - 8 * b = 8 := by omega
    rw [bits, hwidth, byte_uniform_iff (Nat.mod_lt _ (by decide))]
    refine forall₂_congr fun i hi => ?_
    rw [Nat.testBit_mod_two_pow, Nat.testBit_mod_two_pow, Nat.testBit_shiftRight, Nat.testBit_shiftRight]
    simp [hi]
  simp only [wholeBytes, List.all_eq_true, mem_span, Bool.or_eq_true, beq_iff_eq, hbyte, Nat.zero_le, true_and, Nat.zero_add]

/-- A run of bits in a sector is whole bytes exactly when it begins and ends on a byte. -/
theorem wholeBytes_maskOf {o n : Nat} (hn : 0 < n) (hin : o + n ≤ 256) :
    wholeBytes (maskOf o n) = true ↔ o % 8 = 0 ∧ n % 8 = 0 := by
  simp only [wholeBytes_iff, testBit_maskOf, decide_eq_decide]
  refine ⟨fun h => ?_, fun ⟨ho, hn8⟩ b hb i hi => by omega⟩
  have ho : o % 8 = 0 := by
    have := h (o / 8) (by omega) (o % 8) (Nat.mod_lt _ (by decide))
    omega
  have hend : (o + n) % 8 = 0 := by
    by_contra hne
    have := h ((o + n) / 8) (by omega) ((o + n) % 8) (Nat.mod_lt _ (by decide))
    omega
  exact ⟨ho, by omega⟩

/-! ### A masked write of a sector (R39, R40) -/

/-- A sector after a write of the bits of `v` that `mask` names. -/
def maskedSector (old mask v : Nat) : Nat :=
  (span 0 256).foldl (fun x b => if bit mask b then putBits x b 1 (v >>> b) else x) old

theorem testBit_putMasked (mask v x a n i : Nat) :
    ((span a n).foldl (fun x b => if bit mask b then putBits x b 1 (v >>> b) else x) x).testBit i =
      if (a ≤ i ∧ i < a + n) ∧ mask.testBit i = true then v.testBit i else x.testBit i := by
  induction n generalizing a x with
  | zero => rw [if_neg (by omega)]; rfl
  | succ n ih =>
    have hstep : (if bit mask a then putBits x a 1 (v >>> a) else x).testBit i =
        if i = a ∧ mask.testBit a = true then v.testBit a else x.testBit i := by
      rw [bit_eq_testBit]
      by_cases hm : mask.testBit a = true
      · rw [if_pos hm, testBit_putBits]
        by_cases hi : i = a
        · simp [hi, hm]
        · rw [if_neg (by omega), if_neg (fun h => hi h.1)]
      · rw [if_neg hm, if_neg (fun h => hm h.2)]
    rw [span, List.foldl_cons, ih, hstep]
    by_cases hi : i = a
    · subst hi; simp
    · rw [if_neg (fun h : i = a ∧ _ => hi h.1)]
      exact if_congr (and_congr_left' (by omega)) rfl rfl

/-- A masked write of a run of bits puts them in the sector. -/
theorem maskedSector_maskOf {o n : Nat} (hin : o + n ≤ 256) (old x : Nat) :
    maskedSector old (maskOf o n) (putBits 0 o n x) = putBits old o n x := by
  refine Nat.eq_of_testBit_eq fun i => ?_
  rw [maskedSector, testBit_putMasked, testBit_maskOf, testBit_putBits, testBit_putBits]
  by_cases hi : o ≤ i ∧ i < o + n
  · rw [if_pos ⟨by omega, decide_eq_true hi⟩, if_pos hi, if_pos hi]
  · rw [if_neg (fun h => hi (of_decide_eq_true h.2)), if_neg hi]

/-- A sector rewritten with some of its bits put reads as memory with those bits put. -/
theorem hbmBits_sector (m : List Host.Cell) (k x q j : Nat) {o n : Nat} (hin : o + n ≤ 256) :
    hbmBits (hbmPut m (256 * k) 256 (putBits (hbmBits m (256 * k) 256) o n x)) q j = hbmBits (hbmPut m (256 * k + o) n x) q j := by
  refine Nat.eq_of_testBit_eq fun i => ?_
  have hput : ∀ p l v a, storeBit (fun b => (readByte (hbmPut m p l v) b).toNat) 8 a =
      if p ≤ a ∧ a < p + l then v.testBit (a - p) else storeBit (fun b => (readByte m b).toNat) 8 a :=
    fun p l v a => BitsPut.storeBit_eq (bitsPut_hbmPut m p l v) (by decide) a
  simp only [hbmBits_eq_storeBits, testBit_storeBits _ 8 _ _ _ (by decide), hput, testBit_putBits]
  generalize q + i = a
  by_cases ha : 256 * k ≤ a ∧ a < 256 * k + 256
  · have haddr : 256 * k + (a - 256 * k) = a := by omega
    have hpos : (o ≤ a - 256 * k ∧ a - 256 * k < o + n) ↔ 256 * k + o ≤ a ∧ a < 256 * k + o + n := by omega
    simp only [if_pos ha, hpos, haddr, Nat.sub_sub]
    simp [show a - 256 * k < 256 by omega]
  · rw [if_neg ha, if_neg (by omega)]

/-- A masked write where no sector is uncorrectable. -/
theorem storeMasked_of_noBad {s : State} (h : s.hbmBad = []) (k mask v : Nat) :
    ∃ t, storeMasked s k mask v = (t, true) ∧ t.hbm = hbmPut s.hbm (256 * k) 256 (maskedSector (hbmBits s.hbm (256 * k) 256) mask v) ∧
      t.cores = s.cores := by
  refine ⟨(storeMasked s k mask v).1, ?_⟩
  have hgo : ¬ (!wholeBytes mask && s.hbmBad.contains k) = true := by simp [h]
  rw [storeMasked, if_neg hgo, backInvalidate_eq]
  exact ⟨rfl, rfl, rfl⟩

end Sys2Proof.Proofs
end

section
/-!
PROOFS. How accesses of a core perform at their addresses, registers and barriers, and how a released store does (O16).
-/
namespace Sys2Proof.Proofs

open Sys2Proof.Machine Sys2Proof.Laws Sys2Proof.Stmt

/-! ### Loads (R218, R219) -/

theorem sectors_inside {a n : Nat} (hn : 0 < n) (hin : a % 256 + n ≤ 256) : sectors a n = [a / 256] := by
  have hcount : (a + n - 1) / 256 + 1 - a / 256 = 1 := by omega
  rw [sectors, if_neg (Nat.pos_iff_ne_zero.mp hn), hcount]
  rfl

theorem replyTo_accs (x : Core) (a : Acc) (v : Word) : (replyTo x a v).accs = x.accs := by
  unfold replyTo fillG
  grind [landDup_accs]

theorem findAcc_replyTo (x : Core) (a : Acc) (v : Word) (id : Nat) : findAcc (replyTo x a v) id = findAcc x id := by
  rw [findAcc, replyTo_accs, findAcc]

section
variable {s : State} {c : Nat} {a : Acc} (hdead : a.dead = false) (herr : a.err = none)
include hdead herr

theorem deliver_fills (v : Word) : ((deliver s c a v).core c).dup.greg a.reg = ⟨v, .full⟩ := by
  rw [deliver, onCore_core_get, if_pos rfl]
  exact replyTo_fills hdead herr v

/-- A load that has replied fills its register, and leaves the list unless own stores that it may have returned are on their way. -/
theorem loadDone_replies (v : Word) :
    ((loadDone s c a v).core c).dup.greg a.reg = ⟨v, .full⟩ ∧
    (ownSends (s.core c) a = [] → findAcc ((loadDone s c a v).core c) a.id = none) := by
  unfold loadDone
  dsimp only
  split
  · refine ⟨deliver_fills hdead herr v, fun _ => ?_⟩
    rw [deliver, onCore_core_get, if_pos rfl, findAcc_replyTo, findAcc_dropAcc]
  next hown =>
    refine ⟨?_, fun h => absurd (by simp [h]) hown⟩
    rw [onCore_core_get, if_pos rfl]
    exact replyTo_fills hdead herr v

end

/-- The bits at physical address `p` that a load finds under the strand's own stores (R219). -/
def loadedBits (s : State) (c : Nat) (a : Acc) (p : Nat) : Nat :=
  (ownSubs (s.core c) a.team a.pid).foldl (overlaySub a.addr a.len) (hbmBits s.hbm p a.len)

/-- A load with all its bits returned. -/
def loaded (a : Acc) (v : Nat) : Acc := { a with got := [(0, some v)], parked := [], err := none }

/-- A load of which nothing has performed performs as a whole inside one sector. -/
theorem performLd_whole {s v : State} {c p : Nat} {a : Acc} {sx : Bool} (hgot : a.got = []) (hparked : a.parked = [])
    (herr : a.err = none) (hlen : 0 < a.len) (hin : a.addr % 256 + a.len ≤ 256)
    (ht : Machine.translate s a.ctx a.addr gStrand 0 false = (v, .ok p)) (hbad : v.hbmBad.contains (p / 256) = false) :
    performLd s c a 0 sx = loadDone v c (loaded a (loadedBits v c a p)) (extend sx (loadedBits v c a p) a.len) := by
  have hsec := sectors_inside hlen hin
  simp only [performLd, hsec, List.getElem?_cons_zero, sectorPart_whole hsec hin, ht, hbad, Bool.false_eq_true, if_false,
    Nat.sub_self, Nat.shiftLeft_zero, partDone, hgot, hparked, herr]
  exact if_neg (Nat.lt_irrefl 1)

/-! ### The step (R141, R371) -/

section
variable {c id : Nat} {s : State} {a : Acc}

theorem partOpen_fresh (hgot : a.got = []) (hparked : a.parked = []) (k : Nat) : partOpen a k = true := by
  rw [partOpen, hgot, hparked]
  rfl

/-- Operations that act at this package once nothing earlier holds them back: a wake and an arrival from two issue cycles after
their bundle (R160), the others at once. -/
def ActsHere (x : Core) (a : Acc) : AOp → Prop
  | .ld _ | .atomic _ _ | .drd | .dwr | .consume => True
  | .nsig | .hbar => a.iss + 2 ≤ x.cyc
  | _ => False

theorem acts_of_op {x : Core} {op : AOp} (hop : a.op = op) (h : ActsHere x a op) : isRemote a = false ∧ tooEarly x a = false := by
  have hlate : a.iss + 2 ≤ x.cyc → tooEarly x a = false := fun hiss => by simp [tooEarly, Nat.not_lt.mpr hiss]
  cases op
  case ld | atomic | drd | dwr | consume => simp [isRemote, remoteKind, tooEarly, hop]
  case nsig | hbar => exact ⟨by rw [isRemote, remoteKind, hop]; rfl, hlate h⟩
  all_goals exact absurd h id

theorem gives_performs {op : AOp} (hf : findAcc (s.core c) id = some a) (hb : blocked s c a = false) (hop : a.op = op)
    (h : ActsHere (s.core c) a op) : Gives (.longLatencyReply c id 0) s (performAcc (settle s c a) c a 0) := by
  obtain ⟨hr, hlate⟩ := acts_of_op hop h
  show Host.Outcome.next (stepAcc s c id 0) = _
  simp only [stepAcc, hf, hb, hr, hlate, Bool.or_self, Bool.false_eq_true, if_false]

theorem performAcc_ld {sx : Bool} (hop : a.op = .ld sx) (hopen : partOpen a 0 = true) :
    performAcc s c a 0 = performLd s c a 0 sx := by
  simp only [performAcc, hop, hopen, if_true]

theorem performAcc_atomic {idx fmt : Nat} (hop : a.op = .atomic idx fmt) (hopen : partOpen a 0 = true) :
    performAcc s c a 0 = performAtomic s c a idx fmt := by
  simp only [performAcc, hop, hopen, if_true]

/-- The state after an atomic of index `idx` and format `fmt` at physical address `p` has written what it writes (R225). -/
def atomicWritten (s : State) (a : Acc) (p idx fmt : Nat) : State :=
  let new := atomicNew idx fmt (hbmBits s.hbm p a.len) a.data.toNat a.cmp.toNat a.len
  if new.2 then (storePart s p a.len new.1).1 else s

theorem performAtomic_mapped {v : State} {p idx fmt : Nat}
    (ht : Machine.translate s a.ctx a.addr gStrand 2 false = (v, .ok p)) (hbad : v.hbmBad.contains (p / 256) = false) :
    performAtomic s c a idx fmt = deliver (atomicWritten v a p idx fmt) c a (wordN (hbmBits v.hbm p a.len)) := by
  simp only [performAtomic, ht, hbad, Bool.false_eq_true, if_false]
  rfl

theorem performAcc_drd {v : Word} (hop : a.op = .drd) (h : devRead s a.addr = (v, none)) : performAcc s c a 0 = deliver s c a v := by
  simp only [performAcc, hop, performDrd, h]

theorem performAcc_dwr {u : State} (hop : a.op = .dwr)
    (h : devWrite (s.onCore c (fun x => dropAcc x a.id)) (.strand a.ctx c) a.addr (a.data.truncate 64) = (u, none)) :
    performAcc s c a 0 = u := by
  simp only [performAcc, hop, performDwr, h]

theorem performAcc_nsig (hop : a.op = .nsig) : performAcc s c a 0 =
    wakeArrive (s.onCore c (fun x => dropAcc x a.id)) a.addr (a.data.truncate 48) := by
  simp only [performAcc, hop, performNsig]

theorem performAcc_consume (hop : a.op = .consume) : performAcc s c a 0 =
    setNotify (s.onCore c (fun x => dropAcc x a.id)) a.addr
      { notifyOf s a.addr with cnt := (notifyOf s a.addr).cnt - a.len } := by
  simp only [performAcc, hop, performConsume]

/-- An arrival is recorded in the registers of a strand that is still there (R372). -/
theorem recordArrival_arrival {g : Option (Nat × Nat)} (hteam : (s.core c).team = some a.team) :
    ((recordArrival s c a g).core c).dup.arrival = g := by
  rw [recordArrival, onCore_core_get, if_pos rfl]
  simp only [hteam, if_true, landDup_dup]

theorem performAcc_hbar (hop : a.op = .hbar) (hown : barOwned s a.addr a.ctx = true) : performAcc s c a 0 =
    recordArrival (barrierArriveAt s a.addr a.len).1 c a (some (a.addr, (barrierOf s a.addr).gen)) := by
  simp only [performAcc, hop, performHbar, hown, if_true]
  rfl

end

theorem coreAccessesPerform : Stmt.AccessesPerform := by
  intro c id s a hf hb hgot hparked herr hdead s'
  have hid : a.id = id := findAcc_id hf
  have hopen := partOpen_fresh hgot hparked 0
  have hperf : ∀ {op : AOp} {u : State}, a.op = op → ActsHere (s.core c) a op → performAcc s' c a 0 = u →
      Gives (.longLatencyReply c id 0) s u := fun hop h hu => hu ▸ gives_performs hf hb hop h
  refine ⟨?load, ?atomic, ?drd, ?dwr, ?nsig, ?consume, ?hbar⟩
  case load =>
    intro sx v p hop hlen _ hin ht hbad
    obtain ⟨hfull, hgone⟩ := loadDone_replies (s := v) (c := c) (a := loaded a (loadedBits v c a p)) hdead rfl
      (extend sx (loadedBits v c a p) a.len)
    exact ⟨_, hperf hop trivial ((performAcc_ld hop hopen).trans (performLd_whole hgot hparked herr hlen hin ht hbad)),
      loadDone_hbm .., fun hown => hid ▸ hgone hown, hfull⟩
  case atomic =>
    intro idx fmt v p hop ht hbad old new
    exact ⟨_, hperf hop trivial ((performAcc_atomic hop hopen).trans (performAtomic_mapped ht hbad)), deliver_fills hdead herr _, rfl⟩
  case drd =>
    intro v hop hread
    exact ⟨_, hperf hop trivial (performAcc_drd hop hread), deliver_fills hdead herr v, sameMemory_of_hbm rfl⟩
  case dwr =>
    intro u hop hwrite
    exact hperf hop trivial (performAcc_dwr hop (hid ▸ hwrite))
  case nsig =>
    intro hop hiss
    exact hperf hop hiss (hid ▸ performAcc_nsig hop)
  case consume =>
    intro hop
    refine ⟨_, hperf hop trivial (performAcc_consume hop), ?_, sameMemory_of_hbm rfl⟩
    rw [notifyOf_setNotify, if_pos rfl]
  case hbar =>
    intro hop hiss hown hteam
    exact ⟨_, hperf hop hiss (performAcc_hbar hop hown), barrierOf_barrierArriveAt s' a.addr a.len, recordArrival_arrival hteam,
      sameMemory_of_hbm rfl⟩

/-! ### Released stores (R222, R223) -/

/-- An entry with one store writes the bits of that store. -/
theorem entryMask_single {e : WEnt} {w : WSub} (h : e.subs = [w]) :
    entryMask e = (maskOf (w.lo - 256 * e.sector) w.len, putBits 0 (w.lo - 256 * e.sector) w.len w.v.toNat) := by
  rw [entryMask, h]
  rfl

theorem kind_maskOf {lo n b : Nat} (hn : 0 < n) (hlo : 256 * b ≤ lo) (hin : lo + n ≤ 256 * (b + 1)) :
    (if wholeBytes (maskOf (lo - 256 * b) n) then 1 else 3 : Nat) = if lo % 8 = 0 ∧ n % 8 = 0 then 1 else 3 :=
  if_congr ((wholeBytes_maskOf hn (by omega)).trans (and_congr_left' (by omega))) rfl rfl

section
variable {s v : State} {c p : Nat} {a : Acc} {e : WEnt} {w : WSub}

/-- A released entry with one store inside its sector writes those bits of memory, and no other. -/
theorem performSend_single (hsubs : e.subs = [w]) (hlen : 0 < w.len) (hlo : 256 * e.sector ≤ w.lo)
    (hin : w.lo + w.len ≤ 256 * (e.sector + 1))
    (ht : Machine.translate s a.ctx w.lo gStrand (if w.lo % 8 = 0 ∧ w.len % 8 = 0 then 1 else 3) false = (v, .ok p))
    (hbad : v.hbmBad = []) :
    ∃ t : State, performSend s c a e = t.onCore c (fun x => dropAcc x a.id) ∧ t.cores = v.cores ∧
      ∀ q j, hbmBits t.hbm q j = hbmBits (hbmPut v.hbm p w.len w.v.toNat) q j := by
  have hp : 256 * (p / 256) + (w.lo - 256 * e.sector) = p := by
    have := translate_offset ht
    omega
  obtain ⟨t, hstore, hhbm, hcores⟩ := storeMasked_of_noBad hbad (p / 256) (maskOf (w.lo - 256 * e.sector) w.len)
    (putBits 0 (w.lo - 256 * e.sector) w.len w.v.toNat)
  refine ⟨t, ?_, hcores, fun q j => ?_⟩
  · simp only [performSend, entryMask_single hsubs, hsubs, kind_maskOf hlen hlo hin, ht, hstore]
  · rw [hhbm, maskedSector_maskOf (by omega), hbmBits_sector _ _ _ _ _ (by omega), hp]

theorem gives_sends {id : Nat} (hf : findAcc (s.core c) id = some a) (hb : blocked s c a = false) (hop : a.op = .send e)
    (hopen : partOpen a 0 = true) : Gives (.withheldEntrySend c id) s (performSend (settle s c a) c a e) := by
  show Host.Outcome.next (sendEntry s c id) = _
  simp only [sendEntry, hf, hop, hopen, hb, Bool.not_false, Bool.and_self, if_true]

end

theorem releasedStorePerforms : Stmt.ReleasedStorePerforms := by
  intro c id s v a e w p hf hb hgot hparked hop hsubs hlen hlo hin ht hbad
  obtain ⟨t, hsend, hcores, hbits⟩ := performSend_single (c := c) hsubs hlen hlo hin ht hbad
  refine ⟨_, hsend ▸ gives_sends hf hb hop (partOpen_fresh hgot hparked 0), ?_, fun q n hd => ?_, ?_, fun k hk => ?_⟩
  · rw [onCore_hbm, hbits, hbmBits_hbmPut_self]
  · rw [onCore_hbm, hbits, hbmBits_hbmPut_disjoint _ _ _ _ _ _ hd]
  · rw [onCore_core_get, if_pos rfl, findAcc_id hf, findAcc_dropAcc]
  · rw [onCore_core_get, if_neg hk, State.core, hcores, State.core]

/-- Settles O16: an access inside one sector performs as one change at the address of its translation, which keeps the offset in the
page, so that a store's mask of its sector falls on the physical bits of the store. -/
theorem accessesPerform : Obligations.AccessesPerform := ⟨coreAccessesPerform, releasedStorePerforms⟩

end Sys2Proof.Proofs
end

section
/-!
PROOFS. Global loads, stores, atomics, prefetches and device accesses: the checks of their target, and how each issues (O15).
-/
namespace Sys2Proof.Proofs

open Sys2Proof.Machine Sys2Proof.Laws Sys2Proof.Stmt

/-! ### A shield and the checks of GM (R159, R216, R217) -/

@[simp] theorem shielded_privileged (s : State) (c k : Nat) : ((shielded s c).core k).privileged = (s.core k).privileged := by
  unfold shielded Core.privileged
  grind [onCore_core_get]

theorem outstanding_shielded (s : State) (c k : Nat) : outstanding ((shielded s c).core k) = outstanding (s.core k) := by
  unfold shielded outstanding
  grind [onCore_core_get]

theorem unsent_shielded (s : State) (c k : Nat) : unsent ((shielded s c).core k) = unsent (s.core k) := by
  unfold shielded unsent
  grind [onCore_core_get]

@[simp] theorem shielded_core_wb (s : State) (c k : Nat) : ((shielded s c).core k).wb = (s.core k).wb := by
  unfold shielded
  grind [onCore_core_get]

theorem slot_of_gmIn {t : Trig} {s : State} {w : Nat} (h : GmIn t s w) : outstanding (s.core t.core) < 2048 := by
  obtain ⟨-, -, -, -, hslot⟩ := h
  exact hslot

theorem gmIn_shielded {t : Trig} {s : State} {w : Nat} (h : GmIn t s w) : GmIn t (shielded s t.core) w := by
  rw [GmIn, outstanding_shielded]
  exact h

theorem ports_shielded (t : Trig) (s : State) (c : Nat) : portOf t (shielded s c) = portOf t s :=
  funext fun n => portOf_shielded t s c n

theorem withReg_shielded {s : State} {c d r : Nat} (h : ((s.core c).dup.greg r).st ≠ .empty) (k : Unit → Res) :
    withReg (shielded s d) c r k = k () :=
  withReg_full (by rw [shielded_core_dup]; exact h) k

/-- A legal scope passes the check whatever the qualifiers, and so does any scope that no qualifier uses (R216). -/
theorem gmScopeBad_ok {t : Trig} {s : State} {uses : Bool} (h : uses = false ∨ ScopeOk t s) : gmScopeBad t s uses = false := by
  rcases h with h | h
  · rw [gmScopeBad, h, Bool.false_and]
  · have hlegal : ¬ 6 ≤ gmScope t s := Nat.not_le.mpr h
    rw [gmScopeBad, decide_eq_false hlegal, Bool.and_false]

theorem gmScopeBad_shielded (t : Trig) (s : State) (c : Nat) (uses : Bool) :
    gmScopeBad t (shielded s c) uses = gmScopeBad t s uses := by
  rw [gmScopeBad, gmScope, gmQ, portOf_shielded]
  rfl

/-! ### The target (R216) -/

section
variable {t : Trig} {s : State} {w : Nat} {k : GmKind}

theorem gmTarget_malformed (hmal : ptrMal t.y = true) : gmTarget t s w .plain = .error (trapMal t.slot (ptrAddr t.y)) :=
  if_pos hmal

section
variable (hmal : ptrMal t.y = false)
include hmal

theorem gmTarget_device (hpriv : (s.core t.core).privileged = true) (hreg : region (ptrAddr t.y) = 14) :
    gmTarget t s w .dev = .ok (ptrAddr t.y) := by
  simp [gmTarget, hmal, hpriv, hreg]

theorem gmTarget_registers (hreg : region (ptrAddr t.y) = 14) (hpriv : (s.core t.core).privileged = false) :
    gmTarget t s w .plain = .error (trapPrivAddr t.slot (ptrAddr t.y)) := by
  simp [gmTarget, hmal, hpriv, hreg]

theorem gmTarget_elsewhere (hreg : region (ptrAddr t.y) = 0 ∨ 8 ≤ region (ptrAddr t.y)) (h14 : region (ptrAddr t.y) ≠ 14) :
    gmTarget t s w .plain = .error (trapAddr t.slot (ptrAddr t.y) eUnmapped) := by
  have hout : region (ptrAddr t.y) < 1 ∨ 7 < region (ptrAddr t.y) := by omega
  rcases hout with hout | hout <;> simp [gmTarget, hmal, h14, hout]

/-- An address of memory meets the checks of its width, and nothing else. -/
theorem gmTarget_memory (hlo : 1 ≤ region (ptrAddr t.y)) (hhi : region (ptrAddr t.y) ≤ 7) (hend : ptrAddr t.y + w ≤ 2 ^ 55)
    (hdev : k ≠ .dev) : gmTarget t s w k =
      if (k == .arith || k == .bitwise) && !r42Limits (ptrAddr t.y) w k then .error (trapWidth t.slot (ptrAddr t.y))
      else if k == .plain && !alignedW (ptrAddr t.y) w then .error (trapAlign t.slot (ptrAddr t.y))
      else .ok (ptrAddr t.y) := by
  have h14 : region (ptrAddr t.y) ≠ 14 := by omega
  have hin : ¬ (region (ptrAddr t.y) < 1 || 7 < region (ptrAddr t.y) || 2 ^ 55 < ptrAddr t.y + w : Bool) = true := by
    simp only [Bool.or_eq_true, decide_eq_true_eq]
    omega
  simp only [gmTarget, beq_false_of_ne hdev, hmal, h14, if_neg hin, Bool.false_and, Bool.false_eq_true, decide_false, if_false]

theorem gmTarget_misaligned (hlo : 1 ≤ region (ptrAddr t.y)) (hhi : region (ptrAddr t.y) ≤ 7) (hend : ptrAddr t.y + w ≤ 2 ^ 55)
    (hal : alignedW (ptrAddr t.y) w = false) : gmTarget t s w .plain = .error (trapAlign t.slot (ptrAddr t.y)) := by
  rw [gmTarget_memory hmal hlo hhi hend GmKind.noConfusion, hal]
  rfl

end

section
variable (h : GmIn t s w)
include h

theorem gmTarget_plain (hal : alignedW (ptrAddr t.y) w = true) : gmTarget t s w .plain = .ok (ptrAddr t.y) := by
  obtain ⟨hmal, hlo, hhi, hend, -⟩ := h
  rw [gmTarget_memory hmal hlo hhi hend GmKind.noConfusion, hal]
  rfl

theorem gmTarget_pref : gmTarget t s w .pref = .ok (ptrAddr t.y) := by
  obtain ⟨hmal, hlo, hhi, hend, -⟩ := h
  exact gmTarget_memory hmal hlo hhi hend GmKind.noConfusion

theorem gmTarget_atomic (hk : k = .arith ∨ k = .bitwise) (hlim : r42Limits (ptrAddr t.y) w k = true) :
    gmTarget t s w k = .ok (ptrAddr t.y) := by
  obtain ⟨hmal, hlo, hhi, hend, -⟩ := h
  have hdev : k ≠ .dev := by rcases hk with rfl | rfl <;> exact GmKind.noConfusion
  rw [gmTarget_memory hmal hlo hhi hend hdev, hlim]
  rcases hk with rfl | rfl <;> rfl

end

theorem withSlot_free (h : outstanding (s.core t.core) < 2048) (f : Unit → Res) : withSlot s t.core f = f () :=
  if_neg (Nat.not_le.mpr h)

theorem withGm_ok {a : Nat} (ht : gmTarget t s w k = .ok a) (hslot : outstanding (s.core t.core) < 2048) (f : Nat → Res) :
    withGm t s w k f = f a := by
  rw [withGm, ht]
  exact withSlot_free hslot _

theorem withGm_trap {tr : Trap} (ht : gmTarget t s w k = .error tr) (f : Nat → Res) : withGm t s w k f = .trap tr := by
  rw [withGm, ht]

theorem withGmEntry_ok {a : Nat} {x : Core} {n : Nat → Nat} (ht : gmTarget t s w k = .ok a)
    (hslot : outstanding (s.core t.core) < 2048) (hroom : x.wb.length + unsent x + n a ≤ 256) (f : Nat → Res) :
    withGmEntry t s w k x n f = f a := by
  rw [withGmEntry, ht]
  simp only [wbRoom, if_pos hroom]
  exact withSlot_free hslot _

theorem withGmEntry_trap {tr : Trap} (ht : gmTarget t s w k = .error tr) (x : Core) (n : Nat → Nat) (f : Nat → Res) :
    withGmEntry t s w k x n f = .trap tr := by
  rw [withGmEntry, ht]

end

/-! ### Loads and stores (R215 to R222) -/

section
variable {t : Trig} {s : State}

theorem gmLoad_issues (h : GmIn t s (ptrWidth t.y)) (hal : alignedW (ptrAddr t.y) (ptrWidth t.y) = true)
    (hsc : acquire t s = false ∨ ScopeOk t s) (hr : ((s.core t.core).dup.greg (gmDest t s)).st ≠ .empty) (sx : Bool) :
    gmLoad t s sx = .done (issueAcc s t.core { accBase s t.core with
      cls := ptrClass t.y, op := .ld sx, addr := ptrAddr t.y, len := ptrWidth t.y, reg := gmDest t s, acq := acqMask t s,
      scope := gmScopeQ t s }) := by
  have hscope : gmScopeBad t s (gmAcq t s) = false := gmScopeBad_ok hsc
  rw [gmLoad, hscope]
  dsimp only
  rw [withGm_ok (gmTarget_plain h hal) (slot_of_gmIn h), withReg_full (r := gmReg t s) hr]
  rfl

theorem opGmSt_withholds (h : GmIn t s (ptrWidth t.y)) (hal : alignedW (ptrAddr t.y) (ptrWidth t.y) = true)
    (hsc : release_ t s = false ∨ ScopeOk t s)
    (hroom : (s.core t.core).wb.length + unsent (s.core t.core) +
      wbNeeds (s.core t.core).wb (ptrClass t.y) (ptrAddr t.y) (ptrWidth t.y) ≤ 256) :
    opGmSt t s = .done (wbStore s t.core (ptrClass t.y) (relMask t s) (gmScopeQ t s) (ptrAddr t.y) (ptrWidth t.y)
      ((portOf t s pGMa).toNat % 2 ^ ptrWidth t.y)) := by
  have hscope : gmScopeBad t s (gmRel t s) = false := gmScopeBad_ok hsc
  rw [opGmSt, hscope, if_neg Bool.false_ne_true, withGmEntry_ok (gmTarget_plain h hal) (slot_of_gmIn h) hroom]
  rfl

/-- A store inside one sector is one part (R222). -/
theorem storeSubs_inside {a w : Nat} (hw : 0 < w) (hin : a % 256 + w ≤ 256) (seq v rel scope : Nat) :
    storeSubs seq a w (v % 2 ^ w) rel scope = [⟨seq, a, w, BitVec.ofNat 256 (v % 2 ^ w), rel, scope⟩] := by
  have hsec := sectors_inside hw hin
  simp only [storeSubs, hsec, List.map_cons, List.map_nil, sectorPart_whole hsec hin, Nat.sub_self, Nat.shiftRight_zero, Nat.mod_mod]

/-- A target that traps ends a load and a store alike, once the scope is legal. -/
theorem gives_gmTrap {tr : Trap} (hacq : acquire t s = false ∨ ScopeOk t s) (hrel : release_ t s = false ∨ ScopeOk t s)
    (ht : gmTarget t s (ptrWidth t.y) .plain = .error tr) :
    ∀ e ∈ [Instr.gmLd t, .gmLds t, .gmSt t], Gives e s (takeTrap s t.core tr) := by
  have hload : ∀ sx, gmLoad t s sx = .trap tr := fun sx => by
    rw [gmLoad, (gmScopeBad_ok hacq : gmScopeBad t s (gmAcq t s) = false)]
    exact withGm_trap ht _
  have hstore : opGmSt t s = .trap tr := by
    rw [opGmSt, (gmScopeBad_ok hrel : gmScopeBad t s (gmRel t s) = false)]
    exact withGmEntry_trap ht _ _ _
  simp only [List.mem_cons, List.not_mem_nil, or_false]
  rintro e (rfl | rfl | rfl)
  · exact congrArg (finish s t.core) (hload false)
  · exact congrArg (finish s t.core) (hload true)
  · exact congrArg (finish s t.core) hstore

end

theorem gmLoadsAndStores : Stmt.GmLoadsAndStores := by
  intro t s c a w r x
  refine ⟨fun hin hal hsc hr => ?load, fun hin hal hsc hroom => ?store, fun e he hacq hrel => ?traps⟩
  case load =>
    exact ⟨congrArg (finish s c) (gmLoad_issues hin hal hsc hr false), congrArg (finish s c) (gmLoad_issues hin hal hsc hr true)⟩
  case store =>
    refine ⟨_, congrArg (finish s c) (opGmSt_withholds hin hal hsc hroom), sameMemory_of_hbm rfl, ?_, fun hwb hone => ?_⟩
    · rw [wbStore, onCore_core_get, if_pos rfl]
      rfl
    · rw [wbStore, onCore_core_get, if_pos rfl, storeSubs_inside (ptrWidth_pos t.y) hone]
      rw [show (s.core t.core).wb = [] from hwb]
      rfl
  case traps =>
    have htrap : ∀ {tr : Trap}, gmTarget t s (ptrWidth t.y) .plain = .error tr → Gives e s (takeTrap s c tr) :=
      fun ht => gives_gmTrap hacq hrel ht e he
    exact ⟨fun hmal => htrap (gmTarget_malformed hmal), fun hmal h14 hpriv => htrap (gmTarget_registers hmal h14 hpriv),
      fun hmal hreg h14 => htrap (gmTarget_elsewhere hmal hreg h14),
      fun hmal hlo hhi hend hal => htrap (gmTarget_misaligned hmal hlo hhi hend hal)⟩

/-! ### Atomics (R225 to R229) -/

/-- The access of an atomic or a device access in the state `u`, before its operation is named. -/
def gmAccess (t : Trig) (s u : State) : Acc :=
  { accBase u t.core with
    cls := ptrClass t.y, addr := ptrAddr t.y, reg := gmDest t s, acq := acqMask t s, rel := relMask t s, scope := gmScopeQ t s }

section
variable {t : Trig} {s : State}

theorem gmAtomic_issues {k : GmKind} {w : Nat} (hck : t.ckpt = true) (hsc : ScopeOk t s)
    (hr : ((s.core t.core).dup.greg (gmDest t s)).st ≠ .empty) (h : GmIn t s w) (hk : k = .arith ∨ k = .bitwise)
    (hlim : r42Limits (ptrAddr t.y) w k = true) (idx : Nat) :
    gmAtomic t s idx w k = .done (issueAcc (shielded s t.core) t.core { gmAccess t s (shielded s t.core) with
      op := .atomic idx (bits (portOf t s pGMd).toNat 12 8), len := w, data := (portOf t s pGMa).zeroExtend 1024,
      cmp := portOf t s pGMb }) := by
  rw [gmAtomic, withCkpt_shields hck]
  dsimp only
  rw [gmScopeBad_shielded, gmScopeBad_ok (.inr hsc),
    withGm_ok (gmTarget_atomic (gmIn_shielded h) hk hlim) (slot_of_gmIn (gmIn_shielded h)), withReg_shielded (r := gmReg t s) hr]
  simp only [gmAmask, gmRmask, gmAcq, gmRel, gmScope, gmFmt, gmA, gmB, gmD, gmQ, ports_shielded]
  rfl

/-- An element that an arithmetic atomic may name (R42). -/
theorem r42Limits_arith {a n : Nat} (hn : n = 8 ∨ n = 16 ∨ n = 32 ∨ n = 64) (ha : a % n = 0) : r42Limits a n .arith = true := by
  show arithLimits a n = true
  rcases hn with rfl | rfl | rfl | rfl <;> simp [arithLimits, ha]

theorem opGmFadd_legal (h : bits (portOf t s pGMd).toNat 12 8 ≤ 2) :
    opGmFadd t s = gmAtomic t s 6 (if bits (portOf t s pGMd).toNat 12 8 = 0 then 32 else 16) .arith := if_neg (Nat.not_lt.mpr h)

/-! ### Prefetches and device accesses (R230, R231) -/

/-- Without the entries that its bundle releases, a core has no more to send. -/
theorem unsent_beforeRelease (x : Core) : unsent (beforeRelease x) ≤ unsent x :=
  (List.Sublist.filter _ List.filter_sublist).length_le

theorem opGmPref_issues (h0 : 0 < (portOf t s pGMa).toNat) (h1 : (portOf t s pGMa).toNat ≤ 2 ^ 20) (h : GmIn t s (ptrWidth t.y)) :
    opGmPref t s = .done (pushAcc s t.core { accBase s t.core with
      cls := ptrClass t.y, op := .pref, addr := ptrAddr t.y, len := (portOf t s pGMa).toNat }) := by
  have hlegal : ¬ (decide ((portOf t s pGMa).toNat = 0) || decide (2 ^ 20 < (portOf t s pGMa).toNat)) = true := by
    simp only [Bool.or_eq_true, decide_eq_true_eq]
    omega
  exact (if_neg hlegal).trans (withGm_ok (gmTarget_pref h) (slot_of_gmIn h) _)

section
variable (hck : t.ckpt = true) (hsc : ScopeOk t s)
include hck hsc

section
variable (hpriv : (s.core t.core).privileged = true) (hmal : ptrMal t.y = false) (hreg : region (ptrAddr t.y) = 14)
  (hslot : outstanding (s.core t.core) < 2048)
include hpriv hmal hreg hslot

theorem opGmDrd_issues (hr : ((s.core t.core).dup.greg (gmDest t s)).st ≠ .empty) :
    opGmDrd t s = .done (issueAcc (shielded s t.core) t.core { gmAccess t s (shielded s t.core) with op := .drd, rel := 0 }) := by
  rw [opGmDrd, withCkpt_shields hck]
  dsimp only
  rw [gmScopeBad_shielded, gmScopeBad_ok (.inr hsc),
    withGm_ok (gmTarget_device hmal (by rw [shielded_privileged]; exact hpriv) hreg) (by rw [outstanding_shielded]; exact hslot),
    withReg_shielded (r := gmReg t s) hr]
  simp only [gmAmask, gmAcq, gmScope, gmD, gmQ, ports_shielded]
  rfl

theorem opGmDwr_issues (hroom : (s.core t.core).wb.length + unsent (s.core t.core) < 256) :
    opGmDwr t s = .done (pushAcc (shielded s t.core) t.core { gmAccess t s (shielded s t.core) with
      op := .dwr, data := (portOf t s pGMa).zeroExtend 1024, reg := 0, acq := 0 }) := by
  have hfits : (beforeRelease ((shielded s t.core).core t.core)).wb.length + unsent (beforeRelease ((shielded s t.core).core t.core)) + 1
      ≤ 256 := by
    have hwb : (beforeRelease ((shielded s t.core).core t.core)).wb = (s.core t.core).wb := shielded_core_wb s t.core t.core
    have hless := unsent_beforeRelease ((shielded s t.core).core t.core)
    rw [unsent_shielded] at hless
    rw [hwb]
    omega
  rw [opGmDwr, withCkpt_shields hck]
  dsimp only
  rw [gmScopeBad_shielded, gmScopeBad_ok (.inr hsc),
    withGmEntry_ok (gmTarget_device hmal (by rw [shielded_privileged]; exact hpriv) hreg)
      (by rw [outstanding_shielded]; exact hslot) hfits]
  simp only [gmRmask, gmRel, gmScope, gmA, gmD, gmQ, ports_shielded]
  rfl

end

theorem device_unprivileged (hpriv : (s.core t.core).privileged = false) :
    opGmDrd t s = .trap (trapPriv t.slot) ∧ opGmDwr t s = .trap (trapPriv t.slot) := by
  have htarget : gmTarget t (shielded s t.core) 64 .dev = .error (trapPriv t.slot) := by
    simp [gmTarget, hpriv]
  rw [opGmDrd, opGmDwr, withCkpt_shields hck, withCkpt_shields hck]
  dsimp only
  rw [gmScopeBad_shielded, gmScopeBad_shielded, gmScopeBad_ok (.inr hsc), gmScopeBad_ok (.inr hsc)]
  exact ⟨withGm_trap htarget _, withGmEntry_trap htarget _ _ _⟩

end

/-- An atomic or a device access without a checkpoint is illegal. -/
theorem gives_gmUnchecked (hck : t.ckpt = false) (hfmt : bits (portOf t s pGMd).toNat 12 8 ≤ 2) :
    ∀ e ∈ [Instr.gmCas t, .gmSwap t, .gmAdd t, .gmFadd t, .gmMin t, .gmMax t, .gmMinu t, .gmMaxu t, .gmIncb t, .gmAnd t,
      .gmOr t, .gmXor t, .gmDrd t, .gmDwr t], Gives e s (takeTrap s t.core (trapIllegal t.slot)) := by
  have hatomic : ∀ {idx w : Nat} {k : GmKind}, finish s t.core (gmAtomic t s idx w k) = .next (takeTrap s t.core (trapIllegal t.slot)) :=
    fun {idx w k} => by rw [gmAtomic, withCkpt_illegal hck, finish_trap]
  have hfadd : finish s t.core (opGmFadd t s) = .next (takeTrap s t.core (trapIllegal t.slot)) :=
    (congrArg (finish s t.core) (opGmFadd_legal hfmt)).trans hatomic
  have hdrd : finish s t.core (opGmDrd t s) = .next (takeTrap s t.core (trapIllegal t.slot)) := by
    rw [opGmDrd, withCkpt_illegal hck, finish_trap]
  have hdwr : finish s t.core (opGmDwr t s) = .next (takeTrap s t.core (trapIllegal t.slot)) := by
    rw [opGmDwr, withCkpt_illegal hck, finish_trap]
  simp only [List.mem_cons, List.not_mem_nil, or_false]
  rintro e (rfl | rfl | rfl | rfl | rfl | rfl | rfl | rfl | rfl | rfl | rfl | rfl | rfl | rfl)
  exacts [hatomic, hatomic, hatomic, hfadd, hatomic, hatomic, hatomic, hatomic, hatomic, hatomic, hatomic, hatomic, hdrd, hdwr]

end

theorem gmAtomicsAndDevice : Stmt.GmAtomicsAndDevice := by
  intro t s c u a w r d v acc at_ whole hr hsc
  have hissue : ∀ {k : GmKind} {n : Nat}, t.ckpt = true → GmIn t s n → (k = .arith ∨ k = .bitwise) → r42Limits a n k = true →
      ∀ idx, finish s c (gmAtomic t s idx n k) = .next (at_ idx n) :=
    fun hck hin hk hlim idx => congrArg (finish s c) (gmAtomic_issues hck hsc hr hin hk hlim idx)
  refine ⟨fun hck hin hw => ?arith, fun n hck hn hfmt hin ha => ?fadd, fun n hn hck hin hword => ?bitwise,
    fun h0 h1 hin => ?pref, fun hck hpriv hmal hreg hslot => ?device, fun hck hpriv => ?unprivileged,
    fun hck hfmt => gives_gmUnchecked hck hfmt⟩
  case arith =>
    have h := hissue hck hin (.inl rfl) (r42Limits_arith hw.1 hw.2)
    exact ⟨h 3, h 4, h 5, h 7, h 8, h 9, h 10, h 14⟩
  case fadd =>
    have hwidth : n = 8 ∨ n = 16 ∨ n = 32 ∨ n = 64 := by rw [hn]; split <;> simp
    have h := hissue hck hin (.inl rfl) (r42Limits_arith hwidth ha) 6
    rw [hn] at h ⊢
    exact (congrArg (finish s c) (opGmFadd_legal hfmt)).trans h
  case bitwise =>
    subst hn
    have h := hissue hck hin (.inr rfl) (decide_eq_true hword)
    exact ⟨h 11, h 12, h 13⟩
  case pref => exact congrArg (finish s c) (opGmPref_issues h0 h1 hin)
  case device =>
    exact ⟨congrArg (finish s c) (opGmDrd_issues hck hsc hpriv hmal hreg hslot hr),
      fun hroom => congrArg (finish s c) (opGmDwr_issues hck hsc hpriv hmal hreg hslot hroom)⟩
  case unprivileged =>
    obtain ⟨hdrd, hdwr⟩ := device_unprivileged hck hsc hpriv
    exact ⟨congrArg (finish s c) hdrd, congrArg (finish s c) hdwr⟩

end Sys2Proof.Proofs
end

section
/-!
PROOFS. What atomics leave in memory: sums of floats with their NaNs and infinities, and the new element of each index (O15).
-/
namespace Sys2Proof.Proofs

open Sys2Proof.Machine Sys2Proof.Laws Sys2Proof.Stmt

/-! ### Sums of floats (R50, R227) -/

theorem isF_of_ofCode {fmt : Nat} {f : Fmt} (hfmt : fmt ≤ 2) (h : Fmt.ofCode fmt = some f) : f.isF = true := by
  interval_cases fmt <;> exact Option.some.inj h ▸ rfl

theorem isFloat_of_isF {f : Fmt} (h : f.isF = true) : f.isFloat = true ∧ f.hasInf = true := by
  revert h
  cases f <;> decide

theorem ofDy_ne_inf (neg n : Bool) (m : Nat) (e : Int) : Val.ofDy neg m e ≠ .inf n := by
  unfold Val.ofDy
  split <;> exact Val.noConfusion

/-- An infinity has one code for each sign. -/
theorem code_of_floatVal_inf {f : Fmt} {code : Nat} {n : Bool} (hf : f.isF = true) (hcode : code < 2 ^ f.width)
    (h : floatVal f code = .inf n) : signBit f n + f.infCode = code := by
  have hparts : code % 2 ^ (f.width - 1) = f.infCode ∧ bit code (f.width - 1) = n := by
    have hmod : code % 2 ^ f.width = code := Nat.mod_eq_of_lt hcode
    have hpos : f.params.1 + f.params.2.1 = f.width - 1 := by
      revert hf
      cases f <;> decide
    simp only [floatVal, hmod, hpos] at h
    split at h
    · split at h
      next hinf => exact ⟨by simpa using (Bool.and_eq_true_iff.mp hinf).2, Val.inf.inj h⟩
      next => exact absurd h Val.noConfusion
    · split at h <;> exact absurd h (ofDy_ne_inf _ _ _ _)
  obtain ⟨hlow, hsign⟩ := hparts
  have hwidth : 2 ^ f.width = 2 * 2 ^ (f.width - 1) := by
    revert hf
    cases f <;> decide
  have htop : code / 2 ^ (f.width - 1) < 2 := Nat.div_lt_of_lt_mul (by rw [Nat.mul_comm, ← hwidth]; exact hcode)
  rw [bit, Nat.shiftRight_eq_div_pow, Nat.mod_eq_of_lt htop] at hsign
  have hsum := Nat.div_add_mod code (2 ^ (f.width - 1))
  have hbit : signBit f n = 2 ^ (f.width - 1) * (code / 2 ^ (f.width - 1)) := by
    rw [signBit, ← hsign]
    generalize code / 2 ^ (f.width - 1) = q at htop
    interval_cases q <;> simp
  rw [hbit, ← hlow, hsum]

theorem eq_nan_of_isNan {x : Val} (h : x.isNan = true) : x = .nan := by
  cases x with
  | nan => rfl
  | inf | zero | num => exact absurd h Bool.false_ne_true

/-- A sum is no number where an operand is none or the operands are opposite infinities. -/
theorem addVal_nan {x z : Val} (h : x.isNan = true ∨ z.isNan = true ∨ ∃ n, x = .inf n ∧ z = .inf (!n)) (mode : Nat) :
    addVal x z mode = .nan := by
  rcases h with hx | hz | ⟨n, rfl, rfl⟩
  · rw [eq_nan_of_isNan hx]
    rfl
  · rw [eq_nan_of_isNan hz]
    cases x <;> rfl
  · cases n <;> rfl

theorem addVal_inf_left {n : Bool} {z : Val} (hnan : z.isNan = false) (hz : z ≠ .inf (!n)) (mode : Nat) :
    addVal (.inf n) z mode = .inf n := by
  cases z with
  | nan => exact absurd hnan Bool.noConfusion
  | inf m => exact if_pos (by cases n <;> cases m <;> simp_all)
  | zero | num => rfl

theorem addVal_inf_right {n : Bool} {x : Val} (hnan : x.isNan = false) (hx : x ≠ .inf (!n)) (mode : Nat) :
    addVal x (.inf n) mode = .inf n := by
  cases x with
  | nan => exact absurd hnan Bool.noConfusion
  | inf m =>
    obtain rfl : m = n := by cases n <;> cases m <;> simp_all
    exact if_pos rfl
  | zero | num => rfl

section
variable {f : Fmt} {old a : Nat} (hf : f.isF = true)
include hf

theorem faddCode_nan (h : addVal (floatVal f old) (floatVal f a) 0 = .nan) : faddCode f old a = f.nanCode := by
  rw [faddCode, h, convert, if_pos (isFloat_of_isF hf).1]
  rfl

/-- An infinite sum is the code of that infinity, which is the operand that has it. -/
theorem faddCode_inf {n : Bool} {code : Nat} (h : addVal (floatVal f old) (floatVal f a) 0 = .inf n) (hcode : code < 2 ^ f.width)
    (hinf : floatVal f code = .inf n) : faddCode f old a = code := by
  rw [faddCode, h, convert, if_pos (isFloat_of_isF hf).1, convFloat, (isFloat_of_isF hf).2]
  exact code_of_floatVal_inf hf hcode hinf

end

/-! ### The new element (R225 to R229) -/

section
variable {w old a b fmt : Nat}

theorem atomicNew_fadd {f : Fmt} (h : Fmt.ofCode fmt = some f) (ha : a < 2 ^ w) :
    atomicNew 6 fmt old a b w = (faddCode f old a, true) := by
  simp only [atomicNew, h, Nat.mod_eq_of_lt ha]

/-- An element of `w` bits gives way to one of `w` bits, whatever the index but that of fadd, whose sum is a code of its format. -/
theorem atomicNew_lt {idx : Nat} (hold : old < 2 ^ w) (ha : a < 2 ^ w) (hidx : idx ≠ 6) : (atomicNew idx fmt old a b w).1 < 2 ^ w := by
  unfold atomicNew
  rw [Nat.mod_eq_of_lt ha]
  dsimp only
  split
  case h_3 => exact Nat.mod_lt _ (Nat.two_pow_pos w)
  case h_4 => exact absurd rfl hidx
  case h_9 => exact Nat.and_lt_two_pow _ ha
  case h_10 => exact Nat.or_lt_two_pow hold ha
  case h_11 => exact Nat.xor_lt_two_pow hold ha
  all_goals grind

end

theorem atomicValues : Stmt.AtomicValues := by
  intro w old a b fmt hw hw64 hold ha hb new
  have hua : a % 2 ^ w = a := Nat.mod_eq_of_lt ha
  have hub : b % 2 ^ w = b := Nat.mod_eq_of_lt hb
  refine ⟨fun h => ?cas, fun h => ?casKept, ?swap, ?add, ?fadd, ?min, ?max, ?minu, ?maxu, ?and, ?or, ?xor, fun h => ?incb,
    fun h => ?incbKept, ?small⟩
  case fadd =>
    intro f hfmt hcode hwidth x z
    have hf := isF_of_ofCode hfmt hcode
    have hnew : new 6 = (faddCode f old a, true) := atomicNew_fadd hcode ha
    subst hwidth
    refine ⟨fun h => ?_, fun n hx hnan hz => ?_, fun n hz hnan hx => ?_, hnew⟩
    · rw [hnew, faddCode_nan hf (addVal_nan h 0)]
    · have hsum : addVal x z 0 = .inf n := by rw [hx]; exact addVal_inf_left hnan hz 0
      rw [hnew, faddCode_inf hf hsum hold hx]
    · have hsum : addVal x z 0 = .inf n := by rw [hz]; exact addVal_inf_right hnan hx 0
      rw [hnew, faddCode_inf hf hsum ha hz]
  case small =>
    intro idx hidx
    refine atomicNew_lt hold ha ?_
    rintro rfl
    simp at hidx
  case swap | add | min | max | and | or | xor => simp only [new, atomicNew, hua, ge_iff_le]
  case cas | casKept | minu | maxu | incb | incbKept =>
    simp only [new, atomicNew, hua, hub]
    grind

/-- Settles O15: past the checks of its target each operation takes its place among the accesses, or enters the withholding buffer; an
atomic's new element is its operand, its old element, or what the index makes of both. -/
theorem globalMemory : Obligations.GlobalMemory := ⟨gmLoadsAndStores, gmAtomicsAndDevice, atomicValues⟩

end Sys2Proof.Proofs
end

section
/-!
PROOFS. Statements of these families that fail, each at a state in which the model answers something else: where the drained row of
a stream goes (O23), answers to requests that come from no core (O31, O35), an access whose number stands twice (O33), a page command
behind an earlier one of its strand (O36), and a write of BAR0 behind a host write that is still on its way (O56).
-/
namespace Sys2Proof.Proofs

open Sys2Proof.Machine Sys2Proof.Laws Sys2Proof.Stmt

/-! ### A drained row that a stream takes (R247, R266) -/

/-- A drain beat of row 0 of bank 0. -/
def drainBeatRec : BeatRec := ⟨4, 0, 0, Latch.init, 0, 0, 0, 0⟩

/-- A row that a drain pushes to stream 0 is due with the pushes of its bundle. -/
theorem due_accDrain_stream : ((landFx State.reset 0 0 (.accDrain drainBeatRec false (.stream 0))).core 0).due =
    [⟨6, rPush, 0, .drainOut drainBeatRec AccRow.init (.stream 0)⟩] := by decide +kernel

theorem not_mxArrayEffects : ¬ Stmt.MxArrayEffects := by
  intro h
  obtain ⟨-, -, -, -, -, hdue⟩ := h State.reset 0 0 drainBeatRec 0 0 (.stream 0)
  have hmem := hdue false
  simp only [due_accDrain_stream] at hmem
  exact absurd hmem (by decide +kernel)

/-- Refutes O23: a drained row is due at t+6 among the drain writes only where its destination is no stream; one that a stream takes is
pushed in the bundle of that cycle, after the drain writes, while MxArrayEffects gives every destination the rank of the drain writes. -/
theorem not_matrixOperations : ¬ Obligations.MatrixOperations := fun h => not_mxArrayEffects h.1

/-! ### Answers to a source that is no core (R300) -/

/-- A packet from here whose source core is not that of the one packet which has joined those that wait here has not been sent. -/
theorem not_sentTo_of_loop {s u : State} {q : Packet} {n : Nat} (hhere : toHere s q = true)
    (hloop : u.fab.loop.map (·.score) = s.fab.loop.map (·.score) ++ [n]) (hq : q.score ≠ n) : ¬ SentTo s u q := by
  rintro (⟨-, hl, -⟩ | ⟨hn, -⟩)
  · rw [hl, List.map_append, List.append_cancel_left_eq] at hloop
    exact hq (List.singleton_inj.mp hloop)
  · exact Bool.noConfusion (hhere.symm.trans hn)

/-- The package (0, 0), whose context 0 has a heap of 2^19 bits at the start of region 1 that begins at physical address 0. -/
def heapHome : State :=
  { State.reset with
    fab := { Fabric.init with id := 0x8000000000000000#64 }
    hbm := [(7, 0x80), (14, 0x10), (18, 0x08), (22, 0x10), (30, 0xF0), (31, 0xFF), (38, 0xFF), (39, 0xFF)] }

/-- A load of 64 bits of that heap, from a source of this package that is no core and yet names core 1. -/
def corelessLoad : Packet := { Packet.blank with op := kLoad, nc := true, score := 1, len := 64, addr := 2 ^ 52 + 1024 }

/-- A completion notice from a source of this package that is no core and yet names core 1. -/
def corelessNotice : Packet := { Packet.blank with op := kNotice, nc := true, score := 1 }

theorem gives_loadRequest {s : State} {p : Packet} (h : Reaches s p kLoad) (ht : inTurn s p = true) :
    Gives (.loadRequest (.ext p)) s (remoteArrive (passSeq s p) p) := by
  change execLoadRequest (.ext p) s = _
  rw [execLoadRequest, arriveReq_of_reaches h ht]

theorem gives_completionNotice {s : State} {p : Packet} (h : Reaches s p kNotice) (ht : inTurn s p = true) :
    Gives (.completionNotice (.ext p)) s (noticeArrive (passSeq s p) p) := by
  change execCompletionNotice (.ext p) s = _
  rw [execCompletionNotice, arriveReq_of_reaches h ht]

theorem loop_corelessLoad :
    (remoteArrive (passSeq heapHome corelessLoad) corelessLoad).fab.loop.map (·.score) = [0] := by decide +kernel

/-- Refutes O31: a load that comes from no core (nc = 1) and names source core 1 all the same is answered with source core 0 (R300),
where the statement has the reply carry the request's source core. -/
theorem not_requestsOfMemory : ¬ Obligations.RequestsOfMemory := by
  intro h
  have hreach : Reaches heapHome corelessLoad kLoad := by unfold Reaches; decide
  have hturn : inTurn heapHome corelessLoad = true := by decide
  have hxlate : (Machine.translate (accepted heapHome corelessLoad) corelessLoad.tctx corelessLoad.addr gRemote 0 false).2 = .ok 1024 := by
    decide +kernel
  obtain ⟨hload, -⟩ := h heapHome (Machine.translate (accepted heapHome corelessLoad) corelessLoad.tctx corelessLoad.addr gRemote 0 false).1
    corelessLoad 1024 (by decide) (by decide) (by decide) (by decide) (by decide +kernel)
  obtain ⟨u, hu, -, -, hsent⟩ := hload ⟨hreach, hturn, rfl, by decide, by decide, rfl⟩ (Prod.ext rfl hxlate)
  obtain rfl : remoteArrive (passSeq heapHome corelessLoad) corelessLoad = u :=
    Host.Outcome.next.inj ((gives_loadRequest hreach hturn).symm.trans hu)
  exact not_sentTo_of_loop rfl loop_corelessLoad (by decide) hsent

theorem loop_corelessNotice :
    (noticeArrive (passSeq heapHome corelessNotice) corelessNotice).fab.loop.map (·.score) = [0] := by decide +kernel

theorem not_groupPackets : ¬ Stmt.GroupPackets := by
  intro h
  have hreach : Reaches heapHome corelessNotice kNotice := by unfold Reaches; decide
  have hturn : inTurn heapHome corelessNotice = true := by decide
  obtain ⟨-, -, hnotice⟩ := h heapHome corelessNotice hturn
  obtain ⟨u, hu, -, hsent, -⟩ := hnotice hreach
  obtain rfl : noticeArrive (passSeq heapHome corelessNotice) corelessNotice = u :=
    Host.Outcome.next.inj ((gives_completionNotice hreach hturn).symm.trans hu)
  exact not_sentTo_of_loop rfl loop_corelessNotice (by decide) hsent

/-- Refutes O35: a completion notice that comes from no core (nc = 1) and names source core 1 all the same is acknowledged with source
core 0 (R300), where GroupPackets has the acknowledgement carry the request's source core. -/
theorem not_fullerPackets : ¬ Obligations.FullerPackets := fun h => not_groupPackets h.1

/-! ### An access whose number stands twice (R305) -/

/-- A load of core 0 through a window, sent, for G1. -/
def sentLoad : Acc := { accBase State.reset 0 with op := .rld 1, addr := 2 ^ 55, reg := 1, sent := true }

/-- Core 0 has a load on its way whose deadline is due, a wake under the same number, and a bundle to issue. -/
def listedLoad : State :=
  { State.reset with
    cores := [(0, { Core.init with
      half0 := ⟨some 0, true, false, false⟩
      due := [⟨0, rPush, 0, .rld 0⟩]
      accs := [sentLoad, { sentLoad with op := .nsig }] })] }

theorem gives_rldDeadline {s : State} {c : Nat} {w : BitVec 192} (h : fetchAt s c = .ok w) :
    Gives (.rldDeadline c) s (passInIssue s c w) := by
  change execRldDeadline c s = _
  rw [execRldDeadline, h]

theorem outstanding_passInIssue_listedLoad : outstanding ((passInIssue listedLoad 0 0).core 0) = 2 := by decide +kernel

theorem taggedAcc_listedLoad : taggedAcc (listedLoad.core 0) 0 = some sentLoad := by decide +kernel

theorem findAcc_listedLoad : findAcc (listedLoad.core 0) 0 = some sentLoad := by decide +kernel

/-- Refutes O33: where a load and a wake stand under one number, the deadline puts the poisoned load in the place of both, so that one
request more is outstanding, while the statement, which does not ask that numbers differ, has as many as before. -/
theorem not_answersAtSource : ¬ Obligations.AnswersAtSource := by
  intro h
  have hfetch : fetchAt listedLoad 0 = .ok 0 := by decide +kernel
  obtain ⟨hload, -⟩ := h listedLoad Packet.blank sentLoad 1 rfl taggedAcc_listedLoad rfl rfl
  obtain ⟨-, -, -, hdeadline⟩ := hload rfl
  obtain ⟨-, hpass⟩ := hdeadline ⟨0, rPush, 0, .rld 0⟩ [] 0 findAcc_listedLoad rfl rfl (by decide) (by simp) hfetch
  obtain ⟨u, hu, -, -, -, hout⟩ := hpass (by decide +kernel)
  obtain rfl : passInIssue listedLoad 0 0 = u := Host.Outcome.next.inj ((gives_rldDeadline hfetch).symm.trans hu)
  exact absurd (outstanding_passInIssue_listedLoad.symm.trans hout) (by decide +kernel)

/-! ### A page command behind an earlier one of its strand (R332) -/

/-- A lock of expert 0 as the first strand of team 0 sends it, at place `n` of the package's queues. -/
def lockCmd (n : Nat) : XpCmd := { op := 4, ctx := 0, core := 0, team := 0, tcore := 0, tag := 0, place := 0, seq := n, words := [0] }

/-- Expert 0 is resident; in the queue of die 0 a lock stands before the lock that its strand sent earlier. -/
def lockedBehind : State :=
  { State.reset with
    xp := { Experts.init with res := [(0, { Resid.init with valid := true, st := 2 })], cmds := [(0, [lockCmd 1, lockCmd 0])] } }

theorem acceptCmd_lockedBehind : acceptCmd lockedBehind 0 0 = lockedBehind := by
  have hbehind : cmdBehind lockedBehind (lockCmd 1) = true := by decide +kernel
  simp [acceptCmd, lockedBehind, takeNth, tab_get_cons] at hbehind ⊢
  simp [hbehind]

theorem not_expertTables : ¬ Stmt.ExpertTables := by
  intro h
  obtain ⟨hcmd, -⟩ := h lockedBehind 0 0
  obtain ⟨hlock, -⟩ := hcmd (lockCmd 1) [lockCmd 0] rfl (by decide +kernel) (by decide +kernel) (by decide) (by decide)
  obtain ⟨u, hu, -, -, hrest⟩ := hlock rfl (by decide) (by decide) rfl rfl
  obtain rfl : acceptCmd lockedBehind 0 0 = u := Host.Outcome.next.inj hu
  rw [acceptCmd_lockedBehind] at hrest
  exact absurd hrest (by decide)

/-- Refutes O36: a page command that heads its queue waits while a command of its strand that was sent earlier to the same table stands
in a queue of the package (R332); ExpertTables asks only for the accesses and walks before it. -/
theorem not_expertEngines : ¬ Obligations.ExpertEngines := fun h => not_expertTables h.2

/-! ### A host write that is still on its way (R61) -/

/-- Port 0 is up and the device ready, and a part of an earlier host write of 64 bits at address 0 is on its way. -/
def lateWrite : State :=
  { State.reset with hl := { HostLink.init with ready := true, port := [(0, { HPort.init with up := true })], late := [(0, 0, 0, 64, 1)] } }

/-- A write of 0 to the first register of BAR0. -/
def bar0Write : HostAcc := ⟨0, true, 0, 8, 0⟩

theorem late_bar0_lateWrite : (bar0 lateWrite bar0Write).hl.late = [] := by decide +kernel

theorem late_agentWrite_lateWrite : (agentWrite lateWrite (.host 0) 0xE0000000000000 0).hl.late = [(0, 0, 0, 64, 1)] := by decide +kernel

theorem not_configAndRegisters : ¬ Stmt.ConfigAndRegisters := by
  intro h
  obtain ⟨-, -, -, hbar0, -⟩ := h lateWrite bar0Write (by decide)
  obtain ⟨-, hwrite, -⟩ := hbar0 (by decide)
  have hstate : bar0 lateWrite bar0Write = _ := Host.Outcome.next.inj (hwrite rfl rfl rfl)
  have hlate := congrArg (fun u : State => u.hl.late) hstate
  exact absurd (late_bar0_lateWrite.symm.trans (hlate.trans late_agentWrite_lateWrite)) (by decide)

/-- Refutes O56: parts of earlier host writes perform before a write of BAR0 takes effect (R61), while ConfigAndRegisters has the write
act on the state as it was; HostMemory, of the other BARs, speaks of that rule. -/
theorem not_hostAccesses : ¬ Obligations.HostAccesses := fun h => not_configAndRegisters h.1

end Sys2Proof.Proofs
end

section
/-!
PROOFS. What reset leaves (O1) and the power controller's ticks (O57).
-/
namespace Sys2Proof.Proofs

open Sys2Proof.Machine Sys2Proof.Laws Sys2Proof.Stmt

/-- Settles O1: every table is empty at reset, so each lookup answers its initial entry. -/
theorem resetState : Obligations.ResetState := by
  refine ⟨rfl, rfl, fun _ => rfl, rfl, rfl, rfl, rfl, rfl, fun b => ?nb, fun i => ?bar, fun _ => rfl, fun _ _ => rfl, fun _ _ => rfl⟩
  case nb =>
    rw [show nbWord State.reset b = 0 from rfl]
    decide
  case bar =>
    rw [show Tab.get 0 State.reset.sync.barCtx i = 0 from rfl]
    decide

/-! ### Every die at once (R386) -/

/-- The dispatchers of the dies in a list, each changed by itself. -/
def eachDie (s : State) (f : Nat → Disp → Disp) (ds : List Nat) : State := ds.foldl (fun s d => s.setDie d (f d (s.die d))) s

theorem eachDie_eq (s : State) (f : Nat → Disp → Disp) (ds : List Nat) :
    eachDie s f ds = { s with disp := (eachDie s f ds).disp } := by
  induction ds generalizing s with
  | nil => rfl
  | cons d ds ih => exact ih (s.setDie d (f d (s.die d)))

theorem die_eachDie (s : State) (f : Nat → Disp → Disp) {ds : List Nat} (hnd : ds.Nodup) (k : Nat) :
    (eachDie s f ds).die k = if k ∈ ds then f k (s.die k) else s.die k := by
  induction ds generalizing s with
  | nil => rfl
  | cons d ds ih =>
    obtain ⟨hd, hnd⟩ := List.nodup_cons.mp hnd
    change (eachDie (s.setDie d (f d (s.die d))) f ds).die k = _
    rw [ih _ hnd, setDie_die_get]
    by_cases hk : k = d
    · subst hk
      simp [hd]
    · simp [hk]

theorem die_allDies (s : State) (f : Nat → Disp → Disp) {d : Nat} (hd : d < 4) : (eachDie s f (span 0 4)).die d = f d (s.die d) := by
  rw [die_eachDie s f (by decide), if_pos (mem_span.mpr (by omega))]

theorem askLevels_eachDie (s : State) (f : Disp → Nat) : askLevels s f = eachDie s (fun _ x => { x with want := f x }) (span 0 4) := rfl

theorem die_askLevels (s : State) (f : Disp → Nat) {d : Nat} (hd : d < 4) :
    (askLevels s f).die d = { s.die d with want := f (s.die d) } := by
  rw [askLevels_eachDie, die_allDies _ _ hd]

theorem askLevels_eq (s : State) (f : Disp → Nat) : askLevels s f = { s with disp := (askLevels s f).disp } := by
  rw [askLevels_eachDie]
  exact eachDie_eq ..

theorem askLevels_pow (s : State) (f : Disp → Nat) : (askLevels s f).pow = s.pow := by rw [askLevels_eq]

/-! ### Samples -/

theorem die_setPow (s : State) (p : Power) (d : Nat) : State.die { s with pow := p } d = s.die d := rfl

/-- The state with the dies' temperatures taken over. -/
def withTemps (s : State) (t : List Nat) : State := eachDie s (fun d x => { x with temp := (t[d]?).getD 0 }) (span 0 4)

/-- The state with a sample of power taken over. -/
def withSample (s : State) (t : List Nat) (w : Nat) : State :=
  { withTemps s t with pow := { s.pow with samples := (w :: s.pow.samples).take 1000, sampled := s.fe.time } }

section
variable {s : State} {w : Nat} {t : List Nat}

theorem withTemps_eq (s : State) (t : List Nat) : ∃ x, withTemps s t = { s with disp := x } := ⟨_, eachDie_eq ..⟩

theorem withSample_hbm : (withSample s t w).hbm = s.hbm := by
  obtain ⟨x, hx⟩ := withTemps_eq s t
  rw [withSample, hx]

theorem withSample_pow :
    (withSample s t w).pow = { s.pow with samples := (w :: s.pow.samples).take 1000, sampled := s.fe.time } := by rw [withSample]

theorem die_withSample {d : Nat} (hd : d < 4) : (withSample s t w).die d = { s.die d with temp := (t[d]?).getD 0 } := by
  rw [withSample, die_setPow, withTemps, die_allDies _ _ hd]

theorem samplePower_eq : samplePower s w t = if t.any (fun x => decide (ttrip s < x)) then
      askLevels { withSample s t w with
        pow := { (withSample s t w).pow with hot := some (s.pow.hot.getD s.fe.time) } } (fun _ => 48)
    else { withSample s t w with pow := { (withSample s t w).pow with hot := none } } := by
  have htemps : (span 0 4).foldl (fun s d => s.setDie d { s.die d with temp := (t[d]?).getD 0 }) s = withTemps s t := rfl
  obtain ⟨x, hx⟩ := withTemps_eq s t
  rw [samplePower, htemps, withSample, hx]
  rfl

theorem samplePower_hot (h : t.any (fun x => decide (ttrip s < x)) = true) : samplePower s w t =
    askLevels { withSample s t w with
      pow := { (withSample s t w).pow with hot := some (s.pow.hot.getD s.fe.time) } } (fun _ => 48) := by
  rw [samplePower_eq, if_pos h]

theorem samplePower_cool (h : t.any (fun x => decide (ttrip s < x)) = false) : samplePower s w t =
    { withSample s t w with pow := { (withSample s t w).pow with hot := none } } := by
  rw [samplePower_eq, if_neg (by rw [h]; decide)]

/-- A sample, and the temperatures of the four dies, whatever they are. -/
theorem samplePower_takes : (samplePower s w t).pow.samples = (w :: s.pow.samples).take 1000 ∧
    (samplePower s w t).pow.sampled = s.fe.time ∧ (samplePower s w t).hbm = s.hbm ∧
    ∀ d, d < 4 → ((samplePower s w t).die d).temp = (t[d]?).getD 0 := by
  cases h : t.any (fun x => decide (ttrip s < x)) with
  | true =>
    rw [samplePower_hot h]
    refine ⟨by rw [askLevels_pow, withSample_pow], by rw [askLevels_pow, withSample_pow], ?_, fun d hd => ?_⟩
    · rw [askLevels_hbm, withSample_hbm]
    · rw [die_askLevels _ _ hd, die_setPow, die_withSample hd]
  | false =>
    rw [samplePower_cool h]
    dsimp only
    rw [withSample_pow]
    exact ⟨rfl, rfl, withSample_hbm, fun d hd => by rw [die_setPow, die_withSample hd]⟩

end

/-! ### Time since an event -/

theorem since_iff (s : State) (t : Word) (n : Nat) : since s t n = true ↔ t.toNat + n ≤ s.fe.time.toNat := decide_eq_true_iff

theorem since_false {s : State} {t : Word} {n : Nat} (h : s.fe.time.toNat < t.toNat + n) : since s t n = false :=
  decide_eq_false (Nat.not_le.mpr h)

theorem trip_trips {s : State} {t : Word} (hhot : s.pow.hot = some t) (htrip : s.pow.tripped = false)
    (hsince : t.toNat + 10000000 ≤ s.fe.time.toNat) : (trip s).pow.tripped = true ∧ (trip s).cores = s.cores := by
  have hnow : since s t 10000000 = true := (since_iff _ _ _).mpr hsince
  simp only [trip, hhot, htrip, hnow, Bool.not_true, Bool.or_self, Bool.false_eq_true, if_false]
  exact ⟨by rw [(logged_logErr _ _ _ _ _ _ _).eq], by rw [(logged_logErr _ _ _ _ _ _ _).eq]; rfl⟩

/-- Settles O57: a tick that is not due changes nothing, and one that is due asks every die for its new level. -/
theorem powerControl : Obligations.PowerControl := by
  intro s w t0 t1 t2 t3 d hd now x
  have hany : [t0, t1, t2, t3].any (fun x => decide (ttrip s < x)) = true ↔
      ttrip s < t0 ∨ ttrip s < t1 ∨ ttrip s < t2 ∨ ttrip s < t3 := by simp
  refine ⟨fun h => ?sample, fun h => ?early, fun ha h => ?raise, fun h => ?noRaise, fun hb hh h => ?lower, fun h => ?noLower,
    fun ht h => ?floorUp, fun ht h => ?floorDown, fun h1 h2 => ?floorStays, fun t hh ht h => ?trips, fun h => ?noTrip⟩
  case sample =>
    obtain ⟨hsamples, hsampled, hhbm, htemp⟩ := samplePower_takes (s := s) (w := w) (t := [t0, t1, t2, t3])
    refine ⟨samplePower s w [t0, t1, t2, t3], ?_, hsamples, hsampled, sameMemory_of_hbm hhbm, htemp 0 (by decide), htemp 1 (by decide),
      htemp 2 (by decide), htemp 3 (by decide), fun hhot => ?_, fun h0 h1 h2 h3 => ?_⟩
    · exact congrArg Host.Outcome.next (if_pos ((since_iff _ _ _).mpr h))
    · rw [samplePower_hot (hany.mpr hhot), die_askLevels _ _ hd, askLevels_pow]
      exact ⟨rfl, rfl⟩
    · rw [samplePower_cool (Bool.eq_false_iff.mpr (mt hany.mp (by omega)))]
      exact ⟨by rw [die_setPow, die_withSample hd], rfl⟩
  case early => exact congrArg Host.Outcome.next (if_neg (by rw [since_false h]; decide))
  case raise =>
    refine ⟨_, congrArg Host.Outcome.next (if_pos ?_), ?_, ?_, ?_⟩
    · rw [ha, (since_iff _ _ _).mpr h]; rfl
    · rw [die_askLevels _ _ hd]; rfl
    · rw [askLevels_pow]
    · rw [die_askLevels _ _ hd]; rfl
  case noRaise =>
    refine congrArg Host.Outcome.next (if_neg ?_)
    rcases h with h | h
    · rw [h]; exact Bool.false_ne_true
    · rw [since_false h, Bool.and_false]; exact Bool.false_ne_true
  case lower =>
    refine ⟨_, congrArg Host.Outcome.next (if_pos ?_), ?_, ?_⟩
    · rw [hb, hh, (since_iff _ _ _).mpr h]; rfl
    · rw [die_askLevels _ _ hd]; rfl
    · rw [askLevels_pow]
  case noLower =>
    refine congrArg Host.Outcome.next (if_neg ?_)
    rcases h with h | h | h
    · rw [h]; exact Bool.false_ne_true
    · rw [Option.isNone_eq_false_iff.mpr (Option.isSome_iff_ne_none.mpr h), Bool.and_false]; exact Bool.false_ne_true
    · rw [since_false h, Bool.and_false]; exact Bool.false_ne_true
  case floorUp =>
    refine congrArg Host.Outcome.next ?_
    dsimp only
    rw [if_pos ht, if_pos ((since_iff _ _ _).mpr h)]
  case floorDown =>
    refine congrArg Host.Outcome.next ?_
    dsimp only
    rw [if_neg (show ¬ tthrot s < x.temp by omega), if_pos ht, if_pos ((since_iff _ _ _).mpr h)]
  case floorStays =>
    refine congrArg Host.Outcome.next ?_
    dsimp only
    rw [if_neg (show ¬ tthrot s < x.temp by omega), if_neg (show ¬ x.temp + 5 < tthrot s by omega)]
  case trips => exact ⟨_, rfl, trip_trips hh ht h⟩
  case noTrip =>
    refine congrArg Host.Outcome.next ?_
    unfold trip
    split
    · rfl
    next t hhot =>
      have htrip : s.pow.tripped = true := h.resolve_left (by rw [hhot]; exact Option.some_ne_none t)
      rw [htrip]
      rfl

end Sys2Proof.Proofs
end

section
/-!
PROOFS. An arrival at a barrier: a host write, SY.hbar and RM.bar arrive by one step (O59).
-/
namespace Sys2Proof.Proofs

open Sys2Proof.Machine Sys2Proof.Laws Sys2Proof.Stmt

/-! ### The words of a barrier (R367, R368) -/

section
variable {s : State} {ag : Agent} {i n : Nat}

theorem fld_wordN_low (hi n : Nat) (h : hi < 64) : fld (wordN n) hi 0 = n % 2 ^ (hi + 1) := by
  rw [fld_low, wordN, BitVec.toNat_ofNat, Nat.mod_mod_of_dvd _ (Nat.pow_dvd_pow 2 (by omega))]

theorem barAddr_eq (i k : Nat) : barAddr i k = 0xE0000000000000 + 64 * devWord (.bar i k) := by
  simp only [barAddr, devBase, devWord]
  omega

theorem gives_barrierArrive (hr : agentRuns s ag = true) (hi : i < 4096) :
    Gives (.barrierArrive ag i n) s (if n % 65536 = 0 then s else (barrierArriveAt s i (n % 65536)).1) := by
  have hfld : fld (wordN (n % 65536)) 15 0 = n % 65536 := by rw [fld_wordN_low _ _ (by decide)]; omega
  have hw : writeDev s ag (.bar i 1) (wordN (n % 65536)) =
      .ok (if n % 65536 = 0 then s else (barrierArriveAt s i (n % 65536)).1) := by
    change WRes.ok (if fld (wordN (n % 65536)) 15 0 = 0 then s else (barrierArriveAt s i (fld (wordN (n % 65536)) 15 0)).1) = _
    rw [hfld]
  change Gives (.registerWrite ag (barAddr i 1) (wordN (n % 65536))) s _
  rw [barAddr_eq]
  exact gives_of_writeDev_ok (.bar i 1) hr ⟨hi, by decide⟩ rfl hw

end

/-! ### Local writes that perform before an arrival leave the barriers and the strands (R191, R245) -/

/-- The notify registers and barriers, and the team on each core. -/
def arrivals (s : State) : Sync × (Nat → Option Nat) := (s.sync, fun k => (s.core k).team)

theorem arrivals_setCore {s : State} {c : Nat} {x : Core} (h : x.team = (s.core c).team) : arrivals (s.setCore c x) = arrivals s := by
  refine Prod.ext rfl (funext fun k => ?_)
  simp only [arrivals, setCore_core_get]
  split
  next hk => rw [hk, h]
  next => rfl

theorem arrivals_onCore {f : Core → Core} (hf : ∀ x, (f x).team = x.team) (s : State) (c : Nat) :
    arrivals (s.onCore c f) = arrivals s := arrivals_setCore (hf _)

theorem arrivals_of_logged {s u : State} (h : Logged s u) : arrivals u = arrivals s := by
  simp only [arrivals, h.core]
  rw [h.eq]

theorem arrivals_logWords (s : State) (c : Nat) (ws : List Nat) : arrivals (logWords s c ws) = arrivals s :=
  List.foldlRecOn (motive := fun u => arrivals u = arrivals s) ws _ rfl fun u hu w _ =>
    (arrivals_of_logged (logged_logCore u c eEcc (64 * w))).trans hu

theorem arrivals_spStore (s : State) (c o n v : Nat) : arrivals (spStore s c o n v) = arrivals s :=
  (arrivals_logWords ..).trans (arrivals_setCore rfl)

theorem arrivals_spRmw (s : State) (c o n : Nat) (f : Nat → Nat) : arrivals (spRmw s c o n f).1 = arrivals s :=
  (arrivals_logWords ..).trans (arrivals_setCore rfl)

theorem arrivals_landEarly (s : State) (c : Nat) {d : Due} (hd : isNearFx d.fx = true) : arrivals (landEarly s c d) = arrivals s := by
  obtain ⟨at_, rank, iss, fx⟩ := d
  unfold landEarly
  have hearly : arrivals (s.onCore c (fun x => { x with
      early := (at_, (nearRange fx).1, (nearRange fx).2, spadGet x.spad (nearRange fx).1 (nearRange fx).2) :: x.early })) =
      arrivals s := arrivals_onCore (fun _ => by rfl) s c
  dsimp only
  generalize s.onCore c _ = u at hearly ⊢
  rw [← hearly]
  cases fx
  case spWrite o len v ben =>
    cases ben with
    | none => exact arrivals_spStore u c o len v.toNat
    | some m => exact (arrivals_logWords ..).trans (arrivals_setCore rfl)
  case spSwap copy o len v => exact (arrivals_onCore (fun _ => by rfl) _ c).trans (arrivals_spRmw u c o len (fun _ => v.toNat))
  case spBor o len v => exact arrivals_spRmw u c o len _
  case outSpad k o len v => exact arrivals_spStore u c o len v.toNat
  all_goals exact absurd hd Bool.false_ne_true

theorem arrivals_settle (s : State) (c : Nat) (b : Acc) : arrivals (settle s c b) = arrivals s := by
  unfold settle
  dsimp only
  split
  · exact List.foldlRecOn (motive := fun u => arrivals u = arrivals s) _ _ (arrivals_onCore (fun _ => by rfl) s c) fun u hu _ hd =>
      (arrivals_landEarly u c (List.mem_filter.mp hd).2).trans hu
  · rfl

/-! ### The arrival -/

theorem sync_recordArrival (s : State) (c : Nat) (a : Acc) (g : Option (Nat × Nat)) : (recordArrival s c a g).sync = s.sync := rfl

theorem barrierArriveAt_congr {s t : State} (h : s.sync = t.sync) (i u : Nat) :
    (barrierArriveAt s i u).1.sync = (barrierArriveAt t i u).1.sync ∧ (barrierArriveAt s i u).2 = (barrierArriveAt t i u).2 := by
  simp only [barrierArriveAt, setBarrier, barrierOf, h, and_self]

/-- Settles O59: the three arrivals run `barrierArriveAt`, whose loop over full needs is one division. -/
theorem barrierArrivals : Obligations.BarrierArrivals := by
  refine ⟨fun s i u => ⟨rfl, rfl⟩, fun b u hneed _ => ?loop, fun s ag i u hr hi h0 hu => ?write, ?hbar, ?packet⟩
  case loop => rw [arriveAt, if_neg hneed.ne']
  case write =>
    have h := gives_barrierArrive (s := s) (ag := ag) (n := u) hr hi
    rwa [Nat.mod_eq_of_lt hu, if_neg h0.ne'] at h
  case hbar =>
    intro s c id a hf hiss hb hgot hparked herr hdead hop hown hteam
    have hsame := arrivals_settle s c a
    have hsync : (settle s c a).sync = s.sync := congrArg Prod.fst hsame
    have hteam' : ((settle s c a).core c).team = some a.team := (congrFun (congrArg Prod.snd hsame) c).trans hteam
    have hown' : barOwned (settle s c a) a.addr a.ctx = true := by rw [barOwned, hsync]; exact hown
    obtain ⟨harrive, hgen⟩ := barrierArriveAt_congr hsync a.addr a.len
    have hgives := gives_performs hf hb hop (op := .hbar) hiss
    rw [performAcc_hbar hop hown'] at hgives
    refine ⟨_, hgives, harrive, ?_⟩
    exact (recordArrival_arrival hteam').trans (congrArg (fun g => some (a.addr, g)) hgen)
  case packet =>
    intro s p hreach hturn haddr hown
    refine ⟨_, gives_barrierArrival hreach hturn haddr hown, ?_⟩
    obtain ⟨-, n, f, hu⟩ := sendPacket_answer_cases (p := answerOf s p kAck 0)
      (s := (barrierArriveAt (passSeq s p) (bits p.addr 11 0) (p.data.toNat % 2 ^ 16)).1) rfl hreach.1
    change (sendPacket _ (answerOf s p kAck 0)).sync = _
    rw [hu]
    exact (barrierArriveAt_congr (s := passSeq s p) rfl _ _).1

end Sys2Proof.Proofs
end

section
/-!
PROOFS. The system unit: return from the handler, cause, system registers (O27), notify registers and barriers as strands use them
(O28).
-/
namespace Sys2Proof.Proofs

open Sys2Proof.Machine Sys2Proof.Laws Sys2Proof.Stmt

/-! ### What a release leaves of the front end (R177, R186) -/

theorem foldl_fe {α : Type} {f : State → α → State} (hf : ∀ s a, (f s a).fe = s.fe) (l : List α) (s : State) :
    (l.foldl f s).fe = s.fe :=
  List.foldlRecOn (motive := fun u : State => u.fe = s.fe) l _ rfl fun u hu a _ => (hf u a).trans hu

theorem sendCredits_fe (s : State) (dom mem handle n : Nat) : (sendCredits s dom mem handle n).fe = s.fe := by
  unfold sendCredits
  rw [sendPacket_answer rfl]
  split
  · rfl
  · obtain ⟨n, q, v, g, he⟩ := enqueue_cases s (answerForm { blankPacket s with
      tier := 0, resp := true, op := kCredit, tdom := dom, tmem := mem, nc := true, x7 := flowWord handle, data := wordN n })
    rw [he]

theorem creditBack_fe (s : State) (ctx key n : Nat) : (creditBack s ctx key n).fe = s.fe := by
  unfold creditBack
  split
  · split
    · exact foldl_fe (fun _ _ => sendCredits_fe ..) _ s
    · rfl
  · rfl

theorem freeRows_fe (s : State) (c n : Nat) : (freeRows s c n).fe = s.fe := by
  unfold freeRows
  dsimp only
  split
  · rfl
  · exact creditBack_fe ..

theorem release_fe (s : State) (c : Nat) : (release s c).fe = s.fe := by
  have hstores : (releaseStores s c).fe = s.fe := by
    unfold releaseStores
    exact foldl_fe (fun _ _ => pushAcc_fe ..) _ _
  have hconsumes : (releaseConsumes (releaseStores s c) c).fe = (releaseStores s c).fe := by
    unfold releaseConsumes
    exact foldl_fe (fun _ _ => pushAcc_fe ..) _ _
  have hrows := foldl_fe (f := fun s n => (freeRows s c n).onCore c (fun x => releaseRows x.cyc x n)) (fun s n => freeRows_fe s c n)
    (span 0 8) (releaseConsumes (releaseStores s c) c)
  have hall := hrows.trans (hconsumes.trans hstores)
  unfold release
  dsimp only
  split
  · rw [onCore_fe]
    exact hall
  · exact hall

theorem ctxOf_congr {s u : State} {c : Nat} (hteam : (u.core c).team = (s.core c).team) (hfe : u.fe = s.fe) : ctxOf u c = ctxOf s c := by
  simp only [ctxOf, hteam, State.req, State.team, hfe]

theorem ctxOf_release (s : State) (c : Nat) : ctxOf (release s c) c = ctxOf s c := by
  obtain ⟨hreleased, -, -⟩ := release_released s c
  exact ctxOf_congr (by rw [hreleased.own.core]) (release_fe s c)

/-! ### Return from the handler (R373) -/

/-- The core after the return: `x` with its writes released, at the resume point, which stays, with its registers the checkpoint
state. -/
theorem core_returned (s : State) (c rm : Nat) :
    (((endRte (returnTrap s c rm) c (((returnTrap s c rm).core c).cyc + 1)).onCore c takeSel).core c) =
      (let y := (release s c).core c
       let z := { y with mode := rteMode y rm (ctxOf s c), shielded := false, sel := none, run := if leaveAtRte (release s c) c then .yielded else y.run }
       { recordCkpt z y.ck.pc (y.cyc + 1) with pc := y.ck.pc }) := by
  simp only [endRte, returnTrap, onCore_core_get, if_true, ctxOf_release]
  rfl

theorem rteMode_user (x : Core) (ctx : Nat) : rteMode x 2 ctx = .user := rfl

theorem rteMode_priv (x : Core) : rteMode x 1 0 = .priv := rfl

theorem rteMode_kept {x : Core} {rm ctx : Nat} (h : rm = 0 ∨ rm = 3 ∨ (rm = 1 ∧ ctx ≠ 0)) : rteMode x rm ctx = x.tmode := by
  rcases h with rfl | rfl | ⟨rfl, hctx⟩
  · rfl
  · rfl
  · exact if_neg hctx

section
variable {t : Trig} {s : State}

theorem withHandler_in (h : (s.core t.core).mode = .handler) (k : Unit → Res) : withHandler t s k = k () := if_pos h

theorem withHandler_out (h : (s.core t.core).mode ≠ .handler) (k : Unit → Res) : withHandler t s k = .trap (trapPriv t.slot) :=
  if_neg h

theorem gives_syRte (h : (s.core t.core).mode = .handler) : Gives (.syRte t) s
    ((endRte (returnTrap s t.core (t.y.toNat % 4)) t.core (((returnTrap s t.core (t.y.toNat % 4)).core t.core).cyc + 1)).onCore
      t.core takeSel) := by
  change execSyRte t s = _
  rw [execSyRte, opSyRte, withHandler_in h]
  rfl

end

theorem syHandler : Stmt.SyHandler := by
  intro t s c x rm
  refine ⟨fun h => ⟨⟨_, gives_syRte h, ?memory, ?core⟩, ?tinfo⟩, fun h => ⟨?rteTrap, ?tinfoTrap⟩⟩
  case memory =>
    refine sameMemory_of_hbm ?_
    simp only [endRte, onCore_hbm, returnTrap_hbm]
  case core =>
    obtain ⟨hreleased, hwb, -⟩ := release_released s c
    have hown := hreleased.own.core
    rw [core_returned]
    generalize (release s t.core).core t.core = y at hown hwb ⊢
    rw [hown]
    refine ⟨rfl, rfl, rfl, rfl, rfl, hwb, fun h2 => ?user, fun h1 hctx => ?priv, fun hkeep => rteMode_kept hkeep⟩
    case user => exact congrArg (fun n => rteMode _ n _) h2
    case priv => exact congrArg₂ (fun n k => rteMode _ n k) h1 hctx
  case tinfo =>
    change finish s t.core (opSyTinfo t s) = _
    rw [opSyTinfo, withHandler_in h]
    rfl
  case rteTrap =>
    change execSyRte t s = _
    rw [execSyRte, opSyRte, withHandler_out h]
    rfl
  case tinfoTrap =>
    change finish s t.core (opSyTinfo t s) = _
    rw [opSyTinfo, withHandler_out h]
    rfl

/-! ### System registers (R375) -/

section
variable {t : Trig} {s : State}

theorem withPriv_ok (h : (s.core t.core).privileged = true) (k : State → Res) : withPriv t s k = k s := if_pos h

theorem withPriv_trap (h : (s.core t.core).privileged = false) (k : State → Res) : withPriv t s k = .trap (trapPriv t.slot) :=
  if_neg (by rw [h]; exact Bool.false_ne_true)

theorem srValue_shielded (s : State) (c i : Nat) : srValue ((shielded s c).core c) i = srValue (s.core c) i := by
  unfold shielded
  split
  · rw [onCore_core_get, if_pos rfl]; rfl
  · rfl

theorem opSySrd_ckpt (h : t.ckpt = true) : opSySrd t s =
    if 4 ≤ t.y.toNat % 256 then .trap (trapIllegal t.slot)
    else withPriv t (shielded s t.core) fun u => .done (plan u t.core 3 rReg (.lat lSY (srValue (u.core t.core) (t.y.toNat % 256)))) := by
  rw [opSySrd, withCkpt_shields h]
  rfl

theorem opSySwr_ckpt (h : t.ckpt = true) : opSySwr t s =
    if 4 ≤ (portOf t s pSYk).toNat % 256 then .trap (trapIllegal t.slot)
    else withPriv t (shielded s t.core) fun u => .done (plan u t.core 2 rReg (.srWrite ((portOf t s pSYk).toNat % 256) t.y)) := by
  rw [opSySwr, withCkpt_shields h, syK, portOf_shielded]
  rfl

theorem srPut_load {x : Core} {v : Word} : srPut x 1 v = if 256 ≤ v.toNat % 2 ^ 24 then { x with cdload := v.toNat % 2 ^ 24 } else x :=
  rfl

end

theorem sySystemRegisters : Stmt.SySystemRegisters := by
  intro t s c i j u
  have hsrd : exec (.sySrd t) s = finish s c (opSySrd t s) := rfl
  have hswr : exec (.sySwr t) s = finish s c (opSySwr t s) := rfl
  refine ⟨fun hck hp => ?acts, fun hck => ?range, fun hck hp => ?priv, fun hck => ?none, fun x v => ?fields⟩
  case acts =>
    have hp' : ((shielded s t.core).core t.core).privileged = true := (shielded_privileged s t.core t.core).trans hp
    refine ⟨fun hi => ?_, fun hj => ?_⟩
    · rw [Gives, hsrd, opSySrd_ckpt hck, if_neg (Nat.not_le.mpr hi), withPriv_ok hp', srValue_shielded]
      rfl
    · rw [Gives, hswr, opSySwr_ckpt hck, if_neg (Nat.not_le.mpr hj), withPriv_ok hp']
      rfl
  case range =>
    refine ⟨fun hi => ?_, fun hj => ?_⟩
    · rw [Gives, hsrd, opSySrd_ckpt hck, if_pos hi]
      rfl
    · rw [Gives, hswr, opSySwr_ckpt hck, if_pos hj]
      rfl
  case priv =>
    have hp' : ((shielded s t.core).core t.core).privileged = false := (shielded_privileged s t.core t.core).trans hp
    refine ⟨fun hi => ?_, fun hj => ?_⟩
    · rw [Gives, hsrd, opSySrd_ckpt hck, if_neg (Nat.not_le.mpr hi), withPriv_trap hp']
      rfl
    · rw [Gives, hswr, opSySwr_ckpt hck, if_neg (Nat.not_le.mpr hj), withPriv_trap hp']
      rfl
  case none =>
    refine ⟨?_, ?_⟩
    · rw [Gives, hsrd, opSySrd, withCkpt_illegal hck]
      rfl
    · rw [Gives, hswr, opSySwr, withCkpt_illegal hck]
      rfl
  case fields =>
    refine ⟨fun h => srPut_load.trans (if_pos h), fun h => srPut_load.trans (if_neg (Nat.not_le.mpr h)), rfl, rfl, rfl, ?_, rfl, rfl, rfl⟩
    cases hrun : x.cdRun
    · simp [srValue, hrun, b2n]
    · simp [srValue, hrun, b2n, Nat.add_comm]

/-- Settles O27: a return is a release, the new mode and a checkpoint of the current registers; the system registers go by rank, right
and range in the order of R350. -/
theorem systemUnit : Obligations.SystemUnit := ⟨syHandler, sySystemRegisters⟩

/-! ### Notify registers (R363, R369 to R371) -/

section
variable {t : Trig} {s : State}

/-- The register that the ports of the trigger name. -/
theorem syReg_eq (t : Trig) (s : State) : syReg t s = 256 * ((portOf t s pSYk).toNat % 256) + t.y.toNat % 256 := rfl

theorem block_syReg (t : Trig) (s : State) :
    syReg t s / 256 = (portOf t s pSYk).toNat % 256 ∧ syReg t s % 256 = t.y.toNat % 256 := by
  rw [syReg_eq]
  omega

theorem withBlock_owned (h : nbOwned s ((portOf t s pSYk).toNat % 256) (ctxOf s t.core) = true) (k : Nat → Res) :
    withBlock t s k = k (syReg t s) := by
  rw [withBlock, (block_syReg t s).1]
  exact if_pos h

theorem withBlock_foreign (h : nbOwned s ((portOf t s pSYk).toNat % 256) (ctxOf s t.core) = false) (k : Nat → Res) :
    withBlock t s k = .trap (trapSy t.slot (notifyAddr (syReg t s))) := by
  rw [withBlock, (block_syReg t s).1]
  exact if_neg (by rw [h]; exact Bool.false_ne_true)

theorem ctxOf_shielded (s : State) (c : Nat) : ctxOf (shielded s c) c = ctxOf s c :=
  ctxOf_congr (shielded_core_team ..) (shielded_fe ..)

theorem sync_shielded (s : State) (c : Nat) : (shielded s c).sync = s.sync := by
  unfold shielded
  split <;> rfl

theorem nbOwned_shielded (s : State) (c b k : Nat) : nbOwned (shielded s c) b k = nbOwned s b k := by
  simp only [nbOwned, nbWord, sync_shielded]

theorem barOwned_shielded (s : State) (c i k : Nat) : barOwned (shielded s c) i k = barOwned s i k := by
  simp only [barOwned, sync_shielded]

end

theorem syNotify : Stmt.SyNotify := by
  intro t s c b j n r w u
  have hwait : exec (.syNwait t) s = finish s c (opSyNwait t s) := rfl
  have hread : exec (.syNread t) s = finish s c (opSyNread t s) := rfl
  have hclr : exec (.syNclr t) s = finish s c (opSyNclr t s) := rfl
  have hsig : exec (.syNsig t) s = finish s c (opSyNsig t s) := rfl
  refine ⟨fun hown => ⟨fun hw => ?goes, fun hw => ?stalls, ?read, ?clear, fun hck => ?signal⟩, fun hown => ?foreign, fun hck => ?illegal,
    fun x hg hq => ?wake⟩
  case goes =>
    rw [Gives, hwait, opSyNwait, withBlock_owned hown]
    exact congrArg (finish s c) (if_neg (Nat.not_le.mpr hw))
  case stalls =>
    rw [Gives, hwait, opSyNwait, withBlock_owned hown]
    exact congrArg (finish s c) (if_pos hw)
  case read =>
    rw [Gives, hread, opSyNread, withBlock_owned hown]
    rfl
  case clear =>
    obtain ⟨hblock, hreg⟩ := block_syReg t s
    rw [Gives, hclr, opSyNclr, withBlock_owned hown, hblock, hreg]
    rfl
  case signal =>
    have hown' : nbOwned (shielded s t.core) ((portOf t (shielded s t.core) pSYk).toNat % 256) (ctxOf (shielded s t.core) t.core) = true := by
      rw [nbOwned_shielded, portOf_shielded, ctxOf_shielded]
      exact hown
    rw [Gives, hsig, opSyNsig, withCkpt_shields hck, withBlock_owned hown', syReg_eq, syA, portOf_shielded, portOf_shielded]
    rfl
  case foreign =>
    intro e he
    simp only [List.mem_cons, List.not_mem_nil, or_false] at he
    rcases he with rfl | rfl | rfl
    · rw [Gives, hwait, opSyNwait, withBlock_foreign hown]
      rfl
    · rw [Gives, hread, opSyNread, withBlock_foreign hown]
      rfl
    · rw [Gives, hclr, opSyNclr, withBlock_foreign hown]
      rfl
  case illegal =>
    rw [Gives, hsig, opSyNsig, withCkpt_illegal hck]
    rfl
  case wake =>
    have hopen : (s.sync.gated || !s.sync.capq.isEmpty) = false := by rw [hg, hq]; rfl
    rw [wakeArrive, hopen, if_neg Bool.false_ne_true, notifyOf_setNotify, if_pos rfl]
    rfl

/-! ### Barriers (R367, R368, R372) -/

section
variable {t : Trig} {s : State}

theorem opSyHbar_ckpt (h : t.ckpt = true) : opSyHbar t s =
    if (portOf t s pSYa).toNat % 65536 = 0 then .trap (trapIllegal t.slot)
    else if !barOwned s (t.y.toNat % 4096) (ctxOf s t.core) then .trap (trapSy t.slot (barrierAddr (t.y.toNat % 4096)))
    else .done (pushAcc (shielded s t.core) t.core
      { accBase (shielded s t.core) t.core with op := .hbar, addr := t.y.toNat % 4096, len := (portOf t s pSYa).toNat % 65536 }) := by
  rw [opSyHbar, withCkpt_shields h]
  simp only [syA, portOf_shielded, barOwned_shielded, ctxOf_shielded]
  rfl

theorem opSyHbwait_replied {g : Nat} (hdue : hbarDue (s.core t.core) = none)
    (harrived : (s.core t.core).dup.arrival = some (t.y.toNat % 4096, g)) : opSyHbwait t s =
      if (barrierOf s (t.y.toNat % 4096)).gen = g then .stall
      else .done (plan s t.core 1 rReg (.lat lSY (barrierWord (barrierOf s (t.y.toNat % 4096))))) := by
  rw [opSyHbwait, hdue, harrived]
  exact if_neg (not_not.mpr rfl)

/-- Below the need an arrival counts; at the need the barrier starts anew in the next generation. -/
theorem arriveAt_once {b : Barrier} {k : Nat} (hgen : b.gen < 65536) :
    (b.have_ + k < b.need → arriveAt b k = { b with have_ := b.have_ + k }) ∧
    (0 < b.need → b.have_ + k = b.need → arriveAt b k = { b with have_ := 0, gen := (b.gen + 1) % 65536 }) := by
  refine ⟨fun h => ?_, fun hneed h => ?_⟩
  · rw [arriveAt, if_neg (by omega), Nat.mod_eq_of_lt h, Nat.div_eq_of_lt h, Nat.add_zero, Nat.mod_eq_of_lt hgen]
  · rw [arriveAt, if_neg hneed.ne', h, Nat.mod_self, Nat.div_self hneed]

theorem arriveAt_need (b : Barrier) (k : Nat) : (arriveAt b k).need = b.need := by
  unfold arriveAt
  dsimp only
  split <;> rfl

theorem arriveAt_have {b : Barrier} (h : 0 < b.need) (k : Nat) : (arriveAt b k).have_ < b.need := by
  rw [arriveAt, if_neg h.ne']
  exact Nat.mod_lt _ h

end

theorem syBarriers : Stmt.SyBarriers := by
  intro t s c i w u x
  have hbar : exec (.syHbar t) s = finish s c (opSyHbar t s) := rfl
  have hwait : exec (.syHbwait t) s = finish s c (opSyHbwait t s) := rfl
  refine ⟨fun hck hw hown => ?arrives, fun h => ?illegal, fun g hdue harrived => ?waits, fun hdue hnone => ?never,
    fun b k hneed _ hgen => ?counts⟩
  case arrives =>
    rw [Gives, hbar, opSyHbar_ckpt hck, if_neg hw.ne', hown]
    rfl
  case illegal =>
    rw [Gives, hbar]
    cases hck : t.ckpt with
    | false => rw [opSyHbar, withCkpt_illegal hck]; rfl
    | true => rw [opSyHbar_ckpt hck, if_pos (h.resolve_left (by rw [hck]; exact Bool.noConfusion))]; rfl
  case waits =>
    refine ⟨fun hg => ?_, fun hg => ?_⟩
    · rw [Gives, hwait, opSyHbwait_replied hdue harrived, if_pos hg]
      rfl
    · rw [Gives, hwait, opSyHbwait_replied hdue harrived, if_neg hg]
      rfl
  case never =>
    have hop : opSyHbwait t s = .trap (trapProg t.slot 0x0B) := by rw [opSyHbwait, hdue, hnone]
    rw [Gives, hwait, hop]
    rfl
  case counts =>
    obtain ⟨hbelow, hfull⟩ := arriveAt_once (k := k) hgen
    exact ⟨arriveAt_need b k, arriveAt_have hneed k, hbelow, hfull hneed⟩

/-- Settles O28: the block's owner and the counts decide each operation; what a strand withholds is its own. -/
theorem notifyAndBarriers : Obligations.NotifyAndBarriers := ⟨syNotify, syBarriers⟩

end Sys2Proof.Proofs
end

section
/-!
PROOFS. The ports of the fabric: the packet that leaves next, one without a route, and the bits of FAB_PORTSTAT (O34).
-/
namespace Sys2Proof.Proofs

open Sys2Proof.Machine Sys2Proof.Laws Sys2Proof.Stmt

/-! ### The packet that leaves next (R299) -/

theorem leavesFirst_irrefl (a : Packet) : leavesFirst a a = false := by simp [leavesFirst]

theorem leavesFirst_trans {a b c : Packet} (hab : leavesFirst a b = true) (hbc : leavesFirst b c = true) : leavesFirst a c = true := by
  unfold leavesFirst at *
  grind

/-- One step of the choice of `nextOfTier`. -/
def firstOf (b : Option Packet) (p : Packet) : Option Packet :=
  match b with
  | none => some p
  | some b => if leavesFirst p b then some p else some b

theorem nextOfTier_eq (t : Nat) (l : List Packet) : nextOfTier t l = (l.filter (·.tier == t)).foldl firstOf none := rfl

/-- From a packet that no earlier one precedes, the choice goes on to one that no packet of the list precedes either. -/
theorem foldl_firstOf {seen l : List Packet} {b : Packet} (hb : b ∈ seen) (hbest : ∀ y ∈ seen, leavesFirst y b = false) :
    ∃ z, l.foldl firstOf (some b) = some z ∧ z ∈ seen ++ l ∧ ∀ y ∈ seen ++ l, leavesFirst y z = false := by
  induction l generalizing seen b with
  | nil => exact ⟨b, rfl, by simpa using hb, by simpa using hbest⟩
  | cons p l ih =>
    have hnew : ∃ b', firstOf (some b) p = some b' ∧ b' ∈ seen ++ [p] ∧ ∀ y ∈ seen ++ [p], leavesFirst y b' = false := by
      by_cases h : leavesFirst p b = true
      · refine ⟨p, if_pos h, by simp, fun y hy => ?_⟩
        rcases List.mem_append.mp hy with hy | hy
        · exact Bool.eq_false_iff.mpr fun hyp =>
            Bool.noConfusion ((leavesFirst_trans hyp h).symm.trans (hbest y hy))
        · rw [List.mem_singleton.mp hy, leavesFirst_irrefl]
      · refine ⟨b, if_neg h, by simp [hb], fun y hy => ?_⟩
        rcases List.mem_append.mp hy with hy | hy
        · exact hbest y hy
        · rw [List.mem_singleton.mp hy]
          exact Bool.eq_false_iff.mpr h
    obtain ⟨b', hstep, hmem, hbest'⟩ := hnew
    obtain ⟨z, hz, hzmem, hzbest⟩ := ih hmem hbest'
    rw [List.append_assoc, List.singleton_append] at hzmem hzbest
    exact ⟨z, by rw [List.foldl_cons, hstep, hz], hzmem, hzbest⟩

/-- A tier with a packet that waits has one that leaves next, before which no other of the tier leaves. -/
theorem nextOfTier_some {t : Nat} {l : List Packet} (h : ∃ p ∈ l, p.tier = t) :
    ∃ z, nextOfTier t l = some z ∧ z ∈ l ∧ z.tier = t ∧ ∀ y ∈ l, y.tier = t → leavesFirst y z = false := by
  obtain ⟨p, hp, ht⟩ := h
  have hmem : ∀ y, y ∈ l.filter (·.tier == t) ↔ y ∈ l ∧ y.tier = t := fun y => by simp
  rw [nextOfTier_eq]
  cases hl : l.filter (·.tier == t) with
  | nil => exact absurd ((hmem p).mpr ⟨hp, ht⟩) (by simp [hl])
  | cons a r =>
    obtain ⟨z, hz, hzmem, hzbest⟩ := foldl_firstOf (l := r) (List.mem_singleton.mpr (rfl : a = a))
      (by simpa using leavesFirst_irrefl a)
    rw [List.singleton_append, ← hl] at hzmem hzbest
    obtain ⟨hzl, hzt⟩ := (hmem z).mp hzmem
    exact ⟨z, hz, hzl, hzt, fun y hy hyt => hzbest y ((hmem y).mpr ⟨hy, hyt⟩)⟩

/-- The tier that a port serves has a packet that waits. -/
theorem servedTier_waits (s : State) (q : Nat) {l : List Packet} (h : l ≠ []) : ∃ p ∈ l, p.tier = (servedTier s q l).1 := by
  unfold servedTier
  split
  next k hk =>
    have hany := List.find?_some hk
    simp only [Bool.and_eq_true, List.any_eq_true, beq_iff_eq] at hany
    exact hany.2
  next =>
    have htiers : (l.map (·.tier)).min? ≠ none := mt List.min?_eq_none_iff.mp (mt List.map_eq_nil_iff.mp h)
    obtain ⟨m, hm⟩ := Option.ne_none_iff_exists'.mp htiers
    obtain ⟨p, hp, hpm⟩ := List.mem_map.mp (List.min?_mem hm)
    exact ⟨p, hp, by rw [hpm, hm]; rfl⟩

theorem takeNth_mem {α : Type} {k : Nat} {l r : List α} {x : α} (h : takeNth k l = some (x, r)) : x ∈ l := by
  induction l generalizing k r with
  | nil => simp [takeNth] at h
  | cons a l ih =>
    cases k with
    | zero => obtain ⟨rfl, rfl⟩ := Prod.mk.inj (Option.some.inj h); exact List.mem_cons_self
    | succ k =>
      cases hl : takeNth k l with
      | none => simp [takeNth, hl] at h
      | some e =>
        obtain ⟨y, r'⟩ := e
        simp only [takeNth, hl, Option.some.injEq, Prod.mk.injEq] at h
        rw [h.1] at hl
        exact List.mem_cons_of_mem _ (ih hl)

/-- A port with packets that wait puts the next of the tier that it serves on its link. -/
theorem sendPort_sends {s : State} {q : Nat} (hon : fabOn s = true) (hwait : portQueue s q ≠ []) :
    ∃ z, z ∈ portQueue s q ∧ z.tier = (servedTier s q (portQueue s q)).1 ∧
      (∀ y ∈ portQueue s q, y.tier = z.tier → leavesFirst y z = false) ∧
      (sendPort s q).hbm = s.hbm ∧ (sendPort s q).fab.wire = s.fab.wire ++ [(q, z)] ∧
      (sendPort s q).fab.outq = s.fab.outq.erase (some q, z) := by
  obtain ⟨z, hz, hmem, htier, hfirst⟩ := nextOfTier_some (servedTier_waits s q hwait)
  have hsend : sendPort s q = { s with fab := { s.fab with
      outq := s.fab.outq.erase (some q, z), wire := s.fab.wire ++ [(q, z)],
      starved := countWait s q (servedTier s q (portQueue s q)).1 (servedTier s q (portQueue s q)).2 (portQueue s q) z } } := by
    simp only [sendPort, hz, hon, Bool.not_true, Bool.false_eq_true, if_false]
  refine ⟨z, hmem, htier, fun y hy hyt => hfirst y hy (hyt.trans htier), ?_, ?_, ?_⟩ <;> rw [hsend]

/-! ### A packet without a way on (R301) -/

theorem noRoute_resp {s : State} {p : Packet} (h : p.resp = true) : noRoute s p = logFabric (dropPacket s) eNoroute p.addr p.tctx := by
  simp only [noRoute, h, Bool.true_or, if_true]

theorem logFabric_fab (s : State) (code a ctx : Nat) : (logFabric s code a ctx).fab = s.fab := by
  have h := (logged_logErr (draw s).1 code a ctx 3 (Config.pick (draw s).2 % 48) 0).eq
  exact (congrArg State.fab h :)

/-! ### The bits of FAB_PORTSTAT (R295) -/

theorem requeue_up (s : State) : (requeue s).fab.up = s.fab.up := by
  unfold requeue
  dsimp only
  refine List.foldlRecOn (motive := fun u : State => u.fab.up = s.fab.up) _ _ rfl fun u hu e _ => ?_
  obtain ⟨n, q, v, g, he⟩ := enqueue_cases u { e.2 with via := none, gate := none }
  rw [he]
  exact hu

/-- The mask of all ports but `p`. -/
theorem testBit_butPort {n : Nat} (p : Nat) (hn : n < 48) : (2 ^ 48 - 1 - 2 ^ p % 2 ^ 48).testBit n = decide (n ≠ p) := by
  have hlt : 2 ^ p % 2 ^ 48 < 2 ^ 48 := Nat.mod_lt _ (Nat.two_pow_pos 48)
  rw [show 2 ^ 48 - 1 - 2 ^ p % 2 ^ 48 = 2 ^ 48 - (2 ^ p % 2 ^ 48 + 1) by omega, Nat.testBit_two_pow_sub_succ hlt, Nat.testBit_mod_two_pow,
    Nat.testBit_two_pow]
  simp [hn, eq_comm]

theorem bit_clearPort (x p : Nat) {n : Nat} (hn : n < 48) : bit (x &&& (2 ^ 48 - 1 - 2 ^ p % 2 ^ 48)) n = (bit x n && decide (n ≠ p)) := by
  rw [bit_eq_testBit, bit_eq_testBit, Nat.testBit_and, testBit_butPort p hn]

theorem bit_setPort (x p : Nat) {n : Nat} (hn : n < 48) : bit (x ||| 2 ^ p % 2 ^ 48) n = (bit x n || decide (n = p)) := by
  rw [bit_eq_testBit, bit_eq_testBit, Nat.testBit_or, Nat.testBit_mod_two_pow, Nat.testBit_two_pow]
  simp [hn, eq_comm]

theorem bit_setPorts (s : State) (up : Nat) {n : Nat} (hn : n < 48) :
    bit (setPorts s up).fab.up n = (bit up n && decide (replacedPort s ≠ some n)) := by
  rw [setPorts, requeue_up]
  cases hr : replacedPort s with
  | none => simp
  | some p =>
    change bit (up &&& (2 ^ 48 - 1 - 2 ^ p % 2 ^ 48)) n = _
    rw [bit_clearPort up p hn]
    simp [eq_comm]

/-- Settles O34: the choice of a port is a least packet of an order; FAB_PORTSTAT changes by one bit, and a requeue leaves it. -/
theorem portsAndRoutes : Obligations.PortsAndRoutes := by
  intro s
  refine ⟨fun k q p rest hk hon => ?sends, fun k p rest hk hresp => ?drops, fun port _ => ?ports⟩
  case sends =>
    have hp : p ∈ portQueue s q := List.mem_map.mpr ⟨(some q, p), by simpa using takeNth_mem hk, rfl⟩
    obtain ⟨z, hmem, htier, hfirst, hhbm, hwire, hout⟩ := sendPort_sends hon (List.ne_nil_of_mem hp)
    refine ⟨sendPort s q, z, ?_, sameMemory_of_hbm hhbm, hmem, htier, hfirst, hwire, hout⟩
    refine congrArg Host.Outcome.next ?_
    rw [forward, hk]
  case drops =>
    refine ⟨logFabric (dropPacket { s with fab := { s.fab with outq := rest } }) eNoroute p.addr p.tctx, ?_, ?_⟩
    · refine congrArg Host.Outcome.next ?_
      rw [forward, hk, ← noRoute_resp hresp]
    · rw [logFabric_fab]
      exact ⟨rfl, rfl, rfl⟩
  case ports =>
    refine ⟨_, _, rfl, rfl, fun n hn => ⟨?_, ?_⟩⟩
    · rw [bit_setPorts _ _ hn, bit_clearPort _ _ hn, Bool.and_assoc, Bool.decide_and]
    · rw [bit_setPorts _ _ hn, bit_setPort _ _ hn]

end Sys2Proof.Proofs
end

section
/-!
PROOFS. The beats of the matrix slot at issue: operands, scale bytes, destinations and traps (O22).
-/
namespace Sys2Proof.Proofs

open Sys2Proof.Machine Sys2Proof.Laws Sys2Proof.Stmt

/-! ### Verdicts (R350) -/

/-- Where no check is an illegal operation, the first that is a trap is taken. -/
theorem pickTrap_first {ts : List (Option Trap)} (h : ∀ tr, some tr ∈ ts → tr.code ≠ 1) : pickTrap ts = ts.findSome? id := by
  unfold pickTrap
  split
  next tr hsome =>
    obtain ⟨o, ho, htr⟩ := List.exists_of_findSome?_eq_some hsome
    cases o with
    | none => cases htr
    | some x => exact absurd htr (by simp [h x ho])
  next => rfl

theorem pickTrap_none {ts : List (Option Trap)} (h : ∀ o ∈ ts, o = none) : pickTrap ts = none := by
  rw [pickTrap_first fun tr htr => absurd (h _ htr) (Option.some_ne_none tr)]
  exact List.findSome?_eq_none_iff.mpr h

theorem pickTrap_illegal (slot : Nat) (ts : List (Option Trap)) : pickTrap (some (trapIllegal slot) :: ts) = some (trapIllegal slot) := rfl

/-! ### Operands, scale bytes, destinations (R257, R259, R260) -/

section
variable {s u z : State} {c opnd len item nb : Nat} {e : BitVec 32} {v w : BeatSrc} {d : DrainDst}

theorem beatSource_operand (h : Operand s c opnd len item u v) : beatSource s c opnd len item = .ok u v := by
  rcases h with ⟨hlo, hhi, rfl, rfl⟩ | ⟨a, hlt, hmd, rfl, rfl⟩ | ⟨r, rest, hlo, hhi, hlq, hrows, rfl, rfl⟩ | ⟨hlo, hhi, hav, rfl, rfl⟩
  · simp only [beatSource, show opnd / 8 = 3 by omega]
  · rw [← Nat.mod_eq_of_lt hlt] at hmd
    simp only [beatSource, show opnd / 8 = 0 by omega, hmd]
  · simp only [beatSource, show opnd / 8 = 1 by omega, hlq, hrows]
  · simp only [beatSource, show opnd / 8 = 2 by omega, hav]

theorem beatDest_dest (h : Dest s c opnd len u d) : beatDest s c opnd len = .ok u d := by
  rcases h with ⟨hlo, hhi, rfl, rfl⟩ | ⟨a, hlt, hmd, rfl, rfl⟩ | ⟨hlo, hhi, hlq, hroom, rfl, rfl⟩ | ⟨hlo, hhi, hroom, rfl, rfl⟩
  · simp only [beatDest, show opnd / 8 = 3 by omega]
  · rw [← Nat.mod_eq_of_lt hlt] at hmd
    simp only [beatDest, show opnd / 8 = 0 by omega, hmd]
  · simp only [beatDest, show opnd / 8 = 1 by omega, hlq, if_neg (Nat.not_le.mpr hroom)]
  · simp only [beatDest, show opnd / 8 = 2 by omega, hroom]

/-- The scale bytes of a beat, none for an unscaled format. -/
def scaleOf (s : State) (c opnd : Nat) (e : BitVec 32) (nb : Nat) : Take BeatSrc :=
  if nb = 0 then .ok s (.val 0) else beatScale s c opnd e nb

theorem scaleOf_scale {s0 : State} (h : Scale s0 s c opnd e nb z w) :
    scaleOf s c opnd e nb = .ok z w ∧ (scaleOf s0 c opnd e nb).trap? = none := by
  rcases h with ⟨rfl, rfl, rfl⟩ | ⟨hnb, hgood, h⟩
  · exact ⟨rfl, rfl⟩
  · rw [scaleOf, scaleOf, if_neg hnb, if_neg hnb]
    refine ⟨?_, ?_⟩
    · rcases h with ⟨a, hsc, hmd, rfl, rfl⟩ | ⟨hsc, hopnd, hav, rfl, rfl⟩
      · simp only [beatScale, if_pos hsc, hmd]
      · simp only [beatScale, if_neg (Nat.not_le.mpr hsc), if_neg hopnd, hav]
    · cases hb : beatScale s0 c opnd e nb with
      | bad t => exact absurd hb (hgood t)
      | ok | wait => rfl

end

/-! ### A beat that may start -/

section
variable {s u z : State} {b : Beat} {v w : BeatSrc} {d : DrainDst} {kind : Nat}

theorem beatTraps_ready {r : BeatRec} {mod : Bool} (h : BeatReady s b) (hr : r.entry = activeEntry s b.core)
    (hundo : mod = true → undoFull (s.core b.core) [(r.bank, r.row)] = false) : ∀ o ∈ beatTraps s b r mod, o = none := by
  obtain ⟨hlegal, hmode, hfree⟩ := h
  have hfull : (mod && undoFull (s.core b.core) [(r.bank, r.row)]) = false := by
    cases mod with
    | false => rfl
    | true => exact hundo rfl
  intro o ho
  simp only [beatTraps, mxBusyTrap, hr, hlegal, hmode, hfree, hfull, List.mem_cons, List.not_mem_nil, or_false] at ho
  simpa using ho

/-- A beat that reads, with its operand and its scale bytes found. -/
theorem readBeat_reads (h : BeatReady s b)
    (hsrc : Operand s b.core b.opnd (readLen (activeEntry s b.core) kind) (if kind = 3 then 1024 else 4096) u v)
    (hscale : Scale s u b.core b.opnd (activeEntry s b.core) (scaleLen (activeEntry s b.core) kind) z w)
    (hundo : kind ≠ 2 → undoFull (s.core b.core) [((beatRec s b kind).bank, (beatRec s b kind).row)] = false) :
    readBeat b s kind = .done (plan (if kind != 2 then
      z.onCore b.core (fun x => nameRows x [((beatRec s b kind).bank, (beatRec s b kind).row)]) else z) b.core 1 rLate
        (.beatIn (beatRec s b kind) v w)) := by
  obtain ⟨hsc, hscTrap⟩ := scaleOf_scale hscale
  have hop := beatSource_operand hsrc
  have htraps := beatTraps_ready (r := beatRec s b kind) (mod := kind != 2) h rfl (fun hk => hundo (by simpa using hk))
  have hpick : pickTrap (beatTraps s b (beatRec s b kind) (kind != 2) ++ (if entryLegal (activeEntry s b.core).toNat then
      [(Take.ok u v).trap?, (scaleOf s b.core b.opnd (activeEntry s b.core) (scaleLen (activeEntry s b.core) kind)).trap?] else [])) =
      none := by
    refine pickTrap_none fun o ho => ?_
    rw [if_pos h.1, hscTrap] at ho
    rcases List.mem_append.mp ho with ho | ho
    · exact htraps o ho
    · simpa [Take.trap?] using ho
  have hentry : (beatRec s b kind).entry = activeEntry s b.core := rfl
  simp only [scaleOf] at hpick hsc
  simp only [readBeat, hentry, hop, hpick, hsc]

/-- A drain whose destination is reserved. -/
theorem drainBeat_drains {zero : Bool} (h : BeatReady s b)
    (hdst : Dest s b.core b.opnd (32 * codeWidth (feD (activeEntry s b.core))) u d)
    (hundo : zero = true → undoFull (s.core b.core) [(b.bank, beatRow (s.core b.core).dup b)] = false) :
    drainBeat b s zero = .done (plan (if zero then
      u.onCore b.core (fun x => nameRows x [(b.bank, beatRow (s.core b.core).dup b)]) else u) b.core 4 rAcc
        (.accDrain (beatRec s b (if zero then 5 else 4)) zero d)) := by
  have hdest := beatDest_dest hdst
  have hentry : (beatRec s b (if zero then 5 else 4)).entry = activeEntry s b.core := rfl
  have hbank : (beatRec s b (if zero then 5 else 4)).bank = b.bank := by cases zero <;> rfl
  have hrow : (beatRec s b (if zero then 5 else 4)).row = beatRow (s.core b.core).dup b := by cases zero <;> rfl
  have htraps := beatTraps_ready (r := beatRec s b (if zero then 5 else 4)) (mod := zero) h rfl (by rw [hbank, hrow]; exact hundo)
  have hpick : pickTrap (beatTraps s b (beatRec s b (if zero then 5 else 4)) zero ++ (if entryLegal (activeEntry s b.core).toNat then
      [(Take.ok u d).trap?] else [])) = none := by
    refine pickTrap_none fun o ho => ?_
    rw [if_pos h.1] at ho
    rcases List.mem_append.mp ho with ho | ho
    · exact htraps o ho
    · simpa [Take.trap?] using ho
  simp only [drainBeat, hentry, hbank, hrow, hdest, hpick]

/-! ### A beat that may not start -/

theorem beatTraps_illegal {r : BeatRec} {mod : Bool} (hr : r.entry = activeEntry s b.core)
    (h : (s.core b.core).mode = .handler ∨ entryLegal (activeEntry s b.core).toNat = false) (ts : List (Option Trap)) :
    pickTrap (beatTraps s b r mod ++ ts) = some (trapIllegal 0) := by
  have hbad : ((s.core b.core).mode = .handler || !entryLegal (activeEntry s b.core).toNat) = true := by
    rcases h with h | h
    · simp [h]
    · simp [h]
  simp only [beatTraps, hr, hbad, if_true, List.cons_append]
  exact pickTrap_illegal 0 _

theorem readBeat_illegal (h : (s.core b.core).mode = .handler ∨ entryLegal (activeEntry s b.core).toNat = false) (kind : Nat) :
    readBeat b s kind = .trap (trapIllegal 0) := by
  simp only [readBeat, beatTraps_illegal (r := beatRec s b kind) rfl h]

theorem drainBeat_illegal (h : (s.core b.core).mode = .handler ∨ entryLegal (activeEntry s b.core).toNat = false) (zero : Bool) :
    drainBeat b s zero = .trap (trapIllegal 0) := by
  simp only [drainBeat, beatTraps_illegal (r := beatRec s b (if zero then 5 else 4)) rfl h]

/-- During a copy of the array a legal beat is a program error, whatever its region has named. -/
theorem beatTraps_busy {r : BeatRec} {mod : Bool} (hr : r.entry = activeEntry s b.core) (hmode : (s.core b.core).mode ≠ .handler)
    (hlegal : entryLegal (activeEntry s b.core).toNat = true) (hbusy : (s.core b.core).mxBusy ≠ 0) {ts : List (Option Trap)}
    (hts : ∀ o ∈ ts, o = none) : pickTrap (beatTraps s b r mod ++ ts) = some (trapProg 0 0x0A) := by
  have htraps : beatTraps s b r mod = [none, some (trapProg 0 0x0A),
      if mod && undoFull (s.core b.core) [(r.bank, r.row)] then some (trapProg 0 5) else none] := by
    simp [beatTraps, mxBusyTrap, hr, hlegal, hmode, hbusy]
  rw [htraps, pickTrap_first]
  · rfl
  · intro tr htr
    simp only [List.cons_append, List.nil_append, List.mem_cons, reduceCtorEq, Option.some.injEq, false_or] at htr
    rcases htr with rfl | htr | htr
    · decide
    · split at htr
      · rw [Option.some.inj htr]; decide
      · cases htr
    · exact absurd (hts _ htr) (Option.some_ne_none tr)

theorem readBeat_busy (hopnd : 24 ≤ b.opnd) (hscale : scaleLen (activeEntry s b.core) kind = 0)
    (hmode : (s.core b.core).mode ≠ .handler) (hlegal : entryLegal (activeEntry s b.core).toNat = true)
    (hbusy : (s.core b.core).mxBusy ≠ 0) : readBeat b s kind = .trap (trapProg 0 0x0A) := by
  have hentry : (beatRec s b kind).entry = activeEntry s b.core := rfl
  have hsrc (len item : Nat) : (beatSource s b.core b.opnd len item).trap? = none := by
    obtain ⟨n, hn⟩ := Nat.exists_eq_add_of_le (show 3 ≤ b.opnd / 8 by omega)
    simp only [beatSource, hn, Nat.add_comm 3 n]
    rfl
  have hpick := beatTraps_busy (r := beatRec s b kind) (mod := kind != 2) hentry hmode hlegal hbusy
    (ts := [none, (Take.ok s (BeatSrc.val 0)).trap?]) (by simp [Take.trap?])
  simp only [readBeat, hentry, hscale, hlegal, hsrc, if_true, hpick]

theorem drainBeat_busy (hopnd : 24 ≤ b.opnd) (hmode : (s.core b.core).mode ≠ .handler)
    (hlegal : entryLegal (activeEntry s b.core).toNat = true) (hbusy : (s.core b.core).mxBusy ≠ 0) (zero : Bool) :
    drainBeat b s zero = .trap (trapProg 0 0x0A) := by
  have hentry : (beatRec s b (if zero then 5 else 4)).entry = activeEntry s b.core := rfl
  have hdst (len : Nat) : (beatDest s b.core b.opnd len).trap? = none := by
    obtain ⟨n, hn⟩ := Nat.exists_eq_add_of_le (show 3 ≤ b.opnd / 8 by omega)
    simp only [beatDest, hn, Nat.add_comm 3 n]
    rfl
  have hpick := beatTraps_busy (r := beatRec s b (if zero then 5 else 4)) (mod := zero) hentry hmode hlegal hbusy
    (ts := [none]) (by simp)
  simp only [drainBeat, hentry, hlegal, hdst, if_true, hpick]

end

/-- What each beat is, as a step of the core. -/
theorem exec_beats (b : Beat) (s : State) :
    exec (.mxPush b) s = finish s b.core (readBeat b s 1) ∧ exec (.mxShift b) s = finish s b.core (readBeat b s 2) ∧
    exec (.mxAcc b) s = finish s b.core (readBeat b s 3) ∧ exec (.mxDrain b) s = finish s b.core (drainBeat b s false) ∧
    exec (.mxDrainz b) s = finish s b.core (drainBeat b s true) := ⟨rfl, rfl, rfl, rfl, rfl⟩

/-- Settles O22: an operand, its scale bytes or a destination that is there is no trap, so a beat that may start is scheduled; otherwise
the first trap in the order of R350 is taken. -/
theorem mxBeats : Obligations.MxBeats := by
  intro b s c e x row named rec_
  obtain ⟨hpush, hshift, hacc, hdrain, hdrainz⟩ := exec_beats b s
  refine ⟨rfl, fun hready => ⟨?push, ?shift, ?acc, ?drain⟩, fun hbad i hi => ?illegal,
    fun hopnd h1 h2 hmode hlegal hbusy i hi => ?busy⟩
  case push =>
    intro u z v w hop hscale hundo
    rw [Gives, hpush, readBeat_reads hready hop hscale (fun _ => hundo)]
    rfl
  case shift =>
    intro u z v w hop hscale
    rw [Gives, hshift, readBeat_reads hready hop hscale (fun h => absurd rfl h)]
    rfl
  case acc =>
    intro u v hop hundo
    rw [Gives, hacc, readBeat_reads (kind := 3) hready hop (.inl ⟨rfl, rfl, rfl⟩) (fun _ => hundo)]
    rfl
  case drain =>
    intro u d hdst
    refine ⟨?_, fun hundo => ?_⟩
    · rw [Gives, hdrain, drainBeat_drains hready hdst (fun h => absurd h Bool.false_ne_true)]
      rfl
    · rw [Gives, hdrainz, drainBeat_drains hready hdst (fun _ => hundo)]
      rfl
  case illegal =>
    simp only [List.mem_cons, List.not_mem_nil, or_false] at hi
    rcases hi with rfl | rfl | rfl | rfl | rfl
    · rw [Gives, hpush, readBeat_illegal hbad]; rfl
    · rw [Gives, hshift, readBeat_illegal hbad]; rfl
    · rw [Gives, hacc, readBeat_illegal hbad]; rfl
    · rw [Gives, hdrain, drainBeat_illegal hbad]; rfl
    · rw [Gives, hdrainz, drainBeat_illegal hbad]; rfl
  case busy =>
    simp only [List.mem_cons, List.not_mem_nil, or_false] at hi
    rcases hi with rfl | rfl | rfl | rfl | rfl
    · rw [Gives, hpush, readBeat_busy hopnd h1 hmode hlegal hbusy]; rfl
    · rw [Gives, hshift, readBeat_busy hopnd h2 hmode hlegal hbusy]; rfl
    · rw [Gives, hacc, readBeat_busy hopnd rfl hmode hlegal hbusy]; rfl
    · rw [Gives, hdrain, drainBeat_busy hopnd hmode hlegal hbusy]; rfl
    · rw [Gives, hdrainz, drainBeat_busy hopnd hmode hlegal hbusy]; rfl

end Sys2Proof.Proofs
end

section
/-!
PROOFS. Requests end: completion records and retirement, and the pieces of a transfer (O47).
-/
namespace Sys2Proof.Proofs

open Sys2Proof.Machine Sys2Proof.Laws Sys2Proof.Stmt

/-! ### Lists of words as one value -/

/-- Bit `i` of packed elements of width `w` is a bit of element `i / w`. -/
theorem testBit_packList {w : Nat} (hw : 0 < w) (xs : List Nat) (i : Nat) :
    (packList w xs).testBit i = (xs[i / w]?.getD 0).testBit (i % w) := by
  induction xs generalizing i with
  | nil => simp [packList]
  | cons x xs ih =>
    have hform : packList w (x :: xs) = 2 ^ w * packList w xs + x % 2 ^ w := by
      rw [packList, Nat.shiftLeft_eq, Nat.mul_comm, Nat.add_comm]
    rw [hform, Nat.testBit_two_pow_mul_add _ (Nat.mod_lt _ (Nat.two_pow_pos w))]
    by_cases hi : i < w
    · rw [if_pos hi, Nat.testBit_mod_two_pow, Nat.div_eq_of_lt hi, Nat.mod_eq_of_lt hi]
      simp [hi]
    · obtain ⟨j, rfl⟩ := Nat.exists_eq_add_of_le (Nat.not_lt.mp hi)
      rw [if_neg hi, Nat.add_sub_cancel_left, ih, Nat.add_div_left _ hw, Nat.add_mod_left]
      simp

/-! ### Steps -/

theorem gives_congr {i : Instr} {s u v : State} (h : Gives i s u) (he : u = v) : Gives i s v := he ▸ h

/-! ### Completion records (R377) -/

section
variable {s t : State} {r : Req} {a tag : Nat}

theorem recordAddr_none (h : draftOf r 20 = 0) : recordAddr r = none := by
  rw [recordAddr, h]
  rfl

theorem recordAddr_field (h : draftOf r 20 ≠ 0) (hk : r.kind ≤ 2 ∨ r.kind = 5) : recordAddr r = some (draftOf r 20).toNat := by
  have hne : (draftOf r 20).toNat ≠ 0 := fun h0 => h (BitVec.eq_of_toNat_eq h0)
  rw [recordAddr, if_neg hne, if_neg (by omega), if_neg (by omega)]

theorem recordStatus_launch (hk : r.kind = 0) (hs : r.status ≠ 2) : recordStatus r = if r.killed = 0 then 0 else 1 :=
  if_pos (by simp [hk, hs])

/-- The second word of a record is the tag of its request. -/
theorem testBit_recordWord_tag (s : State) (r : Req) {k : Nat} (hk : k < 64) :
    (recordWord s r).testBit (64 + k) = r.tag.testBit k := by
  rw [recordWord, testBit_packList (by decide), Nat.add_div_left _ (by decide), Nat.add_mod_left, Nat.div_eq_of_lt hk, Nat.mod_eq_of_lt hk]
  rfl

/-! ### Retirement (R376, R378) -/

theorem writeRecord_none (h : recordAddr r = none) : writeRecord s r = forgetReq s r := by rw [writeRecord, h]

theorem writeRecord_written {v : Nat} {e : List Nat} (h : recordAddr r = some a)
    (hw : whoWrite s (.xfer r.tag) r.ctx gHost a 256 (recordWord s r) = (t, ⟨v, none, false, e⟩)) :
    writeRecord s r = forgetReq (clearParts t (.xfer r.tag)) r := by
  simp only [writeRecord, h, hw]

theorem writeRecord_fails {v code lo : Nat} {e : List Nat} (h : recordAddr r = some a)
    (hw : whoWrite s (.xfer r.tag) r.ctx gHost a 256 (recordWord s r) = (t, ⟨v, some (code, lo), false, e⟩)) :
    writeRecord s r = forgetReq
      (queueErr (logErr (clearParts t (.xfer r.tag)) code lo r.ctx 0 r.queue 0) r.queue code lo 0 r.queue 0) r := by
  simp only [writeRecord, h, hw]

theorem writeRecord_waits {v : Nat} {x : Option (Nat × Nat)} {e : List Nat} (h : recordAddr r = some a)
    (hw : whoWrite s (.xfer r.tag) r.ctx gHost a 256 (recordWord s r) = (t, ⟨v, x, true, e⟩)) : writeRecord s r = t := by
  simp only [writeRecord, h, hw]

/-- The requests that stay are judged anew under their own numbers. -/
theorem hasReq_judgeAll (s : State) (tag : Nat) : (judgeAll s).hasReq tag = s.hasReq tag := by
  simp only [State.hasReq, judgeAll, List.any_map]
  rfl

theorem forgetReq_forgets (t : State) (r : Req) : (forgetReq t r).hasReq r.tag = false ∧
    (forgetReq t r).fe.retired.head? = some (r.tag, recordStatus r == 0) ∧ (forgetReq t r).fe.retired.length ≤ 65536 ∧
    SameMemory t (forgetReq t r) := by
  refine ⟨?_, rfl, ?_, sameMemory_of_hbm rfl⟩
  · rw [forgetReq, hasReq_judgeAll]
    exact tab_drop_any (r.tag + 1) t.fe.reqs
  · exact List.length_take_le _ _

/-- The request of a tag may write its record. -/
def MayRetire (s : State) (tag : Nat) : Prop :=
  s.hasReq tag = true ∧ (s.req tag).st = 3 ∧ ((s.req tag).status = 2 ∨ effectsLeft s (s.req tag) = false)

theorem mayRetire_iff (s : State) (tag : Nat) : MayRetire s tag ↔
    (s.hasReq tag && (s.req tag).st == 3 && ((s.req tag).status == 2 || !effectsLeft s (s.req tag))) = true := by
  simp [MayRetire, and_assoc]

theorem gives_requestRetire (h : MayRetire s tag) : Gives (.requestRetire tag) s (writeRecord s (s.req tag)) :=
  congrArg Host.Outcome.next (if_pos ((mayRetire_iff s tag).mp h))

end

theorem requestsRetire : Stmt.RequestsRetire := by
  intro s tag r ready
  refine ⟨fun h hnone => ?noRecord, fun a t v e h ha hw => ?written, fun a t v e code lo h ha hw => ?fails, fun a t v x e h ha hw => ?waits,
    fun h => ?stays, fun t => forgetReq_forgets t r, recordAddr_none, recordAddr_field, recordStatus_launch,
    fun k hk => testBit_recordWord_tag s r hk⟩
  case noRecord => exact gives_congr (gives_requestRetire h) (writeRecord_none hnone)
  case written => exact gives_congr (gives_requestRetire h) (writeRecord_written ha hw)
  case fails => exact gives_congr (gives_requestRetire h) (writeRecord_fails ha hw)
  case waits => exact gives_congr (gives_requestRetire h) (writeRecord_waits ha hw)
  case stays => exact congrArg Host.Outcome.next (if_neg (mt (mayRetire_iff s tag).mpr h))

/-! ### What sending a packet changes (R294, R300) -/

/-- A packet that leaves changes the fabric and the next free value, and nothing else. -/
theorem sendPacket_onlyFabric (s : State) (p : Packet) : ∃ n f, sendPacket s p = { s with fresh := n, fab := f } := by
  have hfabric (f0 : Fabric) (q : Packet) : ∃ n f, (if fabOn { s with fab := f0 } && toHere { s with fab := f0 } q then
      { s with fab := { f0 with loop := f0.loop ++ [q] } } else enqueue { s with fab := f0 } q) = { s with fresh := n, fab := f } := by
    split
    · exact ⟨_, _, rfl⟩
    · obtain ⟨n, r, v, g, he⟩ := enqueue_cases { s with fab := f0 } q
      exact ⟨_, _, he⟩
  unfold sendPacket
  cases p.resp with
  | true => exact hfabric s.fab _
  | false => exact hfabric _ _

theorem sendPacket_fe (s : State) (p : Packet) : (sendPacket s p).fe = s.fe := by
  obtain ⟨n, f, h⟩ := sendPacket_onlyFabric s p
  rw [h]

theorem touched_windowFor (s : State) (ctx a : Nat) (n : Need) : Touched s (windowFor s ctx a n).1 := by
  have h := touched_window s ctx (winNo a)
  unfold windowFor
  generalize window s ctx (winNo a) = r at h
  obtain ⟨u, x⟩ := r
  cases x <;> exact h

theorem touched_of_windowFor {s u : State} {ctx a : Nat} {n : Need} {x : Except Nat (Window × Nat)}
    (h : windowFor s ctx a n = (u, x)) : Touched s u := by
  have ht := touched_windowFor s ctx a n
  rwa [h] at ht

/-! ### A piece of a transfer (R89) -/

section
variable {s t w : State} {tag a b m v code target : Nat} {win : Window}

theorem isMem_of_isWin {a : Nat} (h : isWin a = true) : isMem a = false := by
  simp only [isWin, isMem, Bool.and_eq_true, decide_eq_true_eq, Bool.and_eq_false_iff, decide_eq_false_iff_not] at h ⊢
  omega

/-- The write of a piece to memory: it ends there, fails, or waits. -/
theorem xferPut_memory (hb : isMem b = true) :
    (∀ x e, whoWrite s (.xfer tag) (s.req tag).ctx gHost b m v = (w, ⟨x, none, false, e⟩) → xferPut s tag b m v = xferAdvance w tag m) ∧
    (∀ x e c lo, whoWrite s (.xfer tag) (s.req tag).ctx gHost b m v = (w, ⟨x, some (c, lo), false, e⟩) →
      xferPut s tag b m v = xferFail w tag c lo) ∧
    (∀ x y e, whoWrite s (.xfer tag) (s.req tag).ctx gHost b m v = (w, ⟨x, y, true, e⟩) → xferPut s tag b m v = w) := by
  refine ⟨fun x e h => ?_, fun x e c lo h => ?_, fun x y e h => ?_⟩ <;> simp only [xferPut, hb, if_true, h]

/-- The write of a piece to a window: it is sent through it, or fails. -/
theorem xferPut_window (hb : isWin b = true) :
    (∀ win target, windowFor s (s.req tag).ctx b .wr = (w, .ok (win, target)) → fabOn w = true → xferPut s tag b m v =
      (xferAdvance (xferSend w win target kStore tag (s.req tag).copied m v (winNo b)) tag m).updReq tag (fun r => { r with out := r.out + 1 })) ∧
    (∀ code, windowFor s (s.req tag).ctx b .wr = (w, .error code) → xferPut s tag b m v = xferFail w tag code b) := by
  refine ⟨fun win target h hon => ?_, fun code h => ?_⟩
  · simp only [xferPut, isMem_of_isWin hb, Bool.false_eq_true, if_false, h, hon, Bool.not_true]
  · simp only [xferPut, isMem_of_isWin hb, Bool.false_eq_true, if_false, h]

/-- The read of a piece from memory: it goes on to its write, fails, or waits. -/
theorem xferGet_memory (hp : xferPiece (s.req tag) = (a, b, m)) (ha : isMem a = true) :
    (∀ v e, whoRead s (.xfer tag) (s.req tag).ctx gHost a m = (w, ⟨v, none, false, e⟩) →
      xferGet s tag = xferPut (xferEcc w (s.req tag) e) tag b m v) ∧
    (∀ v c lo e, whoRead s (.xfer tag) (s.req tag).ctx gHost a m = (w, ⟨v, some (c, lo), false, e⟩) →
      xferGet s tag = xferFail (xferEcc w (s.req tag) e) tag c lo) ∧
    (∀ v y e, whoRead s (.xfer tag) (s.req tag).ctx gHost a m = (w, ⟨v, y, true, e⟩) → xferGet s tag = w) := by
  refine ⟨fun v e h => ?_, fun v c lo e h => ?_, fun v y e h => ?_⟩ <;> simp only [xferGet, hp, ha, if_true, h]

theorem req_xferSend (op off : Nat) (n wn : Nat) : (xferSend s win target op tag off m n wn).req tag = s.req tag := by
  have hfe : (xferSend s win target op tag off m n wn).fe = s.fe := by
    rw [xferSend, sendFuller, sendPacket_fe]
  rw [State.req, hfe]
  rfl

theorem updReq_congr {f g : Req → Req} (h : f (s.req tag) = g (s.req tag)) : s.updReq tag f = s.updReq tag g := by
  rw [State.updReq, State.updReq, h]

/-- The read of a piece from a window is asked through it, or fails. -/
theorem xferGet_window (hp : xferPiece (s.req tag) = (a, b, m)) (ha : isWin a = true) :
    (∀ win target, windowFor s (s.req tag).ctx a .rd = (w, .ok (win, target)) → fabOn w = true → xferGet s tag =
      (xferSend w win target kLoad tag (s.req tag).copied m 0 (winNo a)).updReq tag (fun r => { r with asked := some (s.req tag).copied })) ∧
    (∀ code, windowFor s (s.req tag).ctx a .rd = (w, .error code) → xferGet s tag = xferFail w tag code a) := by
  refine ⟨fun win target h hon => ?_, fun code h => ?_⟩
  · have hreq : w.req tag = s.req tag := by
      rw [State.req, (touched_of_windowFor h).fe]
      rfl
    simp only [xferGet, hp, isMem_of_isWin ha, Bool.false_eq_true, if_false, h, hon, Bool.not_true]
    exact updReq_congr (by rw [req_xferSend, hreq])
  · simp only [xferGet, hp, isMem_of_isWin ha, Bool.false_eq_true, if_false, h]

theorem gives_transferRun (h : xferReady s tag = true) :
    Gives (.transferRun tag) s (xferGet (s.updReq tag (fun r => { r with st := 2 })) tag) := by
  change Host.Outcome.next (xferStep s tag) = _
  rw [xferStep, if_pos h]

end

theorem transfersRun : Stmt.TransfersRun := by
  intro s tag s1 r a b len whole m got goes step fails
  have hpiece : xferPiece (s1.req tag) = (a, b, m) := rfl
  refine ⟨fun hready ha => ⟨fun t v hgot hb => ?memory, fun t v hgot hb => ?sent, fun t v c lo e hread => ?readFails,
    fun t v y e hread => ?readWaits⟩, fun hready ha => ⟨fun w x c hwin hon => ?asked, fun w c hwin => ?notAsked⟩, fun hnot => ?idle⟩
  case memory =>
    obtain ⟨e, u, hread, rfl⟩ := hgot
    have hgives := gives_congr (gives_transferRun hready) ((xferGet_memory hpiece ha).1 v e hread)
    refine ⟨fun w x e h => ?_, fun w x e c lo h => ?_, fun w x y e h => ?_⟩
    · exact gives_congr hgives ((xferPut_memory hb).1 x e h)
    · exact gives_congr hgives ((xferPut_memory hb).2.1 x e c lo h)
    · exact gives_congr hgives ((xferPut_memory hb).2.2 x y e h)
  case sent =>
    obtain ⟨e, u, hread, rfl⟩ := hgot
    have hgives := gives_congr (gives_transferRun hready) ((xferGet_memory hpiece ha).1 v e hread)
    refine ⟨fun w x c h hon => ?_, fun w c h => ?_⟩
    · exact gives_congr hgives ((xferPut_window hb).1 x c h hon)
    · exact gives_congr hgives ((xferPut_window hb).2 c h)
  case readFails => exact gives_congr (gives_transferRun hready) ((xferGet_memory hpiece ha).2.1 v c lo e hread)
  case readWaits => exact gives_congr (gives_transferRun hready) ((xferGet_memory hpiece ha).2.2 v y e hread)
  case asked => exact gives_congr (gives_transferRun hready) ((xferGet_window hpiece ha).1 x c hwin hon)
  case notAsked => exact gives_congr (gives_transferRun hready) ((xferGet_window hpiece ha).2 c hwin)
  case idle =>
    change Host.Outcome.next (xferStep s tag) = _
    rw [xferStep, hnot]
    rfl

/-- Settles O47: a record's write and a piece's read and write each end, fail or wait, and each end is one case of the step. -/
theorem requestsEnd : Obligations.RequestsEnd := ⟨requestsRetire, transfersRun⟩

end Sys2Proof.Proofs
end

section
/-!
PROOFS. Catalogue loads, wakes and barrier words as register writes, and the gate of the notify aperture (O41).
-/
namespace Sys2Proof.Proofs

open Sys2Proof.Machine Sys2Proof.Laws Sys2Proof.Stmt

/-! ### A catalogue load (R347) -/

section
variable {s t : State} {ag : Agent}

theorem agentRuns_of_asSystem (s : State) (h : asSystem ag = true) : agentRuns s ag = true := by
  cases ag with
  | mgmt k => cases h
  | root | host p | strand c k => rfl

theorem foldl_setResid_eq (f : Nat → Resid) (es : List Nat) (t : State) :
    ∃ r, es.foldl (fun t e => setResid t e (f e)) t = { t with xp := { t.xp with res := r } } := by
  induction es generalizing t with
  | nil => exact ⟨_, rfl⟩
  | cons e es ih => exact ih _

theorem resid_foldl_setResid (f : Nat → Resid) (es : List Nat) (t : State) (k : Nat) :
    Tab.get Resid.init (es.foldl (fun t e => setResid t e (f e)) t).xp.res k =
      if k ∈ es then f k else Tab.get Resid.init t.xp.res k := by
  induction es generalizing t with
  | nil => rfl
  | cons e es ih =>
    rw [List.foldl_cons, ih]
    by_cases hk : k = e
    · subst hk
      simp [setResid]
    · simp [setResid, hk]

/-- The entry of an expert after a catalogue load. -/
def loadedResid (s : State) (e : Nat) : Resid :=
  ⟨rAbsent, fld (catWord s e 0) 31 16, 0, catLegal s e, fld (catWord s e 0) 47 32, false, 0, 0, 0, false⟩

theorem loadCatalogue_eq (s : State) : ∃ r, loadCatalogue s = { s with xp := { s.xp with res := r } } :=
  foldl_setResid_eq (loadedResid s) _ _

theorem resid_loadCatalogue (s : State) (e : Nat) (he : e < s.xp.catn) :
    Tab.get Resid.init (loadCatalogue s).xp.res e = loadedResid s e :=
  (resid_foldl_setResid (loadedResid s) _ _ e).trans (if_pos (mem_span.mpr (by omega)))

/-- The word of a catalogue load. -/
theorem fld_xrCtl (n : Nat) : fld (wordN (1 <<< 62 + n % 65536)) 63 62 = 1 ∧ fld (wordN (1 <<< 62 + n % 65536)) 15 0 = n % 65536 := by
  simp only [fld, bits, wordN, BitVec.toNat_ofNat, Nat.shiftRight_eq_div_pow, Nat.shiftLeft_eq]
  omega

theorem writeXrCtl_load (n : Nat) : writeXrCtl s (wordN (1 <<< 62 + n % 65536)) =
    legal (!loadBusy s) (.ok (loadCatalogue { s with xp := { s.xp with tmo := n % 65536 } })) := by
  obtain ⟨hop, htmo⟩ := fld_xrCtl n
  rw [writeXrCtl, hop, htmo]
  rfl

theorem gives_xrCtlLoad {n : Nat} (hs : asSystem ag = true) (hb : loadBusy s = false) :
    Gives (.xrCtlLoad ag n) s (loadCatalogue { s with xp := { s.xp with tmo := n % 65536 } }) :=
  gives_of_writeDev_ok (.xr 4) (off := 0x1200100) (agentRuns_of_asSystem s hs) (.inl (by decide)) rfl
    ((needs_ok hs _).trans ((writeXrCtl_load n).trans (legal_ok (by rw [hb]; rfl) _)))

theorem gives_xrCtlLoad_busy {n : Nat} (hs : asSystem ag = true) (hb : loadBusy s = true) :
    Gives (.xrCtlLoad ag n) s (logAgent s ag eResvwrite 0xE0000001200100) :=
  gives_of_writeDev_bad (.xr 4) (off := 0x1200100) (agentRuns_of_asSystem s hs) (.inl (by decide)) rfl
    ((needs_ok hs _).trans ((writeXrCtl_load n).trans (legal_bad (by rw [hb]; rfl) _)))

end

theorem catalogueLoad : Stmt.CatalogueLoad := by
  intro s ag tmo hs
  refine ⟨fun hb => ⟨_, gives_xrCtlLoad hs hb, ?_⟩, gives_xrCtlLoad_busy hs⟩
  have hres := resid_loadCatalogue { s with xp := { s.xp with tmo := tmo % 65536 } }
  obtain ⟨r, hr⟩ := loadCatalogue_eq { s with xp := { s.xp with tmo := tmo % 65536 } }
  rw [hr] at hres ⊢
  exact ⟨rfl, sameMemory_of_hbm rfl, rfl, rfl, rfl, rfl, hres⟩

/-! ### Wakes (R363 to R365) -/

section
variable {s : State} {ag : Agent} {b j i n : Nat} {w : BitVec 48}

theorem notifyAddr_eq (n : Nat) : notifyAddr n = 0xE0000000000000 + 64 * devWord (.notify n) := by
  simp only [notifyAddr, devWord]
  omega

theorem hostMayWake_iff : hostMayWake s ag b = true ↔ ∀ p, ag = .host p → flag (nbWord s b) 63 = true ∧ flag (nbWord s b) 62 = true := by
  cases ag <;> simp [hostMayWake]

theorem gives_notifyWake (hb : b < 256) (hj : j < 256) (hr : agentRuns s ag = true) (hmay : hostMayWake s ag b = true) :
    Gives (.notifyWake ag b j w) s (wakeArrive s (256 * b + j) w) := by
  have hblock : (256 * b + j) / 256 = b := by omega
  have hword : (w.zeroExtend 64).truncate 48 = w := by simp
  have hw : writeDev s ag (.notify (256 * b + j)) (w.zeroExtend 64) = .ok (wakeArrive s (256 * b + j) w) := by
    change writeNotify s ag (256 * b + j) (w.zeroExtend 64) = _
    rw [writeNotify, hblock, hword, needs_ok hmay]
  change Gives (.registerWrite ag (notifyAddr (256 * b + j)) (w.zeroExtend 64)) s _
  rw [notifyAddr_eq]
  exact gives_of_writeDev_ok (.notify (256 * b + j)) hr (show 256 * b + j < 65536 by omega) rfl hw

theorem gives_notifyWake_refused (hb : b < 256) (hj : j < 256) (hr : agentRuns s ag = true) (hmay : hostMayWake s ag b = false) :
    Gives (.notifyWake ag b j w) s (logAgent s ag ePerm (0xE0000001300000 + 64 * (256 * b + j))) := by
  have hblock : (256 * b + j) / 256 = b := by omega
  have hw : writeDev s ag (.notify (256 * b + j)) (w.zeroExtend 64) = .bad ePerm := by
    change writeNotify s ag (256 * b + j) (w.zeroExtend 64) = _
    rw [writeNotify, hblock, needs_bad hmay]
  change Gives (.registerWrite ag (notifyAddr (256 * b + j)) (w.zeroExtend 64)) s (logAgent s ag ePerm (notifyAddr (256 * b + j)))
  rw [notifyAddr_eq]
  exact gives_of_writeDev_bad (.notify (256 * b + j)) hr (show 256 * b + j < 65536 by omega) rfl hw

theorem wakeReg_eq (r : Notify) (x : BitVec 48) :
    wakeReg r x = if r.cnt = 16383 then { r with coal := true, word := x } else { r with cnt := r.cnt + 1, word := x } := rfl

theorem wakeArrive_open (hg : s.sync.gated = false) (hq : s.sync.capq = []) :
    wakeArrive s n w = setNotify s n (wakeReg (notifyOf s n) w) :=
  if_neg (by rw [hg, hq]; exact Bool.false_ne_true)

theorem wakeWaits_iff : (s.sync.gated || !s.sync.capq.isEmpty) = true ↔ s.sync.gated = true ∨ s.sync.capq ≠ [] := by simp

theorem wakeArrive_queued (h : s.sync.gated = true ∨ s.sync.capq ≠ []) (hlen : s.sync.capq.length < 64) :
    wakeArrive s n w = { s with sync := { s.sync with capq := s.sync.capq ++ [(n, w)] } } :=
  (if_pos (wakeWaits_iff.mpr h)).trans (if_pos hlen)

theorem wakeArrive_merged (h : s.sync.gated = true ∨ s.sync.capq ≠ []) (hlen : 64 ≤ s.sync.capq.length) : wakeArrive s n w =
    { s with sync := { s.sync with merge := if s.sync.merge.contains n then s.sync.merge else s.sync.merge ++ [n] } } :=
  (if_pos (wakeWaits_iff.mpr h)).trans (if_neg (Nat.not_lt.mpr hlen))

/-! ### Barrier words (R367, R368) -/

theorem fld_need (n : Nat) : fld (wordN ((n % 2 ^ 24) <<< 24)) 47 24 = n % 2 ^ 24 := by
  simp only [fld, bits, wordN, BitVec.toNat_ofNat, Nat.shiftRight_eq_div_pow, Nat.shiftLeft_eq]
  omega

theorem writeBar_need : writeBar s ag i 0 (wordN ((n % 2 ^ 24) <<< 24)) =
    needs (asSystem ag) (legal (n % 2 ^ 24 != 0) (.ok (setBarrier s i { barrierOf s i with need := n % 2 ^ 24, have_ := 0 }))) := by
  rw [writeBar, fld_need]
  rfl

theorem gives_needWrite_ok {u : State} (hr : agentRuns s ag = true) (hi : i < 4096)
    (hw : writeBar s ag i 0 (wordN ((n % 2 ^ 24) <<< 24)) = .ok u) : Gives (.barrierNeedWrite ag i n) s u := by
  change Gives (.registerWrite ag (barAddr i 0) (wordN ((n % 2 ^ 24) <<< 24))) s u
  rw [barAddr_eq]
  exact gives_of_writeDev_ok (.bar i 0) hr ⟨hi, by decide⟩ rfl hw

theorem gives_needWrite_bad {code : Nat} (hr : agentRuns s ag = true) (hi : i < 4096)
    (hw : writeBar s ag i 0 (wordN ((n % 2 ^ 24) <<< 24)) = .bad code) :
    Gives (.barrierNeedWrite ag i n) s (logAgent s ag code (0xE0000001800000 + 128 * i)) := by
  have haddr : 0xE0000001800000 + 128 * i = barAddr i 0 := by
    simp only [barAddr, devBase]
    omega
  change Gives (.registerWrite ag (barAddr i 0) (wordN ((n % 2 ^ 24) <<< 24))) s _
  rw [haddr, barAddr_eq]
  exact gives_of_writeDev_bad (.bar i 0) hr ⟨hi, by decide⟩ rfl hw

end

theorem wakesAndBarriers : Stmt.WakesAndBarriers := by
  intro s ag b j i n w hb hj hi hr r may
  refine ⟨fun hmay hg hq => ?wakes, fun hmay hwait => ⟨fun hlen => ?queued, fun hlen => ?merged⟩, fun p hag hoff => ?refused,
    fun hs h0 hn => ?need, fun hs h0 => ?noNeed, fun hs => ?perm, fun h0 hn => ?arrives, fun h0 => ?nothing⟩
  case wakes => exact gives_congr (gives_notifyWake hb hj hr (hostMayWake_iff.mpr hmay)) (wakeArrive_open hg hq)
  case queued => exact gives_congr (gives_notifyWake hb hj hr (hostMayWake_iff.mpr hmay)) (wakeArrive_queued hwait hlen)
  case merged =>
    refine ⟨_, gives_congr (gives_notifyWake hb hj hr (hostMayWake_iff.mpr hmay)) (wakeArrive_merged hwait hlen), rfl, fun k => ?_,
      fun hin => if_pos (List.contains_iff_mem.mpr hin)⟩
    dsimp only
    split
    next hin =>
      have hmem := List.contains_iff_mem.mp hin
      exact ⟨.inl, fun h => h.elim id fun hk => hk ▸ hmem⟩
    next => simp
  case refused =>
    refine gives_notifyWake_refused hb hj hr (Bool.eq_false_iff.mpr fun hmay => ?_)
    obtain ⟨h63, h62⟩ := hostMayWake_iff.mp hmay p hag
    rcases hoff with h | h
    · exact Bool.noConfusion (h63.symm.trans h)
    · exact Bool.noConfusion (h62.symm.trans h)
  case need =>
    have hw := (writeBar_need (s := s) (ag := ag) (i := i) (n := n)).trans ((needs_ok hs _).trans
      (legal_ok (by rw [Nat.mod_eq_of_lt hn]; simpa using h0.ne') _))
    rw [Nat.mod_eq_of_lt hn] at hw
    exact gives_needWrite_ok hr hi (by rw [Nat.mod_eq_of_lt hn]; exact hw)
  case noNeed => exact gives_needWrite_bad hr hi (writeBar_need.trans ((needs_ok hs _).trans (legal_bad (by rw [h0]; rfl) _)))
  case perm => exact gives_needWrite_bad hr hi (writeBar_need.trans (needs_bad hs _))
  case arrives =>
    have h := gives_barrierArrive (s := s) (ag := ag) (n := n) hr hi
    rwa [Nat.mod_eq_of_lt hn, if_neg h0.ne'] at h
  case nothing => exact gives_congr (gives_barrierArrive hr hi) (if_pos h0)

/-! ### The gate (R365) -/

/-- A queued wake, and the wake of a merged register, in the table of the registers. -/
def wakeTab (m : Tab Notify) (e : Nat × BitVec 48) : Tab Notify := Tab.set Notify.init e.1 (wakeReg (Tab.get Notify.init m e.1) e.2) m

def mergedTab (m : Tab Notify) (n : Nat) : Tab Notify :=
  let r := Tab.get Notify.init m n
  Tab.set Notify.init n { wakeReg r r.word with coal := true } m

section
variable {s : State}

/-- Opening the gate changes the table of the registers, and empties the queue and the merge bits. -/
theorem ungate_eq (s : State) : ungate s = { s with sync := { s.sync with
    gated := false, capq := [], merge := [], reg := s.sync.merge.foldl mergedTab (s.sync.capq.foldl wakeTab s.sync.reg) } } := by
  have hreg (t : State) (m : Tab Notify) : { t with sync := { t.sync with reg := m } }.sync.reg = m := rfl
  have hwakes (q : List (Nat × BitVec 48)) (t : State) :
      q.foldl (fun t e => setNotify t e.1 (wakeReg (notifyOf t e.1) e.2)) t =
        { t with sync := { t.sync with reg := q.foldl wakeTab t.sync.reg } } := by
    induction q generalizing t with
    | nil => rfl
    | cons e q ih => exact ih _
  have hmerges (ns : List Nat) (t : State) :
      ns.foldl (fun t n => let r := notifyOf t n; setNotify t n { wakeReg r r.word with coal := true }) t =
        { t with sync := { t.sync with reg := ns.foldl mergedTab t.sync.reg } } := by
    induction ns generalizing t with
    | nil => rfl
    | cons n ns ih => exact ih _
  simp only [ungate, hwakes, hmerges]

theorem gives_notifyUngate (h : s.sync.gated = true) : Gives .notifyUngate s (ungate s) := congrArg Host.Outcome.next (if_pos h)

/-- One more wake of its own word, at most 16,383 counted. -/
theorem wakeReg_merged {r : Notify} (h : r.cnt ≤ 16383) :
    { wakeReg r r.word with coal := true } = { r with cnt := min 16383 (r.cnt + 1), coal := true } := by
  by_cases hfull : r.cnt = 16383
  · simp [wakeReg, hfull]
  · simp only [wakeReg, hfull, if_false, Nat.min_eq_right (show r.cnt + 1 ≤ 16383 by omega)]

end

theorem notifyGate : Stmt.NotifyGate := by
  intro s
  refine ⟨fun hg hidle => ?closes, fun h => ?stays, fun hg => ?isOpen,
    fun hg => ⟨ungate s, gives_notifyUngate hg, ?gated, ?capq, ?merge, ?only, fun n x rest hq => ?wake, fun n rest hq hm hcnt => ?merged,
      fun hq hm => ?none⟩⟩
  case closes =>
    have hany : s.cores.any (fun e => stalledInNwait s e.1) = false := List.any_eq_false.mpr fun e he => by simp [hidle e he]
    exact congrArg Host.Outcome.next (if_neg (by rw [hg, hany]; exact Bool.false_ne_true))
  case stays =>
    refine congrArg Host.Outcome.next (if_pos ?_)
    rcases h with h | ⟨e, he, hstall⟩
    · rw [h, Bool.true_or]
    · rw [List.any_eq_true.mpr ⟨e, he, hstall⟩, Bool.or_true]
  case isOpen => exact congrArg Host.Outcome.next (if_neg (by rw [hg]; exact Bool.false_ne_true))
  case gated | capq | merge | only => rw [ungate_eq]
  case wake =>
    refine gives_congr (gives_notifyUngate hg) ?_
    rw [ungate_eq, ungate_eq, hq]
    rfl
  case merged =>
    refine gives_congr (gives_notifyUngate hg) ?_
    rw [ungate_eq, ungate_eq, ← wakeReg_merged hcnt]
    simp only [setNotify, notifyOf, mergedTab, hq, hm, List.foldl_nil, List.foldl_cons]
  case none => rw [ungate_eq, hq, hm]; rfl

/-- Settles O41: each of these steps is one register write, decided by its right and its value, or a fold over the wakes that wait. -/
theorem systemSetup : Obligations.SystemSetup := ⟨catalogueLoad, wakesAndBarriers, notifyGate⟩

end Sys2Proof.Proofs
end

section
/-!
PROOFS. Remote loads, stores, signals and barrier arrivals as their triggers issue them, and the traps of RM (O29).
-/
namespace Sys2Proof.Proofs

open Sys2Proof.Machine Sys2Proof.Laws Sys2Proof.Stmt

/-! ### The target (R304) -/

section
variable {t : Trig} {s : State} {w n : Nat} {k : RmKind}

theorem rmTarget_malformed (h : ptrMal t.y = true) : rmTarget t w n k = .error (trapMal t.slot (ptrAddr t.y)) := if_pos h

theorem rmTarget_elsewhere (hmal : ptrMal t.y = false) (hreg : region (ptrAddr t.y) < 8 ∨ 13 < region (ptrAddr t.y)) :
    rmTarget t w n k = .error (trapAddr t.slot (ptrAddr t.y) eUnmapped) := by
  have hout : (decide (region (ptrAddr t.y) < 8) || decide (13 < region (ptrAddr t.y))) = true := by simpa using hreg
  simp only [rmTarget, hmal, hout, Bool.false_eq_true, if_false, if_true]

/-- A pointer into the windows meets the checks of its operation, and nothing else. -/
theorem rmTarget_window (h : RmIn t n) : rmTarget t w n k =
    if k == .bar && winOff (ptrAddr t.y) / 2 ^ 12 != 0 then .error (trapAddr t.slot (ptrAddr t.y) eUnmapped)
    else if k == .signal && !r42Limits (ptrAddr t.y) w .arith then .error (trapWidth t.slot (ptrAddr t.y))
    else if k == .element && !alignedW (ptrAddr t.y) w then .error (trapAlign t.slot (ptrAddr t.y))
    else .ok (ptrAddr t.y) := by
  obtain ⟨hmal, hlo, hhi, hwin⟩ := h
  have hin : (decide (region (ptrAddr t.y) < 8) || decide (13 < region (ptrAddr t.y))) = false := by simp; omega
  have hend : (decide (24575 < winNo (ptrAddr t.y) + n - 1)) = false := by simp; omega
  simp only [rmTarget, hmal, hin, hend, Bool.false_eq_true, if_false]

theorem rmTarget_element (h : RmIn t n) (hal : alignedW (ptrAddr t.y) w = true) : rmTarget t w n .element = .ok (ptrAddr t.y) := by
  rw [rmTarget_window h, hal]
  rfl

theorem rmTarget_signal (h : RmIn t n) (hlim : r42Limits (ptrAddr t.y) w .arith = true) :
    rmTarget t w n .signal = .ok (ptrAddr t.y) := by
  rw [rmTarget_window h, hlim]
  rfl

theorem rmTarget_bar (h : RmIn t n) (hoff : winOff (ptrAddr t.y) < 4096) : rmTarget t w n .bar = .ok (ptrAddr t.y) := by
  rw [rmTarget_window h, show winOff (ptrAddr t.y) / 2 ^ 12 = 0 by omega]
  rfl

theorem rmTarget_group (h : RmIn t n) : rmTarget t w n .group = .ok (ptrAddr t.y) := rmTarget_window h

theorem withRm_ok {a : Nat} (ht : rmTarget t w n k = .ok a) {bad : Bool} (hbad : bad = false) (f : Nat → Res) :
    withRm t w n k bad f = f a := by
  rw [withRm, ht, hbad]
  rfl

theorem withRm_trap {tr : Trap} (ht : rmTarget t w n k = .error tr) (bad : Bool) (f : Nat → Res) : withRm t w n k bad f = .trap tr := by
  rw [withRm, ht]

/-! ### The ports (R303) -/

/-- A bit of a field is a bit of the word. -/
theorem bit_fld {m : Nat} (v : BitVec m) {hi lo j : Nat} (hj : lo + j ≤ hi) : bit (fld v hi lo) j = v.getLsbD (lo + j) := by
  rw [bit_eq_testBit, fld, bits, Nat.testBit_mod_two_pow, Nat.testBit_shiftRight, BitVec.getLsbD]
  simp [show j < hi + 1 - lo by omega]

theorem rmAmask_shielded (t : Trig) (s : State) (c : Nat) : rmAmask t (shielded s c) = rmAcq t s := by
  rw [rmAmask, rmQual, rmQ, rmD, bit_fld _ (by decide), portOf_shielded, portOf_shielded]
  rfl

theorem rmRmask_shielded (t : Trig) (s : State) (c : Nat) : rmRmask t (shielded s c) = rmRel t s := by
  rw [rmRmask, rmQual, rmQ, rmD, bit_fld _ (by decide), portOf_shielded, portOf_shielded]
  rfl

theorem rmTier_shielded (t : Trig) (s : State) (c : Nat) :
    rmTier t (shielded s c) = if (portOf t s pRMq).getLsbD 20 then 2 else 1 := by
  rw [rmTier, rmQ, portOf_shielded]
  rfl

theorem rmScopeBad_legal (h : RmScopeOk t s) (c q : Nat) : rmScopeBad t (shielded s c) q = false := by
  have hscope : ¬ 6 ≤ rmScope t (shielded s c) := by
    rw [rmScope, rmQ, portOf_shielded]
    exact Nat.not_le.mpr h
  rw [rmScopeBad, decide_eq_false hscope, Bool.and_false]

/-! ### How each issues (R305 to R310) -/

section
variable (hck : t.ckpt = true) (hslot : outstanding (s.core t.core) < 2048) (hsc : RmScopeOk t s)
include hck hslot hsc

theorem opRmRld_issues (h : RmIn t 1) (hal : alignedW (ptrAddr t.y) (ptrWidth t.y) = true)
    (hd : (portOf t s pRMq).toNat % 65536 ≠ 0) (hr : ((s.core t.core).dup.greg ((portOf t s pRMd).toNat % 64)).st ≠ .empty) :
    let u := shielded s t.core
    let d := (portOf t s pRMq).toNat % 65536
    opRmRld t s = .done (issueAcc (plan u t.core d rPush (.rld (s.core t.core).nextId)) t.core
      { remoteQ t u 0 (.rld d) (ptrWidth t.y) with reg := (portOf t s pRMd).toNat % 64, acq := rmAcq t s }) := by
  have hnext : ((shielded s t.core).core t.core).nextId = (s.core t.core).nextId := by
    unfold shielded
    split
    · rw [onCore_core_get, if_pos rfl]
    · rfl
  have hbad : (fld (rmQ t s) 15 0 == 0 || rmScopeBad t (shielded s t.core) 0) = false := by
    rw [rmScopeBad_legal hsc, Bool.or_false]
    exact beq_false_of_ne hd
  intro u d
  rw [opRmRld, withCkpt_shields hck]
  dsimp only
  rw [withRm_ok (rmTarget_element h hal) hbad, withSlot_free (by rw [outstanding_shielded]; exact hslot),
    withReg_shielded (r := fld (rmD t s) 5 0) hr, hnext, rmAmask_shielded]
  rfl

theorem opRmRst_issues (h : RmIn t 1) (hal : alignedW (ptrAddr t.y) (ptrWidth t.y) = true) :
    opRmRst t s = .done (pushAcc (shielded s t.core) t.core
      { remoteQ t (shielded s t.core) (if (portOf t s pRMq).getLsbD 20 then 2 else 1) .rst (ptrWidth t.y) with
        data := BitVec.ofNat 1024 ((portOf t s pRMa).toNat % 2 ^ ptrWidth t.y), rel := rmRel t s }) := by
  rw [opRmRst, withCkpt_shields hck]
  dsimp only
  rw [withRm_ok (rmTarget_element h hal) (rmScopeBad_legal hsc _ _), withSlot_free (by rw [outstanding_shielded]; exact hslot),
    rmTier_shielded, rmRmask_shielded, rmA, portOf_shielded]
  rfl

theorem opRmXsig_issues (h : RmIn t 1) (hlim : r42Limits (ptrAddr t.y) (ptrWidth t.y) .arith = true) :
    opRmXsig t s = .done (pushAcc (shielded s t.core) t.core { remoteQ t (shielded s t.core) 0 .xsig (ptrWidth t.y) with
      data := BitVec.ofNat 1024 ((portOf t s pRMa).toNat % 2 ^ ptrWidth t.y), rel := rmRel t s }) := by
  rw [opRmXsig, withCkpt_shields hck]
  dsimp only
  rw [withRm_ok (rmTarget_signal h hlim) (rmScopeBad_legal hsc _ _), withSlot_free (by rw [outstanding_shielded]; exact hslot),
    rmRmask_shielded, rmA, portOf_shielded]
  rfl

theorem opRmBar_issues (h : RmIn t 1) (hoff : winOff (ptrAddr t.y) < 4096) (h0 : 0 < (portOf t s pRMa).toNat)
    (h1 : (portOf t s pRMa).toNat < 65536) :
    opRmBar t s = .done (pushAcc (shielded s t.core) t.core { remoteQ t (shielded s t.core) 0 .bar 64 with
      data := BitVec.ofNat 1024 (portOf t s pRMa).toNat, rel := rmRel t s }) := by
  have hbad : ((rmA t s).toNat == 0 || decide (65535 < (rmA t s).toNat) || rmScopeBad t (shielded s t.core) 1) = false := by
    rw [rmScopeBad_legal hsc, Bool.or_false, rmA, beq_false_of_ne h0.ne', decide_eq_false (by omega)]
    rfl
  rw [opRmBar, withCkpt_shields hck]
  dsimp only
  rw [withRm_ok (rmTarget_bar h hoff) hbad, withSlot_free (by rw [outstanding_shielded]; exact hslot), rmRmask_shielded]
  rfl

/-- The store of a mcast for its first window, with the mark of a mcast (R308). -/
def mcastFirst (t : Trig) (s : State) : Acc :=
  { remoteQ t (shielded s t.core) (if (portOf t s pRMq).getLsbD 20 then 2 else 1) .rst (ptrWidth t.y) with
    data := BitVec.ofNat 1024 ((portOf t s pRMa).toNat % 2 ^ ptrWidth t.y), rel := rmRel t s, reg := 1 }

theorem opRmMcast_issues {n : Nat} (hn : n = bits (portOf t s pRMb).toNat 12 0) (h : RmIn t n)
    (hal : alignedW (ptrAddr t.y) (ptrWidth t.y) = true) (h0 : 0 < n) (h1 : n ≤ 4096) :
    opRmMcast t s = .done (mcastAccs (shielded s t.core) t.core (mcastFirst t s) 0 n) := by
  have hcount : fld (rmB t s) 12 0 = n := hn.symm
  have hbad : (n == 0 || decide (4096 < n) || rmScopeBad t (shielded s t.core) 1) = false := by
    rw [rmScopeBad_legal hsc, Bool.or_false]
    simp only [Bool.or_eq_false_iff, beq_eq_false_iff_ne, decide_eq_false_iff_not]
    omega
  rw [opRmMcast, withCkpt_shields hck]
  dsimp only
  rw [hcount, withRm_ok (rmTarget_element h hal) hbad, withSlot_free (by rw [outstanding_shielded]; exact hslot),
    rmTier_shielded, rmRmask_shielded, rmA, portOf_shielded]
  rfl

end

/-- The stores of a mcast follow one another, one window and one number on. -/
theorem accs_mcastAccs (a : Acc) (c n j i : Nat) (s : State) (hid : (s.core c).nextId = i + j) :
    ((mcastAccs s c a j n).core c).accs =
      (s.core c).accs ++ (span j n).map (fun k => { a with id := i + k, addr := a.addr + k * 2 ^ 40 }) := by
  induction n generalizing s j with
  | zero => simp [mcastAccs, span]
  | succ n ih =>
    have hnext : ((pushAcc s c { a with id := (s.core c).nextId, addr := a.addr + j * 2 ^ 40 }).core c).nextId = i + (j + 1) := by
      rw [pushAcc_core, if_pos rfl, hid]
      rfl
    rw [mcastAccs, ih _ _ hnext, pushAcc_core, if_pos rfl, hid, span, List.map_cons, List.append_assoc]
    rfl

end

theorem rmTransfers : Stmt.RmTransfers := by
  intro t s hck hslot hsc c u w a r d v n tier elem
  refine ⟨fun hin hal => ⟨fun hd hr => ?load, ?store⟩, fun hin hal h0 h1 => ?mcast, fun hin hw ha => ?signal,
    fun hin hoff h0 h1 => ?barrier⟩
  case load => exact congrArg (finish s c) (opRmRld_issues hck hslot hsc hin hal hd hr)
  case store => exact congrArg (finish s c) (opRmRst_issues hck hslot hsc hin hal)
  case mcast =>
    refine ⟨_, congrArg (finish s c) (opRmMcast_issues hck hslot hsc rfl hin hal h0 h1), ?_, ?_⟩
    · refine sameMemory_of_hbm ?_
      rw [mcastAccs_hbm]
      unfold shielded
      split <;> rfl
    · have hcore : ((shielded s t.core).core t.core).nextId = (s.core t.core).nextId ∧
          ((shielded s t.core).core t.core).accs = (s.core t.core).accs := by
        unfold shielded
        split
        · rw [onCore_core_get, if_pos rfl]
          exact ⟨rfl, rfl⟩
        · exact ⟨rfl, rfl⟩
      have haccs := accs_mcastAccs (mcastFirst t s) t.core n 0 (s.core t.core).nextId (shielded s t.core) hcore.1
      rw [hcore.2] at haccs
      exact haccs
  case signal => exact congrArg (finish s c) (opRmXsig_issues hck hslot hsc hin (r42Limits_arith hw ha))
  case barrier => exact congrArg (finish s c) (opRmBar_issues hck hslot hsc hin hoff h0 h1)

/-! ### Traps (R159, R304) -/

section
variable {t : Trig} {s : State}

/-- Without an effective checkpoint every operation of RM is illegal. -/
theorem rm_illegal (h : t.ckpt = false) :
    ∀ r ∈ [opRmRld t s, opRmRst t s, opRmRred t s, opRmMcast t s, opRmXsig t s, opRmBar t s, opRmGrpset t s, opRmGrpclr t s,
      opRmGrpretire t s, opRmXperm t s, opRmLqbind t s, opRmLqfree t s], r = .trap (trapIllegal t.slot) := by
  simp only [List.forall_mem_cons, opRmRld, opRmRst, opRmRred, opRmMcast, opRmXsig, opRmBar, opRmGrpset, opRmGrpclr, opRmGrpretire,
    opRmXperm, opRmLqbind, opRmLqfree, withCkpt_illegal h, true_and]
  exact List.forall_mem_nil _

/-- An operation of RM on a window takes the trap of its target. -/
theorem rm_traps (h : t.ckpt = true) {tr : Trap} (ht : ∀ w n k, rmTarget t w n k = .error tr) :
    ∀ r ∈ [opRmRld t s, opRmRst t s, opRmMcast t s, opRmXsig t s, opRmBar t s, opRmRred t s, opRmGrpset t s, opRmGrpclr t s,
      opRmGrpretire t s], r = .trap tr := by
  simp only [List.forall_mem_cons, opRmRld, opRmRst, opRmRred, opRmMcast, opRmXsig, opRmBar, opRmGrpset, opRmGrpclr, opRmGrpretire,
    withCkpt_shields h, withRm_trap (ht _ _ _), ite_self, true_and]
  exact List.forall_mem_nil _

end

theorem rmTraps : Stmt.RmTraps := by
  intro t s c a
  have hfinish : ∀ {tr : Trap} {rs : List Res}, (∀ r ∈ rs, r = .trap tr) → ∀ o ∈ rs.map (finish s c), o = .next (takeTrap s c tr) := by
    intro tr rs h o ho
    obtain ⟨r, hr, rfl⟩ := List.mem_map.mp ho
    rw [h r hr]
    rfl
  refine ⟨fun hck e he => ?illegal, fun hck e he => ⟨fun hmal => ?malformed, fun hmal hreg => ?elsewhere⟩⟩
  case illegal => exact hfinish (rm_illegal hck) _ (List.mem_map_of_mem (f := fun i => exec i s) he)
  case malformed =>
    exact hfinish (rm_traps hck fun w n k => rmTarget_malformed hmal) _ (List.mem_map_of_mem (f := fun i => exec i s) he)
  case elsewhere =>
    exact hfinish (rm_traps hck fun w n k => rmTarget_elsewhere hmal hreg) _ (List.mem_map_of_mem (f := fun i => exec i s) he)

/-- Settles O29: past the checks of its target a remote operation takes its place; an operation on a bad pointer takes the trap of its
target. -/
theorem remoteTransfers : Obligations.RemoteTransfers := ⟨rmTransfers, rmTraps⟩

end Sys2Proof.Proofs
end

section
/-!
PROOFS. Reduction groups, the permutation collective and link queues as their triggers issue them (O30).
-/
namespace Sys2Proof.Proofs

open Sys2Proof.Machine Sys2Proof.Laws Sys2Proof.Stmt

/-! ### What an access takes from the state -/

/-- An access reads the number and the cycle of its core, its strand's team, and the team's launch. -/
theorem accBase_congr {s u : State} {c : Nat} (hid : (u.core c).nextId = (s.core c).nextId) (hcyc : (u.core c).cyc = (s.core c).cyc)
    (hteam : (u.core c).team = (s.core c).team) (hteams : u.fe.teams = s.fe.teams) (hreqs : u.fe.reqs = s.fe.reqs) :
    accBase u c = accBase s c := by
  simp only [accBase, ctxOf, State.req, State.team, hid, hcyc, hteam, hteams, hreqs]

theorem accBase_of_core {s u : State} {c : Nat} (hcore : u.core c = s.core c) (hteams : u.fe.teams = s.fe.teams)
    (hreqs : u.fe.reqs = s.fe.reqs) : accBase u c = accBase s c :=
  accBase_congr (by rw [hcore]) (by rw [hcore]) (by rw [hcore]) hteams hreqs

/-- A shield leaves the numbers, the accesses and the cycle of its core. -/
theorem shielded_core_same (s : State) (c : Nat) : ∃ b, (shielded s c).core c = { s.core c with shielded := b } := by
  unfold shielded
  split
  · exact ⟨true, by rw [onCore_core_get, if_pos rfl]⟩
  · exact ⟨(s.core c).shielded, rfl⟩

theorem shielded_hbm (s : State) (c : Nat) : (shielded s c).hbm = s.hbm := by
  unfold shielded
  split <;> rfl

theorem shielded_fab (s : State) (c : Nat) : (shielded s c).fab = s.fab := by
  unfold shielded
  split <;> rfl

/-! ### The row or descriptor in the own scratchpad (R194) -/

/-- Pointer `p` addresses `len` bits of the own scratchpad. -/
def InSpad (s : State) (c : Nat) (p : Word) (len w : Nat) : Prop :=
  ptrMal p = false ∧ 0 < len ∧ ptrAddr p + len ≤ spadBits ∧ alignedW (ptrAddr p) w = true ∧
    pinBlocked s (peerCore s c (s.core c).tcore) (ptrAddr p) len = false

theorem lsTarget_inSpad {t : Trig} {s : State} {p : Word} {len w : Nat} (h : InSpad s t.core p len w) :
    lsTarget s t.core t.slot p len w true = .ok ((s.core t.core).tcore, ptrAddr p) :=
  lsTarget_own (t := { t with y := p }) h true

theorem spLoad_shielded {s : State} {c o n : Nat} (h : spadErrs (s.core c).spadBad o n = []) :
    spLoad (shielded s c) c o n = (shielded s c, spadGet (s.core c).spad o n) := by
  obtain ⟨b, hcore⟩ := shielded_core_same s c
  rw [spLoad_of_noErrs (by rw [hcore]; exact h), hcore]

section
variable {t : Trig} {s u z : State}

/-! ### Reduction groups (R317 to R322, R327) -/

theorem grpAcc_of_core {tier op grp : Nat} {w5 w6 : Word} {body : Col} (hcore : u.core t.core = s.core t.core)
    (hteams : u.fe.teams = s.fe.teams) (hreqs : u.fe.reqs = s.fe.reqs) :
    grpAcc t u tier op grp w5 w6 body = grpAcc t s tier op grp w5 w6 body := by
  have hbase := accBase_of_core hcore hteams hreqs
  have hctx : ctxOf u t.core = ctxOf s t.core := congrArg Acc.ctx hbase
  simp only [grpAcc, rmAcc, hbase, hctx, rmHead, rmQual, rmScope, rmD, rmQ, portOf, hcore]

section
variable (hck : t.ckpt = true) (hslot : outstanding (s.core t.core) < 2048) (hin : RmIn t 1)
include hck hin

theorem opRmGrpclr_refused {e : Nat} (hw : windowFor (shielded s t.core) (ctxOf (shielded s t.core) t.core) (homeAddr (ptrAddr t.y)) .red = (z, .error e)) :
    opRmGrpclr t s = .done (rmStatus t z 6) := by
  rw [opRmGrpclr, withCkpt_shields hck]
  dsimp only
  rw [withRm_ok (rmTarget_group hin) rfl, hw]

section
variable (hsp : InSpad (shielded s t.core) t.core (portOf t s pRMa) 512 1) (hal : ptrAddr (portOf t s pRMa) % 512 = 0)
  (herr : spadErrs (s.core t.core).spadBad (ptrAddr (portOf t s pRMa)) 512 = [])
include hsp hal herr

/-- A setting reads its descriptor, and then turns on the descriptor and on the window. -/
theorem opRmGrpset_reads {v : Nat} (hv : v = spadGet (s.core t.core).spad (ptrAddr (portOf t s pRMa)) 512) :
    (grpLegal (words8 v) = false → opRmGrpset t s = .done (rmStatus t (shielded s t.core) 5)) ∧
    (∀ e, grpLegal (words8 v) = true →
      windowFor (shielded s t.core) (ctxOf (shielded s t.core) t.core) (ptrAddr t.y) .red = (z, .error e) →
      opRmGrpset t s = .done (rmStatus t z 6)) ∧
    (∀ w, outstanding (s.core t.core) < 2048 → grpLegal (words8 v) = true →
      windowFor (shielded s t.core) (ctxOf (shielded s t.core) t.core) (ptrAddr t.y) .red = (z, .ok w) →
      opRmGrpset t s = .done (pushAcc (rmStatus t z 0) t.core
        (grpAcc t z 0 kGrpset (bits (portOf t s pRMb).toNat 11 0) 0 0 (BitVec.ofNat 4096 v)))) := by
  have hload := spLoad_shielded (c := t.core) herr
  rw [← hv] at hload
  have hal' : ¬ ptrAddr (portOf t s pRMa) % 512 ≠ 0 := not_not.mpr hal
  refine ⟨fun hlegal => ?_, fun e hlegal hw => ?_, fun w hslot hlegal hw => ?_⟩
  all_goals
    rw [opRmGrpset, withCkpt_shields hck]
    dsimp only
    rw [withRm_ok (rmTarget_group hin) rfl, rmA, portOf_shielded, lsTarget_inSpad hsp]
    simp only [if_neg hal', hload, hlegal, Bool.not_false, Bool.not_true, if_true, Bool.false_eq_true, if_false]
  · rw [hw]
  · rw [hw]
    dsimp only
    rw [withSlot_free (by rw [(touched_of_windowFor hw).core, outstanding_shielded]; exact hslot)]
    rfl

end

include hslot

theorem opRmRred_withdraws (hb : (portOf t s pRMb).getLsbD 31 = true) :
    opRmRred t s = .done (pushAcc (shielded s t.core) t.core (grpAcc t (shielded s t.core) 1 kWithdraw
      (bits (portOf t s pRMb).toNat 11 0) (wordN (bits (portOf t s pRMb).toNat 27 16)) 0 0)) := by
  have hflag : flag (rmB t s) 31 = true := hb
  rw [opRmRred, withCkpt_shields hck]
  dsimp only
  rw [if_pos hflag, withRm_ok (rmTarget_group hin) rfl, withSlot_free (by rw [outstanding_shielded]; exact hslot)]
  rfl

theorem opRmGrpretire_sends : opRmGrpretire t s = .done (pushAcc (shielded s t.core) t.core
    { grpAcc t (shielded s t.core) 0 kGrpretire (bits (portOf t s pRMb).toNat 11 0) 0 0 0 with addr := homeAddr (ptrAddr t.y) }) := by
  rw [opRmGrpretire, withCkpt_shields hck]
  dsimp only
  rw [withRm_ok (rmTarget_group hin) rfl, withSlot_free (by rw [outstanding_shielded]; exact hslot)]
  rfl

theorem opRmGrpclr_sends {w : Window × Nat}
    (hw : windowFor (shielded s t.core) (ctxOf (shielded s t.core) t.core) (homeAddr (ptrAddr t.y)) .red = (z, .ok w)) :
    opRmGrpclr t s = .done (pushAcc (rmStatus t z 0) t.core
      { grpAcc t z 0 kGrpclr (bits (portOf t s pRMb).toNat 11 0) 0 0 0 with addr := homeAddr (ptrAddr t.y) }) := by
  have hz : outstanding (z.core t.core) < 2048 := by
    rw [(touched_of_windowFor hw).core, outstanding_shielded]
    exact hslot
  rw [opRmGrpclr, withCkpt_shields hck]
  dsimp only
  rw [withRm_ok (rmTarget_group hin) rfl, hw]
  dsimp only
  rw [withSlot_free hz]
  rfl

end

/-! ### A contribution and its record (R321, R322) -/

/-- A record of the same contribution stands among the records, or joins them. -/
theorem addContrib_room {r : RedRec} (h : s.fe.contribs.length < contribMax) :
    ∃ l, addContrib s (some r) = some { s with fe := { s.fe with contribs := l } } ∧
      ∃ e ∈ l, e.home = r.home ∧ e.ctx = r.ctx ∧ e.grp = r.grp ∧ e.rank = r.rank := by
  unfold addContrib
  dsimp only
  split
  next hany =>
    obtain ⟨e, he, hsame⟩ := List.any_eq_true.mp hany
    have hfields : e.home = r.home ∧ e.ctx = r.ctx ∧ e.grp = r.grp ∧ e.rank = r.rank := by
      simp only [RedRec.same, Bool.and_eq_true, beq_iff_eq] at hsame
      tauto
    refine ⟨_, rfl, { e with pend := e.pend + 1 }, List.mem_map.mpr ⟨e, he, if_pos hsame⟩, hfields⟩
  next =>
    rw [if_neg (Nat.not_le.mpr h)]
    exact ⟨_, rfl, r, by simp, rfl, rfl, rfl, rfl⟩

/-- The access of a contribution of `n` elements of format code `f` to group `grp` behind window `win` (R320, R321). -/
def contribAcc (t : Trig) (s : State) (grp rank f n : Nat) (win : Window) : Acc :=
  { grpAcc t s 1 kContrib grp (wordN rank) (wordN (f + n * 256)) 0 with
    parked := [0], peer := 1 + 2048 * win.domain + win.member, cmp := wordN (1 + win.tctx * 2 ^ 16) }

theorem contribAcc_of_core {grp rank f n : Nat} {win : Window} (hcore : u.core t.core = s.core t.core)
    (hteams : u.fe.teams = s.fe.teams) (hreqs : u.fe.reqs = s.fe.reqs) :
    contribAcc t u grp rank f n win = contribAcc t s grp rank f n win := by
  simp only [contribAcc, grpAcc_of_core hcore hteams hreqs]

theorem opRmRred_contributes (hck : t.ckpt = true) (hslot : outstanding (s.core t.core) < 2048) (hin : RmIn t 1)
    {f : Fmt} {n : Nat} {win : Window} {tgt : Nat}
    (hb : (portOf t s pRMb).getLsbD 31 = false) (hn : n = bits (portOf t s pRMd).toNat 19 8 + 1)
    (hf : grpFmt (bits (portOf t s pRMd).toNat 24 20) = some f) (hlen : n * f.width ≤ 4096)
    (hsp : InSpad (shielded s t.core) t.core (portOf t s pRMa) (n * f.width) f.width) (hal : winOff (ptrAddr t.y) % f.width = 0)
    (hw : windowFor (shielded s t.core) (ctxOf (shielded s t.core) t.core) (ptrAddr t.y) .red = (z, .ok (win, tgt)))
    (hroom : s.fe.contribs.length < contribMax) :
    ∃ l, opRmRred t s = .done (pushAcc (plan { z with fe := { z.fe with contribs := l } } t.core 1 rRead
        (.rredRead (ptrAddr (portOf t s pRMa)) (n * f.width) (z.core t.core).nextId)) t.core
        (contribAcc t { z with fe := { z.fe with contribs := l } } (bits (portOf t s pRMb).toNat 11 0) (bits (portOf t s pRMb).toNat 27 16)
          (bits (portOf t s pRMd).toNat 24 20) n win)) ∧
      ∃ e ∈ l, e.home = 2048 * win.domain + win.member ∧ e.ctx = win.tctx ∧ e.grp = bits (portOf t s pRMb).toNat 11 0 ∧
        e.rank = bits (portOf t s pRMb).toNat 27 16 := by
  have htouched := touched_of_windowFor hw
  have hroom' : z.fe.contribs.length < contribMax := by rw [htouched.fe, shielded_fe]; exact hroom
  obtain ⟨l, hadd, hrec⟩ := addContrib_room (r := ⟨(z.core t.core).team.getD 0, 2048 * win.domain + win.member, win.tctx,
    fld (rmB t s) 11 0, fld (rmB t s) 27 16, 0, 1, [], ctxOf z t.core, none⟩) hroom'
  refine ⟨l, ?_, hrec⟩
  have hflag : ¬ flag (rmB t s) 31 = true := by rw [show flag (rmB t s) 31 = false from hb]; exact Bool.false_ne_true
  have hfmt : grpFmt (fld (rmD t (shielded s t.core)) 24 20) = some f := by rw [rmD, portOf_shielded]; exact hf
  have hcount : fld (rmD t s) 19 8 + 1 = n := hn.symm
  have hbad : ((some f).isNone || decide (4096 < n * f.width)) = false := by simpa using hlen
  have hz : outstanding ((shielded s t.core).core t.core) < 2048 := by rw [outstanding_shielded]; exact hslot
  rw [opRmRred, withCkpt_shields hck]
  dsimp only
  rw [if_neg hflag, hfmt, hcount]
  dsimp only
  rw [withRm_ok (rmTarget_group hin) hbad, rmA, portOf_shielded, lsTarget_inSpad hsp]
  dsimp only
  rw [if_neg (not_not.mpr hal), withSlot_free hz]
  have hcode : fld (rmD t { z with fe := { z.fe with contribs := l } }) 24 20 = bits (portOf t s pRMd).toNat 24 20 := by
    rw [← portOf_shielded t s t.core]
    simp only [rmD, portOf, State.core, htouched.cores]
    rfl
  simp only [contribOf, hw, hadd, contribAcc, hcode, Nat.shiftLeft_eq, Nat.add_assoc, Option.map_some, Option.getD_some]
  rfl

/-- After the contribution's read is scheduled and its access has its place. -/
theorem contributed_core {l : List RedRec} {a : Acc} {fx : Fx} (hz : z.core t.core = (shielded s t.core).core t.core) :
    let q := pushAcc (plan { z with fe := { z.fe with contribs := l } } t.core 1 rRead fx) t.core a
    (q.core t.core).accs = (s.core t.core).accs ++ [a] ∧
      (⟨(s.core t.core).cyc + 1, rRead, (s.core t.core).cyc, fx⟩ : Due) ∈ (q.core t.core).due := by
  obtain ⟨b, hcore⟩ := shielded_core_same s t.core
  have hz' : State.core { z with fe := { z.fe with contribs := l } } t.core = { s.core t.core with shielded := b } := hz.trans hcore
  intro q
  rw [pushAcc_core, if_pos rfl, plan_core, if_pos rfl, hz']
  exact ⟨rfl, (mem_insertDue _ _ _).mpr (.inr rfl)⟩

end

theorem rmGroups : Stmt.RmGroups := by
  intro t s hck hslot hin c u a b d grp rank src inSpad status
  refine ⟨fun hb => ?withdraw, fun f n win tgt z hb hn hf hlen hsp hal hw hroom => ?contrib, ?retire, fun z e hw => ?clrRefused,
    fun z w hw => ?clr, fun hsp hal herr => ?set⟩
  case withdraw => exact congrArg (finish s c) (opRmRred_withdraws hck hslot hin hb)
  case contrib =>
    have htouched := touched_of_windowFor hw
    have hz : z.core t.core = (shielded s t.core).core t.core := htouched.core t.core
    have hnext : (z.core t.core).nextId = (s.core t.core).nextId := by
      obtain ⟨b, hcore⟩ := shielded_core_same s t.core
      rw [hz, hcore]
    obtain ⟨l, hop, hrec⟩ := opRmRred_contributes hck hslot hin hb hn hf hlen hsp hal hw hroom
    refine ⟨_, congrArg (finish s c) hop, ?_, hrec, ?_, ?_⟩
    · refine sameMemory_of_hbm ?_
      change z.hbm = s.hbm
      rw [← shielded_hbm s t.core, ← windowFor_hbm (shielded s t.core) (ctxOf (shielded s t.core) t.core) (ptrAddr t.y) .red, hw]
    · have hteams : z.fe.teams = (shielded s t.core).fe.teams := by rw [htouched.fe]
      have hreqs : z.fe.reqs = (shielded s t.core).fe.reqs := by rw [htouched.fe]
      rw [(contributed_core hz).1]
      exact congrArg (fun a => (s.core t.core).accs ++ [a])
        (contribAcc_of_core (u := { z with fe := { z.fe with contribs := l } }) hz hteams hreqs)
    · rw [hnext]
      exact (contributed_core hz).2
  case retire => exact congrArg (finish s c) (opRmGrpretire_sends hck hslot hin)
  case clrRefused => exact congrArg (finish s c) (opRmGrpclr_refused hck hin hw)
  case clr => exact congrArg (finish s c) (opRmGrpclr_sends hck hslot hin hw)
  case set =>
    intro v
    refine ⟨fun hbad => ?_, fun z e hlegal hw => ?_, fun z w hlegal hw => ?_⟩
    · exact congrArg (finish s c) ((opRmGrpset_reads (z := s) hck hin hsp hal herr rfl).1 hbad)
    · exact congrArg (finish s c) ((opRmGrpset_reads hck hin hsp hal herr rfl).2.1 e hlegal hw)
    · exact congrArg (finish s c) ((opRmGrpset_reads hck hin hsp hal herr rfl).2.2 w hslot hlegal hw)

/-! ### Link queues and keys (R312, R313) -/

section
variable {t : Trig} {s z : State}

theorem putKey_core (s : State) (k : FlowKey) (c : Nat) : (putKey s k).core c = s.core c := rfl

theorem answerErr_core (s : State) (p : Packet) (code a c : Nat) : (answerErr s p code a).core c = s.core c := by
  have hlog : (logFabric s code a p.tctx).core c = s.core c := (logged_logErr (draw s).1 code a p.tctx 3 (Config.pick (draw s).2 % 48) 0).core c
  unfold answerErr
  obtain ⟨n, f, h⟩ := sendPacket_onlyFabric (logFabric s code a p.tctx)
    { answerHead s p kErr (wordN code) with addr := a % 2 ^ 56, x7 := if p.op = kConnect then p.x7 else 0 }
  rw [h]
  exact hlog

theorem connectKey_core (s : State) (p : Packet) (c : Nat) : (connectKey s p).core c = s.core c := by
  unfold connectKey
  split
  · rfl
  · dsimp only
    split
    · split
      · exact sendCredits_core ..
      · exact answerErr_core ..
    · exact sendCredits_core ..

/-- Registering a key answers the connects that waited for it, and leaves every core as it is. -/
theorem registerKey_core (s : State) (ctx key team tcore lq c : Nat) : (registerKey s ctx key team tcore lq).core c = s.core c := by
  unfold registerKey
  dsimp only
  split
  · rfl
  · exact List.foldlRecOn (motive := fun u : State => u.core c = s.core c) _ _ (connectKey_core ..)
      fun u hu p _ => (connectKey_core u p c).trans hu

theorem lqTaken_shielded (s : State) (c n : Nat) : lqTaken ((shielded s c).core c) n = lqTaken (s.core c) n := by
  obtain ⟨b, hcore⟩ := shielded_core_same s c
  rw [hcore]
  rfl

theorem keyBound_shielded (s : State) (c ctx key : Nat) : keyBound (shielded s c) ctx key = keyBound s ctx key := by
  unfold keyBound findKey
  rw [shielded_fab]

section
variable (hck : t.ckpt = true)
include hck

theorem opRmXperm_issues (hslot : outstanding (s.core t.core) < 2048) (h : OwnSpad t s 512 1) (hal : ptrAddr t.y % 512 = 0)
    (herr : spadErrs (s.core t.core).spadBad (ptrAddr t.y) 512 = []) :
    opRmXperm t s = .done (pushAcc (shielded s t.core) t.core { grpAcc t (shielded s t.core) 2 kXperm 0 0 0
      (BitVec.ofNat 4096 (spadGet (s.core t.core).spad (ptrAddr t.y) 512)) with cls := 15 }) := by
  rw [opRmXperm, withCkpt_shields hck]
  dsimp only
  rw [lsTarget_shielded, lsTarget_own h]
  dsimp only
  rw [if_neg (not_not.mpr hal), withSlot_free (by rw [outstanding_shielded]; exact hslot), spLoad_shielded herr]

theorem opRmLqbind_illegal (h : 5 ≤ bits (portOf t s pRMb).toNat 6 4) : opRmLqbind t s = .trap (trapIllegal t.slot) := by
  rw [opRmLqbind, withCkpt_shields hck]
  exact if_pos h

/-- The inbound form, past its checks, in the state `u` that the shield leaves. -/
theorem opRmLqbind_inbound (hlen : bits (portOf t s pRMb).toNat 6 4 < 5) (hb : (portOf t s pRMb).getLsbD 3 = false)
    (hres : bits t.y.toNat 63 32 = 0) :
    let u := shielded s t.core
    let n := bits (portOf t s pRMb).toNat 2 0
    let key := bits t.y.toNat 31 0
    opRmLqbind t s = if lqTaken (s.core t.core) n then .done (rmStatus t u 2)
      else if keyBound s (ctxOf s t.core) key then .done (rmStatus t u 1)
      else
        let v := registerKey u (ctxOf s t.core) key ((s.core t.core).team.getD 0) (s.core t.core).tcore n
        .done (plan (rmStatus t v 0) t.core 3 rReg (.lqBind n false (bits (portOf t s pRMb).toNat 6 4) key 0 0 (s.core t.core).nextId)) := by
  have hlen' : ¬ 5 ≤ fld (rmB t s) 6 4 := Nat.not_le.mpr hlen
  have hout : ¬ flag (rmB t s) 3 = true := by rw [show flag (rmB t s) 3 = false from hb]; exact Bool.false_ne_true
  have hkey : ¬ fld t.y 63 32 ≠ 0 := not_not.mpr hres
  have hnext (ctx key team tcore n : Nat) :
      ((registerKey (shielded s t.core) ctx key team tcore n).core t.core).nextId = (s.core t.core).nextId := by
    obtain ⟨b, hcore⟩ := shielded_core_same s t.core
    rw [registerKey_core, hcore]
  intro u n key
  rw [opRmLqbind, withCkpt_shields hck]
  dsimp only
  rw [if_neg hlen', if_neg hout, if_neg hkey, lqTaken_shielded, ctxOf_shielded, keyBound_shielded, hnext, shielded_core_team,
    shielded_core_tcore]
  rfl

/-- Queue `n` of core `c` as an outbound one under the next flow handle. -/
def outMarked (z : State) (c n : Nat) : State :=
  State.onCore { z with fab := { z.fab with nextRid := z.fab.nextRid + 1 } } c
    (fun x => x.setLq n { LinkQ.init with out := true, seq := z.fab.nextRid })

/-- The state in which the outbound form of a binding has its status and its binding due. -/
def outBound (t : Trig) (z : State) (n rlen key sent win : Nat) : State :=
  plan (rmStatus t (outMarked z t.core n) 0) t.core 3 rReg
    (.lqBind n true rlen key sent win ((outMarked z t.core n).core t.core).nextId)

theorem opRmLqbind_outbound {w : Window × Nat} (hslot : outstanding (s.core t.core) < 2048)
    (hlen : bits (portOf t s pRMb).toNat 6 4 < 5) (hb : (portOf t s pRMb).getLsbD 3 = true) (hin : RmIn t 1)
    (hoff : winOff (ptrAddr t.y) < 2 ^ 32) (hfree : lqTaken (s.core t.core) (bits (portOf t s pRMb).toNat 2 0) = false)
    (hw : windowFor (shielded s t.core) (ctxOf s t.core) (ptrAddr t.y) .wr = (z, .ok w)) :
    let v := outBound t z (bits (portOf t s pRMb).toNat 2 0) (bits (portOf t s pRMb).toNat 6 4) (winOff (ptrAddr t.y) % 2 ^ 32)
      (bits (portOf t s pRMb).toNat 31 16) (winNo (ptrAddr t.y))
    opRmLqbind t s = .done (pushAcc v t.core { rmAcc t v 0 with
      op := .connect z.fab.nextRid, data := BitVec.ofNat 1024 (winOff (ptrAddr t.y) % 2 ^ 32) }) := by
  have hlen' : ¬ 5 ≤ fld (rmB t s) 6 4 := Nat.not_le.mpr hlen
  have hout : flag (rmB t s) 3 = true := hb
  have hkey : ¬ winOff (ptrAddr t.y) / 2 ^ 32 ≠ 0 := not_not.mpr (Nat.div_eq_of_lt hoff)
  have htaken : ¬ lqTaken ((shielded s t.core).core t.core) (fld (rmB t s) 2 0) = true := by
    rw [lqTaken_shielded, show lqTaken (s.core t.core) (fld (rmB t s) 2 0) = false from hfree]
    exact Bool.false_ne_true
  have hz : outstanding (z.core t.core) < 2048 := by
    rw [(touched_of_windowFor hw).core, outstanding_shielded]
    exact hslot
  intro v
  rw [opRmLqbind, withCkpt_shields hck]
  dsimp only
  rw [if_neg hlen', if_pos hout, withRm_ok (rmTarget_group hin) rfl, if_neg hkey, if_neg htaken, ctxOf_shielded, hw]
  dsimp only
  rw [withSlot_free hz]
  rfl

theorem opRmLqfree_frees (h : ∀ j, j < 8 → ¬ (((s.core t.core).dup.chanOf j).st = .running ∧ dMem ((s.core t.core).dup.chanOf j).desc = 3 ∧
      dLq ((s.core t.core).dup.chanOf j).desc = bits t.y.toNat 2 0)) :
    opRmLqfree t s = if !((s.core t.core).lqOf (bits t.y.toNat 2 0)).bound && !lqPending (s.core t.core) (bits t.y.toNat 2 0) then
        .done (rmStatus t (shielded s t.core) 3)
      else .done (plan (rmStatus t (shielded s t.core) 0) t.core 3 rReg (.lqFree (bits t.y.toNat 2 0))) := by
  obtain ⟨b, hcore⟩ := shielded_core_same s t.core
  have hnone : ((span 0 8).any (fun j => ((s.core t.core).dup.chanOf j).st == .running && dMem ((s.core t.core).dup.chanOf j).desc == 3 &&
      dLq ((s.core t.core).dup.chanOf j).desc == fld t.y 2 0)) = false := by
    refine List.any_eq_false.mpr fun j hj hrun => h j (by have := mem_span.mp hj; omega) ?_
    simp only [Bool.and_eq_true, beq_iff_eq] at hrun
    exact ⟨hrun.1.1, hrun.1.2, hrun.2⟩
  rw [opRmLqfree, withCkpt_shields hck]
  simp only [hcore, hnone, Bool.false_eq_true, if_false]
  rfl

end

/-- What the outbound form leaves in its core: the access of its connect at the end, and its binding due. -/
theorem outBound_core (hz : z.core t.core = (shielded s t.core).core t.core) (n rlen key sent win : Nat) (a : Acc) :
    let q := pushAcc (outBound t z n rlen key sent win) t.core a
    (q.core t.core).accs = (s.core t.core).accs ++ [a] ∧
      (⟨(s.core t.core).cyc + 3, rReg, (s.core t.core).cyc, .lqBind n true rlen key sent win (s.core t.core).nextId⟩ : Due) ∈
        (q.core t.core).due := by
  obtain ⟨b, hcore⟩ := shielded_core_same s t.core
  have hmark : (outMarked z t.core n).core t.core =
      ({ s.core t.core with shielded := b } : Core).setLq n { LinkQ.init with out := true, seq := z.fab.nextRid } := by
    rw [outMarked, onCore_core_get, if_pos rfl, ← hcore, ← hz]
    rfl
  intro q
  rw [pushAcc_core, if_pos rfl, outBound, plan_core, if_pos rfl, rmStatus, plan_core, if_pos rfl, hmark]
  exact ⟨rfl, (mem_insertDue _ _ _).mpr (.inr rfl)⟩

/-- The access of the connect is that of the state before the queue was marked. -/
theorem rmAcc_outBound (t : Trig) (z : State) (n rlen key sent win : Nat) :
    rmAcc t (outBound t z n rlen key sent win) 0 = rmAcc t z 0 := by
  have hcore : ∃ d q, (outBound t z n rlen key sent win).core t.core = { z.core t.core with due := d, lq := q } := by
    rw [outBound, plan_core, if_pos rfl, rmStatus, plan_core, if_pos rfl, outMarked, onCore_core_get, if_pos rfl]
    exact ⟨_, _, rfl⟩
  obtain ⟨d, q, hcore⟩ := hcore
  have hbase : accBase (outBound t z n rlen key sent win) t.core = accBase z t.core :=
    accBase_congr (by rw [hcore]) (by rw [hcore]) (by rw [hcore]) rfl rfl
  simp only [rmAcc, hbase, rmHead, rmQual, rmScope, rmD, rmQ, portOf, hcore]

end

theorem rmFlows : Stmt.RmFlows := by
  intro t s hck hslot c u x b n m rlen key status
  refine ⟨fun hsp hal herr => ?xperm, fun hlen hb hres => ⟨fun htaken => ?inTaken, fun hfree hkey => ?inKey, fun hfree hkey => ?inbound⟩,
    fun z w hlen hb hin hoff hfree hw => ?outbound, fun hlen => ?illegal, fun hnone => ⟨fun hbound => ?free, fun hbound hpend => ?unbound⟩⟩
  case xperm => exact congrArg (finish s c) (opRmXperm_issues hck hslot hsp hal herr)
  case inTaken => exact congrArg (finish s c) ((opRmLqbind_inbound hck hlen hb hres).trans (if_pos htaken))
  case inKey =>
    exact congrArg (finish s c) ((opRmLqbind_inbound hck hlen hb hres).trans
      ((if_neg (Bool.eq_false_iff.mp hfree)).trans (if_pos hkey)))
  case inbound =>
    exact congrArg (finish s c) ((opRmLqbind_inbound hck hlen hb hres).trans
      ((if_neg (Bool.eq_false_iff.mp hfree)).trans (if_neg (Bool.eq_false_iff.mp hkey))))
  case outbound =>
    have hz : z.core t.core = (shielded s t.core).core t.core := (touched_of_windowFor hw).core t.core
    refine ⟨_, congrArg (finish s c) (opRmLqbind_outbound hck hslot hlen hb hin hoff hfree hw), ?_, ?_, (outBound_core hz ..).2⟩
    · refine sameMemory_of_hbm ?_
      change z.hbm = s.hbm
      rw [← shielded_hbm s t.core, ← windowFor_hbm (shielded s t.core) (ctxOf s t.core) (ptrAddr t.y) .wr, hw]
    · rw [(outBound_core hz ..).1, rmAcc_outBound]
      rfl
  case illegal => exact congrArg (finish s c) (opRmLqbind_illegal hck hlen)
  case free =>
    exact congrArg (finish s c) ((opRmLqfree_frees hck hnone).trans
      (if_neg (by rw [show ((s.core t.core).lqOf (bits t.y.toNat 2 0)).bound = true from hbound]; exact Bool.false_ne_true)))
  case unbound =>
    exact congrArg (finish s c) ((opRmLqfree_frees hck hnone).trans (if_pos (by
      rw [show ((s.core t.core).lqOf (bits t.y.toNat 2 0)).bound = false from hbound,
        show lqPending (s.core t.core) (bits t.y.toNat 2 0) = false from hpend]
      rfl)))

/-- Settles O30: a window check or a descriptor read leaves the strand's core as it was, so each operation takes its place, or answers its
status, as in the state before it. -/
theorem remoteGroupsAndFlows : Obligations.RemoteGroupsAndFlows := ⟨rmGroups, rmFlows⟩

end Sys2Proof.Proofs
end

section
/-!
PROOFS. Lanes of wide registers, the event of a vector operation, and the arithmetic of VX lane by lane (O20).
-/
namespace Sys2Proof.Proofs

open Sys2Proof.Machine Sys2Proof.Laws Sys2Proof.Stmt

/-! ### Packed lanes (R277) -/

section
variable {w a n l : Nat} {g : Nat → Nat}

/-- Bit `i` of `n` packed lanes, lane `l` being `g (a + l)`. -/
theorem testBit_packed (hw : 0 < w) (g : Nat → Nat) (a n i : Nat) :
    (packList w ((span a n).map g)).testBit i = (decide (i < w * n) && (g (a + i / w)).testBit (i % w)) := by
  rw [testBit_packList hw, span_eq_range', List.getElem?_map]
  have hdiv : i / w < n ↔ i < w * n := by rw [Nat.div_lt_iff_lt_mul hw, Nat.mul_comm]
  by_cases h : i / w < n
  · rw [List.getElem?_range' h]
    simp [hdiv.mp h]
  · rw [List.getElem?_eq_none (by simpa using h)]
    simp [mt hdiv.mpr h]

theorem packed_low (hl : l < n) {j : Nat} (hj : j < w) :
    (packList w ((span a n).map g)).testBit (w * l + j) = (g (a + l)).testBit j := by
  have hin : w * l + j < w * n := by
    have := Nat.mul_le_mul_left w (Nat.succ_le_of_lt hl)
    rw [Nat.mul_succ] at this
    omega
  rw [testBit_packed (Nat.zero_lt_of_lt hj), Nat.mul_add_div (Nat.zero_lt_of_lt hj), Nat.mul_add_mod, Nat.div_eq_of_lt hj,
    Nat.mod_eq_of_lt hj, decide_eq_true hin]
  rfl

/-- A field whose bits are those of `x`. -/
theorem fld_of_testBit {m p x : Nat} {v : BitVec m} (hw : 0 < w) (h : ∀ j, j < w → v.getLsbD (p + j) = x.testBit j) :
    fld v (p + w - 1) p = x % 2 ^ w := by
  refine Nat.eq_of_testBit_eq fun j => ?_
  rw [fld, bits, show p + w - 1 + 1 - p = w by omega, Nat.testBit_mod_two_pow, Nat.testBit_mod_two_pow, Nat.testBit_shiftRight]
  by_cases hj : j < w
  · rw [decide_eq_true hj, ← h j hj, BitVec.getLsbD]
  · rw [decide_eq_false hj, Bool.false_and, Bool.false_and]

theorem lane_fits (hn : w * n ≤ 1024) (hl : l < n) {j : Nat} (hj : j < w) : w * l + j < 1024 := by
  have := Nat.mul_le_mul_left w (Nat.succ_le_of_lt hl)
  rw [Nat.mul_succ] at this
  omega

theorem laneAt_packed (hw : 0 < w) (hn : w * n ≤ 1024) (hl : l < n) :
    laneAt (BitVec.ofNat 1024 (packList w ((span a n).map g))) w l = g (a + l) % 2 ^ w := by
  refine fld_of_testBit hw fun j hj => ?_
  rw [BitVec.getLsbD_ofNat, decide_eq_true (lane_fits hn hl hj), Bool.true_and, packed_low hl hj]

theorem mul_laneCount_le (w : Nat) : w * laneCount w ≤ 1024 := Nat.mul_div_le 1024 w

theorem laneAt_lt (x : Wide) (hw : 0 < w) (i : Nat) : laneAt x w i < 2 ^ w := by
  have h := fld_lt_two_pow x (w * i + w - 1) (w * i)
  rwa [show w * i + w - 1 + 1 - w * i = w by omega] at h

theorem width_pos (f : Fmt) : 0 < f.width := by cases f <;> decide

end

/-! ### The first lane that satisfies a test -/

section
variable {α : Type} {g : Nat → α} {p : α → Bool} {a n l : Nat}

theorem findIdx?_lanes_none (h : ∀ l, a ≤ l → l < a + n → p (g l) = false) : ((span a n).map g).findIdx? p = none := by
  refine List.findIdx?_eq_none_iff.mpr fun r hr => ?_
  obtain ⟨l, hl, rfl⟩ := List.mem_map.mp hr
  obtain ⟨hlo, hhi⟩ := mem_span.mp hl
  exact h l hlo hhi

theorem findIdx?_lanes_some (hlo : a ≤ l) (hhi : l < a + n) (hp : p (g l) = true) (hfirst : ∀ j, a ≤ j → j < l → p (g j) = false) :
    ((span a n).map g).findIdx? p = some (l - a) := by
  have hlen : l - a < ((span a n).map g).length := by
    rw [List.length_map, length_span]
    omega
  refine List.findIdx?_eq_some_iff_getElem.mpr ⟨hlen, ?_, fun j hj => ?_⟩
  · simp only [span_eq_range', List.getElem_map, List.getElem_range']
    rwa [Nat.one_mul, Nat.add_sub_cancel' hlo]
  · simp only [span_eq_range', List.getElem_map, List.getElem_range', Nat.one_mul]
    rw [hfirst (a + j) (Nat.le_add_right a j) (by omega)]
    exact Bool.false_ne_true

end

/-! ### The event of a vector operation (R291) -/

section
variable {g : Nat → Nat × Bool} {a n : Nat}

/-- The lanes from `a` post the event of the first of them that has one. -/
theorem posted_from (t : WTrig) (s : State) (off minor op : Nat) :
    Posted t s (vecPost t s off minor op ((firstEvent ((span a n).map g)).map (· + a))) off minor op (a + n)
      (fun l => decide (a ≤ l) && (g l).2) := by
  refine ⟨fun hnone => ?_, fun l hl hev hfirst => ?_⟩
  · rw [firstEvent, findIdx?_lanes_none fun l hlo hhi => by simpa [hlo] using hnone l hhi]
    rfl
  · obtain ⟨hlo, hev⟩ := Bool.and_eq_true_iff.mp hev
    have hlo : a ≤ l := of_decide_eq_true hlo
    rw [firstEvent, findIdx?_lanes_some hlo hl hev fun j hj hjl => by simpa [hj] using hfirst j hjl, Option.map_some,
      Nat.sub_add_cancel hlo]
    rfl

theorem posted_lanes (g : Nat → Nat × Bool) (n : Nat) (t : WTrig) (s : State) (off minor op : Nat) :
    Posted t s (vecPost t s off minor op (firstEvent ((span 0 n).map g))) off minor op n (fun l => (g l).2) := by
  have h := posted_from (g := g) (a := 0) (n := n) t s off minor op
  simpa using h

theorem posted_none (t : WTrig) (s : State) (off minor op : Nat) : Posted t s s off minor op 0 (fun _ => false) :=
  ⟨fun _ => rfl, fun _ hl => absurd hl (Nat.not_lt_zero _)⟩

end

/-! ### Lane operations of VX (R278 to R281, R284) -/

section
variable {t : WTrig} {s : State} {i : Instr} {op off : Nat} {ok : Fmt → Bool} {f : Fmt}

theorem vxSet_of {m : Word} (hf : Fmt.ofCode (bits m.toNat 4 0) = some f) (hok : ok f = true) :
    vxSet m ok = some ⟨f, bits m.toNat 6 5, m.getLsbD 7⟩ := by
  simp only [vxSet, fld, hf, hok]
  rfl

theorem vxSet_illegal {m : Word} (h : ∀ f, Fmt.ofCode (bits m.toNat 4 0) = some f → ok f = false) : vxSet m ok = none := by
  unfold vxSet
  split
  next f hf => rw [h f hf]; rfl
  next => rfl

/-- VX gives the lanes that it packs, with the event of the first of them that has one. -/
theorem vxGives_packed {w : Nat} {g : Nat → Nat × Bool} (hw : 0 < w)
    (h : Gives i s (planned (vecPost t s off 1 op (firstEvent ((span 0 (laneCount w)).map g))) t.core off rReg
      (.wlat lVXr (BitVec.ofNat 1024 (packList w (((span 0 (laneCount w)).map g).map (·.1))))))) : VxGives i t s op off w g := by
  refine ⟨_, _, h, fun l hl => ?_, posted_lanes g _ t s off 1 op⟩
  rw [List.map_map, laneAt_packed hw (mul_laneCount_le w) hl, Nat.zero_add]
  rfl

/-- A lane operation gives its function of the lanes of A, B and Y. -/
theorem vxGives_of {g : VxSet → Nat → Nat → Nat → Nat × Bool} {r : Nat → Nat × Bool}
    (he : exec i s = finish s t.core (vxOp t s op off ok g)) (hf : Fmt.ofCode (bits (vxM t s).toNat 4 0) = some f) (hok : ok f = true)
    (hr : ∀ l, g ⟨f, bits (vxM t s).toNat 6 5, (vxM t s).getLsbD 7⟩ (laneAt (vxA t s) f.width l)
      (laneAt (vxB t s) f.width l) (laneAt t.y f.width l) = r l) : VxGives i t s op off f.width r := by
  obtain rfl : _ = r := funext hr
  refine vxGives_packed (width_pos f) ?_
  rw [Gives, he, vxOp, vxSet_of hf hok]
  rfl

theorem vxOp_illegal {g : VxSet → Nat → Nat → Nat → Nat × Bool} (he : exec i s = finish s t.core (vxOp t s op off ok g))
    (h : ∀ f, Fmt.ofCode (bits (vxM t s).toNat 4 0) = some f → ok f = false) : Illegal i t s := by
  rw [Illegal, Gives, he, vxOp, vxSet_illegal h]
  rfl

end

/-- A choice between results without an event. -/
theorem ite_lane {c : Prop} [Decidable c] (x y : Nat) : (if c then (x, false) else (y, false)) = (if c then x else y, false) :=
  (apply_ite (fun v => (v, false)) c x y).symm

theorem vxFloatLanes : Stmt.VxFloatLanes := by
  intro t s m ops
  refine ⟨fun f hf hF => ?legal, fun h => ?illegal⟩
  case legal =>
    have gives {i op off} {g : VxSet → Nat → Nat → Nat → Nat × Bool} {r} (he : exec i s = finish s t.core (vxOp t s op off Fmt.isF g)) :=
      vxGives_of (r := r) he hf hF
    exact ⟨gives (g := laneFadd) rfl fun _ => rfl, gives (g := laneFsub) rfl fun _ => rfl, gives (g := laneFmul) rfl fun _ => rfl,
      gives (g := laneFma) rfl fun _ => rfl, gives (g := laneFmin) rfl fun _ => by simp only [laneFmin, ite_lane]; rfl,
      gives (g := laneFmax) rfl fun _ => by simp only [laneFmax, ite_lane]; rfl, gives (g := laneFabs) rfl fun _ => ite_lane ..,
      gives (g := laneFneg) rfl fun _ => ite_lane .., gives (g := laneExp2) rfl fun _ => rfl, gives (g := laneRcp) rfl fun _ => rfl,
      gives (g := laneRsq) rfl fun _ => rfl⟩
  case illegal =>
    simp only [ops, List.mem_cons, List.not_mem_nil, or_false]
    rintro e (rfl | rfl | rfl | rfl | rfl | rfl | rfl | rfl | rfl | rfl | rfl) <;> exact vxOp_illegal rfl h

/-! ### Integer lanes (R284) -/

theorem clamp_eq (v : Int) {r : Int × Int} (hr : r.1 ≤ r.2) : clamp v r = (max r.1 (min r.2 v), decide (v < r.1 ∨ r.2 < v)) := by
  unfold clamp
  split
  next h => simp [h]; omega
  next h =>
    split
    next h2 => simp [h2]; omega
    next h2 => simp [h, h2]; omega

theorem intRange_ordered (f : Fmt) : (intRange f).1 ≤ (intRange f).2 := by cases f <;> decide

theorem laneWrap_eq (e : VxSet) (v : Int) : laneWrap e v =
    if e.sat = true then (wrapw (max (intRange e.f).1 (min (intRange e.f).2 v)) e.f.width,
      decide (v < (intRange e.f).1 ∨ (intRange e.f).2 < v)) else (wrapw v e.f.width, false) := by
  rw [laneWrap, clamp_eq v (intRange_ordered e.f)]

/-! ### Compares and selections (R282, R283) -/

section
variable {t : WTrig} {s : State} {i : Instr} {f : Fmt}

theorem isC_iff (f : Fmt) : f.isC = true ↔ f.isF = true ∨ (f.isInt = true ∧ f.width ≠ 8) := by
  cases f <;> decide

/-- The formats that compares take have lanes of whole granules. -/
theorem width_of_isC (h : f.isC = true) : f.width = 16 ∨ f.width = 32 ∨ f.width = 64 := by
  revert h
  cases f <;> decide

/-- Granule `j` of a mask is the outcome of the lane that it lies in. -/
theorem testBit_granules {w j : Nat} (hw : w = 16 ∨ w = 32 ∨ w = 64) (hj : j < 64) (g : Nat → Bool) :
    (granules w ((span 0 (laneCount w)).map g)).testBit j = g (16 * j / w) := by
  have hk : 0 < w / 16 := by omega
  have hlanes : j < w / 16 * laneCount w := by
    rcases hw with rfl | rfl | rfl <;> exact hj
  have hlane : j / (w / 16) = 16 * j / w := by
    rcases hw with rfl | rfl | rfl <;> omega
  have hrest : j % (w / 16) < w / 16 := Nat.mod_lt _ hk
  rw [granules, List.map_map, testBit_packed hk, decide_eq_true hlanes, Nat.zero_add, Bool.true_and, hlane, Function.comp]
  cases g (16 * j / w)
  · exact Nat.zero_testBit _
  · rw [if_pos rfl, Nat.testBit_two_pow_sub_one, decide_eq_true hrest]

theorem vxCmp_mask {rel : Val → Val → Bool} (he : exec i s = finish s t.core (vxCmp t s rel))
    (hf : Fmt.ofCode (bits (vxM t s).toNat 4 0) = some f) (hC : f.isC = true) :
    ∃ c : Word, Gives i s (planned s t.core 3 rReg (.lat lVXc c)) ∧ ∀ j, j < 64 → c.getLsbD j =
      rel (valueOf f (laneAt (vxA t s) f.width (16 * j / f.width)) 0) (valueOf f (laneAt t.y f.width (16 * j / f.width)) 0) := by
  have hgives : Gives i s (planned s t.core 3 rReg (.lat lVXc (wordN (granules f.width ((span 0 (laneCount f.width)).map
      (fun l => rel (valueOf f (laneAt (vxA t s) f.width l) 0) (valueOf f (laneAt t.y f.width l) 0))))))) := by
    rw [Gives, he, vxCmp, vxSet_of hf hC]
    rfl
  refine ⟨_, hgives, fun j hj => ?_⟩
  rw [wordN, BitVec.getLsbD_ofNat, decide_eq_true hj, Bool.true_and, testBit_granules (width_of_isC hC) hj]

theorem vxCmp_illegal {rel : Val → Val → Bool} (he : exec i s = finish s t.core (vxCmp t s rel))
    (h : ∀ f, Fmt.ofCode (bits (vxM t s).toNat 4 0) = some f → f.isF = false ∧ (f.isInt = false ∨ f.width = 8)) : Illegal i t s := by
  have hC : ∀ f, Fmt.ofCode (bits (vxM t s).toNat 4 0) = some f → f.isC = false := fun f hf => by
    obtain ⟨hF, hI⟩ := h f hf
    refine Bool.eq_false_iff.mpr fun hC => ?_
    rcases (isC_iff f).mp hC with hF' | ⟨hI', hw⟩
    · simp [hF] at hF'
    · rcases hI with hI | hI
      · simp [hI] at hI'
      · exact hw hI
  rw [Illegal, Gives, he, vxCmp, vxSet_illegal hC]
  rfl

end

/-- Each bit of a mask of whole units stands over its unit. -/
theorem testBit_unitMask {w k : Nat} (hw : 0 < w) (m : Nat → Bool) (n j : Nat) (hk : k = 2 ^ w - 1) :
    (packList w ((span 0 n).map (fun i => if m i then k else 0))).testBit j = (decide (j < w * n) && m (j / w)) := by
  rw [testBit_packed hw, Nat.zero_add, hk]
  cases m (j / w)
  · rw [if_neg Bool.false_ne_true, Nat.zero_testBit]
  · rw [if_pos rfl, Nat.testBit_two_pow_sub_one, decide_eq_true (Nat.mod_lt j hw)]

theorem getLsbD_selMask (m : Word) {j : Nat} (hj : j < 1024) : (selMask m).getLsbD j = m.getLsbD (j / 16) := by
  rw [selMask, BitVec.getLsbD_ofNat, testBit_unitMask (w := 16) (k := 0xFFFF) (by decide) (flag m) 64 j rfl]
  simp [hj, flag]

/-- A bit of a selection under a mask. -/
theorem getLsbD_select (x y k : Wide) {j : Nat} (hj : j < 1024) :
    ((x &&& k) ||| (y &&& ~~~k)).getLsbD j = if k.getLsbD j then x.getLsbD j else y.getLsbD j := by
  simp only [BitVec.getLsbD_or, BitVec.getLsbD_and, BitVec.getLsbD_not, hj]
  cases k.getLsbD j <;> simp

theorem vxIntegersCompares : Stmt.VxIntegersCompares := by
  intro t s m a res
  refine ⟨fun f hf hI => ?integers, fun f hf hC => ?compares, ⟨_, rfl, fun j hj => ?sel⟩, ⟨_, rfl, rfl⟩, ⟨_, rfl, rfl⟩,
    fun h => ?illegalInt, fun h => ?illegalCmp⟩
  case integers =>
    exact ⟨vxGives_of (g := laneIadd) rfl hf hI fun _ => laneWrap_eq .., vxGives_of (g := laneIsub) rfl hf hI fun _ => laneWrap_eq ..,
      vxGives_of (g := laneImul) rfl hf hI fun _ => laneWrap_eq ..⟩
  case compares =>
    have hC : f.isC = true := (isC_iff f).mpr hC
    exact ⟨vxCmp_mask (rel := numEq) rfl hf hC, vxCmp_mask (rel := numLt) rfl hf hC,
      vxCmp_mask (rel := fun a y => numLt a y || numEq a y) rfl hf hC⟩
  case sel => rw [getLsbD_select _ _ _ hj, getLsbD_selMask _ hj]; rfl
  case illegalInt =>
    simp only [List.mem_cons, List.not_mem_nil, or_false]
    rintro e (rfl | rfl | rfl) <;> exact vxOp_illegal rfl h
  case illegalCmp =>
    simp only [List.mem_cons, List.not_mem_nil, or_false]
    rintro e (rfl | rfl | rfl) <;> exact vxCmp_illegal rfl h

/-- Settles O20: each operation maps its lane function over the packed lanes of its operands; the first lane with an event posts it. -/
theorem vectorArithmetic : Obligations.VectorArithmetic := ⟨vxFloatLanes, vxIntegersCompares⟩

end Sys2Proof.Proofs
end

section
/-!
PROOFS. Conversions of lanes by VC: cvt, pack, unpk and packs (O21).
-/
namespace Sys2Proof.Proofs

open Sys2Proof.Machine Sys2Proof.Laws Sys2Proof.Stmt

/-! ### Lanes packed into a part of a register (R286, R287) -/

section
variable {w n p l : Nat} {x : Wide} {g : Nat → Nat}

/-- `x` with the `n` lanes `g` of width `w` from bit `p`. -/
def inserted (x : Wide) (p w n : Nat) (g : Nat → Nat) : Nat := putBits x.toNat p (w * n) (packList w ((span 0 n).map g))

/-- Part `h` ends where part `h + 1` begins. -/
theorem part_end (h n w : Nat) : h * n * w + w * n = (h + 1) * n * w := by ring

theorem fld_inserted (hw : 0 < w) (hp : p + w * n ≤ 1024) (hl : l < n) :
    fld (BitVec.ofNat 1024 (inserted x p w n g)) (p + w * l + w - 1) (p + w * l) = g l % 2 ^ w := by
  refine fld_of_testBit hw fun j hj => ?_
  have hin : w * l + j < w * n := by
    have := Nat.mul_le_mul_left w (Nat.succ_le_of_lt hl)
    rw [Nat.mul_succ] at this
    omega
  rw [BitVec.getLsbD_ofNat, decide_eq_true (show p + w * l + j < 1024 by omega), Bool.true_and, inserted, testBit_putBits,
    if_pos ⟨by omega, by omega⟩, show p + w * l + j - p = w * l + j by omega, packed_low hl hj, Nat.zero_add]

theorem getLsbD_inserted_outside {j : Nat} (hj : j < 1024) (hout : j < p ∨ p + w * n ≤ j) :
    (BitVec.ofNat 1024 (inserted x p w n g)).getLsbD j = x.getLsbD j := by
  rw [BitVec.getLsbD_ofNat, decide_eq_true hj, Bool.true_and, inserted, testBit_putBits, if_neg (by omega)]
  rfl

end

/-! ### Results of VC -/

section
variable {t : WTrig} {s : State} {i : Instr} {op off n : Nat} {ev : Nat → Bool} {p : Wide → Prop}

theorem vcGives_of {v : Nat} {o : Option Nat} (he : exec i s = finish s t.core (vcRes t s op off v o)) (hp : p (BitVec.ofNat 1024 v))
    (hev : Posted t s (vecPost t s off 2 (32 + op) o) off 2 (32 + op) n ev) : VcGives i t s op off n ev p :=
  ⟨_, _, he, hp, hev⟩

end

/-! ### cvt (R286) -/

/-- The result of lane `i` of y. -/
def cvtLane (e : VcSet) (f d : Fmt) (y : Wide) (i : Nat) : Nat × Bool :=
  let r := convert (valueOf f (laneAt y f.width i) 0) d e.mode e.sat 0
  (r.code, r.event)

section
variable {t : WTrig} {s : State} {e : VcSet} {f d : Fmt} {a y : Wide}

theorem opVcCvt_legal (hf : (vcSet (vcM t s)).f = some f) (hd : (vcSet (vcM t s)).d = some d) (hfN : f.isN = false)
    (hdN : d.isN = false) (hh : (vcSet (vcM t s)).h < max f.width d.width / min f.width d.width) :
    opVcCvt t s = vcRes t s 0 5 (cvtLanes (vcSet (vcM t s)) f d (vcA t s) t.y).1 (cvtLanes (vcSet (vcM t s)) f d (vcA t s) t.y).2 := by
  simp only [opVcCvt, hf, hd]
  exact if_neg (by simp [hfN, hdN, hh])

theorem opVcCvt_scaled (hf : (vcSet (vcM t s)).f = some f) (hd : (vcSet (vcM t s)).d = some d) (h : f.isN = true ∨ d.isN = true) :
    opVcCvt t s = .trap (trapIllegal t.slot) := by
  simp only [opVcCvt, hf, hd]
  exact if_pos (by rcases h with h | h <;> simp [h])

theorem cvtLanes_narrow (h : d.width ≤ f.width) : cvtLanes e f d a y =
    (inserted a (e.h * (1024 / f.width) * d.width) d.width (1024 / f.width) (fun l => (cvtLane e f d y l).1),
      (firstEvent ((span 0 (1024 / f.width)).map (cvtLane e f d y))).map (· + 0)) := by
  simp only [cvtLanes, max_eq_left h, decide_eq_true h, if_true, List.map_map, inserted, Nat.mul_comm d.width]
  rfl

theorem cvtLanes_widen (h : f.width < d.width) : cvtLanes e f d a y =
    (packList d.width ((span (e.h * (1024 / d.width)) (1024 / d.width)).map (fun l => (cvtLane e f d y l).1)),
      (firstEvent ((span (e.h * (1024 / d.width)) (1024 / d.width)).map (cvtLane e f d y))).map
        (· + e.h * (1024 / d.width))) := by
  simp only [cvtLanes, max_eq_right h.le, decide_eq_false (Nat.not_le.mpr h), Bool.false_eq_true, if_false, List.map_map]
  rfl

/-- The parts of a narrowing conversion lie in the register. -/
theorem part_fits {h w v : Nat} (hle : v ≤ w) (hh : h < max w v / min w v) : (h + 1) * (1024 / w) * v ≤ 1024 := by
  rw [max_eq_left hle, min_eq_right hle] at hh
  calc (h + 1) * (1024 / w) * v ≤ w / v * (1024 / w) * v := Nat.mul_le_mul_right v (Nat.mul_le_mul_right _ hh)
    _ = w / v * v * (1024 / w) := by ring
    _ ≤ w * (1024 / w) := Nat.mul_le_mul_right _ (Nat.div_mul_le_self w v)
    _ ≤ 1024 := Nat.mul_div_le 1024 w

end

/-! ### pack, unpk and packs (R287, R288) -/

/-- The scaled code of lane `i` of y. -/
def packLane (e : VcSet) (f n : Fmt) (b y : Wide) (i : Nat) : Nat × Bool :=
  let r := convert (valueOf f (laneAt y f.width i) 0) n e.mode true (scaleAt e b (i / 32))
  (r.code, r.event)

/-- The float code of element `i` of the packed part `h` of y. -/
def unpackLane (e : VcSet) (n f : Fmt) (b y : Wide) (i : Nat) : Nat × Bool :=
  let p := (e.h * laneCount f.width + i) * n.width
  let r := convert (valueOf n (fld y (p + n.width - 1) p) (scaleAt e b (i / 32))) f e.mode e.sat 0
  (r.code, r.event || reservedType n (bits (scaleAt e b (i / 32)) 7 6))

/-- The scale byte that packs computes for block `k`. -/
def blockByte (e : VcSet) (f n : Fmt) (y : Wide) (k : Nat) : Nat :=
  64 * e.ty + blockExp n e.ty ((span (32 * k) 32).map (fun i => floatVal f (laneAt y f.width i)))

section
variable {t : WTrig} {s : State} {e : VcSet} {f n : Fmt} {a b y : Wide}

/-- The lanes of a float format are whole blocks. -/
theorem blocksOf_mul (hf : f.isF = true) (w : Nat) : blocksOf f * (32 * w) = w * laneCount f.width := by
  have h : blocksOf f * 32 = laneCount f.width := by
    revert hf
    cases f <;> decide
  rw [← h]
  ring

theorem packLegal_fits (h : packLegal e f n = true) :
    f.isF = true ∧ e.h * laneCount f.width * n.width + n.width * laneCount f.width ≤ 1024 := by
  simp only [packLegal, Bool.and_eq_true, decide_eq_true_eq] at h
  obtain ⟨⟨⟨hf, -⟩, hfit⟩, -⟩ := h
  refine ⟨hf, ?_⟩
  rw [Nat.mul_assoc, blocksOf_mul hf] at hfit
  rw [part_end]
  linarith

theorem opVcPack_legal (hf : (vcSet (vcM t s)).f = some f) (hn : (vcSet (vcM t s)).d = some n)
    (h : packLegal (vcSet (vcM t s)) f n = true) : opVcPack t s =
      vcRes t s 1 5 (inserted (vcA t s) ((vcSet (vcM t s)).h * laneCount f.width * n.width) n.width (laneCount f.width)
        (fun l => (packLane (vcSet (vcM t s)) f n (vcB t s) t.y l).1))
        (firstEvent ((span 0 (laneCount f.width)).map (packLane (vcSet (vcM t s)) f n (vcB t s) t.y))) := by
  have hbase : (vcSet (vcM t s)).h * (n.width * laneCount f.width) = (vcSet (vcM t s)).h * laneCount f.width * n.width := by ring
  simp only [opVcPack, hf, hn, h, Bool.not_true, Bool.false_eq_true, if_false, blocksOf_mul (packLegal_fits h).1, hbase,
    List.map_map, inserted]
  rfl

theorem opVcUnpk_legal (hn : (vcSet (vcM t s)).f = some n) (hf : (vcSet (vcM t s)).d = some f)
    (h : packLegal (vcSet (vcM t s)) f n = true) : opVcUnpk t s =
      vcRes t s 3 5 (packList f.width ((span 0 (laneCount f.width)).map
        (fun l => (unpackLane (vcSet (vcM t s)) n f (vcB t s) t.y l).1)))
        (firstEvent ((span 0 (laneCount f.width)).map (unpackLane (vcSet (vcM t s)) n f (vcB t s) t.y))) := by
  have hbase : ∀ i, (vcSet (vcM t s)).h * (n.width * laneCount f.width) + n.width * i =
      ((vcSet (vcM t s)).h * laneCount f.width + i) * n.width := fun i => by ring
  simp only [opVcUnpk, hf, hn, h, Bool.not_true, Bool.false_eq_true, if_false, blocksOf_mul (packLegal_fits h).1, hbase,
    List.map_map]
  rfl

theorem opVcPacks_legal (hf : (vcSet (vcM t s)).f = some f) (hn : (vcSet (vcM t s)).d = some n) (hF : f.isF = true)
    (hN : n.isN = true) (hty : reservedType n (vcSet (vcM t s)).ty = false) (hsb : (vcSet (vcM t s)).sb + blocksOf f ≤ 128) :
    opVcPacks t s = vcRes t s 2 5 (inserted (vcA t s) (8 * (vcSet (vcM t s)).sb) 8 (blocksOf f)
      (blockByte (vcSet (vcM t s)) f n t.y)) none := by
  simp only [opVcPacks, hf, hn]
  exact if_neg (by simp [hF, hN, hty, hsb])

theorem blockExp_lt (n : Fmt) (ty : Nat) (vs : List Val) : blockExp n ty vs < 64 := by
  unfold blockExp
  cases h : List.find? _ _ with
  | none => decide
  | some e => exact (mem_span.mp (List.mem_of_find?_eq_some h)).2

theorem blockByte_lt (k : Nat) : blockByte (vcSet (vcM t s)) f n y k < 2 ^ 8 := by
  have hty : (vcSet (vcM t s)).ty < 2 ^ 2 := fld_lt_two_pow _ 25 24
  have := blockExp_lt n (vcSet (vcM t s)).ty ((span (32 * k) 32).map (fun i => floatVal f (laneAt y f.width i)))
  unfold blockByte
  omega

end

theorem vcConversions : Stmt.VcConversions := by
  intro t s x m a b h sb mode sat f d hf hd
  refine ⟨fun hfN hdN hh => ⟨fun hle => ?narrow, fun hlt => ?widen⟩, fun hN => ?scaled, fun hl => ?pack, fun hl => ?unpk,
    fun hF hN hty hsb => ?packs⟩
  case narrow =>
    have hop := congrArg (finish s t.core) (opVcCvt_legal hf hd hfN hdN hh)
    rw [cvtLanes_narrow hle] at hop
    have hfit := part_fits hle hh
    rw [max_eq_left hle]
    refine vcGives_of hop ⟨fun l hl => ?_, fun j hj hout => ?_⟩ ?_
    · have hpos : d.width * (h * (1024 / f.width) + l) = h * (1024 / f.width) * d.width + d.width * l := by ring
      rw [laneAt, hpos]
      exact fld_inserted (width_pos d) ((part_end ..).trans_le hfit) hl
    · exact getLsbD_inserted_outside hj (hout.imp_right (part_end ..).trans_le)
    · rw [show (fun o : Nat => o + 0) = id from rfl, Option.map_id]
      exact posted_lanes (cvtLane (vcSet (vcM t s)) f d t.y) _ t s 5 2 32
  case widen =>
    have hop := congrArg (finish s t.core) (opVcCvt_legal hf hd hfN hdN hh)
    rw [cvtLanes_widen hlt] at hop
    rw [max_eq_right hlt.le]
    refine vcGives_of hop (fun l hl => ?_) (posted_from t s 5 2 32)
    exact laneAt_packed (width_pos d) (mul_laneCount_le _) hl
  case scaled => exact congrArg (finish s t.core) (opVcCvt_scaled hf hd hN)
  case pack =>
    obtain ⟨-, hfit⟩ := packLegal_fits hl
    refine vcGives_of (congrArg (finish s t.core) (opVcPack_legal hf hd hl)) ⟨fun l hln => ?_, fun j hj hout => ?_⟩
      (posted_lanes _ _ t s 5 2 33)
    · have hpos : (h * (1024 / f.width) + l) * d.width = h * (1024 / f.width) * d.width + d.width * l := by ring
      rw [hpos]
      exact fld_inserted (width_pos d) hfit hln
    · exact getLsbD_inserted_outside hj (hout.imp_right (part_end ..).trans_le)
  case unpk =>
    refine vcGives_of (congrArg (finish s t.core) (opVcUnpk_legal hf hd hl)) (fun l hln => ?_) (posted_lanes _ _ t s 5 2 35)
    rw [laneAt_packed (width_pos d) (mul_laneCount_le _) hln, Nat.zero_add]
    rfl
  case packs =>
    have hfit : 8 * sb + 8 * blocksOf f ≤ 1024 := by
      have : sb + blocksOf f ≤ 128 := hsb
      omega
    refine vcGives_of (congrArg (finish s t.core) (opVcPacks_legal hf hd hF hN hty hsb)) ⟨fun k hk => ?_, fun j hout hj => ?_⟩
      (posted_none t s 5 2 34)
    · rw [Nat.mul_add 8 sb k]
      exact (fld_inserted (by decide) hfit hk).trans (Nat.mod_eq_of_lt (blockByte_lt k))
    · exact getLsbD_inserted_outside hj (by rwa [Nat.mul_add] at hout)

end Sys2Proof.Proofs
end

section
/-!
PROOFS. The order of values, the extreme lane, and the reductions and rearrangements of VC (O21).
-/
namespace Sys2Proof.Proofs

open Sys2Proof.Machine Sys2Proof.Laws Sys2Proof.Stmt

/-! ### The order of values (R280) -/

/-- The rational number of a finite value. -/
def ratOf (v : Val) : ℚ := v.dyadic.1 * 2 ^ v.dyadic.2

/-- The place of a value in the order of R280: infinities at the ends, −0 below +0. -/
def rank (v : Val) : ℤ ×ₗ ℚ ×ₗ ℕ :=
  toLex (if v.isInf then (if v.neg? then -1 else 1) else 0, toLex (ratOf v, if v = .zero false then 1 else 0))

/-- The values of codes: no NaN, and a magnitude that is a positive dyadic number. -/
def Ordinary : Val → Prop
  | .nan => False
  | .num _ (.dy m _) => m ≠ 0
  | .num _ _ => False
  | .inf _ => True
  | .zero _ => True

theorem ratOf_inf (n : Bool) : ratOf (.inf n) = 0 := by simp [ratOf, Val.dyadic]

theorem ratOf_zero (n : Bool) : ratOf (.zero n) = 0 := by simp [ratOf, Val.dyadic]

theorem ratOf_num_ne_zero {n : Bool} {m : Nat} {e : Int} (hm : m ≠ 0) : ratOf (.num n (.dy m e)) ≠ 0 := by
  have hpow : (2 : ℚ) ^ e ≠ 0 := zpow_ne_zero e two_ne_zero
  cases n <;> simp [ratOf, Val.dyadic, hm, hpow]

theorem dyadic_scaled (d e k : Int) (h : k ≤ e) : ((d * 2 ^ (e - k).toNat : Int) : ℚ) * 2 ^ k = d * 2 ^ e := by
  push_cast
  rw [mul_assoc, ← zpow_natCast, Int.toNat_of_nonneg (by omega), ← zpow_add₀ two_ne_zero, Int.sub_add_cancel]

/-- The exact difference of two dyadic numbers is negative where the first is the smaller. -/
theorem dyAdd_neg_iff (x z : Val) : (dyAdd x.dyadic (-z.dyadic.1, z.dyadic.2)).1 < 0 ↔ ratOf x < ratOf z := by
  have hpow : (0 : ℚ) < 2 ^ (min x.dyadic.2 z.dyadic.2) := by positivity
  have hx := dyadic_scaled x.dyadic.1 x.dyadic.2 _ (min_le_left x.dyadic.2 z.dyadic.2)
  have hz := dyadic_scaled z.dyadic.1 z.dyadic.2 _ (min_le_right x.dyadic.2 z.dyadic.2)
  rw [ratOf, ratOf, ← hx, ← hz, mul_lt_mul_iff_left₀ hpow, Int.cast_lt, dyAdd, neg_mul, ← sub_eq_add_neg, sub_lt_zero]

theorem rank_lt_iff (x z : Val) : rank x < rank z ↔
    (if x.isInf then (if x.neg? then -1 else 1) else 0 : ℤ) < (if z.isInf then (if z.neg? then -1 else 1) else 0) ∨
    (if x.isInf then (if x.neg? then -1 else 1) else 0 : ℤ) = (if z.isInf then (if z.neg? then -1 else 1) else 0) ∧
      (ratOf x < ratOf z ∨ ratOf x = ratOf z ∧ (if x = .zero false then 1 else 0) < (if z = .zero false then 1 else 0)) := by
  simp only [rank, Prod.Lex.toLex_lt_toLex]

/-- The comparison of values is their order. -/
theorem valLt_iff_rank {x z : Val} (hx : Ordinary x) (hz : Ordinary z) : valLt x z = true ↔ rank x < rank z := by
  rw [rank_lt_iff]
  match x, z, hx, hz with
  | .inf a, .inf b, _, _ => cases a <;> cases b <;> simp [valLt, Val.isInf, Val.neg?, ratOf_inf]
  | .inf a, .zero b, _, _ => cases a <;> simp [valLt, Val.isInf, Val.neg?]
  | .inf a, .num n (.dy m e), _, _ => cases a <;> simp [valLt, Val.isInf, Val.neg?]
  | .zero a, .inf b, _, _ => cases b <;> simp [valLt, Val.isInf, Val.neg?]
  | .num n (.dy m e), .inf b, _, _ => cases b <;> simp [valLt, Val.isInf, Val.neg?]
  | .zero a, .zero b, _, _ => cases a <;> cases b <;> simp [valLt, Val.isInf, ratOf_zero]
  | .zero a, .num n (.dy m e), _, hm =>
    have hne := ratOf_num_ne_zero (n := n) (e := e) hm
    simp [valLt, Val.isInf, dyAdd_neg_iff, ratOf_zero, hne.symm]
  | .num n (.dy m e), .zero b, hm, _ =>
    have hne := ratOf_num_ne_zero (n := n) (e := e) hm
    simp [valLt, Val.isInf, dyAdd_neg_iff, ratOf_zero, hne]
  | .num n (.dy m e), .num n' (.dy m' e'), _, _ => simp [valLt, Val.isInf, dyAdd_neg_iff]

theorem valLt_eq {x z : Val} (hx : Ordinary x) (hz : Ordinary z) : valLt x z = decide (rank x < rank z) :=
  Bool.eq_iff_iff.mpr ((valLt_iff_rank hx hz).trans decide_eq_true_iff.symm)

theorem ordinary_ofDy (n : Bool) (m : Nat) (e : Int) : Ordinary (Val.ofDy n m e) := by
  unfold Val.ofDy
  split
  next => trivial
  next h => exact h

theorem ordinary_floatVal {f : Fmt} {code : Nat} (h : (floatVal f code).isNan = false) : Ordinary (floatVal f code) := by
  unfold floatVal at h ⊢
  dsimp only at h ⊢
  split at h
  next htop =>
    rw [if_pos htop]
    split at h
    next hinf => rw [if_pos hinf]; trivial
    next => exact absurd h Bool.noConfusion
  next htop =>
    rw [if_neg htop]
    split <;> exact ordinary_ofDy ..

/-! ### Integers as values (R51) -/

theorem ratOf_ofInt (x : Int) : ratOf (Val.ofInt x) = x := by
  unfold Val.ofInt Val.ofDy
  split
  next h => rw [ratOf_zero, Int.natAbs_eq_zero.mp h, Int.cast_zero]
  next => rcases lt_or_ge x 0 with hx | hx <;> simp [ratOf, Val.dyadic, hx, not_lt.mpr, abs_of_neg, abs_of_nonneg]

theorem ofInt_not_inf (x : Int) : (Val.ofInt x).isInf = false := by
  unfold Val.ofInt Val.ofDy
  split <;> rfl

theorem ofInt_not_nan (x : Int) : (Val.ofInt x).isNan = false := by
  unfold Val.ofInt Val.ofDy
  split <;> rfl

theorem ordinary_ofInt (x : Int) : Ordinary (Val.ofInt x) := ordinary_ofDy ..

theorem valLt_ofInt (x y : Int) : valLt (Val.ofInt x) (Val.ofInt y) = decide (x < y) := by
  refine Bool.eq_iff_iff.mpr ((valLt_iff_rank (ordinary_ofInt x) (ordinary_ofInt y)).trans ?_)
  rw [rank_lt_iff, ofInt_not_inf, ofInt_not_inf, ratOf_ofInt, ratOf_ofInt, Int.cast_lt, Int.cast_inj, decide_eq_true_iff]
  constructor
  · rintro (h | ⟨-, h | ⟨rfl, h⟩⟩)
    · exact absurd h (lt_irrefl _)
    · exact h
    · exact absurd h (lt_irrefl _)
  · exact fun h => .inr ⟨rfl, .inl h⟩

theorem valueOf_int {f : Fmt} (h : f.isInt = true) (c : Nat) : valueOf f c 0 = Val.ofInt (laneInt f c) := by
  have hkind : f.isFloat = false ∧ f.isN = false := by
    revert h
    cases f <;> decide
  obtain ⟨hfloat, hN⟩ := hkind
  rw [valueOf, if_neg (by simp [hfloat]), if_neg (by simp [hN]), laneInt]
  split <;> rfl

theorem valueOf_float {f : Fmt} (h : f.isF = true) (c : Nat) : valueOf f c 0 = floatVal f c := if_pos (isFloat_of_isF h).1

/-! ### The extreme lane (R289) -/

section
variable {α : Type} [LinearOrder α] {better : Val → Val → Bool} {val : Nat → Val} {key : Nat → α} {n : Nat}

/-- The search keeps the first of the best lanes that it has passed. -/
theorem extreme_from (hb : ∀ i, i < n → ∀ j, j < n → better (val i) (val j) = decide (key j < key i)) {m i best : Nat} (hn : i + m = n)
    (hi : best < i) (hmax : ∀ j, j < i → key j ≤ key best) (hlow : ∀ j, j < best → key j < key best) :
    let k := extreme better i best (val best) ((span i m).map val)
    k < n ∧ (∀ j, j < n → key j ≤ key k) ∧ ∀ j, j < k → key j < key k := by
  induction m generalizing i best with
  | zero =>
    obtain rfl : i = n := hn
    exact ⟨hi, hmax, hlow⟩
  | succ m ih =>
    rw [span, List.map_cons, extreme, hb i (by omega) best (by omega)]
    by_cases hlt : key best < key i
    · rw [if_pos (decide_eq_true hlt)]
      refine ih (by omega) (Nat.lt_succ_self i) (fun j hj => ?_) fun j hj => (hmax j hj).trans_lt hlt
      rcases Nat.lt_succ_iff_lt_or_eq.mp hj with hj | rfl
      · exact ((hmax j hj).trans_lt hlt).le
      · exact le_rfl
    · rw [if_neg (by simpa using hlt)]
      refine ih (by omega) (by omega) (fun j hj => ?_) hlow
      rcases Nat.lt_succ_iff_lt_or_eq.mp hj with hj | rfl
      · exact hmax j hj
      · exact not_lt.mp hlt

/-- The search ends at the first lane that none exceeds. -/
theorem extreme_first (hn : 0 < n) (hb : ∀ i, i < n → ∀ j, j < n → better (val i) (val j) = decide (key j < key i)) :
    let k := extreme better 1 0 (val 0) ((span 1 (n - 1)).map val)
    k < n ∧ (∀ j, j < n → key j ≤ key k) ∧ ∀ j, j < k → key j < key k :=
  extreme_from hb (by omega) Nat.one_pos (fun j hj => by rw [Nat.lt_one_iff.mp hj]) fun j hj => absurd hj (Nat.not_lt_zero j)

end

section
variable {t : WTrig} {s : State} {op : Nat} {better : Val → Val → Bool} {f : Fmt}

theorem laneCount_pos (f : Fmt) : 0 < laneCount f.width := by cases f <;> decide

theorem lanes_split {α : Type} (f : Fmt) (g : Nat → α) :
    (span 0 (laneCount f.width)).map g = g 0 :: (span 1 (laneCount f.width - 1)).map g := by
  obtain ⟨k, hk⟩ := Nat.exists_eq_succ_of_ne_zero (laneCount_pos f).ne'
  rw [hk]
  rfl

/-- The index of the extreme lane of y. -/
def extremeLane (better : Val → Val → Bool) (f : Fmt) (y : Wide) : Nat :=
  extreme better 1 0 (valueOf f (laneAt y f.width 0) 0)
    ((span 1 (laneCount f.width - 1)).map (fun l => valueOf f (laneAt y f.width l) 0))

theorem extremeLane_first {α : Type} [LinearOrder α] {key : Nat → α} {y : Wide}
    (hb : ∀ i, i < laneCount f.width → ∀ j, j < laneCount f.width →
      better (valueOf f (laneAt y f.width i) 0) (valueOf f (laneAt y f.width j) 0) = decide (key j < key i)) :
    extremeLane better f y < laneCount f.width ∧ (∀ j, j < laneCount f.width → key j ≤ key (extremeLane better f y)) ∧
      ∀ j, j < extremeLane better f y → key j < key (extremeLane better f y) :=
  extreme_first (val := fun l => valueOf f (laneAt y f.width l) 0) (laneCount_pos f) hb

theorem vcExtreme_nan (hf : (vcSet (vcM t s)).f = some f) (hF : f.isF = true) {i : Nat} (hi : i < laneCount f.width)
    (hnan : (floatVal f (laneAt t.y f.width i)).isNan = true)
    (hfirst : ∀ j, j < i → (floatVal f (laneAt t.y f.width j)).isNan = false) :
    vcExtreme t s op better = vcScalar t s op 6 (wordN (i * 2 ^ 32 + 0x7FC00000)) none := by
  have hidx : ((span 0 (laneCount f.width)).map (fun l => valueOf f (laneAt t.y f.width l) 0)).findIdx? Val.isNan = some i := by
    simp only [valueOf_float hF]
    exact findIdx?_lanes_some (Nat.zero_le i) (by rwa [Nat.zero_add]) hnan fun j _ hj => hfirst j hj
  simp only [vcExtreme, hf, hF, Bool.true_or, Bool.not_true, Bool.false_eq_true, if_false, List.map_map, Function.comp_def, hidx]

theorem vcExtreme_lane (hf : (vcSet (vcM t s)).f = some f) (hok : f.isF = true ∨ f.isInt = true ∧ f.width ≠ 64)
    (hnan : ∀ j, j < laneCount f.width → (valueOf f (laneAt t.y f.width j) 0).isNan = false)
    (hk : extremeLane better f t.y < laneCount f.width) :
    vcExtreme t s op better = vcScalar t s op 6 (wordN (extremeLane better f t.y * 2 ^ 32 +
      (if f.isF then widen f (laneAt t.y f.width (extremeLane better f t.y))
        else wrapw (laneInt f (laneAt t.y f.width (extremeLane better f t.y))) 32))) none := by
  have hidx : ((span 0 (laneCount f.width)).map (fun l => valueOf f (laneAt t.y f.width l) 0)).findIdx? Val.isNan = none :=
    findIdx?_lanes_none fun l _ hl => hnan l (by rwa [Nat.zero_add] at hl)
  have hlegal : (!(f.isF || (f.isInt && f.width != 64))) = false := by
    rcases hok with h | ⟨hI, hw⟩
    · simp [h]
    · simp [hI, hw]
  have hlane : ((span 0 (laneCount f.width)).map (laneAt t.y f.width)).getD (extremeLane better f t.y) 0 =
      laneAt t.y f.width (extremeLane better f t.y) := by
    rw [List.getD_eq_getElem?_getD, List.getElem?_map, span_eq_range', List.getElem?_range' hk, Nat.zero_add, Nat.one_mul]
    rfl
  have hsplit := lanes_split f (fun l => valueOf f (laneAt t.y f.width l) 0)
  simp only [vcExtreme, hf, hlegal, Bool.false_eq_true, if_false, List.map_map, Function.comp_def, hidx]
  rw [hsplit]
  exact congrArg (fun c => vcScalar t s op 6 (wordN (extremeLane better f t.y * 2 ^ 32 + (if f.isF then widen f c
    else wrapw (laneInt f c) 32))) none) hlane

theorem vcExtreme_illegal (hf : (vcSet (vcM t s)).f = some f) (hN : f.isN = true) :
    vcExtreme t s op better = .trap (trapIllegal t.slot) := by
  have hlegal : (!(f.isF || (f.isInt && f.width != 64))) = true := by
    revert hN
    cases f <;> decide
  simp only [vcExtreme, hf]
  exact if_pos hlegal

end

/-! ### Sums (R289, R291) -/

section
variable {t : WTrig} {s : State} {f : Fmt}

theorem wordN_wrapw (x : Int) : wordN (wrapw x 64) = BitVec.ofInt 64 x := by
  refine BitVec.eq_of_toNat_eq ?_
  rw [wordN, BitVec.toNat_ofNat, BitVec.toNat_ofInt, Nat.mod_eq_of_lt (wrapw_lt x 64)]
  rfl

theorem isF_not_int (h : f.isInt = true) : f.isF = false := by
  revert h
  cases f <;> decide

/-- The sum of integer lanes. -/
def intSum (f : Fmt) (y : Wide) : Int := ((span 0 (laneCount f.width)).map (fun l => laneInt f (laneAt y f.width l))).sum

/-- The 64-bit format in which integer lanes are summed. -/
def sumFmt (f : Fmt) : Fmt := if f.isS then .s64 else .w64

theorem opVcRsum_int (hf : (vcSet (vcM t s)).f = some f) (hI : f.isInt = true) : opVcRsum t s =
    vcScalar t s 4 6 (wordN (laneWrap ⟨sumFmt f, 0, (vcSet (vcM t s)).sat⟩ (intSum f t.y)).1)
      (if (laneWrap ⟨sumFmt f, 0, (vcSet (vcM t s)).sat⟩ (intSum f t.y)).2 then some 0 else none) := by
  simp only [opVcRsum, hf, isF_not_int hI, hI, Bool.false_eq_true, if_false, if_true, List.map_map]
  rfl

theorem width_sumFmt (f : Fmt) : (sumFmt f).width = 64 := by
  unfold sumFmt
  split <;> rfl

theorem intRange_sumFmt (f : Fmt) :
    intRange (sumFmt f) = (if f.isS = true then -(2 ^ 63) else 0, if f.isS = true then 2 ^ 63 - 1 else 2 ^ 64 - 1) := by
  unfold sumFmt
  split <;> rfl

theorem opVcRsum_wraps (hf : (vcSet (vcM t s)).f = some f) (hI : f.isInt = true) (hsat : (vcSet (vcM t s)).sat = false) :
    opVcRsum t s = vcScalar t s 4 6 (BitVec.ofInt 64 (intSum f t.y)) none := by
  rw [opVcRsum_int hf hI, laneWrap_eq, hsat, if_neg Bool.false_ne_true, width_sumFmt, wordN_wrapw]
  rfl

theorem opVcRsum_saturates (hf : (vcSet (vcM t s)).f = some f) (hI : f.isInt = true) (hsat : (vcSet (vcM t s)).sat = true) :
    opVcRsum t s = vcScalar t s 4 6
      (BitVec.ofInt 64 (max (intRange (sumFmt f)).1 (min (intRange (sumFmt f)).2 (intSum f t.y))))
      (if intSum f t.y < (intRange (sumFmt f)).1 ∨ (intRange (sumFmt f)).2 < intSum f t.y then some 0 else none) := by
  rw [opVcRsum_int hf hI, laneWrap_eq, hsat, if_pos rfl, width_sumFmt, wordN_wrapw]
  simp only [decide_eq_true_eq]

theorem opVcRsum_float (hf : (vcSet (vcM t s)).f = some f) (hF : f.isF = true) : opVcRsum t s =
    vcScalar t s 4 6 (wordN (sumTree (vcSet (vcM t s)).mode (vcSet (vcM t s)).sat 0
      ((span 0 (laneCount f.width)).map (fun l => widen f (laneAt t.y f.width l))) 8).1)
      (sumTree (vcSet (vcM t s)).mode (vcSet (vcM t s)).sat 0
      ((span 0 (laneCount f.width)).map (fun l => widen f (laneAt t.y f.width l))) 8).2 := by
  simp only [opVcRsum, hf, hF, if_true, List.map_map]
  rfl

theorem opVcRsum_scaled (hf : (vcSet (vcM t s)).f = some f) (hN : f.isN = true) : opVcRsum t s = .trap (trapIllegal t.slot) := by
  have h : f.isF = false ∧ f.isInt = false := by
    revert hN
    cases f <;> decide
  simp only [opVcRsum, hf, h.1, h.2, Bool.false_eq_true, if_false]

end

/-! ### Rearrangements (R290) -/

section
variable {t : WTrig} {s : State} {i : Instr} {op w : Nat} {f : Fmt} {g : Nat → Nat} {k : VcSet → Fmt → Res}

theorem rearrange_legal (hf : (vcSet (vcM t s)).f = some f) (hN : f.isN = false) : rearrange t s k = k (vcSet (vcM t s)) f := by
  simp only [rearrange, hf, hN, Bool.false_eq_true, if_false]

theorem rearrange_scaled (hf : (vcSet (vcM t s)).f = some f) (hN : f.isN = true) : rearrange t s k = .trap (trapIllegal t.slot) := by
  simp only [rearrange, hf, hN, if_true]

/-- Lanes moved by index stand in VC.r, without an event. -/
theorem vcGives_arranged {r : Res} (he : exec i s = finish s t.core r) (hr : r = vcArrange t s op w g) (hw : 0 < w)
    (hg : ∀ l, g l < 2 ^ w) : VcGives i t s op 3 0 (fun _ => false) (fun v => ∀ l, l < 1024 / w → laneAt v w l = g l) := by
  rw [hr] at he
  refine vcGives_of he (fun l hl => ?_) (posted_none t s 3 2 (32 + op))
  rw [laneAt_packed hw (mul_laneCount_le w) hl, Nat.zero_add, Nat.mod_eq_of_lt (hg l)]

theorem lane2_lt (hw : 0 < w) (l : Nat) : lane2 t s w l < 2 ^ w := by
  unfold lane2
  split <;> exact laneAt_lt _ hw _

theorem getLsbD_mergeMask (b : Wide) {j : Nat} (hj : j < 1024) : (mergeMask b).getLsbD j = b.getLsbD (j / 8) := by
  rw [mergeMask, BitVec.getLsbD_ofNat, testBit_unitMask (w := 8) (k := 0xFF) (by decide) (flag b) 128 j rfl]
  simp [hj, flag]

end

/-! ### The statement -/

section
variable {t : WTrig} {s : State} {f : Fmt}

theorem vcScalar_gives {i : Instr} {r : Res} {op off : Nat} {v : Word} {ev : Option Nat} (he : exec i s = finish s t.core r)
    (hr : r = vcScalar t s op off v ev) :
    Gives i s (planned (vecPost t s off 2 (32 + op) ev) t.core off rReg (.lat lVCs v)) :=
  he.trans (congrArg (finish s t.core) hr)

theorem vcWord_of {i : Instr} {r : Res} {op off : Nat} {v : Word} {p : Word → Prop} (he : exec i s = finish s t.core r)
    (hr : r = vcScalar t s op off v none) (hp : p v) : VcWord i t s off p := ⟨v, vcScalar_gives he hr, hp⟩

theorem vcMerge_gives : VcGives (.vcMerge t) t s 13 3 0 (fun _ => false)
    (fun v => ∀ j, j < 1024 → v.getLsbD j = if (vcB t s).getLsbD (j / 8) then t.y.getLsbD j else (vcA t s).getLsbD j) := by
  refine vcGives_of (rfl : _ = finish s t.core (opVcMerge t s)) (fun j hj => ?_) (posted_none t s 3 2 45)
  rw [BitVec.ofNat_toNat, BitVec.setWidth_eq, getLsbD_select _ _ _ hj, getLsbD_mergeMask _ hj]

/-- The extreme of integer lanes, `key` being the order that the comparison decides. -/
theorem vcExtreme_int {α : Type} [LinearOrder α] {i : Instr} {op : Nat} {better : Val → Val → Bool} {key : Int → α}
    (he : exec i s = finish s t.core (vcExtreme t s op better)) (hf : (vcSet (vcM t s)).f = some f) (hI : f.isInt = true)
    (hw : f.width ≠ 64) (hb : ∀ x y, better (Val.ofInt x) (Val.ofInt y) = decide (key y < key x)) :
    VcWord i t s 6 (fun v => ∃ k, k < laneCount f.width ∧
      v = wordN (k * 2 ^ 32 + wrapw (laneInt f (laneAt t.y f.width k)) 32) ∧
      (∀ j, j < laneCount f.width → key (laneInt f (laneAt t.y f.width j)) ≤ key (laneInt f (laneAt t.y f.width k))) ∧
      ∀ j, j < k → key (laneInt f (laneAt t.y f.width j)) < key (laneInt f (laneAt t.y f.width k))) := by
  obtain ⟨hk, hmax, hlow⟩ := extremeLane_first (better := better) (f := f) (y := t.y)
    (key := fun l => key (laneInt f (laneAt t.y f.width l))) fun x _ y _ => by rw [valueOf_int hI, valueOf_int hI, hb]
  refine ⟨_, ?_, _, hk, rfl, hmax, hlow⟩
  rw [Gives, he, vcExtreme_lane hf (.inr ⟨hI, hw⟩) (fun j _ => by rw [valueOf_int hI]; exact ofInt_not_nan _) hk,
    if_neg (by simp [isF_not_int hI])]
  rfl

/-- The extreme of float lanes without a NaN, where the comparison follows their order or the reverse of it. -/
theorem vcExtreme_float {α : Type} [LinearOrder α] {i : Instr} {op : Nat} {better : Val → Val → Bool} {key : Val → α}
    (he : exec i s = finish s t.core (vcExtreme t s op better)) (hf : (vcSet (vcM t s)).f = some f) (hF : f.isF = true)
    (hnan : ∀ j, j < laneCount f.width → (floatVal f (laneAt t.y f.width j)).isNan = false)
    (hb : ∀ x y, Ordinary x → Ordinary y → better x y = decide (key y < key x)) :
    VcWord i t s 6 (fun v => ∃ k, k < laneCount f.width ∧ v = wordN (k * 2 ^ 32 + widen f (laneAt t.y f.width k)) ∧
      (∀ j, j < laneCount f.width → better (floatVal f (laneAt t.y f.width j)) (floatVal f (laneAt t.y f.width k)) = false) ∧
      ∀ j, j < k → better (floatVal f (laneAt t.y f.width k)) (floatVal f (laneAt t.y f.width j)) = true) := by
  have horder : ∀ i, i < laneCount f.width → ∀ j, j < laneCount f.width →
      better (floatVal f (laneAt t.y f.width i)) (floatVal f (laneAt t.y f.width j)) =
        decide (key (floatVal f (laneAt t.y f.width j)) < key (floatVal f (laneAt t.y f.width i))) :=
    fun i hi j hj => hb _ _ (ordinary_floatVal (hnan i hi)) (ordinary_floatVal (hnan j hj))
  obtain ⟨hk, hmax, hlow⟩ := extremeLane_first (better := better) (f := f) (y := t.y)
    (key := fun l => key (floatVal f (laneAt t.y f.width l)))
    fun i hi j hj => by rw [valueOf_float hF, valueOf_float hF, horder i hi j hj]
  refine ⟨_, ?_, _, hk, rfl, fun j hj => ?_, fun j hj => ?_⟩
  · rw [Gives, he, vcExtreme_lane hf (.inl hF) (fun j hj => by rw [valueOf_float hF]; exact hnan j hj) hk, if_pos hF]
    rfl
  · rw [horder j hj _ hk]
    exact decide_eq_false (not_lt.mpr (hmax j hj))
  · rw [horder _ hk j (hj.trans hk)]
    exact decide_eq_true (hlow j hj)

end

theorem vcReduceRearrange : Stmt.VcReduceRearrange := by
  intro t s x m a b k h sat
  refine ⟨vcMerge_gives, fun f hf => ?_⟩
  intro w n y both lanes
  have hw : 0 < w := width_pos f
  have hlane (v : Wide) (i : Nat) : laneAt v w i < 2 ^ w := laneAt_lt v hw i
  have illegal {i : Instr} {r : Res} (he : exec i s = finish s t.core r) (hr : r = .trap (trapIllegal t.slot)) : Illegal i t s :=
    he.trans (congrArg (finish s t.core) hr)
  refine ⟨fun hN => ⟨?shuf, fun hk => ⟨?bcast, ?rot, ?lane⟩, fun hk => ⟨?bcastBad, ?rotBad, ?laneBad⟩, fun hh => ⟨?zip, ?unzip⟩,
    fun hh => ⟨?zipBad, ?unzipBad⟩⟩, fun hN => ?scaled, fun hI hsat => ?wrap, fun hI hsat => ?saturate, fun hF => ?floatSum,
    fun hI h64 => ⟨?intMax, ?intMin⟩, fun hF => ⟨fun i hi hnan hfirst => ⟨?nanMax, ?nanMin⟩, fun hnan => ⟨?floatMax, ?floatMin⟩⟩⟩
  case shuf => exact vcGives_arranged (r := opVcShuf t s) rfl (rearrange_legal hf hN) hw fun l => lane2_lt hw _
  case bcast =>
    exact vcGives_arranged (r := opVcBcast t s) rfl ((rearrange_legal hf hN).trans (if_neg (Nat.not_le.mpr hk))) hw
      fun l => hlane ..
  case rot =>
    exact vcGives_arranged (r := opVcRot t s) rfl ((rearrange_legal hf hN).trans (if_neg (Nat.not_le.mpr hk))) hw
      fun l => hlane ..
  case lane =>
    exact vcWord_of (r := opVcLane t s) rfl ((rearrange_legal hf hN).trans (if_neg (Nat.not_le.mpr hk))) rfl
  case bcastBad => exact illegal (r := opVcBcast t s) rfl ((rearrange_legal hf hN).trans (if_pos hk))
  case rotBad => exact illegal (r := opVcRot t s) rfl ((rearrange_legal hf hN).trans (if_pos hk))
  case laneBad => exact illegal (r := opVcLane t s) rfl ((rearrange_legal hf hN).trans (if_pos hk))
  case zip =>
    refine vcGives_arranged (r := opVcZip t s) rfl ((rearrange_legal hf hN).trans (if_neg (Nat.not_lt.mpr hh))) hw fun l => ?_
    dsimp only
    split <;> exact hlane ..
  case unzip =>
    exact vcGives_arranged (r := opVcUnzip t s) rfl ((rearrange_legal hf hN).trans (if_neg (Nat.not_lt.mpr hh))) hw
      fun l => lane2_lt hw _
  case zipBad => exact illegal (r := opVcZip t s) rfl ((rearrange_legal hf hN).trans (if_pos hh))
  case unzipBad => exact illegal (r := opVcUnzip t s) rfl ((rearrange_legal hf hN).trans (if_pos hh))
  case scaled =>
    simp only [List.mem_cons, List.not_mem_nil, or_false]
    rintro e (rfl | rfl | rfl | rfl | rfl | rfl | rfl | rfl | rfl)
    · exact illegal (r := opVcShuf t s) rfl (rearrange_scaled hf hN)
    · exact illegal (r := opVcBcast t s) rfl (rearrange_scaled hf hN)
    · exact illegal (r := opVcRot t s) rfl (rearrange_scaled hf hN)
    · exact illegal (r := opVcZip t s) rfl (rearrange_scaled hf hN)
    · exact illegal (r := opVcUnzip t s) rfl (rearrange_scaled hf hN)
    · exact illegal (r := opVcLane t s) rfl (rearrange_scaled hf hN)
    · exact illegal (r := opVcRsum t s) rfl (opVcRsum_scaled hf hN)
    · exact illegal (r := opVcRmax t s) rfl (vcExtreme_illegal hf hN)
    · exact illegal (r := opVcRmin t s) rfl (vcExtreme_illegal hf hN)
  case wrap => exact vcWord_of (r := opVcRsum t s) rfl (opVcRsum_wraps hf hI hsat) rfl
  case saturate =>
    have hop := opVcRsum_saturates (t := t) hf hI hsat
    rw [intRange_sumFmt] at hop
    refine ⟨_, vcScalar_gives (r := opVcRsum t s) rfl hop, fun hlo hhi => ?_, fun hout => ?_⟩
    · exact congrArg (vecPost t s 6 2 36) (if_neg (not_or.mpr ⟨not_lt.mpr hlo, not_lt.mpr hhi⟩))
    · exact congrArg (vecPost t s 6 2 36) (if_pos hout)
  case floatSum =>
    exact ⟨_, vcScalar_gives (r := opVcRsum t s) rfl (opVcRsum_float hf hF), congrArg (vecPost t s 6 2 36),
      fun l => congrArg (vecPost t s 6 2 36)⟩
  case intMax => exact vcExtreme_int (key := id) (better := fun v b => valLt b v) rfl hf hI h64 fun x y => valLt_ofInt y x
  case intMin => exact vcExtreme_int (key := OrderDual.toDual) (better := fun v b => valLt v b) rfl hf hI h64 fun x y => valLt_ofInt x y
  case nanMax => exact vcWord_of (r := opVcRmax t s) rfl (vcExtreme_nan hf hF hi hnan hfirst) rfl
  case nanMin => exact vcWord_of (r := opVcRmin t s) rfl (vcExtreme_nan hf hF hi hnan hfirst) rfl
  case floatMax =>
    exact vcExtreme_float (key := rank) (better := fun v b => valLt b v) rfl hf hF hnan fun x y hx hy => valLt_eq hy hx
  case floatMin =>
    exact vcExtreme_float (key := fun v => OrderDual.toDual (rank v)) (better := fun v b => valLt v b) rfl hf hF hnan
      fun x y hx hy => valLt_eq hx hy

/-- Settles O21: conversions and rearrangements pack one lane function, and the extreme lane is the first that none exceeds in the
order of values. -/
theorem vectorConversions : Obligations.VectorConversions := ⟨vcConversions, vcReduceRearrange⟩

end Sys2Proof.Proofs
end
